-- ==== Sys2Proof/Word.lean ====
section
/-!
DEFINITION. The plain words of the model: a byte, and a string of bytes as a command or a buffer carries it.
Register contents, addresses, counts and times are natural numbers bounded where they are stored (Machine/Ops.lean);
data that software reads byte by byte is a list of bytes.
-/
namespace Sys2Proof

/-- One byte. -/
abbrev Byte := BitVec 8

/-- A string of bytes, first byte at the lowest address. -/
abbrev Bytes := List Byte

end Sys2Proof
end

