-- ==== Sys2Proof/Syntax.lean ====
section
/-!
DEFINITION. The commands the block takes: one constructor for each row of spec/opcode_table.json, in its order, with the operands
that the rule of the row names. `src`, `req`, `fn` and the like are numbers as the spec numbers them; data that a
completion brings from outside the block (descriptors, frames, drive data) is an operand.
-/
namespace Sys2Proof

/-- What a PCIe configuration request does (R207, R212, R215, R390): reads, or writes one of the controls whose other direction has a
command of its own: sets Bus Master Enable, MSI-X Enable, sets Function Mask, sets VF Enable with NumVFs, returns the function to D0. -/
inductive ConfigOp where
  | read
  | busMaster
  | msixEnable (on : Bool)
  | functionMask
  | vfEnable (numVfs : Nat)
  | d0
  deriving DecidableEq, Repr

/-- What the boot finds outside the enclave (Table 15.3): each step's outcome, the two trainings of HBM (under the first stage of the
first slot tried and of the second), the levels of TAMPER_N (asserted) and of the straps (R444: bit 0 PCIE_SPLIT, 1 RECOVERY_EN, 2 PCIE_SRIS),
and the objects (index × 4096 + sub-index) whose value in MRAM fails its check (R357). -/
structure BootEnv where
  pll : Bool
  fuses : Bool
  selfTests : Bool
  flash : Bool
  hbm : Bool
  hbmAgain : Bool
  mram : Bool
  tamperN : Bool
  straps : Nat
  badObjs : List Nat
  deriving DecidableEq, Repr

/-- The commands (opcode_table.json). -/
inductive Instr where
  /-- REGISTER_WRITE (R457). A write to a register field that has no behaviour of its own stores the value under its field type, and ignored values leave only that field unchanged. -/
  | registerWrite (req : Nat) (addr : Nat) (value : Nat)
  /-- COUNTER_LOW_READ (R64). A read of the low word of a 64-bit counter latches its high word for that requester. -/
  | counterLowRead (req : Nat) (addr : Nat)
  /-- RC_READ (R9). A read of an RC field returns the value and clears only the value it returned. -/
  | rcRead (req : Nat) (addr : Nat) (landed : Nat)
  /-- ETICK_LO_READ (R29). A read of ETICK_LO returns the event tick count and latches ETICK_HI for that requester. -/
  | etickLoRead (req : Nat)
  /-- EVENT_TICK (R29). TIME generates an event tick every 8 ns, ETICK increments, and the same-tick events are ordered. -/
  | eventTick
  /-- VALUE_LACING_TRANSFER (R14). A value crosses between islands through a take-and-acknowledge handshake. -/
  | valueLacingTransfer (src : Nat) (dst : Nat) (value : Nat)
  /-- EVENT_LACING_OCCURRENCE (R20). An event offered to an event lacing is carried, or is lost with OVERRUN set and LC_LOST counted while an earlier event is untaken. -/
  | eventLacingOccurrence (ch : Nat)
  /-- GRP_RESET_REQUEST (R26). A GRP_RESET write requests a reset of one or more groups, or the request is refused under R27. -/
  | grpResetRequest (req : Nat) (value : Nat)
  /-- RSTC_LOCK (R27). Writing RSTC_LOCK locks GRP_RESET_ALLOW until cold reset. -/
  | rstcLock (req : Nat)
  /-- GROUP_RESET_START (R24). At the next tick boundary a group and its reset pairs enter reset, and every lacing crossing into it goes down. -/
  | groupResetStart (g : Nat)
  /-- GROUP_RESET_DONE (R28). A group and its reset pair ends leave reset, GRP_RESET_DONE sets, and the lacings come up. -/
  | groupResetDone (g : Nat)
  /-- PERST_ASSERT (R456). A recognised assertion of PERST_N or PERSTB_N resets G2, or under split form the functions of its link. -/
  | perstAssert (link : Nat)
  /-- PERST_DEASSERT (R456). A recognised deassertion of PERST_N or PERSTB_N lets G2 leave reset within 10 µs. -/
  | perstDeassert (link : Nat)
  /-- HBM_ACCESS (R39). A unit's HBM access is executed with symbol-code correction, or refused under R37 and logged. -/
  | hbmAccess (island : Nat) (addr : Nat) (write : Bool) (len : Nat) (data : Bytes) (ecc : Nat)
  /-- HBM_SCRUB (R39). The scrubber reads each HBM word once per HM_SCRUB period and writes back corrected words. -/
  | hbmScrub (addr : Nat) (ecc : Nat)
  /-- HBM_LAYOUT_REVERT (R38). The command sets the requested HBM area sizes back to the active sizes. -/
  | hbmLayoutRevert
  /-- LG_MODE_WRITE (R41). A write of LG_MODE sets a lane group's port mode, also setting the paired group, or is refused under R42. -/
  | lgModeWrite (req : Nat) (g : Nat) (mode : Nat)
  /-- PORT_ENABLE (R45). Setting ENABLE on a formed port moves it from OFF to SIGNAL. -/
  | portEnable (req : Nat) (p : Nat)
  /-- PORT_DISABLE (R45). Clearing ENABLE moves the port from any state to OFF. -/
  | portDisable (req : Nat) (p : Nat) (rxBusy : Bool)
  /-- LINK_SIGNAL_LOCK (R45). All lanes of a port gain signal and CDR lock, moving it to TRAIN or ALIGN. -/
  | linkSignalLock (p : Nat) (eye : Nat)
  /-- LINK_TRAIN_DONE (R45). Auto-negotiation or link training completes, moving the port to ALIGN. -/
  | linkTrainDone (p : Nat) (pre : Nat) (main : Nat) (post : Nat)
  /-- LINK_TRAIN_FAIL (R45). The training reports failure, returning the port to SIGNAL. -/
  | linkTrainFail (p : Nat)
  /-- LINK_TRAIN_TIMEOUT (R45). TRAIN lasts 500 ms without completion, returning the port to SIGNAL. -/
  | linkTrainTimeout (p : Nat)
  /-- LINK_ALIGN_LOCK (R45). All locks are held with HI_BER clear, moving the port to UP. -/
  | linkAlignLock (p : Nat)
  /-- LINK_FAULT (R45). A local or remote fault moves an UP port to FAULT. -/
  | linkFault (p : Nat) (remote : Bool) (rxBusy : Bool)
  /-- LINK_FAULT_CLEAR (R45). A fault clear for 1 ms returns the port from FAULT to UP. -/
  | linkFaultClear (p : Nat)
  /-- LINK_LOCK_LOSS (R45). Loss of a lock or high BER returns the port to ALIGN. -/
  | linkLockLoss (p : Nat) (hiBer : Bool) (rxBusy : Bool)
  /-- LINK_SIGNAL_LOSS (R45). Loss of signal or CDR lock returns the port to SIGNAL. -/
  | linkSignalLoss (p : Nat) (lane : Nat) (sig : Bool) (rxBusy : Bool)
  /-- FRAME_RECEIVE (R62). A frame received on a port is timestamped at the MDI, parsed, classified and given its class behaviour. -/
  | frameReceive (p : Nat) (raw : Bytes) (tDet : Nat) (e : Nat) (pos : Nat) (overflow : Bool) (off : Nat) (tEmit : Nat) (te : Nat) (tv : Nat)
  /-- MAC_CONTROL_FRAME (R52). A received PAUSE or PFC frame is counted, consumed and, under the selected FC setting, pauses its classes. -/
  | macControlFrame (p : Nat) (pfc : Bool) (classes : Nat) (quanta : List Nat)
  /-- PFC_PAUSE_EXPIRE (R53). The pause time of a class runs out and new frames of the class may start. -/
  | pfcPauseExpire (p : Nat) (c : Nat)
  /-- PFC_XOFF (R54). A class's ingress occupancy reaches PFC_XOFF and the port sends a PFC frame. -/
  | pfcXoff (p : Nat) (c : Nat) (occ : Nat)
  /-- PFC_REPEAT (R54). Half of the sent quanta elapse at or above PFC_XON and the PFC frame is repeated. -/
  | pfcRepeat (p : Nat) (c : Nat) (occ : Nat)
  /-- PFC_XON (R54). Occupancy falls below PFC_XON and the port sends quanta 0. -/
  | pfcXon (p : Nat) (c : Nat) (occ : Nat)
  /-- SNAP (R64). Writing PT_CNT_SNAP copies every port counter to the snapshot area in one event tick. -/
  | snap (req : Nat) (p : Nat)
  /-- TB_NOW_READ (R70). A read of TB_NOW0 latches the whole counter for that requester and returns its nanoseconds. -/
  | tbNowRead (req : Nat) (cycle : Nat)
  /-- SET (R71). The SET command loads TB_SET into the time base at the next tick boundary, unless refused under R72. -/
  | set (req : Nat)
  /-- STEP (R71). The STEP command adds TB_STEP_OFF to the counter at the next tick boundary, unless refused under R72. -/
  | step (req : Nat)
  /-- SLEW (R70). The SLEW command adds TB_STEP_OFF gradually at TB_SLEW_MAX, or is refused while SERVO_EN = 1. -/
  | slew (req : Nat)
  /-- HOLDOVER (R77). The HOLDOVER command puts the servo in HOLDOVER from ACQUIRING or LOCKED. -/
  | holdover (req : Nat)
  /-- CLEAR_INTEG (R80). The CLEAR_INTEG command sets INTEG to zero and TB_INCR to nominal, or is refused while SERVO_EN = 1. -/
  | clearInteg (req : Nat)
  /-- TB_CTRL_WRITE (R75). A TB_CTRL write enables the servo, selects its source or sets L1_SYNT, with their immediate effects. -/
  | tbCtrlWrite (req : Nat) (value : Nat)
  /-- SERVO_SAMPLE (R76). An accepted offset sample steps or slews the counter and updates INTEG and the servo state. -/
  | servoSample
  /-- TB_SW_OFFSET_SUBMIT (R79). A TB_SW_OFFSET_HI write submits a software sample with the requester's staged low word. -/
  | tbSwOffsetSubmit (req : Nat) (value : Nat)
  /-- SERVO_SOURCE_LOST (R78). No sample or PPS_IN edge arrives for the timeout, or the fabric reports no time path, and the servo enters FREE or HOLDOVER. -/
  | servoSourceLost
  /-- TB_INCR_COMMIT (R80). A TB_INCR_HI write commits a 64-bit TB_INCR, or is refused and sets INCR_REFUSED. -/
  | tbIncrCommit (req : Nat) (value : Nat)
  /-- MGMT_SPEED_RESOLVE (R84). SGMII auto-negotiation resolves a speed and the MGMT rate code changes. -/
  | mgmtSpeedResolve (speed : Nat)
  /-- CAL_USER_WRITE (R87). A user calibration value write takes effect for frames from the second tick after it, and TB_CAL_DIGEST is recomputed. -/
  | calUserWrite (req : Nat) (p : Nat) (which : Nat) (value : Nat)
  /-- TRIGGER_ARM (R91). Writing ARM = 1 arms a trigger, or is refused with ARM_REFUSED. -/
  | triggerArm (req : Nat) (n : Nat)
  /-- TRIGGER_DISARM (R91). Clearing ARM stops further fires of a trigger, letting a pulse in progress complete. -/
  | triggerDisarm (req : Nat) (n : Nat)
  /-- TRIGGER_FIRE (R90). An armed trigger reaches its fire time, raises a class 3 event and acts on its targets. -/
  | triggerFire (n : Nat)
  /-- TRIGGER_LATE_FIRE (R92). A trigger whose start or occurrences are already past fires once with LATE set at the next event tick, pulsing no pin. -/
  | triggerLateFire (n : Nat)
  /-- TRIG_OUT_PULSE_END (R90). A TRIG_OUT pulse ends after WIDTH TIME cycles. -/
  | trigOutPulseEnd (n : Nat)
  /-- PPS_OUT_SECOND (R93). At each whole second PPS_OUT rises, unless qualified low, and a class 3 event is raised. -/
  | ppsOutSecond
  /-- PPS_OUT_PULSE_END (R93). PPS_OUT falls after PPS_OUT_WIDTH. -/
  | ppsOutPulseEnd
  /-- TS_IN_CAPTURE (R94). A selected edge at a TS_IN ball is timestamped, delays removed, and stored in the FIFO or counted lost. -/
  | tsInCapture (n : Nat) (rising : Bool) (cycle : Nat) (sub : Nat)
  /-- PPS_IN_EDGE (R94). A PPS_IN edge is captured as a class 3 event and feeds the servo when SRC = 1. -/
  | ppsInEdge (rising : Bool) (cycle : Nat) (sub : Nat)
  /-- TS_HEAD_POP (R94). A read of TS_HEAD0 pops the oldest capture and latches TS_HEAD1–3 for that requester. -/
  | tsHeadPop (req : Nat) (c : Nat)
  /-- ENROLMENT (R97). A frame of a sequenced class on an enrolled port reaches Stitch and is placed in its tick. -/
  | enrolment (p : Nat)
  /-- SEQ_TICK_CLOSE (R101). Stitch closes a sequencing tick once every unpassed watermark reaches its end plus the guard, and assigns GSNs. -/
  | seqTickClose
  /-- SEQ_SOURCE_STALL (R103). A tick stays open for SQ_STALL_LIMIT behind a source, which is declared stalled and the tick closed. -/
  | seqSourceStall
  /-- START (R105). The START command begins sequencing at the next tick boundary, latching configuration and a new journal epoch, or is refused. -/
  | start (req : Nat)
  /-- STOP (R105). The STOP command sets the stop boundary and moves the sequencer to STOPPING, or is refused in STOPPED. -/
  | stop (req : Nat)
  /-- SEQ_SUMMARY_RESEND (R110). A member resends a summary every 10 µs until its reply arrives. -/
  | seqSummaryResend (t : Nat)
  /-- SEQ_SUMMARY (R110). The root receives a member's summary and, once it has all summaries of a tick, orders the batches and replies with GSN bases. -/
  | seqSummary (payload : Bytes)
  /-- SEQ_CL_TIMEOUT (R111). The root closes a tick without a member whose summary is missing after SQ_CL_TIMEOUT and marks it absent. -/
  | seqClTimeout
  /-- SEQ_REPLY (R110). A member receives the root's reply and assigns GSNs to its sources' frames of the tick. -/
  | seqReply (payload : Bytes)
  /-- CLUSTER_LOST (R111). A member receives no reply within 2 × SQ_CL_TIMEOUT and enters CLUSTER_LOST. -/
  | clusterLost
  /-- JOURNAL_RECORD (R116). Hide takes a sequenced record from Stitch's FIFO, codes it, hashes it into the block, and closes the block at 1,024 records. -/
  | journalRecord
  /-- SEAL_PERIOD (R117). HD_SEAL_PERIOD or HD_SEAL_RECORDS is reached and Hide closes the block and writes a seal for signing. -/
  | sealPeriod
  /-- SEAL_SIGNED (R117). The enclave completes a seal's Ed448 signature, the seal counter rises, and the seal is stored and drained. -/
  | sealSigned (readBack : Bool)
  /-- JOURNAL_SPACE_RETURN (R119). Free ring space reaches 4 MiB, Stitch returns to RUNNING or Hide writes a gap record. -/
  | journalSpaceReturn
  /-- HIDE_REBUILD (R120). After a G7 reset Hide re-reads and re-hashes records from the last seal and resumes, resubmitting unsigned seals. -/
  | hideRebuild
  /-- DRAIN_SEGMENT_ACK (R229). A destination acknowledges a drained segment and its space in HBM is freed. -/
  | drainSegmentAck
  /-- CL_INSERT (R136). The INSERT operation places or replaces a rule in the shadow bank, relocating up to 128 entries. -/
  | clInsert (req : Nat)
  /-- CL_DELETE (R136). The DELETE operation removes a rule from the shadow bank. -/
  | clDelete (req : Nat)
  /-- CL_LOOKUP (R136). The LOOKUP operation returns a rule's action into the requester's CL_ACTION. -/
  | clLookup (req : Nat)
  /-- CB3_COMMIT (R140). A CB3 write commits a class-behaviour entry atomically, or is refused with cause 2. -/
  | cb3Commit (req : Nat) (value : Nat)
  /-- EM_GEOM_WRITE (R137). A write to a shadow EM_GEOM or EM_SEED empties that table in the shadow bank. -/
  | emGeomWrite (req : Nat) (t : Nat) (seed : Bool) (value : Nat)
  /-- AWL_VALID (R131). Setting AW_CTRL.VALID installs an Awl pattern, or is refused for fingerprint or anchor limits. -/
  | awlValid (req : Nat) (value : Nat)
  /-- SWAP (R145). A SWAP makes the shadow bank active for frames entering from the next tick boundary, or is refused. -/
  | swap (req : Nat)
  /-- OLD_BUSY_CLEAR (R145). The last old-bank frame has its result, OLD_BUSY clears and a class 11 event is raised. -/
  | oldBusyClear
  /-- COPY (R146). The COPY command starts copying the active bank into the shadow bank, or is refused. -/
  | copy (req : Nat)
  /-- COPY_DONE (R146). A bank copy completes and COPY_BUSY clears. -/
  | copyDone
  /-- FT_INSERT (R155). The INSERT operation places an entry in the flow or MAC table, relocating up to 128 entries. -/
  | ftInsert (req : Nat)
  /-- FT_DELETE (R155). The DELETE operation removes an entry from the flow or MAC table. -/
  | ftDelete (req : Nat)
  /-- FT_LOOKUP (R155). The LOOKUP operation returns an entry's action and slot into the requester's staging. -/
  | ftLookup (req : Nat)
  /-- READ_SLOT (R155). The READ_SLOT operation returns the entry at FT_SLOT. -/
  | readSlot (req : Nat)
  /-- TABLE_SEED_WRITE (R159). A write to FT_SEED or MT_SEED empties its table and clears its READY bit. -/
  | tableSeedWrite (req : Nat) (mac : Bool) (value : Nat)
  /-- TABLE_READY (R159). The emptied flow or MAC table is ready and FT_READY or MT_READY sets. -/
  | tableReady (mac : Bool)
  /-- MAC_LEARN_APPLY (R162). The MAC learn engine applies a request as insert, refresh, move or conflict, and exports the outcome. -/
  | macLearnApply
  /-- FLOW_LEARN_APPLY (R164). The flow learn engine applies a flow learn request from its template. -/
  | flowLearnApply
  /-- BURNISHER_VISIT (R168). The Burnisher visits a slot, clearing HIT or removing an idle entry and exporting AGED. -/
  | burnisherVisit (mac : Bool) (slot : Nat)
  /-- LPM_WRITE (R173). An LPM_DATA_HI write replaces one 64-bit trie, set or next-hop word, or is refused. -/
  | lpmWrite (req : Nat) (hi : Nat)
  /-- LPM_FENCE (R174). A fence clears FENCE_DONE, which sets once every earlier lookup has left the trie. -/
  | lpmFence (req : Nat)
  /-- FRAME_START (R179). A port's line is free and Rein starts a due launch frame or the head frame of the selected queue. -/
  | frameStart (p : Nat) (off : Nat) (tEmit : Nat) (e : Nat) (v : Nat)
  /-- GATE_CYCLE_START (R185). A gate cycle starts at BASE + n × CYCLE and the list restarts at entry 0. -/
  | gateCycleStart (p : Nat)
  /-- GATE_ENTRY_EDGE (R185). A gate list entry's interval ends and the next entry's gate states take effect. -/
  | gateEntryEdge (p : Nat)
  /-- CHANGE (R187). A gate list CHANGE sets CHANGE_PENDING for a switch at the next eligible cycle start, or is refused. -/
  | change (req : Nat) (p : Nat)
  /-- GATE_LIST_SWITCH (R187). The pending gate list becomes active at its switch time and the lists exchange roles. -/
  | gateListSwitch (p : Nat)
  /-- RELEASE_GROUP_ALIGNED (R190). A release-group member's lanes reach the group grid and RG_ALIGNED sets. -/
  | releaseGroupAligned (p : Nat)
  /-- LAUNCH_DUE (R192). A launch frame reaches its grid point and starts, or is late and sent or discarded. -/
  | launchDue (p : Nat) (off : Nat) (tEmit : Nat) (e : Nat) (v : Nat) (moved : Bool)
  /-- FLR (R212). An FLR of a function disables it under R213 and resets its state at IDLE. -/
  | flr (fn : Nat)
  /-- VF_ENABLE_CLEAR (R212). Clearing VF Enable disables every VF of the PF. -/
  | vfEnableClear (pf : Nat)
  /-- BME_CLEAR (R212). Clearing Bus Master Enable disables the function. -/
  | bmeClear (fn : Nat)
  /-- LINK_RESET (R198). A Hot Reset, DL_Down or single PERST under split form disables every function of that link and retrains it. -/
  | linkReset (link : Nat) (kind : Nat)
  /-- D3HOT_ENTRY (R212). Entry of a function to D3hot disables it. -/
  | d3hotEntry (fn : Nat)
  /-- QUIESCE (R212). Setting FN_CTRL.QUIESCE disables a function. -/
  | quiesce (req : Nat) (fn : Nat)
  /-- READ_TAG_RETIRE (R213). A read still outstanding 5 ms after a disable has its tag retired. -/
  | readTagRetire (id : Nat)
  /-- FUNCTION_IDLE (R213). A disabled function reaches IDLE, DISABLING clears and its state resets after FLR. -/
  | functionIdle (fn : Nat)
  /-- FUNCTION_RETURN (R215). A disabled function whose causes have all ended returns to service. -/
  | functionReturn (fn : Nat)
  /-- BAR0_ACCESS (R204). A BAR0 register access of a bad size or alignment completes with Completer Abort or is discarded. -/
  | bar0Access (req : Nat) (addr : Nat) (len : Nat) (write : Bool) (value : Nat)
  /-- CONFIG_REQUEST (R390). A PCIe configuration request is answered, with Request Retry Status until DONE. -/
  | configRequest (fn : Nat) (op : ConfigOp)
  /-- MSIX_UNMASK (R207). Unmasking a vector or function sends a message whose pending bit is set. -/
  | msixUnmask (fn : Nat) (entry : Option (Nat × Bytes))
  /-- FN_ALLOC_WRITE (R218). A write of a function's ring, event-queue or QP range is applied or refused with a cause. -/
  | fnAllocWrite (req : Nat) (fn : Nat) (i : Nat) (value : Nat)
  /-- RING_DOORBELL (R221). A doorbell write advances a ring's PI, or puts the ring in error with cause 1. -/
  | ringDoorbell (fn : Nat) (loc : Nat) (value : Nat)
  /-- INVAL (R223). An RG_INVAL write discards kept descriptor copies at or after FETCH. -/
  | inval (req : Nat) (r : Nat)
  /-- DESCRIPTOR_FETCH (R223). A descriptor read from host memory completes, or fails and puts the ring in error with cause 3. -/
  | descriptorFetch (kind : Nat) (r : Nat) (i : Nat) (ok : Bool) (data : Bytes)
  /-- TX_JOB_START (R227). FETCH passes a TX job's FIRST entry and the device reads its payload and forms the frame. -/
  | txJobStart (r : Nat)
  /-- TX_JOB_COMPLETE (R230). A TX job's frame leaves the MDI or is dropped, and its completions are written in index order. -/
  | txJobComplete
  /-- RX_DELIVER (R228). A whole frame in the buffer is written into a receive ring's posted buffers and completed, or dropped for lack of buffers. -/
  | rxDeliver (r : Nat)
  /-- DRAIN_DELIVER (R229). A journal or capture segment is written into a drain ring's posted buffers and completed. -/
  | drainDeliver (st : Option Nat)
  /-- WAIT_START (R232). FETCH reaches a WAIT, which holds later jobs of the ring until its count test is satisfied. -/
  | waitStart (r : Nat)
  /-- WAIT_SATISFIED (R232). A WAIT's target count changes and satisfies THRESH, and the WAIT completes. -/
  | waitSatisfied (r : Nat) (sq : Bool)
  /-- WAIT_TIMEOUT (R232). A WAIT reaches TIMEOUT and completes with status 0x0C. -/
  | waitTimeout (r : Nat) (sq : Bool)
  /-- RING_ENABLE (R233). Setting RG_CTRL.ENABLE enables a ring with zeroed indices, or is refused with a cause. -/
  | ringEnable (req : Nat) (r : Nat)
  /-- RING_DISABLE (R234). Clearing ENABLE stops a ring in order, completing started jobs and returning unused buffers. -/
  | ringDisable (req : Nat) (r : Nat)
  /-- RING_IDLE (R234). A disabled ring's writes have all entered the outbound queue and IDLE sets. -/
  | ringIdle (r : Nat)
  /-- EQ_CI_WRITE (R240). An EQ_CI write frees entries, or is refused, and writes the OVERFLOW and pending RING notifications. -/
  | eqCiWrite (req : Nat) (q : Nat) (value : Nat)
  /-- EQ_MOD_TIMER (R241). The moderation timer expires and sends a message if a notification was written since the last. -/
  | eqModTimer (q : Nat)
  /-- EQ_ENABLE (R242). Setting EQ_CTRL.ENABLE enables an event queue, or is refused with a cause. -/
  | eqEnable (req : Nat) (q : Nat)
  /-- EQ_DISABLE (R242). Clearing EQ_CTRL.ENABLE stops writes to the queue and clears its pending bits. -/
  | eqDisable (req : Nat) (q : Nat)
  /-- IRA_WRITE (R255). A received WRITE packet is checked and placed at VA + OFFSET under the ordering rules. -/
  | iraWrite
  /-- IRA_WRITE_IMM (R255). A received WRITE_IMM packet is placed, and at release its immediate is notified. -/
  | iraWriteImm
  /-- IRA_SEND (R255). A received SEND packet is placed in the target RQ entry, or answered with RETRY_LATER or REMOTE_INVALID. -/
  | iraSend
  /-- READ_REQ (R255). A received READ_REQ is executed in order and answered with READ_RESP packets. -/
  | readReq
  /-- READ_RESP (R255). A received READ_RESP packet is placed at LADDR + OFFSET. -/
  | readResp
  /-- FETCH_ADD (R255). A received FETCH_ADD performs an atomic add on host memory and returns the original value. -/
  | fetchAdd
  /-- CMP_SWAP (R255). A received CMP_SWAP performs an atomic compare-and-swap and returns the original value. -/
  | cmpSwap
  /-- ATOMIC_RESP (R255). A received ATOMIC_RESP writes the original value at LADDR and completes the job. -/
  | atomicResp
  /-- ACK (R265). A received ACK retires covered PSNs, updates the grant and completes finished SQ jobs. -/
  | ack
  /-- NAK (R266). A received NAK triggers retransmission, a retry delay or a job error and QP ERROR by its code. -/
  | nak
  /-- CREDIT (R257). A received CREDIT packet raises the credit available toward the peer. -/
  | credit
  /-- IQ_DB (R254). A QP doorbell advances the PI of its SQ or RQ under R221. -/
  | iqDb (req : Nat) (view : Bool) (lo : Option Nat) (hi : Nat)
  /-- SQ_WRITE (R255). An SQ WRITE job is cut into packets and sent under credit and path rules. -/
  | sqWrite (q : Nat)
  /-- SQ_WRITE_IMM (R255). An SQ WRITE_IMM job is sent with its immediate. -/
  | sqWriteImm (q : Nat)
  /-- SQ_READ (R255). An SQ READ job sends one READ_REQ. -/
  | sqRead (q : Nat)
  /-- SQ_SEND (R255). An SQ SEND job is cut into packets with the next SSN. -/
  | sqSend (q : Nat)
  /-- SQ_FETCH_ADD (R255). An SQ FETCH_ADD job sends an atomic add request. -/
  | sqFetchAdd (q : Nat)
  /-- SQ_CMP_SWAP (R255). An SQ CMP_SWAP job sends an atomic compare-and-swap request. -/
  | sqCmpSwap (q : Nat)
  /-- SQ_WAIT (R254). An SQ WAIT holds later SQ jobs until its target count is reached. -/
  | sqWait (q : Nat)
  /-- IQ_ENABLE (R248). Setting IQ_CTRL.ENABLE in RESET moves a QP to READY, or is refused. -/
  | iqEnable (req : Nat) (q : Nat)
  /-- IQ_DISABLE (R249). Clearing ENABLE flushes a QP's work and returns it to RESET once idle. -/
  | iqDisable (req : Nat) (q : Nat)
  /-- FORCE_ERR (R249). Writing FORCE_ERR puts a QP in ERROR. -/
  | forceErr (req : Nat) (q : Nat)
  /-- PIN (R250). Setting PIN keeps a QP's context on die, or is ignored beyond 8,192 pinned contexts. -/
  | pin (req : Nat) (q : Nat)
  /-- CONTEXT_FETCH_DONE (R251). A QP context arrives on die and its waiting packets are processed in arrival order. -/
  | contextFetchDone (q : Nat)
  /-- IRA_RTO_EXPIRE (R267). A packet's retransmission timer expires; it is resent or the QP enters ERROR after RETRY attempts. -/
  | iraRtoExpire (q : Nat) (psn : Nat)
  /-- IRA_RNR_DELAY (R267). The RNR delay after a RETRY_LATER expires and the packet is retransmitted. -/
  | iraRnrDelay (q : Nat) (psn : Nat)
  /-- IRA_NAK_DELAY (R266). A PSN stays missing for IR_NAK_DELAY and the receiver sends NAK SEQ. -/
  | iraNakDelay (q : Nat)
  /-- IRA_ACK_DELAY (R265). IR_ACK.DELAY passes since an unacknowledged placement and an ACK is sent. -/
  | iraAckDelay (q : Nat)
  /-- IRA_CREDIT_TIMER (R257). A raised grant with no packet due for 1 µs sends a CREDIT packet. -/
  | iraCreditTimer (q : Nat)
  /-- PATH_DEGRADE_END (R260). A degraded path's 1 ms ends and it rejoins the rotation. -/
  | pathDegradeEnd (q : Nat) (path : Nat)
  /-- REGISTER (R252). The REGISTER operation creates a memory region and returns its key. -/
  | register (req : Nat) (view : Bool)
  /-- DEREGISTER (R252). The DEREGISTER operation invalidates a memory region. -/
  | deregister (req : Nat) (view : Bool)
  /-- QUERY (R252). The QUERY operation fills MR_ADDR to MR_ATTR for a key. -/
  | query (req : Nat) (view : Bool)
  /-- NVME_SQ_DOORBELL (R277). An NVMe SQ tail doorbell makes new commands available for round-robin fetch. -/
  | nvmeSqDoorbell (c : Nat) (q : Nat) (tail : Nat)
  /-- NVME_CQ_DOORBELL (R277). An NVMe CQ head doorbell frees completion slots, releasing waiting completions. -/
  | nvmeCqDoorbell (c : Nat) (q : Nat) (head : Nat)
  /-- CREATE_IO_SQ (R276). The Admin Create I/O SQ command creates a submission queue. -/
  | createIoSq (c : Nat)
  /-- CREATE_IO_CQ (R276). The Admin Create I/O CQ command creates a completion queue. -/
  | createIoCq (c : Nat)
  /-- DELETE_IO_SQ (R276). The Admin Delete I/O SQ command deletes a submission queue. -/
  | deleteIoSq (c : Nat)
  /-- DELETE_IO_CQ (R276). The Admin Delete I/O CQ command deletes a completion queue. -/
  | deleteIoCq (c : Nat)
  /-- GET_LOG_PAGE (R276). The Get Log Page command returns a supported log page. -/
  | getLogPage (c : Nat)
  /-- IDENTIFY (R276). The Identify command returns a controller, namespace or list structure. -/
  | identify (c : Nat)
  /-- ABORT (R293). The Abort command aborts an undispatched command or reports it too late. -/
  | abort (c : Nat)
  /-- SET_FEATURES (R276). The Set Features command sets a supported feature, including power state and write cache. -/
  | setFeatures (c : Nat)
  /-- GET_FEATURES (R276). The Get Features command returns a supported feature. -/
  | getFeatures (c : Nat)
  /-- ASYNCHRONOUS_EVENT_REQUEST (R276). The Asynchronous Event Request command waits to report an asynchronous event. -/
  | asynchronousEventRequest (c : Nat)
  /-- NVME_READ (R283). The Read command returns each block from the buffer or the backend. -/
  | nvmeRead (c : Nat)
  /-- NVME_WRITE (R282). The Write command is accepted once its data is in the buffer and then completes, or with FUA when on media. -/
  | nvmeWrite (c : Nat)
  /-- FLUSH (R285). The Flush command completes when earlier completed writes are on media. -/
  | flush (c : Nat)
  /-- WRITE_ZEROES (R276). The Write Zeroes command writes zero blocks. -/
  | writeZeroes (c : Nat)
  /-- DATASET_MANAGEMENT (R276). Dataset Management with Deallocate completes successfully and changes no data. -/
  | datasetManagement (c : Nat)
  /-- INVALID_COMMAND_OPCODE (R276). An unsupported NVMe opcode completes with Invalid Command Opcode. -/
  | invalidCommandOpcode (c : Nat)
  /-- CONTROLLER_RESET (R278). Clearing CC.EN resets one controller, applying R213–R215 to its commands. -/
  | controllerReset (c : Nat)
  /-- SHUTDOWN_NOTIFICATION (R278). A CC.SHN write stops fetching; SHST reaches complete when all commands and completed writes are on media. -/
  | shutdownNotification (c : Nat) (shn : Nat)
  /-- DESTAGE (R286). STOR writes dirty extents to their backends in dirtying order. -/
  | destage
  /-- BACKEND_COMPLETION (R285). A backend answers a destage, read or FUA write, completing it or reporting an error. -/
  | backendCompletion (id : Nat) (ok : Bool) (data : Bytes)
  /-- DESTAGE_RETRY (R286). A failed destage is retried every 100 ms, entering FAILED after 16 attempts. -/
  | destageRetry (b : Nat)
  /-- DS_LINK_DOWN (R289). A downstream surprise link-down or drive CFS puts its backends into FAILED. -/
  | dsLinkDown (link : Nat) (cfs : Bool) (backends : List Nat)
  /-- NS_MAP_DONE (R281). The command marks the extent map reloaded and namespaces ready. -/
  | nsMapDone
  /-- NS_DRAIN_RESET (R300). The command sets the drain namespace pointer to 0, or is refused with a segment in flight. -/
  | nsDrainReset
  /-- PWR_FAIL (R296). Assertion of PWR_FAIL_N stops controllers and writes dirty data to drives or the vault. -/
  | pwrFail
  /-- PF_DONE (R296). The power-fail sequence finishes, its result goes to MRAM and PF_DONE is driven high. -/
  | pfDone (vaulted : Bool) (ms : Nat)
  /-- VAULT_RESTORE (R298). At G5 exit after cold reset STOR reloads the vault into the buffer before reporting ready. -/
  | vaultRestore
  /-- EXTENT_COPY_DONE (R299). A shared extent's copy to a spare completes and the waiting write is accepted. -/
  | extentCopyDone
  /-- LOSS_RECORD (R311). Space returns and the stream writes one LOSS record before any later record. -/
  | lossRecord (st : Nat)
  /-- CHUNK_FLUSH (R309). CS_FLUSH passes since a chunk's first record and the chunk closes. -/
  | chunkFlush (st : Nat)
  /-- SKIVER_COMPRESS (R309). Skiver compresses a closed chunk into one Zstandard frame and a segment. -/
  | skiverCompress
  /-- CAPTURE_SEGMENT_DRAIN (R310). A capture segment drains to a ring or namespace and frees its space on acknowledgement. -/
  | captureSegmentDrain (st : Nat)
  /-- STREAM_DISABLE (R313). Clearing a stream's EN closes its chunk and IDLE sets once no raw record remains. -/
  | streamDisable (req : Nat) (st : Nat)
  /-- BANK_SWAP (R314). The SWAP command switches the telemetry banks at the next tick boundary. -/
  | bankSwap (req : Nat)
  /-- BANK_CLEAR (R314). The CLEAR command zeroes the frozen telemetry bank within 2 ms. -/
  | bankClear (req : Nat)
  /-- SK_QUERY (R315). A sketch query returns a key's estimate from the frozen bank and its SAT bit. -/
  | skQuery (req : Nat)
  /-- FLOW_CLEAR (R319). A FLOW_CLEAR range zeroes flow counter pairs atomically. -/
  | flowClear (first : Nat) (count : Nat)
  /-- FABRIC_PORT_ENABLE (R322). Enabling a fabric port moves it from OFF to TRAIN. -/
  | fabricPortEnable (req : Nat) (p : Nat)
  /-- FABRIC_TRAIN_DONE (R322). A fabric port completes training and locks, entering HELLO. -/
  | fabricTrainDone (p : Nat)
  /-- FABRIC_LOCK_LOSS (R323). A fabric port loses lock and returns to TRAIN. -/
  | fabricLockLoss (p : Nat)
  /-- HELLO (R322). A received HELLO moves a fabric port to UP, FOREIGN or LOOPED. -/
  | hello (p : Nat) (payload : Bytes) (acked : Bool)
  /-- HELLO_PERIOD (R323). Every 10 µs a fabric port sends a HELLO. -/
  | helloPeriod (p : Nat)
  /-- HELLO_TIMEOUT (R323). An UP fabric port receives no HELLO for 30 µs and returns to HELLO. -/
  | helloTimeout (p : Nat)
  /-- FABRIC_FRAME_RECEIVE (R326). A Werik frame is checked and forwarded, delivered locally or discarded. -/
  | fabricFrameReceive (p : Nat) (raw : Bytes)
  /-- LSA (R331). A received LSA is stored and flooded when newer, or answered with the newer copy. -/
  | lsa (p : Nat) (payload : Bytes)
  /-- LSA_ORIGINATE (R331). A device originates its LSA on a change or every 1 s. -/
  | lsaOriginate
  /-- LSA_EXPIRE (R331). An LSA not refreshed for 4 s is removed. -/
  | lsaExpire
  /-- ADDR (R333). A received ADDR message assigns the device's fabric address. -/
  | addr (p : Nat) (uid : Nat) (addr : Nat)
  /-- TC7_RESEND (R329). A held TC 7 frame unacknowledged 2 µs after its end is resent. -/
  | tc7Resend (p : Nat)
  /-- FABRIC_ACK (R329). A received LINK ACK releases held TC 7 frames up to its LSEQ. -/
  | fabricAck (p : Nat) (lseq : Nat)
  /-- ROUTE_INSTALL (R337). The fabric firmware installs a recomputed route table and chooses the time parent. -/
  | routeInstall
  /-- RT_ENTRY_WRITE (R335). A MASK write replaces a route entry in one step, or is refused while ROUTE_SW = 0. -/
  | rtEntryWrite (req : Nat) (a : Nat) (mask : Nat)
  /-- SYNC_PERIOD (R340). Every FB_SYNC_PERIOD a device sends a SYNC on every UP fabric port. -/
  | syncPeriod (emits : List Nat) (te : Nat) (tv : Nat)
  /-- SYNC (R340). A SYNC received on the parent port is answered with a DELAY. -/
  | sync (p : Nat) (payload : Bytes) (tDet : Nat) (e : Nat) (pos : Nat) (tEmit : Nat) (te : Nat) (tv : Nat)
  /-- DELAY (R340). A received DELAY is answered with a REPLY carrying t4. -/
  | delay (p : Nat) (payload : Bytes) (tDet : Nat) (e : Nat) (pos : Nat)
  /-- REPLY (R340). A received REPLY completes an exchange and forms a fabric servo sample. -/
  | reply (p : Nat) (payload : Bytes)
  /-- OBJ_REQ (R367). A received fabric object request is verified and executed, and answered with OBJ_RESP. -/
  | objReq
  /-- OBJ_RESP (R367). A received object response is returned on the original path. -/
  | objResp
  /-- SOP_PROXY_TIMEOUT (R367). A forwarded request gets no response in 20 ms and a 0x0402 header is returned. -/
  | sopProxyTimeout
  /-- READ (R354). The SOP READ opcode reads an object's value after the checks of Table 14.3. -/
  | read
  /-- WRITE (R354). The SOP WRITE opcode writes an object or executes a COMMAND after the checks of Table 14.3. -/
  | write
  /-- READ_SEG (R358). The READ_SEG opcode returns a segment of a DOMAIN or long object. -/
  | readSeg
  /-- WRITE_SEG (R359). The WRITE_SEG opcode opens or continues a segmented write, applying completed items. -/
  | writeSeg
  /-- TRANSFER_ABANDON (R359). A segmented transfer receiving no segment for 1 s is abandoned. -/
  | transferAbandon (idx : Nat) (sub : Nat)
  /-- CLAIM (R366). CLAIM takes a core mailbox for the writing hart if unclaimed. -/
  | claim (req : Nat) (m : Nat)
  /-- RELEASE (R366). RELEASE by the owner frees a core mailbox. -/
  | release (req : Nat) (m : Nat)
  /-- RESTORE_DEFAULTS (R370). The command marks RWP objects to take their Defaults at the next cold reset. -/
  | restoreDefaults
  /-- FW_IMAGE (R371). Writing FW_IMAGE erases and writes flash slot A, or is refused. -/
  | fwImage (who : Nat) (off : Nat) (data : Bytes) (last : Bool)
  /-- FLASH_ERASE_DONE (R371). The erase of slot A ends and further image segments are accepted. -/
  | flashEraseDone
  /-- FW_VERIFY (R372). The enclave checks slot A and sets FW_STAGE to verified or rejected. -/
  | fwVerify
  /-- FW_PROMOTE (R372). The command copies slot A to slot B. -/
  | fwPromote
  /-- FW_HITLESS (R435). The command copies, checks and measures slot A's components and stages a hitless update. -/
  | fwHitless
  /-- MGMT_FRAME_RECEIVE (R373). A received MGMT frame is consumed by the device, placed in the MGNI receive ring, or dropped. -/
  | mgmtFrameReceive (raw : Bytes) (tDet : Nat) (e : Nat) (pos : Nat)
  /-- MG_TX_DB (R374). A doorbell on the MGNI transmit ring advances its PI or puts it in error. -/
  | mgTxDb (req : Nat) (value : Nat)
  /-- MG_RX_DB (R374). A doorbell on the MGNI receive ring advances its PI or puts it in error. -/
  | mgRxDb (req : Nat) (value : Nat)
  /-- MGMT_FRAME_SEND (R375). A core or device frame is sent whole on MGMT when ready. -/
  | mgmtFrameSend (tEmit : Nat) (e : Nat) (pos : Nat)
  /-- MG_CTRL_EN (R376). Setting or clearing MG_CTRL.EN starts or stops the MGNI rings. -/
  | mgCtrlEn (req : Nat) (on : Bool)
  /-- KEY_REVOKE (R378). The command revokes a key slot under a signature of a non-revoked key. -/
  | keyRevoke (data : Bytes)
  /-- SVN_COMMIT (R379). The command raises the fused security version. -/
  | svnCommit (v : Nat)
  /-- COLD_RESET (R381). A cold reset resets every group and the enclave ROM runs the boot steps. -/
  | coldReset (env : BootEnv)
  /-- DONE (R384). The main image writes BT_CTRL.DONE, raising BOOT_DONE and making host functions visible. -/
  | done (req : Nat)
  /-- BOOT_WATCHDOG (R384). DONE is not written within 1,000 ms and the enclave makes a cold reset marking the slot skipped. -/
  | bootWatchdog
  /-- GO (R385). The recovery GO starts reading and checking a host bundle, or is refused. -/
  | go (program : Bool)
  /-- RECOVERY_BUNDLE_CHECKED (R385). The recovery bundle's checks end; it is refused, or programmed and booted. -/
  | recoveryBundleChecked (bundle : Bytes) (hbm : Bool) (mram : Bool) (programOk : Bool)
  /-- CL_RELEASE (R389). RELEASE of a cluster acts at the next tick boundary or is refused with a cause. -/
  | clRelease (req : Nat) (c : Nat)
  /-- SV_RELEASE (R389). RELEASE of a service controller acts at the next tick boundary or is refused. -/
  | svRelease (req : Nat) (k : Nat)
  /-- ES_CLAIM (R403). CLAIM takes an enclave service slot if unclaimed. -/
  | esClaim (req : Nat) (k : Nat)
  /-- ES_RELEASE (R403). RELEASE frees an enclave service slot. -/
  | esRelease (req : Nat) (k : Nat)
  /-- ATTEST (R411). The ATTEST service returns a signed attestation report. -/
  | attest (k : Nat)
  /-- MREG_EXTEND (R411). The MREG_EXTEND service extends a measurement register 6–15. -/
  | mregExtend (k : Nat)
  /-- RANDOM (R403). The RANDOM service returns DRBG bytes. -/
  | random (k : Nat)
  /-- KEY_IMPORT (R407). The KEY_IMPORT service decapsulates and unwraps a key package and installs the key with a receipt. -/
  | keyImport (k : Nat)
  /-- KEY_DESTROY (R408). The KEY_DESTROY service destroys a key not in use. -/
  | keyDestroy (k : Nat)
  /-- BULK_KEYGEN (R406). The BULK_KEYGEN service generates a bulk key. -/
  | bulkKeygen (k : Nat)
  /-- BULK (R410). The BULK service runs a GCM, XTS or SHAKE256 operation on HBM area 7. -/
  | bulk (k : Nat)
  /-- MKA_ICV (R409). The MKA_ICV service computes an MKPDU ICV under the CAK's ICK. -/
  | mkaIcv (k : Nat)
  /-- SAK_GENERATE (R409). The SAK_GENERATE service draws, installs and returns a wrapped SAK. -/
  | sakGenerate (k : Nat)
  /-- SAK_INSTALL (R409). The SAK_INSTALL service unwraps and installs a distributed SAK. -/
  | sakInstall (k : Nat)
  /-- SA_CLEAR (R409). The SA_CLEAR service removes an SA's key. -/
  | saClear (k : Nat)
  /-- SELF_TEST (R397). The SELF_TEST service reruns the pre-operational tests. -/
  | selfTest (k : Nat)
  /-- ZEROISE (R413). The ZEROISE service destroys every CSP except DS. -/
  | zeroise (k : Nat)
  /-- SEAL_RESEAT (R412). The SEAL_RESEAT service rewrites the seal counter region and clears SEAL_FAULT. -/
  | sealReseat (k : Nat) (readBack : Bool)
  /-- JTAG_CHALLENGE (R415). The JTAG_CHALLENGE service returns a 32-byte challenge. -/
  | jtagChallenge (k : Nat)
  /-- JTAG_CHALLENGE_EXPIRE (R415). A JTAG challenge expires after 60 s. -/
  | jtagChallengeExpire
  /-- JTAG_UNLOCK (R415). The JTAG_UNLOCK service verifies a signed unlock, zeroises and opens the JTAG scope. -/
  | jtagUnlock (k : Nat)
  /-- RAW_ENTROPY (R403). The RAW_ENTROPY service returns raw noise samples. -/
  | rawEntropy (k : Nat)
  /-- TAMPER_ARM_PERM (R414). The command blows the tamper-permanent arming fuse. -/
  | tamperArmPerm
  /-- SELF_TEST_DONE (R397). The module's self-tests end and it enters OPERATIONAL or ERROR. -/
  | selfTestDone (fail : Option Nat)
  /-- ENCL_ERROR (R398). A conditional test failure puts the module in ERROR, inhibiting its outputs. -/
  | enclError (code : Nat)
  /-- ENCL_ERROR_RESET (R400). 10 ms after entry to ERROR G1 resets, or a cold reset follows at the third entry in 600 s. -/
  | enclErrorReset
  /-- TAMPER (R414). TAMPER_N or an internal sensor triggers zeroisation and a cold reset. -/
  | tamper (cause : Nat)
  /-- ISLAND_SLEEP (R421). An island idle for 100 ns is placed in the deepest qualifying power state. -/
  | islandSleep (c : Nat) (nextE : Nat) (nextT : Option Nat)
  /-- ISLAND_WAKE (R421). An island begins its exit before its next event or at a lacing transfer or interrupt. -/
  | islandWake (c : Nat)
  /-- PI_OPP (R425). A PI_OPP write starts a cluster voltage and frequency transition. -/
  | piOpp (req : Nat) (c : Nat) (opp : Nat)
  /-- OPP_TRANSITION_DONE (R425). A cluster operating-point transition completes. -/
  | oppTransitionDone (c : Nat)
  /-- THERMAL_SAMPLE (R426). Every 10 µs the sensors are read and the thermal limits adjusted. -/
  | thermalSample (temps : List Int)
  /-- QUIET_WINDOW_START (R424). An armed quiet window starts and listed islands may sleep deeper. -/
  | quietWindowStart
  /-- QUIET_WINDOW_END (R424). A quiet window ends at END, a step past it, or the first frame. -/
  | quietWindowEnd
  /-- ERROR_REPORT (R430). An error report is logged, or held in a pending slot under the rate limit. -/
  | errorReport (src : Nat) (cls : Nat) (loc : Nat) (code : Nat) (nbits : Nat)
  /-- ERROR_PENDING_LOG (R430). The rate allows again and pending FIRST and LATEST reports are logged with HELD. -/
  | errorPendingLog (src : Nat)
  /-- RELOAD_DONE (R434). Reapplication of a group's RWP objects completes and PW_RELOAD clears. -/
  | reloadDone (g : Nat)
  /-- HU_SWITCH (R436). The command switches cores and changed controllers to the staged images. -/
  | huSwitch (req : Nat)
  /-- HU_COMMIT (R436). The command commits the hitless update and frees the fallback. -/
  | huCommit (req : Nat)
  /-- HU_ROLLBACK (R436). The command returns cores and controllers to the fallback images. -/
  | huRollback (req : Nat)
  /-- HU_COMMIT_TIMEOUT (R436). HU_COMMIT is not written within 1,000 ms and the update rolls back. -/
  | huCommitTimeout
  /-- RESET_N_ASSERT (R452). RESET_N held low for 10 µs starts a cold reset. -/
  | resetNAssert (powerLost : Bool)
  /-- RESET_N_DEASSERT (R449). RESET_N rises, straps are sampled and the boot begins. -/
  | resetNDeassert (env : BootEnv) (perst : Nat)
  /-- RAIL_FAULT (R446). A rail out of tolerance for 10 µs is a fatal error leading to cold reset. -/
  | railFault (n : Nat)
  /-- AVS_TIMEOUT (R448). No voltage report within 100 µs abandons a cluster frequency rise. -/
  | avsTimeout (c : Nat)
  /-- REF_SYS_LOSS (R451). A REF_SYS gap of 1 µs causes a cold reset. -/
  | refSysLoss
  /-- TIME_REF_LOSS (R451). A TIME_REF gap makes the TIME PLL hold frequency, or lock to REF_SYS at cold reset. -/
  | timeRefLoss (atReset : Bool)
  /-- TIME_REF_RETURN (R451). TIME_REF returns and the TIME PLL relocks without a phase step. -/
  | timeRefReturn
  /-- SMBUS_READ_BYTE (R453). An SMBus Read Byte returns a status byte. -/
  | smbusReadByte (cmd : Nat)
  /-- PCIE_LINK_UP (R198). A host PCIe link completes training and its data link comes up, setting PC_LINK.UP and LINK_CHG. -/
  | pcieLinkUp (link : Nat) (speed : Nat) (width : Nat) (flit : Bool)
  /-- DS_LINK_UP (R289). A downstream root-port link trains and comes up, setting DS_LINK.UP and LINK_CHG. -/
  | dsLinkUp (link : Nat) (speed : Nat) (width : Nat)
  /-- CONTROLLER_ENABLE (R275). Setting CC.EN on an NVMe controller enables it and sets CSTS.RDY once it is ready. -/
  | controllerEnable (c : Nat) (cc : Nat)
  /-- TCP_CONNECTION_LOSS (R290). An NVMe/TCP backend connection is reset or loses keep-alive, putting the backend into FAILED. -/
  | tcpConnectionLoss (b : Nat)
  /-- HOST_READ_COMPLETION (R227). A host memory read for transmit payload, IRA send data or NVMe command or data returns, or fails or times out, and the waiting job proceeds. -/
  | hostReadCompletion (id : Nat) (ok : Bool) (data : Bytes)
  /-- BANK_CLEAR_DONE (R314). The clear of the frozen telemetry bank completes and CLEAR_BUSY clears. -/
  | bankClearDone
  /-- AVS_VOLTAGE_REACHED (R448). The VDD_CPU regulator reports the requested voltage reached, and the pending cluster frequency rise begins. -/
  | avsVoltageReached
  deriving DecidableEq, Repr

end Sys2Proof
end

