-- ==== Sys2Proof/Decode.lean ====
section
/-!
DEFINITION. The command that a word spells by the bits of spec/opcode_table.json. The table gives none of its rows bits: commands are
accesses, frames, completions and events, which reach the block by paths of their own, so no word spells one.
-/
namespace Sys2Proof

/-- The command of a word: the table has no bits, so none. -/
def decodeTableWord (_nbits _w : Nat) : Option Instr := none

end Sys2Proof
end

