-- ==== Sys2Proof/Config.lean ====
section
/-!
DEFINITION. What the spec leaves open or only names: free values and the functions of the standards it cites. Each is an
opaque constant without a body, so that nothing can be proved of its values (notes/assumptions 4 and 5).
-/
namespace Sys2Proof.Config

/-! ## The lacing map of stepping A1 (R459, R15) -/

/-- The sending island of event lacing channel `ch` (LC_ID.SRC_ISLAND). -/
opaque lcSrc (ch : Nat) : Nat
/-- The receiving island of event lacing channel `ch` (LC_ID.DST_ISLAND). -/
opaque lcDst (ch : Nat) : Nat
/-- LC_ID.KIND of channel `ch`. -/
opaque lcKind (ch : Nat) : Nat
/-- LC_ID.SOURCE of channel `ch`. -/
opaque lcSource (ch : Nat) : Nat
/-- The slots beyond the first of the value lacing between two islands. -/
opaque lacingExtra (key : Nat) : Fin 16
/-- The slots, 1 to 16, of the value lacing between two islands (R15). -/
def lacingSlots (key : Nat) : Nat := (lacingExtra key).val + 1

/-! ## Fused values of the part (R84, R94) -/

/-- The fused receive delay of a port at a rate code, in 2^-16 ns (R84). -/
opaque calRx (port rate : Nat) : Int
/-- The fused transmit delay of a port at a rate code, in 2^-16 ns (R84). -/
opaque calTx (port rate : Nat) : Int

/-- The fused input delay of a capture input, 0 to 7 TS_IN, 8 PPS_IN, in 2^-16 ns (R94). -/
opaque tsDelay (n : Nat) : Int

/-- The fused receive delay of a fabric port, FP_F_RX, in 2^-16 ns (R321). -/
opaque fabRx (port : Nat) : Nat
/-- The fused transmit delay of a fabric port, FP_F_TX, in 2^-16 ns (R321). -/
opaque fabTx (port : Nat) : Nat

/-- Byte `i` of the MAC address of the MGMT port, fused (Table 14.8). -/
opaque mgmtMacByte (i : Nat) : Byte
def mgmtMac : Bytes := (List.range 6).map mgmtMacByte
/-- Fields of the IP headers that the device's own MGMT frames carry, which R362 leaves open: type of service, identification of
the `n`-th, time to live, IPv6 flow label. -/
opaque mgTos : Nat
opaque mgIdent (n : Nat) : Nat
opaque mgTtl : Nat
opaque mgFlow : Nat

/-! ## Values the spec leaves open -/

/-- Byte `i`, 0 to 23, of the payload of an ADDR message that gives an address to a UID (R333 lays out none). -/
opaque addrByte (uid addr i : Nat) : Byte
/-- The UID and the address that an ADDR payload gives (R333). -/
opaque addrRead (payload : Bytes) : Nat × Nat


/-- The error code of a source's own reports (Table 17.5, bytes 28-29). -/
opaque errCode (src : Nat) : Nat

/-- The stack temperature of HBM as the device reads it at an event tick, in °C (HM_STATUS.TEMP, Table 1.13). -/
opaque hbmTemp (tick : Nat) : Nat

/-- How far the watermark of a port lags the time base, in 2^-16 ns, at an event tick: at most the bound of R100. -/
opaque wmLag (port tick : Nat) : Nat

/-- Does TB_SLEW_REMAIN round a remaining phase that is no whole number of 2^-16 ns up (Table 3.3 does not say). -/
opaque slewUp (slew : Int) : Bool
/-- Does an odd number of 2^-16 ns round up when R340 halves it. -/
opaque halfUp (x : Int) : Bool

/-- The cluster base SQ_CL_BASE of the member at a fabric address: the root orders by it (R110), no summary carries it. -/
opaque clusterBase (addr : Nat) : Nat

/-- Where the search for a free index of the memory region table starts, at a registration (R252). -/
opaque mrStart (n : Nat) : Nat

/-- The IPv4 identification of a frame that RDMA sends for a queue pair, and the IPv6 flow label of a path (R244 gives none). -/
opaque ipIdent (qp n : Nat) : Nat
opaque flowLabel (qp path : Nat) : Nat

/-- The timer field of an RNR NAK of RoCEv2, 0 to 31 (R272). -/
opaque roceRnr : Nat

/-- Byte `i` of a context as the device writes it to its home in host memory (R250 lays out none). -/
opaque ctxByte (qp n i : Nat) : Byte

/-- A field of a flushed entry's completion that the spec gives no value: its message never was (R249, Table 10.6). -/
opaque cplFree (n : Nat) : Nat

/-! ## NVMe (chapter 11) -/

/-- Byte `i` of an Identify structure that the spec does not state: CNS, controller, namespace or index. -/
opaque nvIdentify (cns ctrl ns i : Nat) : Byte
/-- Byte `i` of a log page, as of a read (the NVMe base specification lays the pages out, R276 gives no contents). -/
opaque nvLog (lid ctrl n i : Nat) : Byte
/-- The value at reset of a feature that the spec gives none (R276): feature and selector. -/
opaque nvFeature (fid sel : Nat) : Nat
/-- How many Asynchronous Event Requests a controller holds, less one (AERL). -/
opaque nvAerl : Nat
/-- The Asynchronous Event Information of an event of type Error for a FAILED backend (R286). -/
opaque nvErrInfo : Nat

/-- Byte `i` of AES-XTS-256 (IEEE 1619) of a data unit under a key with a tweak; `enc` encrypts. -/
opaque xtsByte (enc : Bool) (key : Bytes) (tweak : Nat) (data : Bytes) (i : Nat) : Byte
/-- A data unit encrypted or decrypted. -/
def xts (enc : Bool) (key : Bytes) (tweak : Nat) (data : Bytes) : Bytes := (List.range data.length).map (xtsByte enc key tweak data)

/-! ## The flow cache (R152) -/

/-- The way of a full bucket whose resident a relocation moves, with `n` moves left, and whether the search starts at the second of the
two buckets (R136, R155). -/
opaque relocWay (n b : Nat) : Nat
opaque relocSecond (b0 b1 : Nat) : Bool

/-- The set of the flow cache, 0 to 32,767, that a slot of the flow table uses. -/
opaque flowCacheSet (slot : Nat) : Nat

/-! ## Functions of the standards the spec names -/

/-- Byte `i` of SHAKE256 over a message (FIPS 202). -/
opaque shake256Byte (m : Bytes) (i : Nat) : Byte

/-- The first `n` bytes of SHAKE256. -/
def shake256 (m : Bytes) (n : Nat) : Bytes := (List.range n).map (shake256Byte m)

/-- Byte `i` of the device's unique ID, fused (R211). -/
opaque uidByte (i : Nat) : Byte

/-- The 16 bytes of the unique ID, lowest byte first. -/
def uid : Bytes := (List.range 16).map uidByte

/-- Byte `i` of the Ed448 signature of a message with a context string under a private key (RFC 8032). -/
opaque ed448Byte (sk ctx m : Bytes) (i : Nat) : Byte

/-- The 114 bytes of an Ed448 signature. -/
def ed448Sign (sk ctx m : Bytes) : Bytes := (List.range 114).map (ed448Byte sk ctx m)

/-- Does an Ed448 signature of a message with a context string verify under a public key (RFC 8032). -/
opaque ed448Verify (pk ctx m sig : Bytes) : Bool

/-- Byte `i` of the digest of the key in slot `k`, fused (R377). -/
opaque keyDigestByte (k i : Nat) : Byte

/-- The 32-byte digest of key slot `k`. -/
def keyDigest (k : Nat) : Bytes := (List.range 32).map (keyDigestByte k)

/-- What a flash slot holds after a write of a bundle that failed (R385): a free value. -/
opaque flashLeft (n : Nat) (bundle : Bytes) : Bytes

/-- Byte `i` of the journal key JK, which never leaves the module (R412). -/
opaque jkByte (i : Nat) : Byte

/-- The journal key. -/
def jk : Bytes := (List.range 57).map jkByte

/-- Byte `i` of the public key of an Ed448 private key (RFC 8032). -/
opaque ed448PubByte (sk : Bytes) (i : Nat) : Byte

/-- The 57 bytes of an Ed448 public key. -/
def ed448Pub (sk : Bytes) : Bytes := (List.range 57).map (ed448PubByte sk)

/-- Byte `i` of the identity key IDK and of the attestation key AK (R401). -/
opaque idkByte (i : Nat) : Byte
opaque akByte (i : Nat) : Byte
def idk : Bytes := (List.range 57).map idkByte
def ak : Bytes := (List.range 57).map akByte

/-- Byte `i` of the ML-KEM-1024 encapsulation key, of the ML-DSA-87 public key and of the identity certificate (Table 16.11), and the
certificate's length. -/
opaque kemEkByte (i : Nat) : Byte
opaque receiptPkByte (i : Nat) : Byte
opaque idCertByte (i : Nat) : Byte
opaque idCertLen : Nat

/-- Byte `i` of KMAC256 over a message under a key with a customisation string (SP 800-185), 256 bits. -/
opaque kmac256Byte (key m custom : Bytes) (i : Nat) : Byte
def kmac256 (key m custom : Bytes) : Bytes := (List.range 32).map (kmac256Byte key m custom)

/-- The shared secret of an ML-KEM-1024 ciphertext under the import key, none where the re-encryption check fails (FIPS 203). -/
opaque kemDecap (ct : Bytes) : Option Bytes

/-- Byte `i` of the ML-DSA-87 signature of a message with a context string under the receipt key (FIPS 204). -/
opaque mlDsaByte (ctx m : Bytes) (i : Nat) : Byte
def mlDsaSign (ctx m : Bytes) : Bytes := (List.range 4627).map (mlDsaByte ctx m)

/-- AES-256 key wrap and its inverse, none where the check fails (SP 800-38F). -/
opaque kwByte (kek key : Bytes) (i : Nat) : Byte
def kwWrap (kek key : Bytes) : Bytes := (List.range (key.length + 8)).map (kwByte kek key)
opaque kwUnwrap (kek wrapped : Bytes) : Option Bytes

/-- Byte `i` of the AES-256 CMAC of a message (SP 800-38B), and of the ICK (0) or KEK (1) of a CAK and its CKN (IEEE 802.1X). -/
opaque cmacByte (key m : Bytes) (i : Nat) : Byte
def cmac (key m : Bytes) : Bytes := (List.range 16).map (cmacByte key m)
opaque cakKdfByte (kind : Nat) (cak ckn : Bytes) (i : Nat) : Byte
def cakKdf (kind : Nat) (cak ckn : Bytes) : Bytes := (List.range 32).map (cakKdfByte kind cak ckn)

/-- Byte `i` of the AES-256-GCM ciphertext and tag of a message (SP 800-38D), and the opening of ciphertext and tag. -/
opaque gcmByte (key iv aad m : Bytes) (i : Nat) : Byte
def gcmSeal (key iv aad m : Bytes) : Bytes := (List.range (m.length + 16)).map (gcmByte key iv aad m)
opaque gcmOpen (key iv aad c : Bytes) : Option Bytes

/-- Byte `i` of a bulk AES-XTS operation from its first tweak (R410 states no data unit). -/
opaque xtsBulkByte (enc : Bool) (key tweak m : Bytes) (i : Nat) : Byte
/-- The bytes that the SHAKE256 operation of BULK writes (R410 states no output length). -/
opaque bulkShakeLen : Nat

/-- Does the seal counter that the `n`-th reseat through object 0x7005 writes read back (R412). -/
opaque reseatReads (n : Nat) : Bool

/-- Byte `i` of the `n`-th draw from the DRBG, and of raw noise samples. -/
opaque drbgByte (n i : Nat) : Byte
opaque noiseByte (n i : Nat) : Byte

/-- The content of a Zstandard Compressed_Block of a chunk (RFC 8878). -/
opaque zstdBlock (chunk : Bytes) : Bytes

/-- The xxHash-64 of a byte string. -/
opaque xxh64 (b : Bytes) : Nat

/-- The MACsec frame (SecTAG, protected data, ICV) of a frame under a key and packet number (IEEE 802.1AE-2018). -/
opaque macsecSeal (key : Bytes) (pn : Nat) (frame : Bytes) : Bytes

/-- The user data of a MACsec frame whose ICV verifies under a key and packet number, none where it does not. -/
opaque macsecOpen (key : Bytes) (pn : Nat) (frame : Bytes) : Option Bytes

end Sys2Proof.Config
end

