-- ==== Sys2Proof/Machine/State.lean ====
section
/-!
DEFINITION. The state of the block as plain data, the reasons a step can stop, and the state after reset.

Every register field of the spec's register tables lives in ONE register file (`Dev.regs`), a sorted sparse map from a
field's key to its value: a key that is not listed reads the Reset column's value (R8). The state that the rules give an engine
beside its registers (queues, buffers, counters in progress) is a structure of its own below. Sparse maps from a
number to a value are sorted lists too, so that equal states are equal data.
-/
namespace Sys2Proof.Machine

/-- A map from a number (a channel, a port, an address) to a value: strictly rising keys. -/
abbrev SMap (α : Type) := List (Nat × α)

/-- The field types of Table 0.4. -/
inductive FieldType where
  | ro | rw | wo | w1c | w1s | rc | rwl
  deriving DecidableEq, Repr

/-- How a register's channel is chosen (08 R208, and the chapters' own index registers): `global` has none, `window` is the
CHSEL window of its block, the rest are selected by an index register of their block. -/
inductive Chan where
  | global | window | captProfile | captStream | captHist | fabPort | fabRoute | faultRecord | faultSource | trigger | capture
  deriving DecidableEq, Repr

/-- One register field of the spec's register tables: the device address of its (low) word, its lowest bit there, its
width (more than 32 for a LO/HI pair or a 64-bit counter), type and reset value, whether each requester has its own
copy, and for an array of registers the number of elements and their distance in bytes. -/
structure Field where
  addr : Nat
  lo : Nat := 0
  width : Nat := 32
  ty : FieldType := .ro
  reset : Nat := 0
  perReq : Bool := false
  count : Nat := 1
  stride : Nat := 0
  chan : Chan := .global
  deriving DecidableEq, Repr

/-- Which of the index spaces of one block numbers a field's channels: fields of streams, histograms, routes, sources and captures lie at the addresses of
other fields of their block, under CHSEL values of their own (R208). -/
def Chan.space : Chan → Nat
  | .captStream => 1
  | .captHist => 2
  | .fabRoute => 1
  | .faultSource => 1
  | .capture => 1
  | _ => 0

/-- Where a field's value is stored: element address, lowest bit, channel, requester + 1 for a private copy (else 0), and the index space of the
channel. -/
structure Key where
  addr : Nat
  lo : Nat
  chan : Nat
  req : Nat
  space : Nat := 0
  deriving DecidableEq, Repr

/-- The register file: keys strictly rising, no entry equal to the field's reset value. -/
abbrev RegFile := List (Key × Nat)

/-- An event as the sampler takes it (R30-R32): its class, its source number, and what it names (a location, a value). -/
structure Ev where
  cls : Nat
  src : Nat
  info : Nat := 0
  deriving DecidableEq, Repr

/-! ## Islands, ticks and resets (chapter 1) -/

/-- What a boundary action does when the next event tick begins (R26, R71, R105, R145, R187, R314). -/
inductive BndAct where
  /-- SET: the counter takes seconds and nanoseconds (R71). `ahead`: a START was sampled earlier in the tick but acts later (R72). -/
  | timeSet (sec ns : Nat) (ahead : Bool)
  /-- STEP: the counter moves by a signed number of 2^-16 ns (R71). `ahead` as for SET. -/
  | timeStep (off : Nat) (ahead : Bool)
  /-- SLEW: the offset is added gradually (R71, R76). -/
  | slew (off : Nat)
  /-- HOLDOVER of the servo (R71, R77). -/
  | holdover
  /-- CLEAR_INTEG (R71, R80). -/
  | clearInteg
  /-- The bank swap of the pipelines (R145). -/
  | classSwap
  /-- The bank swap of capture (R314). -/
  | captSwap
  /-- START of the sequencer (R105). -/
  | seqStart
  /-- STOP of the sequencer (R105). -/
  | seqStop
  /-- RELEASE of a cluster (R389). -/
  | clRelease (c : Nat)
  /-- RELEASE of a service controller (R389). -/
  | svRelease (k : Nat)
  deriving DecidableEq, Repr

/-- A boundary action with the class and source of its write, which order it among the tick's others (R31). -/
structure Bnd where
  cls : Nat
  src : Nat
  act : BndAct
  deriving DecidableEq, Repr

/-- The event tick (R29-R33). `etick` counts whole ticks since G0 left reset; `sampled` holds the present tick's events in
the order taken, `log` the ordered log with each event's tick; `wrote` the rank (class, source) of the last configuration
write to a register in this tick; `acts` the boundary actions sampled in this tick. -/
structure Ticks where
  etick : Nat := 0
  sampled : List Ev := []
  log : List (Nat × Ev) := []
  wrote : List (Key × Nat) := []
  acts : List Bnd := []
  deriving DecidableEq, Repr

/-- Resets (R22-R28, R433, R456). `asked` maps a group to the event tick of its request, `active` lists the groups in reset,
`cold` is the cause of a cold reset that is due; PERST_N, PERSTB_N as recognised, RESET_N, and the trip that holds every
group but G0 (R427); the time base at the start of G7's reset in 2^-16 ns (R312); groups whose objects are being reapplied, and whether those
of a cold reset still are (R434, R392). -/
structure Resets where
  asked : SMap Nat := []
  active : List Nat := []
  cold : Option Nat := none
  perstA : Bool := false
  perstB : Bool := false
  resetNLow : Bool := false
  tripHold : Bool := false
  t0 : Nat := 0
  reload : List Nat := []
  booting : Bool := false
  /-- PERSIST_STATUS bit 0: a value failed its check since the cold reset (R357). -/
  defaulted : Bool := false
  /-- Down-and-up cycles of the reset pair of two groups, keyed 8 × lower + higher (R23, R24). -/
  ups : SMap Nat := []
  deriving DecidableEq, Repr

/-- One value lacing (R14-R18): values placed and not yet captured, and values the receiver has taken, in order. -/
structure Lacing where
  held : List Nat := []
  taken : List Nat := []
  deriving DecidableEq, Repr

/-! ## Power, errors, availability (chapter 17) -/

/-- An error report (R428, R429): event tick, source, R31 class, location, error code, bits corrected. -/
structure Report where
  tick : Nat
  src : Nat
  cls : Nat
  loc : Nat
  code : Nat
  nbits : Nat
  deriving DecidableEq, Repr

/-- A report as it enters the log: with HELD and GROUP_RESET, and the reports of its source suppressed before it. -/
structure LogRec where
  rep : Report
  held : Bool
  grpReset : Bool
  suppressed : Nat
  deriving DecidableEq, Repr

/-- One error source (R430): its two pending slots, the tick of its last record, reports suppressed since. -/
structure ErrSource where
  first : Option Report := none
  latest : Option Report := none
  lastTick : Option Nat := none
  suppressed : Nat := 0
  deriving DecidableEq, Repr

/-- Error logging in AON (R430, R431): the sources, the FIFO toward MRAM, the congestion episode, the ticks since the FIFO
last passed a record on. -/
structure Faults where
  sources : SMap ErrSource := []
  fifo : List LogRec := []
  congested : Bool := false
  drainTicks : Nat := 0
  deriving DecidableEq, Repr

/-- The power controller (R417-R427): islands with a wake request, islands in OFF with a save copy, whether the quiet window has
begun, the thermal limit and the samples since its last change (hot and cool), throttle entries and exits; cluster transitions in
progress with their targets, those of them that wait for the regulator, abandonments; rails that have left tolerance since the last cold reset. `nextTb`
holds an island's next event on the time base (2^-32 ns), `nextE` its next event in event ticks (R422). -/
structure Power where
  wakes : List Nat := []
  saved : List Nat := []
  quiet : Bool := false
  limit : Nat := 7
  hot : Nat := 0
  cool : Nat := 0
  throttles : Nat := 0
  opp : SMap Nat := []
  rising : List Nat := []
  avsFaults : Nat := 0
  rails : Nat := 0
  nextTb : SMap Nat := []
  nextE : SMap Nat := []
  deriving DecidableEq, Repr

/-! ## Capture (chapter 12) -/

/-- A capture candidate at its capture point (R303-R306): direction, flags, egress or ingress port, timestamp in 2^-16 ns, GSN, the
frame's bytes with its FCS, class, parser profile and key, malformed cause, cookie of the flow entry it hit, queue of the rule. -/
structure Cand where
  tx : Bool := false
  seq : Bool := false
  late : Bool := false
  malf : Option Nat := none
  macsec : Bool := false
  notSent : Bool := false
  port : Nat := 0
  stamp : Nat := 0
  gsn : Nat := 0
  data : Bytes := []
  cls : Nat := 0
  profile : Nat := 0
  key : Bytes := []
  cookie : Option Nat := none
  queue : Nat := 0
  deriving DecidableEq, Repr

/-- A run of dropped records (R311, R312): timestamps of the first and last, their number. -/
structure LossRun where
  first : Nat
  last : Nat
  count : Nat
  deriving DecidableEq, Repr

/-- A chunk of whole records (R309): its bytes, the number of records, whether it holds a LOSS record, TIME cycle of its first. -/
structure Chunk where
  bytes : Bytes := []
  records : Nat := 0
  loss : Bool := false
  start : Nat := 0
  deriving DecidableEq, Repr

/-- A stream (R308-R313): its open chunk, closed chunks that wait for Skiver or storing, segments in staging and how many of them
have been handed to the destination, segments since its last enable, the run of losses, its drain pointer in a namespace (R310). -/
structure CaptStream where
  chunk : Chunk := {}
  closed : List Chunk := []
  segs : List Bytes := []
  sent : Nat := 0
  segNo : Nat := 0
  loss : Option LossRun := none
  drainPtr : Nat := 0
  deriving DecidableEq, Repr

/-- Capture's own state: streams; the window of each profile (R307); timestamps of the last received candidate by profile × 16 +
port (R317); sketch counters by (bank × 4 + row) × 2^20 + counter; histogram buckets by (bank × 64 + channel) × 2048 +
bucket, with HG_TOTAL at 2046 and HG_SUM at 2047; flow counters; TIME picosecond until which the intake is busy; the streams in the
order in which their chunks closed. -/
structure Capture where
  streams : SMap CaptStream := []
  windows : SMap (Nat × Nat) := []
  prev : SMap Nat := []
  sketch : SMap Nat := []
  hist : SMap Nat := []
  flows : SMap (Nat × Nat) := []
  busy : Nat := 0
  order : List Nat := []
  deriving DecidableEq, Repr

/-! ## Network ports and the time base (chapters 2 and 3) -/

/-- A PAUSE or PFC frame that a port sends: class enables (0 for PAUSE) and quanta (R54). -/
structure PfcFrame where
  port : Nat
  classes : Nat
  quanta : Nat
  deriving DecidableEq, Repr

/-- The MAC's own state: quanta that pause a class (key 8 × port + class), ingress occupancy last seen in 256-byte units, flow
control frames sent, frames that each port has sent to a pipeline (R121). -/
structure PortState where
  pausedBy : SMap Nat := []
  occ : SMap Nat := []
  pfcSent : List PfcFrame := []
  parsed : SMap Nat := []
  deriving DecidableEq, Repr

/-- The calibration values of a port (R86): rate code, effective receive and transmit delays in 2^-16 ns. -/
structure CalEff where
  rate : Nat
  dRx : Int
  dTx : Int
  deriving DecidableEq, Repr

/-- Calibration (R84-R87): values in force (none stored: those of the fused delays and user values at cold reset), changes
with the event tick in which they were sampled, the MGMT rate code, the digest. -/
structure Cal where
  eff : SMap CalEff := []
  due : List (Nat × Nat × CalEff) := []
  mgmtRate : Nat := 9
  digest : Bytes := List.replicate 8 0#8
  deriving DecidableEq, Repr

/-- An offset sample that waits for the servo (R76, R79): its source, the STEP_GEN of its measurement, θ in 2^-16 ns. -/
structure Sample where
  src : Nat
  gen : Nat
  theta : Int
  deriving DecidableEq, Repr

/-- The time base and its servo (R67-R80). `t` is the counter as one number in units of 2^-32 ns; `slew` the phase not yet
removed in the same unit; `integ` INTEG; samples that wait; the TIME cycle of the last accepted sample, `fresh` when the next
one counts 1 s (R76); good and bad samples in a row; TIME cycles of the entry to the present state and of the last PPS_IN
edge; TB_INCR low words staged per requester; the PLL's source and its frequency hold; steps
since the last boundary, each as the counter before and after (R74). -/
structure TimeBase where
  t : Nat := 0
  slew : Int := 0
  integ : Int := 0
  samples : List Sample := []
  lastCyc : Nat := 0
  fresh : Bool := true
  good : Nat := 0
  bad : Nat := 0
  entryCyc : Nat := 0
  ppsCyc : Nat := 0
  incrLo : SMap Nat := []
  pllSrc : Nat := 0
  pllHold : Bool := false
  jumps : List (Nat × Nat) := []
  deriving DecidableEq, Repr

/-! ## Frames, queues and gates (chapter 7) -/

/-- A frame in the packet buffer or on its way out. `len` is L, FCS included; `bytes` excludes the FCS. `src` is the source of R139:
a port, or 16 for hosts and cores. `job` names the transmit job, `oneStep` 1 origin or 2 turnaround insertion at offset `osOff`
with reference `tRef` and UDP checksum at `csOff` (R82, Table 9.3), `launch` the launch time in 2^-16 ns (R191), `cap` the capture profile of a received frame
whose class captures (R317). -/
structure Frame where
  id : Nat := 0
  src : Nat := 0
  bytes : Bytes := []
  len : Nat := 64
  colour : Nat := 0
  stamp : Nat := 0
  job : Option Nat := none
  oneStep : Nat := 0
  osOff : Nat := 0
  csOff : Nat := 0
  tRef : Nat := 0
  launch : Option Nat := none
  tc : Nat := 0
  cut : Bool := false
  cap : Option Nat := none
  deriving DecidableEq, Repr

/-- A shaper's credit in 2^-10 bit, as it stood at a time in picoseconds of the TIME clock, from which its last frame has occupied a
line of rate `line` for `occ`; the RATE and BURST in force since (R181). -/
structure Credit where
  c : Int := 0
  t0 : Nat := 0
  occ : Nat := 0
  line : Nat := 0
  rate : Nat := 0
  burst : Nat := 0
  deriving DecidableEq, Repr

/-- A frame as it left a port: the bytes on the wire, its transmit timestamp in 2^-16 ns (R62). -/
structure WireFrame where
  port : Nat
  id : Nat
  bytes : Bytes
  stamp : Nat
  deriving DecidableEq, Repr

/-- What Rein reports to the ring engine of a frame of source 16: its completion status (Table 9.7, R178, R186), timestamp, launch status (R194). -/
structure TxDone where
  job : Nat
  status : Nat
  stamp : Nat
  launch : Nat
  deriving DecidableEq, Repr

/-- Rein's own state: queues, launch lists by port, deficits and turns (of queues; of classes, key 8 × port + class),
credits, the time in picoseconds until which each port's line is busy, frames sent, reports, bytes in the shared buffer. -/
structure ReinState where
  queues : SMap (List Frame) := []
  launch : SMap (List Frame) := []
  defQ : SMap Nat := []
  defTc : SMap Nat := []
  turnQ : SMap Nat := []
  turnTc : SMap Nat := []
  credQ : SMap Credit := []
  credTc : SMap Credit := []
  busy : SMap Nat := []
  wire : List WireFrame := []
  done : List TxDone := []
  used : Nat := 0
  nextId : Nat := 1
  deriving DecidableEq, Repr

/-- A gate control list (R185): entries as gate bits and interval in ns, base and cycle time in ns. -/
structure GateList where
  base : Nat := 0
  cycle : Nat := 1000000000
  entries : List (Nat × Nat) := [(0xFF, 8)]
  deriving DecidableEq, Repr

/-- One port's gates: the active list; shadow entries by index (register words); the start of the running cycle on the time
base in ns, none before the first; the next cycle start; the present entry; whether a step holds it until that start; a pending change
with its earliest time in ns. -/
structure GatePort where
  active : GateList := {}
  shadow : SMap Nat := []
  start : Option Nat := none
  next : Option Nat := none
  entry : Nat := 0
  hold : Bool := false
  pend : Option Nat := none
  deriving DecidableEq, Repr

/-- A policer's buckets in scaled bytes, as of a TIME cycle, and the rates and sizes in force since (R183, R184). -/
structure Bucket where
  tc : Nat := 0
  tp : Nat := 0
  t0 : Nat := 0
  cir : Nat := 0
  pir : Nat := 0
  cbs : Nat := 0
  pbs : Nat := 0
  deriving DecidableEq, Repr

/-- An installed MACsec SA (R58-R60): its key, the next packet number (transmit) or one above the highest accepted (receive), the key slot
that it came from. -/
structure MacSa where
  key : Bytes := []
  nextPn : Nat := 1
  cak : Nat := 0
  deriving DecidableEq, Repr

/-! ## Pins (chapter 18) -/

/-- Output levels and sampled inputs: THERM_TRIP_N asserted, PF_DONE, BOOT_DONE, BOOT_ERR, PPS_OUT, pulses on TRIG_OUT (trigger,
pins, TIME cycle of the end), DS_PERST released, straps as sampled (R444: bit 0 PCIE_SPLIT, 1 RECOVERY_EN, 2 PCIE_SRIS), VDD_FUSE
within tolerance (R447), REF_SYS lost (R451). -/
structure Pins where
  thermTrip : Bool := false
  pfDone : Bool := false
  bootDone : Bool := false
  bootErr : Nat := 0
  ppsOut : Bool := false
  pulses : List (Nat × Nat × Nat) := []
  dsPerst : Nat := 0
  straps : Nat := 0
  fuseOk : Bool := true
  refLost : Bool := false
  deriving DecidableEq, Repr

/-! ## Triggers, captures and PPS (chapter 3) -/

/-- An armed trigger (R90-R92): the time of its next fire in 2^-32 ns, fires left (none: endless), the event tick of a LATE fire to come. -/
structure Trigger where
  next : Option Nat := none
  left : Option Nat := none
  late : Option Nat := none
  deriving DecidableEq, Repr

/-- TRIG's own state: triggers; capture FIFOs by channel, each entry a time in 1/16 ns and its edge (R94); seconds of PPS_OUT already driven, as
ranges, the TIME cycle at which its pulse ends (R93); interrupt sources raised at the clusters (Table 3.9 bit 11, R435). -/
structure TrigState where
  trigs : SMap Trigger := []
  fifos : SMap (List (Nat × Bool)) := []
  driven : List (Nat × Nat) := []
  ppsEnd : Nat := 0
  irq : List Nat := []
  deriving DecidableEq, Repr

/-! ## Host functions, rings and event queues (chapters 8 and 9) -/

/-- A posted write as it entered HOST's outbound queue (R214): function, host address, bytes. An MSI-X message is one too (R207). -/
structure HostWrite where
  fn : Nat
  addr : Nat
  bytes : Bytes
  deriving DecidableEq, Repr

/-- What an outstanding host memory read is for (HOST_READ_COMPLETION): the buffer of entry `entry` of a transmit job, the data of
the payload of the SQ job at an index of a queue pair, the request that a queue pair executes, an NVMe submission entry, a pointer list
or a data range of an NVMe command. -/
inductive ReadFor where
  | tx (ring job entry : Nat)
  | iraJob (qp idx : Nat)
  | iraExec (qp : Nat)
  | nvmeSqe (ctrl sq head : Nat)
  | nvmeList (ctrl cmd : Nat)
  | nvmeData (ctrl cmd seg : Nat)
  deriving DecidableEq, Repr

/-- A host memory read that has left HOST and has not returned (R213). -/
structure HostRead where
  id : Nat
  fn : Nat
  what : ReadFor
  addr : Nat
  len : Nat
  tick : Nat
  deriving DecidableEq, Repr

/-- A function (R207, R212-R216): the step 5 that follows its IDLE (0 none, 1 an FLR's, 2 that of R198), the tick of its last disable's
start, the VFs that VF Enable has enabled and whether VF Enable has since been cleared, D3hot, Function Mask, the MSI-X entries written, the
pending vectors. -/
structure FnState where
  step5 : Nat := 0
  since : Nat := 0
  vfEn : Nat := 0
  vfOff : Bool := false
  d3 : Bool := false
  mask : Bool := false
  table : SMap Bytes := []
  pba : List Nat := []
  deriving DecidableEq, Repr

/-- A WAIT in progress (R232): its target as a device ring or queue pair, THRESH, TIMEOUT in µs, the TIME cycle of its start. -/
structure WaitState where
  qp : Bool
  target : Nat
  thresh : Nat
  timeout : Nat
  start : Nat
  deriving DecidableEq, Repr

/-- A started job of a transmit ring (R226, R227, R230): index of its first entry, its descriptors, the entries whose payload has not
come, the payload by entry, its completion status once its work has ended, timestamp, launch status, malformed cause; a frame
that waits for buffer or launch-list space with its port and queue number; the WAIT it is. -/
structure Job where
  id : Nat
  first : Nat
  descs : List Bytes
  need : List Nat := []
  data : SMap Bytes := []
  status : Option Nat := none
  stamp : Nat := 0
  launch : Nat := 0
  malf : Nat := 0
  held : Option (Nat × Nat × Frame) := none
  wait : Option WaitState := none
  /-- The WAIT's target count when it ended; the capture candidate of the frame with its profile (R304). -/
  count : Nat := 0
  cap : Option (Nat × Cand) := none
  deriving DecidableEq, Repr

/-- A ring's own state (R223): descriptor copies by index, jobs started and not completed. -/
structure RingState where
  kept : SMap Bytes := []
  jobs : List Job := []
  deriving DecidableEq, Repr

/-- A frame that waits to be written into a receive ring, with the fields of its completion (Table 9.5). -/
structure RxItem where
  bytes : Bytes
  len : Nat
  stamp : Nat := 0
  status : Nat := 0
  seq : Bool := false
  late : Bool := false
  colour : Nat := 0
  port : Nat := 0
  cls : Nat := 0
  queue : Nat := 0
  gsn : Nat := 0
  tick : Nat := 0
  cause : Nat := 0
  awl : Nat := 0
  deriving DecidableEq, Repr

/-- A running moderation timer (R241): the TIME cycle at which it expires, a notification written since the last message. -/
structure EqTimer where
  due : Nat
  wrote : Bool
  deriving DecidableEq, Repr

/-- HOST (chapters 8 and 9): functions; the TotalVFs, MSI-X table sizes and doorbell pages in force for each PF (R202); posted
writes in order; reads outstanding; rings by device number; frames to deliver by device ring; moderation timers by device
event queue; segments drained from the journal and from capture since G2 left reset; reads
whose tag is retired, with their link. -/
structure HostState where
  fns : SMap FnState := []
  vfs : List Nat := [0, 0, 0, 0, 0, 0, 0, 0]
  pfMsix : List Nat := [2048, 2048, 2048, 2048, 2048, 2048, 2048, 2048]
  vfMsix : List Nat := [64, 64, 64, 64, 64, 64, 64, 64]
  pfDb : List Nat := [16, 16, 16, 16, 16, 16, 16, 16]
  vfDb : List Nat := [1, 1, 1, 1, 1, 1, 1, 1]
  out : List HostWrite := []
  reads : List HostRead := []
  nextRead : Nat := 0
  rings : SMap RingState := []
  nextJob : Nat := 0
  rx : SMap (List RxItem) := []
  timers : SMap EqTimer := []
  segs : SMap Nat := []
  retired : SMap Nat := []
  deriving DecidableEq, Repr

/-! ## Forwarding tables (chapter 6) -/

/-- A flow entry (Table 6.2); `flags` is byte 42. -/
structure FlowEntry where
  profile : Nat
  kl : Nat
  key : Bytes
  flags : Nat
  port : Nat
  queue : Nat
  cookie : Nat
  deriving DecidableEq, Repr

/-- A MAC entry (Table 6.3). -/
structure MacEntry where
  addr : Nat
  fid : Nat
  port : Nat
  hit : Bool
  stat : Bool
  drop : Bool
  move : Nat
  deriving DecidableEq, Repr

/-- A learn request (R160-R164): the tick in which it was taken, its event source, its port, its key. -/
structure LearnReq (α : Type) where
  tick : Nat
  src : Nat
  port : Nat
  key : α
  deriving DecidableEq, Repr

/-- The forwarding structures (R149): flow and MAC entries by slot, the versions of their buckets (R157), the flow cache as the slots
of each set from the latest hit (R152), the learn FIFOs (R161), trie, set and next-hop words by channel × 2^28 + index (Table 6.13). -/
structure Tables where
  flow : SMap FlowEntry := []
  mac : SMap MacEntry := []
  flowVer : SMap Nat := []
  macVer : SMap Nat := []
  cache : SMap (List Nat) := []
  macFifo : List (LearnReq (Nat × Nat)) := []
  flowFifo : List (LearnReq (Nat × Nat × Bytes)) := []
  lpm : SMap Nat := []
  deriving DecidableEq, Repr

/-! ## Classification (chapter 5) -/

/-- A rule of an exact-match table (R133): its key is padded to the table's width. -/
structure Rule where
  profile : Nat
  kl : Nat
  key : Bytes
  cls : Nat
  colour : Nat
  queue : Nat
  deriving DecidableEq, Repr

/-- Classification's own state: rules by bank × 8 + table and slot, committed class entries as their four words (R138). Profiles,
patterns and geometry of both banks are register channels. -/
structure Classifier where
  rules : SMap (SMap Rule) := []
  classes : SMap (List Nat) := []
  deriving DecidableEq, Repr

/-! ## Stitch and Hide (chapter 4) -/

/-- A received frame with what parsing and classification found, as it waits for the sequencer or its delivery: source, pipeline, L,
timestamp, bytes 0 to L - 5, FCS, class, profile, queue, colour, Awl result, key; the cause found at the end of an enrolled frame
(R142); MACsec verified; its class's capture profile; function and local ring of its disposition; queue at or beyond
RING_COUNT; the frame digest (R97). -/
structure RxFrame where
  src : Nat := 0
  pipe : Nat := 0
  len : Nat := 64
  stamp : Nat := 0
  bytes : Bytes := []
  fcs : Bytes := []
  cls : Nat := 0
  profile : Nat := 0
  queue : Nat := 0
  colour : Nat := 0
  awl : Nat := 0
  key : Bytes := []
  cause : Option Nat := none
  macsec : Bool := false
  cap : Option Nat := none
  fn : Nat := 0
  ring : Nat := 0
  miss : Bool := false
  digest : Bytes := []
  deriving DecidableEq, Repr

/-- An enrolled frame in its tick (R99, R102): local enrolment index, tick of placement, LATE. -/
structure SeqFrame where
  rx : RxFrame
  p : Nat
  tick : Nat
  late : Bool
  deriving DecidableEq, Repr

/-- A closed tick of a cluster member that waits for its reply (R110): its frames by source in arrival order, TIME cycles of the first and
the latest sending of its summary. -/
structure Batch where
  frames : List SeqFrame
  first : Nat
  last : Nat
  deriving DecidableEq, Repr

/-- A summary at the root (R110, R112): member, its tick, counts by source, placed late. -/
structure SumRec where
  member : Nat
  tick : Nat
  counts : List Nat
  late : Bool
  deriving DecidableEq, Repr

/-- A message for the fabric (R344): type, destination, payload. -/
structure FabMsg where
  ty : Nat
  dst : Nat
  payload : Bytes
  deriving DecidableEq, Repr

/-- Stitch (R96-R113). Start and stop boundaries on the time base; frames on their way to Stitch; open ticks; the lowest open tick;
watermarks in 2^-16 ns; the sources that block the lowest tick with the TIME cycle since which they do (R103); the record FIFO
(R116); bytes in the sequenced hold area (R119); a member's batches; the root's members with their source counts, summaries by
tick of placement in order of arrival, TIME cycle of the latest summary by tick, replies sent by member × 2^48 + tick, its lowest
open tick; messages for the fabric. -/
structure Stitch where
  start : Nat := 0
  stop : Option Nat := none
  way : List RxFrame := []
  ticks : SMap (List SeqFrame) := []
  next : Nat := 0
  wm : SMap Nat := []
  blocked : Option (Nat × Nat × List Nat) := none
  fifo : List Bytes := []
  hold : Nat := 0
  batches : SMap Batch := []
  members : SMap Nat := []
  sums : SMap (List SumRec) := []
  lastSum : SMap Nat := []
  replies : SMap Bytes := []
  rootNext : Nat := 0
  out : List FabMsg := []
  deriving DecidableEq, Repr

/-- A segment of the record ring (R119): its bytes, whether it is a seal, ready (a seal is once signed), handed to the destination. -/
structure HideSeg where
  bytes : Bytes
  isSeal : Bool := false
  ready : Bool := true
  sent : Bool := false
  deriving DecidableEq, Repr

/-- Hide (R114-R120): the chain head; the open block's raw records and their coded form; segments in ring order; since the previous
seal: first GSN, last GSN, blocks, a gap record, records; records since the last period boundary; the TIME cycle of the next period
boundary; bodies of unsigned seals; a range of GSNs not recorded (its first raw record and last GSN); the drain pointer in a namespace (R300). -/
structure Hide where
  chain : Bytes := []
  recs : List Bytes := []
  coded : Bytes := []
  segs : List HideSeg := []
  first : Option Nat := none
  last : Nat := 0
  blocks : Nat := 0
  gapSeen : Bool := false
  count : Nat := 0
  period : Nat := 0
  due : Nat := 0
  unsigned : List Bytes := []
  gap : Option (Bytes × Nat) := none
  drainPtr : Nat := 0
  deriving DecidableEq, Repr

/-! ## Fabric (chapter 13) -/

/-- A TC 7 frame that a fabric port has sent and holds (R329): its LSEQ, its bytes without HCRC and FCS made final, the TIME cycle of
its last sending. -/
structure FabHeld where
  lseq : Nat
  bytes : Bytes
  sent : Nat
  deriving DecidableEq, Repr

/-- A time exchange at the child (R340, R341): number, STEP_GEN of the parent in its SYNC, the own STEP_GEN at t2, t1 to t3 in 2^-16 ns; its port,
and whether the parent has changed since. -/
structure FabExch where
  num : Nat
  gen : Nat
  own : Nat
  t1 : Nat
  t2 : Nat
  t3 : Nat
  port : Nat := 0
  moved : Bool := false
  deriving DecidableEq, Repr

/-- One fabric port (R322-R329): next LSEQ and held frames; highest LSEQ received in order and those beyond it; egress queues by TC; the
TIME picosecond until which its line is busy; the TIME cycle of the latest HELLO, the peer's capabilities and servo STATE as
it shows them. -/
structure FabPort where
  lseq : Nat := 0
  held : List FabHeld := []
  rxSeq : Option Nat := none
  ahead : List Nat := []
  queues : SMap (List Bytes) := []
  busy : Nat := 0
  hello : Nat := 0
  caps : Nat := 0
  servo : Nat := 0
  deriving DecidableEq, Repr

/-- A stored LSA (R331): origin's UID, its payload (Table 13.4), its sequence number, the TIME cycle in which it was stored. -/
structure FabLsa where
  uid : Nat
  payload : Bytes
  seq : Nat
  cyc : Nat
  deriving DecidableEq, Repr

/-- An object message that arrived over the fabric (R345): type 6 or 7, source address, the SOP message; whether it was broadcast. -/
structure FabObj where
  ty : Nat
  src : Nat
  bytes : Bytes
  bcast : Bool
  deriving DecidableEq, Repr

/-- The fabric (R321-R346): ports; frames sent, as (port, bytes); the link-state database; the last sequence number originated; addresses
that ADDR messages have given, as (UID, address); the exchange in progress; the next exchange number; object messages that wait for the object engine. -/
structure FabState where
  ports : SMap FabPort := []
  wire : List (Nat × Bytes) := []
  lsdb : List FabLsa := []
  ownSeq : Nat := 0
  given : List (Nat × Nat) := []
  exch : Option FabExch := none
  num : Nat := 0
  objIn : List FabObj := []
  deriving DecidableEq, Repr

/-! ## NVMe storage (chapter 11) -/

/-- A submission queue: host base, entries, its completion queue, head and tail. -/
structure NvSq where
  base : Nat
  size : Nat
  cq : Nat
  head : Nat := 0
  tail : Nat := 0
  deriving DecidableEq, Repr

/-- A completion queue: host base, entries, MSI-X vector and its enable, head, tail, phase of the next entry, completions that wait for a
slot (R277), each without its phase. -/
structure NvCq where
  base : Nat
  size : Nat
  vector : Nat
  ien : Bool
  head : Nat := 0
  tail : Nat := 0
  phase : Bool := true
  wait : List Bytes := []
  deriving DecidableEq, Repr

/-- A fetched command: number, SQ, CID, entry; the acceptance number at its fetch (R285); its phase: 0 not dispatched, 1 reading its
pointer lists, 2 reading its data, 3 at a backend, 4 waiting for media, 5 waiting for an extent copy, 6 a write waiting for room in the buffer; the host ranges found and bytes still to be
found; host reads missing; data from the host by range; data by extent; data that came with the request (R291). -/
structure NvCmd where
  id : Nat
  sq : Nat
  cid : Nat
  sqe : Bytes
  mark : Nat
  phase : Nat := 0
  segs : List (Nat × Nat) := []
  rem : Nat := 0
  need : List Nat := []
  data : SMap Bytes := []
  parts : SMap Bytes := []
  overlay : SMap Bytes := []
  inline : Bytes := []
  deriving DecidableEq, Repr

/-- A controller (R275, R278): CC, AQA, ASQ, ACQ, the interrupt mask; queues by number, 0 for Admin; the SQ served last; whether an entry is
being read; commands outstanding in order of fetch; Asynchronous Event Requests that wait, by SQ and CID; events not yet reported (Dword 0);
features by number. Numbers from 1,024 on are the IRA targets (R291). -/
structure NvCtrl where
  cc : Nat := 0
  aqa : Nat := 0
  asq : Nat := 0
  acq : Nat := 0
  intm : Nat := 0
  sqs : SMap NvSq := []
  cqs : SMap NvCq := []
  turn : Nat := 0
  reading : Bool := false
  cmds : List NvCmd := []
  aers : List (Nat × Nat) := []
  events : List Nat := []
  feats : SMap Nat := []
  deriving DecidableEq, Repr

/-- A dirty block of the buffer: its bytes as stored, the number of the acceptance that wrote it, the number of the first acceptance that is not on media;
the last acceptance of each controller. -/
structure NvBlock where
  data : Bytes
  ver : Nat
  since : Nat
  ctrls : SMap Nat := []
  deriving DecidableEq, Repr

/-- An extent with dirty blocks (R286), by LBA. -/
structure NvExtent where
  ns : Nat
  ext : Nat
  blocks : SMap NvBlock
  deriving DecidableEq, Repr

/-- A request at a backend (R285, R286, R291, R299, R300): its kind (0 read, 1 destage, 2 extent copy, 3 journal drain, 4 capture drain), namespace and
extent, first LBA and blocks or bytes, the command it serves, the blocks it writes with their acceptance numbers, its bytes. -/
structure NvReq where
  id : Nat
  backend : Nat
  kind : Nat
  ns : Nat
  ext : Nat
  first : Nat
  count : Nat
  ctrl : Nat := 0
  cmd : Nat := 0
  vers : List (Nat × Nat) := []
  data : Bytes := []
  deriving DecidableEq, Repr

/-- The image of a snapshot (R299), by source namespace: the blocks that were dirty at the cut, spare extents in use. -/
structure NvSnap where
  frozen : SMap Bytes := []
  used : Nat := 0
  deriving DecidableEq, Repr

/-- STOR (chapter 11): controllers; dirty extents in order; the last acceptance number; the extent map by index (R280); requests; failed attempts and
retry times (TIME cycles) by backend, backends that are FAILED; snapshot images and those lost; snapshots skipped, snapshot fires whose cut comes at the
end of the tick; IRA messages received by queue pair;
whether the power-fail sequence has ended. -/
structure NvState where
  ctrls : SMap NvCtrl := []
  dirty : List NvExtent := []
  accepted : Nat := 0
  map : SMap Bytes := []
  reqs : List NvReq := []
  nextReq : Nat := 0
  nextCmd : Nat := 0
  tries : SMap Nat := []
  retry : SMap Nat := []
  failed : List Nat := []
  snaps : SMap NvSnap := []
  snapLost : List Nat := []
  skipped : Nat := 0
  snapDue : Nat := 0
  inbox : List (Nat × Bytes) := []
  pfDone : Bool := false
  deriving DecidableEq, Repr

/-! ## The enclave (chapter 16) -/

/-- The module's state (R395-R415). `keys` holds the AES-XTS keys of the slots as loaded (R292), `bulk` the bulk keys; slots in the order of their
GO writes; outputs inhibited (R399); event ticks of the entries to ERROR within the last 600 s, that of the present one; the slot whose
SELF_TEST runs; a JTAG challenge with the event tick of its issue; the JTAG scopes open; the principals' last accepted counters (R363);
whether a non-approved service has been executed (R396). -/
structure EnclState where
  keys : SMap Bytes := []
  bulk : SMap Bytes := []
  order : List Nat := []
  inhibit : Bool := false
  errs : List Nat := []
  errAt : Nat := 0
  testSlot : Option Nat := none
  challenge : Option (Bytes × Nat) := none
  scope : Nat := 0
  ctr : SMap Nat := []
  deriving DecidableEq, Repr

/-! ## Boot (chapter 15) -/

/-- The two slots of the external flash (R380): the bytes of their bundles. -/
structure Flash where
  a : Bytes := []
  b : Bytes := []
  deriving DecidableEq, Repr

/-- The enclave's boot state (R381-R389): whether the boot has halted, the event tick of cluster 0's release while the watchdog of R384
runs, the header of the running bundle, the measurement registers (unlisted: zero), the SRAMs of the service controllers as last
copied, their verified regions (offset, length). -/
structure BootState where
  halted : Bool := false
  since : Option Nat := none
  header : Bytes := []
  mreg : SMap Bytes := []
  sram : SMap Bytes := []
  svRegion : SMap (Nat × Nat) := []
  deriving DecidableEq, Repr
/-! ## Object dictionary, MGMT frames, hitless update (chapters 14 and 17) -/

/-- The path of a request (Table 14.5): a mailbox; MGMT, with the bytes of its frame before the UDP payload; the fabric, from an
address, sent to this device or to all. -/
inductive ObjPath where
  | mailbox (m : Nat)
  | mgmt (hdr : Bytes)
  | fabric (src : Nat) (bcast : Bool)
  deriving DecidableEq, Repr

/-- A request at the engine (R354): its path and its bytes, tag included. -/
structure ObjReq where
  path : ObjPath
  bytes : Bytes
  deriving DecidableEq, Repr

/-- What a request that the engine has executed waits for before its response leaves: a tick boundary (R458), the end of a BANK_CLEAR,
of the self-tests (R355). -/
inductive ObjWait where
  | boundary | bankClear | selfTest
  deriving DecidableEq, Repr

/-- An open segmented write (R359): requester (a principal, 16 + a mailbox), object, offset of the next byte, bytes of the item that is not
complete, items applied, the event tick of its last segment. -/
structure ObjXfer where
  who : Nat
  idx : Nat
  sub : Nat
  next : Nat
  part : Bytes := []
  items : Nat := 0
  tick : Nat
  deriving DecidableEq, Repr

/-- A request forwarded to another device (R367): its path, the address it went to, its first 32 bytes, the event tick of its sending; a
broadcast that has had a response. -/
structure ObjProxy where
  path : ObjPath
  dst : Nat
  head : Bytes
  tick : Nat
  got : Bool := false
  deriving DecidableEq, Repr

/-- A frame that waits for the MGMT line (R375): its bytes without FCS; a core frame with the entries of its job, and its one-step values
as Rein's frames hold them (R82). -/
structure MgFrame where
  bytes : Bytes
  job : List Bytes := []
  oneStep : Nat := 0
  deriving DecidableEq, Repr

/-- The MGMT frame interface (R373-R376): frames that wait, frames sent with their timestamps in 2^-16 ns, the transmit ring's FETCH (the receive
ring's equals its CI), each ring's error. -/
structure MgState where
  ready : List MgFrame := []
  wire : List (Bytes × Nat) := []
  fetch : Nat := 0
  errTx : Bool := false
  errRx : Bool := false
  deriving DecidableEq, Repr

/-- The dictionary engine (R348-R371): requests that wait; the one whose response waits, and for what; open transfers; the last request
accepted for each principal with its response (R364); forwarded requests; the event tick of the last 0x0501 or 0x0502 response (R361);
counters of 0x1113; operations applied by CL_RULES and FLOW_OPS; FW_STAGE, FW_REJECT, whether slot A is being erased. -/
structure ObjState where
  queue : List ObjReq := []
  wait : Option (ObjReq × ObjWait) := none
  xfers : List ObjXfer := []
  last : SMap (Bytes × Bytes) := []
  proxies : List ObjProxy := []
  denied : Option Nat := none
  sopRx : Nat := 0
  sopAuthFail : Nat := 0
  sopReplay : Nat := 0
  sopBusy : Nat := 0
  sopSuppressed : Nat := 0
  sopProxyTimeout : Nat := 0
  sopMalformed : Nat := 0
  rulesDone : Nat := 0
  flowDone : Nat := 0
  fwStage : Nat := 0
  fwReject : Nat := 0
  erasing : Bool := false
  mg : MgState := {}
  deriving DecidableEq, Repr

/-- A hitless update (R435, R436): the staged header, the header that stands as fallback, the event tick of the release of the new main
image. -/
structure Hitless where
  staged : Bytes := []
  header : Bytes := []
  since : Option Nat := none
  deriving DecidableEq, Repr

/-! ## IRA (chapter 10) -/

/-- A packet on its way to RDMA (R245, R331): a frame received on port `port` without its FCS, or a fabric packet from address `fab`. -/
structure IraIn where
  port : Nat
  fab : Option Nat
  bytes : Bytes
  deriving DecidableEq, Repr

/-- A packet (Table 10.1): base header fields, extension, payload. -/
structure IraPkt where
  op : Nat
  flags : Nat := 0
  path : Nat := 0
  dqp : Nat := 0
  sqp : Nat := 0
  psn : Nat := 0
  msn : Nat := 0
  off : Nat := 0
  mlen : Nat := 0
  grant : Nat := 0
  ext : Bytes := []
  data : Bytes := []
  deriving DecidableEq, Repr

/-- A packet of the sender's side: the SQ job it belongs to (none for a response), the PSNs that it takes, the TIME cycle of its last
sending, its timer in ns, retransmissions, RETRY_LATERs in a row, the TIME cycle at which an RNR delay ends. -/
structure IraTx where
  pkt : IraPkt
  job : Option Nat := none
  span : Nat := 1
  at' : Nat := 0
  rto : Nat := 0
  tries : Nat := 0
  rnr : Nat := 0
  due : Option Nat := none
  deriving DecidableEq, Repr

/-- A started SQ job (R254-R256, R269): its index and descriptor, its MSN once cut into packets, its payload once read, its status
once ended, original value, acknowledged bytes, pieces of a READ placed as (offset, length), the WAIT it is with its count at the end. -/
structure IraJob where
  idx : Nat
  desc : Bytes
  msn : Option Nat := none
  data : Option Bytes := none
  status : Option Nat := none
  orig : Nat := 0
  acked : Nat := 0
  got : List (Nat × Nat) := []
  wait : Option WaitState := none
  inbound : Bool := false
  count : Nat := 0
  deriving DecidableEq, Repr

/-- An inbound message (R261, R269): opcode, length, pieces placed, immediate, SSN, whether it is complete, its completion status;
the pieces of a SEND that STOR takes (R291). -/
structure IraMsg where
  op : Nat
  len : Nat
  got : List (Nat × Nat) := []
  imm : Nat := 0
  ssn : Nat := 0
  full : Bool := false
  status : Nat := 0
  data : SMap Bytes := []
  deriving DecidableEq, Repr

/-- The message that a RoCEv2 responder receives (R272): opcode in IRA terms, address, key, length, bytes placed, its RQ entry. -/
structure RoceMsg where
  op : Nat
  va : Nat
  key : Nat
  len : Nat
  off : Nat
  deriving DecidableEq, Repr

/-- A queue pair's own state, its context (R250). Queues: kept copies of SQ and RQ entries. Sender: started jobs, packets not yet sent,
packets not acknowledged, PSNs to send again, packets without PSN, the path for the next packet, paths' last timer
retransmissions, ends of degradation, next MSN and SSN, units sent. Receiver: PSNs placed beyond A, the next message to release, the
next SSN, messages, packets held, the request in execution, units received, packets placed since the last ACK with the TIME
cycle of the first, missing PSNs with the TIME cycle since which or of their last NAK, the TIME cycle since which a raised grant
waits to be sent, the TIME cycle of the last packet with a PSN. RoCEv2: the message in reception, a NAK sent for the present gap, the MSN of AETH, messages and SENDs begun. -/
structure QpState where
  sqKept : SMap Bytes := []
  rqKept : SMap Bytes := []
  jobs : List IraJob := []
  ready : List IraTx := []
  unacked : List IraTx := []
  again : List Nat := []
  ctl : List IraPkt := []
  nextPath : Nat := 0
  timed : SMap Nat := []
  degraded : SMap Nat := []
  nextMsn : Nat := 0
  nextSsn : Nat := 0
  sent : Nat := 0
  got : List Nat := []
  expMsn : Nat := 0
  expSsn : Nat := 0
  msgs : SMap IraMsg := []
  held : List IraPkt := []
  exec : Option IraPkt := none
  units : Nat := 0
  acks : Nat := 0
  ackFrom : Option Nat := none
  gaps : SMap Nat := []
  creditFrom : Option Nat := none
  lastRx : Option Nat := none
  roce : Option RoceMsg := none
  roceNak : Bool := false
  roceMsn : Nat := 0
  rxMsns : Nat := 0
  rxSsns : Nat := 0
  deriving DecidableEq, Repr

/-- A memory region (R252): function, protection domain, MR_ATTR [19:16], address, length, tag. -/
structure MemRegion where
  fn : Nat
  pd : Nat
  access : Nat
  addr : Nat
  len : Nat
  tag : Nat
  deriving DecidableEq, Repr

/-- RDMA's own state (R244-R272): packets that have arrived; queue pairs by device number; memory regions by index and the last tag of
each index; contexts on die from the least recently used, fetches outstanding and waiting, the context-miss buffer with each
packet's queue pair; words locked by an atomic as (function, address, queue pair). -/
structure IraState where
  inbox : List IraIn := []
  qps : SMap QpState := []
  mr : SMap MemRegion := []
  tags : SMap Nat := []
  cached : List Nat := []
  fetching : List Nat := []
  fetchWait : List Nat := []
  cmb : List (Nat × IraIn) := []
  locks : List (Nat × Nat × Nat) := []
  deriving DecidableEq, Repr

/-! ## The device -/

/-- The HBM layout in force, in GiB, and the verified regions (base, length) that only the enclave writes (R36-R38, R387). -/
structure HbmCtl where
  journal : Nat := 1
  capture : Nat := 2
  verified : List (Nat × Nat) := []
  deriving DecidableEq, Repr

/-- What MRAM holds across every reset (R357, R432): object values, the error log ring by index, its next sequence number,
rails that left tolerance (R446), a thermal trip not yet reported as a cold reset's cause (R427), and whether VDD_MRAM lies too
low for a write (R446). -/
structure Mram where
  obj : SMap Bytes := []
  log : SMap LogRec := []
  logSeq : Nat := 0
  railFaults : Nat := 0
  tripped : Bool := false
  down : Bool := false
  /-- Journal epoch J (R106); the words of the seal counter's region whose check bits are valid, the largest the counter; the seal store
  by slot (R118). -/
  epoch : Nat := 0
  sealWords : SMap Nat := [(0, 0)]
  sealStore : SMap Bytes := []
  /-- The active bank's profiles, patterns, geometry and seeds at the last swap, as channels of bank 0 (R147). -/
  bank : RegFile := []
  /-- Storage objects (R302): backend entries, namespace entries, attachments as the bits of their controllers; the result of the last power-fail
  sequence (R297); the vault on its drive: whether it was finished, and its extents (R298). -/
  backends : SMap Bytes := []
  namespaces : SMap Bytes := []
  attach : SMap Nat := []
  pfResult : Nat := 0
  vault : Option (Bool × List NvExtent) := none
  /-- Key records (R402) by type × 65,536 + index: a principal's key, a CAK with its CKN, an XTS key; receipts by principal (R408); the ceilings
  z of R363; the cause and the number of tampers (R414). -/
  keyRec : SMap Bytes := []
  receipts : SMap Bytes := []
  ceil : SMap Nat := []
  tamperCause : Nat := 0
  tampers : Nat := 0
  /-- The flash slot to skip at the next boot (R384). -/
  skip : Option Nat := none
  /-- Items of segmented RWP objects by the object's key and the item (R359); the keys of the objects that RESTORE_DEFAULTS marked (R370). -/
  items : SMap (SMap Bytes) := []
  marks : List Nat := []
  deriving DecidableEq, Repr

/-- Everything of the block but the queue, the fuses and HBM's contents. -/
structure Dev where
  regs : RegFile := []
  tk : Ticks := {}
  rst : Resets := {}
  vlac : SMap Lacing := []
  ports : PortState := {}
  cal : Cal := {}
  tb : TimeBase := {}
  rein : ReinState := {}
  pins : Pins := {}
  trig : TrigState := {}
  gates : SMap GatePort := []
  police : SMap Bucket := []
  /-- SA entries by key (port × 128 + SC) × 4 + AN, and SC entries (Table 2.13) by port × 128 + SC (R57-R60). -/
  sa : SMap MacSa := []
  sc : SMap Bytes := []
  hbmc : HbmCtl := {}
  host : HostState := {}
  tab : Tables := {}
  cls : Classifier := {}
  capt : Capture := {}
  seq : Stitch := {}
  hide : Hide := {}
  ira : IraState := {}
  fab : FabState := {}
  nvme : NvState := {}
  encl : EnclState := {}
  boot : BootState := {}
  flash : Flash := {}
  obj : ObjState := {}
  hu : Hitless := {}
  pwr : Power := {}
  faults : Faults := {}
  mram : Mram := {}
  /-- Functions that a disable has put out of service and that have not returned (R215). -/
  fnOut : List Nat := []
  /-- What the last read command returned: a word, bytes, and whether they are marked poisoned (the model's own). -/
  rdata : Nat := 0
  rbytes : Bytes := []
  rpoison : Bool := false
  /-- The counter that free values are drawn by (the model's own, log entry 5). -/
  fv : Nat := 0
  deriving DecidableEq, Repr

/-- One-time programmable fuses (R377, R379, R414): revoked key slots, the security version, tamper-permanent armed, DS_KILL. -/
structure Fuses where
  revoked : Nat := 0
  svn : Nat := 0
  tamperArm : Bool := false
  dsKill : Bool := false
  deriving DecidableEq, Repr

/-- The state of the machine: the commands that wait, first in first out; the fuses; HBM; the rest of the device. -/
structure State where
  pending : List Instr
  fuse : Fuses
  hbm : List Host.Cell
  dev : Dev
  deriving DecidableEq, Repr

/-- Why the machine stops with a fault. No command of the block does: its errors are state (INVENTORY.md, Faults). -/
inductive Fault where
  /-- Raised by nothing: the spec gives every command an effect. Safe. -/
  | none
  deriving DecidableEq, Repr

/-- Why a command has no meaning. -/
inductive Refusal where
  /-- Raised by an arm of `exec` whose command has no meaning yet. Safe: nothing is claimed of it. -/
  | notModelled (mnemonic : String)
  deriving DecidableEq, Repr

/-- The machine right after reset: no command waits, every register at its Reset column (R8), HBM and MRAM empty. -/
def State.reset : State := { pending := [], fuse := {}, hbm := [], dev := {} }

end Sys2Proof.Machine
end

