-- ==== Sys2Proof/Machine/RegsA.lean ====
section
/-!
DEFINITION. The register fields of the spec, one definition for each, taken from the register tables of spec/ (the table number stands in
each docstring). A field of a multi-channel block has a channel; LO/HI pairs and 64-bit counters are one wide field. This file: chapters 1 to 7.
-/
namespace Sys2Proof.Machine.R

/-- Table 1.3: Number of event lacings (channels 0–511) -/
def LACE_INFO : Field := { addr := 0x00300010, width := 10, reset := 512 }
/-- Table 1.3: Event tick count [31:0]. A read latches ETICK_HI for the same requester -/
def ETICK_LO : Field := { addr := 0x00300018 }
/-- Table 1.3: Event tick count [63:32], as latched by that requester's last ETICK_LO read -/
def ETICK_HI : Field := { addr := 0x0030001C, perReq := true }
/-- Table 1.3: Bit b of word w mirrors OVERRUN of channel 32·w + b -/
def OVR_SUM : Field := { addr := 0x00300040, count := 16, stride := 4 }
/-- Table 1.3: Island code of the sender -/
def LC_ID_SRC_ISLAND : Field := { addr := 0x00301000, width := 6, chan := .window }
/-- Table 1.3: Island code of the receiver -/
def LC_ID_DST_ISLAND : Field := { addr := 0x00301000, lo := 8, width := 6, chan := .window }
/-- Table 1.3: 0 pulse, 1 interrupt, 2 count, 3 reserved -/
def LC_ID_KIND : Field := { addr := 0x00301000, lo := 16, width := 2, chan := .window }
/-- Table 1.3: Local index of the event carried (R459) -/
def LC_ID_SOURCE : Field := { addr := 0x00301000, lo := 18, width := 6, chan := .window }
/-- Table 1.3: 1 for every lacing of a present unit; 0 for an absent unit (R459) -/
def LC_ID_PRESENT : Field := { addr := 0x00301000, lo := 31, width := 1, chan := .window }
/-- Table 1.3: Sticky; set under R20 -/
def LC_STATUS_OVERRUN : Field := { addr := 0x00301004, width := 1, ty := .w1c, chan := .window }
/-- Table 1.3: 1 while the lacing is held in reset -/
def LC_STATUS_DOWN : Field := { addr := 0x00301004, lo := 1, width := 1, chan := .window }
/-- Table 1.3: 1 while an event is untaken -/
def LC_STATUS_PENDING : Field := { addr := 0x00301004, lo := 2, width := 1, chan := .window }
/-- Table 1.3: Events not carried; saturates at 0xFFFF_FFFF -/
def LC_LOST : Field := { addr := 0x00301008, ty := .rc, chan := .window }
/-- Table 1.3: Down-and-up cycles of this lacing; wraps at 0xFFFF -/
def LC_RESETS : Field := { addr := 0x0030100C, width := 16, chan := .window }

/-- The fields of Table 1.3. -/
def table1_3 : List Field :=
  [LACE_INFO, ETICK_LO, ETICK_HI, OVR_SUM, LC_ID_SRC_ISLAND, LC_ID_DST_ISLAND, LC_ID_KIND, LC_ID_SOURCE, LC_ID_PRESENT, LC_STATUS_OVERRUN, LC_STATUS_DOWN, LC_STATUS_PENDING, LC_LOST, LC_RESETS]

/-- Table 1.5: Bit g requests a reset of group g; reads 1 while group g is in reset -/
def GRP_RESET : Field := { addr := 0x00200000, lo := 2, width := 6, ty := .w1s }
/-- Table 1.5: Bit g sets when group g leaves a reset -/
def GRP_RESET_DONE : Field := { addr := 0x00200004, lo := 2, width := 6, ty := .w1c }
/-- Table 1.5: Bit g sets when a request for group g is refused under R27 -/
def GRP_RESET_REFUSED : Field := { addr := 0x00200008, lo := 2, width := 6, ty := .w1c }
/-- Table 1.5: Bit g = 1 permits GRP_RESET requests for group g -/
def GRP_RESET_ALLOW : Field := { addr := 0x0020000C, lo := 2, width := 6, ty := .rwl, reset := 63 }
/-- Table 1.5: Locks GRP_RESET_ALLOW until cold reset -/
def RSTC_LOCK : Field := { addr := 0x00200010, width := 1, ty := .w1s }
/-- Table 1.5: Cause of the last cold reset: 0x0 power-on, 0x1 RESET_N, 0x2 THERM_TRIP_N, 0x3 tamper, ... -/
def COLD_CAUSE : Field := { addr := 0x00200014, width := 4 }

/-- The fields of Table 1.5. -/
def table1_5 : List Field :=
  [GRP_RESET, GRP_RESET_DONE, GRP_RESET_REFUSED, GRP_RESET_ALLOW, RSTC_LOCK, COLD_CAUSE]

/-- Table 1.13: HBM trained at boot (boot step 7) -/
def HM_STATUS_TRAINED : Field := { addr := 0x0A000010, width := 1 }
/-- Table 1.13: HBM in self-refresh (Table 17.2) -/
def HM_STATUS_SELF_REFRESH : Field := { addr := 0x0A000010, lo := 1, width := 1 }
/-- Table 1.13: Stack temperature, °C -/
def HM_STATUS_TEMP : Field := { addr := 0x0A000010, lo := 8, width := 8 }
/-- Table 1.13: Island code of the refused requester -/
def HM_REFUSE_INFO_ISLAND : Field := { addr := 0x0A000014, width := 6 }
/-- Table 1.13: Area 1–7 that holds the address; 0 for an address beyond 16 GiB -/
def HM_REFUSE_INFO_AREA : Field := { addr := 0x0A000014, lo := 8, width := 3 }
/-- Table 1.13: The refused access was a write -/
def HM_REFUSE_INFO_WRITE : Field := { addr := 0x0A000014, lo := 11, width := 1 }
/-- Table 1.13: Refused as a write to a verified region (R387) -/
def HM_REFUSE_INFO_VERIFIED : Field := { addr := 0x0A000014, lo := 12, width := 1 }
/-- Table 1.13: Address of the last refused access; a low read latches the high word -/
def HM_REFUSE_ADDR : Field := { addr := 0x0A000018, width := 64 }
/-- Table 1.13: R39; 0 disables scrubbing -/
def HM_SCRUB : Field := { addr := 0x0A000020, width := 16, ty := .rw, reset := 24 }
/-- Table 1.13: counter, R64 -/
def HM_CORR : Field := { addr := 0x0A000100, width := 64 }
/-- Table 1.13: counter, R64 -/
def HM_UNCORR : Field := { addr := 0x0A000108, width := 64 }
/-- Table 1.13: counter, R64 -/
def HM_REFUSED : Field := { addr := 0x0A000110, width := 64 }

/-- The fields of Table 1.13. -/
def table1_13 : List Field :=
  [HM_STATUS_TRAINED, HM_STATUS_SELF_REFRESH, HM_STATUS_TEMP, HM_REFUSE_INFO_ISLAND, HM_REFUSE_INFO_AREA, HM_REFUSE_INFO_WRITE, HM_REFUSE_INFO_VERIFIED, HM_REFUSE_ADDR, HM_SCRUB, HM_CORR, HM_UNCORR, HM_REFUSED]

/-- Table 2.7: Table 2.2; R41, R42 -/
def LG_MODE : Field := { addr := 0x02000010, width := 4, ty := .rw, count := 4, stride := 4 }
/-- Table 2.7: Bit g sets under R42 -/
def LG_MODE_REFUSED : Field := { addr := 0x02000020, width := 4, ty := .w1c }
/-- Table 2.7: Bit p = 1 if port p exists under the present modes -/
def PORT_FORMED : Field := { addr := 0x02000024, width := 16 }
/-- Table 2.7: Bit p = 1 while port p is in LSTATE 4 -/
def LINK_SUM : Field := { addr := 0x02000028, width := 16 }
/-- Table 2.7: Source lane -/
def SYNCE_RCLK_LANE : Field := { addr := 0x02000030, width := 4, ty := .rw, count := 2, stride := 4 }
/-- Table 2.7: R55 -/
def SYNCE_RCLK_DIV : Field := { addr := 0x02000030, lo := 4, width := 2, ty := .rw, count := 2, stride := 4 }
/-- Table 2.7: Output enabled; low when 0 -/
def SYNCE_RCLK_EN : Field := { addr := 0x02000030, lo := 6, width := 1, ty := .rw, count := 2, stride := 4 }
/-- Table 2.7: R55 -/
def SYNCE_RCLK_AUTO_SQUELCH : Field := { addr := 0x02000030, lo := 7, width := 1, ty := .rw, reset := 1, count := 2, stride := 4 }
/-- Table 2.7: Output squelched -/
def SYNCE_RCLK_SQUELCHED : Field := { addr := 0x02000030, lo := 8, width := 1, count := 2, stride := 4 }

/-- The fields of Table 2.7. -/
def table2_7 : List Field :=
  [LG_MODE, LG_MODE_REFUSED, PORT_FORMED, LINK_SUM, SYNCE_RCLK_LANE, SYNCE_RCLK_DIV, SYNCE_RCLK_EN, SYNCE_RCLK_AUTO_SQUELCH, SYNCE_RCLK_SQUELCHED]

/-- Table 2.8: Port enabled -/
def PT_CTRL_ENABLE : Field := { addr := 0x02001000, width := 1, ty := .rw, chan := .window }
/-- Table 2.8: Low-latency mode; R48 -/
def PT_CTRL_LL : Field := { addr := 0x02001000, lo := 1, width := 1, ty := .rw, chan := .window }
/-- Table 2.8: Table 2.3 -/
def PT_CTRL_FEC : Field := { addr := 0x02001000, lo := 2, width := 2, ty := .rw, chan := .window }
/-- Table 2.8: Clause 73 auto-negotiation -/
def PT_CTRL_AN_EN : Field := { addr := 0x02001000, lo := 4, width := 1, ty := .rw, chan := .window }
/-- Table 2.8: Link training -/
def PT_CTRL_LT_EN : Field := { addr := 0x02001000, lo := 5, width := 1, ty := .rw, chan := .window }
/-- Table 2.8: R52 -/
def PT_CTRL_FC : Field := { addr := 0x02001000, lo := 6, width := 2, ty := .rw, chan := .window }
/-- Table 2.8: 0 none, 1 PCS near-end, 2 PMA far-end, 3 reserved -/
def PT_CTRL_LPBK : Field := { addr := 0x02001000, lo := 8, width := 2, ty := .rw, chan := .window }
/-- Table 2.8: Table 2.4 -/
def PT_STATUS_LSTATE : Field := { addr := 0x02001004, width := 3, chan := .window }
/-- Table 2.8: R46 -/
def PT_STATUS_LINK_CHG : Field := { addr := 0x02001004, lo := 3, width := 1, ty := .w1c, chan := .window }
/-- Table 2.8: Local fault present -/
def PT_STATUS_LOCAL_FAULT : Field := { addr := 0x02001004, lo := 4, width := 1, chan := .window }
/-- Table 2.8: Remote fault received -/
def PT_STATUS_REMOTE_FAULT : Field := { addr := 0x02001004, lo := 5, width := 1, chan := .window }
/-- Table 2.8: High bit-error rate -/
def PT_STATUS_HI_BER : Field := { addr := 0x02001004, lo := 6, width := 1, chan := .window }
/-- Table 2.8: Largest frame in bytes, 64–9,216; a write outside the range is ignored -/
def PT_MTU : Field := { addr := 0x02001008, width := 14, ty := .rw, reset := 1522, chan := .window }
/-- Table 2.8: Classes that obey received PFC -/
def PT_PFC_PFC_RX_EN : Field := { addr := 0x0200100C, width := 8, ty := .rw, chan := .window }
/-- Table 2.8: Classes for which PFC is sent -/
def PT_PFC_PFC_TX_EN : Field := { addr := 0x0200100C, lo := 8, width := 8, ty := .rw, chan := .window }
/-- Table 2.8: Quanta in sent PFC or PAUSE frames -/
def PT_PFC_PAUSE_QUANTA : Field := { addr := 0x0200100C, lo := 16, width := 16, ty := .rw, reset := 0xffff, chan := .window }
/-- Table 2.8: In 256-byte units; R54 -/
def PT_PFC_THR_PFC_XOFF : Field := { addr := 0x02001010, width := 16, ty := .rw, reset := 512, chan := .window }
/-- Table 2.8: In 256-byte units -/
def PT_PFC_THR_PFC_XON : Field := { addr := 0x02001010, lo := 16, width := 16, ty := .rw, reset := 256, chan := .window }
/-- Table 2.8: Classes paused by the peer -/
def PT_PFC_STATUS_RX_PAUSED : Field := { addr := 0x02001014, width := 8, chan := .window }
/-- Table 2.8: Classes this port is pausing -/
def PT_PFC_STATUS_TX_PAUSED : Field := { addr := 0x02001014, lo := 8, width := 8, chan := .window }
/-- Table 2.8: P of the last received frame -/
def PT_CW_POS : Field := { addr := 0x02001018, width := 16, chan := .window }
/-- Table 2.8: V of the last received frame in 2⁻¹⁶ ns -/
def PT_CW_CORR : Field := { addr := 0x0200101C, chan := .window }
/-- Table 2.8: Copies every counter of the port to 0x1200–0x12FF in one event tick -/
def PT_CNT_SNAP : Field := { addr := 0x02001020, width := 1, ty := .wo, chan := .window }
/-- Table 2.8: snapshot area, R64 -/
def PT_SNAP : Field := { addr := 0x02001200, width := 64, count := 32, stride := 8, chan := .window }

/-- The fields of Table 2.8. -/
def table2_8 : List Field :=
  [PT_CTRL_ENABLE, PT_CTRL_LL, PT_CTRL_FEC, PT_CTRL_AN_EN, PT_CTRL_LT_EN, PT_CTRL_FC, PT_CTRL_LPBK, PT_STATUS_LSTATE, PT_STATUS_LINK_CHG, PT_STATUS_LOCAL_FAULT, PT_STATUS_REMOTE_FAULT, PT_STATUS_HI_BER, PT_MTU, PT_PFC_PFC_RX_EN, PT_PFC_PFC_TX_EN, PT_PFC_PAUSE_QUANTA, PT_PFC_THR_PFC_XOFF, PT_PFC_THR_PFC_XON, PT_PFC_STATUS_RX_PAUSED, PT_PFC_STATUS_TX_PAUSED, PT_CW_POS, PT_CW_CORR, PT_CNT_SNAP, PT_SNAP]

/-- Table 2.9: counter, R64 -/
def RX_FRAMES_OK : Field := { addr := 0x02001100, width := 64, chan := .window }
/-- Table 2.9: counter, R64 -/
def TX_STOMPED : Field := { addr := 0x02001140, width := 64, chan := .window }
/-- Table 2.9: counter, R64 -/
def RX_OCTETS_OK : Field := { addr := 0x02001108, width := 64, chan := .window }
/-- Table 2.9: counter, R64 -/
def TX_ABORT : Field := { addr := 0x02001148, width := 64, chan := .window }
/-- Table 2.9: counter, R64 -/
def RX_FCS_ERR : Field := { addr := 0x02001110, width := 64, chan := .window }
/-- Table 2.9: counter, R64 -/
def FEC_CORR_CW : Field := { addr := 0x02001150, width := 64, chan := .window }
/-- Table 2.9: counter, R64 -/
def RX_UNDERSIZE : Field := { addr := 0x02001118, width := 64, chan := .window }
/-- Table 2.9: counter, R64 -/
def FEC_UNCORR_CW : Field := { addr := 0x02001158, width := 64, chan := .window }
/-- Table 2.9: counter, R64 -/
def RX_OVERSIZE : Field := { addr := 0x02001120, width := 64, chan := .window }
/-- Table 2.9: counter, R64 -/
def FEC_CORR_SYMBOLS : Field := { addr := 0x02001160, width := 64, chan := .window }
/-- Table 2.9: counter, R64 -/
def RX_FRAGMENT : Field := { addr := 0x02001128, width := 64, chan := .window }
/-- Table 2.9: counter, R64 -/
def LINK_DOWN : Field := { addr := 0x02001168, width := 64, chan := .window }
/-- Table 2.9: counter, R64 -/
def TX_FRAMES : Field := { addr := 0x02001130, width := 64, chan := .window }
/-- Table 2.9: counter, R64 -/
def RX_PAUSE : Field := { addr := 0x02001170, width := 64, chan := .window }
/-- Table 2.9: counter, R64 -/
def TX_OCTETS : Field := { addr := 0x02001138, width := 64, chan := .window }
/-- Table 2.9: counter, R64 -/
def TX_PAUSE : Field := { addr := 0x02001178, width := 64, chan := .window }
/-- Table 2.9: counter per class, R64 -/
def RX_PFC : Field := { addr := 0x02001180, width := 64, count := 8, stride := 8, chan := .window }
/-- Table 2.9: counter per class, R64 -/
def TX_PFC : Field := { addr := 0x020011C0, width := 64, count := 8, stride := 8, chan := .window }

/-- The fields of Table 2.9. -/
def table2_9 : List Field :=
  [RX_FRAMES_OK, TX_STOMPED, RX_OCTETS_OK, TX_ABORT, RX_FCS_ERR, FEC_CORR_CW, RX_UNDERSIZE, FEC_UNCORR_CW, RX_OVERSIZE, FEC_CORR_SYMBOLS, RX_FRAGMENT, LINK_DOWN, TX_FRAMES, RX_PAUSE, TX_OCTETS, TX_PAUSE, RX_PFC, TX_PFC]

/-- Table 2.10: Protect transmitted frames -/
def MS_CTRL_TX_EN : Field := { addr := 0x02101000, width := 1, ty := .rw, chan := .window }
/-- Table 2.10: Verify received frames -/
def MS_CTRL_RX_EN : Field := { addr := 0x02101000, lo := 1, width := 1, ty := .rw, chan := .window }
/-- Table 2.10: 0 Disabled, 1 Check, 2 Strict, 3 reserved -/
def MS_CTRL_VALIDATE : Field := { addr := 0x02101000, lo := 2, width := 2, ty := .rw, reset := 2, chan := .window }
/-- Table 2.10: GCM-AES-XPN-256 -/
def MS_CTRL_XPN : Field := { addr := 0x02101000, lo := 4, width := 1, ty := .rw, chan := .window }
/-- Table 2.10: 0, 30 or 50 bytes; 3 reserved -/
def MS_CTRL_CONF_OFFSET : Field := { addr := 0x02101000, lo := 5, width := 2, ty := .rw, chan := .window }
/-- Table 2.10: SCI in the SecTAG -/
def MS_CTRL_INCLUDE_SCI : Field := { addr := 0x02101000, lo := 7, width := 1, ty := .rw, reset := 1, chan := .window }
/-- Table 2.10: R60 -/
def MS_STATUS_PN_THRESH : Field := { addr := 0x02101004, width := 1, ty := .w1c, chan := .window }
/-- Table 2.10: SC that last set PN_THRESH -/
def MS_STATUS_SC : Field := { addr := 0x02101004, lo := 8, width := 7, chan := .window }
/-- Table 2.10: counter, R64 -/
def MS_IN_OK : Field := { addr := 0x02101100, width := 64, chan := .window }
/-- Table 2.10: counter, R64 -/
def MS_IN_INVALID : Field := { addr := 0x02101108, width := 64, chan := .window }
/-- Table 2.10: counter, R64 -/
def MS_IN_NOT_VALID : Field := { addr := 0x02101110, width := 64, chan := .window }
/-- Table 2.10: counter, R64 -/
def MS_IN_LATE : Field := { addr := 0x02101118, width := 64, chan := .window }
/-- Table 2.10: counter, R64 -/
def MS_IN_NO_SA : Field := { addr := 0x02101120, width := 64, chan := .window }
/-- Table 2.10: counter, R64 -/
def MS_OUT_PROTECTED : Field := { addr := 0x02101128, width := 64, chan := .window }
/-- Table 2.10: counter, R64 -/
def MS_OUT_ENCRYPTED : Field := { addr := 0x02101130, width := 64, chan := .window }
/-- Table 2.10: counter, R64 -/
def MS_TX_PN_EXHAUSTED : Field := { addr := 0x02101138, width := 64, chan := .window }

/-- The fields of Table 2.10. -/
def table2_10 : List Field :=
  [MS_CTRL_TX_EN, MS_CTRL_RX_EN, MS_CTRL_VALIDATE, MS_CTRL_XPN, MS_CTRL_CONF_OFFSET, MS_CTRL_INCLUDE_SCI, MS_STATUS_PN_THRESH, MS_STATUS_SC, MS_IN_OK, MS_IN_INVALID, MS_IN_NOT_VALID, MS_IN_LATE, MS_IN_NO_SA, MS_OUT_PROTECTED, MS_OUT_ENCRYPTED, MS_TX_PN_EXHAUSTED]

/-- Table 2.11: Invert transmit polarity -/
def SD_CTRL_TX_INV : Field := { addr := 0x02201000, width := 1, ty := .rw, chan := .window }
/-- Table 2.11: Invert receive polarity -/
def SD_CTRL_RX_INV : Field := { addr := 0x02201000, lo := 1, width := 1, ty := .rw, chan := .window }
/-- Table 2.11: Pre-cursor tap -/
def SD_TXEQ_PRE : Field := { addr := 0x02201004, width := 6, ty := .rw, reset := 4, chan := .window }
/-- Table 2.11: Main tap -/
def SD_TXEQ_MAIN : Field := { addr := 0x02201004, lo := 6, width := 6, ty := .rw, reset := 48, chan := .window }
/-- Table 2.11: Post-cursor tap -/
def SD_TXEQ_POST : Field := { addr := 0x02201004, lo := 12, width := 6, ty := .rw, reset := 8, chan := .window }
/-- Table 2.11: Signal detected -/
def SD_STATUS_SIGNAL : Field := { addr := 0x02201008, width := 1, chan := .window }
/-- Table 2.11: CDR locked -/
def SD_STATUS_CDR_LOCK : Field := { addr := 0x02201008, lo := 1, width := 1, chan := .window }
/-- Table 2.11: Eye height in mV, from the last measurement made while CDR_LOCK = 1. Reads 0 while ... -/
def SD_STATUS_EYE : Field := { addr := 0x02201008, lo := 8, width := 8, chan := .window }

/-- The fields of Table 2.11. -/
def table2_11 : List Field :=
  [SD_CTRL_TX_INV, SD_CTRL_RX_INV, SD_TXEQ_PRE, SD_TXEQ_MAIN, SD_TXEQ_POST, SD_STATUS_SIGNAL, SD_STATUS_CDR_LOCK, SD_STATUS_EYE]

/-- Table 3.3: Servo enabled -/
def TB_CTRL_SERVO_EN : Field := { addr := 0x01000010, width := 1, ty := .rw }
/-- Table 3.3: R75 -/
def TB_CTRL_SRC : Field := { addr := 0x01000010, lo := 1, width := 2, ty := .rw }
/-- Table 3.3: Frequency taken from layer 1; R76 -/
def TB_CTRL_L1_SYNT : Field := { addr := 0x01000010, lo := 3, width := 1, ty := .rw }
/-- Table 3.3: Table 3.2 -/
def TB_STATUS_STATE : Field := { addr := 0x01000014, width := 2 }
/-- Table 3.3: R72, R80 -/
def TB_STATUS_CMD_REFUSED : Field := { addr := 0x01000014, lo := 2, width := 1, ty := .w1c }
/-- Table 3.3: 1 sequencer running, 2 invalid value, 3 servo state: SLEW or CLEAR_INTEG with SERVO_EN ... -/
def TB_STATUS_CMD_CAUSE : Field := { addr := 0x01000014, lo := 3, width := 2 }
/-- Table 3.3: R76 -/
def TB_STATUS_STEP_BLOCKED : Field := { addr := 0x01000014, lo := 5, width := 1, ty := .w1c }
/-- Table 3.3: R80 -/
def TB_STATUS_INCR_REFUSED : Field := { addr := 0x01000014, lo := 6, width := 1, ty := .w1c }
/-- Table 3.3: R75 -/
def TB_STATUS_SRC_REFUSED : Field := { addr := 0x01000014, lo := 7, width := 1, ty := .w1c }
/-- Table 3.3: A slew is in progress -/
def TB_STATUS_SLEWING : Field := { addr := 0x01000014, lo := 8, width := 1 }
/-- Table 3.3: INTEG is at ±TB_FREQ_LIMIT -/
def TB_STATUS_FREQ_CLAMP : Field := { addr := 0x01000014, lo := 9, width := 1 }
/-- Table 3.3: R77 -/
def TB_STATUS_STATE_CHG : Field := { addr := 0x01000014, lo := 10, width := 1, ty := .w1c }
/-- Table 3.3: Steps and sets since cold reset; wraps -/
def TB_STATUS_STEP_GEN : Field := { addr := 0x01000014, lo := 16, width := 16 }
/-- Table 3.3: Latches; R70 -/
def TB_NOW0 : Field := { addr := 0x01000018, perReq := true }
/-- Table 3.3: Latched seconds [31:0] -/
def TB_NOW1 : Field := { addr := 0x0100001C, perReq := true }
/-- Table 3.3: Latched seconds [47:32] -/
def TB_NOW2_SEC_HI : Field := { addr := 0x01000020, width := 16, perReq := true }
/-- Table 3.3: Latched 2⁻¹⁶ ns -/
def TB_NOW2_SUBNS : Field := { addr := 0x01000020, lo := 16, width := 16, perReq := true }
/-- Table 3.3: SET value -/
def TB_SET_NS : Field := { addr := 0x01000024, width := 30, ty := .rw }
/-- Table 3.3: SET value -/
def TB_SET_SEC_LO : Field := { addr := 0x01000028, ty := .rw }
/-- Table 3.3: SET value -/
def TB_SET_SEC_HI : Field := { addr := 0x0100002C, width := 16, ty := .rw }
/-- Table 3.3: Signed 64-bit, 2⁻¹⁶ ns -/
def TB_STEP_OFF : Field := { addr := 0x01000030, width := 64, ty := .rw }
/-- Table 3.3: 1 SET, 2 STEP, 3 SLEW, 4 HOLDOVER, 5 CLEAR_INTEG; others ignored -/
def TB_CMD : Field := { addr := 0x01000038, width := 3, ty := .wo }
/-- Table 3.3: R71 -/
def TB_CMD_TICK : Field := { addr := 0x0100003C }
/-- Table 3.3: Q32.32; LO stages per requester and HI commits; reads return the value in force; R80 -/
def TB_INCR : Field := { addr := 0x01000040, width := 64, ty := .rw, reset := 0x100000000 }
/-- Table 3.3: ns -/
def TB_STEP_THRESH : Field := { addr := 0x01000048, ty := .rw, reset := 1000 }
/-- Table 3.3: ppb, 1–200,000; writes outside are ignored -/
def TB_SLEW_MAX : Field := { addr := 0x0100004C, ty := .rw, reset := 0x186a0 }
/-- Table 3.3: ppb, 1–1,000,000; writes outside are ignored -/
def TB_FREQ_LIMIT : Field := { addr := 0x01000050, ty := .rw, reset := 0x7a120 }
/-- Table 3.3: Q0.16 -/
def TB_GAIN_KP : Field := { addr := 0x01000054, width := 16, ty := .rw, reset := 0xc000 }
/-- Table 3.3: Q0.16 -/
def TB_GAIN_KI : Field := { addr := 0x01000054, lo := 16, width := 16, ty := .rw, reset := 0x2000 }
/-- Table 3.3: ns -/
def TB_LOCK_LOCK_THRESH : Field := { addr := 0x01000058, width := 16, ty := .rw, reset := 20 }
/-- Table 3.3: Samples, 1–255. A value of 0 leaves LOCK_COUNT unchanged, and LOCK_THRESH is still ... -/
def TB_LOCK_LOCK_COUNT : Field := { addr := 0x01000058, lo := 16, width := 8, ty := .rw, reset := 16 }
/-- Table 3.3: ms -/
def TB_HO_TIMEOUT : Field := { addr := 0x0100005C, ty := .rw, reset := 3000 }
/-- Table 3.3: θ [31:0], staged per requester -/
def TB_SW_OFFSET_LO : Field := { addr := 0x01000060, ty := .wo, perReq := true }
/-- Table 3.3: θ [47:32], signed 48-bit, 2⁻¹⁶ ns -/
def TB_SW_OFFSET_HI_OFF_HI : Field := { addr := 0x01000064, width := 16, ty := .wo }
/-- Table 3.3: STEP_GEN of the measurement; the write submits -/
def TB_SW_OFFSET_HI_GEN : Field := { addr := 0x01000064, lo := 16, width := 16, ty := .wo }
/-- Table 3.3: Last accepted θ, signed 64-bit, 2⁻¹⁶ ns -/
def TB_LAST_OFFSET : Field := { addr := 0x01000068, width := 64 }
/-- Table 3.3: Signed, 2⁻³² ns per cycle -/
def TB_INTEG : Field := { addr := 0x01000070 }
/-- Table 3.3: Signed 64-bit, 2⁻¹⁶ ns -/
def TB_SLEW_REMAIN : Field := { addr := 0x01000074, width := 64 }
/-- Table 3.3: R78 -/
def TB_HO_ELAPSED : Field := { addr := 0x0100007C }
/-- Table 3.3: Grandmaster clockIdentity, written by software. Octet i of the clockIdentity, in wire ... -/
def TB_GM_ID : Field := { addr := 0x01000080, width := 64, ty := .rw }
/-- Table 3.3: R87 -/
def TB_CAL_DIGEST : Field := { addr := 0x01000088, width := 64 }
/-- Table 3.3: R79; saturates -/
def TB_SAMPLE_DISCARD : Field := { addr := 0x01000090, ty := .rc }

/-- The fields of Table 3.3. -/
def table3_3 : List Field :=
  [TB_CTRL_SERVO_EN, TB_CTRL_SRC, TB_CTRL_L1_SYNT, TB_STATUS_STATE, TB_STATUS_CMD_REFUSED, TB_STATUS_CMD_CAUSE, TB_STATUS_STEP_BLOCKED, TB_STATUS_INCR_REFUSED, TB_STATUS_SRC_REFUSED, TB_STATUS_SLEWING, TB_STATUS_FREQ_CLAMP, TB_STATUS_STATE_CHG, TB_STATUS_STEP_GEN, TB_NOW0, TB_NOW1, TB_NOW2_SEC_HI, TB_NOW2_SUBNS, TB_SET_NS, TB_SET_SEC_LO, TB_SET_SEC_HI, TB_STEP_OFF, TB_CMD, TB_CMD_TICK, TB_INCR, TB_STEP_THRESH, TB_SLEW_MAX, TB_FREQ_LIMIT, TB_GAIN_KP, TB_GAIN_KI, TB_LOCK_LOCK_THRESH, TB_LOCK_LOCK_COUNT, TB_HO_TIMEOUT, TB_SW_OFFSET_LO, TB_SW_OFFSET_HI_OFF_HI, TB_SW_OFFSET_HI_GEN, TB_LAST_OFFSET, TB_INTEG, TB_SLEW_REMAIN, TB_HO_ELAPSED, TB_GM_ID] ++
  [TB_CAL_DIGEST, TB_SAMPLE_DISCARD]

/-- Table 3.6: Factory RX for the present rate code -/
def CAL_F_RX : Field := { addr := 0x01001000, chan := .window }
/-- Table 3.6: Factory TX for the present rate code -/
def CAL_F_TX : Field := { addr := 0x01001004, chan := .window }
/-- Table 3.6: R85; loaded from 0x3180+p at boot -/
def CAL_CABLE : Field := { addr := 0x01001008, ty := .rw, chan := .window }
/-- Table 3.6: R85 -/
def CAL_ASYM : Field := { addr := 0x0100100C, ty := .rw, chan := .window }
/-- Table 3.6: R85 -/
def CAL_TX_CORR : Field := { addr := 0x01001010, ty := .rw, chan := .window }
/-- Table 3.6: R85 -/
def CAL_RX_CORR : Field := { addr := 0x01001014, ty := .rw, chan := .window }
/-- Table 3.6: R86 -/
def CAL_USER_TX : Field := { addr := 0x01001018, chan := .window }
/-- Table 3.6: R86 -/
def CAL_USER_RX : Field := { addr := 0x0100101C, chan := .window }
/-- Table 3.6: R86 -/
def CAL_EFF_TX : Field := { addr := 0x01001020, chan := .window }
/-- Table 3.6: R86 -/
def CAL_EFF_RX : Field := { addr := 0x01001024, chan := .window }
/-- Table 3.6: Table 3.5 -/
def CAL_STATUS_RATE : Field := { addr := 0x01001028, width := 4, chan := .window }
/-- Table 3.6: R86 -/
def CAL_STATUS_SAT : Field := { addr := 0x01001028, lo := 4, width := 1, chan := .window }

/-- The fields of Table 3.6. -/
def table3_6 : List Field :=
  [CAL_F_RX, CAL_F_TX, CAL_CABLE, CAL_ASYM, CAL_TX_CORR, CAL_RX_CORR, CAL_USER_TX, CAL_USER_RX, CAL_EFF_TX, CAL_EFF_RX, CAL_STATUS_RATE, CAL_STATUS_SAT]

/-- Table 3.10: Drive PPS_OUT -/
def PPS_CTRL_OUT_EN : Field := { addr := 0x01100010, width := 1, ty := .rw }
/-- Table 3.10: Drive only in LOCKED or HOLDOVER; low otherwise -/
def PPS_CTRL_OUT_QUAL : Field := { addr := 0x01100010, lo := 1, width := 1, ty := .rw, reset := 1 }
/-- Table 3.10: ns, 8 to 999,999,999; writes outside are ignored -/
def PPS_OUT_WIDTH : Field := { addr := 0x01100014, ty := .rw, reset := 0x186a0 }
/-- Table 3.10: Signed, 2⁻¹⁶ ns; board delay to the reference point, removed by advancing the edge -/
def PPS_OUT_DELAY : Field := { addr := 0x01100018, ty := .rw }
/-- Table 3.10: Bit n sets on each fire of TTn -/
def TRIG_FIRED_SUM : Field := { addr := 0x0110001C, width := 16, ty := .w1c }

/-- The fields of Table 3.10. -/
def table3_10 : List Field :=
  [PPS_CTRL_OUT_EN, PPS_CTRL_OUT_QUAL, PPS_OUT_WIDTH, PPS_OUT_DELAY, TRIG_FIRED_SUM]

/-- Table 3.11: R90–R92; clears when REPEAT is exhausted -/
def TT_CTRL : Field := { addr := 0x01101000, width := 1, ty := .rw, chan := .trigger }
/-- Table 3.11: Trigger armed -/
def TT_STATUS_ARMED : Field := { addr := 0x01101004, width := 1, chan := .trigger }
/-- Table 3.11: R92; Table 3.1 -/
def TT_STATUS_LATE : Field := { addr := 0x01101004, lo := 1, width := 1, ty := .w1c, chan := .trigger }
/-- Table 3.11: R91 -/
def TT_STATUS_ARM_REFUSED : Field := { addr := 0x01101004, lo := 2, width := 1, ty := .w1c, chan := .trigger }
/-- Table 3.11: R91 -/
def TT_STATUS_WR_REFUSED : Field := { addr := 0x01101004, lo := 3, width := 1, ty := .w1c, chan := .trigger }
/-- Table 3.11: REPEAT exhausted; clears on ARM -/
def TT_STATUS_DONE : Field := { addr := 0x01101004, lo := 4, width := 1, chan := .trigger }
/-- Table 3.11: Start time -/
def TT_START_NS : Field := { addr := 0x01101008, width := 30, ty := .rw, chan := .trigger }
/-- Table 3.11: 48-bit seconds; HI [31:16] reserved -/
def TT_START_SEC : Field := { addr := 0x0110100C, width := 48, ty := .rw, chan := .trigger }
/-- Table 3.11: ns, 64-bit; 0 means once -/
def TT_PERIOD : Field := { addr := 0x01101014, width := 64, ty := .rw, chan := .trigger }
/-- Table 3.11: ns -/
def TT_WIDTH : Field := { addr := 0x0110101C, ty := .rw, reset := 100, chan := .trigger }
/-- Table 3.11: Fires; 0 endless -/
def TT_REPEAT : Field := { addr := 0x01101020, ty := .rw, chan := .trigger }
/-- Table 3.11: Table 3.9 -/
def TT_TARGET : Field := { addr := 0x01101024, width := 12, ty := .rw, chan := .trigger }
/-- Table 3.11: Ports for bit 8 -/
def TT_PORTS : Field := { addr := 0x01101028, width := 16, ty := .rw, chan := .trigger }
/-- Table 3.11: Fires since ARM; wraps -/
def TT_FIRED : Field := { addr := 0x0110102C, chan := .trigger }
/-- Table 3.11: Occurrences jumped over by steps since ARM -/
def TT_MISSED : Field := { addr := 0x01101030, chan := .trigger }
/-- Table 3.11: Next fire time, laid out as TB_NOW0–2; zero while no fire is pending -/
def TT_NEXT : Field := { addr := 0x01101034, width := 96, chan := .trigger }

/-- The fields of Table 3.11. -/
def table3_11 : List Field :=
  [TT_CTRL, TT_STATUS_ARMED, TT_STATUS_LATE, TT_STATUS_ARM_REFUSED, TT_STATUS_WR_REFUSED, TT_STATUS_DONE, TT_START_NS, TT_START_SEC, TT_PERIOD, TT_WIDTH, TT_REPEAT, TT_TARGET, TT_PORTS, TT_FIRED, TT_MISSED, TT_NEXT]

/-- Table 3.12: Capture enabled -/
def TS_CTRL_EN : Field := { addr := 0x01101000, width := 1, ty := .rw, chan := .capture }
/-- Table 3.12: 1 rising, 2 falling, 3 both; 0 none -/
def TS_CTRL_EDGE : Field := { addr := 0x01101000, lo := 1, width := 2, ty := .rw, reset := 1, chan := .capture }
/-- Table 3.12: Entries in the FIFO, 0–16 -/
def TS_STATUS_COUNT : Field := { addr := 0x01101004, width := 5, chan := .capture }
/-- Table 3.12: R94 -/
def TS_STATUS_OVF : Field := { addr := 0x01101004, lo := 5, width := 1, ty := .w1c, chan := .capture }
/-- Table 3.12: R94 -/
def TS_DELAY : Field := { addr := 0x01101008, ty := .rw, chan := .capture }
/-- Table 3.12: A read pops the oldest entry and latches TS_HEAD1–3 for that requester; reads zero ... -/
def TS_HEAD0 : Field := { addr := 0x0110100C, perReq := true, chan := .capture }
/-- Table 3.12: Latched -/
def TS_HEAD1 : Field := { addr := 0x01101010, perReq := true, chan := .capture }
/-- Table 3.12: Latched -/
def TS_HEAD2_SEC_HI : Field := { addr := 0x01101014, width := 16, perReq := true, chan := .capture }
/-- Table 3.12: Latched -/
def TS_HEAD2_SUBNS : Field := { addr := 0x01101014, lo := 16, width := 16, perReq := true, chan := .capture }
/-- Table 3.12: Latched edge polarity -/
def TS_HEAD3 : Field := { addr := 0x01101018, width := 1, perReq := true, chan := .capture }
/-- Table 3.12: R94; saturates -/
def TS_LOST : Field := { addr := 0x0110101C, ty := .rc, chan := .capture }
/-- Table 3.12: Fused input delay of the ball, signed, 2⁻¹⁶ ns; R94 -/
def TS_F_DELAY : Field := { addr := 0x01101020, chan := .capture }

/-- The fields of Table 3.12. -/
def table3_12 : List Field :=
  [TS_CTRL_EN, TS_CTRL_EDGE, TS_STATUS_COUNT, TS_STATUS_OVF, TS_DELAY, TS_HEAD0, TS_HEAD1, TS_HEAD2_SEC_HI, TS_HEAD2_SUBNS, TS_HEAD3, TS_LOST, TS_F_DELAY]

/-- Table 4.6: Q = 2^K ns; 11–15 ignored; R106 -/
def SQ_CTRL_K : Field := { addr := 0x01200010, width := 4, ty := .rw, reset := 3 }
/-- Table 4.6: 0 stall, 1 gap; R119 -/
def SQ_CTRL_GAP_MODE : Field := { addr := 0x01200010, lo := 4, width := 1, ty := .rw }
/-- Table 4.6: Seal periods with no records -/
def SQ_CTRL_IDLE_SEAL : Field := { addr := 0x01200010, lo := 5, width := 1, ty := .rw, reset := 1 }
/-- Table 4.6: 0 standalone, 1 member, 2 root, 3 ignored -/
def SQ_CTRL_CL_ROLE : Field := { addr := 0x01200010, lo := 6, width := 2, ty := .rw }
/-- Table 4.6: Table 4.2 -/
def SQ_STATUS_STATE : Field := { addr := 0x01200014, width := 3 }
/-- Table 4.6: R105 -/
def SQ_STATUS_CMD_REFUSED : Field := { addr := 0x01200014, lo := 3, width := 1, ty := .w1c }
/-- Table 4.6: Numbered case 1–5 of R105; 6 STOP in STOPPED -/
def SQ_STATUS_CAUSE : Field := { addr := 0x01200014, lo := 4, width := 3 }
/-- Table 4.6: R106 -/
def SQ_STATUS_WR_IGNORED : Field := { addr := 0x01200014, lo := 7, width := 1, ty := .w1c }
/-- Table 4.6: R102 -/
def SQ_STATUS_LATE_SEEN : Field := { addr := 0x01200014, lo := 8, width := 1, ty := .w1c }
/-- Table 4.6: R103 -/
def SQ_STATUS_SRC_STALL : Field := { addr := 0x01200014, lo := 9, width := 1, ty := .w1c }
/-- Table 4.6: R119 -/
def SQ_STATUS_GAP : Field := { addr := 0x01200014, lo := 10, width := 1, ty := .w1c }
/-- Table 4.6: 1 START, 2 STOP; others ignored -/
def SQ_CMD : Field := { addr := 0x01200018, width := 2, ty := .wo }
/-- Table 4.6: R96 -/
def SQ_ENROL : Field := { addr := 0x0120001C, width := 16, ty := .rw }
/-- Table 4.6: Local P -/
def SQ_P : Field := { addr := 0x01200020, width := 5 }
/-- Table 4.6: 0–100,000; writes outside ignored -/
def SQ_GUARD : Field := { addr := 0x01200024, ty := .rw, reset := 200 }
/-- Table 4.6: Epoch -/
def SQ_EPOCH_NS : Field := { addr := 0x01200028, width := 30, ty := .rw }
/-- Table 4.6: 48-bit seconds; HI [31:16] reserved -/
def SQ_EPOCH_SEC : Field := { addr := 0x0120002C, width := 48, ty := .rw }
/-- Table 4.6: R106, R107 -/
def SQ_GSN_NEXT : Field := { addr := 0x01200034, width := 64, ty := .rw }
/-- Table 4.6: Last closed tick; low read latches high -/
def SQ_TICK_CLOSED : Field := { addr := 0x0120003C, width := 48 }
/-- Table 4.6: R103; 1,000–10,000,000 -/
def SQ_STALL_LIMIT : Field := { addr := 0x01200044, ty := .rw, reset := 0x2710 }
/-- Table 4.6: R102; saturates -/
def SQ_LATE : Field := { addr := 0x01200048, ty := .rc }
/-- Table 4.6: R97; saturates -/
def SQ_UNSEQ : Field := { addr := 0x0120004C, ty := .rc }
/-- Table 4.6: R119; saturates -/
def SQ_DROP : Field := { addr := 0x01200050, ty := .rc }
/-- Table 4.6: Sequenced hold in the packet buffer, 1,024–32,768 KiB -/
def SQ_HOLD_MAX : Field := { addr := 0x01200054, width := 16, ty := .rw, reset := 0x4000 }
/-- Table 4.6: R110 -/
def SQ_CL_BASE : Field := { addr := 0x01200060, width := 16, ty := .rw }
/-- Table 4.6: Cluster P; 0 outside cluster mode -/
def SQ_CL_P : Field := { addr := 0x01200064, width := 16, ty := .rw }
/-- Table 4.6: Root fabric address -/
def SQ_CL_ROOT : Field := { addr := 0x01200068, width := 12, ty := .rw }
/-- Table 4.6: R111 -/
def SQ_CL_TIMEOUT : Field := { addr := 0x0120006C, ty := .rw, reset := 0x4e20 }
/-- Table 4.6: R110 -/
def SQ_CL_MISMATCH : Field := { addr := 0x01200070, ty := .rc }
/-- Table 4.6: 128 words. Bit a mod 32 of word ⌊a / 32⌋: the member at fabric address a absent (R111; ... -/
def SQ_CL_ABSENT : Field := { addr := 0x01200080, ty := .w1c, count := 128, stride := 4 }

/-- The fields of Table 4.6. -/
def table4_6 : List Field :=
  [SQ_CTRL_K, SQ_CTRL_GAP_MODE, SQ_CTRL_IDLE_SEAL, SQ_CTRL_CL_ROLE, SQ_STATUS_STATE, SQ_STATUS_CMD_REFUSED, SQ_STATUS_CAUSE, SQ_STATUS_WR_IGNORED, SQ_STATUS_LATE_SEEN, SQ_STATUS_SRC_STALL, SQ_STATUS_GAP, SQ_CMD, SQ_ENROL, SQ_P, SQ_GUARD, SQ_EPOCH_NS, SQ_EPOCH_SEC, SQ_GSN_NEXT, SQ_TICK_CLOSED, SQ_STALL_LIMIT, SQ_LATE, SQ_UNSEQ, SQ_DROP, SQ_HOLD_MAX, SQ_CL_BASE, SQ_CL_P, SQ_CL_ROOT, SQ_CL_TIMEOUT, SQ_CL_MISMATCH, SQ_CL_ABSENT]

/-- Table 4.7: Local p -/
def SRC_STATUS_P_INDEX : Field := { addr := 0x01201000, width := 4, chan := .window }
/-- Table 4.7: Port enrolled -/
def SRC_STATUS_ENROLLED : Field := { addr := 0x01201000, lo := 4, width := 1, chan := .window }
/-- Table 4.7: R103 -/
def SRC_STATUS_STALLED : Field := { addr := 0x01201000, lo := 5, width := 1, chan := .window }
/-- Table 4.7: R101 -/
def SRC_STATUS_PASSED : Field := { addr := 0x01201000, lo := 6, width := 1, chan := .window }
/-- Table 4.7: W − SQ_EPOCH in ns, U64 -/
def SRC_WM : Field := { addr := 0x01201004, width := 64, chan := .window }
/-- Table 4.7: Frames sequenced from this port -/
def SRC_EVENTS : Field := { addr := 0x01201010, width := 64, chan := .window }

/-- The fields of Table 4.7. -/
def table4_7 : List Field :=
  [SRC_STATUS_P_INDEX, SRC_STATUS_ENROLLED, SRC_STATUS_STALLED, SRC_STATUS_PASSED, SRC_WM, SRC_EVENTS]

/-- Table 4.12: R119 -/
def HD_STATUS_FULL : Field := { addr := 0x01300010, width := 1 }
/-- Table 4.12: R120 in progress -/
def HD_STATUS_REBUILD : Field := { addr := 0x01300010, lo := 1, width := 1 }
/-- Table 4.12: Unsigned seals pending -/
def HD_STATUS_SIGN_WAIT : Field := { addr := 0x01300010, lo := 2, width := 1 }
/-- Table 4.12: Free space in area 5 -/
def HD_RING_FREE : Field := { addr := 0x01300014 }
/-- Table 4.12: 100–1,000,000 µs -/
def HD_SEAL_PERIOD : Field := { addr := 0x01300018, ty := .rw, reset := 1000 }
/-- Table 4.12: 1,024–1,048,576 -/
def HD_SEAL_RECORDS : Field := { addr := 0x0130001C, ty := .rw, reset := 0x10000 }
/-- Table 4.12: 0 none, 1 host ring, 2 NVMe namespace; 2 ignored without STOR -/
def HD_DRAIN : Field := { addr := 0x01300020, width := 2, ty := .rw }
/-- Table 4.12: Last seal counter -/
def HD_SEAL_CTR : Field := { addr := 0x01300028, width := 64 }
/-- Table 4.12: Journal epoch -/
def HD_EPOCH : Field := { addr := 0x01300030, width := 64 }
/-- Table 4.12: Last closed block -/
def HD_BLOCK : Field := { addr := 0x01300038, width := 64 }
/-- Table 4.12: Gap records since START -/
def HD_GAP_RECORDS : Field := { addr := 0x01300040 }
/-- Table 4.12: Unsigned seals, 0–256 -/
def HD_UNSIGNED : Field := { addr := 0x01300044, width := 9 }

/-- The fields of Table 4.12. -/
def table4_12 : List Field :=
  [HD_STATUS_FULL, HD_STATUS_REBUILD, HD_STATUS_SIGN_WAIT, HD_RING_FREE, HD_SEAL_PERIOD, HD_SEAL_RECORDS, HD_DRAIN, HD_SEAL_CTR, HD_EPOCH, HD_BLOCK, HD_GAP_RECORDS, HD_UNSIGNED]

/-- Table 5.2: Third TPID; R124 -/
def PR_TPID_TPID2 : Field := { addr := 0x03000010, width := 16, ty := .rw, reset := 0x9100 }
/-- Table 5.2: Recognise TPID2 -/
def PR_TPID_TPID2_EN : Field := { addr := 0x03000010, lo := 16, width := 1, ty := .rw }
/-- Table 5.2: R143 -/
def PR_STATUS_WR_REFUSED : Field := { addr := 0x03000014, width := 1, ty := .w1c }
/-- Table 5.2: 1 bank state -/
def PR_STATUS_CAUSE : Field := { addr := 0x03000014, lo := 1, width := 3 }
/-- Table 5.2: R141; 3 ignored; fixed 0 for s = 16 -/
def PR_MALF_ACTION : Field := { addr := 0x03000100, width := 2, ty := .rw, count := 17, stride := 4 }
/-- Table 5.2: Class whose capture behaviour applies -/
def PR_MALF_MALF_CLASS : Field := { addr := 0x03000100, lo := 8, width := 8, ty := .rw, count := 17, stride := 4 }
/-- Table 5.2: Diagnostic ring -/
def PR_MALF_RING : Field := { addr := 0x03000100, lo := 16, width := 16, ty := .rw, count := 17, stride := 4 }

/-- The fields of Table 5.2. -/
def table5_2 : List Field :=
  [PR_TPID_TPID2, PR_TPID_TPID2_EN, PR_STATUS_WR_REFUSED, PR_STATUS_CAUSE, PR_MALF_ACTION, PR_MALF_MALF_CLASS, PR_MALF_RING]

/-- Table 5.3: counter, R141 -/
def PR_MALF_CNT : Field := { addr := 0x03000200, width := 64, count := 68, stride := 8 }
/-- Table 5.3: counter, R139 -/
def PR_DROP_OTHER : Field := { addr := 0x03000500, width := 64, count := 17, stride := 8 }

/-- The fields of Table 5.3. -/
def table5_3 : List Field :=
  [PR_MALF_CNT, PR_DROP_OTHER]

/-- Table 5.5: Source 0–16 -/
def PF_SEL_PORT : Field := { addr := 0x03001000, width := 5, ty := .rw, chan := .window }
/-- Table 5.5: Ignore PORT -/
def PF_SEL_PORT_ANY : Field := { addr := 0x03001000, lo := 5, width := 1, ty := .rw, chan := .window }
/-- Table 5.5: Outer tag present -/
def PF_SEL_VLAN : Field := { addr := 0x03001000, lo := 6, width := 1, ty := .rw, chan := .window }
/-- Table 5.5: Ignore VLAN -/
def PF_SEL_VLAN_ANY : Field := { addr := 0x03001000, lo := 7, width := 1, ty := .rw, chan := .window }
/-- Table 5.5: Ignore ETYPE -/
def PF_SEL_ETYPE_ANY : Field := { addr := 0x03001000, lo := 8, width := 1, ty := .rw, chan := .window }
/-- Table 5.5: Ignore NXT -/
def PF_SEL_NXT_ANY : Field := { addr := 0x03001000, lo := 9, width := 1, ty := .rw, chan := .window }
/-- Table 5.5: Profile in use -/
def PF_SEL_VALID : Field := { addr := 0x03001000, lo := 10, width := 1, ty := .rw, chan := .window }
/-- Table 5.5: R124 -/
def PF_SEL2_ETYPE : Field := { addr := 0x03001004, width := 16, ty := .rw, chan := .window }
/-- Table 5.5: Next-header byte -/
def PF_SEL2_NXT : Field := { addr := 0x03001004, lo := 16, width := 8, ty := .rw, chan := .window }
/-- Table 5.5: Table EM0–EM7 -/
def PF_CTRL_EMT : Field := { addr := 0x03001008, width := 3, ty := .rw, chan := .window }
/-- Table 5.5: R132 -/
def PF_CTRL_AWL_EN : Field := { addr := 0x03001008, lo := 3, width := 1, ty := .rw, chan := .window }
/-- Table 5.5: R126 -/
def PF_CTRL_AWL_KEY : Field := { addr := 0x03001008, lo := 4, width := 1, ty := .rw, chan := .window }
/-- Table 5.5: 0–16; larger values ignored -/
def PF_CTRL_NWIN : Field := { addr := 0x03001008, lo := 5, width := 5, ty := .rw, chan := .window }
/-- Table 5.5: Sets searched -/
def PF_AWL_AWL_SETS : Field := { addr := 0x0300100C, width := 16, ty := .rw, chan := .window }
/-- Table 5.5: Last byte scanned -/
def PF_AWL_AWL_LIMIT : Field := { addr := 0x0300100C, lo := 16, width := 11, ty := .rw, reset := 2047, chan := .window }
/-- Table 5.5: R128 -/
def PF_LEN_LEN_OFF : Field := { addr := 0x03001010, width := 9, ty := .rw, chan := .window }
/-- Table 5.5: 0, 1, 2; 3 refused at swap -/
def PF_LEN_LEN_MODE : Field := { addr := 0x03001010, lo := 9, width := 2, ty := .rw, chan := .window }
/-- Table 5.5: Signed -/
def PF_LEN_LEN_ADJ : Field := { addr := 0x03001010, lo := 16, width := 16, ty := .rw, chan := .window }
/-- Table 5.5: Miss result -/
def PF_DEFAULT_CLASS : Field := { addr := 0x03001014, width := 8, ty := .rw, chan := .window }
/-- Table 5.5: — -/
def PF_DEFAULT_COLOUR : Field := { addr := 0x03001014, lo := 8, width := 2, ty := .rw, chan := .window }
/-- Table 5.5: — -/
def PF_DEFAULT_QUEUE : Field := { addr := 0x03001014, lo := 16, width := 16, ty := .rw, chan := .window }
/-- Table 5.5: R126 -/
def WIN_OFFSET : Field := { addr := 0x03001100, width := 9, ty := .rw, count := 16, stride := 32, chan := .window }
/-- Table 5.5: 1–16; other values ignored -/
def WIN_LEN : Field := { addr := 0x03001100, lo := 16, width := 5, ty := .rw, reset := 1, count := 16, stride := 32, chan := .window }
/-- Table 5.5: Mask byte j at word j div 4, bits [8(j mod 4)+7 : 8(j mod 4)] -/
def MASK0 : Field := { addr := 0x03001110, ty := .rw, reset := 0xffffffff, count := 16, stride := 32, chan := .window }
/-- Table 5.5: Mask byte j at word j div 4, bits [8(j mod 4)+7 : 8(j mod 4)] -/
def MASK1 : Field := { addr := 0x03001114, ty := .rw, reset := 0xffffffff, count := 16, stride := 32, chan := .window }
/-- Table 5.5: Mask byte j at word j div 4, bits [8(j mod 4)+7 : 8(j mod 4)] -/
def MASK2 : Field := { addr := 0x03001118, ty := .rw, reset := 0xffffffff, count := 16, stride := 32, chan := .window }
/-- Table 5.5: Mask byte j at word j div 4, bits [8(j mod 4)+7 : 8(j mod 4)] -/
def MASK3 : Field := { addr := 0x0300111C, ty := .rw, reset := 0xffffffff, count := 16, stride := 32, chan := .window }

/-- The fields of Table 5.5. -/
def table5_5 : List Field :=
  [PF_SEL_PORT, PF_SEL_PORT_ANY, PF_SEL_VLAN, PF_SEL_VLAN_ANY, PF_SEL_ETYPE_ANY, PF_SEL_NXT_ANY, PF_SEL_VALID, PF_SEL2_ETYPE, PF_SEL2_NXT, PF_CTRL_EMT, PF_CTRL_AWL_EN, PF_CTRL_AWL_KEY, PF_CTRL_NWIN, PF_AWL_AWL_SETS, PF_AWL_AWL_LIMIT, PF_LEN_LEN_OFF, PF_LEN_LEN_MODE, PF_LEN_LEN_ADJ, PF_DEFAULT_CLASS, PF_DEFAULT_COLOUR, PF_DEFAULT_QUEUE, WIN_OFFSET, WIN_LEN, MASK0, MASK1, MASK2, MASK3]

/-- Table 5.6: R131, R143 -/
def AW_STATUS_WR_REFUSED : Field := { addr := 0x03100010, width := 1, ty := .w1c }
/-- Table 5.6: 1 bank state, 2 fingerprint limit, 3 anchor range -/
def AW_STATUS_CAUSE : Field := { addr := 0x03100010, lo := 1, width := 3 }
/-- Table 5.6: Pattern installed -/
def AW_CTRL_VALID : Field := { addr := 0x03101000, width := 1, ty := .rw, chan := .window }
/-- Table 5.6: R129 -/
def AW_CTRL_ANCHORED : Field := { addr := 0x03101000, lo := 1, width := 1, ty := .rw, chan := .window }
/-- Table 5.6: 4–64 bytes -/
def AW_CTRL_LEN : Field := { addr := 0x03101000, lo := 2, width := 7, ty := .rw, reset := 4, chan := .window }
/-- Table 5.6: 0–15 -/
def AW_CTRL_SET : Field := { addr := 0x03101000, lo := 9, width := 4, ty := .rw, chan := .window }
/-- Table 5.6: Anchor offset -/
def AW_CTRL_OFFSET : Field := { addr := 0x03101000, lo := 13, width := 11, ty := .rw, chan := .window }
/-- Table 5.6: Pattern byte j at word j div 4, as MASK -/
def AW_DATA : Field := { addr := 0x03101040, ty := .rw, count := 16, stride := 4, chan := .window }

/-- The fields of Table 5.6. -/
def table5_6 : List Field :=
  [AW_STATUS_WR_REFUSED, AW_STATUS_CAUSE, AW_CTRL_VALID, AW_CTRL_ANCHORED, AW_CTRL_LEN, AW_CTRL_SET, AW_CTRL_OFFSET, AW_DATA]

/-- Table 5.7: Active bank -/
def CL_BANK_ACTIVE : Field := { addr := 0x03200010, width := 1 }
/-- Table 5.7: R144, R145 -/
def CL_BANK_SWAP : Field := { addr := 0x03200010, lo := 1, width := 1, ty := .wo }
/-- Table 5.7: R146 -/
def CL_BANK_COPY : Field := { addr := 0x03200010, lo := 2, width := 1, ty := .wo }
/-- Table 5.7: — -/
def CL_BANK_SWAP_PENDING : Field := { addr := 0x03200010, lo := 3, width := 1 }
/-- Table 5.7: — -/
def CL_BANK_OLD_BUSY : Field := { addr := 0x03200010, lo := 4, width := 1 }
/-- Table 5.7: — -/
def CL_BANK_COPY_BUSY : Field := { addr := 0x03200010, lo := 5, width := 1 }
/-- Table 5.7: SWAP or COPY refused -/
def CL_BANK_REFUSED : Field := { addr := 0x03200010, lo := 6, width := 1, ty := .w1c }
/-- Table 5.7: R144 -/
def CL_BANK_CAUSE : Field := { addr := 0x03200010, lo := 8, width := 3 }
/-- Table 5.7: R145 -/
def CL_SWAP_TICK : Field := { addr := 0x03200014 }
/-- Table 5.7: R140, R143 -/
def CL_STATUS_WR_REFUSED : Field := { addr := 0x03200018, width := 1, ty := .w1c }
/-- Table 5.7: 1 bank state, 2 invalid class entry -/
def CL_STATUS_CAUSE : Field := { addr := 0x03200018, lo := 1, width := 3 }
/-- Table 5.7: Shadow; units of 64 slots -/
def EM_GEOM_BASE : Field := { addr := 0x03200020, width := 15, ty := .rw, count := 8, stride := 8 }
/-- Table 5.7: Table enabled -/
def EM_GEOM_EN : Field := { addr := 0x03200020, lo := 15, width := 1, ty := .rw, count := 8, stride := 8 }
/-- Table 5.7: 0–19 -/
def EM_GEOM_LOG2_BUCKETS : Field := { addr := 0x03200020, lo := 16, width := 5, ty := .rw, count := 8, stride := 8 }
/-- Table 5.7: 0 16 B, 1 32 B, 2 64 B; 3 ignored -/
def EM_GEOM_WIDTH : Field := { addr := 0x03200020, lo := 21, width := 2, ty := .rw, count := 8, stride := 8 }
/-- Table 5.7: Shadow; R134 -/
def EM_SEED : Field := { addr := 0x03200024, ty := .rw, count := 8, stride := 8 }
/-- Table 5.7: Active-bank copies -/
def GEOM_ACT : Field := { addr := 0x03200060, count := 8, stride := 8 }
/-- Table 5.7: Active-bank copies -/
def SEED_ACT : Field := { addr := 0x03200064, count := 8, stride := 8 }
/-- Table 5.7: Shadow entries -/
def EM_USED : Field := { addr := 0x032000A0, width := 22, count := 8, stride := 4 }
/-- Table 5.7: R140; saturates -/
def CL_RING_MISS : Field := { addr := 0x032000C0, ty := .rc }
/-- Table 5.7: Staged key, byte j as MASK; per requester -/
def CL_KEY : Field := { addr := 0x03200100, ty := .rw, perReq := true, count := 16, stride := 4 }
/-- Table 5.7: Per requester -/
def CL_OPARG_TABLE : Field := { addr := 0x03200140, width := 3, ty := .rw, perReq := true }
/-- Table 5.7: — -/
def CL_OPARG_PROFILE : Field := { addr := 0x03200140, lo := 3, width := 6, ty := .rw, perReq := true }
/-- Table 5.7: 1–64 -/
def CL_OPARG_KL : Field := { addr := 0x03200140, lo := 9, width := 7, ty := .rw, perReq := true }
/-- Table 5.7: Per requester; LOOKUP writes it -/
def CL_ACTION_CLASS : Field := { addr := 0x03200144, width := 8, ty := .rw, perReq := true }
/-- Table 5.7: — -/
def CL_ACTION_COLOUR : Field := { addr := 0x03200144, lo := 8, width := 2, ty := .rw, perReq := true }
/-- Table 5.7: — -/
def CL_ACTION_QUEUE : Field := { addr := 0x03200144, lo := 16, width := 16, ty := .rw, perReq := true }
/-- Table 5.7: 1 INSERT, 2 DELETE, 3 LOOKUP -/
def CL_OP : Field := { addr := 0x03200148, width := 2, ty := .wo }
/-- Table 5.7: Per requester -/
def CL_OP_STATUS_BUSY : Field := { addr := 0x0320014C, width := 1, perReq := true }
/-- Table 5.7: R136 -/
def CL_OP_STATUS_RESULT : Field := { addr := 0x0320014C, lo := 1, width := 3, perReq := true }
/-- Table 5.7: Relocations made -/
def CL_OP_STATUS_MOVES : Field := { addr := 0x0320014C, lo := 8, width := 8, perReq := true }

/-- The fields of Table 5.7. -/
def table5_7 : List Field :=
  [CL_BANK_ACTIVE, CL_BANK_SWAP, CL_BANK_COPY, CL_BANK_SWAP_PENDING, CL_BANK_OLD_BUSY, CL_BANK_COPY_BUSY, CL_BANK_REFUSED, CL_BANK_CAUSE, CL_SWAP_TICK, CL_STATUS_WR_REFUSED, CL_STATUS_CAUSE, EM_GEOM_BASE, EM_GEOM_EN, EM_GEOM_LOG2_BUCKETS, EM_GEOM_WIDTH, EM_SEED, GEOM_ACT, SEED_ACT, EM_USED, CL_RING_MISS, CL_KEY, CL_OPARG_TABLE, CL_OPARG_PROFILE, CL_OPARG_KL, CL_ACTION_CLASS, CL_ACTION_COLOUR, CL_ACTION_QUEUE, CL_OP, CL_OP_STATUS_BUSY, CL_OP_STATUS_RESULT, CL_OP_STATUS_MOVES]

/-- Table 5.8: Staged until CB3; R138 -/
def CB0_SEQ : Field := { addr := 0x03201000, width := 1, ty := .rw, chan := .window }
/-- Table 5.8: — -/
def CB0_CAPTURE : Field := { addr := 0x03201000, lo := 1, width := 1, ty := .rw, chan := .window }
/-- Table 5.8: — -/
def CB0_MIRROR : Field := { addr := 0x03201000, lo := 2, width := 1, ty := .rw, chan := .window }
/-- Table 5.8: — -/
def CB0_DROP : Field := { addr := 0x03201000, lo := 3, width := 1, ty := .rw, chan := .window }
/-- Table 5.8: R139 -/
def CB0_DISP : Field := { addr := 0x03201000, lo := 4, width := 2, ty := .rw, chan := .window }
/-- Table 5.8: — -/
def CB0_POLICE : Field := { addr := 0x03201000, lo := 6, width := 1, ty := .rw, chan := .window }
/-- Table 5.8: — -/
def CB0_CAP_PROFILE : Field := { addr := 0x03201000, lo := 8, width := 8, ty := .rw, chan := .window }
/-- Table 5.8: — -/
def CB0_POLICER : Field := { addr := 0x03201000, lo := 16, width := 16, ty := .rw, chan := .window }
/-- Table 5.8: Function number -/
def CB1_FUNC : Field := { addr := 0x03201004, width := 13, ty := .rw, chan := .window }
/-- Table 5.8: — -/
def CB1_RING_BASE : Field := { addr := 0x03201004, lo := 16, width := 16, ty := .rw, chan := .window }
/-- Table 5.8: — -/
def CB2_RING_COUNT : Field := { addr := 0x03201008, width := 16, ty := .rw, chan := .window }
/-- Table 5.8: — -/
def CB2_MIRROR_PORT : Field := { addr := 0x03201008, lo := 16, width := 4, ty := .rw, chan := .window }
/-- Table 5.8: The write commits CB0–CB3; R140 -/
def CB3_MIRROR_QUEUE : Field := { addr := 0x0320100C, width := 16, ty := .rw, chan := .window }
/-- Table 5.8: R139 -/
def CB3_LPM_WIN : Field := { addr := 0x0320100C, lo := 16, width := 4, ty := .rw, chan := .window }
/-- Table 5.8: Address is IPv6 -/
def CB3_LPM_V6 : Field := { addr := 0x0320100C, lo := 20, width := 1, ty := .rw, chan := .window }
/-- Table 5.8: Frames classified into the class; 64-bit, R64 -/
def CB_HITS : Field := { addr := 0x03201010, width := 64, chan := .window }

/-- The fields of Table 5.8. -/
def table5_8 : List Field :=
  [CB0_SEQ, CB0_CAPTURE, CB0_MIRROR, CB0_DROP, CB0_DISP, CB0_POLICE, CB0_CAP_PROFILE, CB0_POLICER, CB1_FUNC, CB1_RING_BASE, CB2_RING_COUNT, CB2_MIRROR_PORT, CB3_MIRROR_QUEUE, CB3_LPM_WIN, CB3_LPM_V6, CB_HITS]

/-- Table 6.11: R151; a write empties the table (R159) -/
def FT_SEED : Field := { addr := 0x03300010, ty := .rw }
/-- Table 6.11: R154; a write empties the table -/
def MT_SEED : Field := { addr := 0x03300014, ty := .rw }
/-- Table 6.11: R153 -/
def FT_MISS_FUNC : Field := { addr := 0x03300018, width := 13, ty := .rw }
/-- Table 6.11: 0 drop, 1 deliver -/
def FT_MISS_DELIVER : Field := { addr := 0x03300018, lo := 13, width := 1, ty := .rw }
/-- Table 6.11: — -/
def FT_MISS_RING : Field := { addr := 0x03300018, lo := 16, width := 16, ty := .rw }
/-- Table 6.11: R159 -/
def FT_STATUS_FT_READY : Field := { addr := 0x0330001C, width := 1 }
/-- Table 6.11: R159 -/
def FT_STATUS_MT_READY : Field := { addr := 0x0330001C, lo := 1, width := 1 }
/-- Table 6.11: Valid flow entries -/
def FT_USED : Field := { addr := 0x03300020, width := 25 }
/-- Table 6.11: Valid MAC entries -/
def MT_USED : Field := { addr := 0x03300024, width := 22 }
/-- Table 6.11: R152 -/
def FT_PINNED : Field := { addr := 0x03300028, width := 17 }
/-- Table 6.11: Staged key, byte j at word j div 4 as MASK; MAC: bytes 0–5 address, 6–7 FID ... -/
def FT_KEY : Field := { addr := 0x03300100, ty := .rw, perReq := true, count := 10, stride := 4 }
/-- Table 6.11: 0 flow, 1 MAC; per requester -/
def FT_OPARG_TABLE : Field := { addr := 0x03300140, width := 1, ty := .rw, perReq := true }
/-- Table 6.11: — -/
def FT_OPARG_PROFILE : Field := { addr := 0x03300140, lo := 1, width := 6, ty := .rw, perReq := true }
/-- Table 6.11: 1–40 -/
def FT_OPARG_KL : Field := { addr := 0x03300140, lo := 7, width := 6, ty := .rw, perReq := true }
/-- Table 6.11: Table 6.2 byte 42; MAC uses [2:0] as HIT, STATIC, DROP; HIT is read-only -/
def FT_ACTION0_FLAGS : Field := { addr := 0x03300144, width := 8, ty := .rw, perReq := true }
/-- Table 6.11: — -/
def FT_ACTION0_PORT : Field := { addr := 0x03300144, lo := 8, width := 4, ty := .rw, perReq := true }
/-- Table 6.11: Flow only -/
def FT_ACTION0_QUEUE : Field := { addr := 0x03300144, lo := 16, width := 16, ty := .rw, perReq := true }
/-- Table 6.11: Flow: cookie. MAC: LAST_MOVE[31:0], written by LOOKUP and READ_SLOT -/
def FT_ACTION1 : Field := { addr := 0x03300148, ty := .rw, perReq := true }
/-- Table 6.11: 1 INSERT, 2 DELETE, 3 LOOKUP, 4 READ_SLOT -/
def FT_OP : Field := { addr := 0x0330014C, width := 3, ty := .wo }
/-- Table 6.11: Per requester; LOOKUP writes it -/
def FT_SLOT : Field := { addr := 0x03300150, width := 25, ty := .rw, perReq := true }
/-- Table 6.11: Per requester -/
def FT_OP_STATUS_BUSY : Field := { addr := 0x03300154, width := 1, perReq := true }
/-- Table 6.11: R155 -/
def FT_OP_STATUS_RESULT : Field := { addr := 0x03300154, lo := 1, width := 3, perReq := true }
/-- Table 6.11: Relocations made -/
def FT_OP_STATUS_MOVES : Field := { addr := 0x03300154, lo := 8, width := 8, perReq := true }
/-- Table 6.11: counter, R64 -/
def FT_CACHE_HIT : Field := { addr := 0x03300200, width := 64 }
/-- Table 6.11: counter, R64 -/
def FT_CACHE_MISS : Field := { addr := 0x03300208, width := 64 }
/-- Table 6.11: counter, R64 -/
def FT_LOOKUP_MISS : Field := { addr := 0x03300210, width := 64 }
/-- Table 6.11: counter, R64 -/
def FT_RETRY : Field := { addr := 0x03300218, width := 64 }
/-- Table 6.11: counter, R64 -/
def FT_DROP : Field := { addr := 0x03300220, width := 64 }
/-- Table 6.11: counter, R64 -/
def MT_SAME_PORT : Field := { addr := 0x03300228, width := 64 }

/-- The fields of Table 6.11. -/
def table6_11 : List Field :=
  [FT_SEED, MT_SEED, FT_MISS_FUNC, FT_MISS_DELIVER, FT_MISS_RING, FT_STATUS_FT_READY, FT_STATUS_MT_READY, FT_USED, MT_USED, FT_PINNED, FT_KEY, FT_OPARG_TABLE, FT_OPARG_PROFILE, FT_OPARG_KL, FT_ACTION0_FLAGS, FT_ACTION0_PORT, FT_ACTION0_QUEUE, FT_ACTION1, FT_OP, FT_SLOT, FT_OP_STATUS_BUSY, FT_OP_STATUS_RESULT, FT_OP_STATUS_MOVES, FT_CACHE_HIT, FT_CACHE_MISS, FT_LOOKUP_MISS, FT_RETRY, FT_DROP, MT_SAME_PORT]

/-- Table 6.12: R160 -/
def LN_CTRL_MAC_EN : Field := { addr := 0x03500010, width := 1, ty := .rw }
/-- Table 6.12: R164 -/
def LN_CTRL_FLOW_EN : Field := { addr := 0x03500010, lo := 1, width := 1, ty := .rw }
/-- Table 6.12: R167 -/
def LN_CTRL_BURN_FT : Field := { addr := 0x03500010, lo := 2, width := 1, ty := .rw, reset := 1 }
/-- Table 6.12: R167 -/
def LN_CTRL_BURN_MT : Field := { addr := 0x03500010, lo := 3, width := 1, ty := .rw, reset := 1 }
/-- Table 6.12: 0–1,000,000 µs; writes outside are ignored -/
def LN_HOLDDOWN : Field := { addr := 0x03500014, width := 20, ty := .rw, reset := 1000 }
/-- Table 6.12: Bit n of the 64-bit value: profile n learns flows -/
def LN_FLOW_PROF : Field := { addr := 0x03500018, width := 64, ty := .rw }
/-- Table 6.12: Only bits 2, 3, 5 may be set; other writes are ignored -/
def LN_FLOW_TMPL_FLAGS : Field := { addr := 0x03500020, width := 8, ty := .rw }
/-- Table 6.12: — -/
def LN_FLOW_TMPL_PORT : Field := { addr := 0x03500020, lo := 8, width := 4, ty := .rw }
/-- Table 6.12: — -/
def LN_FLOW_TMPL_QUEUE : Field := { addr := 0x03500020, lo := 16, width := 16, ty := .rw }
/-- Table 6.12: R165 -/
def LN_EXPORT_EN_MAC : Field := { addr := 0x03500024, width := 1, ty := .rw }
/-- Table 6.12: R165 -/
def LN_EXPORT_EN_FLOW : Field := { addr := 0x03500024, lo := 1, width := 1, ty := .rw }
/-- Table 6.12: Event queue -/
def LN_EXPORT_EQ : Field := { addr := 0x03500024, lo := 16, width := 16, ty := .rw }
/-- Table 6.12: 1,000–3,600,000; writes outside are ignored -/
def BURN_PERIOD_FT : Field := { addr := 0x03500028, ty := .rw, reset := 0xea60 }
/-- Table 6.12: 100–3,600,000; writes outside are ignored -/
def BURN_PERIOD_MT : Field := { addr := 0x0350002C, ty := .rw, reset := 0x493e0 }
/-- Table 6.12: R167; low read latches high -/
def BURN_BASE_FT : Field := { addr := 0x03500030, width := 64 }
/-- Table 6.12: R167 -/
def BURN_BASE_MT : Field := { addr := 0x03500038, width := 64 }
/-- Table 6.12: counter, R64 -/
def LN_APPLIED : Field := { addr := 0x03500100, width := 64 }
/-- Table 6.12: counter, R64 -/
def LN_MOVE_CONFLICT : Field := { addr := 0x03500108, width := 64 }
/-- Table 6.12: counter, R64 -/
def LN_STATIC_VIOL : Field := { addr := 0x03500110, width := 64 }
/-- Table 6.12: counter, R64 -/
def LN_FULL : Field := { addr := 0x03500118, width := 64 }
/-- Table 6.12: counter, R64 -/
def LN_FIFO_DROP : Field := { addr := 0x03500120, width := 64 }
/-- Table 6.12: counter, R64 -/
def LN_EXPORT_LOST : Field := { addr := 0x03500128, width := 64 }
/-- Table 6.12: counter, R64 -/
def AGED_FT : Field := { addr := 0x03500130, width := 64 }
/-- Table 6.12: counter, R64 -/
def AGED_MT : Field := { addr := 0x03500138, width := 64 }
/-- Table 6.12: Channel = port 0–15 -/
def LN_PORT_EN : Field := { addr := 0x03501000, width := 1, ty := .rw, chan := .window }
/-- Table 6.12: R154 -/
def LN_PORT_PVID : Field := { addr := 0x03501000, lo := 16, width := 12, ty := .rw, reset := 1, chan := .window }
/-- Table 6.12: 64-bit with 0x1104, R64 -/
def LN_PORT_CONFLICT : Field := { addr := 0x03501100, width := 64, chan := .window }

/-- The fields of Table 6.12. -/
def table6_12 : List Field :=
  [LN_CTRL_MAC_EN, LN_CTRL_FLOW_EN, LN_CTRL_BURN_FT, LN_CTRL_BURN_MT, LN_HOLDDOWN, LN_FLOW_PROF, LN_FLOW_TMPL_FLAGS, LN_FLOW_TMPL_PORT, LN_FLOW_TMPL_QUEUE, LN_EXPORT_EN_MAC, LN_EXPORT_EN_FLOW, LN_EXPORT_EQ, BURN_PERIOD_FT, BURN_PERIOD_MT, BURN_BASE_FT, BURN_BASE_MT, LN_APPLIED, LN_MOVE_CONFLICT, LN_STATIC_VIOL, LN_FULL, LN_FIFO_DROP, LN_EXPORT_LOST, AGED_FT, AGED_MT, LN_PORT_EN, LN_PORT_PVID, LN_PORT_CONFLICT]

/-- Table 6.13 -/
def LPM_DEF4_NH : Field := { addr := 0x03400010, width := 20, ty := .rw }
/-- Table 6.13 -/
def LPM_DEF4_VALID : Field := { addr := 0x03400010, lo := 20, width := 1, ty := .rw }
/-- Table 6.13 -/
def LPM_DEF6_NH : Field := { addr := 0x03400014, width := 20, ty := .rw }
/-- Table 6.13 -/
def LPM_DEF6_VALID : Field := { addr := 0x03400014, lo := 20, width := 1, ty := .rw }
/-- Table 6.13: R174 -/
def LPM_FENCE : Field := { addr := 0x03400018, width := 1, ty := .wo }
/-- Table 6.13: Per requester -/
def LPM_STATUS_FENCE_DONE : Field := { addr := 0x0340001C, width := 1, reset := 1, perReq := true }
/-- Table 6.13: R173 -/
def LPM_STATUS_WR_REFUSED : Field := { addr := 0x0340001C, lo := 1, width := 1, ty := .w1c }
/-- Table 6.13: 1 index outside pool, 2 live slot -/
def LPM_STATUS_CAUSE : Field := { addr := 0x0340001C, lo := 2, width := 2 }
/-- Table 6.13: Pool size of channel 0–8 -/
def LPM_POOL : Field := { addr := 0x03400020, count := 9, stride := 4 }
/-- Table 6.13: counter, R64 -/
def LPM_MISS : Field := { addr := 0x03400100, width := 64 }
/-- Table 6.13: counter, R64 -/
def LPM_NH_DROP : Field := { addr := 0x03400108, width := 64 }
/-- Table 6.13: Entry index; per requester -/
def LPM_IDX : Field := { addr := 0x03401000, width := 28, ty := .rw, perReq := true, chan := .window }
/-- Table 6.13: Write stages; read returns word [31:0] at IDX and latches [63:32] -/
def LPM_DATA_LO : Field := { addr := 0x03401008, ty := .rw, perReq := true, chan := .window }
/-- Table 6.13: Write commits the 64-bit word (R173); read returns the latched half -/
def LPM_DATA_HI : Field := { addr := 0x0340100C, ty := .rw, perReq := true, chan := .window }

/-- The fields of Table 6.13. -/
def table6_13 : List Field :=
  [LPM_DEF4_NH, LPM_DEF4_VALID, LPM_DEF6_NH, LPM_DEF6_VALID, LPM_FENCE, LPM_STATUS_FENCE_DONE, LPM_STATUS_WR_REFUSED, LPM_STATUS_CAUSE, LPM_POOL, LPM_MISS, LPM_NH_DROP, LPM_IDX, LPM_DATA_LO, LPM_DATA_HI]

/-- Table 7.4: R176, R190 -/
def RN_STATUS_WR_REFUSED : Field := { addr := 0x04000010, width := 1, ty := .w1c }
/-- Table 7.4: 1 queue range, 2 group mode -/
def RN_STATUS_CAUSE : Field := { addr := 0x04000010, lo := 1, width := 2 }
/-- Table 7.4: Buffer in use, excluding the sequenced hold area -/
def RN_BUF_USED : Field := { addr := 0x04000014, width := 16 }
/-- Table 7.4: Grid phase in 2⁻¹⁶ ns, taken modulo G -/
def RG_PHASE : Field := { addr := 0x04000020, ty := .rw, count := 8, stride := 4 }
/-- Table 7.4: R190 -/
def RG_ALIGNED : Field := { addr := 0x04000040, width := 16 }

/-- The fields of Table 7.4. -/
def table7_4 : List Field :=
  [RN_STATUS_WR_REFUSED, RN_STATUS_CAUSE, RN_BUF_USED, RG_PHASE, RG_ALIGNED]

/-- Table 7.5: R176 -/
def RQ_BASE : Field := { addr := 0x04001000, width := 18, ty := .rw, chan := .window }
/-- Table 7.5: 0–65,536 -/
def RQ_COUNT : Field := { addr := 0x04001004, width := 17, ty := .rw, chan := .window }
/-- Table 7.5: R179 -/
def RN_CTRL_TC_SP : Field := { addr := 0x04001008, width := 8, ty := .rw, chan := .window }
/-- Table 7.5: R178 -/
def RN_CTRL_DOWN_FLUSH : Field := { addr := 0x04001008, lo := 8, width := 1, ty := .rw, chan := .window }
/-- Table 7.5: R192 -/
def RN_CTRL_RL_LATE_ACTION : Field := { addr := 0x04001008, lo := 9, width := 1, ty := .rw, chan := .window }
/-- Table 7.5: R190 -/
def RN_CTRL_RG_EN : Field := { addr := 0x04001008, lo := 10, width := 1, ty := .rw, chan := .window }
/-- Table 7.5: Release group -/
def RN_CTRL_RG : Field := { addr := 0x04001008, lo := 11, width := 3, ty := .rw, chan := .window }
/-- Table 7.5: Class shaper enables -/
def RN_CTRL_TC_SH_EN : Field := { addr := 0x04001008, lo := 16, width := 8, ty := .rw, chan := .window }
/-- Table 7.5: One byte per TC, TC 0 in LO [7:0]; 1–255; a 0 byte leaves that weight unchanged -/
def TC_WEIGHT : Field := { addr := 0x0400100C, width := 64, ty := .rw, reset := 0x101010101010101, chan := .window }
/-- Table 7.5: kb/s; R181 -/
def TCS_RATE : Field := { addr := 0x04001040, width := 30, ty := .rw, count := 8, stride := 16, chan := .window }
/-- Table 7.5: Bytes -/
def TCS_BURST : Field := { addr := 0x04001044, width := 24, ty := .rw, reset := 3072, count := 8, stride := 16, chan := .window }
/-- Table 7.5: Signed bits -/
def TCS_CREDIT : Field := { addr := 0x04001048, count := 8, stride := 16, chan := .window }
/-- Table 7.5: counter, R64 -/
def RQ_MISS : Field := { addr := 0x04001100, width := 64, chan := .window }
/-- Table 7.5: counter, R64 -/
def BUF_FULL_DROP : Field := { addr := 0x04001108, width := 64, chan := .window }
/-- Table 7.5: counter, R64 -/
def DOWN_FLUSHED : Field := { addr := 0x04001110, width := 64, chan := .window }
/-- Table 7.5: counter, R64 -/
def RL_SENT : Field := { addr := 0x04001118, width := 64, chan := .window }
/-- Table 7.5: counter, R64 -/
def RL_LATE : Field := { addr := 0x04001120, width := 64, chan := .window }
/-- Table 7.5: counter, R64 -/
def RL_DISCARD : Field := { addr := 0x04001128, width := 64, chan := .window }

/-- The fields of Table 7.5. -/
def table7_5 : List Field :=
  [RQ_BASE, RQ_COUNT, RN_CTRL_TC_SP, RN_CTRL_DOWN_FLUSH, RN_CTRL_RL_LATE_ACTION, RN_CTRL_RG_EN, RN_CTRL_RG, RN_CTRL_TC_SH_EN, TC_WEIGHT, TCS_RATE, TCS_BURST, TCS_CREDIT, RQ_MISS, BUF_FULL_DROP, DOWN_FLUSHED, RL_SENT, RL_LATE, RL_DISCARD]

/-- Table 7.6: Traffic class -/
def QS_CFG_TC : Field := { addr := 0x04101000, width := 3, ty := .rw, chan := .window }
/-- Table 7.6: R181 -/
def QS_CFG_SH_EN : Field := { addr := 0x04101000, lo := 3, width := 1, ty := .rw, chan := .window }
/-- Table 7.6: 64-byte units, 1–1,023; 0 ignored -/
def QS_CFG_QUANTUM : Field := { addr := 0x04101000, lo := 4, width := 10, ty := .rw, reset := 24, chan := .window }
/-- Table 7.6: kb/s -/
def QS_RATE : Field := { addr := 0x04101004, width := 30, ty := .rw, chan := .window }
/-- Table 7.6: Bytes -/
def QS_BURST : Field := { addr := 0x04101008, width := 24, ty := .rw, reset := 3072, chan := .window }
/-- Table 7.6: 256-byte units; R177 -/
def QS_LIM_GY_LIM_G : Field := { addr := 0x0410100C, width := 16, ty := .rw, reset := 256, chan := .window }
/-- Table 7.6: 256-byte units -/
def QS_LIM_GY_LIM_Y : Field := { addr := 0x0410100C, lo := 16, width := 16, ty := .rw, reset := 128, chan := .window }
/-- Table 7.6: 256-byte units -/
def QS_LIM_R : Field := { addr := 0x04101010, width := 16, ty := .rw, reset := 64, chan := .window }
/-- Table 7.6: Signed bits -/
def QS_CREDIT : Field := { addr := 0x04101014, chan := .window }
/-- Table 7.6: Queue depth -/
def QS_DEPTH : Field := { addr := 0x04101018, width := 26, chan := .window }
/-- Table 7.6: counter, R64 -/
def QS_TX_FRAMES : Field := { addr := 0x04101100, width := 64, chan := .window }
/-- Table 7.6: counter, R64 -/
def QS_TX_OCTETS : Field := { addr := 0x04101108, width := 64, chan := .window }
/-- Table 7.6: counter, R64 -/
def QS_DROP_G : Field := { addr := 0x04101110, width := 64, chan := .window }
/-- Table 7.6: counter, R64 -/
def QS_DROP_Y : Field := { addr := 0x04101118, width := 64, chan := .window }
/-- Table 7.6: counter, R64 -/
def QS_DROP_R : Field := { addr := 0x04101120, width := 64, chan := .window }

/-- The fields of Table 7.6. -/
def table7_6 : List Field :=
  [QS_CFG_TC, QS_CFG_SH_EN, QS_CFG_QUANTUM, QS_RATE, QS_BURST, QS_LIM_GY_LIM_G, QS_LIM_GY_LIM_Y, QS_LIM_R, QS_CREDIT, QS_DEPTH, QS_TX_FRAMES, QS_TX_OCTETS, QS_DROP_G, QS_DROP_Y, QS_DROP_R]

/-- Table 7.7: R185 -/
def GT_CTRL_EN : Field := { addr := 0x04201000, width := 1, ty := .rw, chan := .window }
/-- Table 7.7: 0 time, 1 trigger; R188 -/
def GT_CTRL_MODE : Field := { addr := 0x04201000, lo := 1, width := 1, ty := .rw, chan := .window }
/-- Table 7.7: R189 -/
def GT_CTRL_EVT : Field := { addr := 0x04201000, lo := 2, width := 1, ty := .rw, chan := .window }
/-- Table 7.7: R187 -/
def GT_CTRL_CHANGE : Field := { addr := 0x04201000, lo := 3, width := 1, ty := .wo, chan := .window }
/-- Table 7.7: Active list, 0 or 1 -/
def GT_STATUS_ACTIVE : Field := { addr := 0x04201004, width := 1, chan := .window }
/-- Table 7.7: R187 -/
def GT_STATUS_CHANGE_PENDING : Field := { addr := 0x04201004, lo := 1, width := 1, chan := .window }
/-- Table 7.7: R187 -/
def GT_STATUS_REFUSED : Field := { addr := 0x04201004, lo := 2, width := 1, ty := .w1c, chan := .window }
/-- Table 7.7: R187 -/
def GT_STATUS_CAUSE : Field := { addr := 0x04201004, lo := 3, width := 3, chan := .window }
/-- Table 7.7: R188 -/
def GT_STATUS_LATE_START : Field := { addr := 0x04201004, lo := 6, width := 1, ty := .w1c, chan := .window }
/-- Table 7.7: Present gate states -/
def GT_STATUS_GATES : Field := { addr := 0x04201004, lo := 8, width := 8, reset := 255, chan := .window }
/-- Table 7.7: Present entry -/
def GT_STATUS_ENTRY : Field := { addr := 0x04201004, lo := 16, width := 10, chan := .window }
/-- Table 7.7: R185 -/
def GT_INIT : Field := { addr := 0x04201008, width := 8, ty := .rw, reset := 255, chan := .window }
/-- Table 7.7: Shadow -/
def GT_LEN : Field := { addr := 0x0420100C, width := 11, ty := .rw, reset := 1, chan := .window }
/-- Table 7.7: Shadow -/
def GT_BASE_NS : Field := { addr := 0x04201010, width := 30, ty := .rw, chan := .window }
/-- Table 7.7: Shadow; HI [31:16] reserved -/
def GT_BASE_SEC : Field := { addr := 0x04201014, width := 48, ty := .rw, chan := .window }
/-- Table 7.7: Shadow -/
def GT_CYCLE : Field := { addr := 0x0420101C, width := 30, ty := .rw, reset := 0x3b9aca00, chan := .window }
/-- Table 7.7: Per requester -/
def GT_IDX : Field := { addr := 0x04201020, width := 10, ty := .rw, perReq := true, chan := .window }
/-- Table 7.7: Shadow entry IDX -/
def GT_ENTRY_GATES : Field := { addr := 0x04201024, width := 8, ty := .rw, reset := 255, chan := .window }
/-- Table 7.7: ns -/
def GT_ENTRY_INTERVAL : Field := { addr := 0x04201024, lo := 8, width := 24, ty := .rw, reset := 8, chan := .window }
/-- Table 7.7: Cycle starts; wraps -/
def GT_CYCLES : Field := { addr := 0x04201028, chan := .window }
/-- Table 7.7: counter, R64 -/
def GT_OVERSIZE : Field := { addr := 0x04201100, width := 64, chan := .window }
/-- Table 7.7: counter, R64 -/
def GT_TRIG_IGNORED : Field := { addr := 0x04201108, width := 64, chan := .window }

/-- The fields of Table 7.7. -/
def table7_7 : List Field :=
  [GT_CTRL_EN, GT_CTRL_MODE, GT_CTRL_EVT, GT_CTRL_CHANGE, GT_STATUS_ACTIVE, GT_STATUS_CHANGE_PENDING, GT_STATUS_REFUSED, GT_STATUS_CAUSE, GT_STATUS_LATE_START, GT_STATUS_GATES, GT_STATUS_ENTRY, GT_INIT, GT_LEN, GT_BASE_NS, GT_BASE_SEC, GT_CYCLE, GT_IDX, GT_ENTRY_GATES, GT_ENTRY_INTERVAL, GT_CYCLES, GT_OVERSIZE, GT_TRIG_IGNORED]

/-- Table 7.8: R183 -/
def PL_STATUS : Field := { addr := 0x04300010, width := 1, ty := .w1c }
/-- Table 7.8: R183 -/
def PL_CTRL_EN : Field := { addr := 0x04301000, width := 1, ty := .rw, chan := .window }
/-- Table 7.8: 0 RFC 2698, 1 RFC 4115 -/
def PL_CTRL_MODE : Field := { addr := 0x04301000, lo := 1, width := 1, ty := .rw, chan := .window }
/-- Table 7.8: Colour-aware -/
def PL_CTRL_AWARE : Field := { addr := 0x04301000, lo := 2, width := 1, ty := .rw, chan := .window }
/-- Table 7.8: RFC 4115 only -/
def PL_CTRL_COUPLED : Field := { addr := 0x04301000, lo := 3, width := 1, ty := .rw, chan := .window }
/-- Table 7.8: — -/
def PL_CTRL_DROP_YELLOW : Field := { addr := 0x04301000, lo := 4, width := 1, ty := .rw, chan := .window }
/-- Table 7.8: — -/
def PL_CTRL_DROP_RED : Field := { addr := 0x04301000, lo := 5, width := 1, ty := .rw, reset := 1, chan := .window }
/-- Table 7.8: kb/s; PL_PIR is EIR under MODE 1 -/
def PL_CIR : Field := { addr := 0x04301004, width := 30, ty := .rw, chan := .window }
/-- Table 7.8: kb/s; PL_PIR is EIR under MODE 1 -/
def PL_PIR : Field := { addr := 0x04301008, width := 30, ty := .rw, chan := .window }
/-- Table 7.8: Bytes; PL_PBS is EBS under MODE 1 -/
def PL_CBS : Field := { addr := 0x0430100C, width := 24, ty := .rw, chan := .window }
/-- Table 7.8: Bytes; PL_PBS is EBS under MODE 1 -/
def PL_PBS : Field := { addr := 0x04301010, width := 24, ty := .rw, chan := .window }
/-- Table 7.8: Bucket levels in bytes -/
def PL_TC : Field := { addr := 0x04301014, width := 25, chan := .window }
/-- Table 7.8: Bucket levels in bytes -/
def PL_TP : Field := { addr := 0x04301018, width := 25, chan := .window }
/-- Table 7.8: counter, R64 -/
def PLC_GREEN_FRAMES : Field := { addr := 0x04301100, width := 64, chan := .window }
/-- Table 7.8: counter, R64 -/
def PLC_YELLOW_FRAMES : Field := { addr := 0x04301108, width := 64, chan := .window }
/-- Table 7.8: counter, R64 -/
def PLC_RED_FRAMES : Field := { addr := 0x04301110, width := 64, chan := .window }
/-- Table 7.8: counter, R64 -/
def PLC_GREEN_OCTETS : Field := { addr := 0x04301118, width := 64, chan := .window }
/-- Table 7.8: counter, R64 -/
def PLC_YELLOW_OCTETS : Field := { addr := 0x04301120, width := 64, chan := .window }
/-- Table 7.8: counter, R64 -/
def PLC_RED_OCTETS : Field := { addr := 0x04301128, width := 64, chan := .window }

/-- The fields of Table 7.8. -/
def table7_8 : List Field :=
  [PL_STATUS, PL_CTRL_EN, PL_CTRL_MODE, PL_CTRL_AWARE, PL_CTRL_COUPLED, PL_CTRL_DROP_YELLOW, PL_CTRL_DROP_RED, PL_CIR, PL_PIR, PL_CBS, PL_PBS, PL_TC, PL_TP, PLC_GREEN_FRAMES, PLC_YELLOW_FRAMES, PLC_RED_FRAMES, PLC_GREEN_OCTETS, PLC_YELLOW_OCTETS, PLC_RED_OCTETS]

end Sys2Proof.Machine.R
end

