-- ==== Sys2Proof/Machine/RegsB.lean ====
section
/-!
DEFINITION. The register fields of the spec, one definition for each, taken from the register tables of spec/ (the table number stands in
each docstring). A field of a multi-channel block has a channel; LO/HI pairs and 64-bit counters are one wide field. This file: chapters 8 to 18.
-/
namespace Sys2Proof.Machine.R

/-- Table 8.8: Part family 48 -/
def ID_PART_FAMILY : Field := { addr := 0x00000000, width := 16, reset := 48 }
/-- Table 8.8: ASCII: 0x46 F, 0x47 G, 0x44 D -/
def ID_PART_SKU : Field := { addr := 0x00000000, lo := 16, width := 8, reset := 70 }
/-- Table 8.8: Silicon stepping -/
def ID_STEPPING : Field := { addr := 0x00000004, width := 8, reset := 161 }
/-- Table 8.8: Table 8.9a -/
def UNIT_PRESENT : Field := { addr := 0x00000008, reset := 0xfffffff }
/-- Table 8.8: Device unique ID; UID0 holds bits [31:0]. The seal and HELLO carry it little-endian -/
def ID_UID : Field := { addr := 0x00000010, count := 4, stride := 4 }

/-- The fields of Table 8.8. -/
def table8_8 : List Field :=
  [ID_PART_FAMILY, ID_PART_SKU, ID_STEPPING, UNIT_PRESENT, ID_UID]

/-- Table 8.9: R218 -/
def FN_GSTATUS_WR_REFUSED : Field := { addr := 0x05100010, width := 1, ty := .w1c }
/-- Table 8.9: R218: 1 enabled, 2 overlap, 3 beyond total, 4 doorbell pages -/
def FN_GSTATUS_CAUSE : Field := { addr := 0x05100010, lo := 1, width := 3 }
/-- Table 8.9: 8 + sum of TotalVFs -/
def FN_NUM : Field := { addr := 0x05100014, width := 13, reset := 8 }
/-- Table 8.9: Parent PF -/
def FN_INFO_PF : Field := { addr := 0x05101000, width := 3, chan := .window }
/-- Table 8.9: — -/
def FN_INFO_IS_VF : Field := { addr := 0x05101000, lo := 3, width := 1, chan := .window }
/-- Table 8.9: PF implemented, or VF enabled -/
def FN_INFO_PRESENT : Field := { addr := 0x05101000, lo := 4, width := 1, chan := .window }
/-- Table 8.9: Bus Master Enable -/
def FN_INFO_BME : Field := { addr := 0x05101000, lo := 5, width := 1, chan := .window }
/-- Table 8.9: — -/
def FN_INFO_MSIX_EN : Field := { addr := 0x05101000, lo := 6, width := 1, chan := .window }
/-- Table 8.9: 0 link A, 1 link B -/
def FN_INFO_LINK : Field := { addr := 0x05101000, lo := 7, width := 1, chan := .window }
/-- Table 8.9: As FNW_ID -/
def FN_INFO_TYPE : Field := { addr := 0x05101000, lo := 8, width := 4, chan := .window }
/-- Table 8.9: VF number; 0 for a PF -/
def FN_INFO_VF_NUM : Field := { addr := 0x05101000, lo := 16, width := 10, chan := .window }
/-- Table 8.9: R213 -/
def FN_STATUS_DISABLING : Field := { addr := 0x05101004, width := 1, chan := .window }
/-- Table 8.9: R213 -/
def FN_STATUS_IDLE : Field := { addr := 0x05101004, lo := 1, width := 1, reset := 1, chan := .window }
/-- Table 8.9: R212 -/
def FN_STATUS_CAUSE : Field := { addr := 0x05101004, lo := 2, width := 3, chan := .window }
/-- Table 8.9: Sets when IDLE sets -/
def FN_STATUS_IDLE_CHG : Field := { addr := 0x05101004, lo := 5, width := 1, ty := .w1c, chan := .window }
/-- Table 8.9: R212; writable by PF0 and cores -/
def FN_CTRL : Field := { addr := 0x05101008, width := 1, ty := .rw, chan := .window }
/-- Table 8.9: R218; other bits reserved -/
def FN_RING_BASE : Field := { addr := 0x05101010, width := 16, ty := .rw, chan := .window }
/-- Table 8.9: R218; other bits reserved -/
def FN_RING_COUNT : Field := { addr := 0x05101014, width := 17, ty := .rw, chan := .window }
/-- Table 8.9: R218 -/
def FN_EQ_BASE : Field := { addr := 0x05101018, width := 14, ty := .rw, chan := .window }
/-- Table 8.9: R218 -/
def FN_EQ_COUNT : Field := { addr := 0x0510101C, width := 15, ty := .rw, chan := .window }
/-- Table 8.9: R218 -/
def FN_QP_BASE : Field := { addr := 0x05101020, width := 22, ty := .rw, chan := .window }
/-- Table 8.9: R218 -/
def FN_QP_COUNT : Field := { addr := 0x05101024, width := 23, ty := .rw, chan := .window }
/-- Table 8.9: R217 -/
def FN_DISC_SUBMIT : Field := { addr := 0x05101028, chan := .window }
/-- Table 8.9: R217 -/
def FN_DISC_RX : Field := { addr := 0x0510102C, chan := .window }
/-- Table 8.9: R217 -/
def FN_DISC_NOTIFY : Field := { addr := 0x05101030, chan := .window }
/-- Table 8.9: R217 -/
def FN_DISC_PARTIAL : Field := { addr := 0x05101034, chan := .window }
/-- Table 8.9: 64-bit, R64 -/
def FN_DISC_TOTAL : Field := { addr := 0x05101038, width := 64, chan := .window }
/-- Table 8.9: Wraps -/
def FN_DISABLES : Field := { addr := 0x05101040, chan := .window }
/-- Table 8.9: R206; saturates -/
def FN_DB_IGNORED : Field := { addr := 0x05101044, ty := .rc, chan := .window }

/-- The fields of Table 8.9. -/
def table8_9 : List Field :=
  [FN_GSTATUS_WR_REFUSED, FN_GSTATUS_CAUSE, FN_NUM, FN_INFO_PF, FN_INFO_IS_VF, FN_INFO_PRESENT, FN_INFO_BME, FN_INFO_MSIX_EN, FN_INFO_LINK, FN_INFO_TYPE, FN_INFO_VF_NUM, FN_STATUS_DISABLING, FN_STATUS_IDLE, FN_STATUS_CAUSE, FN_STATUS_IDLE_CHG, FN_CTRL, FN_RING_BASE, FN_RING_COUNT, FN_EQ_BASE, FN_EQ_COUNT, FN_QP_BASE, FN_QP_COUNT, FN_DISC_SUBMIT, FN_DISC_RX, FN_DISC_NOTIFY, FN_DISC_PARTIAL, FN_DISC_TOTAL, FN_DISABLES, FN_DB_IGNORED]

/-- Table 8.12: R197 -/
def PC_MODE : Field := { addr := 0x05000010, width := 1 }
/-- Table 8.12: 1–6: 2.5, 5.0, 8.0, 16.0, 32.0, 64.0 GT/s -/
def PC_LINK_SPEED : Field := { addr := 0x05001000, width := 3, chan := .window }
/-- Table 8.12: Lanes -/
def PC_LINK_WIDTH : Field := { addr := 0x05001000, lo := 3, width := 5, chan := .window }
/-- Table 8.12: Data link up -/
def PC_LINK_UP : Field := { addr := 0x05001000, lo := 8, width := 1, chan := .window }
/-- Table 8.12: FLIT mode -/
def PC_LINK_FLIT : Field := { addr := 0x05001000, lo := 9, width := 1, chan := .window }
/-- Table 8.12: Below 8.0 GT/s or below full width -/
def PC_LINK_DEGRADED : Field := { addr := 0x05001000, lo := 10, width := 1, chan := .window }
/-- Table 8.12: Reset input asserted -/
def PC_LINK_PERST : Field := { addr := 0x05001000, lo := 11, width := 1, chan := .window }
/-- Table 8.12: UP changed -/
def PC_EVENTS_LINK_CHG : Field := { addr := 0x05001004, width := 1, ty := .w1c, chan := .window }
/-- Table 8.12: Hot Reset received -/
def PC_EVENTS_HOT_RESET : Field := { addr := 0x05001004, lo := 1, width := 1, ty := .w1c, chan := .window }
/-- Table 8.12: — -/
def PC_EVENTS_DL_DOWN : Field := { addr := 0x05001004, lo := 2, width := 1, ty := .w1c, chan := .window }
/-- Table 8.12: Highest rate trained; applies at the next retrain -/
def PC_TARGET : Field := { addr := 0x05001008, width := 3, ty := .rw, reset := 6, chan := .window }
/-- Table 8.12: counter, R64 -/
def PC_CORR_ERR : Field := { addr := 0x05001100, width := 64, chan := .window }
/-- Table 8.12: counter, R64 -/
def PC_RETRAIN : Field := { addr := 0x05001108, width := 64, chan := .window }
/-- Table 8.12: counter, R64 -/
def PC_FLIT_REPLAY : Field := { addr := 0x05001110, width := 64, chan := .window }
/-- Table 8.12: counter, R64 -/
def PC_CA : Field := { addr := 0x05001118, width := 64, chan := .window }
/-- Table 8.12: counter, R64 -/
def PC_LATE_CPL : Field := { addr := 0x05001120, width := 64, chan := .window }

/-- The fields of Table 8.12. -/
def table8_12 : List Field :=
  [PC_MODE, PC_LINK_SPEED, PC_LINK_WIDTH, PC_LINK_UP, PC_LINK_FLIT, PC_LINK_DEGRADED, PC_LINK_PERST, PC_EVENTS_LINK_CHG, PC_EVENTS_HOT_RESET, PC_EVENTS_DL_DOWN, PC_TARGET, PC_CORR_ERR, PC_RETRAIN, PC_FLIT_REPLAY, PC_CA, PC_LATE_CPL]

/-- Table 8.13: Per requester -/
def MX_IDX : Field := { addr := 0x05401000, width := 11, ty := .rw, perReq := true, chan := .window }
/-- Table 8.13: Table entry VECTOR, 16 bytes, read-only -/
def MX_ENTRY : Field := { addr := 0x05401004, count := 4, stride := 4, chan := .window }
/-- Table 8.13: Pending bit of VECTOR -/
def MX_STATE_PENDING : Field := { addr := 0x05401014, width := 1, chan := .window }
/-- Table 8.13: Function Mask -/
def MX_STATE_FN_MASK : Field := { addr := 0x05401014, lo := 1, width := 1, chan := .window }
/-- Table 8.13: Table size − 1 -/
def MX_STATE_SIZE : Field := { addr := 0x05401014, lo := 2, width := 11, chan := .window }

/-- The fields of Table 8.13. -/
def table8_13 : List Field :=
  [MX_IDX, MX_ENTRY, MX_STATE_PENDING, MX_STATE_FN_MASK, MX_STATE_SIZE]

/-- Table 9.11: Base address [31:12]; R233 -/
def RG_BASE_LO : Field := { addr := 0x05201000, lo := 12, width := 20, ty := .rw, chan := .window }
/-- Table 9.11: Base address [63:32] -/
def RG_BASE_HI : Field := { addr := 0x05201004, ty := .rw, chan := .window }
/-- Table 9.11: R220 -/
def RG_CFG_LOG2_SIZE : Field := { addr := 0x05201008, width := 5, ty := .rw, reset := 6, chan := .window }
/-- Table 9.11: Table 9.2 -/
def RG_CFG_TYPE : Field := { addr := 0x05201008, lo := 5, width := 2, ty := .rw, chan := .window }
/-- Table 9.11: R223 -/
def RG_CFG_PFMODE : Field := { addr := 0x05201008, lo := 7, width := 1, ty := .rw, chan := .window }
/-- Table 9.11: R237 -/
def RG_CFG_NOTIFY_ALL : Field := { addr := 0x05201008, lo := 8, width := 1, ty := .rw, chan := .window }
/-- Table 9.11: Notifications enabled -/
def RG_CFG_EQ_EN : Field := { addr := 0x05201008, lo := 9, width := 1, ty := .rw, chan := .window }
/-- Table 9.11: Local event queue -/
def RG_CFG_EQ : Field := { addr := 0x05201008, lo := 10, width := 14, ty := .rw, chan := .window }
/-- Table 9.11: R233, R234 -/
def RG_CTRL_ENABLE : Field := { addr := 0x0520100C, width := 1, ty := .rw, chan := .window }
/-- Table 9.11: R223 -/
def RG_CTRL_INVAL : Field := { addr := 0x0520100C, lo := 1, width := 1, ty := .wo, chan := .window }
/-- Table 9.11: R234 -/
def RG_STATUS_IDLE : Field := { addr := 0x05201010, width := 1, reset := 1, chan := .window }
/-- Table 9.11: R235 -/
def RG_STATUS_ERR : Field := { addr := 0x05201010, lo := 1, width := 1, chan := .window }
/-- Table 9.11: R235 -/
def RG_STATUS_ERR_CAUSE : Field := { addr := 0x05201010, lo := 2, width := 3, chan := .window }
/-- Table 9.11: R238 -/
def RG_STATUS_NOTIFY_PENDING : Field := { addr := 0x05201010, lo := 5, width := 1, chan := .window }
/-- Table 9.11: A WAIT holds the ring -/
def RG_STATUS_WAITING : Field := { addr := 0x05201010, lo := 6, width := 1, chan := .window }
/-- Table 9.11: R233 -/
def RG_STATUS_WR_REFUSED : Field := { addr := 0x05201010, lo := 7, width := 1, ty := .w1c, chan := .window }
/-- Table 9.11: R233 -/
def RG_STATUS_CAUSE : Field := { addr := 0x05201010, lo := 8, width := 3, chan := .window }
/-- Table 9.11: R220 -/
def RG_PI : Field := { addr := 0x05201014, width := 17, chan := .window }
/-- Table 9.11: R220 -/
def RG_FETCH : Field := { addr := 0x05201018, width := 17, chan := .window }
/-- Table 9.11: R220 -/
def RG_CI : Field := { addr := 0x0520101C, width := 17, chan := .window }
/-- Table 9.11: R230; wraps -/
def RG_CPL_COUNT : Field := { addr := 0x05201020, chan := .window }
/-- Table 9.11: R235 -/
def RG_ERR_IDX : Field := { addr := 0x05201024, width := 17, chan := .window }
/-- Table 9.11: Function whose allocation holds the ring -/
def RG_OWNER : Field := { addr := 0x05201028, width := 13, chan := .window }
/-- Table 9.11: counter, R64 -/
def RG_JOBS : Field := { addr := 0x05201100, width := 64, chan := .window }
/-- Table 9.11: counter, R64 -/
def RG_OCTETS : Field := { addr := 0x05201108, width := 64, chan := .window }
/-- Table 9.11: counter, R64 -/
def RG_ERR_CPL : Field := { addr := 0x05201110, width := 64, chan := .window }
/-- Table 9.11: counter, R64 -/
def RG_RX_NOBUF : Field := { addr := 0x05201118, width := 64, chan := .window }

/-- The fields of Table 9.11. -/
def table9_11 : List Field :=
  [RG_BASE_LO, RG_BASE_HI, RG_CFG_LOG2_SIZE, RG_CFG_TYPE, RG_CFG_PFMODE, RG_CFG_NOTIFY_ALL, RG_CFG_EQ_EN, RG_CFG_EQ, RG_CTRL_ENABLE, RG_CTRL_INVAL, RG_STATUS_IDLE, RG_STATUS_ERR, RG_STATUS_ERR_CAUSE, RG_STATUS_NOTIFY_PENDING, RG_STATUS_WAITING, RG_STATUS_WR_REFUSED, RG_STATUS_CAUSE, RG_PI, RG_FETCH, RG_CI, RG_CPL_COUNT, RG_ERR_IDX, RG_OWNER, RG_JOBS, RG_OCTETS, RG_ERR_CPL, RG_RX_NOBUF]

/-- Table 9.12: R242 -/
def EQ_BASE_LO : Field := { addr := 0x05301000, lo := 12, width := 20, ty := .rw, chan := .window }
/-- Table 9.12: — -/
def EQ_BASE_HI : Field := { addr := 0x05301004, ty := .rw, chan := .window }
/-- Table 9.12: R236 -/
def EQ_CFG_LOG2_SIZE : Field := { addr := 0x05301008, width := 5, ty := .rw, reset := 6, chan := .window }
/-- Table 9.12: MSI-X vector of the owning function -/
def EQ_CFG_VECTOR : Field := { addr := 0x05301008, lo := 5, width := 11, ty := .rw, chan := .window }
/-- Table 9.12: 100 ns units; R241 -/
def EQ_CFG_MOD : Field := { addr := 0x05301008, lo := 16, width := 16, ty := .rw, chan := .window }
/-- Table 9.12: R242 -/
def EQ_CTRL_ENABLE : Field := { addr := 0x0530100C, width := 1, ty := .rw, chan := .window }
/-- Table 9.12: R241 -/
def EQ_CTRL_INT_EN : Field := { addr := 0x0530100C, lo := 1, width := 1, ty := .rw, chan := .window }
/-- Table 9.12: R236 -/
def EQ_STATUS_FULL : Field := { addr := 0x05301010, width := 1, chan := .window }
/-- Table 9.12: R238, R239 -/
def EQ_STATUS_OVF_PENDING : Field := { addr := 0x05301010, lo := 1, width := 1, chan := .window }
/-- Table 9.12: R240 -/
def EQ_STATUS_CI_REFUSED : Field := { addr := 0x05301010, lo := 2, width := 1, ty := .w1c, chan := .window }
/-- Table 9.12: R242 -/
def EQ_STATUS_WR_REFUSED : Field := { addr := 0x05301010, lo := 3, width := 1, ty := .w1c, chan := .window }
/-- Table 9.12: R242: 1 size, 2 vector, 3 write while enabled, 4 not in any allocation -/
def EQ_STATUS_CAUSE : Field := { addr := 0x05301010, lo := 4, width := 3, chan := .window }
/-- Table 9.12: R236 -/
def EQ_PI : Field := { addr := 0x05301014, width := 17, chan := .window }
/-- Table 9.12: R240 -/
def EQ_CI : Field := { addr := 0x05301018, width := 17, ty := .rw, chan := .window }
/-- Table 9.12: R238; zero at enable; saturates -/
def EQ_OVF : Field := { addr := 0x0530101C, chan := .window }
/-- Table 9.12: R242; saturates -/
def EQ_DISCARD : Field := { addr := 0x05301020, ty := .rc, chan := .window }

/-- The fields of Table 9.12. -/
def table9_12 : List Field :=
  [EQ_BASE_LO, EQ_BASE_HI, EQ_CFG_LOG2_SIZE, EQ_CFG_VECTOR, EQ_CFG_MOD, EQ_CTRL_ENABLE, EQ_CTRL_INT_EN, EQ_STATUS_FULL, EQ_STATUS_OVF_PENDING, EQ_STATUS_CI_REFUSED, EQ_STATUS_WR_REFUSED, EQ_STATUS_CAUSE, EQ_PI, EQ_CI, EQ_OVF, EQ_DISCARD]

/-- Table 10.11: R245 -/
def IR_CTRL_EN : Field := { addr := 0x06000010, width := 1, ty := .rw }
/-- Table 10.11: R245 -/
def IR_CTRL_ROCE_EN : Field := { addr := 0x06000010, lo := 1, width := 1, ty := .rw }
/-- Table 10.11: R244 -/
def IR_UDP_PORT : Field := { addr := 0x06000014, width := 16, ty := .rw, reset := 0xc5a2 }
/-- Table 10.11: R245 -/
def IR_PORT_EN : Field := { addr := 0x06000018, width := 16, ty := .rw }
/-- Table 10.11: R258; 1,024–32,768 -/
def IR_GRANT_POOL : Field := { addr := 0x0600001C, ty := .rw, reset := 0x4000 }
/-- Table 10.11: R259; 1,024–8,192 -/
def IR_CMB_XOFF : Field := { addr := 0x06000020, width := 14, ty := .rw, reset := 0x1800 }
/-- Table 10.11: R266; 100–65,535 -/
def IR_NAK_DELAY : Field := { addr := 0x06000024, width := 16, ty := .rw, reset := 2000 }
/-- Table 10.11: R265; 1–255 -/
def IR_ACK_EVERY : Field := { addr := 0x06000028, width := 8, ty := .rw, reset := 16 }
/-- Table 10.11: 10 ns units -/
def IR_ACK_DELAY : Field := { addr := 0x06000028, lo := 16, width := 16, ty := .rw, reset := 100 }
/-- Table 10.11: KiB -/
def IR_STATUS_CMB_USED : Field := { addr := 0x0600002C, width := 14 }
/-- Table 10.11: R259 -/
def IR_STATUS_XOFF : Field := { addr := 0x0600002C, lo := 14, width := 1 }
/-- Table 10.11: Contexts on die -/
def IR_CTX_CACHED : Field := { addr := 0x06000030, width := 17 }
/-- Table 10.11 -/
def IQ_DB_LO_QP : Field := { addr := 0x06000038, width := 23, ty := .wo, perReq := true }
/-- Table 10.11 -/
def IQ_DB_LO_QUEUE : Field := { addr := 0x06000038, lo := 24, width := 1, ty := .wo, perReq := true }
/-- Table 10.11 -/
def IQ_DB_HI : Field := { addr := 0x0600003C, width := 17, ty := .wo }
/-- Table 10.11: Per requester; same offsets in the view -/
def MR_ADDR : Field := { addr := 0x06000040, width := 64, ty := .rw, perReq := true }
/-- Table 10.11: Per requester -/
def MR_LEN : Field := { addr := 0x06000048, width := 64, ty := .rw, perReq := true }
/-- Table 10.11: Per requester -/
def MR_ATTR_PD : Field := { addr := 0x06000050, width := 16, ty := .rw, perReq := true }
/-- Table 10.11: — -/
def MR_ATTR_LOCAL_WRITE : Field := { addr := 0x06000050, lo := 16, width := 1, ty := .rw, perReq := true }
/-- Table 10.11: — -/
def MR_ATTR_REMOTE_WRITE : Field := { addr := 0x06000050, lo := 17, width := 1, ty := .rw, perReq := true }
/-- Table 10.11: — -/
def MR_ATTR_REMOTE_READ : Field := { addr := 0x06000050, lo := 18, width := 1, ty := .rw, perReq := true }
/-- Table 10.11: — -/
def MR_ATTR_REMOTE_ATOMIC : Field := { addr := 0x06000050, lo := 19, width := 1, ty := .rw, perReq := true }
/-- Table 10.11: Block only; the view uses its own function -/
def MR_FUNC : Field := { addr := 0x06000054, width := 13, ty := .rw, perReq := true }
/-- Table 10.11: Result of REGISTER; input to DEREGISTER and QUERY -/
def MR_KEY : Field := { addr := 0x06000058, ty := .rw, perReq := true }
/-- Table 10.11: 1 REGISTER, 2 DEREGISTER, 3 QUERY (fills MR_ADDR to MR_ATTR) -/
def MR_OP : Field := { addr := 0x0600005C, width := 2, ty := .wo }
/-- Table 10.11: Per requester -/
def MR_STATUS_BUSY : Field := { addr := 0x06000060, width := 1, perReq := true }
/-- Table 10.11: R252; 3 key not found; 6 previous operation BUSY -/
def MR_STATUS_RESULT : Field := { addr := 0x06000060, lo := 1, width := 3, perReq := true }
/-- Table 10.11: Source MAC of port p, first wire byte in HI [15:8] -/
def IR_PORT_MAC : Field := { addr := 0x06000100, width := 48, ty := .rw, count := 16, stride := 8 }
/-- Table 10.11: counter, R64 -/
def IR_CSUM_ERR : Field := { addr := 0x06000200, width := 64 }
/-- Table 10.11: counter, R64 -/
def IR_NO_QP : Field := { addr := 0x06000208, width := 64 }
/-- Table 10.11: counter, R64 -/
def IR_CMB_FULL : Field := { addr := 0x06000210, width := 64 }
/-- Table 10.11: counter, R64 -/
def IR_OVERGRANT : Field := { addr := 0x06000218, width := 64 }
/-- Table 10.11: counter, R64 -/
def IR_UNCREDITED : Field := { addr := 0x06000220, width := 64 }
/-- Table 10.11: counter, R64 -/
def IR_PSN_OOW : Field := { addr := 0x06000228, width := 64 }
/-- Table 10.11: counter, R64 -/
def IR_CTX_MISS : Field := { addr := 0x06000230, width := 64 }
/-- Table 10.11: counter, R64 -/
def IR_ROCE_CE : Field := { addr := 0x06000238, width := 64 }

/-- The fields of Table 10.11. -/
def table10_11 : List Field :=
  [IR_CTRL_EN, IR_CTRL_ROCE_EN, IR_UDP_PORT, IR_PORT_EN, IR_GRANT_POOL, IR_CMB_XOFF, IR_NAK_DELAY, IR_ACK_EVERY, IR_ACK_DELAY, IR_STATUS_CMB_USED, IR_STATUS_XOFF, IR_CTX_CACHED, IQ_DB_LO_QP, IQ_DB_LO_QUEUE, IQ_DB_HI, MR_ADDR, MR_LEN, MR_ATTR_PD, MR_ATTR_LOCAL_WRITE, MR_ATTR_REMOTE_WRITE, MR_ATTR_REMOTE_READ, MR_ATTR_REMOTE_ATOMIC, MR_FUNC, MR_KEY, MR_OP, MR_STATUS_BUSY, MR_STATUS_RESULT, IR_PORT_MAC, IR_CSUM_ERR, IR_NO_QP, IR_CMB_FULL, IR_OVERGRANT, IR_UNCREDITED, IR_PSN_OOW, IR_CTX_MISS, IR_ROCE_CE]

/-- Table 10.12: R248 -/
def IQ_CTRL_ENABLE : Field := { addr := 0x06001000, width := 1, ty := .rw, chan := .window }
/-- Table 10.12: R249 -/
def IQ_CTRL_FORCE_ERR : Field := { addr := 0x06001000, lo := 1, width := 1, ty := .w1s, chan := .window }
/-- Table 10.12: R250 -/
def IQ_CTRL_PIN : Field := { addr := 0x06001000, lo := 2, width := 1, ty := .rw, chan := .window }
/-- Table 10.12: R248 -/
def IQ_STATUS_STATE : Field := { addr := 0x06001004, width := 2, chan := .window }
/-- Table 10.12: R249 -/
def IQ_STATUS_IDLE : Field := { addr := 0x06001004, lo := 2, width := 1, reset := 1, chan := .window }
/-- Table 10.12: Context on die -/
def IQ_STATUS_CACHED : Field := { addr := 0x06001004, lo := 3, width := 1, chan := .window }
/-- Table 10.12: R249 -/
def IQ_STATUS_ERR_CAUSE : Field := { addr := 0x06001004, lo := 4, width := 3, chan := .window }
/-- Table 10.12: R270 -/
def IQ_STATUS_IMM_LOST : Field := { addr := 0x06001004, lo := 7, width := 1, ty := .w1c, chan := .window }
/-- Table 10.12: Last NAK code received -/
def IQ_STATUS_LAST_NAK : Field := { addr := 0x06001004, lo := 8, width := 8, chan := .window }
/-- Table 10.12: R248, R250 -/
def IQ_STATUS_WR_REFUSED : Field := { addr := 0x06001004, lo := 16, width := 1, ty := .w1c, chan := .window }
/-- Table 10.12: R248 -/
def IQ_STATUS_CAUSE : Field := { addr := 0x06001004, lo := 17, width := 3, chan := .window }
/-- Table 10.12: R244 -/
def IQ_CFG_TRANSPORT : Field := { addr := 0x06001008, width := 2, ty := .rw, chan := .window }
/-- Table 10.12: 0 IRA, 1 RoCEv2 -/
def IQ_CFG_MODE : Field := { addr := 0x06001008, lo := 2, width := 1, ty := .rw, chan := .window }
/-- Table 10.12: R262, R263 -/
def IQ_CFG_RELAXED : Field := { addr := 0x06001008, lo := 3, width := 1, ty := .rw, chan := .window }
/-- Table 10.12: R250 -/
def IQ_CFG_HOST_CTX : Field := { addr := 0x06001008, lo := 4, width := 1, ty := .rw, chan := .window }
/-- Table 10.12: R255 -/
def IQ_CFG_MTU : Field := { addr := 0x06001008, lo := 5, width := 3, ty := .rw, reset := 3, chan := .window }
/-- Table 10.12: Paths − 1 -/
def IQ_CFG_PATHS : Field := { addr := 0x06001008, lo := 8, width := 4, ty := .rw, chan := .window }
/-- Table 10.12: Egress port -/
def IQ_CFG_PORT : Field := { addr := 0x06001008, lo := 12, width := 4, ty := .rw, chan := .window }
/-- Table 10.12: Protection domain -/
def IQ_CFG_PD : Field := { addr := 0x06001008, lo := 16, width := 16, ty := .rw, chan := .window }
/-- Table 10.12: R247 -/
def IQ_QUEUE : Field := { addr := 0x0600100C, width := 16, ty := .rw, chan := .window }
/-- Table 10.12: Peer QP -/
def IQ_PEER : Field := { addr := 0x06001010, width := 24, ty := .rw, chan := .window }
/-- Table 10.12: R244 -/
def IQ_FAB_SPORT_BASE : Field := { addr := 0x06001014, width := 16, ty := .rw, reset := 0xc000, chan := .window }
/-- Table 10.12: Peer fabric address -/
def IQ_FAB_ADDR : Field := { addr := 0x06001014, lo := 16, width := 12, ty := .rw, chan := .window }
/-- Table 10.12: TTL or hop limit -/
def IQ_IPHDR_TTL : Field := { addr := 0x06001018, width := 8, ty := .rw, reset := 64, chan := .window }
/-- Table 10.12: — -/
def IQ_IPHDR_DSCP : Field := { addr := 0x06001018, lo := 8, width := 6, ty := .rw, chan := .window }
/-- Table 10.12: Transmitted ECN field -/
def IQ_IPHDR_ECN : Field := { addr := 0x06001018, lo := 14, width := 2, ty := .rw, chan := .window }
/-- Table 10.12: — -/
def IQ_IPHDR_VID : Field := { addr := 0x06001018, lo := 16, width := 12, ty := .rw, chan := .window }
/-- Table 10.12: Add an 802.1Q tag -/
def IQ_IPHDR_VLAN_EN : Field := { addr := 0x06001018, lo := 28, width := 1, ty := .rw, chan := .window }
/-- Table 10.12: — -/
def IQ_IPHDR_PCP : Field := { addr := 0x06001018, lo := 29, width := 3, ty := .rw, chan := .window }
/-- Table 10.12: Next-hop MAC, as IR_PORT_MAC -/
def IQ_DMAC : Field := { addr := 0x0600101C, width := 48, ty := .rw, chan := .window }
/-- Table 10.12: Peer IP; IPv4 in DIP0; first wire byte in DIP0 [31:24] -/
def IQ_DIP : Field := { addr := 0x06001024, ty := .rw, count := 4, stride := 4, chan := .window }
/-- Table 10.12: Own IP, same form -/
def IQ_SIP : Field := { addr := 0x06001034, ty := .rw, count := 4, stride := 4, chan := .window }
/-- Table 10.12: 4 KiB aligned; LO [11:0] reserved -/
def SQ_BASE_LO : Field := { addr := 0x06001050, lo := 12, width := 20, ty := .rw, chan := .window }
/-- Table 10.12: 4 KiB aligned; LO [11:0] reserved -/
def SQ_BASE_HI : Field := { addr := 0x06001054, ty := .rw, chan := .window }
/-- Table 10.12: 6–16 -/
def SQ_CFG_LOG2_SIZE : Field := { addr := 0x06001058, width := 5, ty := .rw, reset := 6, chan := .window }
/-- Table 10.12: R223 -/
def SQ_CFG_PFMODE : Field := { addr := 0x06001058, lo := 5, width := 1, ty := .rw, chan := .window }
/-- Table 10.12: R220; [31:17] reserved -/
def SQ_PI : Field := { addr := 0x0600105C, width := 17, chan := .window }
/-- Table 10.12: R220; [31:17] reserved -/
def SQ_FETCH : Field := { addr := 0x06001060, width := 17, chan := .window }
/-- Table 10.12: R220; [31:17] reserved -/
def SQ_CI : Field := { addr := 0x06001064, width := 17, chan := .window }
/-- Table 10.12 -/
def RQ_BASE_LO : Field := { addr := 0x06001070, lo := 12, width := 20, ty := .rw, chan := .window }
/-- Table 10.12 -/
def RQ_BASE_HI : Field := { addr := 0x06001074, ty := .rw, chan := .window }
/-- Table 10.12 -/
def RQ_CFG_LOG2_SIZE : Field := { addr := 0x06001078, width := 5, ty := .rw, reset := 6, chan := .window }
/-- Table 10.12 -/
def RQ_CFG_PFMODE : Field := { addr := 0x06001078, lo := 5, width := 1, ty := .rw, chan := .window }
/-- Table 10.12 -/
def RQ_PI : Field := { addr := 0x0600107C, width := 17, chan := .window }
/-- Table 10.12 -/
def RQ_FETCH : Field := { addr := 0x06001080, width := 17, chan := .window }
/-- Table 10.12 -/
def RQ_CI : Field := { addr := 0x06001084, width := 17, chan := .window }
/-- Table 10.12: R248 -/
def IQ_INIT_PSN : Field := { addr := 0x06001090, ty := .rw, chan := .window }
/-- Table 10.12: R248 -/
def IQ_PEER_PSN : Field := { addr := 0x06001094, ty := .rw, chan := .window }
/-- Table 10.12: µs, 1–65,535; R267 -/
def IQ_TIMERS_RTO : Field := { addr := 0x06001098, width := 16, ty := .rw, reset := 20, chan := .window }
/-- Table 10.12: R267 -/
def IQ_TIMERS_RETRY : Field := { addr := 0x06001098, lo := 16, width := 3, ty := .rw, reset := 7, chan := .window }
/-- Table 10.12: 7 unlimited -/
def IQ_TIMERS_RNR_RETRY : Field := { addr := 0x06001098, lo := 19, width := 3, ty := .rw, reset := 7, chan := .window }
/-- Table 10.12: µs -/
def IQ_TIMERS_RNR_DELAY : Field := { addr := 0x06001098, lo := 22, width := 10, ty := .rw, reset := 10, chan := .window }
/-- Table 10.12: 256-byte units; R257 -/
def IQ_GRANT_INIT : Field := { addr := 0x0600109C, width := 16, ty := .rw, reset := 64, chan := .window }
/-- Table 10.12: R258 -/
def IQ_GRANT_MAX : Field := { addr := 0x0600109C, lo := 16, width := 16, ty := .rw, reset := 1024, chan := .window }
/-- Table 10.12: Local event queue -/
def IQ_EQ_EQ : Field := { addr := 0x060010A0, width := 14, ty := .rw, chan := .window }
/-- Table 10.12: R270 -/
def IQ_EQ_EN : Field := { addr := 0x060010A0, lo := 14, width := 1, ty := .rw, chan := .window }
/-- Table 10.12: R270 -/
def IQ_EQ_NOTIFY_RQ : Field := { addr := 0x060010A0, lo := 15, width := 1, ty := .rw, chan := .window }
/-- Table 10.12: R269 -/
def IQ_CPL_COUNT : Field := { addr := 0x060010A4, chan := .window }
/-- Table 10.12: R269 -/
def IQ_RX_COUNT : Field := { addr := 0x060010A8, chan := .window }
/-- Table 10.12: R250; LO [7:0] reserved -/
def IQ_CTX_ADDR_LO : Field := { addr := 0x060010AC, lo := 8, width := 24, ty := .rw, chan := .window }
/-- Table 10.12: R250; LO [7:0] reserved -/
def IQ_CTX_ADDR_HI : Field := { addr := 0x060010B0, ty := .rw, chan := .window }
/-- Table 10.12: Next PSN to send -/
def IQ_TX_PSN : Field := { addr := 0x060010B4, chan := .window }
/-- Table 10.12: Lowest PSN not yet acknowledged -/
def IQ_RX_A : Field := { addr := 0x060010B8, chan := .window }
/-- Table 10.12: Grant received from the peer -/
def IQ_GRANT_TX : Field := { addr := 0x060010BC, chan := .window }
/-- Table 10.12: Grant given to the peer -/
def IQ_GRANT_RX : Field := { addr := 0x060010C0, chan := .window }
/-- Table 10.12: R260 -/
def IQ_DEGRADED : Field := { addr := 0x060010C4, width := 16, chan := .window }
/-- Table 10.12: counter, R64 -/
def IQ_TX_PKTS : Field := { addr := 0x06001100, width := 64, chan := .window }
/-- Table 10.12: counter, R64 -/
def IQ_RX_PKTS : Field := { addr := 0x06001108, width := 64, chan := .window }
/-- Table 10.12: counter, R64 -/
def IQ_RETX : Field := { addr := 0x06001110, width := 64, chan := .window }
/-- Table 10.12: counter, R64 -/
def IQ_DUP : Field := { addr := 0x06001118, width := 64, chan := .window }
/-- Table 10.12: counter, R64 -/
def IQ_NAK_TX : Field := { addr := 0x06001120, width := 64, chan := .window }
/-- Table 10.12: counter, R64 -/
def IQ_NAK_RX : Field := { addr := 0x06001128, width := 64, chan := .window }
/-- Table 10.12: counter, R64 -/
def IQ_ERR_DROP : Field := { addr := 0x06001130, width := 64, chan := .window }
/-- Table 10.12: counter, R64 -/
def IQ_IMM_LOST : Field := { addr := 0x06001138, width := 64, chan := .window }

/-- The fields of Table 10.12. -/
def table10_12 : List Field :=
  [IQ_CTRL_ENABLE, IQ_CTRL_FORCE_ERR, IQ_CTRL_PIN, IQ_STATUS_STATE, IQ_STATUS_IDLE, IQ_STATUS_CACHED, IQ_STATUS_ERR_CAUSE, IQ_STATUS_IMM_LOST, IQ_STATUS_LAST_NAK, IQ_STATUS_WR_REFUSED, IQ_STATUS_CAUSE, IQ_CFG_TRANSPORT, IQ_CFG_MODE, IQ_CFG_RELAXED, IQ_CFG_HOST_CTX, IQ_CFG_MTU, IQ_CFG_PATHS, IQ_CFG_PORT, IQ_CFG_PD, IQ_QUEUE, IQ_PEER, IQ_FAB_SPORT_BASE, IQ_FAB_ADDR, IQ_IPHDR_TTL, IQ_IPHDR_DSCP, IQ_IPHDR_ECN, IQ_IPHDR_VID, IQ_IPHDR_VLAN_EN, IQ_IPHDR_PCP, IQ_DMAC, IQ_DIP, IQ_SIP, SQ_BASE_LO, SQ_BASE_HI, SQ_CFG_LOG2_SIZE, SQ_CFG_PFMODE, SQ_PI, SQ_FETCH, SQ_CI, RQ_BASE_LO] ++
  [RQ_BASE_HI, RQ_CFG_LOG2_SIZE, RQ_CFG_PFMODE, RQ_PI, RQ_FETCH, RQ_CI, IQ_INIT_PSN, IQ_PEER_PSN, IQ_TIMERS_RTO, IQ_TIMERS_RETRY, IQ_TIMERS_RNR_RETRY, IQ_TIMERS_RNR_DELAY, IQ_GRANT_INIT, IQ_GRANT_MAX, IQ_EQ_EQ, IQ_EQ_EN, IQ_EQ_NOTIFY_RQ, IQ_CPL_COUNT, IQ_RX_COUNT, IQ_CTX_ADDR_LO, IQ_CTX_ADDR_HI, IQ_TX_PSN, IQ_RX_A, IQ_GRANT_TX, IQ_GRANT_RX, IQ_DEGRADED, IQ_TX_PKTS, IQ_RX_PKTS, IQ_RETX, IQ_DUP, IQ_NAK_TX, IQ_NAK_RX, IQ_ERR_DROP, IQ_IMM_LOST]

/-- Table 11.9: Dirty data -/
def NV_BUF_DIRTY : Field := { addr := 0x07000010, width := 23 }
/-- Table 11.9: R284; 65,536–4,128,768; writes outside ignored -/
def NV_DIRTY_MAX : Field := { addr := 0x07000014, width := 23, ty := .rw, reset := 0x3f0000 }
/-- Table 11.9: R284 -/
def NV_STATUS_WR_WAIT : Field := { addr := 0x07000018, width := 1 }
/-- Table 11.9: R296 -/
def NV_STATUS_PF_ACTIVE : Field := { addr := 0x07000018, lo := 1, width := 1 }
/-- Table 11.9: R298 -/
def NV_STATUS_VAULT_RESTORE : Field := { addr := 0x07000018, lo := 2, width := 1 }
/-- Table 11.9: R299 -/
def NV_STATUS_SNAP_BUSY : Field := { addr := 0x07000018, lo := 3, width := 1 }
/-- Table 11.9: R281 -/
def NV_STATUS_MAP_DONE : Field := { addr := 0x07000018, lo := 4, width := 1 }
/-- Table 11.9: 0 none, 1 complete, 2 incomplete, 3 vault incomplete; from MRAM -/
def NV_PF_RESULT_RESULT : Field := { addr := 0x0700001C, width := 2 }
/-- Table 11.9: Duration of the last sequence -/
def NV_PF_RESULT_MS : Field := { addr := 0x0700001C, lo := 8, width := 16 }
/-- Table 11.9: Controllers present -/
def NV_CTRL_COUNT : Field := { addr := 0x07000020, width := 11 }
/-- Table 11.9: counter, R64 -/
def NV_READS : Field := { addr := 0x07000100, width := 64 }
/-- Table 11.9: counter, R64 -/
def NV_WRITES : Field := { addr := 0x07000108, width := 64 }
/-- Table 11.9: counter, R64 -/
def NV_BUF_HIT_LBAS : Field := { addr := 0x07000110, width := 64 }
/-- Table 11.9: counter, R64 -/
def NV_DESTAGE_OCTETS : Field := { addr := 0x07000118, width := 64 }
/-- Table 11.9: counter, R64 -/
def NV_BACKEND_ERR : Field := { addr := 0x07000120, width := 64 }
/-- Table 11.9: counter, R64 -/
def NV_ABORT_OK : Field := { addr := 0x07000128, width := 64 }
/-- Table 11.9: counter, R64 -/
def NV_ABORT_LATE : Field := { addr := 0x07000130, width := 64 }
/-- Table 11.9: counter, R64 -/
def NV_SNAP_INVALID : Field := { addr := 0x07000138, width := 64 }
/-- Table 11.9: Channel = controller; function number -/
def NC_INFO_FUNC : Field := { addr := 0x07001000, width := 13, chan := .window }
/-- Table 11.9: CC.EN -/
def NC_INFO_EN : Field := { addr := 0x07001000, lo := 13, width := 1, chan := .window }
/-- Table 11.9: CSTS.RDY -/
def NC_INFO_RDY : Field := { addr := 0x07001000, lo := 14, width := 1, chan := .window }
/-- Table 11.9: R287 -/
def NC_INFO_CFS : Field := { addr := 0x07001000, lo := 15, width := 1, chan := .window }
/-- Table 11.9: R278 -/
def NC_INFO_SHST : Field := { addr := 0x07001000, lo := 16, width := 2, chan := .window }
/-- Table 11.9: Table 11.6 -/
def NC_INFO_PS : Field := { addr := 0x07001000, lo := 18, width := 2, chan := .window }
/-- Table 11.9: I/O SQs created -/
def NC_QUEUES_SQS : Field := { addr := 0x07001004, width := 7, chan := .window }
/-- Table 11.9: I/O CQs created -/
def NC_QUEUES_CQS : Field := { addr := 0x07001004, lo := 8, width := 7, chan := .window }
/-- Table 11.9: Commands outstanding -/
def NC_OUTSTANDING : Field := { addr := 0x07001008, chan := .window }
/-- Table 11.9: counter, R64 -/
def NC_CMDS : Field := { addr := 0x07001100, width := 64, chan := .window }
/-- Table 11.9: counter, R64 -/
def NC_READ_OCTETS : Field := { addr := 0x07001108, width := 64, chan := .window }
/-- Table 11.9: counter, R64 -/
def NC_WRITE_OCTETS : Field := { addr := 0x07001110, width := 64, chan := .window }
/-- Table 11.9: counter, R64 -/
def NC_ERR_CPL : Field := { addr := 0x07001118, width := 64, chan := .window }

/-- The fields of Table 11.9. -/
def table11_9 : List Field :=
  [NV_BUF_DIRTY, NV_DIRTY_MAX, NV_STATUS_WR_WAIT, NV_STATUS_PF_ACTIVE, NV_STATUS_VAULT_RESTORE, NV_STATUS_SNAP_BUSY, NV_STATUS_MAP_DONE, NV_PF_RESULT_RESULT, NV_PF_RESULT_MS, NV_CTRL_COUNT, NV_READS, NV_WRITES, NV_BUF_HIT_LBAS, NV_DESTAGE_OCTETS, NV_BACKEND_ERR, NV_ABORT_OK, NV_ABORT_LATE, NV_SNAP_INVALID, NC_INFO_FUNC, NC_INFO_EN, NC_INFO_RDY, NC_INFO_CFS, NC_INFO_SHST, NC_INFO_PS, NC_QUEUES_SQS, NC_QUEUES_CQS, NC_OUTSTANDING, NC_CMDS, NC_READ_OCTETS, NC_WRITE_OCTETS, NC_ERR_CPL]

/-- Table 11.10: R289 -/
def DS_MODE : Field := { addr := 0x07100010, width := 1 }
/-- Table 11.10: 1–5: 2.5 to 32.0 GT/s -/
def DS_LINK_SPEED : Field := { addr := 0x07101000, width := 3, chan := .window }
/-- Table 11.10: Lanes -/
def DS_LINK_WIDTH : Field := { addr := 0x07101000, lo := 3, width := 4, chan := .window }
/-- Table 11.10: Data link up -/
def DS_LINK_UP : Field := { addr := 0x07101000, lo := 7, width := 1, chan := .window }
/-- Table 11.10: Below 32.0 GT/s or full width -/
def DS_LINK_DEGRADED : Field := { addr := 0x07101000, lo := 8, width := 1, chan := .window }
/-- Table 11.10: UP changed -/
def DS_EVENTS_LINK_CHG : Field := { addr := 0x07101004, width := 1, ty := .w1c, chan := .window }
/-- Table 11.10: R289 -/
def DS_EVENTS_SURPRISE_DOWN : Field := { addr := 0x07101004, lo := 1, width := 1, ty := .w1c, chan := .window }

/-- The fields of Table 11.10. -/
def table11_10 : List Field :=
  [DS_MODE, DS_LINK_SPEED, DS_LINK_WIDTH, DS_LINK_UP, DS_LINK_DEGRADED, DS_EVENTS_LINK_CHG, DS_EVENTS_SURPRISE_DOWN]

/-- Table 12.3: Capture and telemetry enabled -/
def CP_CTRL : Field := { addr := 0x08000010, width := 1, ty := .rw }
/-- Table 12.3: R314 -/
def CP_BANK_ACTIVE : Field := { addr := 0x08000014, width := 1 }
/-- Table 12.3: R314 -/
def CP_BANK_SWAP : Field := { addr := 0x08000014, lo := 1, width := 1, ty := .wo }
/-- Table 12.3: R314 -/
def CP_BANK_CLEAR : Field := { addr := 0x08000014, lo := 2, width := 1, ty := .wo }
/-- Table 12.3: — -/
def CP_BANK_SWAP_PENDING : Field := { addr := 0x08000014, lo := 3, width := 1 }
/-- Table 12.3: — -/
def CP_BANK_CLEAR_BUSY : Field := { addr := 0x08000014, lo := 4, width := 1 }
/-- Table 12.3: R314 -/
def CP_SWAP_TICK : Field := { addr := 0x08000018 }
/-- Table 12.3: R314, R315 -/
def CP_STATUS_WR_REFUSED : Field := { addr := 0x0800001C, width := 1, ty := .w1c }
/-- Table 12.3: 1 bank state, 2 enabled -/
def CP_STATUS_CAUSE : Field := { addr := 0x0800001C, lo := 1, width := 2 }
/-- Table 12.3: Bit s: stream s; R311 -/
def CP_STATUS_LOSS_PENDING : Field := { addr := 0x0800001C, lo := 3, width := 8 }
/-- Table 12.3: counter, R64 -/
def CP_CANDIDATES : Field := { addr := 0x08000100, width := 64 }
/-- Table 12.3: counter, R64 -/
def CP_UNARMED : Field := { addr := 0x08000108, width := 64 }
/-- Table 12.3: counter, R64 -/
def CP_FC_MISS : Field := { addr := 0x08000110, width := 64 }
/-- Table 12.3: counter, R64 -/
def CP_RESET_LOSS : Field := { addr := 0x08000118, width := 64 }

/-- The fields of Table 12.3. -/
def table12_3 : List Field :=
  [CP_CTRL, CP_BANK_ACTIVE, CP_BANK_SWAP, CP_BANK_CLEAR, CP_BANK_SWAP_PENDING, CP_BANK_CLEAR_BUSY, CP_SWAP_TICK, CP_STATUS_WR_REFUSED, CP_STATUS_CAUSE, CP_STATUS_LOSS_PENDING, CP_CANDIDATES, CP_UNARMED, CP_FC_MISS, CP_RESET_LOSS]

/-- Table 12.4: R303 -/
def CF_CTRL_REC_EN : Field := { addr := 0x08001000, width := 1, ty := .rw, chan := .captProfile }
/-- Table 12.4: R306 -/
def CF_CTRL_TS_1NS : Field := { addr := 0x08001000, lo := 1, width := 1, ty := .rw, chan := .captProfile }
/-- Table 12.4: R307 -/
def CF_CTRL_ARM_MODE : Field := { addr := 0x08001000, lo := 2, width := 1, ty := .rw, chan := .captProfile }
/-- Table 12.4: — -/
def CF_CTRL_STREAM : Field := { addr := 0x08001000, lo := 3, width := 3, ty := .rw, chan := .captProfile }
/-- Table 12.4: R315 -/
def CF_CTRL_SK_EN : Field := { addr := 0x08001000, lo := 6, width := 1, ty := .rw, chan := .captProfile }
/-- Table 12.4: R319; 3 ignored -/
def CF_CTRL_FC_MODE : Field := { addr := 0x08001000, lo := 7, width := 2, ty := .rw, chan := .captProfile }
/-- Table 12.4: Trigger TT0–TT15 -/
def CF_CTRL_ARM_TRIG : Field := { addr := 0x08001000, lo := 9, width := 4, ty := .rw, chan := .captProfile }
/-- Table 12.4: 0, or 64–16,384 bytes; other values ignored -/
def CF_SNAP : Field := { addr := 0x08001004, width := 15, ty := .rw, chan := .captProfile }
/-- Table 12.4: R307 -/
def CF_ARM_WIN : Field := { addr := 0x08001008, ty := .rw, reset := 0xf4240, chan := .captProfile }
/-- Table 12.4: R319 -/
def CF_FC_BASE : Field := { addr := 0x0800100C, width := 20, ty := .rw, chan := .captProfile }
/-- Table 12.4: Channel; R317 -/
def CF_HIST_HG : Field := { addr := 0x08001010, width := 6, ty := .rw, chan := .captProfile }
/-- Table 12.4: — -/
def CF_HIST_HG_EN : Field := { addr := 0x08001010, lo := 6, width := 1, ty := .rw, chan := .captProfile }
/-- Table 12.4: R313 -/
def CS_CTRL_EN : Field := { addr := 0x08001000, width := 1, ty := .rw, chan := .captStream }
/-- Table 12.4: R309 -/
def CS_CTRL_COMPRESS : Field := { addr := 0x08001000, lo := 1, width := 1, ty := .rw, reset := 1, chan := .captStream }
/-- Table 12.4: R310 -/
def CS_CTRL_DEST : Field := { addr := 0x08001000, lo := 2, width := 2, ty := .rw, chan := .captStream }
/-- Table 12.4: Ring number or namespace -/
def CS_TARGET : Field := { addr := 0x08001004, ty := .rw, chan := .captStream }
/-- Table 12.4: R308 -/
def CS_STAGE : Field := { addr := 0x08001008, width := 13, ty := .rw, reset := 252, chan := .captStream }
/-- Table 12.4: 10–1,000,000; writes outside ignored -/
def CS_FLUSH : Field := { addr := 0x0800100C, width := 20, ty := .rw, reset := 1000, chan := .captStream }
/-- Table 12.4: R313 -/
def CS_STATUS_IDLE : Field := { addr := 0x08001010, width := 1, reset := 1, chan := .captStream }
/-- Table 12.4: R311 -/
def CS_STATUS_LOSS_PENDING : Field := { addr := 0x08001010, lo := 1, width := 1, chan := .captStream }
/-- Table 12.4: R313 -/
def CS_STATUS_WR_REFUSED : Field := { addr := 0x08001010, lo := 2, width := 1, ty := .w1c, chan := .captStream }
/-- Table 12.4: R313 -/
def CS_STATUS_CAUSE : Field := { addr := 0x08001010, lo := 3, width := 2, chan := .captStream }
/-- Table 12.4: — -/
def CS_STAGE_USED : Field := { addr := 0x08001014, width := 23, chan := .captStream }
/-- Table 12.4: counter, R64 -/
def CS_RECORDS : Field := { addr := 0x08001100, width := 64, chan := .captStream }
/-- Table 12.4: counter, R64 -/
def CS_REC_OCTETS : Field := { addr := 0x08001108, width := 64, chan := .captStream }
/-- Table 12.4: counter, R64 -/
def CS_OUT_OCTETS : Field := { addr := 0x08001110, width := 64, chan := .captStream }
/-- Table 12.4: counter, R64 -/
def CS_SEGMENTS : Field := { addr := 0x08001118, width := 64, chan := .captStream }
/-- Table 12.4: counter, R64 -/
def CS_DROP_REC : Field := { addr := 0x08001120, width := 64, chan := .captStream }
/-- Table 12.4: counter, R64 -/
def CS_DROP_OCT : Field := { addr := 0x08001128, width := 64, chan := .captStream }
/-- Table 12.4: counter, R64 -/
def CS_LOSS_RECS : Field := { addr := 0x08001130, width := 64, chan := .captStream }
/-- Table 12.4: R317; 3 ignored -/
def HG_CTRL : Field := { addr := 0x08001000, width := 2, ty := .rw, chan := .captHist }
/-- Table 12.4: Per requester; above 1,984 reads zero -/
def HG_IDX : Field := { addr := 0x08001004, width := 11, ty := .rw, perReq := true, chan := .captHist }
/-- Table 12.4: Frozen bank, bucket HG_IDX -/
def HG_COUNT : Field := { addr := 0x08001008, width := 64, chan := .captHist }
/-- Table 12.4: Frozen bank -/
def HG_TOTAL : Field := { addr := 0x08001010, width := 64, chan := .captHist }
/-- Table 12.4: Frozen bank, 2⁻⁴ ns -/
def HG_SUM : Field := { addr := 0x08001018, width := 64, chan := .captHist }

/-- The fields of Table 12.4. -/
def table12_4 : List Field :=
  [CF_CTRL_REC_EN, CF_CTRL_TS_1NS, CF_CTRL_ARM_MODE, CF_CTRL_STREAM, CF_CTRL_SK_EN, CF_CTRL_FC_MODE, CF_CTRL_ARM_TRIG, CF_SNAP, CF_ARM_WIN, CF_FC_BASE, CF_HIST_HG, CF_HIST_HG_EN, CS_CTRL_EN, CS_CTRL_COMPRESS, CS_CTRL_DEST, CS_TARGET, CS_STAGE, CS_FLUSH, CS_STATUS_IDLE, CS_STATUS_LOSS_PENDING, CS_STATUS_WR_REFUSED, CS_STATUS_CAUSE, CS_STAGE_USED, CS_RECORDS, CS_REC_OCTETS, CS_OUT_OCTETS, CS_SEGMENTS, CS_DROP_REC, CS_DROP_OCT, CS_LOSS_RECS, HG_CTRL, HG_IDX, HG_COUNT, HG_TOTAL, HG_SUM]

/-- Table 12.5: R315 -/
def SK_SEED : Field := { addr := 0x08100010, ty := .rw, count := 4, stride := 4 }
/-- Table 12.5: 0 frames, 1 64-byte units -/
def SK_UNIT : Field := { addr := 0x08100020, width := 1, ty := .rw }
/-- Table 12.5: Key, byte j as MASK of Table 5.5; per requester -/
def SK_QKEY : Field := { addr := 0x08100030, ty := .rw, perReq := true, count := 16, stride := 4 }
/-- Table 12.5: Per requester -/
def SK_QARG_PROFILE : Field := { addr := 0x08100070, width := 6, ty := .rw, perReq := true }
/-- Table 12.5: 1–64 -/
def SK_QARG_KL : Field := { addr := 0x08100070, lo := 6, width := 7, ty := .rw, perReq := true }
/-- Table 12.5: Queries the frozen bank -/
def SK_QUERY : Field := { addr := 0x08100074, width := 1, ty := .wo }
/-- Table 12.5: Per requester -/
def SK_QRESULT : Field := { addr := 0x08100078, perReq := true }
/-- Table 12.5: Per requester; a query completes within 100 ns -/
def SK_QSTATUS_BUSY : Field := { addr := 0x0810007C, width := 1, perReq := true }
/-- Table 12.5: R315 -/
def SK_QSTATUS_SAT : Field := { addr := 0x0810007C, lo := 1, width := 1, perReq := true }
/-- Table 12.5: counter, R64 -/
def SK_IN_OCTETS : Field := { addr := 0x08100100, width := 64 }
/-- Table 12.5: counter, R64 -/
def SK_OUT_OCTETS : Field := { addr := 0x08100108, width := 64 }
/-- Table 12.5: counter, R64 -/
def SK_FRAMES : Field := { addr := 0x08100110, width := 64 }
/-- Table 12.5: counter, R64 -/
def SK_RAW_BLOCKS : Field := { addr := 0x08100118, width := 64 }

/-- The fields of Table 12.5. -/
def table12_5 : List Field :=
  [SK_SEED, SK_UNIT, SK_QKEY, SK_QARG_PROFILE, SK_QARG_KL, SK_QUERY, SK_QRESULT, SK_QSTATUS_BUSY, SK_QSTATUS_SAT, SK_IN_OCTETS, SK_OUT_OCTETS, SK_FRAMES, SK_RAW_BLOCKS]

/-- Table 13.7: Fabric enabled -/
def FB_CTRL_EN : Field := { addr := 0x09000010, width := 1, ty := .rw }
/-- Table 13.7: R332 -/
def FB_CTRL_ROOT_ELIG : Field := { addr := 0x09000010, lo := 1, width := 1, ty := .rw, reset := 1 }
/-- Table 13.7: R338 -/
def FB_CTRL_TIME_ELIG : Field := { addr := 0x09000010, lo := 2, width := 1, ty := .rw }
/-- Table 13.7: 0 dynamic, 1 static; R333 -/
def FB_CTRL_ADDR_MODE : Field := { addr := 0x09000010, lo := 3, width := 1, ty := .rw }
/-- Table 13.7: R335 -/
def FB_CTRL_ROUTE_SW : Field := { addr := 0x09000010, lo := 4, width := 1, ty := .rw }
/-- Table 13.7: R322 -/
def FB_ID : Field := { addr := 0x09000014, width := 16, ty := .rw }
/-- Table 13.7: Own address -/
def FB_ADDR_ADDR : Field := { addr := 0x09000018, width := 12 }
/-- Table 13.7: R333 -/
def FB_ADDR_STATIC : Field := { addr := 0x09000018, lo := 16, width := 12, ty := .rw }
/-- Table 13.7: R332 -/
def FB_STATUS_IS_ROOT : Field := { addr := 0x0900001C, width := 1 }
/-- Table 13.7: R338 -/
def FB_STATUS_IS_TIME_ROOT : Field := { addr := 0x0900001C, lo := 1, width := 1 }
/-- Table 13.7: R334 -/
def FB_STATUS_ADDR_CONFLICT : Field := { addr := 0x0900001C, lo := 2, width := 1, ty := .w1c }
/-- Table 13.7: R335 -/
def FB_STATUS_WR_REFUSED : Field := { addr := 0x0900001C, lo := 3, width := 1, ty := .w1c }
/-- Table 13.7: R338 -/
def FB_STATUS_TIME_PATH : Field := { addr := 0x0900001C, lo := 4, width := 1 }
/-- Table 13.7: R336 -/
def FB_STATUS_PORTS_UP : Field := { addr := 0x0900001C, lo := 8, width := 8 }
/-- Table 13.7: Fabric root -/
def FB_ROOT_ROOT_ADDR : Field := { addr := 0x09000020, width := 12 }
/-- Table 13.7: Time root -/
def FB_ROOT_TIME_ROOT_ADDR : Field := { addr := 0x09000020, lo := 16, width := 12 }
/-- Table 13.7: R338 -/
def FB_TIME_TPRIO : Field := { addr := 0x09000024, width := 16, ty := .rw, reset := 0x8000 }
/-- Table 13.7: Parent port -/
def FB_TIME_PARENT : Field := { addr := 0x09000024, lo := 16, width := 3 }
/-- Table 13.7: Parent valid -/
def FB_TIME_PARENT_V : Field := { addr := 0x09000024, lo := 19, width := 1 }
/-- Table 13.7: Hops to the time root -/
def FB_TIME_HOPS : Field := { addr := 0x09000024, lo := 20, width := 5 }
/-- Table 13.7: 100–1,000,000 µs; writes outside ignored -/
def FB_SYNC_PERIOD : Field := { addr := 0x09000028, width := 20, ty := .rw, reset := 1000 }
/-- Table 13.7: R326 -/
def FB_ECMP_SEED : Field := { addr := 0x0900002C, ty := .rw }
/-- Table 13.7: R330; written by firmware -/
def FB_BCAST_PORTS : Field := { addr := 0x09000030, width := 8, ty := .rw }
/-- Table 13.7: Devices in the database -/
def FB_DEVICES : Field := { addr := 0x09000034, width := 12 }
/-- Table 13.7: Fabric root UID, as ID_UID0–3 -/
def FB_ROOT_UID : Field := { addr := 0x09000040, count := 4, stride := 4 }
/-- Table 13.7: counter, R64 -/
def FB_NO_ROUTE : Field := { addr := 0x09000100, width := 64 }
/-- Table 13.7: counter, R64 -/
def FB_HOP_EXCEED : Field := { addr := 0x09000108, width := 64 }
/-- Table 13.7: counter, R64 -/
def FB_HDR_ERR : Field := { addr := 0x09000110, width := 64 }
/-- Table 13.7: counter, R64 -/
def FB_BAD_TYPE : Field := { addr := 0x09000118, width := 64 }
/-- Table 13.7: counter, R64 -/
def FB_BCAST_DROP : Field := { addr := 0x09000120, width := 64 }
/-- Table 13.7: counter, R64 -/
def FB_LOCAL_RX : Field := { addr := 0x09000128, width := 64 }
/-- Table 13.7: counter, R64 -/
def FB_LOCAL_TX : Field := { addr := 0x09000130, width := 64 }

/-- The fields of Table 13.7. -/
def table13_7 : List Field :=
  [FB_CTRL_EN, FB_CTRL_ROOT_ELIG, FB_CTRL_TIME_ELIG, FB_CTRL_ADDR_MODE, FB_CTRL_ROUTE_SW, FB_ID, FB_ADDR_ADDR, FB_ADDR_STATIC, FB_STATUS_IS_ROOT, FB_STATUS_IS_TIME_ROOT, FB_STATUS_ADDR_CONFLICT, FB_STATUS_WR_REFUSED, FB_STATUS_TIME_PATH, FB_STATUS_PORTS_UP, FB_ROOT_ROOT_ADDR, FB_ROOT_TIME_ROOT_ADDR, FB_TIME_TPRIO, FB_TIME_PARENT, FB_TIME_PARENT_V, FB_TIME_HOPS, FB_SYNC_PERIOD, FB_ECMP_SEED, FB_BCAST_PORTS, FB_DEVICES, FB_ROOT_UID, FB_NO_ROUTE, FB_HOP_EXCEED, FB_HDR_ERR, FB_BAD_TYPE, FB_BCAST_DROP, FB_LOCAL_RX, FB_LOCAL_TX]

/-- Table 13.8: R322 -/
def FP_CTRL : Field := { addr := 0x09001000, width := 1, ty := .rw, chan := .fabPort }
/-- Table 13.8: Table 13.1 -/
def FP_STATUS_LSTATE : Field := { addr := 0x09001004, width := 3, chan := .fabPort }
/-- Table 13.8: LSTATE changed -/
def FP_STATUS_LINK_CHG : Field := { addr := 0x09001004, lo := 3, width := 1, ty := .w1c, chan := .fabPort }
/-- Table 13.8: From HELLO -/
def FP_STATUS_PEER_ADDR : Field := { addr := 0x09001004, lo := 16, width := 12, chan := .fabPort }
/-- Table 13.8: From HELLO -/
def FP_STATUS_PEER_PORT : Field := { addr := 0x09001004, lo := 28, width := 3, chan := .fabPort }
/-- Table 13.8: Peer UID -/
def FP_PEER_UID : Field := { addr := 0x09001008, count := 4, stride := 4, chan := .fabPort }
/-- Table 13.8: Signed 64-bit, 2⁻¹⁶ ns; R340 -/
def FP_DELAY : Field := { addr := 0x09001018, width := 64, chan := .fabPort }
/-- Table 13.8: Signed 64-bit, 2⁻¹⁶ ns; R340 -/
def FP_THETA : Field := { addr := 0x09001020, width := 64, chan := .fabPort }
/-- Table 13.8: R321 -/
def FP_F_RX : Field := { addr := 0x09001028, chan := .fabPort }
/-- Table 13.8: R321 -/
def FP_F_TX : Field := { addr := 0x0900102C, chan := .fabPort }
/-- Table 13.8: Signed, 2⁻¹⁶ ns; R340 -/
def FP_ASYM : Field := { addr := 0x09001030, ty := .rw, chan := .fabPort }
/-- Table 13.8: counter, R64 -/
def FP_TX_FRAMES : Field := { addr := 0x09001100, width := 64, chan := .fabPort }
/-- Table 13.8: counter, R64 -/
def FP_RX_FRAMES : Field := { addr := 0x09001108, width := 64, chan := .fabPort }
/-- Table 13.8: counter, R64 -/
def FP_TX_OCTETS : Field := { addr := 0x09001110, width := 64, chan := .fabPort }
/-- Table 13.8: counter, R64 -/
def FP_RX_OCTETS : Field := { addr := 0x09001118, width := 64, chan := .fabPort }
/-- Table 13.8: counter, R64 -/
def FP_FCS_ERR : Field := { addr := 0x09001120, width := 64, chan := .fabPort }
/-- Table 13.8: counter, R64 -/
def FP_TC_DROP : Field := { addr := 0x09001128, width := 64, chan := .fabPort }
/-- Table 13.8: counter, R64 -/
def FP_TC7_RESEND : Field := { addr := 0x09001130, width := 64, chan := .fabPort }
/-- Table 13.8: counter, R64 -/
def FP_LINK_DOWN : Field := { addr := 0x09001138, width := 64, chan := .fabPort }
/-- Table 13.8: R335 -/
def RT_ENTRY_MASK : Field := { addr := 0x09001000, width := 8, ty := .rw, chan := .fabRoute }
/-- Table 13.8: MASK AND PORTS_UP -/
def RT_ENTRY_LIVE : Field := { addr := 0x09001000, lo := 8, width := 8, chan := .fabRoute }

/-- The fields of Table 13.8. -/
def table13_8 : List Field :=
  [FP_CTRL, FP_STATUS_LSTATE, FP_STATUS_LINK_CHG, FP_STATUS_PEER_ADDR, FP_STATUS_PEER_PORT, FP_PEER_UID, FP_DELAY, FP_THETA, FP_F_RX, FP_F_TX, FP_ASYM, FP_TX_FRAMES, FP_RX_FRAMES, FP_TX_OCTETS, FP_RX_OCTETS, FP_FCS_ERR, FP_TC_DROP, FP_TC7_RESEND, FP_LINK_DOWN, RT_ENTRY_MASK, RT_ENTRY_LIVE]

/-- Table 14.6: R365 -/
def MB_CTRL_GO : Field := { addr := 0x0E001000, width := 1, ty := .wo, chan := .window }
/-- Table 14.6: R366; mailboxes 1–4 -/
def MB_CTRL_CLAIM : Field := { addr := 0x0E001000, lo := 1, width := 1, ty := .wo, chan := .window }
/-- Table 14.6: R366 -/
def MB_CTRL_RELEASE : Field := { addr := 0x0E001000, lo := 2, width := 1, ty := .wo, chan := .window }
/-- Table 14.6: R365; mailbox 0 -/
def MB_CTRL_INT_EN : Field := { addr := 0x0E001000, lo := 3, width := 1, ty := .rw, chan := .window }
/-- Table 14.6: R365 -/
def MB_STATUS_BUSY : Field := { addr := 0x0E001004, width := 1, chan := .window }
/-- Table 14.6: R365 -/
def MB_STATUS_DONE : Field := { addr := 0x0E001004, lo := 1, width := 1, ty := .w1c, chan := .window }
/-- Table 14.6: R366 -/
def MB_STATUS_CLAIMED : Field := { addr := 0x0E001004, lo := 2, width := 1, chan := .window }
/-- Table 14.6: Claimed by this requester -/
def MB_STATUS_OWN : Field := { addr := 0x0E001004, lo := 3, width := 1, chan := .window }
/-- Table 14.6: Owning hart -/
def MB_STATUS_OWNER : Field := { addr := 0x0E001004, lo := 8, width := 5, chan := .window }
/-- Table 14.6: R367 -/
def MB_TARGET : Field := { addr := 0x0E001008, width := 12, ty := .rw, chan := .window }
/-- Table 14.6: R365; mailbox 0 -/
def MB_VECTOR : Field := { addr := 0x0E00100C, width := 11, ty := .rw, chan := .window }
/-- Table 14.6: R351 -/
def MB_LEVEL : Field := { addr := 0x0E001010, width := 2, reset := 2, chan := .window }
/-- Table 14.6: Message, 1,280 bytes -/
def MB_BUF : Field := { addr := 0x0E001100, ty := .rw, count := 320, stride := 4, chan := .window }

/-- The fields of Table 14.6. -/
def table14_6 : List Field :=
  [MB_CTRL_GO, MB_CTRL_CLAIM, MB_CTRL_RELEASE, MB_CTRL_INT_EN, MB_STATUS_BUSY, MB_STATUS_DONE, MB_STATUS_CLAIMED, MB_STATUS_OWN, MB_STATUS_OWNER, MB_TARGET, MB_VECTOR, MB_LEVEL, MB_BUF]

/-- Table 14.10: R373, R376 -/
def MG_CTRL_EN : Field := { addr := 0x0E100010, width := 1, ty := .rw }
/-- Table 14.10: R373 -/
def MG_CTRL_PROMISC : Field := { addr := 0x0E100010, lo := 1, width := 1, ty := .rw }
/-- Table 14.10: Transmit ring idle -/
def MG_STATUS_TX_IDLE : Field := { addr := 0x0E100014, width := 1, reset := 1 }
/-- Table 14.10: Receive ring idle -/
def MG_STATUS_RX_IDLE : Field := { addr := 0x0E100014, lo := 1, width := 1, reset := 1 }
/-- Table 14.10: A ring is in error; R374 -/
def MG_STATUS_ERR : Field := { addr := 0x0E100014, lo := 2, width := 1 }
/-- Table 14.10: 0 transmit, 1 receive -/
def MG_STATUS_ERR_RING : Field := { addr := 0x0E100014, lo := 3, width := 1 }
/-- Table 14.10: 1 invalid doorbell, 2 descriptor error -/
def MG_STATUS_ERR_CAUSE : Field := { addr := 0x0E100014, lo := 4, width := 2 }
/-- Table 14.10: R376 -/
def MG_STATUS_WR_REFUSED : Field := { addr := 0x0E100014, lo := 6, width := 1, ty := .w1c }
/-- Table 14.10: HBM address in area 7; LO [11:0] reserved -/
def MG_TX_BASE : Field := { addr := 0x0E100018, width := 64, ty := .rw }
/-- Table 14.10: 6–12 -/
def MG_TX_CFG : Field := { addr := 0x0E100020, width := 5, ty := .rw, reset := 6 }
/-- Table 14.10: R374 -/
def MG_TX_DB : Field := { addr := 0x0E100024, width := 13, ty := .wo }
/-- Table 14.10: R220 -/
def MG_TX_IDX_PI : Field := { addr := 0x0E100028, width := 13 }
/-- Table 14.10: R220 -/
def MG_TX_IDX_CI : Field := { addr := 0x0E100028, lo := 16, width := 13 }
/-- Table 14.10 -/
def MG_RX_BASE : Field := { addr := 0x0E100030, width := 64, ty := .rw }
/-- Table 14.10 -/
def MG_RX_CFG : Field := { addr := 0x0E100038, width := 5, ty := .rw, reset := 6 }
/-- Table 14.10 -/
def MG_RX_DB : Field := { addr := 0x0E10003C, width := 13, ty := .wo }
/-- Table 14.10 -/
def MG_RX_IDX_PI : Field := { addr := 0x0E100040, width := 13 }
/-- Table 14.10 -/
def MG_RX_IDX_CI : Field := { addr := 0x0E100040, lo := 16, width := 13 }
/-- Table 14.10: R376 -/
def MG_IRQ_RX_EN : Field := { addr := 0x0E100050, width := 1, ty := .rw }
/-- Table 14.10: R376 -/
def MG_IRQ_TX_EN : Field := { addr := 0x0E100050, lo := 1, width := 1, ty := .rw }
/-- Table 14.10: counter, R64 -/
def MG_RX_FRAMES : Field := { addr := 0x0E100100, width := 64 }
/-- Table 14.10: counter, R64 -/
def MG_RX_NOBUF : Field := { addr := 0x0E100108, width := 64 }
/-- Table 14.10: counter, R64 -/
def MG_RX_FILTERED : Field := { addr := 0x0E100110, width := 64 }
/-- Table 14.10: counter, R64 -/
def MG_TX_FRAMES : Field := { addr := 0x0E100118, width := 64 }

/-- The fields of Table 14.10. -/
def table14_10 : List Field :=
  [MG_CTRL_EN, MG_CTRL_PROMISC, MG_STATUS_TX_IDLE, MG_STATUS_RX_IDLE, MG_STATUS_ERR, MG_STATUS_ERR_RING, MG_STATUS_ERR_CAUSE, MG_STATUS_WR_REFUSED, MG_TX_BASE, MG_TX_CFG, MG_TX_DB, MG_TX_IDX_PI, MG_TX_IDX_CI, MG_RX_BASE, MG_RX_CFG, MG_RX_DB, MG_RX_IDX_PI, MG_RX_IDX_CI, MG_IRQ_RX_EN, MG_IRQ_TX_EN, MG_RX_FRAMES, MG_RX_NOBUF, MG_RX_FILTERED, MG_TX_FRAMES]

/-- Table 15.6: Recovery window, version 1 -/
def RC_ID : Field := { addr := 0x10000000, reset := 0x52430001 }
/-- Table 15.6: BOOT_ERR -/
def RC_STATUS_CODE : Field := { addr := 0x10000004, width := 4, reset := 12 }
/-- Table 15.6: Bundle being read or checked -/
def RC_STATUS_BUSY : Field := { addr := 0x10000004, lo := 4, width := 1 }
/-- Table 15.6: GO refused -/
def RC_STATUS_REFUSED : Field := { addr := 0x10000004, lo := 5, width := 1, ty := .w1c }
/-- Table 15.6: Slot B write or read-back failed -/
def RC_STATUS_PROG_FAIL : Field := { addr := 0x10000004, lo := 6, width := 1 }
/-- Table 15.6: Result of the last refused bundle, 0x4–0x7 -/
def RC_STATUS_LAST_FAIL : Field := { addr := 0x10000004, lo := 8, width := 4 }
/-- Table 15.6: Host address of the bundle -/
def RC_ADDR : Field := { addr := 0x10000008, width := 64, ty := .rw }
/-- Table 15.6: Bytes -/
def RC_LEN : Field := { addr := 0x10000010, ty := .rw }
/-- Table 15.6: Starts a recovery boot -/
def RC_CTRL_GO : Field := { addr := 0x10000014, width := 1, ty := .wo }
/-- Table 15.6: Write slot B after acceptance -/
def RC_CTRL_PROGRAM : Field := { addr := 0x10000014, lo := 1, width := 1, ty := .rw, reset := 1 }

/-- The fields of Table 15.6. -/
def table15_6 : List Field :=
  [RC_ID, RC_STATUS_CODE, RC_STATUS_BUSY, RC_STATUS_REFUSED, RC_STATUS_PROG_FAIL, RC_STATUS_LAST_FAIL, RC_ADDR, RC_LEN, RC_CTRL_GO, RC_CTRL_PROGRAM]

/-- Table 15.8: As driven on BOOT_ERR[3:0] -/
def BT_STATUS_BOOT_ERR : Field := { addr := 0x0B000010, width := 4 }
/-- Table 15.8: R384 -/
def BT_STATUS_DONE : Field := { addr := 0x0B000010, lo := 4, width := 1 }
/-- Table 15.8: R385 -/
def BT_STATUS_RECOVERY_EN : Field := { addr := 0x0B000010, lo := 5, width := 1 }
/-- Table 15.8: 0 A, 1 B, 2 recovery -/
def BT_STATUS_SLOT : Field := { addr := 0x0B000010, lo := 6, width := 2 }
/-- Table 15.8: A slot was skipped under R384 -/
def BT_STATUS_SKIPPED : Field := { addr := 0x0B000010, lo := 8, width := 1 }
/-- Table 15.8: 0 booted or not tried; else Table 15.4 result or 0xF -/
def BT_SLOT_RESULT_A : Field := { addr := 0x0B000014, width := 4 }
/-- Table 15.8: As A -/
def BT_SLOT_RESULT_B : Field := { addr := 0x0B000014, lo := 4, width := 4 }
/-- Table 15.8: Writable by cluster 0 harts only; R384 -/
def BT_CTRL : Field := { addr := 0x0B000018, width := 1, ty := .w1s }
/-- Table 15.8: R377; unprogrammed slots read 1 -/
def FUSE_KEYS_REVOKED : Field := { addr := 0x0B00001C, width := 4 }
/-- Table 15.8: Digest non-zero -/
def FUSE_KEYS_PROGRAMMED : Field := { addr := 0x0B00001C, lo := 4, width := 4 }
/-- Table 15.8: 0–64 -/
def FUSE_SVN : Field := { addr := 0x0B000020, width := 7 }
/-- Table 15.8: Slot k, word w 0–7, byte 0 in [7:0] of word 0 -/
def KEY_DIGEST : Field := { addr := 0x0B000040, count := 32, stride := 4 }

/-- The fields of Table 15.8. -/
def table15_8 : List Field :=
  [BT_STATUS_BOOT_ERR, BT_STATUS_DONE, BT_STATUS_RECOVERY_EN, BT_STATUS_SLOT, BT_STATUS_SKIPPED, BT_SLOT_RESULT_A, BT_SLOT_RESULT_B, BT_CTRL, FUSE_KEYS_REVOKED, FUSE_KEYS_PROGRAMMED, FUSE_SVN, KEY_DIGEST]

/-- Table 15.9: R388, R389 -/
def CL_VECTOR_LO : Field := { addr := 0x0B001000, lo := 2, width := 30, ty := .rw, chan := .window }
/-- Table 15.9: — -/
def CL_VECTOR_HI : Field := { addr := 0x0B001004, ty := .rw, chan := .window }
/-- Table 15.9: R389 -/
def CLU_CTRL : Field := { addr := 0x0B001008, width := 1, ty := .w1s, chan := .window }
/-- Table 15.9: — -/
def CLU_STATUS_PRESENT : Field := { addr := 0x0B00100C, width := 1, chan := .window }
/-- Table 15.9: Cluster clock locked at its operating point -/
def CLU_STATUS_CLK_STABLE : Field := { addr := 0x0B00100C, lo := 1, width := 1, chan := .window }
/-- Table 15.9: R387 -/
def CLU_STATUS_VERIFIED : Field := { addr := 0x0B00100C, lo := 2, width := 1, chan := .window }
/-- Table 15.9: — -/
def CLU_STATUS_RELEASED : Field := { addr := 0x0B00100C, lo := 3, width := 1, chan := .window }
/-- Table 15.9: R389 -/
def CLU_STATUS_REL_REFUSED : Field := { addr := 0x0B00100C, lo := 4, width := 1, ty := .w1c, chan := .window }
/-- Table 15.9: R389 -/
def CLU_STATUS_CAUSE : Field := { addr := 0x0B00100C, lo := 5, width := 3, chan := .window }
/-- Table 15.9: Entry index of the verified region -/
def CLU_STATUS_COMPONENT : Field := { addr := 0x0B00100C, lo := 8, width := 5, chan := .window }
/-- Table 15.9: Verified region -/
def CL_REGION_BASE : Field := { addr := 0x0B001010, width := 64, chan := .window }
/-- Table 15.9: Bytes -/
def CL_REGION_LEN : Field := { addr := 0x0B001018, chan := .window }

/-- The fields of Table 15.9. -/
def table15_9 : List Field :=
  [CL_VECTOR_LO, CL_VECTOR_HI, CLU_CTRL, CLU_STATUS_PRESENT, CLU_STATUS_CLK_STABLE, CLU_STATUS_VERIFIED, CLU_STATUS_RELEASED, CLU_STATUS_REL_REFUSED, CLU_STATUS_CAUSE, CLU_STATUS_COMPONENT, CL_REGION_BASE, CL_REGION_LEN]

/-- Table 15.10: Offset in the controller's SRAM -/
def SV_VECTOR : Field := { addr := 0x0B101000, lo := 2, width := 16, ty := .rw, chan := .window }
/-- Table 15.10: R389 -/
def SV_CTRL : Field := { addr := 0x0B101004, width := 1, ty := .w1s, chan := .window }
/-- Table 15.10 -/
def SV_STATUS_PRESENT : Field := { addr := 0x0B101008, width := 1, chan := .window }
/-- Table 15.10 -/
def SV_STATUS_CLK_STABLE : Field := { addr := 0x0B101008, lo := 1, width := 1, chan := .window }
/-- Table 15.10 -/
def SV_STATUS_VERIFIED : Field := { addr := 0x0B101008, lo := 2, width := 1, chan := .window }
/-- Table 15.10 -/
def SV_STATUS_RELEASED : Field := { addr := 0x0B101008, lo := 3, width := 1, chan := .window }
/-- Table 15.10 -/
def SV_STATUS_REL_REFUSED : Field := { addr := 0x0B101008, lo := 4, width := 1, ty := .w1c, chan := .window }
/-- Table 15.10 -/
def SV_STATUS_CAUSE : Field := { addr := 0x0B101008, lo := 5, width := 3, chan := .window }
/-- Table 15.10 -/
def SV_STATUS_COMPONENT : Field := { addr := 0x0B101008, lo := 8, width := 5, chan := .window }
/-- Table 15.10: 0 storage, 1 fabric, 2 capture, 3 IRA -/
def SV_ROLE : Field := { addr := 0x0B10100C, width := 2, chan := .window }

/-- The fields of Table 15.10. -/
def table15_10 : List Field :=
  [SV_VECTOR, SV_CTRL, SV_STATUS_PRESENT, SV_STATUS_CLK_STABLE, SV_STATUS_VERIFIED, SV_STATUS_RELEASED, SV_STATUS_REL_REFUSED, SV_STATUS_CAUSE, SV_STATUS_COMPONENT, SV_ROLE]

/-- Table 16.9: Table 16.2 -/
def EN_STATUS_STATE : Field := { addr := 0x0D000010, width := 2 }
/-- Table 16.9: R396 -/
def EN_STATUS_APPROVED : Field := { addr := 0x0D000010, lo := 2, width := 1 }
/-- Table 16.9: R415 -/
def EN_STATUS_JTAG_OPEN : Field := { addr := 0x0D000010, lo := 3, width := 1 }
/-- Table 16.9: R414 -/
def EN_STATUS_TAMPER_PERM : Field := { addr := 0x0D000010, lo := 4, width := 1 }
/-- Table 16.9: R412 -/
def EN_STATUS_SEAL_FAULT : Field := { addr := 0x0D000010, lo := 5, width := 1 }
/-- Table 16.9: R398 -/
def EN_STATUS_ERR_CODE : Field := { addr := 0x0D000010, lo := 8, width := 8 }
/-- Table 16.9: R400 -/
def EN_ERR_ENTRIES : Field := { addr := 0x0D000014, width := 2 }
/-- Table 16.9: Last tamper: [0] TAMPER_N, [1] voltage, [2] clock, [3] temperature, [4] shield; from MRAM -/
def EN_TAMPER_CAUSE : Field := { addr := 0x0D000018, width := 5 }
/-- Table 16.9: Tampers recorded; saturates -/
def EN_TAMPER_COUNT : Field := { addr := 0x0D000018, lo := 16, width := 16 }
/-- Table 16.9: R403 -/
def ES_CTRL_CLAIM : Field := { addr := 0x0D001000, width := 1, ty := .wo, chan := .window }
/-- Table 16.9: R403 -/
def ES_CTRL_RELEASE : Field := { addr := 0x0D001000, lo := 1, width := 1, ty := .wo, chan := .window }
/-- Table 16.9: R403 -/
def ES_CTRL_GO : Field := { addr := 0x0D001000, lo := 2, width := 1, ty := .wo, chan := .window }
/-- Table 16.9: — -/
def ES_STATUS_CLAIMED : Field := { addr := 0x0D001004, width := 1, chan := .window }
/-- Table 16.9: Claimed by this requester -/
def ES_STATUS_OWN : Field := { addr := 0x0D001004, lo := 1, width := 1, chan := .window }
/-- Table 16.9: — -/
def ES_STATUS_BUSY : Field := { addr := 0x0D001004, lo := 2, width := 1, chan := .window }
/-- Table 16.9: — -/
def ES_STATUS_DONE : Field := { addr := 0x0D001004, lo := 3, width := 1, ty := .w1c, chan := .window }
/-- Table 16.9: Owner's requester number (Table 8.7) -/
def ES_STATUS_OWNER : Field := { addr := 0x0D001004, lo := 16, width := 13, chan := .window }
/-- Table 16.9: 4,080 bytes; R403 -/
def ES_BUF : Field := { addr := 0x0D001010, ty := .rw, count := 1020, stride := 4, chan := .window }

/-- The fields of Table 16.9. -/
def table16_9 : List Field :=
  [EN_STATUS_STATE, EN_STATUS_APPROVED, EN_STATUS_JTAG_OPEN, EN_STATUS_TAMPER_PERM, EN_STATUS_SEAL_FAULT, EN_STATUS_ERR_CODE, EN_ERR_ENTRIES, EN_TAMPER_CAUSE, EN_TAMPER_COUNT, ES_CTRL_CLAIM, ES_CTRL_RELEASE, ES_CTRL_GO, ES_STATUS_CLAIMED, ES_STATUS_OWN, ES_STATUS_BUSY, ES_STATUS_DONE, ES_STATUS_OWNER, ES_BUF]

/-- Table 16.10: R399 -/
def CR_STATUS : Field := { addr := 0x0C000010, width := 1 }
/-- Table 16.10: SAs with a key, 0–8,192 -/
def CR_SAK_USED : Field := { addr := 0x0C000014, width := 14 }
/-- Table 16.10: XTS slots loaded, 0–4,096 -/
def CR_XTS_USED : Field := { addr := 0x0C000018, width := 13 }
/-- Table 16.10: Bulk keys, 0–256 -/
def CR_BULK_USED : Field := { addr := 0x0C00001C, width := 9 }
/-- Table 16.10: counter, R64 -/
def CR_INHIBIT_DROP : Field := { addr := 0x0C000100, width := 64 }
/-- Table 16.10: counter, R64 -/
def CR_BULK_OPS : Field := { addr := 0x0C000108, width := 64 }
/-- Table 16.10: counter, R64 -/
def CR_BULK_OCTETS : Field := { addr := 0x0C000110, width := 64 }
/-- Table 16.10: counter, R64 -/
def CR_KEY_INSTALLS : Field := { addr := 0x0C000118, width := 64 }

/-- The fields of Table 16.10. -/
def table16_10 : List Field :=
  [CR_STATUS, CR_SAK_USED, CR_XTS_USED, CR_BULK_USED, CR_INHIBIT_DROP, CR_BULK_OPS, CR_BULK_OCTETS, CR_KEY_INSTALLS]

/-- Table 17.7: R421; 100–65,535 ns; writes outside ignored -/
def PW_GUARD : Field := { addr := 0x00100010, width := 16, ty := .rw, reset := 1000 }
/-- Table 17.7: R424 -/
def PW_STATUS_WR_REFUSED : Field := { addr := 0x00100014, width := 1, ty := .w1c }
/-- Table 17.7: R426, at or above 105 °C -/
def PW_STATUS_THROTTLE : Field := { addr := 0x00100014, lo := 1, width := 1 }
/-- Table 17.7: R426, at or above 110 °C -/
def PW_STATUS_HEAVY : Field := { addr := 0x00100014, lo := 2, width := 1 }
/-- Table 17.7: Hottest sensor, °C -/
def PW_STATUS_TEMP_MAX : Field := { addr := 0x00100014, lo := 8, width := 8 }
/-- Table 17.7: Its number -/
def PW_STATUS_SENSOR : Field := { addr := 0x00100014, lo := 16, width := 5 }
/-- Table 17.7: R434 -/
def PW_RELOAD : Field := { addr := 0x00100018, lo := 2, width := 6 }
/-- Table 17.7: R424 -/
def PW_QUIET_CTRL_ARM : Field := { addr := 0x00100020, width := 1, ty := .rw }
/-- Table 17.7: Deepest state, 1–3 -/
def PW_QUIET_CTRL_CAP : Field := { addr := 0x00100020, lo := 1, width := 3, ty := .rw, reset := 3 }
/-- Table 17.7: Lane groups -/
def PW_QUIET_CTRL_GROUPS : Field := { addr := 0x00100020, lo := 4, width := 4, ty := .rw }
/-- Table 17.7: Laid out as TB_NOW0–2 -/
def PW_QUIET_START : Field := { addr := 0x00100024, width := 96, ty := .rw }
/-- Table 17.7: As START -/
def PW_QUIET_END : Field := { addr := 0x00100030, width := 96, ty := .rw }
/-- Table 17.7: R424; saturates -/
def PW_QUIET_DROP : Field := { addr := 0x0010003C, ty := .rc }
/-- Table 17.7: 0 idle, 1 STAGED, 2 SWITCHED, 3 COMMITTED, 4 ROLLED_BACK -/
def HU_STATE : Field := { addr := 0x00100040, width := 3 }
/-- Table 17.7: R436 -/
def HU_CTRL_SWITCH : Field := { addr := 0x00100044, width := 1, ty := .wo }
/-- Table 17.7: R436 -/
def HU_CTRL_COMMIT : Field := { addr := 0x00100044, lo := 1, width := 1, ty := .wo }
/-- Table 17.7: R436 -/
def HU_CTRL_ROLLBACK : Field := { addr := 0x00100044, lo := 2, width := 1, ty := .wo }

/-- The fields of Table 17.7. -/
def table17_7 : List Field :=
  [PW_GUARD, PW_STATUS_WR_REFUSED, PW_STATUS_THROTTLE, PW_STATUS_HEAVY, PW_STATUS_TEMP_MAX, PW_STATUS_SENSOR, PW_RELOAD, PW_QUIET_CTRL_ARM, PW_QUIET_CTRL_CAP, PW_QUIET_CTRL_GROUPS, PW_QUIET_START, PW_QUIET_END, PW_QUIET_DROP, HU_STATE, HU_CTRL_SWITCH, HU_CTRL_COMMIT, HU_CTRL_ROLLBACK]

/-- Table 17.8: R418 -/
def PI_CAP : Field := { addr := 0x00101000, width := 3, ty := .rw, reset := 4, chan := .window }
/-- Table 17.8: Table 17.1 -/
def PI_STATUS_STATE : Field := { addr := 0x00101004, width := 3, chan := .window }
/-- Table 17.8: Present ceiling -/
def PI_STATUS_CEILING : Field := { addr := 0x00101004, lo := 3, width := 3, chan := .window }
/-- Table 17.8: Exit in progress -/
def PI_STATUS_WAKING : Field := { addr := 0x00101004, lo := 6, width := 1, chan := .window }
/-- Table 17.8: R422; all ones for none -/
def PI_NEXT : Field := { addr := 0x00101008, width := 64, chan := .window }
/-- Table 17.8: CPU islands only; R422 -/
def PI_NE_SW : Field := { addr := 0x00101010, width := 64, ty := .rw, reset := 0xffffffffffffffff, chan := .window }
/-- Table 17.8: CPU islands; R425 -/
def PI_OPP_OPP : Field := { addr := 0x00101018, width := 3, ty := .rw, reset := 7, chan := .window }
/-- Table 17.8: Effective point -/
def PI_OPP_CUR : Field := { addr := 0x00101018, lo := 4, width := 3, reset := 7, chan := .window }
/-- Table 17.8: Thermal limit below OPP -/
def PI_OPP_LIMITED : Field := { addr := 0x00101018, lo := 7, width := 1, chan := .window }
/-- Table 17.8: counter, R64 -/
def PI_RES_RUN : Field := { addr := 0x00101100, width := 64, chan := .window }
/-- Table 17.8: counter, R64 -/
def PI_RES_HOLD : Field := { addr := 0x00101108, width := 64, chan := .window }
/-- Table 17.8: counter, R64 -/
def PI_RES_DOZE : Field := { addr := 0x00101110, width := 64, chan := .window }
/-- Table 17.8: counter, R64 -/
def PI_RES_NAP : Field := { addr := 0x00101118, width := 64, chan := .window }
/-- Table 17.8: counter, R64 -/
def PI_RES_OFF : Field := { addr := 0x00101120, width := 64, chan := .window }
/-- Table 17.8: counter, R64 -/
def PI_WAKES : Field := { addr := 0x00101128, width := 64, chan := .window }
/-- Table 17.8: counter, R64 -/
def PI_LATE_WAKE : Field := { addr := 0x00101130, width := 64, chan := .window }

/-- The fields of Table 17.8. -/
def table17_8 : List Field :=
  [PI_CAP, PI_STATUS_STATE, PI_STATUS_CEILING, PI_STATUS_WAKING, PI_NEXT, PI_NE_SW, PI_OPP_OPP, PI_OPP_CUR, PI_OPP_LIMITED, PI_RES_RUN, PI_RES_HOLD, PI_RES_DOZE, PI_RES_NAP, PI_RES_OFF, PI_WAKES, PI_LATE_WAKE]

/-- Table 17.9: R432 -/
def FL_HEAD : Field := { addr := 0x0F000010, width := 12 }
/-- Table 17.9: R432 -/
def FL_SEQ_NEXT : Field := { addr := 0x0F000014 }
/-- Table 17.9: R431; saturates -/
def FL_DROPPED : Field := { addr := 0x0F000018 }
/-- Table 17.9: R433; bit g for group g -/
def FL_AUTO : Field := { addr := 0x0F00001C, lo := 2, width := 6, ty := .rw, reset := 62 }
/-- Table 17.9: Table 17.5, bytes 4w to 4w + 3 -/
def FL_REC : Field := { addr := 0x0F001000, count := 8, stride := 4, chan := .faultRecord }
/-- Table 17.9: R430; saturates -/
def FS_SUPPRESSED : Field := { addr := 0x0F001000, chan := .faultSource }
/-- Table 17.9: Slot occupied -/
def FS_PENDING_FIRST : Field := { addr := 0x0F001004, width := 1, chan := .faultSource }
/-- Table 17.9: Slot occupied -/
def FS_PENDING_LATEST : Field := { addr := 0x0F001004, lo := 1, width := 1, chan := .faultSource }

/-- The fields of Table 17.9. -/
def table17_9 : List Field :=
  [FL_HEAD, FL_SEQ_NEXT, FL_DROPPED, FL_AUTO, FL_REC, FS_SUPPRESSED, FS_PENDING_FIRST, FS_PENDING_LATEST]

/-- Table 17.10: Interface test passed at boot -/
def MM_STATUS_READY : Field := { addr := 0x0A100010, width := 1 }
/-- Table 17.10: Log window position, 0–127 (R432) -/
def MM_STATUS_WINDOW : Field := { addr := 0x0A100010, lo := 1, width := 7 }
/-- Table 17.10: counter, R64 -/
def MM_CORR : Field := { addr := 0x0A100100, width := 64 }
/-- Table 17.10: counter, R64 -/
def MM_UNCORR : Field := { addr := 0x0A100108, width := 64 }

/-- The fields of Table 17.10. -/
def table17_10 : List Field :=
  [MM_STATUS_READY, MM_STATUS_WINDOW, MM_CORR, MM_UNCORR]

end Sys2Proof.Machine.R
end

