-- ==== Sys2Proof/Machine/Regs.lean ====
section
/-!
DEFINITION. All register fields of the spec, table by table (RegsA and RegsB hold the definitions).
-/
namespace Sys2Proof.Machine.R

/-- Every register field of the device. -/
def all : List Field :=
  table1_3 ++
  table1_5 ++
  table1_13 ++
  table2_7 ++
  table2_8 ++
  table2_9 ++
  table2_10 ++
  table2_11 ++
  table3_3 ++
  table3_6 ++
  table3_10 ++
  table3_11 ++
  table3_12 ++
  table4_6 ++
  table4_7 ++
  table4_12 ++
  table5_2 ++
  table5_3 ++
  table5_5 ++
  table5_6 ++
  table5_7 ++
  table5_8 ++
  table6_11 ++
  table6_12 ++
  table6_13 ++
  table7_4 ++
  table7_5 ++
  table7_6 ++
  table7_7 ++
  table7_8 ++
  table8_8 ++
  table8_9 ++
  table8_12 ++
  table8_13 ++
  table9_11 ++
  table9_12 ++
  table10_11 ++
  table10_12 ++
  table11_9 ++
  table11_10 ++
  table12_3 ++
  table12_4 ++
  table12_5 ++
  table13_7 ++
  table13_8 ++
  table14_6 ++
  table14_10 ++
  table15_6 ++
  table15_8 ++
  table15_9 ++
  table15_10 ++
  table16_9 ++
  table16_10 ++
  table17_7 ++
  table17_8 ++
  table17_9 ++
  table17_10

end Sys2Proof.Machine.R
end

