-- ==== Sys2Proof/Machine/Operands.lean ====
section
/-!
DEFINITION. The operand forms of the block: bit fields of a word, little- and big-endian numbers in byte strings,
sparse maps, the register file's reads and writes, and the key of a register field.
-/
namespace Sys2Proof.Machine

/-! ## Bits and bytes -/

/-- Bits [hi:lo] of a number. -/
def bits (v hi lo : Nat) : Nat := (v >>> lo) % 2 ^ (hi + 1 - lo)

/-- Bit `i` of a number. -/
def bit (v i : Nat) : Bool := v.testBit i

/-- A number with bit `i` set to `b`. -/
def setBit (v i : Nat) (b : Bool) : Nat :=
  if b then (if v.testBit i then v else v + 2 ^ i) else (if v.testBit i then v - 2 ^ i else v)

/-- A Boolean as a bit. -/
def b2n (b : Bool) : Nat := if b then 1 else 0

/-- The signed reading of a `w`-bit two's complement number. -/
def signed (w v : Nat) : Int := if v < 2 ^ (w - 1) then (v : Int) else (v : Int) - (2 ^ w : Nat)

/-- The `w`-bit two's complement form of an integer. -/
def twos (w : Nat) (x : Int) : Nat := (x % ((2 ^ w : Nat) : Int)).toNat

/-- An integer held between two bounds. -/
def clampInt (lo hi x : Int) : Int := if x < lo then lo else if hi < x then hi else x

/-- The little-endian number of a byte string. -/
def leNat : Bytes → Nat
  | [] => 0
  | b :: bs => b.toNat + 256 * leNat bs

/-- The `n`-byte little-endian string of a number. -/
def leBytes : Nat → Nat → Bytes
  | 0, _ => []
  | n + 1, v => BitVec.ofNat 8 v :: leBytes n (v / 256)

/-- The big-endian number of a byte string. -/
def beNat (bs : Bytes) : Nat := leNat bs.reverse

/-- The `n`-byte big-endian string of a number. -/
def beBytes (n v : Nat) : Bytes := (leBytes n v).reverse

/-- `n` bytes of a string from an offset, zero past its end. -/
def slice (bs : Bytes) (off n : Nat) : Bytes :=
  let t := (bs.drop off).take n
  t ++ List.replicate (n - t.length) 0#8

/-- The byte at an offset as a number, zero past the end. -/
def byteAt (bs : Bytes) (off : Nat) : Nat := (bs.getD off 0#8).toNat

/-- Little-endian fields of a byte string. -/
def le16 (bs : Bytes) (off : Nat) : Nat := leNat (slice bs off 2)
def le32 (bs : Bytes) (off : Nat) : Nat := leNat (slice bs off 4)
def le64 (bs : Bytes) (off : Nat) : Nat := leNat (slice bs off 8)

/-- Big-endian fields of a byte string. -/
def be16 (bs : Bytes) (off : Nat) : Nat := beNat (slice bs off 2)
def be32 (bs : Bytes) (off : Nat) : Nat := beNat (slice bs off 4)
def be48 (bs : Bytes) (off : Nat) : Nat := beNat (slice bs off 6)

/-- The number of one bits among the lowest `n` of a number. -/
def popcount : Nat → Nat → Nat
  | 0, _ => 0
  | n + 1, v => v % 2 + popcount n (v / 2)

/-- The positions of the one bits below `n`, ascending. -/
def bitsSet (n v : Nat) : List Nat := (List.range n).filter (fun i => v.testBit i)

/-- Adding with saturation at `2^w - 1`. -/
def satAdd (w a b : Nat) : Nat := min (a + b) (2 ^ w - 1)

/-- Is a number a power of two. -/
def isPow2 (n : Nat) : Bool := (List.range 64).any (fun k => n == 2 ^ k)

/-! ## Sparse maps -/

/-- The value at a key. -/
def SMap.get? {α : Type} : SMap α → Nat → Option α
  | [], _ => none
  | (j, a) :: m, k => if j = k then some a else SMap.get? m k

/-- The value at a key, or a default. -/
def SMap.getD {α : Type} (m : SMap α) (k : Nat) (d : α) : α := (SMap.get? m k).getD d

/-- Put a value at a key, keeping the keys rising. -/
def SMap.put {α : Type} : SMap α → Nat → α → SMap α
  | [], k, a => [(k, a)]
  | (j, b) :: m, k, a => if k < j then (k, a) :: (j, b) :: m else if k = j then (k, a) :: m else (j, b) :: SMap.put m k a

/-- Remove a key. -/
def SMap.del {α : Type} (m : SMap α) (k : Nat) : SMap α := m.filter (fun e => e.1 != k)

/-- Is a key present. -/
def SMap.has {α : Type} (m : SMap α) (k : Nat) : Bool := (SMap.get? m k).isSome

/-- Change the value at a key from its present or default value. -/
def SMap.upd {α : Type} (m : SMap α) (k : Nat) (d : α) (f : α → α) : SMap α := SMap.put m k (f (SMap.getD m k d))

/-- The first key that is missing. -/
def SMap.fresh {α : Type} (m : SMap α) : Nat := m.foldl (fun n e => max n (e.1 + 1)) 0

/-! ## The register file -/

/-- The order of register keys: address, lowest bit, channel, requester, index space. -/
def Key.lt (a b : Key) : Bool :=
  if a.addr = b.addr then
    if a.lo = b.lo then
      if a.chan = b.chan then (if a.req = b.req then decide (a.space < b.space) else decide (a.req < b.req)) else decide (a.chan < b.chan)
    else decide (a.lo < b.lo)
  else decide (a.addr < b.addr)

/-- The key of element `i` of a field in channel `c` for requester `r`. -/
def Field.key (f : Field) (c i r : Nat) : Key :=
  ⟨f.addr + f.stride * i, f.lo, c, if f.perReq then r + 1 else 0, f.chan.space⟩

/-- The stored value at a key. -/
def RegFile.get? : RegFile → Key → Option Nat
  | [], _ => none
  | (j, a) :: m, k => if j = k then some a else RegFile.get? m k

/-- Remove a key. -/
def RegFile.erase : RegFile → Key → RegFile
  | [], _ => []
  | (j, b) :: m, k => if j = k then RegFile.erase m k else (j, b) :: RegFile.erase m k

/-- Put a value at a key, keeping the keys rising. -/
def RegFile.put : RegFile → Key → Nat → RegFile
  | [], k, a => [(k, a)]
  | (j, b) :: m, k, a =>
    if k.lt j then (k, a) :: (j, b) :: m else if k = j then (k, a) :: m else (j, b) :: RegFile.put m k a

/-- The value of a field. -/
def RegFile.rd (m : RegFile) (f : Field) (c i r : Nat) : Nat := (RegFile.get? m (f.key c i r)).getD f.reset

/-- Set a field, truncated to its width; the reset value is not listed. -/
def RegFile.wr (m : RegFile) (f : Field) (v c i r : Nat) : RegFile :=
  if v % 2 ^ f.width = f.reset then RegFile.erase m (f.key c i r) else RegFile.put m (f.key c i r) (v % 2 ^ f.width)

/-- The channels of a field that hold another value than its reset value. -/
def RegFile.chans (m : RegFile) (f : Field) : List Nat :=
  m.filterMap (fun e => if e.1.addr = f.addr ∧ e.1.lo = f.lo ∧ e.1.space = f.chan.space then some e.1.chan else none)

/-- Read a register field: channel `c`, element `i`, requester `r`. -/
def Dev.rd (d : Dev) (f : Field) (c : Nat := 0) (i : Nat := 0) (r : Nat := 0) : Nat := d.regs.rd f c i r

/-- Write a register field (the engines' own writes, whatever its type). -/
def Dev.wr (d : Dev) (f : Field) (v : Nat) (c : Nat := 0) (i : Nat := 0) (r : Nat := 0) : Dev :=
  { d with regs := d.regs.wr f v c i r }

end Sys2Proof.Machine
end

