-- ==== Sys2Proof/Machine/Flags.lean ====
section
/-!
DEFINITION. Flags and counters of the register file: one-bit fields, sticky bits that an event sets, counters that wrap at their width (R64)
or saturate, and the ways to do something to the device under a condition or for each element of a list.
-/
namespace Sys2Proof.Machine

/-- A one-bit field as a Boolean. -/
def Dev.on (d : Dev) (f : Field) (c : Nat := 0) (i : Nat := 0) (r : Nat := 0) : Bool := d.rd f c i r != 0

/-- Set a one-bit field. -/
def Dev.flag (d : Dev) (f : Field) (c : Nat := 0) (i : Nat := 0) (r : Nat := 0) : Dev := d.wr f 1 c i r

/-- Add to a counter field, wrapping at its width (R64). -/
def Dev.count (d : Dev) (f : Field) (n : Nat := 1) (c : Nat := 0) (i : Nat := 0) : Dev :=
  d.wr f (d.rd f c i + n) c i

/-- Add to a counter field that saturates at its width. -/
def Dev.countSat (d : Dev) (f : Field) (n : Nat := 1) (c : Nat := 0) (i : Nat := 0) : Dev :=
  d.wr f (satAdd f.width (d.rd f c i) n) c i

/-- Do something to the device only when a condition holds. -/
def Dev.when (d : Dev) (b : Bool) (f : Dev → Dev) : Dev := if b then f d else d

/-- Apply a step to the device for each element of a list, in order. -/
def Dev.each {α : Type} (d : Dev) (l : List α) (f : Dev → α → Dev) : Dev := l.foldl f d

end Sys2Proof.Machine
end

