-- ==== Sys2Proof/Machine/Ops.lean ====
section
/-!
DEFINITION. The named operations that every family uses: HBM as a canonical byte memory, the islands and their reset
groups (Tables 1.1, 1.4, 1.9), events and configuration writes in a tick (R30-R33), requesters (Table 8.7), presence of
units (Table 8.9a), persistent values in MRAM.
-/
namespace Sys2Proof.Machine

/-! ## HBM -/

/-- What an HBM byte that nothing has written reads as (log entry 2). -/
def hbmBlank : Byte := 0#8

/-- Read one byte. -/
def memRead : List Host.Cell → Nat → Byte
  | [], _ => hbmBlank
  | (j, b) :: m, a => if j = a then b else memRead m a

/-- Write one byte, keeping the canonical form: rising addresses, no entry equal to `hbmBlank`. -/
def memWrite : List Host.Cell → Nat → Byte → List Host.Cell
  | [], a, v => if v = hbmBlank then [] else [(a, v)]
  | (j, b) :: m, a, v =>
    if a < j then (if v = hbmBlank then (j, b) :: m else (a, v) :: (j, b) :: m)
    else if a = j then (if v = hbmBlank then m else (a, v) :: m)
    else (j, b) :: memWrite m a v

/-- Read a run of bytes. -/
def memReadN (m : List Host.Cell) : Nat → Nat → Bytes
  | _, 0 => []
  | a, n + 1 => memRead m a :: memReadN m (a + 1) n

/-- Write a run of bytes. -/
def memWriteN (m : List Host.Cell) : Nat → Bytes → List Host.Cell
  | _, [] => m
  | a, v :: vs => memWriteN (memWrite m a v) (a + 1) vs

/-- The canonical form of memory. -/
def Memory.wf : List Host.Cell → Bool
  | [] => true
  | [(_, b)] => decide (b ≠ hbmBlank)
  | (a, b) :: (a', b') :: m => decide (b ≠ hbmBlank) && decide (a < a') && Memory.wf ((a', b') :: m)

/-! ## State and device -/

/-- Change the device alone. -/
def State.onDev (s : State) (f : Dev → Dev) : State := { s with dev := f s.dev }

/-! ## Islands -/

/-- The reset group of an island code (Table 1.4). -/
def islandGroup (c : Nat) : Nat :=
  if c ≤ 1 ∨ c = 0x0C then 0
  else if c ≤ 0x0A then 3
  else if c = 0x0B then 2
  else if c ≤ 0x14 then 4
  else if c = 0x16 ∨ c = 0x18 then 7
  else if c = 0x17 then 5
  else if c = 0x19 ∨ c = 0x1A then 6
  else if c = 0x1B then 1
  else 0

/-- The reset group of the block at a device address (Table 1.9); the function windows belong to HOST. -/
def blockGroup (addr : Nat) : Nat :=
  let b := addr >>> 20
  if b ≥ 0x100 then 2
  else if b = 0x13 then 7
  else if b < 0x20 then 0
  else if b < 0x50 then 3
  else if b < 0x60 then 2
  else if b < 0x70 then 6
  else if b < 0x80 then 5
  else if b < 0x90 then 7
  else if b < 0xA0 then 6
  else if b < 0xC0 then 0
  else if b < 0xD0 then 7
  else if b < 0xE0 then 1
  else 0

/-- Every island code that carries logic (R12). -/
def islandCodes : List Nat := (List.range 0x1C).filter (fun c => c != 0x15)

/-- Is a unit bit of UNIT_PRESENT set (Table 8.9a). -/
def Dev.unit (d : Dev) (n : Nat) : Bool := bit (d.rd R.UNIT_PRESENT) n

/-- Is an island present on this part (Tables 0.1, 8.9a). -/
def Dev.islandPresent (d : Dev) (c : Nat) : Bool :=
  if c = 0x1A then d.unit 1 else if c = 0x17 then d.unit 2
  else if 0x0D ≤ c ∧ c ≤ 0x14 then d.unit (8 + (c - 0x0D)) else decide (c < 0x1C ∧ c ≠ 0x15)

/-- Is an island in reset. -/
def Dev.inReset (d : Dev) (c : Nat) : Bool := d.rst.active.contains (islandGroup c)

/-- Is an island's clock stopped (Table 17.1: every state but RUN). -/
def Dev.stopped (d : Dev) (c : Nat) : Bool := d.rd R.PI_STATUS_STATE c != 0

/-- Post a wake request for an island (R17). -/
def Dev.wakeReq (d : Dev) (c : Nat) : Dev :=
  if d.pwr.wakes.contains c then d else { d with pwr := { d.pwr with wakes := d.pwr.wakes ++ [c] } }

/-- An event source number (R32). -/
def srcNum (island loc : Nat) : Nat := island * 64 + loc

/-- The sampler takes an event into the present tick (R30). -/
def Dev.raise (d : Dev) (cls src : Nat) (info : Nat := 0) : Dev :=
  { d with tk := { d.tk with sampled := d.tk.sampled ++ [⟨cls, src, info⟩] } }

/-! ## Requesters -/

/-- The island through which a requester's writes arrive (R32, R13, Table 8.7). -/
def reqIsland (r : Nat) : Nat :=
  if r < 4104 then 0x0B
  else if r < 4136 then 0x0D + (r - 4104) / 4
  else if r < 4139 then 0x17 else if r < 4142 then 0x1A else if r < 4145 then 0x18 else if r < 4148 then 0x19
  else 0x1B

/-- Is a requester a core hart. -/
def isHart (r : Nat) : Bool := decide (4104 ≤ r ∧ r < 4136)

/-- Is a requester a PCIe function. -/
def isFunc (r : Nat) : Bool := decide (r < 4104)

/-- PF0 and every requester inside the device reach the device register space (R201, R208). -/
def devSpace (r : Nat) : Bool := decide (r = 0 ∨ 4104 ≤ r)

/-- The rank of a configuration write in its tick: class, then source (R31, R32). -/
def wrRank (cls src : Nat) : Nat := cls * 65536 + src

/-- The rank of the last configuration write of this tick to a register. -/
def lastRank : List (Key × Nat) → Key → Option Nat
  | [], _ => none
  | (j, n) :: m, k => if j = k then some n else lastRank m k

/-- A configuration write of class `cls` from `src` to a register: it takes effect unless a write that the order of the tick
puts later has already set the register in this tick (R31, R33, R210). -/
def Dev.cfgWrite (d : Dev) (cls src : Nat) (f : Field) (v c i r : Nat) : Dev :=
  if (lastRank d.tk.wrote (f.key c i r)).getD 0 ≤ wrRank cls src then
    let e := d.wr f v c i r
    { e with tk := { e.tk with wrote := (f.key c i r, wrRank cls src) :: e.tk.wrote.filter (fun x => x.1 != f.key c i r) } }
  else d

/-- Sample a register-path write as a class 9 event (R26, R32). -/
def Dev.sampleWrite (d : Dev) (req : Nat) (info : Nat := 0) : Dev := d.raise 9 (srcNum (reqIsland req) 0) info

/-- Sample a boundary action of a write from a requester. -/
def Dev.postAct (d : Dev) (cls src : Nat) (a : BndAct) : Dev :=
  { d with tk := { d.tk with acts := d.tk.acts ++ [⟨cls, src, a⟩] } }

/-! ## Ports (Table 2.2) -/

/-- The mode of the lane group of a port. -/
def Dev.portMode (d : Dev) (p : Nat) : Nat := d.rd R.LG_MODE 0 (p / 4)

/-- Is a port formed under the present modes (Table 2.2). -/
def Dev.formed (d : Dev) (p : Nat) : Bool :=
  let m := d.portMode p
  if m = 1 then p == 0 || p == 8
  else if m = 2 then p % 4 == 0
  else if m = 3 then p % 2 == 0
  else decide (4 ≤ m ∧ m ≤ 7)

/-! ## Values in MRAM (R357) -/

/-- The key of an object's stored value. -/
def objKey (idx sub : Nat) : Nat := idx * 4096 + sub

/-- The persisted value of an object as a number. -/
def Dev.objNat (d : Dev) (idx sub dflt : Nat) : Nat :=
  match SMap.get? d.mram.obj (objKey idx sub) with
  | some b => leNat b
  | none => dflt

/-- Persist an object's value. -/
def Dev.objPut (d : Dev) (idx sub : Nat) (b : Bytes) : Dev :=
  { d with mram := { d.mram with obj := SMap.put d.mram.obj (objKey idx sub) b } }

/-! ## What a read returns -/

/-- The value the last read command returned (the model's own register). -/
def Dev.ret (d : Dev) (v : Nat) : Dev := { d with rdata := v }

/-- The bytes the last read command returned. -/
def Dev.retBytes (d : Dev) (b : Bytes) : Dev := { d with rbytes := b }

/-- A fresh number for a free value: the counter steps (log entry 5). -/
def Dev.fresh (d : Dev) : Nat × Dev := (d.fv, { d with fv := d.fv + 1 })

end Sys2Proof.Machine
end

