-- ==== Sys2Proof/Machine/RegAccess.lean ====
section
/-!
DEFINITION. How an access finds its register: channel select (R208, R209), the function windows and their views (R205),
absent units (R3), the fields at an address. Reads that act (RC fields, the low word of a 64-bit counter) use it, and so
does REGISTER_WRITE.
-/
namespace Sys2Proof.Machine

/-- CHSEL of a block (offset 0x0000) or of a view of the function window, private to each requester (Table 8.6). -/
def chselField (base : Nat) : Field := { addr := base, ty := .rw, perReq := true }

/-- The PF whose VFs hold global VF index `n`, and `n` within them, walking the TotalVFs in force (R200). -/
def vfOf : List Nat → Nat → Nat → Nat × Nat
  | [], pf, n => (pf, n)
  | t :: ts, pf, n => if n < t then (pf, n) else vfOf ts (pf + 1) (n - t)

/-- The PF of a function: its own number, or its parent (R200). -/
def Dev.fnPf (d : Dev) (fn : Nat) : Nat := if fn < 8 then fn else (vfOf d.host.vfs 0 (fn - 8)).1

/-- The VF number of a function, 1 onward, 0 for a PF. -/
def Dev.fnVf (d : Dev) (fn : Nat) : Nat := if fn < 8 then 0 else (vfOf d.host.vfs 0 (fn - 8)).2 + 1

/-- The link of a function (R197): link B carries PF4-PF7 and their VFs when the port is split. -/
def Dev.fnLink (d : Dev) (fn : Nat) : Nat := if d.on R.PC_MODE ∧ 4 ≤ d.fnPf fn then 1 else 0

/-- The channel that a block's CHSEL value selects, with its kind; `none` while CHSEL_STATUS.BAD is 1 (R209). The active
bank's profiles and patterns, and the shadow bank's, are channels of their own: bank × 256 + profile, bank × 65536 + pattern. -/
def Dev.selectChan (d : Dev) (req blk v : Nat) : Option (Chan × Nat) :=
  let upto (n : Nat) : Option (Chan × Nat) := if v < n then some (.window, v) else none
  let bank (view : Bool) : Nat := if view then d.rd R.CL_BANK_ACTIVE else 1 - d.rd R.CL_BANK_ACTIVE
  if blk = 0x003 then upto 512
  else if blk = 0x001 then (if v < 0x1C ∧ v ≠ 0x15 ∧ d.islandPresent v then some (.window, v) else none)
  else if blk = 0x010 then upto 17
  else if blk = 0x011 then (if v < 16 then some (.trigger, v) else if v < 25 then some (.capture, v) else none)
  else if blk = 0x012 ∨ blk = 0x020 ∨ blk = 0x021 ∨ blk = 0x022 ∨ blk = 0x035 ∨ blk = 0x040 ∨ blk = 0x042 then upto 16
  else if blk = 0x030 then
    (if v < 64 then some (.window, v + 256 * bank false) else if 256 ≤ v ∧ v < 320 then some (.window, v - 256 + 256 * bank true) else none)
  else if blk = 0x031 then
    (if v < 16384 then some (.window, v + 65536 * bank false)
     else if 65536 ≤ v ∧ v < 65536 + 16384 then some (.window, v - 65536 + 65536 * bank true) else none)
  else if blk = 0x032 then upto 256
  else if blk = 0x034 then upto 9
  else if blk = 0x041 then upto 262144
  else if blk = 0x043 then upto 65536
  else if blk = 0x050 ∨ blk = 0x071 then
    (if v = 0 ∨ (v = 1 ∧ d.on (if blk = 0x050 then R.PC_MODE else R.DS_MODE)) then some (.window, v) else none)
  else if blk = 0x051 ∨ blk = 0x054 then upto (d.rd R.FN_NUM)
  else if blk = 0x052 then upto 65536
  else if blk = 0x053 then upto 16384
  else if blk = 0x060 then upto 4194304
  else if blk = 0x070 then upto (d.rd R.NV_CTRL_COUNT)
  else if blk = 0x080 then
    (if v < 256 then some (.captProfile, v) else if 1024 ≤ v ∧ v < 1032 then some (.captStream, v - 1024)
     else if 2048 ≤ v ∧ v < 2112 then some (.captHist, v - 2048) else none)
  else if blk = 0x090 then
    (if v < 8 then some (.fabPort, v) else if 4096 ≤ v ∧ v < 8192 then some (.fabRoute, v - 4096) else none)
  else if blk = 0x0B0 then upto 8
  else if blk = 0x0B1 then upto 12
  else if blk = 0x0D0 then upto 8
  else if blk = 0x0E0 then
    (if (req = 0 ∧ v = 0) ∨ (isHart req ∧ 1 ≤ v ∧ v < 5) then some (.window, v) else none)
  else if blk = 0x0F0 then
    (if v < 4096 then some (.faultRecord, v) else if 4096 ≤ v ∧ v < 4096 + 2048 then some (.faultSource, v - 4096) else none)
  else if v = 0 then some (.global, 0) else none

/-- Does the block of a device address belong to an absent unit (R3, R219), or lie outside the device register space (R10). -/
def Dev.absentBlock (d : Dev) (blk : Nat) : Bool :=
  if 0x100 ≤ blk then true else if blk = 0x090 then !d.unit 1 else if blk = 0x070 ∨ blk = 0x071 then !d.unit 2 else false

/-- Where an access lands: a device word address with the kind and number of its channel; whether it is a view for reads only. -/
structure Target where
  addr : Nat
  chan : Chan
  c : Nat
  ro : Bool := false
  deriving DecidableEq, Repr

/-- The window offset of a function's BAR0 access, `none` for the device register space (Table 8.3). -/
def windowOff (req addr : Nat) : Option Nat :=
  if req = 0 then (if 0x10000000 ≤ addr then some (addr - 0x10000000) else none)
  else if req < 4104 then some addr else none

/-- The function number of the VF `n` (from 0) of a PF (R200). -/
def Dev.vfNumber (d : Dev) (pf n : Nat) : Nat := 8 + (d.host.vfs.take pf).sum + n

/-- Resolve an access in a function's window (R205): views 1 to 3 reach the function's own rings, event queues and queue
pairs, and the registers of R252 and R254; view 4 reads the FUNC registers of a PF's VFs; a local number at or above the allocated
count is out of range. Functions of type NVMe have no such window. -/
def Dev.windowTarget (d : Dev) (req off : Nat) : Option Target :=
  let view := off / 0x2000
  let lo := off % 0x2000
  let loc := d.rd (chselField (0x10000000 + 0x2000 * view)) 0 0 req
  if d.fnPf req = 5 ∨ d.fnPf req = 6 then none
  else if lo < 8 ∧ 1 ≤ view ∧ view ≤ 4 then some { addr := 0x10000000 + 0x2000 * view + lo, chan := .global, c := 0 }
  else if view = 1 ∧ 0x1000 ≤ lo ∧ loc < d.rd R.FN_RING_COUNT req then
    some { addr := 0x05200000 + lo, chan := .window, c := d.rd R.FN_RING_BASE req + loc }
  else if view = 2 ∧ 0x1000 ≤ lo ∧ loc < d.rd R.FN_EQ_COUNT req then
    some { addr := 0x05300000 + lo, chan := .window, c := d.rd R.FN_EQ_BASE req + loc }
  else if view = 3 ∧ (lo = 0x10 ∨ lo = 0x14) then some { addr := 0x06000028 + lo, chan := .global, c := 0 }
  else if view = 3 ∧ 0x40 ≤ lo ∧ lo < 0x64 ∧ lo ≠ 0x54 then some { addr := 0x06000000 + lo, chan := .global, c := 0 }
  else if view = 3 ∧ 0x1000 ≤ lo ∧ loc < d.rd R.FN_QP_COUNT req then
    some { addr := 0x06000000 + lo, chan := .window, c := d.rd R.FN_QP_BASE req + loc }
  else if view = 4 ∧ req < 8 ∧ 0x1000 ≤ lo ∧ lo < 0x1048 ∧ loc < d.host.vfs.getD req 0 then
    some { addr := 0x05100000 + lo, chan := .window, c := d.vfNumber req loc, ro := true }
  else none

/-- Is a channel that of an absent unit or of an unused port: it reads zero and ignores writes without being out of range (R3, R43, R219, R389,
R459). -/
def Dev.absentChan (d : Dev) (blk c : Nat) : Bool :=
  if blk = 0x051 ∨ blk = 0x054 then !d.unit 2 && (d.fnPf c == 5 || d.fnPf c == 6)
  else if blk = 0x020 ∨ blk = 0x021 then !d.formed c
  else if blk = 0x0B0 then !d.unit (8 + c)
  else if blk = 0x003 then !(d.islandPresent (Config.lcSrc c) && d.islandPresent (Config.lcDst c))
  else false

/-- Resolve an access of a requester: the device register space for PF0 and the requesters inside the device, the function's own
window otherwise. `none` where the access reads zero and writes nothing (R3, R10, R209, R215). -/
def Dev.target (d : Dev) (req addr : Nat) : Option Target :=
  match windowOff req addr with
  | some off =>
    if d.on R.FN_STATUS_DISABLING req || d.fnOut.contains req then none else d.windowTarget req off
  | none =>
    let blk := addr >>> 20
    if d.absentBlock blk then none
    else if addr % 0x100000 < 0x1000 ∨ 0x2000 ≤ addr % 0x100000 then some { addr := addr, chan := .global, c := 0 }
    else
      match d.selectChan req blk (d.rd (chselField (blk <<< 20)) 0 0 req) with
      | some (k, c) => if d.absentChan blk c then none else some { addr := addr, chan := k, c := c }
      | none => none

/-- The element and the word (0 for the low word) of a field at a word address. -/
def Field.hit (f : Field) (a : Nat) : Option (Nat × Nat) :=
  let words := (f.lo + f.width + 31) / 32
  if a < f.addr then none
  else
    let x := a - f.addr
    let i := if f.count = 1 then 0 else x / f.stride
    let w := (if f.count = 1 then x else x % f.stride)
    if w % 4 = 0 ∧ w / 4 < words ∧ i < f.count then some (i, w / 4) else none

/-- The fields a target's word holds, with element and word. -/
def Target.fields (t : Target) : List (Field × Nat × Nat) :=
  R.all.filterMap (fun f =>
    if f.chan = t.chan ∨ f.chan = .global then (f.hit t.addr).map (fun p => (f, p.1, p.2)) else none)

/-- The channel that a field of a target uses. -/
def Target.ch (t : Target) (f : Field) : Nat := if f.chan = .global then 0 else t.c

/-- The key under which a requester's latched high word of a wide field is kept (R64, R208). -/
def latchKey (f : Field) (c i req : Nat) : Key := ⟨f.addr + f.stride * i + 4, f.lo, c, req + 1, f.chan.space⟩

end Sys2Proof.Machine
end

