-- ==== Sys2Proof/Machine/TimeBase.lean ====
section
/-!
DEFINITION. Chapter 3: the counter (R67-R74), its servo (R75-R80) and the user calibration (R84-R87). Times are numbers
of 2^-32 ns; offsets and delays are integers of 2^-16 ns.
-/
namespace Sys2Proof.Machine

/-! ## The counter -/

/-- One second and one nanosecond of the counter. -/
def nsUnit : Nat := 2 ^ 32
def secUnit : Nat := 10 ^ 9 * 2 ^ 32

/-- The counter wraps after 2^48 seconds (R67). -/
def tbWrap : Nat := 2 ^ 48 * secUnit

/-- Seconds, nanoseconds and fraction of a counter value. -/
def tbSec (t : Nat) : Nat := t / secUnit
def tbNs (t : Nat) : Nat := t % secUnit / nsUnit
def tbFrac (t : Nat) : Nat := t % nsUnit

/-- A counter value from a TIME96 as the registers lay it out (R69): word 0 nanoseconds, word 1 seconds [31:0], word 2
seconds [47:32] and sub-nanoseconds. -/
def timeOf96 (v : Nat) : Nat :=
  ((v >>> 32) % 2 ^ 48) * secUnit + (v % 2 ^ 32) * nsUnit + (v >>> 80) % 2 ^ 16 * 2 ^ 16

/-- The published form of a counter value: sub-nanoseconds truncated to bits [31:16] of the fraction (R69). -/
def time96Of (t : Nat) : Nat := tbNs t + (tbSec t % 2 ^ 48) <<< 32 + (tbFrac t >>> 16) <<< 80

/-- The nominal rate (R67). -/
def tbNominal : Nat := 2 ^ 32

/-- The slew of one TIME cycle in 2^-32 ns: TB_SLEW_MAX × 2^32 / 10^9 rounded down, the last cycle only the remainder (R76). -/
def slewStep (maxPpb : Nat) (remain : Int) : Int :=
  let m : Int := ((maxPpb * 2 ^ 32 / 10 ^ 9 : Nat) : Int)
  clampInt (-m) m remain

/-- One TIME cycle: the counter adds TB_INCR and the slew (R67). -/
def TimeBase.cycle (b : TimeBase) (incr maxPpb : Nat) : TimeBase :=
  let x := slewStep maxPpb b.slew
  { b with t := (((b.t + incr : Nat) : Int) + x).toNat % tbWrap, slew := b.slew - x }

/-- `n` TIME cycles. -/
def TimeBase.cycles (b : TimeBase) (incr maxPpb : Nat) : Nat → TimeBase
  | 0 => b
  | n + 1 => (b.cycle incr maxPpb).cycles incr maxPpb n

/-- The counter at TIME cycle `k` of the present event tick. -/
def Dev.nowAt (d : Dev) (k : Nat) : Nat := (d.tb.cycles (d.rd R.TB_INCR) (d.rd R.TB_SLEW_MAX) k).t

/-- TIME cycles since G0 left reset, at the start of the present tick (R29). -/
def Dev.cyc (d : Dev) : Nat := 8 * d.tk.etick

/-- Replace the time base's own state. -/
def Dev.setTb (d : Dev) (f : TimeBase → TimeBase) : Dev := { d with tb := f d.tb }

/-- Put a slew of an offset in 2^-16 ns in place of any slew in progress (R70, R76). -/
def Dev.startSlew (d : Dev) (off : Int) : Dev := d.setTb (fun b => { b with slew := off * 2 ^ 16 })

/-- TB_NOW0 to TB_NOW2 take the counter of a TIME cycle of the tick for a requester (R70). -/
def Dev.tbNowLatch (d : Dev) (req cycle : Nat) : Dev :=
  let t := d.nowAt cycle
  (((d.wr R.TB_NOW0 (tbNs t) 0 0 req).wr R.TB_NOW1 (tbSec t) 0 0 req).wr R.TB_NOW2_SEC_HI (tbSec t >>> 32) 0 0 req).wr
    R.TB_NOW2_SUBNS (tbFrac t >>> 16) 0 0 req

/-- TB_NOW_READ (R70): the read latches the counter of its TIME cycle for the requester and returns the nanoseconds. -/
def execTbNowRead (req cycle : Nat) (s : State) : Host.Outcome State Fault Refusal :=
  .next (s.onDev (fun d => (d.tbNowLatch req cycle).ret (tbNs (d.nowAt cycle))))

/-! ## Servo states and steps -/

/-- TB_HO_ELAPSED (R78): the milliseconds in HOLDOVER, zero in any other state. -/
def Dev.hoElapsed (d : Dev) : Nat := if d.rd R.TB_STATUS_STATE = 3 then (d.cyc - d.tb.entryCyc) / 10 ^ 6 else 0

/-- Enter a servo state; a change sets STATE_CHG and raises TIME local 19 (R77). -/
def Dev.servoState (d : Dev) (st : Nat) : Dev :=
  let e := d.setTb (fun b => { b with good := 0, bad := 0 })
  if d.rd R.TB_STATUS_STATE = st then e
  else
    (((e.wr R.TB_STATUS_STATE st).flag R.TB_STATUS_STATE_CHG).setTb
      (fun b => { b with entryCyc := d.cyc, fresh := b.fresh || st == 0 }))
      |>.raise 11 (srcNum 1 19) st

/-- The time base in 2^-16 ns. -/
def Dev.now16 (d : Dev) : Nat := d.tb.t / 65536

/-- SQ_EPOCH in 2^-16 ns. -/
def Dev.seqEpoch (d : Dev) : Nat := (d.rd R.SQ_EPOCH_SEC * 10 ^ 9 + d.rd R.SQ_EPOCH_NS) * 65536

/-- The sequencer is in its running state (R72, R105; states of Table 4.6). -/
def Dev.seqRunning (d : Dev) : Bool := d.rd R.SQ_STATUS_STATE != 0

/-- The cause that refuses a START at its boundary (R105), 0 for none. -/
def Dev.startCause (d : Dev) : Nat :=
  if d.rd R.SQ_STATUS_STATE ≠ 0 then 1
  else if d.rd R.SQ_ENROL = 0 then 2
  else if d.now16 < d.seqEpoch then 3
  else if d.rd R.HD_DRAIN = 0 then 4
  else if d.on R.EN_STATUS_SEAL_FAULT then 5
  else 0

/-- Has this tick sampled a START whose turn at the boundary comes after that of a command of a class and source (R31, R72). -/
def Dev.startAhead (d : Dev) (cls src : Nat) : Bool :=
  d.tk.acts.any (fun a => a.act == .seqStart && decide (cls < a.cls ∨ (cls = a.cls ∧ src < a.src)))

/-- Is a SET or STEP refused at its boundary (R72): the sequencer runs, or a START sampled before it is about to start it. -/
def Dev.stepBlocked (d : Dev) (ahead : Bool) : Bool := d.seqRunning || (ahead && d.startCause == 0)

/-- Would a step be refused now (R72): the sequencer runs, or a START sampled earlier in this tick starts it. -/
def Dev.stepRefused (d : Dev) : Bool := d.stepBlocked (d.tk.acts.any (fun a => a.act == .seqStart))

/-- A SET or STEP acts (R71, R73): the counter takes its new value, STEP_GEN rises, the slew is cancelled, the time-step event is
raised, the servo re-acquires. -/
def Dev.stepTo (d : Dev) (t : Nat) : Dev :=
  let e := ((((d.setTb (fun b => { b with t := t % tbWrap, slew := 0, fresh := true, jumps := b.jumps ++ [(b.t, t % tbWrap)] })).wr R.TB_STATUS_STEP_GEN
    (d.rd R.TB_STATUS_STEP_GEN + 1)).wr R.TB_CMD_TICK d.tk.etick).raise 3 (srcNum 1 18))
  if d.on R.TB_CTRL_SERVO_EN then e.servoState 1 else e

/-- The counter moved by an offset in 2^-16 ns. -/
def stepped (t : Nat) (off : Int) : Nat := (((t : Int) + off * 2 ^ 16) % (tbWrap : Int)).toNat

/-- A command refused on the register path (R72, R77, R80). -/
def Dev.cmdRefused (d : Dev) (cause : Nat) : Dev := (d.flag R.TB_STATUS_CMD_REFUSED).wr R.TB_STATUS_CMD_CAUSE cause

/-- TB_FREQ_LIMIT in units of INTEG: ppb × 2^32 / 10^9. -/
def Dev.integLimit (d : Dev) : Int := ((d.rd R.TB_FREQ_LIMIT * 2 ^ 32 / 10 ^ 9 : Nat) : Int)

/-- INTEG, the rate that follows from it (R76, R80), and FREQ_CLAMP, which says that INTEG is at its limit (Table 3.3). -/
def Dev.setInteg (d : Dev) (x : Int) : Dev :=
  (((d.setTb (fun b => { b with integ := x })).wr R.TB_INTEG (twos 32 x)).wr R.TB_INCR (twos 64 ((tbNominal : Int) + x))).wr
    R.TB_STATUS_FREQ_CLAMP (b2n (x.natAbs == d.integLimit.natAbs))

/-- A SET at its boundary: refused while the sequencer runs (cause 1), with 10^9 nanoseconds or more (cause 2). -/
def Dev.actSet (d : Dev) (sec sub : Nat) (ahead : Bool) : Dev :=
  if d.stepBlocked ahead then d.cmdRefused 1 else if secUnit ≤ sub then d.cmdRefused 2 else d.stepTo (sec * secUnit + sub)

/-- A STEP at its boundary. -/
def Dev.actStep (d : Dev) (off : Nat) (ahead : Bool) : Dev :=
  if d.stepBlocked ahead then d.cmdRefused 1 else d.stepTo (stepped d.tb.t (signed 64 off))

/-- SLEW at its boundary: the offset is added at TB_SLEW_MAX; refused while SERVO_EN = 1 (R72). -/
def Dev.actSlew (d : Dev) (off : Nat) : Dev := if d.on R.TB_CTRL_SERVO_EN then d.cmdRefused 3 else d.startSlew (signed 64 off)

/-- HOLDOVER at its boundary (R77). -/
def Dev.actHoldover (d : Dev) : Dev :=
  if !d.on R.TB_CTRL_SERVO_EN || d.rd R.TB_STATUS_STATE == 0 then d.cmdRefused 3
  else if d.rd R.TB_STATUS_STATE = 3 then d
  else d.servoState 3

/-- CLEAR_INTEG at its boundary (R80). -/
def Dev.actClearInteg (d : Dev) : Dev :=
  if d.on R.TB_CTRL_SERVO_EN then d.cmdRefused 3 else d.setInteg 0

/-- A time-base command on the register path: a class 9 write that acts, or is refused, at the start of the next tick (R71). -/
def Dev.timeCmd (d : Dev) (req value : Nat) (a : BndAct) : Dev := (d.sampleWrite req value).postAct 9 (srcNum (reqIsland req) 0) a

/-- SET (R71, R72). -/
def execSet (req : Nat) (s : State) : Host.Outcome State Fault Refusal :=
  .next (s.onDev (fun d => d.timeCmd req 1
    (.timeSet (d.rd R.TB_SET_SEC_LO + d.rd R.TB_SET_SEC_HI <<< 32) (d.rd R.TB_SET_NS * nsUnit) (d.startAhead 9 (srcNum (reqIsland req) 0)))))

/-- STEP (R71, R72). -/
def execStep (req : Nat) (s : State) : Host.Outcome State Fault Refusal :=
  .next (s.onDev (fun d => d.timeCmd req 2 (.timeStep (d.rd R.TB_STEP_OFF) (d.startAhead 9 (srcNum (reqIsland req) 0)))))

/-- SLEW (R70, R71). -/
def execSlew (req : Nat) (s : State) : Host.Outcome State Fault Refusal :=
  .next (s.onDev (fun d => d.timeCmd req 3 (.slew (d.rd R.TB_STEP_OFF))))

/-- HOLDOVER (R71, R77). -/
def execHoldover (req : Nat) (s : State) : Host.Outcome State Fault Refusal := .next (s.onDev (fun d => d.timeCmd req 4 .holdover))

/-- CLEAR_INTEG (R71, R80). -/
def execClearInteg (req : Nat) (s : State) : Host.Outcome State Fault Refusal := .next (s.onDev (fun d => d.timeCmd req 5 .clearInteg))

/-- What a change of SERVO_EN, SRC and L1_SYNT does at once (R75-R77, R80). SRC 3, and 2 without the fabric, is ignored. -/
def Dev.tbCtrl (d : Dev) (en src l1 : Nat) : Dev :=
  let bad := src = 3 ∨ (src = 2 ∧ !d.unit 1)
  let old := d.rd R.TB_CTRL_SRC
  let a := if bad then d.flag R.TB_STATUS_SRC_REFUSED else d.wr R.TB_CTRL_SRC src
  let a := if bad ∨ src = old then a
    else
      let b := a.setTb (fun b => { b with fresh := true, good := 0, samples := [] })
      if d.rd R.TB_STATUS_STATE ≥ 2 then b.servoState 1 else b
  let a := if l1 = 1 ∧ !d.on R.TB_CTRL_L1_SYNT then (a.flag R.TB_CTRL_L1_SYNT).setInteg 0 else a.wr R.TB_CTRL_L1_SYNT l1
  if en = 0 ∧ d.on R.TB_CTRL_SERVO_EN then ((a.wr R.TB_CTRL_SERVO_EN 0).setTb (fun b => { b with slew := 0, samples := [] })).servoState 0
  else a.wr R.TB_CTRL_SERVO_EN en

/-- TB_CTRL_WRITE (R75). -/
def execTbCtrlWrite (req value : Nat) (s : State) : Host.Outcome State Fault Refusal :=
  .next (s.onDev (fun d => (d.sampleWrite req value).tbCtrl (value % 2) (bits value 2 1) (bits value 3 3)))

/-! ## Samples -/

/-- Division rounded to the nearest integer, halves away from zero (R76). -/
def roundDiv (n : Int) (m : Nat) : Int :=
  if 0 ≤ n then (2 * n + m) / (2 * m) else -((2 * (-n) + m) / (2 * m))

/-- Is a sample discarded (R79). -/
def Dev.sampleBad (d : Dev) (x : Sample) : Bool :=
  !d.on R.TB_CTRL_SERVO_EN || x.src != d.rd R.TB_CTRL_SRC || x.gen != d.rd R.TB_STATUS_STEP_GEN

/-- A sample enters the servo's input, or is discarded and counted (R79). -/
def Dev.sampleIn (d : Dev) (x : Sample) : Dev :=
  if d.sampleBad x then d.countSat R.TB_SAMPLE_DISCARD else d.setTb (fun b => { b with samples := b.samples ++ [x] })

/-- TB_SW_OFFSET_SUBMIT (R79): a write of TB_SW_OFFSET_HI submits the sample with the requester's own staged low word. -/
def execTbSwOffsetSubmit (req value : Nat) (s : State) : Host.Outcome State Fault Refusal :=
  .next (s.onDev (fun d =>
    (d.sampleWrite req value).sampleIn
      { src := 0, gen := value >>> 16 % 2 ^ 16,
        theta := signed 48 ((value % 2 ^ 16) <<< 32 + d.rd R.TB_SW_OFFSET_LO 0 0 req) }))

/-- |θ| is within LOCK_THRESH. -/
def Dev.inLock (d : Dev) (theta : Int) : Bool := decide (theta.natAbs ≤ d.rd R.TB_LOCK_LOCK_THRESH * 2 ^ 16)

/-- The state after an accepted sample (R77). -/
def Dev.sampleState (d : Dev) (theta : Int) : Dev :=
  let st := d.rd R.TB_STATUS_STATE
  if st = 0 ∨ st = 3 then d.servoState 1
  else if st = 1 then
    let g := if d.inLock theta then d.tb.good + 1 else 0
    if g ≥ d.rd R.TB_LOCK_LOCK_COUNT ∧ d.inLock theta then d.servoState 2 else d.setTb (fun b => { b with good := g })
  else
    let n := if d.inLock theta then 0 else d.tb.bad + 1
    if n ≥ 4 then d.servoState 1 else d.setTb (fun b => { b with bad := n })

/-- The time since the previous accepted sample in ns, or 1 s (R76). -/
def Dev.sampleTau (d : Dev) : Nat := if d.tb.fresh then 10 ^ 9 else max 1 (d.cyc - d.tb.lastCyc)

/-- INTEG after a sample: exact, rounded, clamped; zero while L1_SYNT = 1 (R76). -/
def Dev.nextInteg (d : Dev) (theta : Int) (tau : Nat) : Int :=
  if d.on R.TB_CTRL_L1_SYNT then 0
  else clampInt (-d.integLimit) d.integLimit (d.tb.integ - roundDiv ((d.rd R.TB_GAIN_KI : Int) * theta) tau)

/-- What the servo does with an accepted sample (R76). -/
def Dev.servoAct (d : Dev) (theta : Int) (tau : Nat) : Dev :=
  if theta.natAbs > d.rd R.TB_STEP_THRESH * 2 ^ 16 then
    if d.stepRefused then ((d.flag R.TB_STATUS_STEP_BLOCKED).raise 11 (srcNum 1 20)).startSlew (-theta)
    else d.stepTo (stepped d.tb.t (-theta))
  else
    let x := d.nextInteg theta tau
    (d.setInteg x).startSlew
      (-(roundDiv ((d.rd R.TB_GAIN_KP : Int) * theta) (2 ^ 16)))

/-- An accepted sample: the last offset, the state, then the loop (R76, R77). -/
def Dev.servoSample (d : Dev) (theta : Int) : Dev :=
  let tau := d.sampleTau
  ((((d.wr R.TB_LAST_OFFSET (twos 64 theta)).setTb (fun b => { b with lastCyc := d.cyc, fresh := false }))).sampleState
    theta).servoAct theta tau

/-- SERVO_SAMPLE (R76, R79): the oldest sample at the servo's input is taken, or discarded if a step, a change of source or a
disable has come between. -/
def execServoSample (s : State) : Host.Outcome State Fault Refusal :=
  .next (s.onDev (fun d =>
    match d.tb.samples with
    | [] => d
    | x :: xs =>
      let e := d.setTb (fun b => { b with samples := xs })
      if d.sampleBad x then e.countSat R.TB_SAMPLE_DISCARD else e.servoSample x.theta))

/-- Is the servo's source lost (R78). -/
def Dev.sourceLost (d : Dev) : Bool :=
  decide (d.rd R.TB_HO_TIMEOUT * 10 ^ 6 ≤ d.cyc - max d.tb.entryCyc d.tb.lastCyc) ||
    (d.rd R.TB_CTRL_SRC == 1 && decide (1100 * 10 ^ 6 ≤ d.cyc - max d.tb.entryCyc d.tb.ppsCyc)) ||
    (d.rd R.TB_CTRL_SRC == 2 && !d.on R.FB_STATUS_TIME_PATH)

/-- SERVO_SOURCE_LOST (R78): ACQUIRING goes to FREE and LOCKED to HOLDOVER. -/
def execServoSourceLost (s : State) : Host.Outcome State Fault Refusal :=
  .next (s.onDev (fun d =>
    if d.sourceLost && d.on R.TB_CTRL_SERVO_EN then
      (if d.rd R.TB_STATUS_STATE = 1 then d.servoState 0 else if d.rd R.TB_STATUS_STATE = 2 then d.servoState 3 else d)
    else d))

/-- Is a committed TB_INCR within TB_FREQ_LIMIT of nominal (R80). -/
def Dev.incrInRange (d : Dev) (v : Nat) : Bool := decide (((v : Int) - (tbNominal : Int)).natAbs ≤ d.integLimit.natAbs)

/-- TB_INCR_COMMIT (R80): a write of TB_INCR_HI commits the value, its low word the requester's staged one or the present. -/
def execTbIncrCommit (req value : Nat) (s : State) : Host.Outcome State Fault Refusal :=
  .next (s.onDev (fun d =>
    let lo := (SMap.get? d.tb.incrLo req).getD (d.rd R.TB_INCR % 2 ^ 32)
    let v := (value % 2 ^ 32) <<< 32 + lo
    let e := (d.sampleWrite req value).setTb (fun b => { b with incrLo := SMap.del b.incrLo req })
    if d.on R.TB_CTRL_SERVO_EN || !d.incrInRange v then e.flag R.TB_STATUS_INCR_REFUSED else e.wr R.TB_INCR v))

/-! ## Calibration -/

/-- The rate code of a port (Table 3.5). -/
def Dev.rateCode (d : Dev) (p : Nat) : Nat :=
  if p = 16 then d.cal.mgmtRate
  else if !d.formed p then 0
  else
    let m := d.portMode p
    if m ≤ 5 then m else if m = 7 then 8 else if d.rd R.PT_CTRL_FEC p = 0 then 6 else 7

/-- Can a port have a rate code (R40, R84): MGMT has codes 9 to 12; the ports of several lanes take the number of their lowest. -/
def rateOccurs (p code : Nat) : Bool :=
  if p = 16 then decide (9 ≤ code ∧ code ≤ 12)
  else decide (code ≤ 8) && (code != 1 || p % 8 == 0) && (code != 2 || p % 4 == 0) && (code != 3 || p % 2 == 0)

/-- The fused delays of a port and rate code, zero where the two cannot occur (R84). -/
def factoryRx (p code : Nat) : Int := if rateOccurs p code then Config.calRx p code else 0
def factoryTx (p code : Nat) : Int := if rateOccurs p code then Config.calTx p code else 0

/-- Saturate to the signed 32-bit range (R86). -/
def sat32 (x : Int) : Int := clampInt (-(2 ^ 31)) (2 ^ 31 - 1) x

/-- The exact user parts (R86). -/
def Dev.userRx (d : Dev) (p : Nat) : Int :=
  signed 32 (d.rd R.CAL_RX_CORR p) + signed 32 (d.rd R.CAL_CABLE p) + signed 32 (d.rd R.CAL_ASYM p) / 2
def Dev.userTx (d : Dev) (p : Nat) : Int :=
  signed 32 (d.rd R.CAL_TX_CORR p) + signed 32 (d.rd R.CAL_CABLE p) - (signed 32 (d.rd R.CAL_ASYM p) - signed 32 (d.rd R.CAL_ASYM p) / 2)

/-- The effective delays of a port from its present values (R84, R86). -/
def Dev.calNow (d : Dev) (p : Nat) : CalEff :=
  { rate := d.rateCode p, dRx := sat32 (factoryRx p (d.rateCode p) + d.userRx p),
    dTx := sat32 (factoryTx p (d.rateCode p) + d.userTx p) }

/-- CAL_STATUS.SAT (R86). -/
def Dev.calSat (d : Dev) (p : Nat) : Bool :=
  [d.userRx p, d.userTx p, factoryRx p (d.rateCode p) + d.userRx p, factoryTx p (d.rateCode p) + d.userTx p].any
    (fun x => sat32 x != x)

/-- The calibration in force for frames of a port (R87). -/
def Dev.calEff (d : Dev) (p : Nat) : CalEff := (SMap.get? d.cal.eff p).getD (d.calNow p)

/-- A change of a port's calibration or rate code: sampled in this tick, in force from the start of the second tick after it,
and the digest is formed anew (R87). -/
def Dev.calChange (d : Dev) (p : Nat) (new : CalEff) (old : CalEff) : Dev :=
  { d with cal := { d.cal with eff := if SMap.has d.cal.eff p then d.cal.eff else SMap.put d.cal.eff p old
                               due := d.cal.due ++ [(d.tk.etick, p, new)] } }

/-- The 153 bytes under the calibration digest: nine bytes per port, 0 to 16 (R87). -/
def Dev.calBytes (d : Dev) : Bytes :=
  (List.range 17).flatMap (fun p =>
    [BitVec.ofNat 8 (d.calEff p).rate] ++ leBytes 4 (twos 32 (d.calEff p).dRx) ++ leBytes 4 (twos 32 (d.calEff p).dTx))

/-- The digest of the values in force. -/
def Dev.calDigest (d : Dev) : Dev := { d with cal := { d.cal with digest := Config.shake256 d.calBytes 8 } }

/-- Changes that are due take force, two ticks after their sampling (R87). -/
def Dev.calDue (d : Dev) : Dev :=
  let now := d.cal.due.filter (fun x => decide (x.1 + 2 ≤ d.tk.etick))
  if now = [] then d
  else
    ({ d with cal := { d.cal with eff := now.foldl (fun (m : SMap CalEff) (x : Nat × Nat × CalEff) => SMap.put m x.2.1 x.2.2) d.cal.eff
                                  due := d.cal.due.filter (fun x => !decide (x.1 + 2 ≤ d.tk.etick)) } }).calDigest

/-- CAL_USER_WRITE (R85-R87): `which` 0 CABLE, 1 ASYMMETRY, 2 TX_CORR, 3 RX_CORR of a port 0 to 16. -/
def Dev.calUser (d : Dev) (p which value : Nat) : Dev :=
  let old := d.calEff p
  let e := d.wr (if which = 0 then R.CAL_CABLE else if which = 1 then R.CAL_ASYM else if which = 2 then R.CAL_TX_CORR else R.CAL_RX_CORR)
    value p
  e.calChange p (e.calNow p) old

/-- CAL_USER_WRITE (R87). -/
def execCalUserWrite (req p which value : Nat) (s : State) : Host.Outcome State Fault Refusal :=
  .next (s.onDev (fun d => (d.sampleWrite req value).calUser p which value))

/-- The MGMT rate code changes (R84): 10, 11, 12 for SGMII at 1000, 100, 10 Mb/s. -/
def Dev.mgmtRateSet (d : Dev) (code : Nat) : Dev :=
  if d.cal.mgmtRate = code then d
  else
    let old := d.calEff 16
    let e := { d with cal := { d.cal with mgmtRate := code } }
    e.calChange 16 (e.calNow 16) old

/-- MGMT_SPEED_RESOLVE (R84): SGMII auto-negotiation resolves a speed (0: 1000, 1: 100, 2: 10 Mb/s); it acts under SGMII. -/
def execMgmtSpeedResolve (speed : Nat) (s : State) : Host.Outcome State Fault Refusal :=
  .next (s.onDev (fun d => d.when (d.cal.mgmtRate != 9) (fun e => e.mgmtRateSet (10 + min speed 2))))

end Sys2Proof.Machine
end

