-- ==== Sys2Proof/Machine/Capture.lean ====
section
/-!
DEFINITION. Chapter 12: capture candidates and records (R303-R307), streams, chunks and Skiver (R308-R313), telemetry banks, sketch,
histograms, flow counters (R314-R319).
-/
namespace Sys2Proof.Machine

/-! ## CRC-32C of the sketch -/

/-- One bit of a reflected CRC. -/
def crcBit (poly c : Nat) : Nat := if c % 2 = 1 then (c / 2) ^^^ poly else c / 2

/-- One byte of a reflected 32-bit CRC. -/
def crcByte (poly c : Nat) (b : Byte) : Nat :=
  crcBit poly (crcBit poly (crcBit poly (crcBit poly (crcBit poly (crcBit poly (crcBit poly (crcBit poly (c ^^^ b.toNat))))))))

/-- A reflected 32-bit CRC with an initial value and final complement. -/
def crc32 (poly init : Nat) (bs : Bytes) : Nat := (bs.foldl (crcByte poly) init) ^^^ 0xFFFFFFFF

/-- CRC-32C (Castagnoli) and CRC-32 (IEEE 802.3), reflected polynomials. -/
def polyC : Nat := 0x82F63B78
def polyE : Nat := 0xEDB88320

/-- The two hashes of R134 under a seed. -/
def hash0 (seed : Nat) (bs : Bytes) : Nat := crc32 polyC seed bs
def hash1 (seed : Nat) (bs : Bytes) : Nat := crc32 polyE (seed ^^^ 0xFFFFFFFF) bs

/-- A byte string padded with zeros, or cut, to `n` bytes. -/
def padTo (n : Nat) (bs : Bytes) : Bytes := slice bs 0 n

/-- A TIME96 in 12 bytes, little-endian: seconds, nanoseconds, sub-nanoseconds of a number of 2^-16 ns (R114, Table 9.4). -/
def time96Bytes (t : Nat) : Bytes :=
  let sec := 10 ^ 9 * 65536
  leBytes 6 (t / sec) ++ leBytes 4 (t % sec / 65536) ++ leBytes 2 (t % 65536)

/-- The number of 2^-16 ns of such 12 bytes. -/
def time96Of12 (b : Bytes) : Nat := leNat (slice b 0 6) * (10 ^ 9 * 65536) + leNat (slice b 6 4) * 65536 + leNat (slice b 10 2)


/-! ## Streams -/

def Dev.setCapt (d : Dev) (f : Capture → Capture) : Dev := { d with capt := f d.capt }

/-- A stream. -/
def Dev.stream (d : Dev) (s : Nat) : CaptStream := SMap.getD d.capt.streams s {}
def Dev.setStream (d : Dev) (s : Nat) (f : CaptStream → CaptStream) : Dev :=
  d.setCapt (fun c => { c with streams := SMap.upd c.streams s {} f })

/-- Bytes of raw records and of segments in a stream's share (R308). -/
def CaptStream.raw (x : CaptStream) : Nat := x.chunk.bytes.length + (x.closed.map (fun c => c.bytes.length)).sum
def CaptStream.used (x : CaptStream) : Nat := x.raw + (x.segs.map (fun g => g.length)).sum

/-- CS_STAGE_USED follows the share in use, in KiB. -/
def Dev.stageUsed (d : Dev) (s : Nat) : Dev := d.wr R.CS_STAGE_USED (((d.stream s).used + 1023) / 1024) s

/-- Bytes of a share that are free. -/
def Dev.stageFree (d : Dev) (s : Nat) : Nat := d.rd R.CS_STAGE s * 2 ^ 20 - (d.stream s).used

/-- LOSS_PENDING of a stream, in CS_STATUS and CP_STATUS. -/
def Dev.lossBit (d : Dev) (s : Nat) (b : Bool) : Dev :=
  (d.wr R.CS_STATUS_LOSS_PENDING (b2n b) s).wr R.CP_STATUS_LOSS_PENDING (setBit (d.rd R.CP_STATUS_LOSS_PENDING) s b)

/-- Close the open chunk of a stream, if it holds a record (R309). -/
def Dev.chunkClose (d : Dev) (s : Nat) : Dev :=
  if (d.stream s).chunk.records = 0 then d
  else (d.setStream s (fun x => { x with closed := x.closed ++ [x.chunk], chunk := {} })).setCapt (fun c => { c with order := c.order ++ [s] })

/-- Append a record to the stream's open chunk; the chunk closes first if the record would not fit (R309). -/
def Dev.chunkPut (d : Dev) (s : Nat) (r : Bytes) (loss : Bool) : Dev :=
  let e := if 131072 < (d.stream s).chunk.bytes.length + r.length then d.chunkClose s else d
  let e := e.setStream s (fun x =>
    { x with chunk := { bytes := x.chunk.bytes ++ r, records := x.chunk.records + 1, loss := x.chunk.loss || loss,
                        start := if x.chunk.records = 0 then d.cyc else x.chunk.start } })
  (e.wr R.CS_STATUS_IDLE 0 s).stageUsed s

/-- The LOSS record of a run (R305, R311): 48 bytes with padding. -/
def lossRecord (l : LossRun) : Bytes :=
  leBytes 2 48 ++ [0#8, 0x80#8] ++ time96Bytes l.first ++ leBytes 8 l.count ++ leBytes 2 0 ++ leBytes 2 12 ++ [0#8, 0#8, 0#8, 0#8] ++
    time96Bytes l.last ++ [0#8, 0#8, 0#8, 0#8]

/-- When space for at least 64 bytes has returned, the pending LOSS record is written (R311). -/
def Dev.lossWrite (d : Dev) (s : Nat) : Dev :=
  match (d.stream s).loss with
  | none => d
  | some l =>
    if d.stageFree s < 64 then d
    else (((d.setStream s (fun x => { x with loss := none })).chunkPut s (lossRecord l) true).count R.CS_LOSS_RECS 1 s).lossBit s false

/-- A record is dropped (R311). -/
def Dev.recordDrop (d : Dev) (s len stamp : Nat) : Dev :=
  let e := (d.count R.CS_DROP_REC 1 s).count R.CS_DROP_OCT len s
  match (d.stream s).loss with
  | some l => e.setStream s (fun x => { x with loss := some { l with last := stamp, count := l.count + 1 } })
  | none => ((e.setStream s (fun x => { x with loss := some ⟨stamp, stamp, 1⟩ })).lossBit s true).raise 11 (srcNum 0x18 s)

/-- The intake takes record bytes at 100 per ns (R308; log entry 12): busy until, and the new end after a record. -/
def Dev.intakeOk (d : Dev) : Bool := decide (d.capt.busy < (d.cyc + 8) * 1000)

/-- A record is offered to its stream (R308, R311). -/
def Dev.recordPut (d : Dev) (s : Nat) (r : Bytes) (stamp : Nat) : Dev :=
  if !d.on R.CS_CTRL_EN s then d
  else
    let e := d.lossWrite s
    if e.stageFree s < r.length || (e.stream s).loss.isSome || !e.intakeOk then e.recordDrop s r.length stamp
    else
      (((e.setCapt (fun c => { c with busy := max c.busy (d.cyc * 1000) + 10 * r.length })).chunkPut s r false).count R.CS_RECORDS 1
        s).count R.CS_REC_OCTETS r.length s

/-! ## Records (R305-R307) -/

/-- Captured length. -/
def Dev.snapLen (d : Dev) (p len : Nat) : Nat := if d.rd R.CF_SNAP p = 0 then len else min len (d.rd R.CF_SNAP p)

/-- The record of a candidate under profile `p` (Table 12.1). -/
def Dev.record (d : Dev) (p : Nat) (c : Cand) : Bytes :=
  let len := c.data.length
  let n := d.snapLen p len
  let total := (32 + n + 7) / 8 * 8
  let ns := d.on R.CF_CTRL_TS_1NS p
  let flags := b2n c.tx + 2 * b2n c.seq + 4 * b2n c.late + 8 * b2n (decide (n < len)) + 16 * b2n ns + 32 * b2n c.malf.isSome +
    64 * b2n c.macsec + 128 * b2n c.notSent
  padTo total
    (leBytes 2 total ++ [BitVec.ofNat 8 flags, BitVec.ofNat 8 (c.port % 16)] ++
      time96Bytes (if ns then c.stamp / 65536 * 65536 else c.stamp) ++ leBytes 8 (if c.seq then c.gsn else 0) ++ leBytes 2 len ++
      leBytes 2 n ++ [BitVec.ofNat 8 c.cls, BitVec.ofNat 8 p, BitVec.ofNat 8 (c.malf.getD 0), 0#8] ++ c.data.take n)

/-- Does arming let a candidate become a record (R307). -/
def Dev.armed (d : Dev) (p : Nat) (c : Cand) : Bool :=
  !d.on R.CF_CTRL_ARM_MODE p ||
    (match SMap.get? d.capt.windows p with
    | some w =>
      let t := if c.stamp = 0 then d.now16 else c.stamp
      decide (w.1 ≤ t ∧ t < w.2)
    | none => false)

/-- A fire of a trigger opens or restarts the window of every profile armed by it (R307); `at'` in 2^-16 ns. -/
def Dev.armWindows (d : Dev) (trig at' : Nat) : Dev :=
  ((List.range 256).filter (fun p => d.on R.CF_CTRL_ARM_MODE p && d.rd R.CF_CTRL_ARM_TRIG p == trig)).foldl (fun e p =>
    e.setCapt (fun c => { c with windows := SMap.put c.windows p (at', at' + d.rd R.CF_ARM_WIN p * 65536) })) d

/-! ## Telemetry (R314-R319) -/

/-- The sketch counters of a key: one in each row (R315). -/
def Dev.sketchIdx (d : Dev) (profile : Nat) (key : Bytes) : List Nat :=
  let x := [BitVec.ofNat 8 profile, BitVec.ofNat 8 key.length] ++ padTo 64 key
  (List.range 4).map (fun i => i * 2 ^ 20 + hash0 (d.rd R.SK_SEED 0 i) x % 2 ^ 20)

/-- The sketch of the active bank takes a candidate. -/
def Dev.sketchAdd (d : Dev) (c : Cand) : Dev :=
  let n := if d.on R.SK_UNIT then (c.data.length + 63) / 64 else 1
  (d.sketchIdx c.profile c.key).foldl (fun e i =>
    e.setCapt (fun x => { x with sketch := SMap.upd x.sketch (d.rd R.CP_BANK_ACTIVE * 2 ^ 22 + i) 0 (fun v => satAdd 32 v n) })) d

/-- The position of the highest one bit. -/
def log2 (n : Nat) : Nat := (bitsSet 64 n).getLast?.getD 0

/-- The bucket of a value (R317). -/
def histBucket (u : Nat) : Nat :=
  if u < 128 then u else if u < 2 ^ 36 then 64 * (log2 u - 5) + (u / 2 ^ (log2 u - 6) - 64) else 1984

/-- A histogram channel of the active bank counts a value. -/
def Dev.histAdd (d : Dev) (h u : Nat) : Dev :=
  let base := (d.rd R.CP_BANK_ACTIVE * 64 + h) * 2048
  d.setCapt (fun c =>
    { c with hist := SMap.upd (SMap.upd (SMap.upd c.hist (base + histBucket u) 0 (fun n => (n + 1) % 2 ^ 64)) (base + 2046) 0
        (fun n => (n + 1) % 2 ^ 64)) (base + 2047) 0 (fun n => (n + u) % 2 ^ 64) })

/-- A candidate of profile `p` carries value `u` of source `src`, in 2^-16 ns (R317). -/
def Dev.histValue (d : Dev) (p src : Nat) (u : Int) : Dev :=
  if d.on R.CP_CTRL && !d.inReset 0x18 && d.on R.CF_HIST_HG_EN p && d.rd R.HG_CTRL (d.rd R.CF_HIST_HG p) == src && decide (0 ≤ u) then
    d.histAdd (d.rd R.CF_HIST_HG p) (u.toNat / 4096)
  else d

/-- The flow counter of a candidate (R319). -/
def Dev.flowCount (d : Dev) (p : Nat) (c : Cand) : Dev :=
  let mode := d.rd R.CF_CTRL_FC_MODE p
  if mode = 0 ∨ mode = 3 then d
  else
    let idx := if mode = 1 then some (d.rd R.CF_FC_BASE p + c.queue) else c.cookie.map (fun k => d.rd R.CF_FC_BASE p + k % 2 ^ 20)
    match idx with
    | some i =>
      if i < 1048576 then
        d.setCapt (fun x => { x with flows := SMap.upd x.flows i (0, 0) (fun v => ((v.1 + 1) % 2 ^ 64, (v.2 + c.data.length) % 2 ^ 64)) })
      else d.count R.CP_FC_MISS
    | none => d.count R.CP_FC_MISS

/-- The telemetry that a candidate's profile enables; a malformed one feeds only histograms (R315, R319). -/
def Dev.telemetry (d : Dev) (p : Nat) (c : Cand) : Dev :=
  let e := if c.malf.isSome then d else (d.when (d.on R.CF_CTRL_SK_EN p) (fun e => e.sketchAdd c)).flowCount p c
  if c.tx then e
  else
    let k := p * 16 + c.port
    let e := match SMap.get? d.capt.prev k with
      | some t => e.histValue p 2 ((c.stamp : Int) - (t : Int))
      | none => e
    let e := e.setCapt (fun x => { x with prev := SMap.put x.prev k c.stamp })
    if c.seq then e.histValue p 1 ((d.now16 : Int) - (c.stamp : Int)) else e

/-- A capture candidate at its capture point (R303, R307); one offered while CAPT is in reset is discarded (R312). -/
def Dev.candidate (d : Dev) (p : Nat) (c : Cand) : Dev :=
  if !d.on R.CP_CTRL || d.inReset 0x18 then d
  else
    let e := d.count R.CP_CANDIDATES
    let e := if !d.on R.CF_CTRL_REC_EN p then e
      else if d.armed p c then e.recordPut (d.rd R.CF_CTRL_STREAM p) (d.record p c) c.stamp
      else e.count R.CP_UNARMED
    e.telemetry p c

/-! ## Commands on streams -/

/-- LOSS_RECORD (R311). -/
def execLossRecord (st : Nat) (s : State) : Host.Outcome State Fault Refusal := .next (s.onDev (fun d => d.lossWrite st))

/-- CHUNK_FLUSH (R309): CS_FLUSH has passed since the open chunk's first record. -/
def execChunkFlush (st : Nat) (s : State) : Host.Outcome State Fault Refusal :=
  .next (s.onDev (fun d =>
    if (d.stream st).chunk.start + d.rd R.CS_FLUSH st * 1000 < d.cyc + 8 then d.chunkClose st else d))

/-- The Zstandard frame of a chunk (R309, RFC 8878): descriptor with single segment, 4-byte content size and checksum; one
Compressed_Block, or one Raw_Block when compression is not smaller. -/
def zstdFrame (c : Bytes) : Bytes :=
  let z := Config.zstdBlock c
  let raw := decide (c.length ≤ z.length)
  let body := if raw then c else z
  leBytes 4 0xFD2FB528 ++ [0xA4#8] ++ leBytes 4 c.length ++ leBytes 3 (1 + (if raw then 0 else 4) + 8 * body.length) ++ body ++
    leBytes 4 (Config.xxh64 c % 2 ^ 32)

/-- The segment of a stored chunk (R310, Table 12.2). -/
def captSegment (st segNo : Nat) (comp : Bool) (c : Chunk) (payload : Bytes) : Bytes :=
  let h : Bytes := [0x43#8, 0x41#8, 0x50#8, 0x53#8, 1#8, BitVec.ofNat 8 (st + 8 * b2n comp + 16 * b2n c.loss), 0#8, 0#8] ++
    leBytes 4 c.records ++ leBytes 4 payload.length ++ leBytes 4 c.bytes.length ++ leBytes 4 0 ++ leBytes 8 segNo
  padTo ((32 + payload.length + 63) / 64 * 64) (h ++ payload)

/-- IDLE sets once a disabled stream holds no raw record (R313). -/
def Dev.streamIdle (d : Dev) (s : Nat) : Dev :=
  if !d.on R.CS_CTRL_EN s && (d.stream s).raw == 0 then d.flag R.CS_STATUS_IDLE s else d

/-- A closed chunk of stream `s` becomes a segment. -/
def Dev.segmentMake (d : Dev) (s : Nat) (c : Chunk) : Dev :=
  let comp := d.on R.CS_CTRL_COMPRESS s
  let payload := if comp then zstdFrame c.bytes else c.bytes
  let g := captSegment s (d.stream s).segNo comp c payload
  let e := d.setStream s (fun x => { x with segs := x.segs ++ [g], segNo := x.segNo + 1 })
  let e := (e.count R.CS_SEGMENTS 1 s).count R.CS_OUT_OCTETS g.length s
  let e := if comp then
      (((e.count R.SK_IN_OCTETS c.bytes.length).count R.SK_OUT_OCTETS payload.length).count R.SK_FRAMES).when
        (decide (c.bytes.length ≤ (Config.zstdBlock c.bytes).length)) (fun x => x.count R.SK_RAW_BLOCKS)
    else e
  (e.stageUsed s).streamIdle s

/-- SKIVER_COMPRESS (R309, R310): the chunk that closed first is compressed, or stored as it is with COMPRESS = 0. -/
def execSkiverCompress (s : State) : Host.Outcome State Fault Refusal :=
  .next (s.onDev (fun d =>
    match d.capt.order with
    | [] => d
    | st :: rest =>
      let e := d.setCapt (fun c => { c with order := rest })
      match (d.stream st).closed with
      | [] => e
      | c :: cs => (e.setStream st (fun x => { x with closed := cs })).segmentMake st c))

/-- STREAM_DISABLE (R313): EN clears, the open chunk closes, IDLE sets once no raw record remains. -/
def Dev.streamStop (d : Dev) (st : Nat) : Dev := ((d.wr R.CS_CTRL_EN 0 st).chunkClose st).streamIdle st

/-- STREAM_DISABLE (R313). -/
def execStreamDisable (req st : Nat) (s : State) : Host.Outcome State Fault Refusal :=
  .next (s.onDev (fun d => (d.sampleWrite req 0).streamStop st))

/-- The cause that refuses a write to CS_CTRL, CS_TARGET or CS_STAGE, 0 for none (R313): `dest` and `stage` as written. -/
def Dev.streamCause (d : Dev) (st dest stage target : Nat) : Nat :=
  let others := ((List.range 8).filter (· != st)).map (fun x => d.rd R.CS_STAGE x)
  if d.on R.CS_CTRL_EN st || decide ((d.stream st).used ≠ 0) then 1
  else if d.hbmc.capture * 1024 - 32 < others.sum + stage then 2
  else if dest = 3 ∨ (dest = 2 ∧ (¬ d.unit 2 ∨ (d.rd R.HD_DRAIN = 2 ∧ d.objNat 0x3410 2 0 = target))) then 3
  else 0

/-! ## Banks -/

/-- A SWAP or CLEAR refused. -/
def Dev.captRefused (d : Dev) (cause : Nat) : Dev := (d.flag R.CP_STATUS_WR_REFUSED).wr R.CP_STATUS_CAUSE cause

/-- Is a SWAP or CLEAR refused (R314). -/
def Dev.captBusy (d : Dev) : Bool := d.on R.CP_BANK_SWAP_PENDING || d.on R.CP_BANK_CLEAR_BUSY

/-- A SWAP acts at the start of the next tick (R314). -/
def Dev.captSwap (d : Dev) (cls src : Nat) : Dev :=
  if d.captBusy then d.captRefused 1 else (d.flag R.CP_BANK_SWAP_PENDING).postAct cls src .captSwap

/-- The boundary of a SWAP. -/
def Dev.captSwitch (d : Dev) : Dev :=
  ((d.wr R.CP_BANK_ACTIVE (1 - d.rd R.CP_BANK_ACTIVE)).wr R.CP_BANK_SWAP_PENDING 0).wr R.CP_SWAP_TICK d.tk.etick

/-- BANK_SWAP (R314). -/
def execBankSwap (req : Nat) (s : State) : Host.Outcome State Fault Refusal :=
  .next (s.onDev (fun d => (d.sampleWrite req 2).captSwap 9 (srcNum (reqIsland req) 0)))

/-- CLEAR begins (R314). -/
def Dev.captClear (d : Dev) : Dev := if d.captBusy then d.captRefused 1 else d.flag R.CP_BANK_CLEAR_BUSY

/-- BANK_CLEAR (R314). -/
def execBankClear (req : Nat) (s : State) : Host.Outcome State Fault Refusal := .next (s.onDev (fun d => (d.sampleWrite req 4).captClear))

/-- The frozen bank. -/
def Dev.frozen (d : Dev) : Nat := 1 - d.rd R.CP_BANK_ACTIVE

/-- The frozen bank is zero. -/
def Dev.captCleared (d : Dev) : Dev :=
  let b := d.frozen
  (d.setCapt (fun c => { c with sketch := c.sketch.filter (fun e => e.1 / 2 ^ 22 != b)
                                hist := c.hist.filter (fun e => e.1 / (64 * 2048) != b) })).wr R.CP_BANK_CLEAR_BUSY 0

/-- BANK_CLEAR_DONE (R314). -/
def execBankClearDone (s : State) : Host.Outcome State Fault Refusal :=
  .next (s.onDev (fun d => if d.on R.CP_BANK_CLEAR_BUSY then d.captCleared else d))

/-- The least of a key's counters in the frozen bank, and whether one is saturated (R315). -/
def Dev.sketchQuery (d : Dev) (profile : Nat) (key : Bytes) : Nat × Bool :=
  let vs := (d.sketchIdx profile key).map (fun i => SMap.getD d.capt.sketch (d.frozen * 2 ^ 22 + i) 0)
  (vs.foldl min (2 ^ 32 - 1), vs.any (· == 2 ^ 32 - 1))

/-- SK_QUERY (R315): the requester's staged key. -/
def execSkQuery (req : Nat) (s : State) : Host.Outcome State Fault Refusal :=
  .next (s.onDev (fun d =>
    let key := ((List.range 16).flatMap (fun i => leBytes 4 (d.rd R.SK_QKEY 0 i req))).take (d.rd R.SK_QARG_KL 0 0 req)
    let r := d.sketchQuery (d.rd R.SK_QARG_PROFILE 0 0 req) key
    (((d.sampleWrite req 1).wr R.SK_QRESULT r.1 0 0 req).wr R.SK_QSTATUS_SAT (b2n r.2) 0 0 req)))

/-- Zero the flow counters of a range (R319). -/
def Dev.flowClear (d : Dev) (first count : Nat) : Dev :=
  d.setCapt (fun c => { c with flows := c.flows.filter (fun e => !decide (first ≤ e.1 ∧ e.1 < first + count)) })

/-- FLOW_CLEAR (R319). -/
def execFlowClear (first count : Nat) (s : State) : Host.Outcome State Fault Refusal := .next (s.onDev (fun d => d.flowClear first count))

/-- A reset of G7 (R312): raw records and open chunks go; sketch, histograms and banks are zero; each run of losses begins anew. -/
def Dev.captReset (d : Dev) : Dev :=
  d.setCapt (fun c => { c with sketch := [], hist := [], prev := [], windows := [], order := []
                               streams := c.streams.map (fun e => (e.1, { e.2 with chunk := {}, closed := [], loss := none })) })

/-- The exit of G7 from reset (R312): each enabled stream writes a LOSS record of unknown count for the reset from `t0` to now. -/
def Dev.captExit (d : Dev) (t0 : Nat) : Dev :=
  let e := d.count R.CP_RESET_LOSS
  ((List.range 8).filter (fun s => e.on R.CS_CTRL_EN s)).foldl (fun e s =>
    ((e.setStream s (fun x => { x with loss := some ⟨t0, d.now16, 2 ^ 64 - 1⟩ })).lossBit s true).lossWrite s) e

end Sys2Proof.Machine
end

