-- ==== Sys2Proof/Machine/HostIf.lean ====
section
/-!
DEFINITION. Chapters 8 and 9, what the other units use of HOST: functions and their service (R200-R202, R215), posted
writes, MSI-X messages (R207), event queues and their notifications (R236-R241), ring numbers and frames to deliver (R140, R228).
-/
namespace Sys2Proof.Machine

/-! ## Functions -/

/-- Replace HOST's own state. -/
def Dev.setHost (d : Dev) (f : HostState → HostState) : Dev := { d with host := f d.host }

/-- A function's state. -/
def Dev.fn (d : Dev) (n : Nat) : FnState := SMap.getD d.host.fns n {}
def Dev.setFn (d : Dev) (n : Nat) (f : FnState → FnState) : Dev :=
  d.setHost (fun h => { h with fns := SMap.upd h.fns n {} f })

/-- The type of a function: 0 Management, 1 Network, 2 NVMe, 3 Evidence (Table 8.2, R201). -/
def Dev.fnType (d : Dev) (n : Nat) : Nat :=
  let pf := d.fnPf n
  if pf = 0 then (if n = 0 then 0 else 1) else if pf ≤ 4 then 1 else if pf ≤ 6 then 2 else 3

/-- The number of functions: 8 and the sum of TotalVFs (Table 8.9). -/
def Dev.fnNum (d : Dev) : Nat := 8 + d.host.vfs.sum

/-- FN_INFO.PRESENT: the PF is implemented, or the VF enabled. -/
def Dev.fnPresent (d : Dev) (n : Nat) : Bool :=
  decide (n < d.fnNum) && (d.fnType n != 2 || d.unit 2) && (decide (n < 8) || decide (d.fnVf n ≤ (d.fn (d.fnPf n)).vfEn))

/-- Is a function in service: not disabled, or returned (R215). -/
def Dev.inService (d : Dev) (n : Nat) : Bool := d.fnPresent n && !d.fnOut.contains n && !d.on R.FN_STATUS_DISABLING n

/-- Is HOST in reset. -/
def Dev.hostReset (d : Dev) : Bool := d.rst.active.contains 2

/-- A posted write enters HOST's outbound queue; a function out of service writes nothing (R215). -/
def Dev.hostWrite (d : Dev) (n addr : Nat) (b : Bytes) : Dev :=
  if d.hostReset || d.fnOut.contains n then d else d.setHost (fun h => { h with out := h.out ++ [⟨n, addr % 2 ^ 64, b⟩] })

/-- Issue a host memory read. -/
def Dev.hostRead (d : Dev) (n : Nat) (w : ReadFor) (addr len : Nat) : Dev :=
  d.setHost (fun h => { h with reads := h.reads ++ [⟨h.nextRead, n, w, addr, len, d.tk.etick⟩], nextRead := h.nextRead + 1 })

/-! ## MSI-X (R207) -/

/-- The MSI-X table size of a function in force. -/
def Dev.msixSize (d : Dev) (n : Nat) : Nat := (if n < 8 then d.host.pfMsix else d.host.vfMsix).getD (d.fnPf n) 0

/-- A table entry; one never written is masked (PCI Express Base Specification; log entry 10). -/
def Dev.msixEntry (d : Dev) (n v : Nat) : Bytes :=
  SMap.getD (d.fn n).table v (List.replicate 12 0#8 ++ [1#8, 0#8, 0#8, 0#8])

/-- Is a vector masked, by its own entry or the function. -/
def Dev.msixMasked (d : Dev) (n v : Nat) : Bool := (d.fn n).mask || (byteAt (d.msixEntry n v) 12).testBit 0

/-- Send the message of a table entry as it stands. -/
def Dev.msixSend (d : Dev) (n v : Nat) : Dev := d.hostWrite n (le64 (d.msixEntry n v) 0) (slice (d.msixEntry n v) 8 4)

/-- Signal a vector: send, or pend while masked; nothing while MSI-X Enable = 0 or the function is out of service. -/
def Dev.msix (d : Dev) (n v : Nat) : Dev :=
  if !d.on R.FN_INFO_MSIX_EN n || d.fnOut.contains n then d
  else if d.msixMasked n v then d.setFn n (fun f => if f.pba.contains v then f else { f with pba := f.pba ++ [v] })
  else d.msixSend n v

/-! ## Allocations (R218) -/

/-- The function whose range holds a device number, by its base and count fields. -/
def Dev.ownerOf (d : Dev) (base count : Field) (x : Nat) : Option Nat :=
  ((d.regs.chans count).filter (fun f => decide (d.rd base f ≤ x ∧ x < d.rd base f + d.rd count f))).head?

def Dev.ringOwner (d : Dev) (r : Nat) : Option Nat := d.ownerOf R.FN_RING_BASE R.FN_RING_COUNT r
def Dev.eqOwner (d : Dev) (q : Nat) : Option Nat := d.ownerOf R.FN_EQ_BASE R.FN_EQ_COUNT q
def Dev.qpOwner (d : Dev) (q : Nat) : Option Nat := d.ownerOf R.FN_QP_BASE R.FN_QP_COUNT q

/-! ## Event queues -/

/-- Size of an index with lap bit of 2^n entries. -/
def lapMod (n : Nat) : Nat := 2 ^ (n + 1)

/-- The distance from `b` up to `a` in such indices. -/
def lapSub (n a b : Nat) : Nat := (a + lapMod n - b % lapMod n) % lapMod n

/-- The lap bit of an index. -/
def lapBit (n i : Nat) : Nat := (i >>> n) % 2

def Dev.eqN (d : Dev) (q : Nat) : Nat := d.rd R.EQ_CFG_LOG2_SIZE q

/-- Is an event queue full (R236). -/
def Dev.eqFull (d : Dev) (q : Nat) : Bool := lapSub (d.eqN q) (d.rd R.EQ_PI q) (d.rd R.EQ_CI q) == 2 ^ d.eqN q

/-- EQ_STATUS.FULL follows the indices. -/
def Dev.eqFullBit (d : Dev) (q : Nat) : Dev := d.wr R.EQ_STATUS_FULL (b2n (d.eqFull q)) q

/-- The queue's vector is signalled after a notification (R241). -/
def Dev.eqSignal (d : Dev) (q owner : Nat) : Dev :=
  if !d.on R.EQ_CTRL_INT_EN q then d
  else
    let mod := d.rd R.EQ_CFG_MOD q
    match SMap.get? d.host.timers q with
    | some t => d.setHost (fun h => { h with timers := SMap.put h.timers q { t with wrote := true } })
    | none =>
      let e := d.msix owner (d.rd R.EQ_CFG_VECTOR q)
      if mod = 0 then e else e.setHost (fun h => { h with timers := SMap.put h.timers q ⟨8 * d.tk.etick + mod * 100, false⟩ })

/-- What became of a notification. -/
inductive Posted where
  | written | full | discarded | noHost
  deriving DecidableEq, Repr

/-- Write a notification of 15 bytes and kind to a device event queue (R236, R238, R242): to an enabled queue with space it is
written as two posted writes and signalled; a full queue counts EQ_OVF; a queue that is not enabled discards it. While G2
is in reset it never reaches HOST. -/
def Dev.eqPost (d : Dev) (q kind : Nat) (b : Bytes) : Posted × Dev :=
  if d.hostReset then (.noHost, d)
  else if !d.on R.EQ_CTRL_ENABLE q then (.discarded, d.countSat R.EQ_DISCARD 1 q)
  else if d.eqFull q then (.full, (d.countSat R.EQ_OVF 1 q).flag R.EQ_STATUS_OVF_PENDING q)
  else
    let n := d.eqN q
    let i := d.rd R.EQ_PI q
    let a := d.rd R.EQ_BASE_HI q <<< 32 + d.rd R.EQ_BASE_LO q <<< 12 + 16 * (i % 2 ^ n)
    let owner := (d.eqOwner q).getD 0
    let x := slice b 0 15 ++ [BitVec.ofNat 8 (kind + 128 * (1 - lapBit n i))]
    let e := (d.hostWrite owner a (x.take 12)).hostWrite owner (a + 12) (x.drop 12)
    (.written, ((e.wr R.EQ_PI ((i + 1) % lapMod n) q).eqFullBit q).eqSignal q owner)

/-! ## Rings -/

def Dev.ringN (d : Dev) (r : Nat) : Nat := d.rd R.RG_CFG_LOG2_SIZE r

/-- A ring's own state. -/
def Dev.ring (d : Dev) (r : Nat) : RingState := SMap.getD d.host.rings r {}
def Dev.setRing (d : Dev) (r : Nat) (f : RingState → RingState) : Dev :=
  d.setHost (fun h => { h with rings := SMap.upd h.rings r {} f })

/-- The function-local number of a device ring. -/
def Dev.ringLocal (d : Dev) (r : Nat) : Nat :=
  match d.ringOwner r with
  | some f => r - d.rd R.FN_RING_BASE f
  | none => 0

/-- The device event queue that a ring notifies (R237). -/
def Dev.ringEq (d : Dev) (r : Nat) : Option Nat :=
  if !d.on R.RG_CFG_EQ_EN r then none
  else (d.ringOwner r).map (fun f => d.rd R.FN_EQ_BASE f + d.rd R.RG_CFG_EQ r)

/-- Write a RING notification; one that finds its queue full leaves NOTIFY_PENDING (R237, R238). -/
def Dev.ringNotify (d : Dev) (r : Nat) : Dev :=
  match d.ringEq r with
  | none => d
  | some q =>
    if d.on R.RG_STATUS_NOTIFY_PENDING r then d
    else
      let b := leBytes 4 (d.ringLocal r) ++ leBytes 4 (d.rd R.RG_CI r) ++ leBytes 4 (d.rd R.RG_CPL_COUNT r)
      let p := d.eqPost q 1 b
      if p.1 = .full then p.2.flag R.RG_STATUS_NOTIFY_PENDING r else p.2

/-- A ring enters error (R235): the first cause and its index stand, the class 11 event, the RING_ERROR notification. -/
def Dev.ringError (d : Dev) (r cause idx : Nat) : Dev :=
  if d.on R.RG_STATUS_ERR r then d
  else
    let e := ((((d.flag R.RG_STATUS_ERR r).wr R.RG_STATUS_ERR_CAUSE cause r).wr R.RG_ERR_IDX idx r).raise 11 (srcNum 0x0B 2) r)
    match d.ringEq r with
    | none => e
    | some q =>
      (e.eqPost q 5 (leBytes 2 (d.ringLocal r) ++ [BitVec.ofNat 8 cause, 0#8] ++ leBytes 4 idx)).2

/-- Can a frame be delivered to local ring `n` of a function (R140): the function is in service and the ring an enabled receive
ring of its allocation. -/
def Dev.ringFor (d : Dev) (fn n : Nat) : Option Nat :=
  if d.inService fn && decide (n < d.rd R.FN_RING_COUNT fn) then
    let r := d.rd R.FN_RING_BASE fn + n
    if d.on R.RG_CTRL_ENABLE r && d.rd R.RG_CFG_TYPE r == 1 then some r else none
  else none

/-- Queue a frame for delivery to a device ring (R228). -/
def Dev.rxQueue (d : Dev) (r : Nat) (x : RxItem) : Dev :=
  d.setHost (fun h => { h with rx := SMap.upd h.rx r [] (fun l => l ++ [x]) })

/-- A DISP 0 frame of source `src` without a ring to take it: CL_RING_MISS, and with it PR_DROP_OTHER (R140, Table 5.3). -/
def Dev.ringMiss (d : Dev) (src : Nat) : Dev := (d.countSat R.CL_RING_MISS).count R.PR_DROP_OTHER 1 0 src

end Sys2Proof.Machine
end

