-- ==== Sys2Proof/Machine/Tables.lean ====
section
/-!
DEFINITION. Chapter 6: hashes and relocation (R134, R157), the flow and MAC tables and their update engine (R151-R159), learning
(R160-R166), ageing (R167, R168), longest-prefix match (R169-R174).
-/
namespace Sys2Proof.Machine

/-! ## Hashes and two-choice tables -/

/-- The first empty way of a bucket of 4. -/
def freeWay {α : Type} (m : SMap α) (b : Nat) : Option Nat := ([0, 1, 2, 3].map (4 * b + ·)).find? (fun s => !SMap.has m s)

/-- The occupied slots of a bucket. -/
def bucketSlots {α : Type} (m : SMap α) (b : Nat) : List Nat := ([0, 1, 2, 3].map (4 * b + ·)).filter (SMap.has m)

/-- Free a slot in bucket `b` by moving residents to their alternate buckets, at most `n` moves, each entry first written into
its new slot (R157); the slot, the slots written in order, the table after. Which resident moves is free (log entry 11). -/
def relocate {α : Type} (bk : α → Nat × Nat) (touch : α → α) : Nat → SMap α → Nat → Option (Nat × List Nat × SMap α)
  | 0, m, b => (freeWay m b).map (fun s => (s, [], m))
  | n + 1, m, b =>
    match freeWay m b with
    | some s => some (s, [], m)
    | none =>
      let s := 4 * b + Config.relocWay n b % 4
      match SMap.get? m s with
      | none => none
      | some v =>
        let alt := if (bk v).1 = b then (bk v).2 else (bk v).1
        if alt = b then none
        else
          match relocate bk touch n m alt with
          | none => none
          | some (s', moved, m') =>
            if SMap.has m' s then some (s, moved ++ [s', s], SMap.del (SMap.put m' s' (touch v)) s) else some (s, moved, m')

/-- A slot for a new key: free in either bucket, or freed by relocation within 128 moves (R136, R155). -/
def findSlot {α : Type} (bk : α → Nat × Nat) (touch : α → α) (m : SMap α) (b0 b1 : Nat) : Option (Nat × List Nat × SMap α) :=
  match freeWay m b0, freeWay m b1 with
  | some s, _ => some (s, [], m)
  | none, some s => some (s, [], m)
  | none, none =>
    let (x, y) := if Config.relocSecond b0 b1 then (b1, b0) else (b0, b1)
    match relocate bk touch 128 m x with
    | some r => some r
    | none => relocate bk touch 128 m y

/-- Write counts of buckets rise for each slot written, modulo 2^16 (R157). -/
def bumpVer (v : SMap Nat) (slots : List Nat) : SMap Nat :=
  slots.foldl (fun (m : SMap Nat) s => SMap.upd m (s / 4) 0 (fun x => (x + 1) % 65536)) v

/-- Replace the tables. -/
def Dev.setTab (d : Dev) (f : Tables → Tables) : Dev := { d with tab := f d.tab }

/-! ## Flow table (R151, R152) -/

/-- The two buckets of a flow key. -/
def Dev.flowBuckets (d : Dev) (profile : Nat) (key : Bytes) : Nat × Nat :=
  let x := BitVec.ofNat 8 profile :: padTo 40 key
  (hash0 (d.rd R.FT_SEED) x % 2 ^ 22, hash1 (d.rd R.FT_SEED) x % 2 ^ 22)

/-- The slot of a valid flow entry. -/
def Dev.flowFind (d : Dev) (profile kl : Nat) (key : Bytes) : Option Nat :=
  let b := d.flowBuckets profile key
  (bucketSlots d.tab.flow b.1 ++ bucketSlots d.tab.flow b.2).find? (fun s =>
    match SMap.get? d.tab.flow s with
    | some e => e.profile == profile && e.kl == kl && e.key == padTo 40 key
    | none => false)

/-- FLAGS bits of a flow entry. -/
def fHit : Nat := 0
def fStatic : Nat := 1
def fDrop : Nat := 2
def fQueue : Nat := 3
def fPin : Nat := 4
def fBridge : Nat := 5

/-- Set an entry's HIT. -/
def FlowEntry.touch (e : FlowEntry) : FlowEntry := { e with flags := setBit e.flags fHit true }

/-- FT_USED and FT_PINNED follow the table. -/
def Dev.flowCounts (d : Dev) : Dev :=
  (d.wr R.FT_USED d.tab.flow.length).wr R.FT_PINNED (d.tab.flow.filter (fun e => bit e.2.flags fPin)).length

/-- Take a slot out of the flow cache. -/
def cacheDrop (c : SMap (List Nat)) (s : Nat) : SMap (List Nat) :=
  SMap.upd c (Config.flowCacheSet s) [] (fun l => l.filter (· != s))

/-- Put a slot first in its cache set; beyond 8 ways the least recently hit unpinned slot leaves, and where all 8 are pinned
nothing enters (R152). -/
def Dev.cachePut (d : Dev) (s : Nat) : SMap (List Nat) :=
  let set := Config.flowCacheSet s
  let l := (SMap.getD d.tab.cache set []).filter (· != s)
  let pinned (x : Nat) : Bool := ((SMap.get? d.tab.flow x).map (fun e => bit e.flags fPin)).getD false
  if l.length < 8 then SMap.put d.tab.cache set (s :: l)
  else
    match l.reverse.find? (fun x => !pinned x) with
    | some v => SMap.put d.tab.cache set (s :: l.filter (· != v))
    | none => d.tab.cache

/-- Insert a new flow entry; `none` when the table is full. The moves made and the device after. -/
def Dev.flowInsert (d : Dev) (e : FlowEntry) : Option (Nat × Dev) :=
  let b := d.flowBuckets e.profile e.key
  match findSlot (fun x => d.flowBuckets x.profile x.key) FlowEntry.touch d.tab.flow b.1 b.2 with
  | none => none
  | some (s, moved, m) =>
    let d1 := d.setTab (fun t => { t with flow := SMap.put m s e, flowVer := bumpVer t.flowVer (moved ++ [s]),
                                          cache := moved.foldl cacheDrop t.cache })
    let pins := moved.filter (fun x => ((SMap.get? d1.tab.flow x).map (fun e => bit e.flags fPin)).getD false)
    let d2 := pins.foldl (fun x p => x.setTab (fun t => { t with cache := x.cachePut p })) d1
    let d3 := if bit e.flags fPin then d2.setTab (fun t => { t with cache := d2.cachePut s }) else d2
    some (moved.length / 2, d3.flowCounts)

/-- Remove a flow entry. -/
def Dev.flowRemove (d : Dev) (s : Nat) : Dev :=
  (d.setTab (fun t => { t with flow := SMap.del t.flow s, flowVer := bumpVer t.flowVer [s], cache := cacheDrop t.cache s })).flowCounts

/-- A flow lookup of a frame (R151-R153): the entry, with HIT set; cache and counters. -/
def Dev.flowLookup (d : Dev) (profile kl : Nat) (key : Bytes) : Option FlowEntry × Dev :=
  if 40 < kl ∨ ¬ d.on R.FT_STATUS_FT_READY then (none, d.count R.FT_LOOKUP_MISS)
  else
    match d.flowFind profile kl key with
    | none => (none, (d.count R.FT_CACHE_MISS).count R.FT_LOOKUP_MISS)
    | some s =>
      let cached := (SMap.getD d.tab.cache (Config.flowCacheSet s) []).contains s
      let e := (d.count (if cached then R.FT_CACHE_HIT else R.FT_CACHE_MISS)).setTab (fun t =>
        { t with flow := (match SMap.get? t.flow s with
                          | some x => SMap.put t.flow s x.touch
                          | none => t.flow), cache := d.cachePut s })
      (SMap.get? d.tab.flow s, e)

/-! ## MAC table (R154) -/

/-- The two buckets of a MAC key. -/
def Dev.macBuckets (d : Dev) (addr fid : Nat) : Nat × Nat :=
  let x := beBytes 6 addr ++ beBytes 2 fid
  (hash0 (d.rd R.MT_SEED) x % 2 ^ 19, hash1 (d.rd R.MT_SEED) x % 2 ^ 19)

/-- The slot of a MAC key. -/
def Dev.macFind (d : Dev) (addr fid : Nat) : Option Nat :=
  if !d.on R.FT_STATUS_MT_READY then none
  else
    let b := d.macBuckets addr fid
    (bucketSlots d.tab.mac b.1 ++ bucketSlots d.tab.mac b.2).find? (fun s =>
      match SMap.get? d.tab.mac s with
      | some e => e.addr == addr && e.fid == fid
      | none => false)

/-- Change a MAC entry. -/
def Dev.macUpd (d : Dev) (s : Nat) (f : MacEntry → MacEntry) : Dev :=
  match SMap.get? d.tab.mac s with
  | some e => d.setTab (fun t => { t with mac := SMap.put t.mac s (f e) })
  | none => d

/-- MT_USED follows the table. -/
def Dev.macCounts (d : Dev) : Dev := d.wr R.MT_USED d.tab.mac.length

/-- Insert a new MAC entry. -/
def Dev.macInsert (d : Dev) (e : MacEntry) : Option (Nat × Dev) :=
  let b := d.macBuckets e.addr e.fid
  match findSlot (fun x => d.macBuckets x.addr x.fid) (fun x : MacEntry => { x with hit := true }) d.tab.mac b.1 b.2 with
  | none => none
  | some (s, moved, m) =>
    some (moved.length / 2,
      (d.setTab (fun t => { t with mac := SMap.put m s e, macVer := bumpVer t.macVer (moved ++ [s]) })).macCounts)

/-- Remove a MAC entry. -/
def Dev.macRemove (d : Dev) (s : Nat) : Dev :=
  (d.setTab (fun t => { t with mac := SMap.del t.mac s, macVer := bumpVer t.macVer [s] })).macCounts

/-! ## Learning (R160-R165) -/

/-- Export a notification of Table 6.5 (R165): bytes 0 to 9, then the tick. -/
def Dev.learnExport (d : Dev) (on : Bool) (b : Bytes) : Dev :=
  if !on then d
  else
    let p := (d.raise 11 (srcNum 0x06 17)).eqPost (d.rd R.LN_EXPORT_EQ) 3 (padTo 10 b ++ leBytes 5 d.tk.etick)
    if p.1 = .full ∨ p.1 = .noHost then p.2.count R.LN_EXPORT_LOST else p.2

/-- Export a MAC outcome: type, requesting or current port, previous port. -/
def Dev.macExport (d : Dev) (ty port prev : Nat) (addr fid : Nat) : Dev :=
  d.learnExport (d.on R.LN_EXPORT_EN_MAC)
    ([BitVec.ofNat 8 ty, BitVec.ofNat 8 (port + 16 * prev)] ++ leBytes 2 fid ++ beBytes 6 addr)

/-- Export a flow outcome: type and slot. -/
def Dev.flowExport (d : Dev) (ty slot profile kl : Nat) : Dev :=
  d.learnExport (d.on R.LN_EXPORT_EN_FLOW)
    ([BitVec.ofNat 8 ty, 0#8] ++ leBytes 4 slot ++ [BitVec.ofNat 8 profile, BitVec.ofNat 8 kl])

/-- A learn request enters its FIFO: absorbed by one for the same key and port, discarded when 4,096 wait (R161). -/
def learnPush {α : Type} [DecidableEq α] (l : List (LearnReq α)) (x : LearnReq α) : Option (List (LearnReq α)) :=
  if l.any (fun y => y.port == x.port && decide (y.key = x.key)) then some l
  else if l.length < 4096 then some (l ++ [x]) else none

/-- The FID of a frame: the outer tag's VID if not zero, else the port's PVID, zero for source 16 (R154). -/
def Dev.fidOf (d : Dev) (src vid : Nat) : Nat := if vid ≠ 0 then vid else if src < 16 then d.rd R.LN_PORT_PVID src else 0

/-- The source lookup of a frame at its end (R160): HIT on a hit on the same port, else a class 7 learn request. `pipe` is the
pipeline that parsed the frame. -/
def Dev.macLearn (d : Dev) (p pipe addr fid : Nat) : Dev :=
  if !d.on R.LN_CTRL_MAC_EN || !d.on R.LN_PORT_EN p || addr == 0 || addr.testBit 40 then d
  else
    let src := srcNum (6 + pipe) (p % 4)
    let hitPort := (d.macFind addr fid).bind (fun s => (SMap.get? d.tab.mac s).map (·.port))
    if hitPort = some p then
      (match d.macFind addr fid with
      | some s => d.macUpd s (fun e => { e with hit := true })
      | none => d)
    else
      let e := d.raise 7 src addr
      match learnPush d.tab.macFifo ⟨d.tk.etick, src, p, (addr, fid)⟩ with
      | some l => e.setTab (fun t => { t with macFifo := l })
      | none => e.count R.LN_FIFO_DROP

/-- A DISP 2 frame that missed raises a flow learn request (R164). -/
def Dev.flowLearn (d : Dev) (p pipe profile kl : Nat) (key : Bytes) : Dev :=
  if !d.on R.LN_CTRL_FLOW_EN || !bit (d.rd R.LN_FLOW_PROF) profile || decide (40 < kl) then d
  else
    let src := srcNum (6 + pipe) (p % 4)
    let e := d.raise 7 src profile
    match learnPush d.tab.flowFifo ⟨d.tk.etick, src, p, (profile, kl, padTo 40 key)⟩ with
    | some l => e.setTab (fun t => { t with flowFifo := l })
    | none => e.count R.LN_FIFO_DROP

/-- The request that is applied next: by tick, then by source, then in order of arrival (R156). -/
def learnFirst {α : Type} : List (LearnReq α) → Option (LearnReq α)
  | [] => none
  | x :: l =>
    match learnFirst l with
    | none => some x
    | some y => if y.tick < x.tick ∨ (y.tick = x.tick ∧ y.src < x.src) then some y else some x

/-- Table 6.4: the outcome of a MAC learn request. -/
def Dev.macApply (d : Dev) (x : LearnReq (Nat × Nat)) : Dev :=
  let addr := x.key.1
  let fid := x.key.2
  let d := d.count R.LN_APPLIED
  match d.macFind addr fid with
  | none =>
    (match d.macInsert { addr := addr, fid := fid, port := x.port, hit := true, stat := false, drop := false, move := x.tick } with
    | some r => r.2.macExport 1 x.port 0 addr fid
    | none => (d.count R.LN_FULL).macExport 7 x.port 0 addr fid)
  | some s =>
    match SMap.get? d.tab.mac s with
    | none => d
    | some e =>
      let age := (x.tick + 2 ^ 56 - e.move % 2 ^ 56) % 2 ^ 56
      if e.port = x.port then d.macUpd s (fun e => { e with hit := true })
      else if e.stat then (d.count R.LN_STATIC_VIOL).macExport 8 x.port e.port addr fid
      else if age < d.rd R.LN_HOLDDOWN * 125 then
        ((((d.raise 11 (srcNum 0x06 16) x.port).count R.LN_MOVE_CONFLICT).count R.LN_PORT_CONFLICT 1 x.port)).macExport 3 x.port e.port addr fid
      else
        ((d.macUpd s (fun e => { e with port := x.port, hit := true, move := x.tick })).setTab
          (fun t => { t with macVer := bumpVer t.macVer [s] })).macExport 2 x.port e.port addr fid

/-- Remove the request that is applied. -/
def Dev.macPop (d : Dev) (x : LearnReq (Nat × Nat)) : Dev := d.setTab (fun t => { t with macFifo := t.macFifo.erase x })

/-- R164: the outcome of a flow learn request. -/
def Dev.flowApply (d : Dev) (x : LearnReq (Nat × Nat × Bytes)) : Dev :=
  let pr := x.key.1
  let kl := x.key.2.1
  let d := d.count R.LN_APPLIED
  match d.flowFind pr kl x.key.2.2 with
  | some s =>
    (match SMap.get? d.tab.flow s with
    | some e => d.setTab (fun t => { t with flow := SMap.put t.flow s e.touch })
    | none => d)
  | none =>
    let e : FlowEntry := { profile := pr, kl := kl, key := x.key.2.2, flags := setBit (d.rd R.LN_FLOW_TMPL_FLAGS) fHit true,
                           port := d.rd R.LN_FLOW_TMPL_PORT, queue := d.rd R.LN_FLOW_TMPL_QUEUE, cookie := 0 }
    match d.flowInsert e with
    | some r => r.2.flowExport 5 ((r.2.flowFind pr kl x.key.2.2).getD 0) pr kl
    | none => (d.count R.LN_FULL).flowExport 7 0 pr kl

def Dev.flowPop (d : Dev) (x : LearnReq (Nat × Nat × Bytes)) : Dev := d.setTab (fun t => { t with flowFifo := t.flowFifo.erase x })

/-- MAC_LEARN_APPLY (R156, R162): the first request whose tick has ended is applied. -/
def execMacLearnApply (s : State) : Host.Outcome State Fault Refusal :=
  .next (s.onDev (fun d =>
    match learnFirst d.tab.macFifo with
    | some x => if x.tick < d.tk.etick ∧ d.on R.FT_STATUS_MT_READY then (d.macPop x).macApply x else d
    | none => d))

/-- FLOW_LEARN_APPLY (R164). -/
def execFlowLearnApply (s : State) : Host.Outcome State Fault Refusal :=
  .next (s.onDev (fun d =>
    match learnFirst d.tab.flowFifo with
    | some x => if x.tick < d.tk.etick ∧ d.on R.FT_STATUS_FT_READY then (d.flowPop x).flowApply x else d
    | none => d))

/-- Every request that waits is applied, in order: an operation comes after the learns of its tick and of earlier ones (R156). -/
def Dev.drainMac : Nat → Dev → Dev
  | 0, d => d
  | n + 1, d =>
    match learnFirst d.tab.macFifo with
    | some x => Dev.drainMac n ((d.macPop x).macApply x)
    | none => d

def Dev.drainFlow : Nat → Dev → Dev
  | 0, d => d
  | n + 1, d =>
    match learnFirst d.tab.flowFifo with
    | some x => Dev.drainFlow n ((d.flowPop x).flowApply x)
    | none => d

/-! ## The update engine (R155) -/

/-- The staged key bytes of a requester. -/
def Dev.ftKey (d : Dev) (req n : Nat) : Bytes := ((List.range 10).flatMap (fun i => leBytes 4 (d.rd R.FT_KEY 0 i req))).take n

/-- The staged MAC key: address and FID. -/
def Dev.ftMacKey (d : Dev) (req : Nat) : Nat × Nat := (be48 (d.ftKey req 8) 0, be16 (d.ftKey req 8) 6 % 4096)

/-- The result of an operation. -/
def Dev.ftResult (d : Dev) (req result moves : Nat) : Dev :=
  (d.wr R.FT_OP_STATUS_RESULT result 0 0 req).wr R.FT_OP_STATUS_MOVES moves 0 0 req

/-- Is the operation's table MAC. -/
def Dev.ftMac (d : Dev) (req : Nat) : Bool := d.on R.FT_OPARG_TABLE 0 0 req

/-- The learns that the engine applies before the operation. -/
def Dev.ftBegin (d : Dev) (req : Nat) : Dev :=
  if d.ftMac req then Dev.drainMac d.tab.macFifo.length d else Dev.drainFlow d.tab.flowFifo.length d

/-- Is an operation refused with result 6. -/
def Dev.ftRefused (d : Dev) (req : Nat) : Bool :=
  let fl := d.rd R.FT_ACTION0_FLAGS 0 0 req
  if d.ftMac req then !d.on R.FT_STATUS_MT_READY || bit fl fPin || bit fl fBridge
  else
    let kl := d.rd R.FT_OPARG_KL 0 0 req
    !d.on R.FT_STATUS_FT_READY || kl == 0 || decide (40 < kl)

/-- The staged flow entry; HIT is set by an INSERT (R168). -/
def Dev.ftFlowEntry (d : Dev) (req : Nat) : FlowEntry :=
  let kl := d.rd R.FT_OPARG_KL 0 0 req
  { profile := d.rd R.FT_OPARG_PROFILE 0 0 req, kl := kl, key := padTo 40 (d.ftKey req kl)
    flags := setBit (d.rd R.FT_ACTION0_FLAGS 0 0 req % 64) fHit true, port := d.rd R.FT_ACTION0_PORT 0 0 req
    queue := d.rd R.FT_ACTION0_QUEUE 0 0 req, cookie := d.rd R.FT_ACTION1 0 0 req }

/-- INSERT into the flow table. -/
def Dev.ftInsertFlow (d : Dev) (req : Nat) : Dev :=
  let e := d.ftFlowEntry req
  let found := d.flowFind e.profile e.kl e.key
  let was := ((found.bind (SMap.get? d.tab.flow)).map (fun x => bit x.flags fPin)).getD false
  if bit e.flags fPin ∧ ¬ was ∧ 65536 ≤ d.rd R.FT_PINNED then d.ftResult req 7 0
  else
    match found with
    | some s =>
      let d1 := d.setTab (fun t => { t with flow := SMap.put t.flow s e, flowVer := bumpVer t.flowVer [s] })
      let d2 := if bit e.flags fPin then d1.setTab (fun t => { t with cache := d1.cachePut s }) else d1
      d2.flowCounts.ftResult req 1 0
    | none =>
      match d.flowInsert e with
      | some r => r.2.ftResult req 0 r.1
      | none => d.ftResult req 5 0

/-- INSERT into the MAC table: LAST_MOVE is the tick of application. -/
def Dev.ftInsertMac (d : Dev) (req : Nat) : Dev :=
  let k := d.ftMacKey req
  let fl := d.rd R.FT_ACTION0_FLAGS 0 0 req
  let e : MacEntry := { addr := k.1, fid := k.2, port := d.rd R.FT_ACTION0_PORT 0 0 req, hit := true, stat := bit fl fStatic,
                        drop := bit fl fDrop, move := d.tk.etick % 2 ^ 56 }
  match d.macFind k.1 k.2 with
  | some s => ((d.macUpd s (fun _ => e)).setTab (fun t => { t with macVer := bumpVer t.macVer [s] })).ftResult req 1 0
  | none =>
    match d.macInsert e with
    | some r => r.2.ftResult req 0 r.1
    | none => d.ftResult req 5 0

/-- An operation of the update engine on behalf of a requester. -/
def Dev.ftInsert (d : Dev) (req : Nat) : Dev :=
  let d := d.ftBegin req
  if d.ftRefused req then d.ftResult req 6 0 else if d.ftMac req then d.ftInsertMac req else d.ftInsertFlow req

/-- The slot of the staged key. -/
def Dev.ftFind (d : Dev) (req : Nat) : Option Nat :=
  if d.ftMac req then d.macFind (d.ftMacKey req).1 (d.ftMacKey req).2
  else d.flowFind (d.rd R.FT_OPARG_PROFILE 0 0 req) (d.rd R.FT_OPARG_KL 0 0 req) (d.ftKey req (d.rd R.FT_OPARG_KL 0 0 req))

def Dev.ftDelete (d : Dev) (req : Nat) : Dev :=
  let d := d.ftBegin req
  if d.ftRefused req then d.ftResult req 6 0
  else
    match d.ftFind req with
    | some s => (if d.ftMac req then d.macRemove s else d.flowRemove s).ftResult req 2 0
    | none => d.ftResult req 4 0

/-- An entry's action goes to the requester's staging. -/
def Dev.ftAction (d : Dev) (req s : Nat) : Dev :=
  if d.ftMac req then
    match SMap.get? d.tab.mac s with
    | some e => ((d.wr R.FT_ACTION0_FLAGS (b2n e.hit + 2 * b2n e.stat + 4 * b2n e.drop) 0 0 req).wr R.FT_ACTION0_PORT e.port 0 0 req).wr
        R.FT_ACTION1 e.move 0 0 req
    | none => d
  else
    match SMap.get? d.tab.flow s with
    | some e => (((d.wr R.FT_ACTION0_FLAGS e.flags 0 0 req).wr R.FT_ACTION0_PORT e.port 0 0 req).wr R.FT_ACTION0_QUEUE e.queue 0 0 req).wr
        R.FT_ACTION1 e.cookie 0 0 req
    | none => d

def Dev.ftLookup (d : Dev) (req : Nat) : Dev :=
  let d := d.ftBegin req
  if d.ftRefused req then d.ftResult req 6 0
  else
    match d.ftFind req with
    | some s => ((d.ftAction req s).wr R.FT_SLOT s 0 0 req).ftResult req 3 0
    | none => d.ftResult req 4 0

/-- An entry's key goes to the requester's staging. -/
def Dev.ftPutKey (d : Dev) (req : Nat) (k : Bytes) : Dev :=
  (List.range 10).foldl (fun e i => e.wr R.FT_KEY (le32 k (4 * i)) 0 i req) d

def Dev.ftReadSlot (d : Dev) (req : Nat) : Dev :=
  let d := d.ftBegin req
  let s := d.rd R.FT_SLOT 0 0 req
  if !d.on (if d.ftMac req then R.FT_STATUS_MT_READY else R.FT_STATUS_FT_READY) then d.ftResult req 6 0
  else if d.ftMac req then
    (match SMap.get? d.tab.mac s with
    | some e => ((d.ftAction req s).ftPutKey req (beBytes 6 e.addr ++ beBytes 2 e.fid)).ftResult req 3 0
    | none => d.ftResult req 4 0)
  else
    match SMap.get? d.tab.flow s with
    | some e => ((((d.ftAction req s).ftPutKey req e.key).wr R.FT_OPARG_PROFILE e.profile 0 0 req).wr R.FT_OPARG_KL e.kl 0 0 req).ftResult
        req 3 0
    | none => d.ftResult req 4 0

/-- FT_INSERT (R155). -/
def execFtInsert (req : Nat) (s : State) : Host.Outcome State Fault Refusal := .next (s.onDev (fun d => (d.sampleWrite req 1).ftInsert req))

/-- FT_DELETE (R155). -/
def execFtDelete (req : Nat) (s : State) : Host.Outcome State Fault Refusal := .next (s.onDev (fun d => (d.sampleWrite req 2).ftDelete req))

/-- FT_LOOKUP (R155). -/
def execFtLookup (req : Nat) (s : State) : Host.Outcome State Fault Refusal := .next (s.onDev (fun d => (d.sampleWrite req 3).ftLookup req))

/-- READ_SLOT (R155). -/
def execReadSlot (req : Nat) (s : State) : Host.Outcome State Fault Refusal := .next (s.onDev (fun d => (d.sampleWrite req 4).ftReadSlot req))

/-- Empty the flow or MAC table and clear its READY (R159). -/
def Dev.tableEmpty (d : Dev) (mac : Bool) : Dev :=
  if mac then ((d.setTab (fun t => { t with mac := [], macVer := [], macFifo := [] })).macCounts).wr R.FT_STATUS_MT_READY 0
  else ((d.setTab (fun t => { t with flow := [], flowVer := [], cache := [], flowFifo := [] })).flowCounts).wr R.FT_STATUS_FT_READY 0

/-- TABLE_SEED_WRITE (R159): a write of FT_SEED or MT_SEED. -/
def execTableSeedWrite (req : Nat) (mac : Bool) (value : Nat) (s : State) : Host.Outcome State Fault Refusal :=
  .next (s.onDev (fun d => ((d.sampleWrite req value).wr (if mac then R.MT_SEED else R.FT_SEED) value).tableEmpty mac))

/-- TABLE_READY (R159). -/
def execTableReady (mac : Bool) (s : State) : Host.Outcome State Fault Refusal :=
  .next (s.onDev (fun d => if d.rst.active.contains 3 then d else d.flag (if mac then R.FT_STATUS_MT_READY else R.FT_STATUS_FT_READY)))

/-! ## Ageing (R167, R168) -/

/-- Slots and period in ticks of a table. -/
def burnSlots (mac : Bool) : Nat := if mac then 2097152 else 16777216
def Dev.burnPeriod (d : Dev) (mac : Bool) : Nat := d.rd (if mac then R.BURN_PERIOD_MT else R.BURN_PERIOD_FT) * 125000
def Dev.burnBase (d : Dev) (mac : Bool) : Nat := d.rd (if mac then R.BURN_BASE_MT else R.BURN_BASE_FT)

/-- Is a visit of a slot due in the present tick. -/
def Dev.burnDue (d : Dev) (mac : Bool) (s : Nat) : Bool :=
  d.on (if mac then R.LN_CTRL_BURN_MT else R.LN_CTRL_BURN_FT) && decide (d.burnBase mac ≤ d.tk.etick) &&
    (d.tk.etick - d.burnBase mac) % d.burnPeriod mac == s * d.burnPeriod mac / burnSlots mac

/-- The period or enable bit takes effect: B is the present tick and every entry that is not STATIC counts as hit. -/
def Dev.burnRestart (d : Dev) (mac : Bool) : Dev :=
  if mac then
    (d.wr R.BURN_BASE_MT d.tk.etick).setTab (fun t => { t with mac := t.mac.map (fun e => if e.2.stat then e else (e.1, { e.2 with hit := true })) })
  else
    (d.wr R.BURN_BASE_FT d.tk.etick).setTab (fun t => { t with flow := t.flow.map (fun e => if bit e.2.flags fStatic then e else (e.1, e.2.touch)) })

/-- A visit of the MAC table. -/
def Dev.burnMac (d : Dev) (s : Nat) : Dev :=
  match SMap.get? d.tab.mac s with
  | none => d
  | some e =>
    if e.stat then d
    else if e.hit then d.macUpd s (fun e => { e with hit := false })
    else ((d.macRemove s).count R.AGED_MT).macExport 4 e.port 0 e.addr e.fid

/-- A visit of the flow table. -/
def Dev.burnFlow (d : Dev) (s : Nat) : Dev :=
  match SMap.get? d.tab.flow s with
  | none => d
  | some e =>
    if bit e.flags fStatic then d
    else if bit e.flags fHit then d.setTab (fun t => { t with flow := SMap.put t.flow s { e with flags := setBit e.flags fHit false } })
    else ((d.flowRemove s).count R.AGED_FT).flowExport 6 s e.profile e.kl

/-- BURNISHER_VISIT (R167, R168). -/
def execBurnisherVisit (mac : Bool) (slot : Nat) (s : State) : Host.Outcome State Fault Refusal :=
  .next (s.onDev (fun d => if !d.burnDue mac slot then d else if mac then d.burnMac slot else d.burnFlow slot))

/-! ## Longest-prefix match (R169-R174) -/

/-- The words of a channel's pool (Tables 6.8, 6.13). -/
def lpmPool (ch : Nat) : Nat :=
  match ch with
  | 0 => 1114112
  | 1 => 131072 * 16
  | 2 => 524288 * 16
  | 3 => 524288 * 16
  | 4 => 262144 * 16
  | 5 => 131072 * 16
  | 6 => 131072 * 16
  | 7 => 16384 * 8 * 2
  | 8 => 1048576
  | _ => 0

/-- A word of the trie. -/
def Dev.lpmWord (d : Dev) (ch idx : Nat) : Nat := SMap.getD d.tab.lpm (ch * 2 ^ 28 + idx) 0

/-- Put a word; a zero word is not listed. -/
def lpmPut (m : SMap Nat) (ch idx w : Nat) : SMap Nat :=
  if w = 0 then SMap.del m (ch * 2 ^ 28 + idx) else SMap.put m (ch * 2 ^ 28 + idx) w

/-- One 64-bit write, or its refusal with a cause: 1 outside the pool, 2 word 0 of a live slot (R173). -/
def Dev.lpmWrite (d : Dev) (ch idx w : Nat) : Nat × Dev :=
  if lpmPool ch ≤ idx then (1, (d.flag R.LPM_STATUS_WR_REFUSED).wr R.LPM_STATUS_CAUSE 1)
  else if ch = 7 ∧ idx % 2 = 0 ∧ bit (d.lpmWord 7 (idx + 1)) 27 then (2, (d.flag R.LPM_STATUS_WR_REFUSED).wr R.LPM_STATUS_CAUSE 2)
  else (0, d.setTab (fun t => { t with lpm := lpmPut t.lpm ch idx w }))

/-- LPM_WRITE (R173): a write of LPM_DATA_HI commits the staged low word and itself at LPM_IDX of the selected channel. -/
def execLpmWrite (req hi : Nat) (s : State) : Host.Outcome State Fault Refusal :=
  .next (s.onDev (fun d =>
    let e := d.sampleWrite req hi
    let ch := d.rd (chselField 0x03400000) 0 0 req
    if ch < 9 then (e.lpmWrite ch (d.rd R.LPM_IDX ch 0 req) ((hi % 2 ^ 32) <<< 32 + d.rd R.LPM_DATA_LO ch 0 req)).2 else e))

/-- LPM_FENCE (R174): FENCE_DONE clears, and sets again once every earlier lookup has left the trie; lookups are whole steps here. -/
def execLpmFence (req : Nat) (s : State) : Host.Outcome State Fault Refusal :=
  .next (s.onDev (fun d => (d.sampleWrite req 1).wr R.LPM_STATUS_FENCE_DONE 1 0 0 req))

/-- Steps after the root: stage and lowest address bit (Table 6.7). -/
def lpmSteps (v6 : Bool) : List (Nat × Nat) :=
  if v6 then [(1, 104), (1, 100), (2, 96), (2, 92), (3, 88), (3, 84), (4, 80), (4, 76), (5, 72), (5, 68), (6, 64)]
  else [(1, 12), (2, 8), (3, 4), (4, 0)]

/-- The best next hop so far, after an entry. -/
def lpmBest (e : Nat) (best : Option Nat) : Option Nat := if bit e 20 then some (e % 2 ^ 20) else best

/-- The matching slot of a long-prefix set with the longest LEN, the lower slot between equals (R171). -/
def Dev.longSet (d : Dev) (set lowBits : Nat) (best : Option Nat) : Option Nat :=
  let slots := (List.range 8).filterMap (fun i =>
    let w0 := d.lpmWord 7 (2 * (8 * set + i))
    let w1 := d.lpmWord 7 (2 * (8 * set + i) + 1)
    let len := bits w1 26 20
    if bit w1 27 ∧ (lowBits ^^^ w0) / 2 ^ (128 - len) = 0 then some (len, w1 % 2 ^ 20) else none)
  (slots.foldl (fun (b : Option (Nat × Nat)) x => match b with
    | none => some x
    | some y => if y.1 < x.1 then some x else some y) none).elim best (fun x => some x.2)

/-- Walk the steps from an entry. -/
def Dev.lpmWalk (d : Dev) (v6 : Bool) (addr : Nat) : List (Nat × Nat) → Nat → Option Nat → Option Nat
  | [], e, best =>
    let b := lpmBest e best
    if v6 && bit e 21 then d.longSet (bits e 47 24) (addr % 2 ^ 64) b else b
  | (st, lo) :: rest, e, best =>
    let b := lpmBest e best
    if !bit e 21 then b else d.lpmWalk v6 addr rest (d.lpmWord st (16 * bits e 47 24 + addr / 2 ^ lo % 16)) b

/-- The longest-prefix match of an address (R170). -/
def Dev.lpm (d : Dev) (addr : Nat) (v6 : Bool) : Option Nat :=
  d.lpmWalk v6 addr (lpmSteps v6) (d.lpmWord 0 (if v6 then 65536 + addr / 2 ^ 108 % 2 ^ 20 else addr / 2 ^ 16 % 2 ^ 16)) none

/-- The next hop of an address, or the default; `none` is a miss (R172). -/
def Dev.nextHop (d : Dev) (addr : Option Nat) (v6 : Bool) : Option Nat :=
  match addr.bind (fun a => d.lpm a v6) with
  | some n => some n
  | none =>
    if d.on (if v6 then R.LPM_DEF6_VALID else R.LPM_DEF4_VALID) then some (d.rd (if v6 then R.LPM_DEF6_NH else R.LPM_DEF4_NH)) else none

end Sys2Proof.Machine
end

