-- ==== Sys2Proof/Machine/Classify.lean ====
section
/-!
DEFINITION. Chapter 5: profile selection, windows and key (R124-R128), Awl (R129-R132), exact match and its rule operations
(R133-R137), class behaviour (R138, R140), bank swap and copy (R143-R147).
-/
namespace Sys2Proof.Machine

/-! ## Banks -/

def Dev.activeBank (d : Dev) : Nat := d.rd R.CL_BANK_ACTIVE
def Dev.shadowBank (d : Dev) : Nat := 1 - d.activeBank

/-- The shadow bank takes no write (R143). -/
def Dev.bankBusy (d : Dev) : Bool := d.on R.CL_BANK_SWAP_PENDING || d.on R.CL_BANK_OLD_BUSY || d.on R.CL_BANK_COPY_BUSY

/-- The bank that a stored register belongs to, and its channel within the bank; `none` for registers of no bank. -/
def bankOf (k : Key) : Option (Nat × Nat) :=
  let off := k.addr % 0x100000
  if k.addr >>> 20 = 0x030 ∧ 0x1000 ≤ off then some (k.chan / 256, k.chan % 256)
  else if k.addr >>> 20 = 0x031 ∧ 0x1000 ≤ off then some (k.chan / 65536, k.chan % 65536)
  else if k.addr >>> 20 = 0x032 ∧ ((0x20 ≤ off ∧ off < 0x60) ∨ (0xA0 ≤ off ∧ off < 0xC0)) then some (k.chan, 0)
  else none

/-- The key of the same register in a bank. -/
def inBank (k : Key) (b c : Nat) : Key :=
  { k with chan := if k.addr >>> 20 = 0x030 then c + 256 * b else if k.addr >>> 20 = 0x031 then c + 65536 * b else b }

/-- A bank's registers as registers of bank `b'`. -/
def bankRegs (m : RegFile) (b b' : Nat) : RegFile :=
  m.filterMap (fun e => match bankOf e.1 with
    | some (x, c) => if x = b then some (inBank e.1 b' c, e.2) else none
    | none => none)

/-- Replace the registers of bank `b`. -/
def setBank (m : RegFile) (b : Nat) (new : RegFile) : RegFile :=
  new.foldl (fun (x : RegFile) e => RegFile.put x e.1 e.2) (m.filter (fun e => match bankOf e.1 with
    | some (x, _) => x != b
    | none => true))

/-! ## Exact-match tables (R133-R136) -/

/-- The width in bytes of a table of a bank. -/
def Dev.emWidth (d : Dev) (b t : Nat) : Nat := 16 * 2 ^ d.rd R.EM_GEOM_WIDTH b t
def Dev.emOn (d : Dev) (b t : Nat) : Bool := d.on R.EM_GEOM_EN b t

/-- The rules of a table of a bank. -/
def Dev.emRules (d : Dev) (b t : Nat) : SMap Rule := SMap.getD d.cls.rules (8 * b + t) []
def Dev.setRules (d : Dev) (b t : Nat) (m : SMap Rule) : Dev :=
  { d with cls := { d.cls with rules := if m = [] then SMap.del d.cls.rules (8 * b + t) else SMap.put d.cls.rules (8 * b + t) m } }
    |>.wr R.EM_USED m.length b t

/-- The candidate buckets of a key (R134). -/
def Dev.emBuckets (d : Dev) (b t profile : Nat) (key : Bytes) : Nat × Nat :=
  let x := BitVec.ofNat 8 profile :: padTo (d.emWidth b t) key
  let n := 2 ^ d.rd R.EM_GEOM_LOG2_BUCKETS b t
  (hash0 (d.rd R.EM_SEED b t) x % n, hash1 (d.rd R.EM_SEED b t) x % n)

/-- The slot of a rule, if it exists (R135). -/
def Dev.emFind (d : Dev) (b t profile kl : Nat) (key : Bytes) : Option Nat :=
  let p := d.emBuckets b t profile key
  (bucketSlots (d.emRules b t) p.1 ++ bucketSlots (d.emRules b t) p.2).find? (fun s =>
    match SMap.get? (d.emRules b t) s with
    | some e => e.profile == profile && e.kl == kl && e.key == padTo (d.emWidth b t) key
    | none => false)

/-- The rule a lookup hits. -/
def Dev.emLookup (d : Dev) (b t profile kl : Nat) (key : Bytes) : Option Rule :=
  if !d.emOn b t then none else (d.emFind b t profile kl key).bind (SMap.get? (d.emRules b t))

/-- A requester's staged operation: table, profile, KL, key. -/
def Dev.clTable (d : Dev) (req : Nat) : Nat := d.rd R.CL_OPARG_TABLE 0 0 req
def Dev.clProfile (d : Dev) (req : Nat) : Nat := d.rd R.CL_OPARG_PROFILE 0 0 req
def Dev.clKl (d : Dev) (req : Nat) : Nat := d.rd R.CL_OPARG_KL 0 0 req
def Dev.clKey (d : Dev) (req : Nat) : Bytes := ((List.range 16).flatMap (fun i => leBytes 4 (d.rd R.CL_KEY 0 i req))).take (d.clKl req)

/-- The result of an operation. -/
def Dev.clResult (d : Dev) (req result moves : Nat) : Dev :=
  (d.wr R.CL_OP_STATUS_RESULT result 0 0 req).wr R.CL_OP_STATUS_MOVES moves 0 0 req

/-- Does the engine refuse an operation with result 6 (R136). -/
def Dev.clRefused (d : Dev) (t kl : Nat) : Bool :=
  d.on R.CL_BANK_COPY_BUSY || !d.emOn d.shadowBank t || kl == 0 || decide (d.emWidth d.shadowBank t < kl)

/-- The classification write status (R140, R143). -/
def Dev.clWrRefused (d : Dev) (cause : Nat) : Dev := (d.flag R.CL_STATUS_WR_REFUSED).wr R.CL_STATUS_CAUSE cause

/-- INSERT of a rule into the shadow bank: result and moves (R136). -/
def Dev.emInsert (d : Dev) (t : Nat) (r : Rule) : Nat × Nat × Dev :=
  let b := d.shadowBank
  let r := { r with key := padTo (d.emWidth b t) r.key }
  match d.emFind b t r.profile r.kl r.key with
  | some s => (1, 0, d.setRules b t (SMap.put (d.emRules b t) s r))
  | none =>
    let p := d.emBuckets b t r.profile r.key
    match findSlot (fun x => d.emBuckets b t x.profile x.key) id (d.emRules b t) p.1 p.2 with
    | some (s, moved, m) => (0, moved.length / 2, d.setRules b t (SMap.put m s r))
    | none => (5, 0, d)

/-- DELETE of a rule from the shadow bank. -/
def Dev.emDelete (d : Dev) (t profile kl : Nat) (key : Bytes) : Nat × Dev :=
  let b := d.shadowBank
  match d.emFind b t profile kl key with
  | some s => (2, d.setRules b t (SMap.del (d.emRules b t) s))
  | none => (4, d)

/-- A requester's INSERT. -/
def Dev.clInsert (d : Dev) (req : Nat) : Dev :=
  if d.clRefused (d.clTable req) (d.clKl req) then d.clResult req 6 0
  else if d.bankBusy then d.clWrRefused 1
  else
    let r := d.emInsert (d.clTable req)
      { profile := d.clProfile req, kl := d.clKl req, key := d.clKey req, cls := d.rd R.CL_ACTION_CLASS 0 0 req
        colour := d.rd R.CL_ACTION_COLOUR 0 0 req, queue := d.rd R.CL_ACTION_QUEUE 0 0 req }
    r.2.2.clResult req r.1 r.2.1

/-- A requester's DELETE. -/
def Dev.clDelete (d : Dev) (req : Nat) : Dev :=
  if d.clRefused (d.clTable req) (d.clKl req) then d.clResult req 6 0
  else if d.bankBusy then d.clWrRefused 1
  else
    let r := d.emDelete (d.clTable req) (d.clProfile req) (d.clKl req) (d.clKey req)
    r.2.clResult req r.1 0

/-- A requester's LOOKUP. -/
def Dev.clLookup (d : Dev) (req : Nat) : Dev :=
  if d.clRefused (d.clTable req) (d.clKl req) then d.clResult req 6 0
  else
    match d.emLookup d.shadowBank (d.clTable req) (d.clProfile req) (d.clKl req) (d.clKey req) with
    | some r => (((d.wr R.CL_ACTION_CLASS r.cls 0 0 req).wr R.CL_ACTION_COLOUR r.colour 0 0 req).wr R.CL_ACTION_QUEUE r.queue 0 0 req).clResult
        req 3 0
    | none => d.clResult req 4 0

/-- CL_INSERT (R136). -/
def execClInsert (req : Nat) (s : State) : Host.Outcome State Fault Refusal := .next (s.onDev (fun d => (d.sampleWrite req 1).clInsert req))

/-- CL_DELETE (R136). -/
def execClDelete (req : Nat) (s : State) : Host.Outcome State Fault Refusal := .next (s.onDev (fun d => (d.sampleWrite req 2).clDelete req))

/-- CL_LOOKUP (R136). -/
def execClLookup (req : Nat) (s : State) : Host.Outcome State Fault Refusal := .next (s.onDev (fun d => (d.sampleWrite req 3).clLookup req))

/-! ## Class behaviour (R138-R140) -/

/-- A class entry's four words. -/
def Dev.classWord (d : Dev) (c i : Nat) : Nat := (SMap.getD d.cls.classes c []).getD i 0

/-- Is a class entry invalid (R140). -/
def classBad (w0 w3 : Nat) : Bool :=
  (bit w0 0 && (bit w0 3 || bits w0 5 4 != 0)) || bits w0 5 4 == 3 || decide (15 < bits w3 19 16)

/-- Commit a class entry. -/
def Dev.classPut (d : Dev) (c : Nat) (ws : List Nat) : Dev :=
  { d with cls := { d.cls with classes := if ws.all (· == 0) then SMap.del d.cls.classes c else SMap.put d.cls.classes c ws } }

/-- The staged words CB0 to CB2 of a class. -/
def Dev.cbStaged (d : Dev) (c : Nat) : List Nat :=
  [d.rd R.CB0_SEQ c + d.rd R.CB0_CAPTURE c <<< 1 + d.rd R.CB0_MIRROR c <<< 2 + d.rd R.CB0_DROP c <<< 3 + d.rd R.CB0_DISP c <<< 4 +
     d.rd R.CB0_POLICE c <<< 6 + d.rd R.CB0_CAP_PROFILE c <<< 8 + d.rd R.CB0_POLICER c <<< 16,
   d.rd R.CB1_FUNC c + d.rd R.CB1_RING_BASE c <<< 16, d.rd R.CB2_RING_COUNT c + d.rd R.CB2_MIRROR_PORT c <<< 16]

/-- The staged registers of a class take an entry's words. -/
def Dev.cbStage (d : Dev) (c w0 w1 w2 w3 : Nat) : Dev :=
  let d := (((d.wr R.CB0_SEQ (bits w0 0 0) c).wr R.CB0_CAPTURE (bits w0 1 1) c).wr R.CB0_MIRROR (bits w0 2 2) c).wr R.CB0_DROP (bits w0 3 3) c
  let d := (((d.wr R.CB0_DISP (bits w0 5 4) c).wr R.CB0_POLICE (bits w0 6 6) c).wr R.CB0_CAP_PROFILE (bits w0 15 8) c).wr R.CB0_POLICER
    (bits w0 31 16) c
  let d := (((d.wr R.CB1_FUNC (bits w1 12 0) c).wr R.CB1_RING_BASE (bits w1 31 16) c).wr R.CB2_RING_COUNT (bits w2 15 0) c).wr
    R.CB2_MIRROR_PORT (bits w2 19 16) c
  ((d.wr R.CB3_MIRROR_QUEUE (bits w3 15 0) c).wr R.CB3_LPM_WIN (bits w3 19 16) c).wr R.CB3_LPM_V6 (bits w3 20 20) c

/-- CB3_COMMIT (R138, R140): the write of CB3 commits the staged entry of the selected class, or is refused and the whole entry keeps its
old value, which is then what CB0 to CB3 read. -/
def execCb3Commit (req value : Nat) (s : State) : Host.Outcome State Fault Refusal :=
  .next (s.onDev (fun d =>
    let e := d.sampleWrite req value
    let c := d.rd (chselField 0x03200000) 0 0 req
    if 256 ≤ c then e
    else if classBad ((d.cbStaged c).getD 0 0) value then
      (e.clWrRefused 2).cbStage c (d.classWord c 0) (d.classWord c 1) (d.classWord c 2) (d.classWord c 3)
    else
      let ws := d.cbStaged c ++ [value % 2 ^ 21]
      (e.classPut c ws).cbStage c (ws.getD 0 0) (ws.getD 1 0) (ws.getD 2 0) (ws.getD 3 0)))

/-- EM_GEOM_WRITE (R137): a write of a shadow EM_GEOM or EM_SEED empties the table in the shadow bank. -/
def Dev.emGeomWrite (d : Dev) (t : Nat) (seed : Bool) (value : Nat) : Dev :=
  let b := d.shadowBank
  let e := d.setRules b t []
  if seed then e.wr R.EM_SEED value b t
  else
    let x := (e.wr R.EM_GEOM_BASE (bits value 14 0) b t).wr R.EM_GEOM_EN (bits value 15 15) b t
    let x := if bits value 20 16 ≤ 19 then x.wr R.EM_GEOM_LOG2_BUCKETS (bits value 20 16) b t else x
    if bits value 22 21 = 3 then x else x.wr R.EM_GEOM_WIDTH (bits value 22 21) b t

/-- EM_GEOM_WRITE (R137, R143). -/
def execEmGeomWrite (req t : Nat) (seed : Bool) (value : Nat) (s : State) : Host.Outcome State Fault Refusal :=
  .next (s.onDev (fun d =>
    let e := d.sampleWrite req value
    if d.bankBusy then e.clWrRefused 1 else e.emGeomWrite t seed value))

/-! ## Awl (R129-R132) -/

/-- The channel of a pattern in a bank. -/
def awlChan (b n : Nat) : Nat := n + 65536 * b

/-- A pattern's bytes. -/
def Dev.awlBytes (d : Dev) (c : Nat) : Bytes :=
  ((List.range 16).flatMap (fun i => leBytes 4 (d.rd R.AW_DATA c i))).take (d.rd R.AW_CTRL_LEN c)

/-- The valid patterns of a bank, ascending. -/
def Dev.awlValid (d : Dev) (b : Nat) : List Nat := (d.regs.chans R.AW_CTRL_VALID).filter (fun c => c / 65536 == b)

/-- Does a byte string stand at an offset, within the first `n` bytes. -/
def matchAt (bs pat : Bytes) (n off : Nat) : Bool := decide (off + pat.length ≤ n) && (bs.drop off).take pat.length == pat

/-- Does a pattern match in the first `n` bytes of a frame (R129). -/
def Dev.awlMatch (d : Dev) (c : Nat) (bs : Bytes) (n : Nat) : Bool :=
  let pat := d.awlBytes c
  if d.on R.AW_CTRL_ANCHORED c then matchAt bs pat n (d.rd R.AW_CTRL_OFFSET c)
  else (List.range (n + 1)).any (matchAt bs pat n)

/-- The Awl result of a frame under a profile (R132); `bs` holds the bytes up to L - 5. -/
def Dev.awlResult (d : Dev) (b pc : Nat) (bs : Bytes) : Nat :=
  if !d.on R.PF_CTRL_AWL_EN pc then 0
  else
    let n := min (d.rd R.PF_AWL_AWL_LIMIT pc + 1) bs.length
    match (d.awlValid b).find? (fun c => bit (d.rd R.PF_AWL_AWL_SETS pc) (d.rd R.AW_CTRL_SET c) && d.awlMatch c bs n) with
    | some c => 0x8000 + c % 65536
    | none => 0

/-- The write status of AWL. -/
def Dev.awRefused (d : Dev) (cause : Nat) : Dev := (d.flag R.AW_STATUS_WR_REFUSED).wr R.AW_STATUS_CAUSE cause

/-- The fields of AW_CTRL but VALID take a write; LEN outside 4 to 64 is ignored. -/
def Dev.awCtrl (d : Dev) (c v : Nat) : Dev :=
  let e := ((d.wr R.AW_CTRL_ANCHORED (bits v 1 1) c).wr R.AW_CTRL_SET (bits v 12 9) c).wr R.AW_CTRL_OFFSET (bits v 23 13) c
  if 4 ≤ bits v 8 2 ∧ bits v 8 2 ≤ 64 then e.wr R.AW_CTRL_LEN (bits v 8 2) c else e

/-- May a pattern become valid: 0, or the cause of the refusal (R131). -/
def Dev.awCause (d : Dev) (c : Nat) : Nat :=
  let fp (x : Nat) : Nat := d.rd R.AW_DATA x 0
  if 16 ≤ ((d.awlValid (c / 65536)).filter (fun x => fp x == fp c)).length then 2
  else if d.on R.AW_CTRL_ANCHORED c ∧ 2048 < d.rd R.AW_CTRL_OFFSET c + d.rd R.AW_CTRL_LEN c then 3
  else 0

/-- A write of AW_CTRL of a pattern (R131, Table 5.6). -/
def Dev.awWrite (d : Dev) (c v : Nat) : Dev :=
  if d.bankBusy then d.awRefused 1
  else if d.on R.AW_CTRL_VALID c then
    let same := bits v 1 1 == d.rd R.AW_CTRL_ANCHORED c && bits v 8 2 == d.rd R.AW_CTRL_LEN c && bits v 12 9 == d.rd R.AW_CTRL_SET c &&
      bits v 23 13 == d.rd R.AW_CTRL_OFFSET c
    (d.when (!same) (fun e => e.awRefused 1)).wr R.AW_CTRL_VALID (v % 2) c
  else
    let e := d.awCtrl c v
    if v % 2 = 0 then e
    else if e.awCause c = 0 then e.flag R.AW_CTRL_VALID c
    else e.awRefused (e.awCause c)

/-- AWL_VALID (R131, R143): a write of AW_CTRL to the selected pattern. -/
def execAwlValid (req value : Nat) (s : State) : Host.Outcome State Fault Refusal :=
  .next (s.onDev (fun d =>
    let e := d.sampleWrite req value
    let v := d.rd (chselField 0x03100000) 0 0 req
    if v < 16384 then e.awWrite (awlChan d.shadowBank v) value
    else if 65536 ≤ v ∧ v < 65536 + 16384 then e.awRefused 1
    else e))

/-! ## Profiles, windows, key (R124-R128) -/

/-- The frame facts of R124: outer tag present, its VID, the EtherType, the offset of the next-header byte. -/
structure Outer where
  tagged : Bool
  vid : Nat
  etype : Nat
  nxt : Nat
  deriving DecidableEq, Repr

/-- Read them from a frame. -/
def Dev.outer (d : Dev) (bs : Bytes) : Outer :=
  let t := be16 bs 12
  if t = 0x8100 ∨ t = 0x88A8 ∨ (d.on R.PR_TPID_TPID2_EN ∧ t = d.rd R.PR_TPID_TPID2) then
    ⟨true, be16 bs 14 % 4096, be16 bs 16, 18⟩
  else ⟨false, 0, t, 14⟩

/-- The channel of a profile in a bank. -/
def profChan (b n : Nat) : Nat := n + 256 * b

/-- Does a valid profile's selector match (R125). -/
def Dev.profMatch (d : Dev) (c src : Nat) (o : Outer) (nxt : Nat) : Bool :=
  d.on R.PF_SEL_VALID c && (d.on R.PF_SEL_PORT_ANY c || d.rd R.PF_SEL_PORT c == src) &&
    (d.on R.PF_SEL_VLAN_ANY c || d.on R.PF_SEL_VLAN c == o.tagged) && (d.on R.PF_SEL_ETYPE_ANY c || d.rd R.PF_SEL2_ETYPE c == o.etype) &&
    (d.on R.PF_SEL_NXT_ANY c || d.rd R.PF_SEL2_NXT c == nxt)

/-- The profile a frame takes: the lowest-numbered valid one that matches; none for a frame shorter than its next-header byte. -/
def Dev.profile (d : Dev) (b src : Nat) (bs : Bytes) : Option Nat :=
  let o := d.outer bs
  if bs.length ≤ o.nxt then none
  else (List.range 64).find? (fun n => d.profMatch (profChan b n) src o (byteAt bs o.nxt))

/-- The mask bytes of a window. -/
def Dev.maskBytes (d : Dev) (c w : Nat) : Bytes :=
  leBytes 4 (d.rd R.MASK0 c w) ++ leBytes 4 (d.rd R.MASK1 c w) ++ leBytes 4 (d.rd R.MASK2 c w) ++ leBytes 4 (d.rd R.MASK3 c w)

/-- The masked bytes of window `w`. -/
def Dev.winBytes (d : Dev) (c w : Nat) (bs : Bytes) : Bytes :=
  (slice bs (d.rd R.WIN_OFFSET c w) (d.rd R.WIN_LEN c w)).zipWith (fun x y => x &&& y) (d.maskBytes c w)

/-- What parsing and classification find of a frame: malformed cause (1 NO_PROFILE, 2 SHORT, 3 LENGTH; 0 for none), profile,
key, Awl result, rule result. -/
structure Parsed where
  malf : Nat := 0
  profile : Nat := 0
  key : Bytes := []
  awl : Nat := 0
  cls : Nat := 0
  colour : Nat := 0
  queue : Nat := 0
  vid : Nat := 0
  deriving DecidableEq, Repr

/-- The length check (R128): 0 passes, 2 SHORT, 3 LENGTH. -/
def Dev.lenCheck (d : Dev) (c : Nat) (bs : Bytes) : Nat :=
  let mode := d.rd R.PF_LEN_LEN_MODE c
  let off := d.rd R.PF_LEN_LEN_OFF c
  if mode = 0 then 0
  else if bs.length < off + 2 then 2
  else
    let x := (be16 bs off : Int) + signed 16 (d.rd R.PF_LEN_LEN_ADJ c)
    if mode = 1 then (if x = bs.length then 0 else 3) else if x ≤ bs.length then 0 else 3

/-- Does a window end beyond byte L - 5 (R127). -/
def Dev.winShort (d : Dev) (c : Nat) (bs : Bytes) : Bool :=
  (List.range (d.rd R.PF_CTRL_NWIN c)).any (fun w => decide (bs.length < d.rd R.WIN_OFFSET c w + d.rd R.WIN_LEN c w))

/-- Parse and classify a frame of source `src` in the active bank (R124-R135); `bs` holds bytes 0 to L - 5. -/
def Dev.parse (d : Dev) (src : Nat) (bs : Bytes) : Parsed :=
  let b := d.activeBank
  match d.profile b src bs with
  | none => { malf := 1 }
  | some n =>
    let c := profChan b n
    let awl := d.awlResult b c bs
    let key := (List.range (d.rd R.PF_CTRL_NWIN c)).flatMap (fun w => d.winBytes c w bs) ++
      (if d.on R.PF_CTRL_AWL_KEY c then beBytes 2 awl else [])
    let p : Parsed := { profile := n, key := key, awl := awl, vid := (d.outer bs).vid }
    if d.winShort c bs then { p with malf := 2 }
    else
      let p := { p with malf := d.lenCheck c bs }
      match d.emLookup b (d.rd R.PF_CTRL_EMT c) n key.length key with
      | some r => { p with cls := r.cls, colour := min r.colour 2, queue := r.queue }
      | none => { p with cls := d.rd R.PF_DEFAULT_CLASS c, colour := min (d.rd R.PF_DEFAULT_COLOUR c) 2, queue := d.rd R.PF_DEFAULT_QUEUE c }

/-! ## Swap and copy (R144-R147) -/

/-- The slots of an enabled table: first, and one past the last. -/
def Dev.emSpan (d : Dev) (b t : Nat) : Nat × Nat :=
  let lo := d.rd R.EM_GEOM_BASE b t * 64
  (lo, lo + 2 ^ d.rd R.EM_GEOM_LOG2_BUCKETS b t * 4 * 2 ^ d.rd R.EM_GEOM_WIDTH b t)

/-- Do enabled tables of the shadow geometry overlap or reach beyond the slots (cause 4). -/
def Dev.geomBad (d : Dev) : Bool :=
  let b := d.shadowBank
  let ts := (List.range 8).filter (d.emOn b)
  ts.any (fun t => decide (2097152 < (d.emSpan b t).2)) ||
    ts.any (fun t => ts.any (fun u => t != u && decide ((d.emSpan b t).1 < (d.emSpan b u).2 ∧ (d.emSpan b u).1 < (d.emSpan b t).2)))

/-- KL of a profile (R126). -/
def Dev.profKl (d : Dev) (c : Nat) : Nat :=
  ((List.range (d.rd R.PF_CTRL_NWIN c)).map (fun w => d.rd R.WIN_LEN c w)).sum + 2 * d.rd R.PF_CTRL_AWL_KEY c

/-- Is a valid profile of the shadow bank unfit (cause 5). -/
def Dev.profBad (d : Dev) : Bool :=
  let b := d.shadowBank
  ((List.range 64).map (profChan b)).any (fun c =>
    d.on R.PF_SEL_VALID c &&
      (decide (64 < d.profKl c) || !d.emOn b (d.rd R.PF_CTRL_EMT c) || decide (d.emWidth b (d.rd R.PF_CTRL_EMT c) < d.profKl c) ||
        d.rd R.PF_LEN_LEN_MODE c == 3))

/-- The cause that refuses a SWAP, 0 for none (R144). -/
def Dev.swapCause (d : Dev) : Nat := if d.bankBusy then 1 else if d.geomBad then 4 else if d.profBad then 5 else 0

/-- A refused SWAP or COPY. -/
def Dev.bankRefused (d : Dev) (cause : Nat) : Dev := (d.flag R.CL_BANK_REFUSED).wr R.CL_BANK_CAUSE cause

/-- An accepted SWAP is pending, and switches at the start of the next tick (R145). -/
def Dev.bankSwap (d : Dev) (cls src : Nat) : Dev :=
  if d.swapCause = 0 then (d.flag R.CL_BANK_SWAP_PENDING).postAct cls src .classSwap else d.bankRefused d.swapCause

/-- The boundary of step 2 of R145: roles exchange, and the new active bank is kept in MRAM (R147). -/
def Dev.bankSwitch (d : Dev) : Dev :=
  let e := ((((d.wr R.CL_BANK_ACTIVE d.shadowBank).wr R.CL_BANK_SWAP_PENDING 0).flag R.CL_BANK_OLD_BUSY).wr R.CL_SWAP_TICK d.tk.etick)
  if d.mram.down then e else { e with mram := { e.mram with bank := bankRegs e.regs e.activeBank 0 } }

/-- SWAP (R144, R145). -/
def execSwap (req : Nat) (s : State) : Host.Outcome State Fault Refusal :=
  .next (s.onDev (fun d => (d.sampleWrite req 2).bankSwap 9 (srcNum (reqIsland req) 0)))

/-- OLD_BUSY_CLEAR (R145): the last old-bank frame has its result; PIPE0 local 8. -/
def execOldBusyClear (s : State) : Host.Outcome State Fault Refusal :=
  .next (s.onDev (fun d => if d.on R.CL_BANK_OLD_BUSY then (d.wr R.CL_BANK_OLD_BUSY 0).raise 11 (srcNum 0x06 8) else d))

/-- COPY (R146). -/
def Dev.bankCopy (d : Dev) : Dev := if d.bankBusy then d.bankRefused 1 else d.flag R.CL_BANK_COPY_BUSY

/-- COPY (R146). -/
def execCopy (req : Nat) (s : State) : Host.Outcome State Fault Refusal := .next (s.onDev (fun d => (d.sampleWrite req 4).bankCopy))

/-- The whole active bank is in the shadow bank: registers and rules (R146). -/
def Dev.bankCopied (d : Dev) : Dev :=
  let a := d.activeBank
  let b := d.shadowBank
  let e := { d with regs := setBank d.regs b (bankRegs d.regs a b) }
  ((List.range 8).foldl (fun e t => e.setRules b t (d.emRules a t)) e).wr R.CL_BANK_COPY_BUSY 0

/-- COPY_DONE (R146). -/
def execCopyDone (s : State) : Host.Outcome State Fault Refusal :=
  .next (s.onDev (fun d => if d.on R.CL_BANK_COPY_BUSY then d.bankCopied else d))

/-- An exit of G3 from reset (R147): bank 0 is loaded from MRAM and active, its tables empty, bank 1 empty. -/
def Dev.bankLoad (d : Dev) : Dev :=
  let e := { d with regs := setBank (setBank d.regs 1 []) 0 d.mram.bank, cls := { d.cls with rules := [] } }
  (List.range 8).foldl (fun e t => e.wr R.EM_USED 0 0 t) e

end Sys2Proof.Machine
end

