-- ==== Sys2Proof/Machine/Rein.lean ====
section
/-!
DEFINITION. Chapter 7: admission, selection, shapers, policers, gate lists, launch times (R175-R194), and the timestamp of
a frame at the MDI (R62, R63). Instants on the wire are picoseconds of the TIME clock; instants of the time base are its
2^-32 ns; gate times are whole nanoseconds of the time base.
-/
namespace Sys2Proof.Machine

/-! ## Ports: rate, granularity, timestamps -/

/-- Port rate in kb/s by mode (Table 2.2). -/
def modeRate (m : Nat) : Nat :=
  match m with
  | 1 => 800000000
  | 2 => 400000000
  | 3 => 200000000
  | 4 => 100000000
  | 5 => 50000000
  | 6 => 25000000
  | _ => 10000000

/-- Start granularity G in ps by mode (Table 7.1). -/
def modeGran (m : Nat) : Nat :=
  match m with
  | 1 => 80
  | 2 => 160
  | 3 => 320
  | 4 => 640
  | 5 => 1280
  | 6 => 1280
  | _ => 3200

/-- Coded rate of a port in units of 1/32 Gb/s by mode (Table 2.1). -/
def modeCoded (m : Nat) : Nat :=
  match m with
  | 1 => 27200
  | 2 => 13600
  | 3 => 6800
  | 4 => 3400
  | 5 => 1700
  | 6 => 825
  | _ => 330

/-- Is a port UP (LSTATE 4). -/
def Dev.up (d : Dev) (p : Nat) : Bool := d.rd R.PT_STATUS_LSTATE p == 4

/-- A timestamp rounded to the nearest 1/16 ns, halves later: `base - n/r` in 2^-16 ns (R62). -/
def roundStamp (base : Int) (n r : Nat) : Nat :=
  (((base * r - n + 2048 * r) / (4096 * r)) * 4096).toNat

/-- V of R63 in 2^-16 ns, as the fraction n/r: (E − P) bits at the coded rate. -/
def varDelayNum (e p : Nat) : Nat := (e - p) * 32 * 65536

/-- The receive timestamp of a frame: T_det − D_rx − V, rounded (R62). -/
def Dev.rxStamp (d : Dev) (port tDet e p : Nat) : Nat :=
  roundStamp ((tDet : Int) - (d.calEff port).dRx) (if port = 16 then 0 else varDelayNum e p) (if port = 16 then 1 else modeCoded (d.portMode port))

/-- The transmit timestamp: T_emit + D_tx + V, rounded (R62). -/
def Dev.txStamp (d : Dev) (port tEmit e p : Nat) : Nat :=
  let r := if port = 16 then 1 else modeCoded (d.portMode port)
  let n := if port = 16 then 0 else varDelayNum e p
  ((((((tEmit : Int) + (d.calEff port).dTx) * r + n + 2048 * r) / (4096 * r)) * 4096)).toNat

/-- Bytes that egress MACsec adds: SecTAG and ICV (R57, R175). -/
def Dev.macsecBytes (d : Dev) (p : Nat) : Nat :=
  if d.on R.MS_CTRL_TX_EN p then (if d.on R.MS_CTRL_INCLUDE_SCI p then 32 else 24) else 0

/-- The occupancy of a frame of length L on a port's line in ps, rounded up to G (R175). -/
def Dev.occupancy (d : Dev) (p len : Nat) : Nat :=
  let m := d.portMode p
  let q := (len + 20 + d.macsecBytes p) * 8 * 10 ^ 9
  ((q + modeRate m * modeGran m - 1) / (modeRate m * modeGran m)) * modeGran m

/-! ## Admission -/

/-- Replace Rein's own state. -/
def Dev.setRein (d : Dev) (f : ReinState → ReinState) : Dev := { d with rein := f d.rein }

/-- Bytes of the shared packet buffer left to Rein: 48 MiB less the sequenced hold area of SQ_HOLD_MAX (R177, R119; KiB). -/
def Dev.bufRoom (d : Dev) : Nat := 48 * 2 ^ 20 - d.rd R.SQ_HOLD_MAX * 1024 - d.rein.used

/-- RN_BUF_USED follows the buffer in use. -/
def Dev.bufUse (d : Dev) (used : Nat) : Dev :=
  (d.setRein (fun r => { r with used := used })).wr R.RN_BUF_USED ((used + 1023) / 1024)

/-- Report the end of a frame of source 16 to the ring engine. -/
def Dev.reinDone (d : Dev) (f : Frame) (status : Nat) (stamp launch : Nat) : Dev :=
  match f.job with
  | some j => d.setRein (fun r => { r with done := r.done ++ [⟨j, status, stamp, launch⟩] })
  | none => d

/-- The device queue of queue number `q` of a port (R176). -/
def Dev.queueOf (d : Dev) (p q : Nat) : Option Nat :=
  if q < d.rd R.RQ_COUNT p then some (d.rd R.RQ_BASE p + q) else none

/-- The depth limit of a colour in bytes (R177). -/
def Dev.queueLimit (d : Dev) (q colour : Nat) : Nat :=
  256 * (if colour = 0 then d.rd R.QS_LIM_GY_LIM_G q else if colour = 1 then d.rd R.QS_LIM_GY_LIM_Y q else d.rd R.QS_LIM_R q)

/-- Put a frame at the tail of a queue. -/
def Dev.enqueue (d : Dev) (q : Nat) (f : Frame) : Dev :=
  ((d.setRein (fun r => { r with queues := SMap.upd r.queues q [] (fun l => l ++ [f]) })).count R.QS_DEPTH f.len q).bufUse
    (d.rein.used + f.len)

/-- Is a frame of source 16 admitted now; if not its ring waits (R177). -/
def Dev.fits16 (d : Dev) (f : Frame) : Bool := decide (f.len ≤ d.bufRoom)

/-- Offer a frame for queue number `qn` of a port (R176-R178). -/
def Dev.enqueueFrame (d : Dev) (p qn : Nat) (f : Frame) : Dev :=
  match d.queueOf p qn with
  | none => (d.count R.RQ_MISS 1 p).reinDone f 4 0 0
  | some q =>
    if !d.up p && d.on R.RN_CTRL_DOWN_FLUSH p then (d.count R.DOWN_FLUSHED 1 p).reinDone f 6 0 0
    else if f.src = 16 ∧ f.job.isSome then d.enqueue q f
    else if d.bufRoom < f.len then d.count R.BUF_FULL_DROP 1 p
    else if d.queueLimit q f.colour < d.rd R.QS_DEPTH q + f.len then
      d.count (if f.colour = 0 then R.QS_DROP_G else if f.colour = 1 then R.QS_DROP_Y else R.QS_DROP_R) 1 q
    else d.enqueue q f

/-! ## Discarding at an exit from UP (R178, R192) -/

/-- Every queue that a port owns and that holds a frame. -/
def Dev.portQueues (d : Dev) (p : Nat) : List Nat :=
  (d.rein.queues.filter (fun e => decide (d.rd R.RQ_BASE p ≤ e.1 ∧ e.1 < d.rd R.RQ_BASE p + d.rd R.RQ_COUNT p) && e.2 != [])).map (·.1)

/-- Discard all frames of one queue, counting them in DOWN_FLUSHED of the port. -/
def Dev.flushQueue (p : Nat) (d : Dev) (q : Nat) : Dev :=
  let fs := SMap.getD d.rein.queues q []
  let e := (d.setRein (fun r => { r with queues := SMap.del r.queues q, defQ := SMap.del r.defQ q })).wr R.QS_DEPTH 0 q
  fs.foldl (fun e f => ((e.count R.DOWN_FLUSHED 1 p).bufUse (e.rein.used - f.len)).reinDone f 6 0 0) e

/-- Discard the launch list of a port: status 6 (Table 7.3), counted with DOWN_FLUSH. -/
def Dev.flushLaunch (d : Dev) (p : Nat) : Dev :=
  let fs := SMap.getD d.rein.launch p []
  fs.foldl (fun e f => ((e.when (d.on R.RN_CTRL_DOWN_FLUSH p) (fun x => x.count R.DOWN_FLUSHED 1 p)).bufUse (e.rein.used - f.len)).reinDone f 6 0 6)
    (d.setRein (fun r => { r with launch := SMap.del r.launch p }))

/-- A class of a port that holds no frame has deficit zero (R180). -/
def Dev.tcEmpty (d : Dev) (p tc : Nat) : Dev :=
  d.when ((d.portQueues p).all (fun x => d.rd R.QS_CFG_TC x != tc)) (fun x => x.setRein (fun r => { r with defTc := SMap.del r.defTc (8 * p + tc) }))

/-- A port leaves LSTATE 4. -/
def Dev.downFlush (d : Dev) (p : Nat) : Dev :=
  let e := d.flushLaunch p
  if d.on R.RN_CTRL_DOWN_FLUSH p then ((e.portQueues p).foldl (Dev.flushQueue p) e).each (List.range 8) (fun x tc => x.tcEmpty p tc) else e

/-! ## Credit shapers (R181) -/

/-- A credit after `dt` ps at a rate in kb/s, at most a top (R181). -/
def creditStep (c rate : Int) (dt : Nat) (top : Int) : Int := min (c + rate * 1024 * (dt : Int) / 10 ^ 9) top

/-- A credit brought forward to an instant: while its last frame is on the line it changes at RATE − C, then it rises at RATE, to at most
BURST × 8 bits; RATE 0 freezes it. -/
def Credit.at' (k : Credit) (now : Nat) : Int :=
  if k.rate = 0 then k.c
  else
    let top : Int := ((k.burst * 8 * 1024 : Nat) : Int)
    let busy := min (now - k.t0) k.occ
    creditStep (creditStep k.c ((k.rate : Int) - (k.line : Int)) busy top) k.rate (now - k.t0 - busy) top

/-- A frame starts at an instant: RATE and BURST take effect, the credit is kept and clipped (R181). -/
def Credit.send (k : Credit) (rate burst line now occ : Nat) : Credit :=
  { c := min (k.at' now) ((burst * 8 * 1024 : Nat) : Int), t0 := now, occ := occ, line := line, rate := rate, burst := burst }

/-- A queue's or class's credit. -/
def Dev.credQ (d : Dev) (q : Nat) : Credit := (SMap.get? d.rein.credQ q).getD {}
def Dev.credTc (d : Dev) (p tc : Nat) : Credit := (SMap.get? d.rein.credTc (8 * p + tc)).getD {}

/-- A shaper is enabled, with no credit and its RATE and BURST in force, or disabled. -/
def Dev.shapeQ (d : Dev) (q : Nat) (en : Bool) : Dev :=
  let k : Credit := { t0 := d.cyc * 1000, rate := d.rd R.QS_RATE q, burst := d.rd R.QS_BURST q }
  d.setRein (fun r => { r with credQ := (if en then SMap.put r.credQ q k else SMap.del r.credQ q) })
def Dev.shapeTc (d : Dev) (p tc : Nat) (en : Bool) : Dev :=
  let k : Credit := { t0 := d.cyc * 1000, rate := d.rd R.TCS_RATE p tc, burst := d.rd R.TCS_BURST p tc }
  d.setRein (fun r => { r with credTc := (if en then SMap.put r.credTc (8 * p + tc) k else SMap.del r.credTc (8 * p + tc)) })

/-- May a queue's shaper send (R179). -/
def Dev.shaperOk (d : Dev) (q now : Nat) : Bool :=
  !d.on R.QS_CFG_SH_EN q || decide (0 ≤ (d.credQ q).at' now)

/-- May a class's shaper send. -/
def Dev.tcShaperOk (d : Dev) (p tc now : Nat) : Bool :=
  !bit (d.rd R.RN_CTRL_TC_SH_EN p) tc || decide (0 ≤ (d.credTc p tc).at' now)

/-! ## Gates (R185-R189) -/

/-- A port's gates. -/
def Dev.gate (d : Dev) (p : Nat) : GatePort := SMap.getD d.gates p {}
def Dev.setGate (d : Dev) (p : Nat) (f : GatePort → GatePort) : Dev := { d with gates := SMap.put d.gates p (f (d.gate p)) }

/-- The end in ns after the cycle start of entry `i`: the sum of intervals, the last entry and every cut at the cycle's end. -/
def GateList.entryEnd (l : GateList) (i : Nat) : Nat :=
  let sum := ((l.entries.take (i + 1)).map (·.2)).sum
  if i + 1 ≥ l.entries.length then l.cycle else min sum l.cycle

/-- The gate bits of an entry. -/
def GateList.gatesOf (l : GateList) (i : Nat) : Nat := (l.entries.getD i (0xFF, 8)).1

/-- Time in ns for which a class's window stays open from the start of entry `i` (`n` entries followed), `none` if past them all. -/
def GateList.openFrom (l : GateList) (tc : Nat) : Nat → Nat → Option Nat
  | _, 0 => none
  | i, n + 1 =>
    if bit (l.gatesOf i) tc then
      let len := l.entryEnd i - (if i = 0 then 0 else l.entryEnd (i - 1))
      let nxt := if i + 1 ≥ l.entries.length ∨ l.entryEnd i ≥ l.cycle then 0 else i + 1
      (GateList.openFrom l tc nxt n).map (· + len)
    else some 0

/-- The longest continuous open window of a class over one cycle, `none` when it is open in every entry that the cycle reaches (R186). -/
def GateList.window (l : GateList) (tc : Nat) : Option Nat :=
  let reached := (List.range l.entries.length).filter (fun i => decide (i = 0 ∨ l.entryEnd (i - 1) < l.cycle))
  let ws := reached.map (fun i => l.openFrom tc i (l.entries.length + 1))
  if ws.any Option.isNone then none else some ((ws.map (fun w => w.getD 0)).foldl max 0)

/-- Whole nanoseconds of the time base. -/
def nsOf (t : Nat) : Nat := t / nsUnit

/-- The present gate bits of a port (R185): GT_INIT while EN = 0 or before the first cycle start. -/
def Dev.gatesNow (d : Dev) (p : Nat) : Nat :=
  if d.on R.GT_CTRL_EN p && (d.gate p).start.isSome then (d.gate p).active.gatesOf (d.gate p).entry else d.rd R.GT_INIT p

/-- The first BASE + n × CYCLE that is not earlier than an instant in ns. -/
def GateList.firstStart (l : GateList) (ns : Nat) : Nat :=
  if ns ≤ l.base ∨ l.cycle = 0 then l.base else l.base + ((ns - l.base + l.cycle - 1) / l.cycle) * l.cycle

/-- The time base at the start of the present tick. -/
def Dev.now (d : Dev) : Nat := d.tb.t

/-- The next cycle start that a port's list has: the one kept, or the first of its grid. -/
def Dev.gateNext (d : Dev) (p : Nat) : Option Nat :=
  match (d.gate p).next with
  | some n => some n
  | none => if d.on R.GT_CTRL_MODE p then none else some ((d.gate p).active.firstStart (nsOf (d.now + nsUnit - 1)))

/-- The instant in ns at which the present gate states end, and the entry that follows: the end of the present entry, or the next cycle
start before the first cycle and while a step holds the entry. -/
def Dev.gateAfter (d : Dev) (p : Nat) : Option (Nat × Nat) :=
  let g := d.gate p
  match g.start with
  | none => (d.gateNext p).map (fun n => (n, 0))
  | some st =>
    if g.hold then some (g.next.getD st, 0)
    else some (st + g.active.entryEnd g.entry,
      if g.entry + 1 ≥ g.active.entries.length ∨ g.active.entryEnd g.entry ≥ g.active.cycle then 0 else g.entry + 1)

/-- Does an occupancy of `occ` ps that starts at time-base instant `t` end within its class's open window (R185). -/
def Dev.gateFits (d : Dev) (p tc occ t : Nat) : Bool :=
  if !bit (d.gatesNow p) tc then false
  else if !d.on R.GT_CTRL_EN p then true
  else
    let g := d.gate p
    let by' (ns : Nat) : Bool := decide (t * 1000 + occ * nsUnit ≤ ns * 1000 * nsUnit)
    (match g.pend with
      | some s => d.on R.GT_CTRL_MODE p || by' s
      | none => true) &&
      (match d.gateAfter p with
      | none => true
      | some (at', i) =>
        (match g.active.openFrom tc i (g.active.entries.length + 1) with
        | none => true
        | some w => by' (at' + w)))

/-- The shadow list of a port as its registers hold it. -/
def Dev.shadowList (d : Dev) (p : Nat) : GateList :=
  let g := d.gate p
  { base := d.rd R.GT_BASE_SEC p * 10 ^ 9 + d.rd R.GT_BASE_NS p
    cycle := d.rd R.GT_CYCLE p
    entries := (List.range (d.rd R.GT_LEN p)).map (fun i =>
      let w := SMap.getD g.shadow i 0x8FF
      (w % 256, w / 256)) }

/-- Is a CHANGE refused, and why (R187). -/
def Dev.changeCause (d : Dev) (p : Nat) : Nat :=
  let l := d.shadowList p
  if d.on R.GT_STATUS_CHANGE_PENDING p then 1
  else if l.entries.length = 0 ∨ l.entries.length > 1024 then 2
  else if l.cycle < 64 ∨ l.cycle > 10 ^ 9 then 3
  else if l.entries.any (fun e => decide (e.2 < 8)) then 4
  else 0

/-- A CHANGE (R187, R188): the switch time is the first cycle start of the new list not earlier than 1 µs after the next tick's
start; in trigger mode that instant is the earliest fire. -/
def Dev.gateChange (d : Dev) (p : Nat) : Dev :=
  let c := d.changeCause p
  if c ≠ 0 then (d.flag R.GT_STATUS_REFUSED p).wr R.GT_STATUS_CAUSE c p
  else
    let earliest := nsOf (d.nowAt 8 + nsUnit - 1) + 1000
    (d.flag R.GT_STATUS_CHANGE_PENDING p).setGate p (fun g =>
      { g with pend := some (if d.on R.GT_CTRL_MODE p then earliest else (d.shadowList p).firstStart earliest) })

/-- CHANGE (R187): a class 9 write. -/
def execChange (req p : Nat) (s : State) : Host.Outcome State Fault Refusal :=
  .next (s.onDev (fun d => (d.sampleWrite req p).gateChange p))

/-- The lists exchange roles (R187). -/
def Dev.gateSwap (d : Dev) (p : Nat) : Dev :=
  let g := d.gate p
  let old := g.active
  let new := d.shadowList p
  let words := (List.range old.entries.length).foldl
    (fun (m : SMap Nat) i => SMap.put m i ((old.entries.getD i (0xFF, 8)).1 + 256 * (old.entries.getD i (0xFF, 8)).2)) []
  (((((((d.setGate p (fun g => { g with active := new, shadow := words, pend := none, start := none, next := none, entry := 0, hold := false })).wr R.GT_STATUS_CHANGE_PENDING 0 p).wr
    R.GT_STATUS_ACTIVE (1 - d.rd R.GT_STATUS_ACTIVE p) p).wr R.GT_LEN old.entries.length p).wr R.GT_CYCLE old.cycle p).wr
    R.GT_BASE_NS (old.base % 10 ^ 9) p).wr R.GT_BASE_SEC (old.base / 10 ^ 9) p)

/-- The first whole nanosecond that is not before the end of the present tick. -/
def Dev.tickEndNs (d : Dev) : Nat := nsOf (d.nowAt 8 + nsUnit - 1)

/-- A cycle starts at an instant in ns: entry 0, GT_CYCLES, the next start, the class 4 event (R185, R189). -/
def Dev.gateCycle (d : Dev) (p at' : Nat) : Dev :=
  ((d.setGate p (fun g => { g with start := some at', next := some (at' + g.active.cycle), entry := 0, hold := false })).count
    R.GT_CYCLES 1 p).when (d.on R.GT_CTRL_EVT p) (fun x => x.raise 4 (srcNum 0x0A p))

/-- GATE_LIST_SWITCH (R187, R189): at S the old list is cut, the lists exchange roles and, with EN set, the new list's first cycle begins;
in trigger mode the switch comes with a fire and only then. -/
def Dev.gateSwitch (d : Dev) (p : Nat) : Dev :=
  match (d.gate p).pend with
  | none => d
  | some s => ((d.gateSwap p).when (d.on R.GT_CTRL_EVT p) (fun x => x.raise 4 (srcNum 0x0A (16 + p)))).when (d.on R.GT_CTRL_EN p) (fun x => x.gateCycle p s)

/-- GATE_LIST_SWITCH (R187). -/
def execGateListSwitch (p : Nat) (s : State) : Host.Outcome State Fault Refusal :=
  .next (s.onDev (fun d =>
    match (d.gate p).pend with
    | none => d
    | some t => if !d.on R.GT_CTRL_MODE p && decide (t < d.tickEndNs) then d.gateSwitch p else d))

/-- GT_CTRL.EN changes: a port's list stands before its first cycle start. -/
def Dev.gateFresh (d : Dev) (p : Nat) : Dev := d.setGate p (fun g => { g with start := none, next := none, entry := 0, hold := false })

/-- GATE_CYCLE_START (R185); a list that is switched at or before the instant starts no cycle there (R187). -/
def execGateCycleStart (p : Nat) (s : State) : Host.Outcome State Fault Refusal :=
  .next (s.onDev (fun d =>
    match d.gateNext p with
    | none => d
    | some n =>
      let cut := match (d.gate p).pend with
        | some s => !d.on R.GT_CTRL_MODE p && decide (s ≤ n)
        | none => false
      if d.on R.GT_CTRL_EN p && decide (n < d.tickEndNs) && !cut then d.gateCycle p n else d))

/-- GATE_ENTRY_EDGE (R185): the present entry's interval ends within its cycle and the next entry takes effect. -/
def execGateEntryEdge (p : Nat) (s : State) : Host.Outcome State Fault Refusal :=
  .next (s.onDev (fun d =>
    let g := d.gate p
    match g.start with
    | none => d
    | some st =>
      if d.on R.GT_CTRL_EN p && !g.hold && decide (g.entry + 1 < g.active.entries.length ∧ g.active.entryEnd g.entry < g.active.cycle ∧
          st + g.active.entryEnd g.entry < d.tickEndNs) then
        d.setGate p (fun g => { g with entry := g.entry + 1 })
      else d))

/-- A trigger fire at a port (R188): a cycle starts at the fire's instant in trigger mode; in time mode it is counted. -/
def Dev.gateFire (d : Dev) (p at' : Nat) (late : Bool) : Dev :=
  if !d.on R.GT_CTRL_MODE p then d.count R.GT_TRIG_IGNORED 1 p
  else if !d.on R.GT_CTRL_EN p then d
  else
    let e := d.when late (fun x => x.flag R.GT_STATUS_LATE_START p)
    let e := match (d.gate p).pend with
      | some s => if s ≤ at' then (e.gateSwap p).when (d.on R.GT_CTRL_EVT p) (fun x => x.raise 4 (srcNum 0x0A (16 + p))) else e
      | none => e
    e.gateCycle p at'

/-- A step on the gates (Table 3.1): the present states hold until the first cycle start on the new time; a switch time that the step has
passed becomes the first cycle start of the new list that is not earlier. -/
def Dev.gatesStep (d : Dev) : Dev :=
  let now := nsOf (d.now + nsUnit - 1)
  { d with gates := d.gates.map (fun e =>
      if d.on R.GT_CTRL_MODE e.1 then e
      else
        let g := { e.2 with pend := e.2.pend.map (fun s => if s < now then (d.shadowList e.1).firstStart now else s) }
        (e.1, if d.on R.GT_CTRL_EN e.1 then { g with next := some (g.active.firstStart now), hold := g.start.isSome } else g)) }

/-! ## Policers (R183, R184) -/

/-- One byte of a bucket in its unit: a rate of R kb/s adds R units per TIME cycle. -/
def byteUnit : Nat := 8000000

/-- A policer with full buckets, the present rates and sizes in force. -/
def Dev.fullBucket (d : Dev) (n : Nat) : Bucket :=
  { tc := d.rd R.PL_CBS n * byteUnit, tp := d.rd R.PL_PBS n * byteUnit, t0 := d.cyc, cir := d.rd R.PL_CIR n, pir := d.rd R.PL_PIR n
    cbs := d.rd R.PL_CBS n, pbs := d.rd R.PL_PBS n }

/-- A policer's buckets at the present cycle, filled at the rates and to the sizes in force. -/
def Dev.buckets (d : Dev) (n : Nat) : Bucket :=
  let b := (SMap.get? d.police n).getD (d.fullBucket n)
  let c := b.tc + b.cir * (d.cyc - b.t0)
  let excess := if d.on R.PL_CTRL_MODE n ∧ d.on R.PL_CTRL_COUPLED n then c - b.cbs * byteUnit else 0
  { b with tc := min c (b.cbs * byteUnit), tp := min (b.tp + b.pir * (d.cyc - b.t0) + excess) (b.pbs * byteUnit), t0 := d.cyc }

/-- The buckets that a frame meets: parameters written since the last frame take effect, and the levels are clipped to the new sizes (R184). -/
def Dev.bucketsNow (d : Dev) (n : Nat) : Bucket :=
  let b := d.buckets n
  { d.fullBucket n with tc := min b.tc (d.rd R.PL_CBS n * byteUnit), tp := min b.tp (d.rd R.PL_PBS n * byteUnit) }

/-- The colour a policer decides and its buckets after (RFC 2698; RFC 4115 with MODE = 1). -/
def policeDecide (mode aware : Bool) (pre len : Nat) (b : Bucket) : Nat × Bucket :=
  let n := len * byteUnit
  let pc := if aware then pre else 0
  if mode then
    if pc = 0 ∧ n ≤ b.tc then (0, { b with tc := b.tc - n })
    else if pc ≤ 1 ∧ n ≤ b.tp then (1, { b with tp := b.tp - n })
    else (2, b)
  else
    if pc = 2 ∨ b.tp < n then (2, b)
    else if pc = 1 ∨ b.tc < n then (1, { b with tp := b.tp - n })
    else (0, { b with tc := b.tc - n, tp := b.tp - n })

/-- A frame passes policer `n`: its colour, whether it is dropped, and the device after (R183). -/
def Dev.policer (d : Dev) (n pre len src : Nat) : Nat × Bool × Dev :=
  if !d.on R.PL_CTRL_EN n then (pre, false, d)
  else
    let r := policeDecide (d.on R.PL_CTRL_MODE n) (d.on R.PL_CTRL_AWARE n) pre len (d.bucketsNow n)
    let drop := (r.1 == 1 && d.on R.PL_CTRL_DROP_YELLOW n) || (r.1 == 2 && d.on R.PL_CTRL_DROP_RED n)
    let e := { d with police := SMap.put d.police n r.2 }
    let e := (e.count (if r.1 = 0 then R.PLC_GREEN_FRAMES else if r.1 = 1 then R.PLC_YELLOW_FRAMES else R.PLC_RED_FRAMES) 1 n).count
      (if r.1 = 0 then R.PLC_GREEN_OCTETS else if r.1 = 1 then R.PLC_YELLOW_OCTETS else R.PLC_RED_OCTETS) len n
    (r.1, drop, e.when drop (fun x => x.count R.PR_DROP_OTHER 1 0 src))

/-! ## Selection (R179, R180) -/

/-- Is a class of a port paused (R53). -/
def Dev.paused (d : Dev) (p tc : Nat) : Bool := bit (d.rd R.PT_PFC_STATUS_RX_PAUSED p) tc

/-- The grid point of a launch time in 2^-16 ps: rounded up to RG_PHASE modulo G within the second (R190, R191). -/
def Dev.gridUp (d : Dev) (p tl : Nat) : Nat :=
  let g := modeGran (d.portMode p) * 65536
  let ph := d.rd R.RG_PHASE 0 (d.rd R.RN_CTRL_RG p) * 1000 % g
  let x := tl * 1000 % (10 ^ 12 * 65536)
  tl * 1000 - x + (if x ≤ ph then ph else ph + ((x - ph + g - 1) / g) * g)

/-- The head of a port's launch list. -/
def Dev.launchHead (d : Dev) (p : Nat) : Option Frame := (SMap.getD d.rein.launch p []).head?

/-- Does a frame that starts now end before the head launch frame's own start (R192). -/
def Dev.beforeLaunch (d : Dev) (p occ t : Nat) : Bool :=
  match d.launchHead p with
  | some f =>
    (match f.launch with
    | some tl => decide (t * 1000 + occ * nsUnit ≤ d.gridUp p tl * 65536)
    | none => true)
  | none => true

/-- The length that decides a frame's occupancy: MAX_FRAME while a cut-through frame's own is unknown (R182). -/
def Dev.lenFor (d : Dev) (p : Nat) (f : Frame) : Nat := if f.cut then d.rd R.PT_MTU p else f.len

/-- Is a queue of a port eligible at instant (ps, time base) (R179). -/
def Dev.eligible (d : Dev) (p now t q : Nat) : Bool :=
  match SMap.getD d.rein.queues q [] with
  | [] => false
  | f :: _ =>
    let tc := d.rd R.QS_CFG_TC q
    let occ := d.occupancy p (d.lenFor p f)
    d.shaperOk q now && d.tcShaperOk p tc now && !d.paused p tc && d.gateFits p tc occ t && d.beforeLaunch p occ t

/-- The eligible queues of a class of a port, ascending. -/
def Dev.tcQueues (d : Dev) (p now t tc : Nat) : List Nat :=
  (d.portQueues p).filter (fun q => d.rd R.QS_CFG_TC q == tc && d.eligible p now t q)

/-- The members of a turn from the one that holds it: it first, then the later ones, then the earlier ones. -/
def turnOrder (l : List Nat) (cur : Option Nat) : List Nat :=
  match cur with
  | none => l
  | some c => l.filter (fun x => c ≤ x) ++ l.filter (fun x => x < c)

/-- One visit chain of deficit round robin (R180). The member that holds the turn (`cont`, the first of the list) sends while its
deficit covers its head frame; then each next eligible member is visited, gains its quantum, and sends if its deficit
covers its head. The answer: the member and the deficits; `fuel` visits at most. -/
def drr (quantum head : Nat → Nat) : Nat → Bool → List Nat → SMap Nat → Option (Nat × SMap Nat)
  | 0, _, _, _ => none
  | _, _, [], _ => none
  | n + 1, cont, m :: rest, def' =>
    let d2 := if cont then def' else SMap.put def' m (SMap.getD def' m 0 + quantum m)
    if head m ≤ SMap.getD d2 m 0 then some (m, d2) else drr quantum head n false (rest ++ [m]) d2

/-- Round robin over the eligible members from the turn's holder, if one has been visited. -/
def drrFrom (quantum head : Nat → Nat) (l : List Nat) (cur : Option Nat) (def' : SMap Nat) : Option (Nat × SMap Nat) :=
  let o := turnOrder l cur
  drr quantum head (256 * (l.length + 1)) (cur.isSome && o.head? == cur) o def'

/-- The length of a queue's head frame. -/
def Dev.headLen (d : Dev) (q : Nat) : Nat := ((SMap.getD d.rein.queues q []).head?.map (·.len)).getD 0

/-- Choose a queue within a class by deficit round robin (R180). -/
def Dev.pickQueue (d : Dev) (p now t tc : Nat) : Option (Nat × SMap Nat) :=
  drrFrom (fun q => d.rd R.QS_CFG_QUANTUM q * 64) d.headLen (d.tcQueues p now t tc) (SMap.get? d.rein.turnQ (8 * p + tc))
    d.rein.defQ

/-- The classes of a port with an eligible queue, ascending. -/
def Dev.eligTcs (d : Dev) (p now t : Nat) : List Nat := (List.range 8).filter (fun tc => d.tcQueues p now t tc != [])

/-- The weight byte of a class. -/
def Dev.tcWeight (d : Dev) (p tc : Nat) : Nat := (d.rd R.TC_WEIGHT p >>> (8 * tc)) % 256

/-- The queue a port serves next, with the deficits after the visits (R179). -/
def Dev.pick (d : Dev) (p now t : Nat) : Option (Nat × Dev) :=
  let sp := (d.eligTcs p now t).filter (fun tc => bit (d.rd R.RN_CTRL_TC_SP p) tc)
  let wrr := (d.eligTcs p now t).filter (fun tc => !bit (d.rd R.RN_CTRL_TC_SP p) tc)
  match sp.reverse with
  | tc :: _ =>
    (d.pickQueue p now t tc).map (fun r =>
      (r.1, d.setRein (fun x => { x with defQ := r.2, turnQ := SMap.put x.turnQ (8 * p + tc) r.1 })))
  | [] =>
    let keys := wrr.map (fun tc => 8 * p + tc)
    let tcHead (k : Nat) : Nat := ((d.pickQueue p now t (k % 8)).map (fun r => d.headLen r.1)).getD 0
    match drrFrom (fun k => d.tcWeight p (k % 8) * 1024) tcHead keys (SMap.get? d.rein.turnTc p) d.rein.defTc with
    | none => none
    | some (k, defTc) =>
      (d.pickQueue p now t (k % 8)).map (fun r =>
        (r.1, d.setRein (fun x =>
          { x with defQ := r.2, turnQ := SMap.put x.turnQ k r.1, turnTc := SMap.put x.turnTc p k,
                   defTc := SMap.put defTc k (SMap.getD defTc k 0 - d.headLen r.1) })))

/-! ## MACsec on transmit (R59, R60) -/

/-- The first valid transmit SC of a port, with its active AN (Table 2.13). -/
def Dev.txSc (d : Dev) (p : Nat) : Option (Nat × Nat) :=
  ((List.range 128).filterMap (fun n =>
    match SMap.get? d.sc (p * 128 + n) with
    | some b => if byteAt b 8 % 4 = 3 then some (n, byteAt b 8 / 4 % 4) else none
    | none => none)).head?

/-- The last packet number an SA may use. -/
def pnLimit (xpn : Bool) : Nat := if xpn then 2 ^ 64 - 1 else 2 ^ 32 - 1

/-- The threshold of MACSEC_PN_THRESH of a port (0x2030). -/
def Dev.pnThresh (d : Dev) (p : Nat) : Nat := d.objNat 0x2030 (p + 1) 0xC0000000

/-- Protect a frame of a port: `none` when no packet number is left or no SA is installed, and the frame is dropped (R60). -/
def Dev.protect (d : Dev) (p : Nat) (b : Bytes) : Option Bytes × Dev :=
  if !d.on R.MS_CTRL_TX_EN p then (some b, d)
  else if d.encl.inhibit then (none, d.count R.CR_INHIBIT_DROP)
  else
    match d.txSc p with
    | none => (none, d.count R.MS_TX_PN_EXHAUSTED 1 p)
    | some (sc, an) =>
      let k := (p * 128 + sc) * 4 + an
      match SMap.get? d.sa k with
      | none => (none, d.count R.MS_TX_PN_EXHAUSTED 1 p)
      | some sa =>
        if pnLimit (d.on R.MS_CTRL_XPN p) < sa.nextPn then (none, d.count R.MS_TX_PN_EXHAUSTED 1 p)
        else
          let e := { d with sa := SMap.put d.sa k { sa with nextPn := sa.nextPn + 1 } }
          let e := (e.count R.MS_OUT_PROTECTED 1 p).count R.MS_OUT_ENCRYPTED 1 p
          let e := e.when (sa.nextPn + 1 == d.pnThresh p) (fun x =>
            ((x.flag R.MS_STATUS_PN_THRESH p).wr R.MS_STATUS_SC sc p).raise 11 (srcNum (2 + p / 4) (p % 4)) sc)
          (some (Config.macsecSeal sa.key sa.nextPn b), e)

/-! ## Sending a frame -/

/-- One's complement sum of a byte string as 16-bit words, for the RFC 1624 update. -/
def csum16 : Bytes → Nat
  | [] => 0
  | [a] => a.toNat * 256
  | a :: b :: r => a.toNat * 256 + b.toNat + csum16 r

/-- Replace bytes from an offset. -/
def patch (b : Bytes) (off : Nat) (x : Bytes) : Bytes := b.take off ++ x ++ b.drop (off + x.length)

/-- The one-step values of R82 written at the PTP header offset: origin mode sets originTimestamp (bytes 34-43) and adds the
sub-nanoseconds to correctionField (bytes 8-15); turnaround mode adds T − T_ref. -/
def oneStepInsert (f : Frame) (stamp : Nat) : Bytes :=
  let cf := beNat (slice f.bytes (f.osOff + 8) 8)
  if f.oneStep = 1 then
    let b := patch f.bytes (f.osOff + 34) (beBytes 6 (stamp / (10 ^ 9 * 65536)) ++ beBytes 4 (stamp / 65536 % 10 ^ 9))
    patch b (f.osOff + 8) (beBytes 8 (cf + stamp % 65536))
  else if f.oneStep = 2 then
    patch f.bytes (f.osOff + 8) (beBytes 8 ((cf + twos 64 ((stamp : Int) - (f.tRef : Int))) % 2 ^ 64))
  else f.bytes

/-- The UDP checksum at `csOff` (0 for none), updated under RFC 1624 for the 16-bit words that changed (R82); a checksum of zero
under IPv4 is left at zero (R226). -/
def udpUpdate (old new : Bytes) (osOff csOff : Nat) (v4 : Bool) : Bytes :=
  let c := be16 old csOff
  if csOff = 0 ∨ (c = 0 ∧ v4) then new
  else
    let o := if (osOff + csOff) % 2 = 0 then osOff else osOff - 1
    let x := (65535 - c) + csum16 (slice new o 46) + (65535 * 64 - csum16 (slice old o 46))
    let z := 65535 - x % 65535
    patch new csOff (beBytes 2 z)

/-- The EtherType of a frame after at most two VLAN tags. -/
def innerType (b : Bytes) : Nat :=
  let tag (o : Nat) := be16 b o == 0x8100 || be16 b o == 0x88A8
  be16 b (if tag 12 then (if tag 16 then 20 else 16) else 12)

/-- The bytes of a frame as it is sent in the clear with its one-step values (R82); a protected frame is two-step (R61). -/
def Dev.wireBytes (d : Dev) (p stamp : Nat) (f : Frame) : Bytes :=
  if f.oneStep = 0 ∨ d.on R.MS_CTRL_TX_EN p then f.bytes
  else udpUpdate f.bytes (oneStepInsert f stamp) f.osOff f.csOff (innerType f.bytes == 0x0800)

/-- A frame starts on a port's line at an instant in ps with transmit timestamp `stamp`: it leaves the buffer, the line is busy for
its occupancy, the counters rise and its end is reported with `launch` status. With no packet number left it is dropped
(R60). `ok` is done only when it is sent. -/
def Dev.sendFrame (d : Dev) (p now stamp : Nat) (f : Frame) (launch : Nat) (ok : Dev → Dev) : Dev :=
  let r := d.protect p (d.wireBytes p stamp f)
  let e := r.2.bufUse (r.2.rein.used - f.len)
  match r.1 with
  | none => e.reinDone f 3 0 launch
  | some w =>
    let e := match f.cap with
      | some cp => e.histValue cp 0 ((stamp : Int) - (f.stamp : Int))
      | none => e
    ok ((((e.count R.TX_FRAMES 1 p).count R.TX_OCTETS f.len p).setRein (fun x =>
      { x with busy := SMap.put x.busy p (now + d.occupancy p f.len), wire := x.wire ++ [⟨p, f.id, w, stamp⟩] })).reinDone f 0 stamp
        launch)

/-- Charge a queue, and its class, for a frame (R180, R181): deficits and credits. -/
def Dev.charge (d : Dev) (p q now len : Nat) : Dev :=
  let tc := d.rd R.QS_CFG_TC q
  let occ := d.occupancy p len
  let c := modeRate (d.portMode p)
  let kq := (d.credQ q).send (d.rd R.QS_RATE q) (d.rd R.QS_BURST q) c now occ
  let kt := (d.credTc p tc).send (d.rd R.TCS_RATE p tc) (d.rd R.TCS_BURST p tc) c now occ
  d.setRein (fun x =>
    { x with
      credQ := if d.on R.QS_CFG_SH_EN q then SMap.put x.credQ q kq else x.credQ
      credTc := if bit (d.rd R.RN_CTRL_TC_SH_EN p) tc then SMap.put x.credTc (8 * p + tc) kt else x.credTc
      defQ := SMap.put x.defQ q (SMap.getD x.defQ q 0 - len) })

/-- Take the head frame off a queue; an empty member's deficit is zero (R180). -/
def Dev.dequeue (d : Dev) (q : Nat) : Dev :=
  match SMap.getD d.rein.queues q [] with
  | [] => d
  | f :: rest =>
    (d.setRein (fun x =>
      { x with queues := if rest = [] then SMap.del x.queues q else SMap.put x.queues q rest
               defQ := if rest = [] then SMap.del x.defQ q else x.defQ })).wr R.QS_DEPTH (d.rd R.QS_DEPTH q - f.len) q

/-- A queued frame starts. -/
def Dev.startQueued (d : Dev) (p q now stamp : Nat) : Dev :=
  match SMap.getD d.rein.queues q [] with
  | [] => d
  | f :: _ =>
    (((d.charge p q now f.len).dequeue q).tcEmpty p (d.rd R.QS_CFG_TC q)).sendFrame p now stamp f 0 (fun x => (x.count R.QS_TX_FRAMES 1 q).count R.QS_TX_OCTETS f.len q)

/-- Heads that exceed their class's longest window are dropped (R186). -/
def Dev.dropOversize (d : Dev) (p : Nat) : Dev :=
  if !d.on R.GT_CTRL_EN p || (d.gate p).start.isNone then d
  else
    (d.portQueues p).foldl (fun e q =>
      match SMap.getD e.rein.queues q [] with
      | [] => e
      | f :: _ =>
        (match (e.gate p).active.window (e.rd R.QS_CFG_TC q) with
        | none => e
        | some w =>
          if w * 1000 < e.occupancy p (e.lenFor p f) then
            ((((e.dequeue q).tcEmpty p (e.rd R.QS_CFG_TC q)).bufUse (e.rein.used - f.len)).count R.GT_OVERSIZE 1 p).reinDone f 5 0 0
          else e)) d

/-! ## Launch frames (R191-R194) -/

/-- Place a frame in a launch list: by launch time, then by arrival. -/
def launchInsert (f : Frame) : List Frame → List Frame
  | [] => [f]
  | g :: r => if f.launch.getD 0 < g.launch.getD 0 then f :: g :: r else g :: launchInsert f r

/-- A launch frame arrives: more than 1 s ahead it is refused (status 7); at a port that is down it is discarded with DOWN_FLUSH, and else waits
in the list (R178). -/
def Dev.launchArrive (d : Dev) (p : Nat) (f : Frame) : Dev :=
  if d.now + secUnit < f.launch.getD 0 * 65536 then d.reinDone f 7 0 7
  else if !d.up p && d.on R.RN_CTRL_DOWN_FLUSH p then (d.count R.DOWN_FLUSHED 1 p).reinDone f 6 0 6
  else
    (d.setRein (fun r => { r with launch := SMap.upd r.launch p [] (launchInsert f) })).bufUse (d.rein.used + f.len)

/-- The launch status of a frame sent on time (Table 7.3); `moved` when an alignment marker left no start at its grid point. -/
def Dev.launchStatus (d : Dev) (p tl : Nat) (moved : Bool) : Nat :=
  if !bit (d.rd R.RG_ALIGNED) p then 4 else if moved then 3 else if d.gridUp p tl = tl * 1000 then 0 else 1

/-- Remove the head of a launch list. -/
def Dev.launchPop (d : Dev) (p : Nat) : Dev :=
  d.setRein (fun r => { r with launch := SMap.upd r.launch p [] List.tail })

/-- The head launch frame of a port starts at instant `now`, late or on time. -/
def Dev.launchSend (d : Dev) (p now stamp : Nat) (f : Frame) (status : Nat) : Dev :=
  (d.launchPop p).sendFrame p now stamp f status (fun x => x.count (if status = 2 then R.RL_LATE else R.RL_SENT) 1 p)

/-- The head launch frame is late and discarded. -/
def Dev.launchDrop (d : Dev) (p : Nat) (f : Frame) : Dev :=
  ((((d.launchPop p).bufUse (d.rein.used - f.len)).count R.RL_DISCARD 1 p).reinDone f 7 0 5)

/-- Can a frame of class `tc` start on a port's line at `now` (line free, UP, class not paused). -/
def Dev.lineFree (d : Dev) (p now : Nat) : Bool := d.up p && decide (SMap.getD d.rein.busy p 0 ≤ now)

/-- LAUNCH_DUE (R192): at its grid point the head launch frame of a port starts; when it cannot, it is late and is discarded, or
waits for the first possible start. `off` is the instant in ps within the tick, `tEmit`, `e`, `v` those of R62 and R63. -/
def execLaunchDue (p off tEmit e v : Nat) (moved : Bool) (s : State) : Host.Outcome State Fault Refusal :=
  .next (s.onDev (fun d =>
    let now := d.cyc * 1000 + off
    match d.launchHead p with
    | none => d
    | some f =>
      let grid := d.gridUp p (f.launch.getD 0)
      if d.nowAt 8 * 1000 ≤ grid * 65536 then d
      else if d.lineFree p now && !d.paused p f.tc && (moved || decide (d.now * 1000 ≤ grid * 65536)) then
        d.launchSend p now (d.txStamp p tEmit e v) f (d.launchStatus p (f.launch.getD 0) moved)
      else if d.on R.RN_CTRL_RL_LATE_ACTION p then d.launchDrop p f
      else if d.lineFree p now && !d.paused p f.tc then d.launchSend p now (d.txStamp p tEmit e v) f 2
      else d))

/-- FRAME_START (R179): at a free line Rein starts the head launch frame that is late, else the head frame of the selected
queue. -/
def execFrameStart (p off tEmit e v : Nat) (s : State) : Host.Outcome State Fault Refusal :=
  .next (s.onDev (fun d =>
    let now := d.cyc * 1000 + off
    let t := d.now + off * nsUnit / 1000
    if !d.lineFree p now then d
    else
      let d := d.dropOversize p
      let late := match d.launchHead p with
        | some f => decide (d.gridUp p (f.launch.getD 0) * 65536 < t * 1000) && !d.paused p f.tc
        | none => false
      match late, d.launchHead p with
      | true, some f =>
        if d.on R.RN_CTRL_RL_LATE_ACTION p then d.launchDrop p f
        else d.launchSend p now (d.txStamp p tEmit e v) f 2
      | _, _ =>
        match d.pick p now t with
        | none => d
        | some (q, d') => d'.startQueued p q now (d.txStamp p tEmit e v)))

/-! ## Release groups (R190) -/

/-- The members of a release group. -/
def Dev.groupMembers (d : Dev) (r : Nat) : List Nat :=
  (List.range 16).filter (fun p => d.on R.RN_CTRL_RG_EN p && d.rd R.RN_CTRL_RG p == r)

/-- Would a port join a group of another mode (R190). -/
def Dev.groupBad (d : Dev) (p r : Nat) : Bool := ((d.groupMembers r).filter (fun x => x != p)).any (fun x => d.portMode x != d.portMode p)

/-- RELEASE_GROUP_ALIGNED (R190): a member in LSTATE 4 reaches the grid. -/
def execReleaseGroupAligned (p : Nat) (s : State) : Host.Outcome State Fault Refusal :=
  .next (s.onDev (fun d => d.when (d.on R.RN_CTRL_RG_EN p && d.up p) (fun e => e.wr R.RG_ALIGNED (setBit (e.rd R.RG_ALIGNED) p true))))

end Sys2Proof.Machine
end

