-- ==== Sys2Proof/Machine/Ports.lean ====
section
/-!
DEFINITION. Chapter 2: lane group modes (R40-R44), link states (R45, R46), flow control (R52-R54), counters' snapshot (R64),
SyncE squelch (R55).
-/
namespace Sys2Proof.Machine

/-! ## Modes -/

/-- The lanes of a port: 8, 4, 2 or 1 from its own number (R40, Table 2.2). -/
def Dev.lanes (d : Dev) (p : Nat) : List Nat :=
  (List.range (match d.portMode p with
    | 1 => 8
    | 2 => 4
    | 3 => 2
    | _ => 1)).map (· + p)

/-- The other group of a pair. -/
def pairOf (g : Nat) : Nat := if g % 2 = 0 then g + 1 else g - 1

/-- The groups that a mode write of `g` affects (R41). -/
def Dev.modeGroups (d : Dev) (g mode : Nat) : List Nat :=
  if mode = 1 ∨ d.rd R.LG_MODE 0 g = 1 then [g, pairOf g] else [g]

/-- The ports of a list of groups. -/
def groupPorts (gs : List Nat) : List Nat := gs.flatMap (fun g => (List.range 4).map (fun i => 4 * g + i))

/-- Does every port of the affected groups have ENABLE = 0 (R42). -/
def Dev.modeFree (d : Dev) (g mode : Nat) : Bool := (groupPorts (d.modeGroups g mode)).all (fun p => !d.on R.PT_CTRL_ENABLE p)

/-- PORT_FORMED follows the modes. -/
def Dev.formedSum (d : Dev) : Dev :=
  d.wr R.PORT_FORMED (((List.range 16).filter (fun p => d.formed p)).map (fun p => 2 ^ p)).sum

/-- The FEC that a mode write gives a port it forms (Table 2.3). -/
def fecDefault (m : Nat) : Nat := if m = 6 then 1 else if m = 7 then 0 else 2

/-- May a port's LL be set: a 10GbE or 25GbE port with FEC 0 (R48). -/
def Dev.llOk (d : Dev) (p : Nat) : Bool := decide (6 ≤ d.portMode p) && d.formed p && d.rd R.PT_CTRL_FEC p == 0

/-- SQUELCHED of both recovered-clock outputs (R55): while the lane lacks CDR lock or its port is not UP. -/
def Dev.synce (d : Dev) : Dev :=
  [0, 1].foldl (fun e i =>
    let lane := e.rd R.SYNCE_RCLK_LANE 0 i
    let up := (List.range 16).any (fun p => e.formed p && (e.lanes p).contains lane && e.up p)
    e.wr R.SYNCE_RCLK_SQUELCHED (b2n (e.on R.SYNCE_RCLK_AUTO_SQUELCH 0 i && (!e.on R.SD_STATUS_CDR_LOCK lane || !up))) 0 i) d

/-! ## Link states (Table 2.4) -/

/-- The source number of a port's link events (R46). -/
def linkSrc (p : Nat) : Nat := srcNum (2 + p / 4) (p % 4)

/-- What ends at an exit from UP: counters, a frame half received or half sent, Rein's frames (R45, R178). -/
def Dev.leaveUp (d : Dev) (p : Nat) (rxBusy : Bool) : Dev :=
  let e := ((d.count R.LINK_DOWN 1 p).when rxBusy (fun x => x.count R.RX_FRAGMENT 1 p)).when
    (decide (d.cyc * 1000 < SMap.getD d.rein.busy p 0)) (fun x => x.count R.TX_ABORT 1 p)
  ((e.setRein (fun r => { r with busy := SMap.del r.busy p })).downFlush p).wr R.RG_ALIGNED (setBit (d.rd R.RG_ALIGNED) p false)

/-- A port enters a link state (R46). -/
def Dev.linkTo (d : Dev) (p st : Nat) (rxBusy : Bool := false) : Dev :=
  let old := d.rd R.PT_STATUS_LSTATE p
  if old = st then d
  else
    let e := (d.wr R.PT_STATUS_LSTATE st p).flag R.PT_STATUS_LINK_CHG p
    let e := e.wr R.LINK_SUM (setBit (e.rd R.LINK_SUM) p (st == 4))
    let e := if old = 4 then (e.leaveUp p rxBusy).raise 11 (linkSrc p) st
      else if st = 4 then e.raise 11 (linkSrc p) st else e
    e.synce

/-- Set or clear signal and lock on lanes; EYE reads 0 without them (Table 2.11). -/
def Dev.laneState (d : Dev) (l : List Nat) (sig lock : Bool) : Dev :=
  l.foldl (fun e n =>
    let e := (e.wr R.SD_STATUS_SIGNAL (b2n sig) n).wr R.SD_STATUS_CDR_LOCK (b2n lock) n
    e.when (!(sig && lock)) (fun x => x.wr R.SD_STATUS_EYE 0 n)) d

/-- Setting ENABLE (Table 2.4). -/
def Dev.portEnable (d : Dev) (p : Nat) : Dev :=
  if d.formed p ∧ ¬d.on R.PT_CTRL_ENABLE p then (d.flag R.PT_CTRL_ENABLE p).linkTo p 1 else d

/-- Clearing ENABLE (Table 2.4). -/
def Dev.portDisable (d : Dev) (p : Nat) (rxBusy : Bool) : Dev :=
  if d.formed p ∧ d.on R.PT_CTRL_ENABLE p then
    ((((d.wr R.PT_CTRL_ENABLE 0 p).linkTo p 0 rxBusy).wr R.PT_STATUS_LOCAL_FAULT 0 p).wr R.PT_STATUS_REMOTE_FAULT 0 p).wr R.PT_STATUS_HI_BER 0 p
  else d

/-- PORT_ENABLE (R45). -/
def execPortEnable (req p : Nat) (s : State) : Host.Outcome State Fault Refusal :=
  .next (s.onDev (fun d => (d.sampleWrite req p).portEnable p))

/-- PORT_DISABLE (R45): `rxBusy` says that a frame is being received. -/
def execPortDisable (req p : Nat) (rxBusy : Bool) (s : State) : Host.Outcome State Fault Refusal :=
  .next (s.onDev (fun d => (d.sampleWrite req p).portDisable p rxBusy))

/-- LINK_SIGNAL_LOCK (R45): all lanes have signal and CDR lock, with the eye height last measured. -/
def execLinkSignalLock (p eye : Nat) (s : State) : Host.Outcome State Fault Refusal :=
  .next (s.onDev (fun d =>
    let e := (d.lanes p).foldl (fun x n => x.wr R.SD_STATUS_EYE eye n) (d.laneState (d.lanes p) true true)
    if d.rd R.PT_STATUS_LSTATE p = 1 then
      e.linkTo p (if d.on R.PT_CTRL_AN_EN p || d.on R.PT_CTRL_LT_EN p then 2 else 3)
    else e.synce))

/-- LINK_TRAIN_DONE (R45, R65): the taps that training chose stand in SD_TXEQ. -/
def execLinkTrainDone (p pre main post : Nat) (s : State) : Host.Outcome State Fault Refusal :=
  .next (s.onDev (fun d =>
    if d.rd R.PT_STATUS_LSTATE p = 2 then
      ((d.lanes p).foldl (fun x n => ((x.wr R.SD_TXEQ_PRE pre n).wr R.SD_TXEQ_MAIN main n).wr R.SD_TXEQ_POST post n) d).linkTo p 3
    else d))

/-- LINK_TRAIN_FAIL (R45). -/
def execLinkTrainFail (p : Nat) (s : State) : Host.Outcome State Fault Refusal :=
  .next (s.onDev (fun d => if d.rd R.PT_STATUS_LSTATE p = 2 then d.linkTo p 1 else d))

/-- LINK_TRAIN_TIMEOUT (R45). -/
def execLinkTrainTimeout (p : Nat) (s : State) : Host.Outcome State Fault Refusal :=
  .next (s.onDev (fun d => if d.rd R.PT_STATUS_LSTATE p = 2 then d.linkTo p 1 else d))

/-- LINK_ALIGN_LOCK (R45): every lock held with HI_BER clear. -/
def execLinkAlignLock (p : Nat) (s : State) : Host.Outcome State Fault Refusal :=
  .next (s.onDev (fun d => if d.rd R.PT_STATUS_LSTATE p = 3 then (d.wr R.PT_STATUS_HI_BER 0 p).linkTo p 4 else d))

/-- LINK_FAULT (R45): a local or remote fault. -/
def execLinkFault (p : Nat) (remote rxBusy : Bool) (s : State) : Host.Outcome State Fault Refusal :=
  .next (s.onDev (fun d =>
    let e := d.flag (if remote then R.PT_STATUS_REMOTE_FAULT else R.PT_STATUS_LOCAL_FAULT) p
    if d.rd R.PT_STATUS_LSTATE p = 4 then e.linkTo p 5 rxBusy else e))

/-- LINK_FAULT_CLEAR (R45): the faults have been clear for 1 ms. -/
def execLinkFaultClear (p : Nat) (s : State) : Host.Outcome State Fault Refusal :=
  .next (s.onDev (fun d =>
    let e := (d.wr R.PT_STATUS_REMOTE_FAULT 0 p).wr R.PT_STATUS_LOCAL_FAULT 0 p
    if d.rd R.PT_STATUS_LSTATE p = 5 then e.linkTo p 4 else e))

/-- LINK_LOCK_LOSS (R45): loss of a lock, or high BER. -/
def execLinkLockLoss (p : Nat) (hiBer rxBusy : Bool) (s : State) : Host.Outcome State Fault Refusal :=
  .next (s.onDev (fun d =>
    let e := d.when hiBer (fun x => x.flag R.PT_STATUS_HI_BER p)
    if d.rd R.PT_STATUS_LSTATE p = 4 ∨ d.rd R.PT_STATUS_LSTATE p = 5 then e.linkTo p 3 rxBusy else e))

/-- LINK_SIGNAL_LOSS (R45): a lane of the port loses signal (`sig`), or CDR lock alone. -/
def execLinkSignalLoss (p lane : Nat) (sig rxBusy : Bool) (s : State) : Host.Outcome State Fault Refusal :=
  .next (s.onDev (fun d =>
    let e := d.laneState [lane] (!sig && d.on R.SD_STATUS_SIGNAL lane) false
    if d.rd R.PT_STATUS_LSTATE p ≥ 2 then e.linkTo p 1 rxBusy else e.synce))

/-! ## The objects of a port (Table 2.12) -/

/-- PT_CTRL.FEC is written where Table 2.3 offers a choice, and a change alters the rate code (R44, R87). -/
def Dev.fecWrite (d : Dev) (p v : Nat) : Dev :=
  if d.portMode p = 6 ∧ d.formed p ∧ v ≤ 1 ∧ v ≠ d.rd R.PT_CTRL_FEC p then
    let e := (d.wr R.PT_CTRL_FEC v p).when (v == 1) (fun x => x.wr R.PT_CTRL_LL 0 p)
    e.calChange p (e.calNow p) (d.calEff p)
  else d

/-- PT_CTRL.LL (R48). -/
def Dev.llWrite (d : Dev) (p v : Nat) : Dev := if d.llOk p then d.wr R.PT_CTRL_LL v p else d

/-- PT_CTRL.FC (R52): 3 is ignored. -/
def Dev.fcWrite (d : Dev) (p v : Nat) : Dev := if v = 3 then d else d.wr R.PT_CTRL_FC v p

/-- PT_MTU.MAX_FRAME: 64 to 9,216. -/
def Dev.mtuWrite (d : Dev) (p v : Nat) : Dev := if 64 ≤ v ∧ v ≤ 9216 then d.wr R.PT_MTU v p else d

/-- The persisted objects of a formed port go to its registers (Table 2.12). -/
def Dev.portObjects (d : Dev) (p : Nat) : Dev :=
  let fc := d.objNat 0x2006 (p + 1) 0x0000FFFF00000000
  let e := d.fecWrite p (d.objNat 0x2002 (p + 1) (d.rd R.PT_CTRL_FEC p))
  let e := e.llWrite p (d.objNat 0x2003 (p + 1) 0)
  let e := (e.wr R.PT_CTRL_AN_EN (d.objNat 0x2004 (p + 1) 0 % 2) p).wr R.PT_CTRL_LT_EN (d.objNat 0x2004 (p + 1) 0 / 2 % 2) p
  let e := (e.mtuWrite p (d.objNat 0x2005 (p + 1) 1522)).fcWrite p (fc % 4)
  let e := ((e.wr R.PT_PFC_PFC_RX_EN (bits fc 15 8) p).wr R.PT_PFC_PFC_TX_EN (bits fc 23 16) p).wr R.PT_PFC_PAUSE_QUANTA (bits fc 47 32) p
  if d.objNat 0x2001 (p + 1) 0 = 1 then e.portEnable p else e

/-- A port that a mode write forms takes the mode's FEC and then its persisted objects (R44, Table 2.12). -/
def Dev.formPort (d : Dev) (p : Nat) : Dev :=
  ((d.wr R.PT_CTRL_FEC (fecDefault (d.portMode p)) p).wr R.PT_CTRL_LL 0 p).portObjects p

/-- A mode write that takes effect (R41): modes of the group and its pair, the ports formed, release groups left (R190), rate
codes (R87). -/
def Dev.modeApply (d : Dev) (g mode : Nat) : Dev :=
  let gs := d.modeGroups g mode
  let e := gs.foldl (fun x h => x.wr R.LG_MODE (if mode = 1 ∨ h = g then mode else 0) 0 h) d
  let e := e.formedSum
  let ps := groupPorts gs
  let e := ps.foldl (fun x p => if x.formed p && !d.formed p || x.formed p && decide (x.portMode p ≠ d.portMode p) then x.formPort p else x) e
  let e := ps.foldl (fun x p =>
    if x.portMode p ≠ d.portMode p then
      (x.wr R.RN_CTRL_RG_EN 0 p).wr R.RG_ALIGNED (setBit (x.rd R.RG_ALIGNED) p false)
    else x) e
  ps.foldl (fun x p => if x.rateCode p ≠ d.rateCode p then x.calChange p (x.calNow p) (d.calEff p) else x) e

/-- LG_MODE_WRITE (R41, R42): a register write of LG_MODE`g`; a port enabled in an affected group, or a reserved mode, leaves it
ignored and sets the group's LG_MODE_REFUSED bit. -/
def execLgModeWrite (req g mode : Nat) (s : State) : Host.Outcome State Fault Refusal :=
  .next (s.onDev (fun d =>
    let e := d.sampleWrite req mode
    if mode < 8 ∧ d.modeFree g mode then e.modeApply g mode
    else e.wr R.LG_MODE_REFUSED (setBit (e.rd R.LG_MODE_REFUSED) g true)))

/-! ## Flow control -/

/-- Pause a class of a port for quanta; zero releases it (R53). -/
def Dev.pauseClass (d : Dev) (p c q : Nat) : Dev :=
  let e := d.wr R.PT_PFC_STATUS_RX_PAUSED (setBit (d.rd R.PT_PFC_STATUS_RX_PAUSED p) c (q != 0)) p
  { e with ports := { e.ports with pausedBy := if q = 0 then SMap.del e.ports.pausedBy (8 * p + c) else SMap.put e.ports.pausedBy (8 * p + c) q } }

/-- The MAC consumes a PAUSE frame (`pfc` false, its quanta first in the list) or a PFC frame (`classes` its enable bits, quanta by
class): it is counted, and acts only under the selected setting (R52, R53). -/
def Dev.macControl (d : Dev) (p : Nat) (pfc : Bool) (classes : Nat) (quanta : List Nat) : Dev :=
  let e := d.count R.RX_PAUSE 1 p
  if pfc then
    let e := (bitsSet 8 classes).foldl (fun x c => x.count R.RX_PFC 1 p c) e
    if d.rd R.PT_CTRL_FC p = 2 then
      (bitsSet 8 classes).foldl (fun x c =>
        if bit (x.rd R.PT_PFC_PFC_RX_EN p) c then x.pauseClass p c (quanta.getD c 0) else x) e
    else e
  else if d.rd R.PT_CTRL_FC p = 1 then (List.range 8).foldl (fun x c => x.pauseClass p c (quanta.getD 0 0)) e
  else e

/-- MAC_CONTROL_FRAME (R52, R53). -/
def execMacControlFrame (p : Nat) (pfc : Bool) (classes : Nat) (quanta : List Nat) (s : State) : Host.Outcome State Fault Refusal :=
  .next (s.onDev (fun d => d.macControl p pfc classes quanta))

/-- PFC_PAUSE_EXPIRE (R53): the pause time of a class has run out. -/
def execPfcPauseExpire (p c : Nat) (s : State) : Host.Outcome State Fault Refusal :=
  .next (s.onDev (fun d => d.pauseClass p c 0))

/-- The port sends a PFC frame for one class (R54). -/
def Dev.sendPfc (d : Dev) (p c q : Nat) : Dev :=
  let e := (d.count R.TX_PAUSE 1 p).count R.TX_PFC 1 p c
  { e with ports := { e.ports with pfcSent := e.ports.pfcSent ++ [⟨p, 2 ^ c, q⟩] } }

/-- The ingress occupancy of a class as last seen, in 256-byte units. -/
def Dev.setOcc (d : Dev) (p c occ : Nat) : Dev := { d with ports := { d.ports with occ := SMap.put d.ports.occ (8 * p + c) occ } }

/-- PFC_XOFF (R54): the occupancy of an enabled class has reached PFC_XOFF. -/
def execPfcXoff (p c occ : Nat) (s : State) : Host.Outcome State Fault Refusal :=
  .next (s.onDev (fun d =>
    let e := d.setOcc p c occ
    if bit (d.rd R.PT_PFC_PFC_TX_EN p) c ∧ d.rd R.PT_PFC_THR_PFC_XOFF p ≤ occ ∧ ¬bit (d.rd R.PT_PFC_STATUS_TX_PAUSED p) c then
      (e.sendPfc p c (d.rd R.PT_PFC_PAUSE_QUANTA p)).wr R.PT_PFC_STATUS_TX_PAUSED (setBit (d.rd R.PT_PFC_STATUS_TX_PAUSED p) c true) p
    else e))

/-- PFC_REPEAT (R54): half of the quanta have elapsed with the occupancy still at or above PFC_XON. -/
def execPfcRepeat (p c occ : Nat) (s : State) : Host.Outcome State Fault Refusal :=
  .next (s.onDev (fun d =>
    let e := d.setOcc p c occ
    if bit (d.rd R.PT_PFC_STATUS_TX_PAUSED p) c ∧ d.rd R.PT_PFC_THR_PFC_XON p ≤ occ then e.sendPfc p c (d.rd R.PT_PFC_PAUSE_QUANTA p) else e))

/-- PFC_XON (R54): the occupancy has fallen below PFC_XON and the port sends quanta 0. -/
def execPfcXon (p c occ : Nat) (s : State) : Host.Outcome State Fault Refusal :=
  .next (s.onDev (fun d =>
    let e := d.setOcc p c occ
    if bit (d.rd R.PT_PFC_STATUS_TX_PAUSED p) c ∧ occ < d.rd R.PT_PFC_THR_PFC_XON p then
      (e.sendPfc p c 0).wr R.PT_PFC_STATUS_TX_PAUSED (setBit (d.rd R.PT_PFC_STATUS_TX_PAUSED p) c false) p
    else e))

/-! ## Snapshot -/

/-- The counters of Table 2.9 in the order of their offsets. -/
def portCounters : List (Field × Nat) :=
  [(R.RX_FRAMES_OK, 0), (R.RX_OCTETS_OK, 0), (R.RX_FCS_ERR, 0), (R.RX_UNDERSIZE, 0), (R.RX_OVERSIZE, 0), (R.RX_FRAGMENT, 0),
   (R.TX_FRAMES, 0), (R.TX_OCTETS, 0), (R.TX_STOMPED, 0), (R.TX_ABORT, 0), (R.FEC_CORR_CW, 0), (R.FEC_UNCORR_CW, 0),
   (R.FEC_CORR_SYMBOLS, 0), (R.LINK_DOWN, 0), (R.RX_PAUSE, 0), (R.TX_PAUSE, 0)] ++
  (List.range 8).map (fun c => (R.RX_PFC, c)) ++ (List.range 8).map (fun c => (R.TX_PFC, c))

/-- SNAP (R64): every counter of the port goes to the snapshot area in one event tick. -/
def execSnap (req p : Nat) (s : State) : Host.Outcome State Fault Refusal :=
  .next (s.onDev (fun d =>
    (portCounters.zipIdx).foldl (fun e x => e.wr R.PT_SNAP (d.rd x.1.1 p x.1.2) p x.2) (d.sampleWrite req p)))

end Sys2Proof.Machine
end

