-- ==== Sys2Proof/Machine/ErrorLog.lean ====
section
/-!
DEFINITION. Chapter 17: error reports and their log (R428-R433).
-/
namespace Sys2Proof.Machine

/-- Write a record to the MRAM ring (R432); while VDD_MRAM is too low nothing is written (R446). -/
def Dev.mramLog (d : Dev) (r : LogRec) : Dev :=
  if d.mram.down then d
  else { d with mram := { d.mram with log := SMap.put d.mram.log (d.mram.logSeq % 4096) r, logSeq := (d.mram.logSeq + 1) % 2 ^ 32 } }

/-- The 32 bytes of a record (Table 17.5); `seq` is its sequence number. -/
def LogRec.encode (r : LogRec) (seq : Nat) : Bytes :=
  leBytes 8 r.rep.tick ++ leBytes 2 r.rep.src ++ [BitVec.ofNat 8 r.rep.cls, BitVec.ofNat 8 (b2n r.held + 2 * b2n r.grpReset)] ++
    leBytes 4 seq ++ leBytes 2 r.suppressed ++ [0#8, 0#8] ++ leBytes 8 r.rep.loc ++ leBytes 2 r.rep.code ++ leBytes 2 r.rep.nbits

def Dev.errSource (d : Dev) (src : Nat) : ErrSource := SMap.getD d.faults.sources src {}
def Dev.setSource (d : Dev) (src : Nat) (x : ErrSource) : Dev :=
  let e := { d with faults := { d.faults with sources := SMap.put d.faults.sources src x } }
  (e.wr R.FS_PENDING_FIRST (b2n x.first.isSome) src).wr R.FS_PENDING_LATEST (b2n x.latest.isSome) src

/-- Does the rate of R430 allow a source a record now: none in the last 125 event ticks. -/
def Dev.rateOk (d : Dev) (x : ErrSource) : Bool :=
  match x.lastTick with
  | none => true
  | some t => decide (t + 125 ≤ d.tk.etick)

/-- Does a fatal report reset its group on its own (R433): a group 2 to 7 whose FL_AUTO bit is set. -/
def Dev.autoReset (d : Dev) (src cls : Nat) : Bool :=
  cls == 2 && (let g := islandGroup (src / 64); decide (2 ≤ g) && bit (d.rd R.FL_AUTO) (g - 2))

/-- A report becomes a record (R430, R431): in the FIFO, a fatal one at once in MRAM. -/
def Dev.logReport (d : Dev) (p : Report) (held : Bool) : Dev :=
  let x := d.errSource p.src
  let r : LogRec := { rep := p, held := held, grpReset := d.autoReset p.src p.cls, suppressed := x.suppressed }
  let e := d.setSource p.src { x with lastTick := some d.tk.etick, suppressed := 0 }
  if p.cls = 2 then e.mramLog r else { e with faults := { e.faults with fifo := e.faults.fifo ++ [r] } }

/-- The FIFO toward MRAM has room (R431). -/
def Dev.fifoRoom (d : Dev) : Bool := decide (d.faults.fifo.length < 256)

/-- A report that waits takes FIRST, or replaces LATEST and counts what it replaces (R430, R431). -/
def Dev.pendReport (d : Dev) (p : Report) : Dev :=
  let x := d.errSource p.src
  if x.first.isNone then d.setSource p.src { x with first := some p }
  else if x.latest.isNone then d.setSource p.src { x with latest := some p }
  else
    let e := (d.setSource p.src { x with latest := some p, suppressed := satAdd 16 x.suppressed 1 }).countSat R.FS_SUPPRESSED 1 p.src
    if d.rateOk x then
      let e := e.countSat R.FL_DROPPED
      if d.faults.congested then e
      else ({ e with faults := { e.faults with congested := true } }).raise 11 (srcNum 0 3)
    else e

/-- Ask for a group's reset at the next tick boundary; a group asked or in reset already merges (R26). -/
def Dev.askReset (d : Dev) (g : Nat) : Dev :=
  if d.rst.active.contains g || SMap.has d.rst.asked g then d
  else { d with rst := { d.rst with asked := SMap.put d.rst.asked g d.tk.etick } }

/-- What follows a fatal report at the next tick (R433): G0 makes a cold reset with cause 5, another group with its FL_AUTO bit set is
reset; the enclave's own rules govern ENCL. -/
def Dev.fatalRecovery (d : Dev) (src cls : Nat) : Dev :=
  if cls ≠ 2 then d
  else
    let g := islandGroup (src / 64)
    if g = 0 then { d with rst := { d.rst with cold := some (d.rst.cold.getD 5) } }
    else if g = 1 then d
    else if d.autoReset src cls then d.askReset g
    else d

/-- MRAM's own reports, AON local 6, are counted: corrections and uncorrectable reads (Table 17.10). -/
def Dev.mramCount (d : Dev) (src cls : Nat) : Dev :=
  if src = 6 ∧ cls = 8 then d.count R.MM_CORR else if src = 6 ∧ cls = 6 then d.count R.MM_UNCORR else d

/-- An error report of a source: logged, or held in a pending slot (R430), with the response of its class (R428, R433). -/
def Dev.errorReport (d : Dev) (src cls loc code nbits : Nat) : Dev :=
  let p : Report := { tick := d.tk.etick, src := src, cls := cls, loc := loc, code := code, nbits := nbits }
  let x := d.errSource src
  let e := if cls = 2 ∨ (d.rateOk x && d.fifoRoom && x.first.isNone) then d.logReport p false else d.pendReport p
  ((e.fatalRecovery src cls).mramCount src cls).raise cls src loc

/-- A report that a unit makes itself; the spec gives its error code no value (log entry 5). -/
def Dev.err (d : Dev) (src cls loc : Nat) (nbits : Nat := 0) : Dev := d.errorReport src cls loc (Config.errCode src) nbits

/-- ERROR_REPORT (R430): `cls` 2 fatal, 6 uncorrected-contained, 8 corrected. -/
def execErrorReport (src cls loc code nbits : Nat) (s : State) : Host.Outcome State Fault Refusal :=
  .next (s.onDev (fun d => d.errorReport src cls loc code nbits))

/-- ERROR_PENDING_LOG (R430): the rate allows again: FIRST is logged, then at its turn LATEST, each with HELD. -/
def execErrorPendingLog (src : Nat) (s : State) : Host.Outcome State Fault Refusal :=
  .next (s.onDev (fun d =>
    let x := d.errSource src
    if !(d.rateOk x && d.fifoRoom) then d
    else
      match x.first, x.latest with
      | some p, l => (d.setSource src { x with first := l, latest := none }).logReport p true
      | none, some p => (d.setSource src { x with latest := none }).logReport p true
      | none, none => d))

/-- The FIFO passes one record to MRAM each 125 event ticks (R431, log entry 8); an episode of congestion ends with room. -/
def Dev.drainLog (d : Dev) : Dev :=
  match d.faults.fifo with
  | [] => d
  | r :: rest =>
    if d.faults.drainTicks + 1 < 125 then { d with faults := { d.faults with drainTicks := d.faults.drainTicks + 1 } }
    else ({ d with faults := { d.faults with fifo := rest, drainTicks := 0, congested := false } }).mramLog r

end Sys2Proof.Machine
end

