-- ==== Sys2Proof/Machine/Islands.lean ====
section
/-!
DEFINITION. Chapter 1: lacings (R14-R24), reset requests (R26, R27), HBM allocation and access
(R36-R39).
-/
namespace Sys2Proof.Machine

/-! ## Lacings -/

/-- The number of a value lacing between two islands. -/
def lacingKey (src dst : Nat) : Nat := src * 64 + dst

/-- VALUE_LACING_TRANSFER (R14-R17): the value reaches the receiver in order, and is held, with a wake request, while the
receiver's clock is stopped. A lacing in reset carries nothing; a lacing whose slots are full leaves the sender waiting. -/
def execValueLacingTransfer (src dst value : Nat) (s : State) : Host.Outcome State Fault Refusal :=
  .next (s.onDev (fun d =>
    let l := SMap.getD d.vlac (lacingKey src dst) {}
    if d.inReset src || d.inReset dst then d
    else if d.stopped dst || l.held != [] then
      if l.held.length < Config.lacingSlots (lacingKey src dst) then
        ({ d with vlac := SMap.put d.vlac (lacingKey src dst) { l with held := l.held ++ [value] } }).wakeReq dst
      else d.wakeReq dst
    else { d with vlac := SMap.put d.vlac (lacingKey src dst) { l with taken := l.taken ++ [value] } }))

/-- Is an event lacing down: one of its ends is in reset (R23, R24). -/
def Dev.lacingDown (d : Dev) (ch : Nat) : Bool := d.inReset (Config.lcSrc ch) || d.inReset (Config.lcDst ch)

/-- EVENT_LACING_OCCURRENCE (R20, R24): the event is carried, or lost: with OVERRUN while an earlier event is untaken,
without it while the lacing is down. -/
def execEventLacingOccurrence (ch : Nat) (s : State) : Host.Outcome State Fault Refusal :=
  .next (s.onDev (fun d =>
    if d.lacingDown ch then d.countSat R.LC_LOST 1 ch
    else if d.on R.LC_STATUS_PENDING ch then (d.flag R.LC_STATUS_OVERRUN ch).countSat R.LC_LOST 1 ch
    else (d.flag R.LC_STATUS_PENDING ch).when (d.stopped (Config.lcDst ch)) (fun e => e.wakeReq (Config.lcDst ch))))

/-! ## Reset requests -/

/-- Is a request to reset a group refused (R27). -/
def Dev.grpRefused (d : Dev) (req g : Nat) : Bool :=
  !bit (d.rd R.GRP_RESET_ALLOW) (g - 2) || (isFunc req && g == 2)

/-- One group of a GRP_RESET write. -/
def Dev.reqGroup (d : Dev) (req g : Nat) : Dev :=
  if d.grpRefused req g then d.wr R.GRP_RESET_REFUSED (setBit (d.rd R.GRP_RESET_REFUSED) (g - 2) true)
  else (d.askReset g).wr R.GRP_RESET (setBit (d.rd R.GRP_RESET) (g - 2) true)

/-- GRP_RESET_REQUEST (R26, R27): a GRP_RESET write; bit `g` of the value asks for group `g`, 2 to 7. -/
def execGrpResetRequest (req value : Nat) (s : State) : Host.Outcome State Fault Refusal :=
  .next (s.onDev (fun d =>
    ((List.range 8).filter (fun g => 2 ≤ g && bit value g)).foldl (fun e g => e.reqGroup req g)
      (d.sampleWrite req value)))

/-- RSTC_LOCK (R27, Table 1.5): GRP_RESET_ALLOW is locked until cold reset. -/
def execRstcLock (req : Nat) (s : State) : Host.Outcome State Fault Refusal :=
  .next (s.onDev (fun d => (d.flag R.RSTC_LOCK).sampleWrite req 1))

/-! ## HBM -/

/-- One gibibyte. -/
def gib : Nat := 2 ^ 30

/-- The base of HBM area `n`, 1 to 7, in gibibytes under the active layout (Table 1.10); area 8 is the end. -/
def Dev.areaBase (d : Dev) (n : Nat) : Nat :=
  match n with
  | 1 => 0
  | 2 => 1
  | 3 => 2
  | 4 => 6
  | 5 => 7
  | 6 => 7 + d.hbmc.journal
  | 7 => 7 + d.hbmc.journal + d.hbmc.capture
  | _ => 16

/-- The area that holds an address; 0 beyond 16 GiB. -/
def Dev.areaOf (d : Dev) (a : Nat) : Nat :=
  ((List.range 8).filter (fun n => 1 ≤ n && d.areaBase n * gib ≤ a && a < d.areaBase (n + 1) * gib)).headD 0

/-- The areas an island's HBM port reads, and those it writes (Table 1.11). -/
def hbmAreas (island : Nat) (write : Bool) : List Nat :=
  if 6 ≤ island ∧ island ≤ 9 then [1]
  else if island = 0x19 then [2]
  else if island = 0x17 then (if write then [3, 4] else [3, 4, 5, 6])
  else if island = 0x16 then [5, 7]
  else if island = 0x18 then [6]
  else if island = 0x0B then (if write then [] else [5, 6])
  else if (0x0D ≤ island ∧ island ≤ 0x14) ∨ island = 0x1B ∨ island = 0 then [7]
  else []

/-- Does a run of bytes meet a verified region (R387). -/
def Dev.meetsVerified (d : Dev) (a n : Nat) : Bool := d.hbmc.verified.any (fun r => decide (a < r.1 + r.2 ∧ r.1 < a + n))

/-- Does the controller let an island's access through (R37). -/
def Dev.hbmAllowed (d : Dev) (island a n : Nat) (write : Bool) : Bool :=
  (hbmAreas island write).contains (d.areaOf a) && (hbmAreas island write).contains (d.areaOf (a + n - 1)) &&
    !(write && island != 0x1B && d.meetsVerified a n)

/-- A refused access is recorded and reported (R39). -/
def Dev.hbmRefuse (d : Dev) (island a n : Nat) (write : Bool) : Dev :=
  (((((d.wr R.HM_REFUSE_INFO_ISLAND island).wr R.HM_REFUSE_INFO_AREA (d.areaOf a)).wr R.HM_REFUSE_INFO_WRITE (b2n write)).wr
    R.HM_REFUSE_INFO_VERIFIED (b2n (write && island != 0x1B && d.meetsVerified a n))).wr R.HM_REFUSE_ADDR a).count R.HM_REFUSED
    |>.err (srcNum 0x0C 0) 6 a

/-- What the symbol code found in a read: 1 corrected, 2 uncorrectable (R39). -/
def Dev.hbmEcc (d : Dev) (a ecc : Nat) : Dev :=
  if ecc = 1 then (d.count R.HM_CORR).err (srcNum 0x0C 2) 8 a
  else if ecc = 2 then (d.count R.HM_UNCORR).err (srcNum 0x0C 1) 6 a
  else d

/-- HBM_ACCESS (R37, R39): a unit's read of `len` bytes, or its write of `data`. A refused read returns zeros marked poisoned,
an uncorrectable one its data marked poisoned; a refused write changes nothing. -/
def execHbmAccess (island addr : Nat) (write : Bool) (len : Nat) (data : Bytes) (ecc : Nat) (s : State) :
    Host.Outcome State Fault Refusal :=
  if write then
    if s.dev.hbmAllowed island addr data.length true then .next { s with hbm := memWriteN s.hbm addr data }
    else .next (s.onDev (fun d => d.hbmRefuse island addr data.length true))
  else if s.dev.hbmAllowed island addr len false then
    .next (s.onDev (fun d => { (d.hbmEcc addr ecc).retBytes (memReadN s.hbm addr len) with rpoison := decide (ecc = 2) }))
  else
    .next (s.onDev (fun d => { (d.hbmRefuse island addr len false).retBytes (List.replicate len 0#8) with rpoison := true }))

/-- HBM_SCRUB (R39): while HM_SCRUB.HOURS is not zero the controller reads a word, writes back what it corrects and reports it
like any read. -/
def execHbmScrub (addr ecc : Nat) (s : State) : Host.Outcome State Fault Refusal :=
  .next (s.onDev (fun d => d.when (d.rd R.HM_SCRUB != 0) (fun e => e.hbmEcc addr ecc)))

/-- HBM_JOURNAL_REQ and HBM_CAPTURE_REQ return to the active sizes (Table 1.12, 0x6017). -/
def Dev.layoutRevert (d : Dev) : Dev :=
  (d.objPut 0x6013 0 (leBytes 2 d.hbmc.journal)).objPut 0x6014 0 (leBytes 2 d.hbmc.capture)

/-- HBM_LAYOUT_REVERT (R38, Table 1.12). -/
def execHbmLayoutRevert (s : State) : Host.Outcome State Fault Refusal := .next (s.onDev Dev.layoutRevert)

/-! ## Waking (R421, R16) -/

/-- Values held for an island are taken, in order (R16). -/
def Dev.takeHeld (d : Dev) (c : Nat) : Dev :=
  { d with vlac := d.vlac.map (fun e => if e.1 % 64 = c then (e.1, { e.2 with held := [], taken := e.2.taken ++ e.2.held }) else e) }

/-- Receivers take the events of their lacings (R20): those of an island, or of every island whose clock runs. -/
def Dev.takeEvents (d : Dev) (mine : Nat → Bool) : Dev :=
  d.each ((d.regs.chans R.LC_STATUS_PENDING).filter (fun ch => mine (Config.lcDst ch))) (fun e ch => e.wr R.LC_STATUS_PENDING 0 ch)

/-- The events and values that waited for an island while it slept (R423). -/
def Dev.waiting (d : Dev) (c : Nat) : Nat :=
  (d.vlac.filter (fun e => decide (e.1 % 64 = c) && e.2.held != [])).length +
    ((d.regs.chans R.LC_STATUS_PENDING).filter (fun ch => Config.lcDst ch == c)).length

/-- An island returns to RUN (R421): registers from the save copy after OFF (R420), held values taken, the counters of Table 17.8, a
cluster's waiting operating point (R425). -/
def Dev.wake (d : Dev) (c : Nat) : Dev :=
  if !d.stopped c then d
  else
    let e := ((d.countSat R.PI_LATE_WAKE (d.waiting c) c).count R.PI_WAKES 1 c).wr R.PI_STATUS_STATE 0 c
    let e := ((e.takeHeld c).takeEvents (fun i => i == c)).when (c == 0x0C) (fun x => x.wr R.HM_STATUS_SELF_REFRESH 0)
    { e with pwr := { e.pwr with wakes := e.pwr.wakes.filter (fun i => i != c), saved := e.pwr.saved.filter (fun i => i != c) } }

/-- A quiet window ends: ARM clears and the islands that it named wake (R424). -/
def Dev.quietEnd (d : Dev) : Dev :=
  let gs := (List.range 4).filter (fun g => bit (d.rd R.PW_QUIET_CTRL_GROUPS) g)
  let e := (d.wr R.PW_QUIET_CTRL_ARM 0).each (gs.map (· + 6) ++ [0x0A]) Dev.wake
  { e with pwr := { e.pwr with quiet := false } }

end Sys2Proof.Machine
end

