-- ==== Sys2Proof/Machine/Journal.lean ====
section
/-!
DEFINITION. Chapter 4, Hide: coded records (R114, R115), blocks, tree and chain (R116), seals (R117, R118), the ring (R119, R120).
-/
namespace Sys2Proof.Machine

def Dev.setHide (d : Dev) (f : Hide → Hide) : Dev := { d with hide := f d.hide }

/-! ## Coding (R115) -/

/-- Unsigned LEB128; ten groups hold any 64-bit number. -/
def leb128 : Nat → Nat → Bytes
  | 0, _ => []
  | n + 1, v => if v < 128 then [BitVec.ofNat 8 v] else BitVec.ofNat 8 (128 + v % 128) :: leb128 n (v / 128)

/-- Zig-zag form of a difference. -/
def zigzag (x : Int) : Nat := if 0 ≤ x then 2 * x.toNat else 2 * (-x).toNat - 1

/-- Fields of a raw record (Table 4.8). -/
def recGsn (r : Bytes) : Nat := le64 r 0
def recTick (r : Bytes) : Nat := leNat (slice r 8 6)
def recTime (r : Bytes) : Nat := time96Of12 (slice r 14 12)
def recGap (r : Bytes) : Bool := (byteAt r 27).testBit 1
/-- The last GSN that a record covers. -/
def recLast (r : Bytes) : Nat := if recGap r then le64 r 32 else recGsn r

/-- A raw record coded against its predecessor; the first of a block against zeros with every presence bit set. -/
def codeRecord (first : Bool) (prev r : Bytes) : Bytes :=
  let dg := first || recGsn r != (recGsn prev + 1) % 2 ^ 64
  let dt := first || recTick r != recTick prev
  let dp := first || byteAt r 26 != byteAt prev 26
  let dc := first || byteAt r 30 != byteAt prev 30
  let df := first || byteAt r 27 != 0
  let dl := first || le16 r 28 != le16 prev 28
  [BitVec.ofNat 8 (b2n dg + 2 * b2n dt + 4 * b2n dp + 8 * b2n dc + 16 * b2n df + 32 * b2n dl)] ++
    (if dg then slice r 0 8 else []) ++ (if dt then leb128 10 ((recTick r + 2 ^ 48 - recTick prev) % 2 ^ 48) else []) ++
    (if dp then slice r 26 1 else []) ++ (if dc then slice r 30 1 else []) ++ (if df then slice r 27 1 else []) ++
    (if dl then leb128 10 (le16 r 28) else []) ++ leb128 20 (zigzag ((recTime r : Int) - (recTime prev : Int))) ++ slice r 32 32

/-! ## Tree and chain (R116) -/

/-- One level up: pairs hash together, a last node without partner is promoted. -/
def treeUp : List Bytes → List Bytes
  | [] => []
  | [x] => [x]
  | x :: y :: r => Config.shake256 ([1#8] ++ x ++ y) 32 :: treeUp r

/-- Levels until one node is left; eleven suffice for 1,024 leaves. -/
def treeRoot : Nat → List Bytes → Bytes
  | 0, l => l.headD []
  | n + 1, l => if l.length ≤ 1 then l.headD [] else treeRoot n (treeUp l)

/-- The root of a block. -/
def blockRoot (recs : List Bytes) : Bytes := treeRoot 11 (recs.map (fun r => Config.shake256 ([0#8] ++ r) 32))

/-- C_0 of a journal epoch. -/
def chain0 (j : Nat) : Bytes := Config.shake256 ([3#8] ++ Config.uid ++ leBytes 8 j) 64

/-- One chain step. -/
def chainStep (c root : Bytes) (gsn n : Nat) : Bytes := Config.shake256 ([2#8] ++ c ++ root ++ leBytes 8 gsn ++ leBytes 2 n) 64

/-! ## The ring -/

/-- Free bytes of the record ring in area 5 (Table 4.12). -/
def Dev.ringFree (d : Dev) : Nat := d.hbmc.journal * 2 ^ 30 - ((d.hide.segs.map (fun g => g.bytes.length)).sum + d.hide.coded.length)

/-- Is the ring full, or counts as full: under 1 MiB free, a 257th unsigned seal, or CRYPT in reset or rebuilding (R119, R120). -/
def Dev.hideFull (d : Dev) : Bool :=
  decide (d.ringFree < 2 ^ 20) || decide (256 < d.hide.unsigned.length) || d.inReset 0x16 || d.on R.HD_STATUS_REBUILD

/-- The status registers of HIDE follow. -/
def Dev.hideStatus (d : Dev) : Dev :=
  (((d.wr R.HD_STATUS_FULL (b2n d.hideFull)).wr R.HD_RING_FREE (d.ringFree / 1024)).wr R.HD_UNSIGNED (min 256 d.hide.unsigned.length)).wr
    R.HD_STATUS_SIGN_WAIT (b2n (d.hide.unsigned != []))

/-- The segment of a block (R119): header, coded records, zeros to a multiple of 64. -/
def blockSegment (bySeal : Bool) (leaves b gsn : Nat) (coded : Bytes) : Bytes :=
  let h : Bytes := [0x48#8, 0x49#8, 0x44#8, 0x42#8, 1#8, BitVec.ofNat 8 (b2n bySeal)] ++ leBytes 2 leaves ++ leBytes 4 coded.length ++
    leBytes 4 0 ++ leBytes 8 b ++ leBytes 8 gsn
  padTo ((32 + coded.length + 63) / 64 * 64) (h ++ coded)

/-- Close the open block, if it holds a record: chain, segment, block number. -/
def Dev.closeBlock (d : Dev) (bySeal : Bool) : Dev :=
  match d.hide.recs with
  | [] => d
  | r :: _ =>
    let n := d.hide.recs.length
    let b := d.rd R.HD_BLOCK + 1
    let g := blockSegment bySeal n b (recGsn r) d.hide.coded
    ((d.setHide (fun h =>
      { h with chain := chainStep h.chain (blockRoot h.recs) (recGsn r) n, recs := [], coded := []
               segs := h.segs ++ [{ bytes := g }], blocks := h.blocks + 1 })).wr R.HD_BLOCK b).hideStatus

/-- Hide takes a record: into the tree, coded, the block closed at 1,024 (R116). -/
def Dev.hideTake (d : Dev) (r : Bytes) : Dev :=
  let e := d.setHide (fun h =>
    { h with recs := h.recs ++ [r], coded := h.coded ++ codeRecord (h.recs == []) (h.recs.getLast?.getD []) r
             first := some (h.first.getD (recGsn r)), last := recLast r, gapSeen := h.gapSeen || recGap r
             count := h.count + 1, period := h.period + 1 })
  if 1024 ≤ e.hide.recs.length then e.closeBlock false else e.hideStatus

/-- A gap record (R119, Table 4.8): its tick and timestamp are those of the first record not stored (log entry 13). -/
def gapRecord (first : Bytes) (last : Nat) : Bytes :=
  slice first 0 26 ++ [0xFF#8, 2#8, 0#8, 0#8, 0#8, 0#8] ++ leBytes 8 last ++ List.replicate 24 0#8

/-- A record that cannot be stored widens the missing range (R119, gap mode). -/
def Dev.gapAdd (d : Dev) (r : Bytes) : Dev :=
  d.setHide (fun h => { h with gap := some ((h.gap.map (·.1)).getD r, recLast r) })

/-- The gap record is written: an ordinary leaf, GAP, the class 6 event of CRYPT local 1 (R119). -/
def Dev.gapWrite (d : Dev) : Dev :=
  match d.hide.gap with
  | none => d
  | some (r, last) =>
    ((((d.setHide (fun h => { h with gap := none })).hideTake (gapRecord r last)).count R.HD_GAP_RECORDS).flag R.SQ_STATUS_GAP).err
      (srcNum 0x16 1) 6 (recGsn r)

/-! ## Seals (R117, R118) -/

/-- The sequencing configuration (Table 4.10), 24 bytes. -/
def Dev.seqConfig (d : Dev) : Bytes :=
  let role := d.rd R.SQ_CTRL_CL_ROLE
  [BitVec.ofNat 8 (d.rd R.SQ_CTRL_K), BitVec.ofNat 8 (d.rd R.SQ_CTRL_GAP_MODE + 2 * role)] ++ leBytes 2 (d.rd R.SQ_ENROL) ++
    leBytes 2 (if role = 0 then 0 else d.rd R.SQ_CL_BASE) ++ leBytes 2 (if role = 0 then d.rd R.SQ_P else d.rd R.SQ_CL_P) ++
    leBytes 4 (d.rd R.SQ_GUARD) ++ leBytes 6 (d.rd R.SQ_EPOCH_SEC) ++ leBytes 4 (d.rd R.SQ_EPOCH_NS) ++ leBytes 2 0

/-- The time-quality snapshot (Table 4.11), 32 bytes. -/
def Dev.timeQuality (d : Dev) : Bytes :=
  let st := d.rd R.TB_STATUS_STATE
  [BitVec.ofNat 8 st, BitVec.ofNat 8 (b2n (st == 3) + 2 * d.rd R.TB_CTRL_L1_SYNT + 4 * d.rd R.TB_CTRL_SERVO_EN + 8 * d.rd R.TB_CTRL_SRC),
    0#8, 0#8] ++ leBytes 4 d.hoElapsed ++ leBytes 8 (d.rd R.TB_LAST_OFFSET) ++ leBytes 8 (d.rd R.TB_GM_ID) ++ padTo 8 d.cal.digest

/-- The present seal counter: the largest value with valid check bits (R118). -/
def Dev.sealCtr (d : Dev) : Nat := (d.mram.sealWords.map (·.2)).foldl max 0

/-- The first 192 bytes of a seal (Table 4.9). -/
def Dev.sealBody (d : Dev) (final : Bool) : Bytes :=
  let h := d.hide
  let first := h.first.getD (d.rd R.SQ_GSN_NEXT)
  let last := if h.first.isSome then h.last else (first + 2 ^ 64 - 1) % 2 ^ 64
  [0x48#8, 0x49#8, 0x44#8, 0x53#8] ++ leBytes 2 1 ++
    leBytes 2 (b2n final + 2 * b2n h.gapSeen + 4 * b2n (d.rd R.SQ_CTRL_CL_ROLE != 0)) ++ Config.uid ++ leBytes 8 d.mram.epoch ++
    leBytes 8 first ++ leBytes 8 last ++ leBytes 8 (d.sealCtr + h.unsigned.length + 1) ++ leBytes 4 h.blocks ++
    time96Bytes d.now16 ++ padTo 64 h.chain ++ d.timeQuality ++ d.seqConfig

/-- Write a seal: the open block closes, the body waits for its signature, and the seal takes its place in the ring (R117, R119). -/
def Dev.writeSeal (d : Dev) (final : Bool) : Dev :=
  let e := d.closeBlock true
  let body := e.sealBody final
  (e.setHide (fun h =>
    { h with unsigned := h.unsigned ++ [body], segs := h.segs ++ [{ bytes := padTo 320 body, isSeal := true, ready := false }]
             first := none, blocks := 0, gapSeen := false, count := 0 })).hideStatus

/-- Does the period boundary or the record count ask for a seal (R117). -/
def Dev.sealDue (d : Dev) : Bool := decide (d.hide.due < d.cyc + 8) || decide (d.rd R.HD_SEAL_RECORDS ≤ d.hide.count)

/-- The next period boundary after the present tick. -/
def Dev.nextPeriod (d : Dev) : Nat :=
  let p := d.rd R.HD_SEAL_PERIOD * 1000
  d.hide.due + ((d.cyc + 8 - d.hide.due + p - 1) / p) * p

/-- SEAL_PERIOD (R117): a count seal, or the period's seal; a period without records seals only with IDLE_SEAL = 1. -/
def Dev.sealPeriod (d : Dev) : Dev :=
  if d.rd R.SQ_STATUS_STATE = 0 ∨ ¬ d.sealDue ∨ d.inReset 0x16 then d
  else if d.hide.due < d.cyc + 8 then
    let open' := d.hide.recs != [] || d.hide.blocks != 0
    let e := if open' || (d.hide.period == 0 && d.on R.SQ_CTRL_IDLE_SEAL) then d.writeSeal false else d
    e.setHide (fun h => { h with due := d.nextPeriod, period := 0 })
  else d.writeSeal false

/-- The enclave takes service requests: operational and out of reset (Table 16.2). -/
def Dev.enclUp (d : Dev) : Bool := !d.inReset 0x1B && d.rd R.EN_STATUS_STATE == 1

/-- Give the first unsigned seal's place in the ring its signed bytes. -/
def signSeg (signed : Bytes) : List HideSeg → List HideSeg
  | [] => []
  | g :: r => if g.isSeal && !g.ready then { g with bytes := padTo 320 signed, ready := true } :: r else g :: signSeg signed r

/-- SEAL_SIGNED (R117, R118): the signature of the oldest unsigned seal is complete; the counter rises, is written and read back.
A value that does not read back is a fault: no further seal is signed, and CRYPT local 2 is a fatal error. -/
def Dev.sealSigned (d : Dev) (readBack : Bool) : Dev :=
  match d.hide.unsigned with
  | [] => d
  | body :: rest =>
    if !d.enclUp || d.on R.EN_STATUS_SEAL_FAULT then d
    else if !readBack then (d.flag R.EN_STATUS_SEAL_FAULT).err (srcNum 0x16 2) 2 (le64 body 48)
    else
      let n := le64 body 48
      let full := body ++ Config.ed448Sign Config.jk ((("IH-HIDE-SEAL-1".toList.map (fun c => BitVec.ofNat 8 c.toNat)))) body
      let e := { d with mram := { d.mram with sealWords := SMap.put d.mram.sealWords (n % 65536) n
                                              sealStore := SMap.put d.mram.sealStore (n % 131072) full } }
      ((((e.setHide (fun h => { h with unsigned := rest, segs := signSeg full h.segs })).wr R.HD_SEAL_CTR n).raise 11 (srcNum 0x16 0) n)).hideStatus

/-- Start of a journal epoch (R106): J rises, the chain begins from C_0, the first block is 1, gap records count from 0. -/
def Dev.hideStart (d : Dev) : Dev :=
  let j := (d.mram.epoch + 1) % 2 ^ 64
  let e := { d with mram := { d.mram with epoch := j } }
  (((e.wr R.HD_EPOCH j).wr R.HD_BLOCK 0).wr R.HD_GAP_RECORDS 0).setHide (fun h =>
    { h with chain := chain0 j, recs := [], coded := [], first := none, blocks := 0, gapSeen := false, count := 0, period := 0, gap := none
             due := d.cyc + d.rd R.HD_SEAL_PERIOD * 1000 }) |>.hideStatus

end Sys2Proof.Machine
end

