-- ==== Sys2Proof/Machine/Stitch.lean ====
section
/-!
DEFINITION. Chapter 4, Stitch: enrolment (R96-R99, R102), watermarks and closing (R100, R101, R103), states, START and STOP (R104-R107), GSNs
(R108), clusters (R110-R112), and the meanings of the chapter's commands.
-/
namespace Sys2Proof.Machine

def Dev.setSeq (d : Dev) (f : Stitch → Stitch) : Dev := { d with seq := f d.seq }

/-! ## Ticks -/

def Dev.seqQ (d : Dev) : Nat := 2 ^ d.rd R.SQ_CTRL_K * 65536
def Dev.seqGuard (d : Dev) : Nat := d.rd R.SQ_GUARD * 65536

/-- The sequencing tick of a timestamp (R98), before its reduction modulo 2^48. -/
def Dev.tickOf (d : Dev) (t : Nat) : Nat := (t - d.seqEpoch) / d.seqQ

/-- The end of a tick. -/
def Dev.tickEnd (d : Dev) (t : Nat) : Nat := d.seqEpoch + (t + 1) * d.seqQ

/-- Enrolment index of a port: its position among the enrolled (R96). -/
def Dev.enrolIdx (d : Dev) (p : Nat) : Nat := popcount p (d.rd R.SQ_ENROL)
def Dev.enrolled (d : Dev) (p : Nat) : Bool := bit (d.rd R.SQ_ENROL) p
def Dev.enrolCount (d : Dev) : Nat := popcount 16 (d.rd R.SQ_ENROL)

/-- SQ_P, SRC_STATUS.P_INDEX and ENROLLED follow SQ_ENROL. -/
def Dev.enrolStatus (d : Dev) : Dev :=
  (List.range 16).foldl (fun e p =>
    (e.wr R.SRC_STATUS_ENROLLED (b2n (d.enrolled p)) p).wr R.SRC_STATUS_P_INDEX (if d.enrolled p then d.enrolIdx p else 0) p)
    (d.wr R.SQ_P d.enrolCount)

/-! ## Delivery of DISP 0 (R139, R140) -/

/-- The frame's completion fields. -/
def rxItemOf (f : RxFrame) (seq late : Bool) (gsn tick : Nat) : RxItem :=
  { bytes := f.bytes, len := f.len, stamp := f.stamp, status := if f.cause.isSome then 0x0B else 0, seq := seq, late := late, colour := f.colour
    port := if f.src = 16 then 0xFF else f.src, cls := f.cls, queue := f.queue, gsn := gsn, tick := tick, cause := f.cause.getD 0
    awl := f.awl }

/-- Deliver to the ring of the disposition, or drop it as a ring miss (R140). -/
def Dev.deliver (d : Dev) (f : RxFrame) (x : RxItem) : Dev :=
  match (if f.miss then none else d.ringFor f.fn f.ring) with
  | some r => d.rxQueue r x
  | none => d.ringMiss f.src

/-- The capture candidate of a received frame (R303, R306). -/
def candOf (f : RxFrame) (seq late : Bool) (gsn : Nat) : Cand :=
  { seq := seq, late := late, malf := f.cause, macsec := f.macsec, port := f.src, stamp := f.stamp, gsn := gsn, data := f.bytes ++ f.fcs
    cls := f.cls, profile := f.profile, key := f.key, queue := f.queue }

/-- A frame reaches its capture point. -/
def Dev.captureRx (d : Dev) (f : RxFrame) (seq late : Bool) (gsn : Nat) : Dev :=
  match f.cap with
  | some p => d.candidate p (candOf f seq late gsn)
  | none => d

/-- A frame of a sequenced class that is not enrolled: delivered without a GSN, counted in SQ_UNSEQ (R97). -/
def Dev.unsequenced (d : Dev) (f : RxFrame) : Dev :=
  ((d.countSat R.SQ_UNSEQ).captureRx f false false 0).deliver f (rxItemOf f false false 0 0)

/-! ## Enrolment -/

/-- Are the conditions of R97 met. -/
def Dev.enrols (d : Dev) (f : RxFrame) : Bool :=
  decide (f.src < 16) && d.enrolled f.src && d.rd R.SQ_STATUS_STATE != 0 && decide (d.seq.start ≤ f.stamp * 65536) &&
    (match d.seq.stop with
    | some t => decide (f.stamp * 65536 < t)
    | none => true)

/-- Enrolment is held: STALLED or CLUSTER_LOST (R111, R119). -/
def Dev.seqHeld (d : Dev) : Bool := d.rd R.SQ_STATUS_STATE == 3 || d.rd R.SQ_STATUS_STATE == 4

/-- A frame takes its place (R98, R99), or the lowest open tick when its own has closed (R102). -/
def Dev.place (d : Dev) (f : RxFrame) : Dev :=
  let t := d.tickOf f.stamp
  let late := decide (t < d.seq.next)
  let x : SeqFrame := { rx := f, p := d.enrolIdx f.src, tick := if late then d.seq.next else t, late := late }
  let e := d.setSeq (fun q => { q with ticks := SMap.upd q.ticks x.tick [] (fun l => l ++ [x]) })
  e.when late (fun e => (e.countSat R.SQ_LATE).flag R.SQ_STATUS_LATE_SEEN)

/-- ENROLMENT (R97, R102): the first frame of port `p` on its way reaches Stitch. -/
def execEnrolment (p : Nat) (s : State) : Host.Outcome State Fault Refusal :=
  .next (s.onDev (fun d =>
    match d.seq.way.find? (fun f => f.src == p) with
    | none => d
    | some f =>
      if d.seqHeld then d
      else
        let e := d.setSeq (fun q => { q with way := q.way.erase f })
        if d.enrols f then e.place f
        else (e.setSeq (fun q => { q with hold := q.hold - f.len })).unsequenced f))

/-! ## Records and GSNs (R108, R114) -/

/-- The raw record of a sequenced frame (Table 4.8). -/
def rawRecord (x : SeqFrame) (gsn : Nat) : Bytes :=
  leBytes 8 gsn ++ leBytes 6 x.tick ++ time96Bytes x.rx.stamp ++ [BitVec.ofNat 8 x.rx.src, BitVec.ofNat 8 (b2n x.late)] ++
    leBytes 2 x.rx.len ++ [BitVec.ofNat 8 x.rx.cls, 0#8] ++ padTo 32 x.rx.digest

/-- A record enters Stitch's FIFO; in gap mode one that finds it full, or CRYPT in reset, widens a gap range at its end (R116, R119, R120). -/
def Dev.fifoPut (d : Dev) (r : Bytes) : Dev :=
  if d.on R.SQ_CTRL_GAP_MODE && (decide (65536 ≤ d.seq.fifo.length) || d.inReset 0x16 || d.on R.HD_STATUS_REBUILD) then
    match d.seq.fifo.getLast? with
    | some g =>
      if recGap g then d.setSeq (fun q => { q with fifo := q.fifo.dropLast ++ [gapRecord g (recLast r)] })
      else d.setSeq (fun q => { q with fifo := q.fifo ++ [gapRecord r (recLast r)] })
    | none => d.setSeq (fun q => { q with fifo := [gapRecord r (recLast r)] })
  else d.setSeq (fun q => { q with fifo := q.fifo ++ [r] })

/-- A frame receives its GSN: its record, its capture point, its delivery (R108, R304). -/
def Dev.sequence (d : Dev) (x : SeqFrame) (gsn : Nat) : Dev :=
  let e := (d.setSeq (fun q => { q with hold := q.hold - x.rx.len })).count R.SRC_EVENTS 1 x.rx.src
  ((e.fifoPut (rawRecord x gsn)).captureRx x.rx true x.late gsn).deliver x.rx (rxItemOf x.rx true x.late gsn (x.tick % 2 ^ 48))

/-- Frames receive consecutive GSNs from SQ_GSN_NEXT. -/
def Dev.assign (d : Dev) (l : List SeqFrame) : Dev :=
  l.foldl (fun e x => (e.sequence x (e.rd R.SQ_GSN_NEXT)).wr R.SQ_GSN_NEXT (e.rd R.SQ_GSN_NEXT + 1)) d

/-- The order of a tick (R99): ascending rank, arrival order within a source, late frames after all others. -/
def tickOrder (t n : Nat) (l : List SeqFrame) : List SeqFrame :=
  (List.range n).flatMap (fun r => l.filter (fun x => !x.late && (x.p + t % 2 ^ 48) % n == r)) ++ l.filter (fun x => x.late)

/-! ## Finish (R107) -/

/-- Hide takes the first record of Stitch's FIFO, or counts it into a gap, or stalls Stitch (R116, R119). -/
def Dev.journalTake (d : Dev) : Dev :=
  match d.seq.fifo with
  | [] => d
  | r :: rest =>
    if d.inReset 0x16 || d.on R.HD_STATUS_REBUILD then
      d.when (!d.on R.SQ_CTRL_GAP_MODE && d.rd R.SQ_STATUS_STATE == 1) (fun e => e.wr R.SQ_STATUS_STATE 3)
    else
      let pop := d.setSeq (fun q => { q with fifo := rest })
      if d.hideFull || d.hide.gap.isSome then
        if d.on R.SQ_CTRL_GAP_MODE then pop.gapAdd r
        else if d.rd R.SQ_STATUS_STATE = 1 then d.wr R.SQ_STATUS_STATE 3
        else d
      else
        let e := pop.hideTake r
        if recGap r then ((e.count R.HD_GAP_RECORDS).flag R.SQ_STATUS_GAP).err (srcNum 0x16 1) 6 (recGsn r) else e

/-- Take every record that waits. -/
def Dev.journalDrain : Nat → Dev → Dev
  | 0, d => d
  | n + 1, d => Dev.journalDrain n d.journalTake

/-- Have all ticks that begin before the stop boundary closed, with their GSNs. -/
def Dev.ticksDone (d : Dev) : Bool :=
  match d.seq.stop with
  | some t => decide (t ≤ (d.seqEpoch + d.seq.next * d.seqQ) * 65536) && d.seq.batches == []
  | none => false

/-- The end of STOPPING (R107): the records that wait are journalled, a gap is recorded, a seal with FINAL = 1 is written, and the state is
STOPPED. Frames placed in a later tick than the last receive no GSN. -/
def Dev.seqFinish (d : Dev) : Dev :=
  if d.rd R.SQ_STATUS_STATE ≠ 2 ∨ ¬ d.ticksDone then d
  else
    let e := Dev.journalDrain d.seq.fifo.length d
    if e.seq.fifo != [] || e.inReset 0x16 then e
    else
      let rest := e.seq.ticks.flatMap (·.2)
      let e := (e.gapWrite.writeSeal true).wr R.SQ_STATUS_STATE 0
      rest.foldl (fun e x => (e.setSeq (fun q => { q with hold := q.hold - x.rx.len })).unsequenced x.rx)
        (e.setSeq (fun q => { q with stop := none, ticks := [], blocked := none }))

/-! ## Clusters (R110-R112) -/

/-- A message leaves for the fabric (R344). -/
def Dev.fabMsg (d : Dev) (ty dst : Nat) (b : Bytes) : Dev := d.setSeq (fun q => { q with out := q.out ++ [⟨ty, dst, b⟩] })

/-- The frames of each local source of a tick, in order; late ones after the others. -/
def sourceFrames (n : Nat) (l : List SeqFrame) : List (List SeqFrame) :=
  (List.range n).map (fun i => l.filter (fun x => x.p == i && !x.late) ++ l.filter (fun x => x.p == i && x.late))

/-- The summary payload of a tick (Table 4.4). -/
def Dev.summaryOf (d : Dev) (t : Nat) (resend : Bool) (counts : List Nat) : Bytes :=
  leBytes 2 (d.rd R.FB_ADDR_ADDR) ++ Config.shake256 d.seqConfig 8 ++ leBytes 6 t ++
    [BitVec.ofNat 8 counts.length, BitVec.ofNat 8 (b2n resend)] ++ counts.flatMap (leBytes 2)

/-- A reply applied at the member (R110): each source's frames take base, base + 1, and so on; frames placed late carry the placed tick. -/
def Dev.applyReply (d : Dev) (t : Nat) (late : Bool) (placed : Nat) (bases : List Nat) : Dev :=
  match SMap.get? d.seq.batches t with
  | none => d
  | some b =>
    let srcs := sourceFrames bases.length b.frames
    let pairs := (bases.zip srcs).flatMap (fun p => (List.range p.2.length).zip p.2 |>.map (fun q => ((p.1 + q.1) % 2 ^ 64, q.2)))
    let e := d.setSeq (fun q => { q with batches := SMap.del q.batches t })
    let e := pairs.foldl (fun e p =>
      e.sequence (if late then { p.2 with late := true, tick := placed } else p.2) p.1) e
    let e := if d.rd R.SQ_CTRL_CL_ROLE = 1 then
        (match pairs.getLast? with
        | some p => e.wr R.SQ_GSN_NEXT (p.1 + 1)
        | none => e)
      else e
    let e := if d.rd R.SQ_STATUS_STATE = 4 then e.wr R.SQ_STATUS_STATE (if d.seq.stop.isSome then 2 else 1) else e
    e.seqFinish

/-- The reply payload (Table 4.5). -/
def replyOf (t : Nat) (late : Bool) (placed : Nat) (bases : List Nat) : Bytes :=
  leBytes 6 t ++ [BitVec.ofNat 8 bases.length, BitVec.ofNat 8 (b2n late)] ++ leBytes 6 placed ++ leBytes 2 0 ++ bases.flatMap (leBytes 8)

/-- The cluster index of a member's first source. -/
def Dev.memberBase (d : Dev) (m : Nat) : Nat := if m = d.rd R.FB_ADDR_ADDR then d.rd R.SQ_CL_BASE else Config.clusterBase m

/-- The batches of a tick in cluster order (R99, R110): record, source index, count. -/
def Dev.batchOrder (d : Dev) (t : Nat) (l : List SumRec) : List (SumRec × Nat × Nat) :=
  let n := max 1 (d.rd R.SQ_CL_P)
  let all (late : Bool) := (l.filter (fun r => r.late == late)).flatMap (fun r =>
    ((List.range r.counts.length).zip r.counts).map (fun q => (r, q.1, q.2)))
  (List.range n).flatMap (fun k => (all false).filter (fun x => (d.memberBase x.1.member + x.2.1 + t % 2 ^ 48) % n == k)) ++ all true

/-- The GSN base of each batch. -/
def batchBases : Nat → List (SumRec × Nat × Nat) → List ((SumRec × Nat) × Nat)
  | _, [] => []
  | g, (r, i, c) :: rest => ((r, i), if c = 0 then 0 else g) :: batchBases ((g + c) % 2 ^ 64) rest

/-- The root closes a tick: the batches take GSNs in order, each member gets its reply (R110, R112). -/
def Dev.rootClose (d : Dev) (t : Nat) : Dev :=
  let l := SMap.getD d.seq.sums t []
  let ord := d.batchOrder t l
  let bases := batchBases (d.rd R.SQ_GSN_NEXT) ord
  let total := (ord.map (·.2.2)).sum
  let e := (d.wr R.SQ_GSN_NEXT (d.rd R.SQ_GSN_NEXT + total)).setSeq (fun q =>
    { q with rootNext := t + 1, sums := SMap.del q.sums t, lastSum := SMap.del q.lastSum t })
  l.foldl (fun e r =>
    let mine := (List.range r.counts.length).map (fun i => ((bases.find? (fun b => b.1 == (r, i))).map (·.2)).getD 0)
    let b := replyOf r.tick r.late t mine
    if r.member = d.rd R.FB_ADDR_ADDR then e.applyReply r.tick r.late t mine
    else (e.fabMsg 5 r.member b).setSeq (fun q => { q with replies := SMap.put q.replies (r.member * 2 ^ 48 + r.tick) b })) e

/-- Does the root have every member's summary of its lowest open tick: sources sum to the cluster P (log entry 14). -/
def Dev.rootReady (d : Dev) : Bool :=
  decide (d.rd R.SQ_CL_P ≤ (((SMap.getD d.seq.sums d.seq.rootNext []).filter (fun r => !r.late)).map (fun r => r.counts.length)).sum)

/-- Close root ticks that are complete, in order. -/
def Dev.rootDrain : Nat → Dev → Dev
  | 0, d => d
  | n + 1, d => if d.rootReady then Dev.rootDrain n (d.rootClose d.seq.rootNext) else d

/-- A summary at the root (R110, R112): a resend whose reply exists is answered again; one for a closed tick is placed late. -/
def Dev.rootSummary (d : Dev) (m t : Nat) (counts : List Nat) : Dev :=
  match SMap.get? d.seq.replies (m * 2 ^ 48 + t) with
  | some b => d.fabMsg 5 m b
  | none =>
    let late := decide (t < d.seq.rootNext)
    let at' := if late then d.seq.rootNext else t
    if (SMap.getD d.seq.sums at' []).any (fun r => r.member == m && r.tick == t) then d
    else
      let e := d.setSeq (fun q =>
        { q with sums := SMap.upd q.sums at' [] (fun l => l ++ [⟨m, t, counts, late⟩]), members := SMap.put q.members m counts.length
                 lastSum := SMap.put q.lastSum at' d.cyc })
      Dev.rootDrain (e.seq.sums.length + 1) e

/-- A summary arrives at the root (R110); one with another configuration digest is ignored, TIME local 35. A device not in cluster mode
counts FB_BAD_TYPE (R344). -/
def Dev.summaryIn (d : Dev) (payload : Bytes) : Dev :=
  if d.rd R.SQ_CTRL_CL_ROLE = 0 then d.count R.FB_BAD_TYPE
  else if d.rd R.SQ_CTRL_CL_ROLE ≠ 2 ∨ d.rd R.SQ_STATUS_STATE = 0 then d
  else if slice payload 2 8 ≠ Config.shake256 d.seqConfig 8 then
    (d.countSat R.SQ_CL_MISMATCH).err (srcNum 1 35) 6 (le16 payload 0)
  else
    d.rootSummary (le16 payload 0) (leNat (slice payload 10 6))
      ((List.range (byteAt payload 16)).map (fun i => le16 payload (18 + 2 * i)))

/-- SEQ_SUMMARY (R110). -/
def execSeqSummary (payload : Bytes) (s : State) : Host.Outcome State Fault Refusal :=
  .next (s.onDev (fun d => d.summaryIn payload))

/-- SEQ_CL_TIMEOUT (R111): SQ_CL_TIMEOUT after the latest summary of its lowest open tick the root closes it and marks who is absent. -/
def execSeqClTimeout (s : State) : Host.Outcome State Fault Refusal :=
  .next (s.onDev (fun d =>
    let t := d.seq.rootNext
    match SMap.get? d.seq.lastSum t with
    | none => d
    | some c =>
      if d.rd R.SQ_CTRL_CL_ROLE = 2 ∧ c + d.rd R.SQ_CL_TIMEOUT < d.cyc + 8 then
        let have' := (SMap.getD d.seq.sums t []).filter (fun r => !r.late) |>.map (·.member)
        let e := (d.seq.members.filter (fun m => !have'.contains m.1)).foldl (fun e m =>
          e.wr R.SQ_CL_ABSENT (setBit (e.rd R.SQ_CL_ABSENT 0 (m.1 / 32)) (m.1 % 32) true) 0 (m.1 / 32)) d
        Dev.rootDrain (e.seq.sums.length + 1) (e.rootClose t)
      else d))

/-- A reply arrives at a member; one for a tick already applied is ignored (R110, R344). -/
def Dev.replyIn (d : Dev) (payload : Bytes) : Dev :=
  if d.rd R.SQ_CTRL_CL_ROLE = 0 then d.count R.FB_BAD_TYPE
  else
    d.applyReply (leNat (slice payload 0 6)) ((byteAt payload 7).testBit 0) (leNat (slice payload 8 6))
      ((List.range (byteAt payload 6)).map (fun i => le64 payload (16 + 8 * i)))

/-- SEQ_REPLY (R110). -/
def execSeqReply (payload : Bytes) (s : State) : Host.Outcome State Fault Refusal :=
  .next (s.onDev (fun d => d.replyIn payload))

/-- SEQ_SUMMARY_RESEND (R110): every 10 µs until the reply arrives. -/
def execSeqSummaryResend (t : Nat) (s : State) : Host.Outcome State Fault Refusal :=
  .next (s.onDev (fun d =>
    match SMap.get? d.seq.batches t with
    | none => d
    | some b =>
      if b.last + 10000 < d.cyc + 8 then
        (d.fabMsg 4 (d.rd R.SQ_CL_ROOT) (d.summaryOf t true ((sourceFrames d.enrolCount b.frames).map List.length))).setSeq (fun q =>
          { q with batches := SMap.put q.batches t { b with last := d.cyc } })
      else d))

/-- CLUSTER_LOST (R111): no reply within 2 × SQ_CL_TIMEOUT of a tick's first summary; TIME local 34. -/
def execClusterLost (s : State) : Host.Outcome State Fault Refusal :=
  .next (s.onDev (fun d =>
    if d.rd R.SQ_STATUS_STATE = 1 ∧ d.seq.batches.any (fun b => decide (b.2.first + 2 * d.rd R.SQ_CL_TIMEOUT < d.cyc + 8)) then
      (d.wr R.SQ_STATUS_STATE 4).raise 11 (srcNum 1 34)
    else d))

/-! ## Closing (R101-R103) -/

/-- Has a source passed (R101). -/
def Dev.passed (d : Dev) (p : Nat) : Bool := !d.up p || d.rst.active.contains 3 || d.on R.SRC_STATUS_STALLED p

/-- The enrolled sources that block the lowest open tick. -/
def Dev.blockers (d : Dev) : List Nat :=
  (List.range 16).filter (fun p =>
    d.enrolled p && !d.passed p && decide (SMap.getD d.seq.wm p 0 < d.tickEnd d.seq.next + d.seqGuard))

/-- Where every source has passed, the time base itself must have reached the tick's end and the guard (log entry 14). -/
def Dev.timeReached (d : Dev) : Bool := decide (d.tickEnd d.seq.next + d.seqGuard ≤ d.now16)

/-- May the lowest open tick close: the sequencer closes ticks, nothing blocks it, and the records fit (R101, R116, R119). -/
def Dev.tickReady (d : Dev) : Bool :=
  (d.rd R.SQ_STATUS_STATE == 1 || d.rd R.SQ_STATUS_STATE == 2) && d.blockers == [] &&
    (d.timeReached || (List.range 16).any (fun p => d.enrolled p && !d.passed p)) &&
    (match d.seq.stop with
    | some t => decide ((d.seqEpoch + d.seq.next * d.seqQ) * 65536 < t)
    | none => true)

/-- Under the stall policy a full ring or record FIFO stalls Stitch (R116, R119). -/
def Dev.mustStall (d : Dev) : Bool :=
  !d.on R.SQ_CTRL_GAP_MODE &&
    (d.hideFull || decide (65536 < d.seq.fifo.length + (SMap.getD d.seq.ticks d.seq.next []).length))

/-- The lowest open tick closes: GSNs (R108), or a summary in cluster mode (R110); the class 5 event of TIME local 32 (R101). -/
def Dev.closeTick (d : Dev) : Dev :=
  let t := d.seq.next
  let fs := SMap.getD d.seq.ticks t []
  let e := ((d.setSeq (fun q => { q with next := t + 1, ticks := SMap.del q.ticks t, blocked := none })).wr R.SQ_TICK_CLOSED t).raise 5
    (srcNum 1 32) t
  let role := d.rd R.SQ_CTRL_CL_ROLE
  let e :=
    if role = 0 then e.assign (tickOrder t (max 1 d.enrolCount) fs)
    else
      let counts := (sourceFrames d.enrolCount fs).map List.length
      let e := e.setSeq (fun q => { q with batches := SMap.put q.batches t ⟨fs, d.cyc, d.cyc⟩ })
      if role = 2 then e.rootSummary (d.rd R.FB_ADDR_ADDR) t counts
      else e.fabMsg 4 (d.rd R.SQ_CL_ROOT) (d.summaryOf t false counts)
  e.seqFinish

/-- Close the lowest open tick, or stall. -/
def Dev.tickClose (d : Dev) : Dev :=
  if !d.tickReady then d
  else if d.mustStall then (if d.rd R.SQ_STATUS_STATE = 1 then d.wr R.SQ_STATUS_STATE 3 else d)
  else d.closeTick

/-- SEQ_TICK_CLOSE (R101). -/
def execSeqTickClose (s : State) : Host.Outcome State Fault Refusal := .next (s.onDev Dev.tickClose)

/-- SEQ_SOURCE_STALL (R103): SQ_STALL_LIMIT after every other source was ready, those that block are stalled and the tick closes. -/
def execSeqSourceStall (s : State) : Host.Outcome State Fault Refusal :=
  .next (s.onDev (fun d =>
    match d.seq.blocked with
    | none => d
    | some (t, since, _) =>
      if (d.rd R.SQ_STATUS_STATE = 1 ∨ d.rd R.SQ_STATUS_STATE = 2) ∧ t = d.seq.next ∧ since + d.rd R.SQ_STALL_LIMIT < d.cyc + 8 then
        let e := d.blockers.foldl (fun e p => (e.flag R.SRC_STATUS_STALLED p).raise 11 (srcNum 1 33) p) (d.flag R.SQ_STATUS_SRC_STALL)
        e.tickClose
      else d))

/-- The watermark of a port: the time base less a lag of at most D_rx, the block duration and 8 ns (R100). -/
def Dev.watermark (d : Dev) (p : Nat) : Nat :=
  let m := d.portMode p
  let block := if m = 7 then 6400 else if m = 6 then (if d.rd R.PT_CTRL_FEC p = 0 then 2560 else 204800)
    else if m = 5 then 102400 else if m = 4 ∨ m = 3 then 51200 else 25600
  let bound := (d.calEff p).dRx + ((block * 65536 / 1000 + 8 * 65536 : Nat) : Int)
  ((d.now16 : Int) - min (Config.wmLag p d.tk.etick : Int) (max 0 bound)).toNat

/-- What each event tick does to the sequencer (R100, R103): watermarks of enrolled ports, stalls that clear, PASSED, and the clock
of R103. -/
def Dev.seqTick (d : Dev) : Dev :=
  if d.rd R.SQ_STATUS_STATE = 0 then d
  else
    let ps := (List.range 16).filter (fun p => d.enrolled p)
    let e := ps.foldl (fun e p =>
      if d.rst.active.contains 3 then e
      else
        let w := d.watermark p
        let e := (e.setSeq (fun q => { q with wm := SMap.put q.wm p w })).wr R.SRC_WM ((w - d.seqEpoch) / 65536) p
        if d.on R.SRC_STATUS_STALLED p ∧ d.seqEpoch + d.seq.next * d.seqQ + d.seqGuard ≤ w then e.wr R.SRC_STATUS_STALLED 0 p else e) d
    let e := ps.foldl (fun e p => e.wr R.SRC_STATUS_PASSED (b2n (e.passed p)) p) e
    let b := e.blockers
    if b = [] ∨ ¬ e.timeReached then e.setSeq (fun q => { q with blocked := none })
    else
      match e.seq.blocked with
      | some (t, since, l) =>
        if t = e.seq.next ∧ l = b then e else e.setSeq (fun q => { q with blocked := some (e.seq.next, if t = e.seq.next ∧ l = b then since else e.cyc, b) })
      | none => e.setSeq (fun q => { q with blocked := some (e.seq.next, e.cyc, b) })

/-! ## START and STOP (R105-R107) -/

/-- A START or STOP refused. -/
def Dev.seqRefused (d : Dev) (cause : Nat) : Dev := (d.flag R.SQ_STATUS_CMD_REFUSED).wr R.SQ_STATUS_CAUSE cause

/-- START at its boundary (R105, R106). -/
def Dev.seqStart (d : Dev) : Dev :=
  if d.startCause ≠ 0 then d.seqRefused d.startCause
  else
    let e := ((d.wr R.SQ_STATUS_STATE 1).hideStart).enrolStatus
    (List.range 16).foldl (fun e p => e.wr R.SRC_STATUS_STALLED 0 p)
      (e.setSeq (fun q =>
        { q with start := d.tb.t, stop := none, ticks := [], next := d.tickOf d.now16, wm := [], blocked := none, batches := [], members := []
                 sums := [], lastSum := [], replies := [], rootNext := d.tickOf d.now16 }))

/-- STOP at its boundary (R105, R107). In CLUSTER_LOST the frames of unanswered ticks are delivered without a GSN (R111, log entry 14). -/
def Dev.seqStop (d : Dev) : Dev :=
  let st := d.rd R.SQ_STATUS_STATE
  if st = 0 then d.seqRefused 6
  else if st = 2 then d
  else
    let e := (d.wr R.SQ_STATUS_STATE 2).setSeq (fun q => { q with stop := some d.tb.t })
    let e := if st = 4 then
        (d.seq.batches.flatMap (fun b => b.2.frames)).foldl (fun e x =>
          (e.setSeq (fun q => { q with hold := q.hold - x.rx.len })).unsequenced x.rx) (e.setSeq (fun q => { q with batches := [] }))
      else e
    e.seqFinish

/-- START (R105): a class 9 write that acts at the start of the next tick, or is refused there. -/
def execStart (req : Nat) (s : State) : Host.Outcome State Fault Refusal :=
  .next (s.onDev (fun d => (d.sampleWrite req 1).postAct 9 (srcNum (reqIsland req) 0) .seqStart))

/-- STOP (R105). -/
def execStop (req : Nat) (s : State) : Host.Outcome State Fault Refusal :=
  .next (s.onDev (fun d => (d.sampleWrite req 2).postAct 9 (srcNum (reqIsland req) 0) .seqStop))

/-! ## Commands on the journal -/

/-- JOURNAL_RECORD (R116). -/
def execJournalRecord (s : State) : Host.Outcome State Fault Refusal := .next (s.onDev (fun d => d.journalTake.seqFinish))

/-- SEAL_PERIOD (R117). -/
def execSealPeriod (s : State) : Host.Outcome State Fault Refusal := .next (s.onDev (fun d => d.sealPeriod.seqFinish))

/-- SEAL_SIGNED (R117, R118). -/
def execSealSigned (readBack : Bool) (s : State) : Host.Outcome State Fault Refusal := .next (s.onDev (fun d => d.sealSigned readBack))

/-- Free space has reached 4 MiB (R119): Stitch returns to RUNNING, or STOPPING, and Hide writes the gap record. -/
def Dev.spaceReturn (d : Dev) : Dev :=
  if d.ringFree < 4 * 2 ^ 20 ∨ 256 < d.hide.unsigned.length ∨ d.inReset 0x16 ∨ d.on R.HD_STATUS_REBUILD then d.hideStatus
  else
    let e := d.gapWrite
    let e := if d.rd R.SQ_STATUS_STATE = 3 then e.wr R.SQ_STATUS_STATE (if d.seq.stop.isSome then 2 else 1) else e
    e.hideStatus.seqFinish

/-- JOURNAL_SPACE_RETURN (R119). -/
def execJournalSpaceReturn (s : State) : Host.Outcome State Fault Refusal := .next (s.onDev Dev.spaceReturn)

/-- HIDE_REBUILD (R120): the records since the last seal are hashed again to the same chain, and unsigned seals are submitted again. -/
def execHideRebuild (s : State) : Host.Outcome State Fault Refusal :=
  .next (s.onDev (fun d => if d.inReset 0x16 then d else (d.wr R.HD_STATUS_REBUILD 0).spaceReturn))

/-- The first segment that has been handed over leaves the ring (R119). -/
def segAck : List HideSeg → List HideSeg
  | [] => []
  | g :: r => if g.sent then r else g :: r

/-- DRAIN_SEGMENT_ACK (R119, R229): the destination has acknowledged the segment at the head of the ring. -/
def execDrainSegmentAck (s : State) : Host.Outcome State Fault Refusal :=
  .next (s.onDev (fun d => (d.setHide (fun h => { h with segs := segAck h.segs })).spaceReturn))

end Sys2Proof.Machine
end

