-- ==== Sys2Proof/Machine/Frames.lean ====
section
/-!
DEFINITION. FRAME_RECEIVE: the MAC (R45, R50, R52), MACsec receive (R57-R60), IRA frames (R245), parsing and class behaviour (R121-R142),
forwarding (R153, R172), learning (R160, R164), policing (R183), admission (R177), cut-through (R49, R50), capture (R303, R304).
-/
namespace Sys2Proof.Machine

/-! ## The MAC -/

/-- A frame's bytes before its FCS, its FCS, and whether the FCS checks (IEEE 802.3: CRC-32, low byte first). -/
def frameBody (raw : Bytes) : Bytes := raw.take (raw.length - 4)
def frameFcs (raw : Bytes) : Bytes := raw.drop (raw.length - 4)
def fcsOf (b : Bytes) : Bytes := leBytes 4 (crc32 polyE 0xFFFFFFFF b)
def fcsGood (raw : Bytes) : Bool := frameFcs raw == fcsOf (frameBody raw)

/-- Is a frame a MAC Control frame that the MAC consumes: opcode PAUSE or PFC (R52). -/
def isMacControl (b : Bytes) : Bool := be16 b 12 == 0x8808 && (be16 b 14 == 0x0001 || be16 b 14 == 0x0101)

/-- The MAC consumes it. -/
def Dev.macControlFrame (d : Dev) (p : Nat) (b : Bytes) : Dev :=
  if be16 b 14 = 1 then d.macControl p false 0 [be16 b 16]
  else d.macControl p true (be16 b 16 % 256) ((List.range 8).map (fun c => be16 b (18 + 2 * c)))

/-- The pipeline of a port's next frame: its lane group's, the upper one of a pair for an 800GbE port's odd frames (R121). -/
def Dev.pipeOf (d : Dev) (p : Nat) : Nat :=
  if d.portMode p = 1 then p / 4 + SMap.getD d.ports.parsed p 0 % 2 else p / 4

/-- PT_CW_POS and PT_CW_CORR of a received frame (R63): SFD at coded bit `pos` of a block of `e` bits. -/
def Dev.cwReport (d : Dev) (p e pos : Nat) : Dev :=
  (d.wr R.PT_CW_POS pos p).wr R.PT_CW_CORR (varDelayNum e pos / modeCoded (d.portMode p)) p

/-! ## MACsec receive (R57-R60, IEEE 802.1AE-2018) -/

/-- The receive SC of a port with an SCI (Table 2.13); a frame without SCI belongs to the first valid one. -/
def Dev.rxSc (d : Dev) (p : Nat) (sci : Option Bytes) : Option Nat :=
  (List.range 128).find? (fun n =>
    match SMap.get? d.sc (p * 128 + n) with
    | some b => byteAt b 8 % 4 == 1 && (match sci with
      | some x => b.take 8 == x
      | none => true)
    | none => false)

/-- What became of a frame on a port that verifies: parsed as it is, discarded, or without its SecTAG and ICV; `ok` when verified. -/
inductive Secured where
  | discard
  | plain (b : Bytes) (ok : Bool)
  deriving DecidableEq, Repr

/-- The packet number of a frame: under XPN the number nearest at or above the window that has these low 32 bits. -/
def fullPn (xpn : Bool) (low next : Nat) : Nat :=
  if !xpn then low
  else
    let hi := next / 2 ^ 32
    if low < next % 2 ^ 32 ∧ 2 ^ 31 ≤ next % 2 ^ 32 - low then (hi + 1) * 2 ^ 32 + low else hi * 2 ^ 32 + low

/-- The next PN of an SA rises; at its threshold PN_THRESH sets (R60). -/
def Dev.pnNext (d : Dev) (p sc k next : Nat) : Dev :=
  match SMap.get? d.sa k with
  | none => d
  | some sa =>
    let e := { d with sa := SMap.put d.sa k { sa with nextPn := max sa.nextPn next } }
    e.when (decide (sa.nextPn < d.pnThresh p ∧ d.pnThresh p ≤ next)) (fun x =>
      ((x.flag R.MS_STATUS_PN_THRESH p).wr R.MS_STATUS_SC sc p).raise 11 (srcNum (2 + p / 4) (p % 4)) sc)

/-- Verify a received frame without its FCS. -/
def Dev.macsecRx (d : Dev) (p : Nat) (b : Bytes) : Secured × Dev :=
  let strict := d.rd R.MS_CTRL_VALIDATE p == 2
  if !d.on R.MS_CTRL_RX_EN p then (.plain b false, d)
  else if be16 b 12 ≠ 0x88E5 then
    (if strict && be16 b 12 != 0x888E then .discard else .plain b false, d)
  else if d.encl.inhibit then (.discard, d.count R.CR_INHIBIT_DROP)
  else
    let tci := byteAt b 14
    let hasSci := bit tci 5
    let clear := !bit tci 2
    let body := b.take 12 ++ (b.drop (if hasSci then 28 else 20)).take (b.length - (if hasSci then 28 else 20) - 16)
    let keep : Secured := if strict || !clear then .discard else .plain body false
    let sci := if hasSci then some (slice b 20 8) else if bit tci 6 then some (slice b 6 6 ++ [0#8, 1#8]) else none
    match d.rxSc p sci with
    | none => (keep, d.count R.MS_IN_NO_SA 1 p)
    | some sc =>
      let k := (p * 128 + sc) * 4 + tci % 4
      match SMap.get? d.sa k with
      | none => (keep, d.count R.MS_IN_NO_SA 1 p)
      | some sa =>
        let pn := fullPn (d.on R.MS_CTRL_XPN p) (be32 b 16) sa.nextPn
        let window := be32 (SMap.getD d.sc (p * 128 + sc) []) 9
        if pn + window < sa.nextPn then (.discard, d.count R.MS_IN_LATE 1 p)
        else
          match Config.macsecOpen sa.key pn b with
          | some m => (.plain m true, (d.count R.MS_IN_OK 1 p).pnNext p sc k (pn + 1))
          | none =>
            if strict || !clear then (.discard, d.count R.MS_IN_NOT_VALID 1 p)
            else (.plain body false, if d.rd R.MS_CTRL_VALIDATE p = 1 then d.count R.MS_IN_INVALID 1 p else d)

/-! ## IRA frames (R245) -/

/-- Where the network header starts, after at most one tag (R124). -/
def Dev.l3Off (d : Dev) (b : Bytes) : Nat := if (d.outer b).tagged then 18 else 14

/-- One's complement sum folded to 16 bits. -/
def fold16 : Nat → Nat → Nat
  | 0, x => x
  | n + 1, x => if x < 65536 then x else fold16 n (x % 65536 + x / 65536)

/-- Offset of the UDP header of a recognised layout (Table 10.3). -/
def Dev.udpOff (d : Dev) (b : Bytes) : Option Nat :=
  let o := d.l3Off b
  if (d.outer b).etype = 0x0800 ∧ byteAt b o = 0x45 ∧ byteAt b (o + 9) = 17 then some (o + 20)
  else if (d.outer b).etype = 0x86DD ∧ byteAt b (o + 6) = 17 then some (o + 40)
  else none

/-- Is a frame an IRA or RoCEv2 frame (R245). -/
def Dev.iraFrame (d : Dev) (p : Nat) (b : Bytes) : Bool :=
  d.on R.IR_CTRL_EN && bit (d.rd R.IR_PORT_EN) p &&
    (match d.udpOff b with
    | some u => be16 b (u + 2) == d.rd R.IR_UDP_PORT || (d.on R.IR_CTRL_ROCE_EN && be16 b (u + 2) == 4791)
    | none => false)

/-- Do the IPv4 header checksum and a non-zero UDP checksum check. -/
def Dev.iraSums (d : Dev) (b : Bytes) : Bool :=
  let o := d.l3Off b
  let u := (d.udpOff b).getD 0
  let v4 := (d.outer b).etype == 0x0800
  let addrs := if v4 then slice b (o + 12) 8 else slice b (o + 8) 32
  let n := be16 b (u + 4)
  (!v4 || fold16 4 (csum16 (slice b o 20)) == 0xFFFF) &&
    (be16 b (u + 6) == 0 || fold16 4 (csum16 addrs + 17 + n + csum16 (slice b u n)) == 0xFFFF)

/-! ## Class behaviour and disposition (R138, R139) -/

/-- Where a frame goes under DISP 1 or 2: dropped, into a ring, or to an egress queue. -/
inductive Fate where
  | drop
  | ring
  | send (port queue : Nat) (bytes : Bytes)
  deriving DecidableEq, Repr

/-- The lookup address of a DISP 1 frame (R169). -/
def Dev.lpmAddr (d : Dev) (profile w : Nat) (v6 : Bool) (b : Bytes) : Option Nat :=
  let c := profChan d.activeBank profile
  if w < d.rd R.PF_CTRL_NWIN c then some (beNat (padTo (if v6 then 16 else 4) (d.winBytes c w b))) else none

/-- DISP 1 (R172). -/
def Dev.fateLpm (d : Dev) (f : RxFrame) (w : Nat) (v6 : Bool) : Fate × Dev :=
  match d.nextHop (d.lpmAddr f.profile w v6 f.bytes) v6 with
  | none => (.drop, d.count R.LPM_MISS)
  | some n =>
    let e := d.lpmWord 8 n
    if !bit e 52 || bit e 53 then (.drop, d.count R.LPM_NH_DROP)
    else (.send (bits e 51 48) f.queue (if bit e 54 then beBytes 6 (e % 2 ^ 48) ++ f.bytes.drop 6 else f.bytes), d)

/-- DISP 2 (R153); `cookie` of the entry hit. -/
def Dev.fateFlow (d : Dev) (f : RxFrame) (fid : Nat) : Fate × Option Nat × Dev :=
  let r := d.flowLookup f.profile f.key.length f.key
  match r.1 with
  | none =>
    if r.2.on R.FT_MISS_DELIVER && (r.2.ringFor (r.2.rd R.FT_MISS_FUNC) (r.2.rd R.FT_MISS_RING)).isSome then
      (.ring, none, r.2.deliver { f with fn := r.2.rd R.FT_MISS_FUNC, ring := r.2.rd R.FT_MISS_RING, miss := false } (rxItemOf f false false 0 0))
    else (.drop, none, r.2.count R.FT_DROP)
  | some e =>
    let q := if bit e.flags fQueue then e.queue else f.queue
    if bit e.flags fDrop then (.drop, some e.cookie, r.2.count R.FT_DROP)
    else if bit e.flags fBridge then
      (match (r.2.macFind (be48 f.bytes 0) fid).bind (SMap.get? r.2.tab.mac) with
      | some m =>
        if m.drop then (.drop, some e.cookie, r.2)
        else if m.port = f.src then (.drop, some e.cookie, r.2.count R.MT_SAME_PORT)
        else (.send m.port q f.bytes, some e.cookie, r.2)
      | none => (.send e.port q f.bytes, some e.cookie, r.2))
    else (.send e.port q f.bytes, some e.cookie, r.2)

/-- The disposition of a frame with class word 0 `w0` and word 3 `w3`: DISP 0 delivers it here (R140). -/
def Dev.fate (d : Dev) (f : RxFrame) (w0 w3 fid : Nat) : Fate × Option Nat × Dev :=
  if bits w0 5 4 = 1 then
    let r := d.fateLpm f (bits w3 19 16) (bit w3 20)
    (r.1, none, r.2)
  else if bits w0 5 4 = 2 then d.fateFlow f fid
  else (if !f.miss && (d.ringFor f.fn f.ring).isSome then .ring else .drop, none, d.deliver f (rxItemOf f false false 0 0))

/-- A frame for Rein from a received frame. -/
def Dev.reinFrame (d : Dev) (f : RxFrame) (b : Bytes) : Frame :=
  { id := d.rein.nextId, src := f.src, bytes := b, len := b.length + 4, colour := f.colour, stamp := f.stamp, cap := f.cap }

/-- Frame identities rise. -/
def Dev.nextId (d : Dev) : Dev := d.setRein (fun r => { r with nextId := r.nextId + 1 })

/-- MIRROR: a copy is admitted or dropped on its own (R139, R177). -/
def Dev.mirror (d : Dev) (f : RxFrame) (w2 w3 : Nat) : Dev :=
  (d.enqueueFrame (bits w2 19 16) (bits w3 15 0) { d.reinFrame f f.bytes with cap := none }).nextId

/-! ## Malformed frames (R141) -/

/-- A device ring of software's choice that can take a frame: an enabled receive ring of a function in service. -/
def Dev.rxRing (d : Dev) (r : Nat) : Option Nat :=
  match d.ringOwner r with
  | some fn => if d.inService fn && d.on R.RG_CTRL_ENABLE r && d.rd R.RG_CFG_TYPE r == 1 then some r else none
  | none => none

/-- The capture of a class entry under profile CAP_PROFILE. -/
def capOf (w0 : Nat) : Option Nat := if bit w0 1 then some (bits w0 15 8) else none

/-- A malformed frame takes its source's action (R141). -/
def Dev.malformed (d : Dev) (f : RxFrame) (cause : Nat) : Dev :=
  let e := d.count R.PR_MALF_CNT 1 0 (4 * f.src + cause)
  let f := { f with cause := some cause }
  let act := e.rd R.PR_MALF_ACTION 0 f.src
  if act = 1 then
    (match e.rxRing (e.rd R.PR_MALF_RING 0 f.src) with
    | some r => e.rxQueue r (rxItemOf f false false 0 0)
    | none => e)
  else if act = 2 then e.captureRx { f with cap := capOf (e.classWord (e.rd R.PR_MALF_MALF_CLASS 0 f.src) 0) } false false 0
  else e

/-! ## Cut-through (R49, R50) -/

/-- May a frame be cut through to a queue of a port at instant `now` (ps) with time base `t`. -/
def Dev.cutOk (d : Dev) (p out qn now t : Nat) : Bool :=
  d.on R.PT_CTRL_LL p && d.on R.PT_CTRL_LL out && decide (modeRate (d.portMode out) ≤ modeRate (d.portMode p)) &&
    !d.on R.MS_CTRL_RX_EN p && d.lineFree out now &&
    (match d.queueOf out qn with
    | some q =>
      let tc := d.rd R.QS_CFG_TC q
      let occ := d.occupancy out (d.rd R.PT_MTU out)
      SMap.getD d.rein.queues q [] == [] && d.shaperOk q now && d.tcShaperOk out tc now && !d.paused out tc &&
        d.gateFits out tc occ t && d.beforeLaunch out occ t
    | none => false)

/-- A cut-through frame leaves: whole, or stomped at its end or at MAX_FRAME with the inverted FCS (R50). -/
def Dev.cutSend (d : Dev) (out qn now stamp : Nat) (f : Frame) (stomp : Option Bytes) : Dev :=
  match d.queueOf out qn with
  | none => d
  | some q =>
    let sent := stomp.getD f.bytes
    let f := { f with bytes := sent, len := sent.length + 4, cut := true }
    let e := (d.bufUse (d.rein.used + f.len)).charge out q now f.len
    let e := e.sendFrame out now stamp f 0 (fun x => (x.count R.QS_TX_FRAMES 1 q).count R.QS_TX_OCTETS f.len q)
    if stomp.isSome then
      (e.setRein (fun r => { r with wire := r.wire.map (fun w => if w.id = f.id then { w with bytes := w.bytes ++ (fcsOf w.bytes).map (~~~ ·) } else w) })).count
        R.TX_STOMPED 1 out
    else e

/-! ## A received frame -/

/-- The frame as the pipeline leaves it: parsed, with its class entry's words. -/
def Dev.rxFrame (d : Dev) (p pipe stamp : Nat) (b fcs digest : Bytes) (macsec : Bool) (x : Parsed) : RxFrame :=
  let w0 := d.classWord x.cls 0
  let w1 := d.classWord x.cls 1
  let known := x.malf == 0 || x.malf == 3
  { src := p, pipe := pipe, len := b.length + 4, stamp := stamp, bytes := b, fcs := fcs, cls := x.cls, profile := x.profile, queue := x.queue
    colour := x.colour, awl := x.awl, key := x.key, macsec := macsec, cap := if known then capOf w0 else none, fn := bits w1 12 0
    ring := bits w1 31 16 + x.queue, miss := decide (bits (d.classWord x.cls 2) 15 0 ≤ x.queue), digest := digest }

/-- A frame of a sequenced class whose conditions hold is on its way to Stitch, unless the hold area is full (R97, R119). -/
def Dev.toStitch (d : Dev) (f : RxFrame) : Dev :=
  if d.rd R.SQ_HOLD_MAX * 1024 < d.seq.hold + f.len then
    (((d.countSat R.SQ_DROP).count R.PR_DROP_OTHER 1 0 f.src).captureRx f false false 0)
  else d.setSeq (fun q => { q with way := q.way ++ [f], hold := q.hold + f.len })

/-- A frame that is not malformed meets the behaviour of its class: `now`, `t` and `txStamp` serve a cut-through start, `stomp` is the
bytes sent before an inverted FCS. -/
def Dev.behave (d : Dev) (f : RxFrame) (fid now t txStamp : Nat) (stomp : Option Bytes) : Dev :=
  let w0 := d.classWord f.cls 0
  let w3 := d.classWord f.cls 3
  if bit w0 3 then (d.count R.PR_DROP_OTHER 1 0 f.src).captureRx f false false 0
  else
    let pl := if bit w0 6 then d.policer (bits w0 31 16) f.colour f.len f.src else (f.colour, false, d)
    let f := { f with colour := pl.1 }
    if pl.2.1 then pl.2.2.captureRx f false false 0
    else
      let e := pl.2.2.when (bit w0 2) (fun x => x.mirror f (x.classWord f.cls 2) w3)
      if bit w0 0 then (if e.enrols f then e.toStitch f else e.unsequenced f)
      else
        let r := e.fate f w0 w3 fid
        let e := match f.cap with
          | some cp => r.2.2.candidate cp { candOf f false false 0 with cookie := r.2.1 }
          | none => r.2.2
        let e := e.when (bits w0 5 4 == 2 && r.2.1.isNone) (fun x => x.flowLearn f.src f.pipe f.profile f.key.length f.key)
        match r.1 with
        | .send out qn b =>
          if f.src < 16 && e.cutOk f.src out qn now t then (e.cutSend out qn now txStamp (e.reinFrame f b) stomp).nextId
          else (e.enqueueFrame out qn (e.reinFrame f b)).nextId
        | _ => e

/-- Would a frame be cut through: DISP 1 or 2 of a class that neither drops nor sequences it, to a queue that can start it (R49). -/
def Dev.wouldCut (d : Dev) (f : RxFrame) (fid now t : Nat) : Bool :=
  let w0 := d.classWord f.cls 0
  !bit w0 3 && !bit w0 0 && (bits w0 5 4 == 1 || bits w0 5 4 == 2) &&
    (match (d.fate f w0 (d.classWord f.cls 3) fid).1 with
    | .send out qn _ => d.cutOk f.src out qn now t
    | _ => false)

/-- A frame at its pipeline (R121-R142): `good` says whether its FCS checks, `long` that it runs past MAX_FRAME: the MAC discards
it then, unless it is cut through. -/
def Dev.pipeline (d : Dev) (p pipe stamp : Nat) (b fcs digest : Bytes) (macsec good long : Bool) (now t txStamp : Nat) : Dev :=
  let x := d.parse p b
  let f := d.rxFrame p pipe stamp b fcs digest macsec x
  let fid := d.fidOf p x.vid
  let known := x.malf == 0 || x.malf == 3
  let e := d.when known (fun y => y.count R.CB_HITS 1 x.cls)
  let cause := if !good then 0 else x.malf
  let w0 := e.classWord x.cls 0
  let clean := good && x.malf == 0
  let learned (y : Dev) : Dev := y.when clean (fun z => z.macLearn p pipe (be48 b 6) fid)
  if known && e.wouldCut f fid now t then
    let stomp := if long then some (b.take (e.rd R.PT_MTU p - 4)) else if good then none else some b
    let e := e.behave { f with cause := if good then none else some 0 } fid now t txStamp stomp
    if long then e.count R.RX_OVERSIZE 1 p else learned e
  else if long then d.count R.RX_OVERSIZE 1 p
  else if clean then learned (e.behave f fid now t txStamp none)
  else if known && bit w0 0 && e.enrols f then
    (e.count R.PR_MALF_CNT 1 0 (4 * p + cause)).toStitch { f with cause := some cause }
  else e.malformed f cause

/-- A frame received on a port that is UP. `raw` holds every byte from the destination address through the FCS, `stamp` its receive
timestamp; `now`, `t`, `txStamp` the instant, the time base and the transmit timestamp of a cut-through start. -/
def Dev.receive (d : Dev) (p stamp : Nat) (raw : Bytes) (now t txStamp : Nat) : Dev :=
  let good := fcsGood raw
  let b := frameBody raw
  let long := decide (d.rd R.PT_MTU p < raw.length)
  if raw.length < 64 then d.count (if good then R.RX_UNDERSIZE else R.RX_FRAGMENT) 1 p
  else if !long && good && isMacControl b then ((d.count R.RX_FRAMES_OK 1 p).count R.RX_OCTETS_OK raw.length p).macControlFrame p b
  else
    let pipe := d.pipeOf p
    let e := { d with ports := { d.ports with parsed := SMap.upd d.ports.parsed p 0 (fun n => (n + 1) % 2) } }
    if long then d.pipeline p pipe stamp b (frameFcs raw) [] false good true now t txStamp
    else
      let e := if good then (e.count R.RX_FRAMES_OK 1 p).count R.RX_OCTETS_OK raw.length p else e.count R.RX_FCS_ERR 1 p
      let digest := Config.shake256 raw 32
      if e.iraFrame p b then
        if good && e.iraSums b then { e with ira := { e.ira with inbox := e.ira.inbox ++ [⟨p, none, b⟩] } } else e.count R.IR_CSUM_ERR
      else
        let m := if good then e.macsecRx p b else (.plain b false, e)
        match m.1 with
        | .discard => m.2
        | .plain b ok => m.2.pipeline p pipe stamp b (if ok then fcsOf b else frameFcs raw) digest ok good false now t txStamp

/-- FRAME_RECEIVE (R62): a frame on port `p`, detected at `tDet` with its SFD at coded bit `pos` of a block of `e` bits (R62, R63).
`overflow` says that it finds the FIFO of a sleeping pipeline full (R424). A cut-through start takes place `off` ps into the tick
with `tEmit`, `te`, `tv` as in R62. -/
def execFrameReceive (p : Nat) (raw : Bytes) (tDet e pos : Nat) (overflow : Bool) (off tEmit te tv : Nat) (s : State) :
    Host.Outcome State Fault Refusal :=
  .next (s.onDev (fun d =>
    if !d.up p || d.inReset 6 then d
    else
      let g := d.pipeOf p
      let asleep := d.stopped (6 + g)
      let d := (d.cwReport p e pos).when (d.pwr.quiet && bit (d.rd R.PW_QUIET_CTRL_GROUPS) (p / 4)) (fun x =>
        x.quietEnd.raise 11 (srcNum 0 5))
      if asleep && overflow then d.countSat R.PW_QUIET_DROP
      else ((d.wake (6 + g)).wake 0x0A).receive p (d.rxStamp p tDet e pos) raw (d.cyc * 1000 + off) (d.now + off * nsUnit / 1000)
        (d.txStamp p tEmit te tv)))

end Sys2Proof.Machine
end

