-- ==== Sys2Proof/Machine/Rings.lean ====
section
/-!
DEFINITION. Chapter 9: indices and doorbells (R220-R223), enable, disable and error of rings (R233-R235), completions (R230), receive and
drain rings (R228, R229), event queues (R236-R242).
-/
namespace Sys2Proof.Machine

/-! ## Reach and indices -/

/-- May a requester write a ring's registers: its owner in service, PF0, or a requester inside the device (R205). -/
def Dev.ringReach (d : Dev) (req r : Nat) : Bool := (devSpace req || d.ringOwner r == some req) && (!isFunc req || d.inService req)
def Dev.eqReach (d : Dev) (req q : Nat) : Bool := (devSpace req || d.eqOwner q == some req) && (!isFunc req || d.inService req)

/-- The address of an entry (R220). -/
def Dev.ringAddr (d : Dev) (r i : Nat) : Nat :=
  d.rd R.RG_BASE_HI r <<< 32 + d.rd R.RG_BASE_LO r <<< 12 + 64 * (i % 2 ^ d.ringN r)

/-- The index after `k` entries. -/
def Dev.ringStep (d : Dev) (r i k : Nat) : Nat := (i + k) % lapMod (d.ringN r)

/-- Entries from FETCH to PI. -/
def Dev.ringPosted (d : Dev) (r : Nat) : Nat := lapSub (d.ringN r) (d.rd R.RG_PI r) (d.rd R.RG_FETCH r)

/-- Entries at or after FETCH that may be used: those posted, and in error only those before the offending index (R235). -/
def Dev.ringUsable (d : Dev) (r : Nat) : Nat :=
  if d.on R.RG_STATUS_ERR r then min (d.ringPosted r) (lapSub (d.ringN r) (d.rd R.RG_ERR_IDX r) (d.rd R.RG_FETCH r)) else d.ringPosted r

/-- The kept copies of the entries from FETCH on, in order, up to the first that is not kept. -/
def Dev.ringKept (d : Dev) (r : Nat) : List Bytes :=
  (((List.range (min 65 (d.ringUsable r))).map (fun k => SMap.get? (d.ring r).kept (d.ringStep r (d.rd R.RG_FETCH r) k))).takeWhile
    Option.isSome).filterMap id

/-! ## Doorbells (R206, R221) -/

/-- The value of a doorbell acts on a ring. -/
def Dev.ringBell (d : Dev) (r x : Nat) : Dev :=
  let n := d.ringN r
  let pi := d.rd R.RG_PI r
  if d.on R.RG_STATUS_ERR r || x == pi then d
  else if x < lapMod n ∧ lapSub n x pi ≤ 2 ^ n - lapSub n pi (d.rd R.RG_CI r) then d.wr R.RG_PI x r
  else d.ringError r 1 pi

/-- RING_DOORBELL (R206, R221): function `fn` writes `value` to the slot of local ring `loc`. -/
def execRingDoorbell (fn loc value : Nat) (s : State) : Host.Outcome State Fault Refusal :=
  .next (s.onDev (fun d =>
    if !d.inService fn then d
    else
      let r := d.rd R.FN_RING_BASE fn + loc
      if d.rd R.FN_RING_COUNT fn ≤ loc ∨ ¬ d.on R.RG_CTRL_ENABLE r then d.countSat R.FN_DB_IGNORED 1 fn
      else d.ringBell r (value % 2 ^ 17)))

/-- INVAL (R223): under PFMODE 1 every kept copy at or after FETCH is discarded. -/
def execInval (req r : Nat) (s : State) : Host.Outcome State Fault Refusal :=
  .next (s.onDev (fun d =>
    if d.ringReach req r && d.on R.RG_CFG_PFMODE r then (d.sampleWrite req 2).setRing r (fun x => { x with kept := [] }) else d))

/-! ## Completions (R230, R231) -/

/-- CTRL of a completion at an index (Table 9.1). -/
def cplCtrl (n i status : Nat) (desc : Bytes) : Bytes :=
  let c := le32 desc 60
  leBytes 4 (c % 2 ^ 11 + 2 ^ 11 * b2n (status != 0) + 2 ^ 31 * (1 - lapBit n i))

/-- Write one completion over an entry: bytes 0 to 59 and then 60 to 63; `body` is bytes 0 to 51. -/
def Dev.cplEntry (d : Dev) (r i status : Nat) (desc body : Bytes) : Dev :=
  let fn := (d.ringOwner r).getD 0
  let a := d.ringAddr r i
  (d.hostWrite fn a (slice body 0 52 ++ slice desc 52 4 ++ [0#8, 0#8, 0#8, 0#8])).hostWrite fn (a + 60) (cplCtrl (d.ringN r) i status desc)

/-- The OP, FIRST, LAST and NOTIFY of an entry. -/
def descOp (b : Bytes) : Nat := byteAt b 60
def descFirst (b : Bytes) : Bool := bit (byteAt b 61) 0
def descLast (b : Bytes) : Bool := bit (byteAt b 61) 1
def descNotify (b : Bytes) : Bool := bit (byteAt b 61) 2

/-- A job's last completion write has entered the outbound queue: CI, counts, notification (R230, R237). -/
def Dev.cplJob (d : Dev) (r k status octets : Nat) (notify : Bool) : Dev :=
  let e := (((d.wr R.RG_CI (d.ringStep r (d.rd R.RG_CI r) k) r).count R.RG_CPL_COUNT 1 r).count R.RG_JOBS 1 r).count R.RG_OCTETS octets r
  let e := e.when (status != 0) (fun x => x.count R.RG_ERR_CPL 1 r)
  e.when (notify || e.on R.RG_CFG_NOTIFY_ALL r) (fun x => x.ringNotify r)

/-! ## Descriptor reads (R223, R235) -/

/-- Is a BUF entry fit for its ring (R225, Table 9.2). -/
def bufOk (type : Nat) (b : Bytes) : Bool :=
  let len := le32 b 8
  descOp b == 2 && le64 b 0 % 64 == 0 && len % 64 == 0 &&
    (if type = 1 then decide (64 ≤ len ∧ len ≤ 16384) else decide (4096 ≤ len ∧ len ≤ 16777216))

/-- The whole BUF jobs at the head of a list of entries; and the position of a descriptor error, if one follows. -/
def bufJobs (type : Nat) : List Bytes → Nat → List Bytes → List (List Bytes) × Option Nat
  | [], _, _ => ([], none)
  | b :: bs, k, cur =>
    if !bufOk type b || descFirst b != (cur == []) then ([], some k)
    else if descLast b then
      let r := bufJobs type bs (k + 1) []
      ((cur ++ [b]) :: r.1, r.2)
    else bufJobs type bs (k + 1) (cur ++ [b])

/-- Return unused buffers of a disabled receive or drain ring: kept entries from FETCH on complete with status 0x0A (R234). -/
def Dev.returnBufs (d : Dev) (r : Nat) : Dev :=
  (d.ringKept r).foldl (fun e b =>
    let i := e.rd R.RG_FETCH r
    let e := (e.cplEntry r i 0x0A b (List.replicate 16 0#8 ++ [0x0A#8])).wr R.RG_FETCH (e.ringStep r i 1) r
    let e := e.setRing r (fun x => { x with kept := SMap.del x.kept i })
    if descLast b then e.cplJob r 1 0x0A 0 (descNotify b) else e.wr R.RG_CI (e.ringStep r (e.rd R.RG_CI r) 1) r) d

/-- Is the work at FETCH complete in the kept copies: they hold an entry with LAST. -/
def Dev.jobKept (d : Dev) (r : Nat) : Bool := (d.ringKept r).any descLast

/-- Does the device read entry `i` now (R223): posted, not kept, within its bound of FETCH or needed by the work at FETCH. -/
def Dev.mayFetch (d : Dev) (r i : Nat) : Bool :=
  let k := lapSub (d.ringN r) i (d.rd R.RG_FETCH r)
  decide (k < d.ringUsable r) && !SMap.has (d.ring r).kept i && !d.on R.RG_STATUS_IDLE r &&
    (d.on R.RG_CTRL_ENABLE r || d.rd R.RG_CFG_TYPE r != 0) &&
    (decide (k < if d.on R.RG_CFG_PFMODE r then 64 else 8) || (k == (d.ringKept r).length && !d.jobKept r))

/-- The read of entry `i` of device ring `r` completes with its 64 bytes, or fails (R223, R235). -/
def Dev.ringFetch (d : Dev) (r i : Nat) (ok : Bool) (data : Bytes) : Dev :=
  match d.ringOwner r with
  | none => d
  | some fn =>
    if !d.inService fn || !d.mayFetch r i then d
    else if !ok then d.ringError r 3 i
    else
      let e := d.setRing r (fun x => { x with kept := SMap.put x.kept i (padTo 64 data) })
      if e.on R.RG_CTRL_ENABLE r then e else e.returnBufs r

/-! ## Receive rings (R228) -/

/-- The buffers that hold `n` bytes: whole jobs in order, each entry with the bytes it takes. -/
def takeBufs : Nat → List (List Bytes) → Option (List (List (Bytes × Nat)))
  | _, [] => none
  | n, j :: js =>
    let fill := j.foldl (fun (a : Nat × List (Bytes × Nat)) b => (a.1 - min a.1 (le32 b 8), a.2 ++ [(b, min a.1 (le32 b 8))])) (n, [])
    if fill.1 = 0 then some [fill.2] else (takeBufs fill.1 js).map (fun r => fill.2 :: r)

/-- Write `data` into buffers and complete them; `meta'` gives the body of an entry from its byte count and whether it is the last. -/
def Dev.fillJobs (d : Dev) (r : Nat) (data : Bytes) (jobs : List (List (Bytes × Nat))) (status : Nat) (meta' : Nat → Bool → Bytes) : Dev :=
  let fn := (d.ringOwner r).getD 0
  let total := jobs.length
  ((List.range total).zip jobs).foldl (fun (a : Dev × Bytes) q =>
    let m := q.2.length
    let w := ((List.range m).zip q.2).foldl (fun (x : Dev × Bytes) p =>
      let b := p.2.1
      let n := p.2.2
      let i := x.1.rd R.RG_FETCH r
      let e := if n = 0 then x.1 else x.1.hostWrite fn (le64 b 0) (x.2.take n)
      let e := e.cplEntry r i status b (meta' n (decide (q.1 + 1 = total ∧ p.1 + 1 = m)))
      ((e.wr R.RG_FETCH (e.ringStep r i 1) r).setRing r (fun y => { y with kept := SMap.del y.kept i }), x.2.drop n)) a
    (w.1.cplJob r m status (q.2.map (·.2)).sum ((q.2.getLast?.map (fun p => descNotify p.1)).getD false), w.2)) (d, data) |>.1

/-- The body of a receive completion (Table 9.5). -/
def rxBody (x : RxItem) (n : Nat) (last : Bool) : Bytes :=
  if !last then List.replicate 12 0#8 ++ leBytes 4 n ++ [BitVec.ofNat 8 x.status]
  else
    time96Bytes x.stamp ++ leBytes 4 n ++ [BitVec.ofNat 8 x.status, BitVec.ofNat 8 (b2n x.seq + 2 * b2n x.late + 4 * x.colour)] ++
      leBytes 2 x.len ++ [BitVec.ofNat 8 x.port, BitVec.ofNat 8 x.cls] ++ leBytes 2 x.queue ++ leBytes 8 (if x.seq then x.gsn else 0) ++
      leBytes 6 x.tick ++ [BitVec.ofNat 8 x.cause, 0#8] ++ leBytes 2 x.awl

/-- Take the first frame that waits for a ring. -/
def Dev.rxPop (d : Dev) (r : Nat) : Dev :=
  d.setHost (fun h =>
    let l := (SMap.getD h.rx r []).tail
    { h with rx := if l = [] then SMap.del h.rx r else SMap.put h.rx r l })

/-- A waiting frame whose ring is out of use; PR_DROP_OTHER counts no malformed frame but one that is enrolled (R140, R142). -/
def Dev.rxMiss (d : Dev) (x : RxItem) : Dev :=
  if x.status = 0 || x.seq then d.ringMiss (if x.port = 0xFF then 16 else x.port) else d.countSat R.CL_RING_MISS

/-- Deliver the first frame that waits for a ring: written whole, dropped for lack of buffers, or waiting for a descriptor read. -/
def Dev.rxDeliver (d : Dev) (r : Nat) : Dev :=
  match SMap.getD d.host.rx r [] with
  | [] => d
  | x :: _ =>
    match d.ringOwner r with
    | none => (d.rxPop r).rxMiss x
    | some fn =>
      if !d.inService fn || !d.on R.RG_CTRL_ENABLE r then (d.rxPop r).rxMiss x
      else
        let kept := d.ringKept r
        let p := bufJobs 1 kept 0 []
        match takeBufs x.bytes.length p.1 with
        | some jobs => ((d.rxPop r).fillJobs r x.bytes jobs x.status (rxBody x))
        | none =>
          (match p.2 with
          | some k => ((d.ringError r 2 (d.ringStep r (d.rd R.RG_FETCH r) k)).rxPop r).count R.RG_RX_NOBUF 1 r
          | none => if kept.length < d.ringUsable r then d else (d.rxPop r).count R.RG_RX_NOBUF 1 r)

/-- RX_DELIVER (R228). -/
def execRxDeliver (r : Nat) (s : State) : Host.Outcome State Fault Refusal := .next (s.onDev (fun d => d.rxDeliver r))

/-! ## Drain rings (R229) -/

/-- Is a device ring an enabled drain ring of an Evidence function in service. -/
def Dev.drainRing (d : Dev) (r : Nat) : Bool :=
  match d.ringOwner r with
  | some fn => d.inService fn && d.fnType fn == 3 && d.on R.RG_CTRL_ENABLE r && d.rd R.RG_CFG_TYPE r == 2
  | none => false

/-- The body of a drain completion (Table 9.6). -/
def drainBody (status src seg n : Nat) (last : Bool) : Bytes :=
  List.replicate 12 0#8 ++ leBytes 4 n ++ [BitVec.ofNat 8 status, BitVec.ofNat 8 (if last then src else 0)] ++ leBytes 6 0 ++
    leBytes 8 (if last then seg else 0)

/-- Write a segment of source `src` into a drain ring; `none` where it waits. -/
def Dev.drainTo (d : Dev) (r src : Nat) (b : Bytes) : Option Dev :=
  if !d.drainRing r then none
  else
    let p := bufJobs 2 (d.ringKept r) 0 []
    match takeBufs b.length p.1 with
    | some jobs =>
      let seg := SMap.getD d.host.segs src 0
      some ((d.fillJobs r b jobs 0 (drainBody 0 src seg)).setHost (fun h => { h with segs := SMap.put h.segs src (seg + 1) }))
    | none => p.2.map (fun k => d.ringError r 2 (d.ringStep r (d.rd R.RG_FETCH r) k))

/-- The first ready journal segment not yet handed over. -/
def hideNext : List HideSeg → Option Bytes
  | [] => none
  | g :: r => if g.sent then hideNext r else if g.ready then some g.bytes else none

/-- Mark it handed over. -/
def hideSent : List HideSeg → List HideSeg
  | [] => []
  | g :: r => if g.sent then g :: hideSent r else { g with sent := true } :: r

/-- DRAIN_DELIVER (R229): the next segment of the journal (`st` none), or of a capture stream, goes to its drain ring. -/
def execDrainDeliver (st : Option Nat) (s : State) : Host.Outcome State Fault Refusal :=
  .next (s.onDev (fun d =>
    match st with
    | none =>
      if d.rd R.HD_DRAIN ≠ 1 then d
      else
        (match hideNext d.hide.segs with
        | none => d
        | some b =>
          (match d.drainTo (d.objNat 0x3410 2 0) 0 b with
          | none => d
          | some e => if e.host.segs == d.host.segs then e else { e with hide := { e.hide with segs := hideSent e.hide.segs } }))
    | some n =>
      if d.rd R.CS_CTRL_DEST n ≠ 1 then d
      else
        (match (d.stream n).segs[(d.stream n).sent]? with
        | none => d
        | some b =>
          (match d.drainTo (d.rd R.CS_TARGET n) 1 b with
          | none => d
          | some e => if e.host.segs == d.host.segs then e else e.setStream n (fun x => { x with sent := x.sent + 1 })))))

/-! ## Enable and disable (R233, R234) -/

/-- May a function of a type own a ring of a type (Table 9.2). -/
def ringTypeOk (fnType ringType : Nat) : Bool :=
  (ringType == 0 || ringType == 1) && (fnType == 0 || fnType == 1 || fnType == 3) || (ringType == 2 && fnType == 3)

/-- The cause that refuses an enable, 0 for none (R233). -/
def Dev.ringCause (d : Dev) (r : Nat) : Nat :=
  match d.ringOwner r with
  | none => 6
  | some fn =>
    if d.ringN r < 6 ∨ 16 < d.ringN r then 1
    else if !ringTypeOk (d.fnType fn) (d.rd R.RG_CFG_TYPE r) then 2
    else if d.on R.RG_CFG_EQ_EN r ∧ d.rd R.FN_EQ_COUNT fn ≤ d.rd R.RG_CFG_EQ r then 3
    else if !d.on R.RG_STATUS_IDLE r then 4
    else 0

/-- A refused write of a ring register. -/
def Dev.ringRefused (d : Dev) (r cause : Nat) : Dev := (d.flag R.RG_STATUS_WR_REFUSED r).wr R.RG_STATUS_CAUSE cause r

/-- Setting ENABLE. -/
def Dev.ringEnable (d : Dev) (r : Nat) : Dev :=
  if d.on R.RG_CTRL_ENABLE r then d
  else if d.ringCause r ≠ 0 then d.ringRefused r (d.ringCause r)
  else
    let e := (((d.wr R.RG_PI 0 r).wr R.RG_FETCH 0 r).wr R.RG_CI 0 r).wr R.RG_CPL_COUNT 0 r
    let e := ((e.wr R.RG_STATUS_NOTIFY_PENDING 0 r).wr R.RG_STATUS_ERR 0 r).wr R.RG_STATUS_IDLE 0 r
    (e.setRing r (fun _ => {})).flag R.RG_CTRL_ENABLE r

/-- RING_ENABLE (R233). -/
def execRingEnable (req r : Nat) (s : State) : Host.Outcome State Fault Refusal :=
  .next (s.onDev (fun d => if d.ringReach req r then (d.sampleWrite req r).ringEnable r else d))

/-! ## Event queues (R236-R242) -/

/-- The cause that refuses an enable, 0 for none (R242). -/
def Dev.eqCause (d : Dev) (q : Nat) : Nat :=
  match d.eqOwner q with
  | none => 4
  | some fn => if d.eqN q < 6 ∨ 16 < d.eqN q then 1 else if d.msixSize fn ≤ d.rd R.EQ_CFG_VECTOR q then 2 else 0

def Dev.eqRefused (d : Dev) (q cause : Nat) : Dev := (d.flag R.EQ_STATUS_WR_REFUSED q).wr R.EQ_STATUS_CAUSE cause q

/-- Setting ENABLE of an event queue. -/
def Dev.eqEnable (d : Dev) (q : Nat) : Dev :=
  if d.on R.EQ_CTRL_ENABLE q then d
  else if d.eqCause q ≠ 0 then d.eqRefused q (d.eqCause q)
  else ((((d.wr R.EQ_PI 0 q).wr R.EQ_CI 0 q).wr R.EQ_OVF 0 q).wr R.EQ_STATUS_FULL 0 q).flag R.EQ_CTRL_ENABLE q

/-- EQ_ENABLE (R242). -/
def execEqEnable (req q : Nat) (s : State) : Host.Outcome State Fault Refusal :=
  .next (s.onDev (fun d => if d.eqReach req q then (d.sampleWrite req q).eqEnable q else d))

/-- The rings that name a queue and hold NOTIFY_PENDING, ascending. -/
def Dev.eqWaiters (d : Dev) (q : Nat) : List Nat := (d.regs.chans R.RG_STATUS_NOTIFY_PENDING).filter (fun r => d.ringEq r == some q)

/-- Clearing ENABLE stops all writes at once and clears the pending bits. -/
def Dev.eqDisable (d : Dev) (q : Nat) : Dev :=
  let e := ((d.wr R.EQ_CTRL_ENABLE 0 q).wr R.EQ_STATUS_OVF_PENDING 0 q).setHost (fun h => { h with timers := SMap.del h.timers q })
  e.each (d.eqWaiters q) (fun x r => x.wr R.RG_STATUS_NOTIFY_PENDING 0 r)

/-- EQ_DISABLE (R242). -/
def execEqDisable (req q : Nat) (s : State) : Host.Outcome State Fault Refusal :=
  .next (s.onDev (fun d => if d.eqReach req q then (d.sampleWrite req q).eqDisable q else d))

/-- The OVERFLOW notification and the RING notifications that fit (R239). -/
def Dev.eqCatchUp (d : Dev) (q : Nat) : Dev :=
  if d.eqFull q then d
  else
    let d := if d.on R.EQ_STATUS_OVF_PENDING q then
        ((d.eqPost q 2 (leBytes 4 (d.rd R.EQ_OVF q))).2).wr R.EQ_STATUS_OVF_PENDING 0 q
      else d
    d.each (d.eqWaiters q) (fun e r => if e.eqFull q then e else (e.wr R.RG_STATUS_NOTIFY_PENDING 0 r).ringNotify r)

/-- An EQ_CI write (R240, R239). -/
def Dev.eqCi (d : Dev) (q c : Nat) : Dev :=
  let n := d.eqN q
  if lapMod n ≤ c ∨ lapSub n (d.rd R.EQ_PI q) (d.rd R.EQ_CI q) < lapSub n (d.rd R.EQ_PI q) c then d.flag R.EQ_STATUS_CI_REFUSED q
  else ((d.wr R.EQ_CI c q).eqFullBit q).eqCatchUp q

/-- EQ_CI_WRITE (R239, R240). -/
def execEqCiWrite (req q value : Nat) (s : State) : Host.Outcome State Fault Refusal :=
  .next (s.onDev (fun d => if d.eqReach req q then (d.sampleWrite req value).eqCi q (value % 2 ^ 17) else d))

/-- EQ_MOD_TIMER (R241): the moderation timer of a queue expires. -/
def execEqModTimer (q : Nat) (s : State) : Host.Outcome State Fault Refusal :=
  .next (s.onDev (fun d =>
    match SMap.get? d.host.timers q with
    | none => d
    | some t =>
      if 8 * d.tk.etick + 8 ≤ t.due then d
      else if t.wrote then
        (d.msix ((d.eqOwner q).getD 0) (d.rd R.EQ_CFG_VECTOR q)).setHost (fun h =>
          { h with timers := SMap.put h.timers q ⟨t.due + d.rd R.EQ_CFG_MOD q * 100, false⟩ })
      else d.setHost (fun h => { h with timers := SMap.del h.timers q })))

end Sys2Proof.Machine
end

