-- ==== Sys2Proof/Machine/TxRing.lean ====
section
/-!
DEFINITION. Chapter 9, transmit rings: jobs, payload reads, frames of source 16 (R225-R227), WAIT (R232), completions (R230, R231),
ring disable and idle (R234).
-/
namespace Sys2Proof.Machine

/-! ## Jobs of a ring -/

/-- Body of a TX completion (Table 9.4); `n` bytes were read for the entry. -/
def txBody (j : Job) (status n : Nat) (last : Bool) : Bytes :=
  (if last then time96Bytes j.stamp else List.replicate 12 0#8) ++ leBytes 4 n ++
    [BitVec.ofNat 8 status, BitVec.ofNat 8 j.launch, BitVec.ofNat 8 j.malf]

/-- Body of a WAIT completion (Table 9.8). -/
def waitBody (j : Job) (status : Nat) : Bytes := leBytes 4 j.count ++ leBytes 12 0 ++ [BitVec.ofNat 8 status]

/-- Write the completions of one job whose work has ended. -/
def Dev.jobComplete (d : Dev) (r : Nat) (j : Job) (status : Nat) : Dev :=
  let m := j.descs.length
  let e := ((List.range m).zip j.descs).foldl (fun e p =>
    let n := (SMap.getD j.data p.1 []).length
    e.cplEntry r (e.ringStep r j.first p.1) status p.2 (if j.wait.isSome then waitBody j status else txBody j status n (p.1 + 1 == m))) d
  e.cplJob r m status ((j.data.map (fun x => x.2.length)).sum) ((j.descs.getLast?.map descNotify).getD false)

/-- RG_STATUS.WAITING follows the ring's jobs. -/
def Dev.ringWaiting (d : Dev) (r : Nat) : Dev :=
  d.wr R.RG_STATUS_WAITING (b2n ((d.ring r).jobs.any (fun j => j.wait.isSome && j.status.isNone))) r

/-- Jobs complete in index order: those at the head whose work has ended (R230). -/
def Dev.jobsFlush : Nat → Nat → Dev → Dev
  | 0, _, d => d
  | n + 1, r, d =>
    match (d.ring r).jobs with
    | [] => d
    | j :: js =>
      match j.status with
      | none => d
      | some st => Dev.jobsFlush n r ((d.setRing r (fun x => { x with jobs := js })).jobComplete r j st)

/-- Write every completion that is due. -/
def Dev.jobsDue (d : Dev) (r : Nat) : Dev := (Dev.jobsFlush (d.ring r).jobs.length r d).ringWaiting r

/-- Change one job of a ring. -/
def Dev.setJob (d : Dev) (r id : Nat) (f : Job → Job) : Dev :=
  d.setRing r (fun x => { x with jobs := x.jobs.map (fun j => if j.id = id then f j else j) })

def Dev.job (d : Dev) (r id : Nat) : Option Job := (d.ring r).jobs.find? (fun j => j.id == id)

/-- The work of a job ends: its status, timestamp, launch status and malformed cause; its capture point (R304); completions. -/
def Dev.jobEnd (d : Dev) (r id status stamp launch malf : Nat) : Dev :=
  match d.job r id with
  | none => d
  | some j =>
    let e := d.setJob r id (fun j => { j with status := some status, stamp := stamp, launch := launch, malf := malf, held := none })
    let e := match j.cap with
      | some (p, c) => e.candidate p { c with stamp := stamp, notSent := status != 0 || stamp == 0 }
      | none => e
    e.jobsDue r

/-! ## Frames of source 16 (R226) -/

/-- The first descriptor of a job. -/
def jobDesc (j : Job) : Bytes := j.descs.headD []

/-- The frame's data: the buffers in entry order. -/
def jobData (j : Job) : Bytes := (List.range j.descs.length).flatMap (fun i => SMap.getD j.data i [])

/-- Padded to 60 bytes before its FCS. -/
def padFrame (b : Bytes) : Bytes := b ++ List.replicate (60 - b.length) 0#8

/-- TX descriptor fields (Table 9.3). -/
def txPort (b : Bytes) : Nat := byteAt b 12 % 16
def txDirect (b : Bytes) : Bool := bit (byteAt b 12) 4
def txOneStep (b : Bytes) : Bool := bit (byteAt b 13) 0
def txTurn (b : Bytes) : Bool := bit (byteAt b 13) 1
def txLaunch (b : Bytes) : Bool := bit (byteAt b 13) 2

/-- Has a job an invalid field: status 0x08 (R226). -/
def Dev.txInvalid (d : Dev) (b : Bytes) (len : Nat) : Bool :=
  (txLaunch b && !txDirect b) || (txOneStep b && decide (len < le16 b 14 + 34)) || (txDirect b && !d.formed (txPort b))

/-- The frame of a job as Rein takes it. -/
def Dev.txFrame (d : Dev) (j : Job) (data : Bytes) (colour : Nat) (p q : Nat) : Frame :=
  let b := jobDesc j
  { id := d.rein.nextId, src := 16, bytes := data, len := data.length + 4, colour := colour, job := some j.id
    oneStep := if txOneStep b then (if txTurn b then 2 else 1) else 0, osOff := le16 b 14, csOff := le16 b 16
    tRef := time96Of12 (slice b 30 12), launch := if txLaunch b then some (time96Of12 (slice b 18 12)) else none
    tc := (match d.queueOf p q with
      | some x => d.rd R.QS_CFG_TC x
      | none => 0) }

/-- A frame goes to a port's queue or launch list, waits for room with its ring, or is too long for the port. -/
def Dev.txOffer (d : Dev) (r id p q : Nat) (f : Frame) : Dev :=
  if d.rd R.PT_MTU p < f.len then d.jobEnd r id 2 0 0 0
  else if f.launch.isSome then
    (if 4096 ≤ (SMap.getD d.rein.launch p []).length then d.setJob r id (fun j => { j with held := some (p, q, f) })
     else ((d.setJob r id (fun j => { j with held := none })).launchArrive p f).nextId)
  else if (d.queueOf p q).isSome && !d.fits16 f then d.setJob r id (fun j => { j with held := some (p, q, f) })
  else ((d.setJob r id (fun j => { j with held := none })).enqueueFrame p q f).nextId

/-- The frame of a job, all of whose payload has come: checked, classified, given its class behaviour (R226, R139, R141). -/
def Dev.txForm (d : Dev) (r id : Nat) : Dev :=
  match d.job r id with
  | none => d
  | some j =>
    let b := jobDesc j
    let raw := jobData j
    if d.txInvalid b raw.length then d.jobEnd r id 8 0 0 0
    else
      let data := padFrame raw
      let x := d.parse 16 data
      if x.malf ≠ 0 then (d.count R.PR_MALF_CNT 1 0 (64 + x.malf)).jobEnd r id 1 0 0 x.malf
      else
        let d := d.count R.CB_HITS 1 x.cls
        let w0 := d.classWord x.cls 0
        let w3 := d.classWord x.cls 3
        let f := d.rxFrame 16 (r % 4) 0 data (fcsOf data) [] false x
        let cand (cookie : Option Nat) (port : Nat) : Option (Nat × Cand) :=
          (capOf w0).map (fun cp => (cp, { candOf f false false 0 with tx := true, port := port, cookie := cookie }))
        let keep (e : Dev) (cookie : Option Nat) (port : Nat) : Dev := e.setJob r id (fun j => { j with cap := cand cookie port })
        if bit w0 3 then ((keep d none (txPort b)).count R.PR_DROP_OTHER 1 0 16).jobEnd r id 3 0 0 0
        else
          let pl := if bit w0 6 then d.policer (bits w0 31 16) f.colour f.len 16 else (f.colour, false, d)
          let f := { f with colour := pl.1 }
          if pl.2.1 then (keep pl.2.2 none (txPort b)).jobEnd r id 3 0 0 0
          else
            let e := pl.2.2.when (bit w0 2) (fun y => y.mirror f (y.classWord f.cls 2) w3)
            if txDirect b then (keep e none (txPort b)).txOffer r id (txPort b) (le16 b 10) (e.txFrame j data f.colour (txPort b) (le16 b 10))
            else if bit w0 0 then (((keep e none 0).countSat R.SQ_UNSEQ).deliver f (rxItemOf f false false 0 0)).jobEnd r id
                (if !f.miss && (e.ringFor f.fn f.ring).isSome then 0 else 3) 0 0 0
            else
              let y := e.fate f w0 w3 (e.fidOf 16 x.vid)
              (match y.1 with
              | .drop => (keep y.2.2 y.2.1 0).jobEnd r id 3 0 0 0
              | .ring => (keep y.2.2 y.2.1 0).jobEnd r id 0 0 0 0
              | .send p q out => (keep y.2.2 y.2.1 p).txOffer r id p q (y.2.2.txFrame j out f.colour p q))

/-! ## Starting jobs (R225, R227) -/

/-- What stands at FETCH. -/
inductive TxWork where
  | none
  | bad (k : Nat)
  | wait (b : Bytes)
  | job (l : List Bytes)
  deriving DecidableEq, Repr

/-- The entries after the first, up to LAST; `k` is the position of the next. -/
def txRest : List Bytes → Nat → List Bytes → TxWork
  | [], _, _ => .none
  | b :: bs, k, acc =>
    if descOp b ≠ 1 ∨ descFirst b ∨ 16 ≤ k then .bad k
    else if descLast b then .job (acc ++ [b]) else txRest bs (k + 1) (acc ++ [b])

/-- Read the work from the kept copies (R225). -/
def txWork : List Bytes → TxWork
  | [] => .none
  | b :: bs =>
    if descOp b = 3 then (if descFirst b && descLast b then .wait b else .bad 0)
    else if descOp b ≠ 1 ∨ ¬ descFirst b then .bad 0
    else if descLast b then .job [b] else txRest bs 1 [b]

/-- May a ring start work: enabled, and neither a WAIT nor a frame that waits for space holds it (R227, R232). -/
def Dev.txReady (d : Dev) (r : Nat) : Bool :=
  d.on R.RG_CTRL_ENABLE r && d.rd R.RG_CFG_TYPE r == 0 && (match d.ringOwner r with
    | some fn => d.inService fn
    | none => false) &&
    (d.ring r).jobs.all (fun j => j.held.isNone && (j.wait.isNone || j.status.isSome))

/-- FETCH passes `k` entries of a job. -/
def Dev.fetchPass (d : Dev) (r k : Nat) : Dev :=
  let i := d.rd R.RG_FETCH r
  let gone := (List.range k).map (d.ringStep r i)
  (d.wr R.RG_FETCH (d.ringStep r i k) r).setRing r (fun x => { x with kept := x.kept.filter (fun e => !gone.contains e.1) })

/-- A job starts: its reads are issued. -/
def Dev.jobStart (d : Dev) (r : Nat) (l : List Bytes) : Dev :=
  let id := d.host.nextJob
  let fn := (d.ringOwner r).getD 0
  let need := (List.range l.length).filter (fun i => le16 (l.getD i []) 8 != 0)
  let j : Job := { id := id, first := d.rd R.RG_FETCH r, descs := l, need := need }
  let e := ((d.fetchPass r l.length).setRing r (fun x => { x with jobs := x.jobs ++ [j] })).setHost (fun h => { h with nextJob := id + 1 })
  let e := e.each need (fun x i => x.hostRead fn (.tx r id i) (le64 (l.getD i []) 0) (le16 (l.getD i []) 8))
  if need = [] then e.txForm r id else e

/-- TX_JOB_START (R225, R227): the job at FETCH starts, or is a descriptor error. -/
def execTxJobStart (r : Nat) (s : State) : Host.Outcome State Fault Refusal :=
  .next (s.onDev (fun d =>
    if !d.txReady r then d
    else
      match txWork (d.ringKept r) with
      | .bad k => d.ringError r 2 (d.ringStep r (d.rd R.RG_FETCH r) k)
      | .job l => d.jobStart r l
      | _ => d))

/-! ## Payload reads -/

/-- The payload of entry `i` of a job arrives, or its read fails (R231, status 0x09). -/
def Dev.txData (d : Dev) (r id i : Nat) (ok : Bool) (data : Bytes) : Dev :=
  match d.job r id with
  | none => d
  | some j =>
    if j.status.isSome then d
    else if !ok then d.jobEnd r id 9 0 0 0
    else
      let e := d.setJob r id (fun j => { j with data := SMap.put j.data i data, need := j.need.filter (· != i) })
      if j.need.all (· == i) then e.txForm r id else e

/-- A frame that waits for space is offered again: its port's queue or launch list may have room now (R227). -/
def Dev.heldRetry (d : Dev) : Dev :=
  d.each d.host.rings (fun e x =>
    e.each x.2.jobs (fun e j =>
      match j.held with
      | some (p, q, f) => e.txOffer x.1 j.id p q f
      | none => e))

/-- The ring that holds a job. -/
def Dev.jobRing (d : Dev) (id : Nat) : Option Nat := (d.host.rings.find? (fun e => e.2.jobs.any (fun j => j.id == id))).map (·.1)

/-- TX_JOB_COMPLETE (R227, R230): the oldest report of Rein ends its job, and the completions that are due are written. -/
def execTxJobComplete (s : State) : Host.Outcome State Fault Refusal :=
  .next (s.onDev (fun d =>
    match d.rein.done with
    | [] => d
    | x :: xs =>
      let e := d.setRein (fun r => { r with done := xs })
      match e.jobRing x.job with
      | some r => e.jobEnd r x.job x.status x.stamp x.launch 0
      | none => e))

/-! ## WAIT (R232) -/

/-- The target's count, none for a target outside the function's allocation. -/
def Dev.waitCount (d : Dev) (fn : Nat) (w : WaitState) : Option Nat :=
  if w.qp then (if w.target < d.rd R.FN_QP_COUNT fn then some (d.rd R.IQ_CPL_COUNT (d.rd R.FN_QP_BASE fn + w.target)) else none)
  else if w.target < d.rd R.FN_RING_COUNT fn then some (d.rd R.RG_CPL_COUNT (d.rd R.FN_RING_BASE fn + w.target))
  else none

/-- Is a count satisfied: (count − THRESH) mod 2^32 < 2^31. -/
def waitMet (count thresh : Nat) : Bool := decide ((count + 2 ^ 32 - thresh % 2 ^ 32) % 2 ^ 32 < 2 ^ 31)

/-- Replace the WAIT of a ring by its end. -/
def Dev.waitEnd (d : Dev) (r status count : Nat) : Dev :=
  (d.setRing r (fun x => { x with jobs := x.jobs.map (fun j =>
    if j.wait.isSome && j.status.isNone then { j with status := some status, count := count } else j) })).jobsDue r

/-- The WAIT that holds a ring. -/
def Dev.waiting? (d : Dev) (r : Nat) : Option WaitState :=
  ((d.ring r).jobs.find? (fun j => j.wait.isSome && j.status.isNone)).bind (·.wait)

/-- The test of a WAIT. -/
def Dev.waitTest (d : Dev) (r : Nat) : Dev :=
  match d.waiting? r with
  | none => d
  | some w =>
    match d.waitCount ((d.ringOwner r).getD 0) w with
    | some c => if waitMet c w.thresh then d.waitEnd r 0 c else d
    | none => d

/-- WAIT_START (R232): FETCH reaches a WAIT, which is tested at once. -/
def execWaitStart (r : Nat) (s : State) : Host.Outcome State Fault Refusal :=
  .next (s.onDev (fun d =>
    if !d.txReady r then d
    else
      match txWork (d.ringKept r) with
      | .bad k => d.ringError r 2 (d.ringStep r (d.rd R.RG_FETCH r) k)
      | .wait b =>
        let w : WaitState := { qp := bit (le32 b 0) 31, target := le32 b 0 % 2 ^ 23, thresh := le32 b 4, timeout := le32 b 8, start := d.cyc }
        if (d.waitCount ((d.ringOwner r).getD 0) w).isNone then d.ringError r 4 (d.rd R.RG_FETCH r)
        else
          let j : Job := { id := d.host.nextJob, first := d.rd R.RG_FETCH r, descs := [b], wait := some w }
          ((((d.fetchPass r 1).setRing r (fun x => { x with jobs := x.jobs ++ [j] })).setHost (fun h =>
            { h with nextJob := h.nextJob + 1 })).ringWaiting r).waitTest r
      | _ => d))

/-- The WAIT of a ring reaches TIMEOUT µs after its start. -/
def Dev.ringWaitTimeout (d : Dev) (r : Nat) : Dev :=
  match d.waiting? r with
  | none => d
  | some w =>
    if w.timeout = 0 ∨ d.cyc + 8 ≤ w.start + w.timeout * 1000 then d
    else d.waitEnd r 0x0C ((d.waitCount ((d.ringOwner r).getD 0) w).getD 0)

/-! ## Disable and idle (R234) -/

/-- Clearing ENABLE: a WAIT ends, unused buffers return. -/
def Dev.ringDisable (d : Dev) (r : Nat) : Dev :=
  if !d.on R.RG_CTRL_ENABLE r then d
  else
    let e := d.wr R.RG_CTRL_ENABLE 0 r
    if e.rd R.RG_CFG_TYPE r = 0 then
      e.waitEnd r 0x0D (((e.waiting? r).bind (e.waitCount ((e.ringOwner r).getD 0))).getD 0)
    else e.returnBufs r

/-- RING_DISABLE (R234). -/
def execRingDisable (req r : Nat) (s : State) : Host.Outcome State Fault Refusal :=
  .next (s.onDev (fun d => if d.ringReach req r then (d.sampleWrite req 0).ringDisable r else d))

/-- Has a disabled ring no write left to make. -/
def Dev.ringDone (d : Dev) (r : Nat) : Bool :=
  !d.on R.RG_CTRL_ENABLE r && (d.ring r).jobs == [] && (d.rd R.RG_CFG_TYPE r == 0 || d.ringUsable r == 0)

/-- RING_IDLE (R234): every write of a disabled ring has entered the outbound queue. -/
def execRingIdle (r : Nat) (s : State) : Host.Outcome State Fault Refusal :=
  .next (s.onDev (fun d => if d.ringDone r then (d.flag R.RG_STATUS_IDLE r).setRing r (fun x => { x with kept := [] }) else d))

end Sys2Proof.Machine
end

