-- ==== Sys2Proof/Machine/Fabric.lean ====
section
/-!
DEFINITION. Chapter 13: fabric links, frames and forwarding (R321-R330, R336, R343-R345).
-/
namespace Sys2Proof.Machine

/-! ## Frames (R324) -/

/-- CRC-16 of Table 13.2: polynomial 0x1021, initial 0xFFFF, most significant bit first. -/
def crc16Bit (c : Nat) : Nat := if c < 32768 then 2 * c else (2 * (c - 32768)) ^^^ 0x1021
def crc16Byte (c : Nat) (b : Byte) : Nat :=
  crc16Bit (crc16Bit (crc16Bit (crc16Bit (crc16Bit (crc16Bit (crc16Bit (crc16Bit (c ^^^ (b.toNat * 256)))))))))
def crc16 (bs : Bytes) : Nat := bs.foldl crc16Byte 0xFFFF

/-- A frame before its HCRC and FCS: 14 header bytes, two zeros, payload, padding to 60 bytes. -/
def fabFrame (ty tc dst src hops entropy : Nat) (payload : Bytes) : Bytes :=
  let b : Bytes := [BitVec.ofNat 8 (16 + tc), BitVec.ofNat 8 ty] ++ beBytes 2 dst ++ beBytes 2 src ++ [BitVec.ofNat 8 hops, 0#8] ++
    beBytes 2 payload.length ++ beBytes 2 entropy ++ [0#8, 0#8, 0#8, 0#8] ++ payload
  b ++ List.replicate (60 - b.length) 0#8

/-- A frame as it goes on the wire: its LSEQ, HCRC over bytes 0-13, FCS over all of it; `good` is false where the FCS ends inverted. -/
def fabSeal (lseq : Nat) (good : Bool) (b : Bytes) : Bytes :=
  let h := b.take 12 ++ beBytes 2 lseq
  let x := h ++ beBytes 2 (crc16 h) ++ b.drop 16
  x ++ (if good then fcsOf x else (fcsOf x).map (fun y => ~~~y))

def fabTc (b : Bytes) : Nat := byteAt b 0 % 8
def fabType (b : Bytes) : Nat := byteAt b 1
def fabDst (b : Bytes) : Nat := be16 b 2 % 4096
def fabSrc (b : Bytes) : Nat := be16 b 4 % 4096
def fabHops (b : Bytes) : Nat := byteAt b 6
def fabLen (b : Bytes) : Nat := be16 b 8
def fabEntropy (b : Bytes) : Nat := be16 b 10
def fabLseq (b : Bytes) : Nat := be16 b 12
def fabPayload (b : Bytes) : Bytes := slice b 16 (fabLen b)

/-- A frame is discarded at its header (R325): a bad HCRC, another version, LEN above 944. -/
def fabHdrBad (b : Bytes) : Bool :=
  decide (be16 b 14 ≠ crc16 (b.take 14)) || decide (byteAt b 0 / 16 ≠ 1) || decide (944 < fabLen b)

/-- The FCS of a received frame is good, and the frame holds what LEN says. -/
def fabFcsGood (raw : Bytes) : Bool :=
  decide (max 64 (20 + fabLen raw) ≤ raw.length) && raw.drop (raw.length - 4) == fcsOf (raw.take (raw.length - 4))

/-- The type is a routed one of Table 13.3, and what its TC is when sent. -/
def fabRouted (ty : Nat) : Bool := decide (3 ≤ ty ∧ ty ≤ 7)

/-! ## Ports -/

/-- Replace the fabric's own state, or a port's. -/
def Dev.setFab (d : Dev) (f : FabState → FabState) : Dev := { d with fab := f d.fab }
def Dev.fabPort (d : Dev) (p : Nat) : FabPort := SMap.getD d.fab.ports p {}
def Dev.setFabPort (d : Dev) (p : Nat) (f : FabPort → FabPort) : Dev :=
  d.setFab (fun x => { x with ports := SMap.upd x.ports p {} f })

/-- FAB runs: the unit is present (R3) and G6 is out of reset (R346). -/
def Dev.fabOn (d : Dev) : Bool := d.unit 1 && !d.rst.active.contains 6

def Dev.fabState (d : Dev) (p : Nat) : Nat := d.rd R.FP_STATUS_LSTATE p
def Dev.fabUp (d : Dev) (p : Nat) : Bool := d.fabState p == 4
/-- The ports that PORTS_UP names. -/
def Dev.fabUps (d : Dev) : List Nat := bitsSet 8 (d.rd R.FB_STATUS_PORTS_UP)
/-- The device's own address, 0 while it has none. -/
def Dev.fabAddr (d : Dev) : Nat := d.rd R.FB_ADDR_ADDR

/-- The time on the line of a frame in ps: 200 Gb/s, preamble and gap included (R321, R324). -/
def fabLine (b : Bytes) : Nat := (b.length + 20) * 40

/-- The first picosecond of the next event tick. -/
def Dev.fabNow (d : Dev) : Nat := d.cyc * 1000

/-- A frame goes on the line of a port. -/
def Dev.fabWire (d : Dev) (p : Nat) (b : Bytes) : Dev :=
  (((d.setFab (fun x => { x with wire := x.wire ++ [(p, b)] })).setFabPort p (fun x => { x with busy := max x.busy d.fabNow + fabLine b })).count
    R.FP_TX_FRAMES 1 p).count R.FP_TX_OCTETS b.length p

/-- A LINK frame is sent ahead of every queue (R327). -/
def Dev.fabLink (d : Dev) (p : Nat) (payload : Bytes) : Dev :=
  d.fabWire p (fabSeal 0 true (fabFrame 1 0 0 d.fabAddr 0 0 payload))

/-! ## Egress queues (R327) -/

def Dev.fabQueue (d : Dev) (p tc : Nat) : List Bytes := SMap.getD (d.fabPort p).queues tc []

/-- Does a frame of `n` bytes without FCS fit a TC queue of 256 KiB. -/
def Dev.fabRoom (d : Dev) (p tc n : Nat) : Bool :=
  decide (((d.fabQueue p tc).map (fun b => b.length + 4)).sum + n + 4 ≤ 262144)

/-- A frame enters a port's queue, or is discarded and counted. -/
def Dev.fabQueuePut (d : Dev) (p : Nat) (b : Bytes) : Dev :=
  if d.fabRoom p (fabTc b) b.length then
    d.setFabPort p (fun x => { x with queues := SMap.upd x.queues (fabTc b) [] (fun l => l ++ [b]) })
  else d.count R.FP_TC_DROP 1 p

/-- A port starts the frame at the head of its highest queue: a TC 7 frame takes the next LSEQ and is held (R329). -/
def Dev.fabStart (d : Dev) (p tc : Nat) (b : Bytes) (rest : List Bytes) : Dev :=
  let e := d.setFabPort p (fun x => { x with queues := SMap.put x.queues tc rest })
  if tc = 7 then
    let n := (d.fabPort p).lseq
    (e.fabWire p (fabSeal n true b)).setFabPort p (fun x => { x with
      lseq := (n + 1) % 65536, held := x.held ++ [⟨n, b, x.busy / 1000⟩] })
  else e.fabWire p (fabSeal 0 true b)

/-- The queue that is served next: the highest TC that holds a frame. -/
def Dev.fabNext (d : Dev) (p : Nat) : Option (Nat × Bytes × List Bytes) :=
  ((List.range 8).reverse.filterMap (fun tc =>
    match d.fabQueue p tc with
    | [] => none
    | b :: rest => some (tc, b, rest))).head?

/-- A port sends from its queues while its line is free within the event tick. -/
def Dev.fabServe (p : Nat) : Nat → Dev → Dev
  | 0, d => d
  | n + 1, d =>
    if (d.fabPort p).busy < d.fabNow + 8000 ∧ d.fabUp p then
      match d.fabNext p with
      | none => d
      | some (tc, b, rest) => Dev.fabServe p n (d.fabStart p tc b rest)
    else d

/-- Every port sends; at most three frames of 64 bytes begin within a tick. -/
def Dev.fabDrain (d : Dev) : Dev := (List.range 8).foldl (fun e p => Dev.fabServe p 4 e) d

/-! ## Forwarding (R326) -/

/-- RT_ENTRY[dst].LIVE: MASK AND PORTS_UP; the entries of 0x000, 0xFFF and the own address are never used (R335). -/
def Dev.fabLive (d : Dev) (dst : Nat) : List Nat :=
  if dst = 0 ∨ dst = 0xFFF ∨ dst = d.fabAddr then []
  else d.fabUps.filter (fun p => bit (d.rd R.RT_ENTRY_MASK dst) p)

/-- The port a frame takes: the k-th candidate, k = CRC-32C(SRC, DST, ENTROPY) modulo their number. -/
def Dev.fabPick (d : Dev) (src dst entropy : Nat) : Option Nat :=
  let l := d.fabLive dst
  if l = [] then none
  else l[hash0 (d.rd R.FB_ECMP_SEED) (beBytes 2 src ++ beBytes 2 dst ++ beBytes 2 entropy) % l.length]?

/-- Choose the port of a frame and queue it; with no candidate FB_NO_ROUTE. -/
def Dev.fabRoute (d : Dev) (b : Bytes) : Dev :=
  match d.fabPick (fabSrc b) (fabDst b) (fabEntropy b) with
  | none => d.count R.FB_NO_ROUTE
  | some p => d.fabQueuePut p b

/-! ## Local delivery (R325, Table 13.3) -/

/-- A frame is delivered: IRA to RDMA, summaries and replies to Stitch, object messages to the object engine. -/
def Dev.fabLocal (d : Dev) (ty src : Nat) (payload : Bytes) (bcast : Bool) : Dev :=
  let e := d.count R.FB_LOCAL_RX
  if ty = 3 then { e with ira := { e.ira with inbox := e.ira.inbox ++ [⟨0, some src, payload⟩] } }
  else if ty = 4 then e.summaryIn payload
  else if ty = 5 then e.replyIn payload
  else e.setFab (fun x => { x with objIn := x.objIn ++ [⟨ty, src, payload, bcast⟩] })

/-- The device sends a frame of its own (R343-R345); it sends none without an address (R333). One to itself is delivered. -/
def Dev.fabSend (d : Dev) (ty tc dst entropy : Nat) (payload : Bytes) : Dev :=
  if !d.fabOn || d.fabAddr == 0 then d
  else
    let b := fabFrame ty tc dst d.fabAddr 0 entropy payload
    let e := d.count R.FB_LOCAL_TX
    if dst = d.fabAddr then e.fabLocal ty d.fabAddr payload false
    else if dst = 0xFFF then
      ((bitsSet 8 (d.rd R.FB_BCAST_PORTS)).filter d.fabUp).foldl (fun x p => x.fabQueuePut p b) e
    else e.fabRoute b

/-- Stitch's messages leave (R344). -/
def Dev.fabStitch (d : Dev) : Dev :=
  d.seq.out.foldl (fun e m => e.fabSend m.ty 7 m.dst 0 m.payload) (d.setSeq (fun q => { q with out := [] }))

/-! ## Link states (R322, R323, R336) -/

/-- What a port still has to carry when it leaves UP: held frames in order, then its queues from TC 7 down. -/
def FabPort.waiting (x : FabPort) : List Bytes :=
  x.held.map (·.bytes) ++ ((List.range 8).reverse.map (fun tc => SMap.getD x.queues tc [])).flatten

/-- A frame of a port that left UP takes another: routed frames under R326, broadcasts and link messages are gone with the port. -/
def Dev.fabAgain (d : Dev) (b : Bytes) : Dev := if fabRouted (fabType b) && fabDst b != 0xFFF then d.fabRoute b else d

/-- LSTATE takes a value: LINK_CHG; each entry to and exit from UP, PORTS_UP and a class 11 event of local `p`; FOREIGN and LOOPED
raise local 13. A port that leaves UP gives its frames back to R326. -/
def Dev.setFabState (d : Dev) (p st : Nat) : Dev :=
  let old := d.fabState p
  if old = st then d
  else
    let e := (d.wr R.FP_STATUS_LSTATE st p).flag R.FP_STATUS_LINK_CHG p
    let e := e.when (st == 5 || st == 6) (fun x => x.raise 11 (srcNum 0x1A 13) p)
    if st = 4 then
      ((e.wr R.FB_STATUS_PORTS_UP (setBit (e.rd R.FB_STATUS_PORTS_UP) p true)).setFabPort p (fun x => { x with rxSeq := none, ahead := [] })).raise 11
        (srcNum 0x1A p) 1
    else if old = 4 then
      let w := (d.fabPort p).waiting
      let e := (((e.wr R.FB_STATUS_PORTS_UP (setBit (e.rd R.FB_STATUS_PORTS_UP) p false)).count R.FP_LINK_DOWN 1 p).raise 11 (srcNum 0x1A p) 0).setFabPort
        p (fun x => { x with held := [], queues := [], rxSeq := none, ahead := [] })
      e.each w Dev.fabAgain
    else e

/-! ## TC 7 protection (R329) -/

/-- The highest LSEQ received in order after frame `n`. -/
def seqAdvance : Nat → Nat → List Nat → Nat × List Nat
  | 0, r, l => (r, l)
  | k + 1, r, l => if l.contains ((r + 1) % 65536) then seqAdvance k ((r + 1) % 65536) (l.filter (· != (r + 1) % 65536)) else (r, l)

/-- A TC 7 frame with a good FCS is acknowledged; the first after UP sets the start (log entry 15). -/
def Dev.fabAckIn (d : Dev) (p n : Nat) : Dev :=
  let x := d.fabPort p
  let y := match x.rxSeq with
    | none => (n, ([] : List Nat))
    | some r =>
      if 0 < (n + 65536 - r) % 65536 ∧ (n + 65536 - r) % 65536 < 32768 then
        seqAdvance (x.ahead.length + 1) r (if x.ahead.contains n then x.ahead else x.ahead ++ [n])
      else (r, x.ahead)
  (d.setFabPort p (fun z => { z with rxSeq := some y.1, ahead := y.2 })).fabLink p
    ([5#8, 0#8] ++ leBytes 2 y.1 ++ List.replicate 12 0#8)

/-- An ACK releases the held frames up to its LSEQ. -/
def Dev.fabAckGot (d : Dev) (p n : Nat) : Dev :=
  d.setFabPort p (fun x => { x with held := x.held.filter (fun h => !decide ((n + 65536 - h.lseq) % 65536 < 32768)) })

/-- FABRIC_ACK (R329). -/
def execFabricAck (p lseq : Nat) (s : State) : Host.Outcome State Fault Refusal :=
  .next (s.onDev (fun d => d.when (d.fabOn && d.fabUp p) (fun e => e.fabAckGot p lseq)))

/-- TC7_RESEND (R329): held frames unacknowledged 2 µs after their end go out again on their port. -/
def execTc7Resend (p : Nat) (s : State) : Host.Outcome State Fault Refusal :=
  .next (s.onDev (fun d =>
    if d.fabOn && d.fabUp p then
      ((d.fabPort p).held.filter (fun h => decide (h.sent + 2000 < d.cyc + 8))).foldl (fun e h =>
        ((e.fabWire p (fabSeal h.lseq true h.bytes)).count R.FP_TC7_RESEND 1 p).setFabPort p (fun x => { x with
          held := x.held.map (fun y => if y.lseq = h.lseq then { y with sent := x.busy / 1000 } else y) })) d
    else d))

end Sys2Proof.Machine
end

