-- ==== Sys2Proof/Machine/FabricNet.lean ====
section
/-!
DEFINITION. Chapter 13: discovery, addresses, roots (R322, R323, R331-R334), routes and the time parent (R335-R338), time
transfer (R339-R341), received frames (R325, R326, R330).
-/
namespace Sys2Proof.Machine

/-! ## LSAs (Table 13.4) -/

/-- The device's UID as a 128-bit number. -/
def ownUid : Nat := leNat Config.uid

/-- Fields of an LSA's payload. -/
def FabLsa.caps (l : FabLsa) : Nat := byteAt l.payload 1
def FabLsa.addr (l : FabLsa) : Nat := le16 l.payload 2 % 4096
def FabLsa.tprio (l : FabLsa) : Nat := le16 l.payload 4
/-- Its links: neighbour UID, local port, remote port. -/
def FabLsa.links (l : FabLsa) : List (Nat × Nat × Nat) :=
  (List.range (min 8 (byteAt l.payload 0))).map (fun i =>
    (leNat (slice l.payload (28 + 20 * i) 16), byteAt l.payload (44 + 20 * i), byteAt l.payload (45 + 20 * i)))

def lsaUid (b : Bytes) : Nat := leNat (slice b 8 16)
def lsaSeq (b : Bytes) : Nat := le32 b 24

/-- U32 serial-number comparison: `a` is newer than `b`. -/
def serialNewer (a b : Nat) : Bool := let x := (a + 2 ^ 32 - b % 2 ^ 32) % 2 ^ 32; decide (0 < x ∧ x < 2 ^ 31)

/-- The stored LSA of a UID. -/
def Dev.lsaOf (d : Dev) (u : Nat) : Option FabLsa := d.fab.lsdb.find? (fun l => l.uid == u)

/-- The device's capabilities as HELLO and LSA show them. -/
def Dev.fabCaps (d : Dev) : Nat :=
  d.rd R.FB_CTRL_ROOT_ELIG + 2 * d.rd R.FB_CTRL_TIME_ELIG + 4 * d.rd R.FB_STATUS_IS_TIME_ROOT

/-- The UID of a port's peer. -/
def Dev.peerUid (d : Dev) (p : Nat) : Nat :=
  d.rd R.FP_PEER_UID p 0 + d.rd R.FP_PEER_UID p 1 <<< 32 + d.rd R.FP_PEER_UID p 2 <<< 64 + d.rd R.FP_PEER_UID p 3 <<< 96

/-- The payload of the device's own LSA. -/
def Dev.ownLsa (d : Dev) (seq : Nat) : Bytes :=
  [BitVec.ofNat 8 d.fabUps.length, BitVec.ofNat 8 d.fabCaps] ++ leBytes 2 d.fabAddr ++ leBytes 2 (d.rd R.FB_TIME_TPRIO) ++
    [BitVec.ofNat 8 (d.rd R.TB_STATUS_STATE), 0#8] ++ Config.uid ++ leBytes 4 seq ++
    (d.fabUps.map (fun p => leBytes 16 (d.peerUid p) ++ [BitVec.ofNat 8 p, BitVec.ofNat 8 (d.rd R.FP_STATUS_PEER_PORT p), 0#8, 0#8])).flatten

/-- Send an LSA or ADDR frame on a port: it is TC 7 traffic (Table 13.3). -/
def Dev.fabFlood (d : Dev) (ty : Nat) (ports : List Nat) (payload : Bytes) : Dev :=
  ports.foldl (fun e p => e.fabQueuePut p (fabFrame ty 7 0 d.fabAddr 0 0 payload)) d

/-! ## Topology -/

/-- The neighbours of a UID: a link counts only while both ends list it (R331). -/
def fabNeigh (db : List FabLsa) (u : Nat) : List (Nat × Nat × Nat) :=
  match db.find? (fun l => l.uid == u) with
  | none => []
  | some l => l.links.filter (fun x =>
      match db.find? (fun m => m.uid == x.1) with
      | none => false
      | some m => m.links.any (fun y => y.1 == u && y.2.1 == x.2.2 && y.2.2 == x.2.1))

/-- Hop counts from the devices of a frontier, breadth first; a fabric has at most 4,094 devices. -/
def fabBfs (db : List FabLsa) : Nat → Nat → List Nat → List (Nat × Nat) → List (Nat × Nat)
  | 0, _, _, seen => seen
  | n + 1, k, front, seen =>
    let next := (front.map (fun u => (fabNeigh db u).map (·.1))).flatten.eraseDups.filter (fun u => !seen.any (fun e => e.1 == u))
    if next = [] then seen else fabBfs db n (k + 1) next (seen ++ next.map (fun u => (u, k + 1)))

/-- Hops from a device to every other it reaches. -/
def fabDist (db : List FabLsa) (u : Nat) : List (Nat × Nat) := fabBfs db db.length 0 [u] [(u, 0)]

def distOf (l : List (Nat × Nat)) (u : Nat) : Option Nat := (l.find? (fun e => e.1 == u)).map (·.2)

/-- The lowest of a list by a key. -/
def lowest (key : FabLsa → Nat) (l : List FabLsa) : Option FabLsa :=
  l.foldl (fun b x => match b with | none => some x | some y => if key x < key y then some x else some y) none

/-- The fabric root: the lowest UID with ROOT_ELIG (R332). -/
def Dev.fabRootLsa (d : Dev) : Option FabLsa := lowest (·.uid) (d.fab.lsdb.filter (fun l => bit l.caps 0))
/-- The time root: the lowest (TPRIO, UID) with TIME_ELIG (R338). -/
def Dev.fabTimeRoot (d : Dev) : Option FabLsa := lowest (fun l => l.tprio * 2 ^ 128 + l.uid) (d.fab.lsdb.filter (fun l => bit l.caps 1))

/-! ## Addresses (R333, R334) -/

/-- The own address changes: class 11, local 9. -/
def Dev.setFabAddr (d : Dev) (a : Nat) : Dev := if d.fabAddr = a then d else (d.wr R.FB_ADDR_ADDR a).raise 11 (srcNum 0x1A 9) a

/-- A static device takes FB_ADDR.STATIC; 0x000 and 0xFFF leave it unassigned. -/
def Dev.fabStatic (d : Dev) : Dev :=
  let a := d.rd R.FB_ADDR_STATIC
  d.setFabAddr (if a = 0xFFF then 0 else a)

/-- An ADDR message gives an address: a dynamic device without one takes its own; every new message is passed on. -/
def Dev.fabAddrIn (d : Dev) (from' : Option Nat) (u a : Nat) : Dev :=
  if d.fab.given.contains (u, a) then d
  else
    let e := d.setFab (fun x => { x with given := x.given.filter (fun g => g.1 != u) ++ [(u, a)] })
    let e := e.when (u == ownUid && !d.on R.FB_CTRL_ADDR_MODE && d.fabAddr == 0) (fun x => x.setFabAddr a)
    e.fabFlood 8 (e.fabUps.filter (fun p => some p != from')) ((List.range 24).map (Config.addrByte u a))

/-- The lowest address from 0x001 to 0xFFE that no device holds or has been given. -/
def Dev.freeAddr (d : Dev) : Option Nat :=
  ((List.range 4095).filter (fun a => a != 0 && !d.fab.lsdb.any (fun l => l.addr == a) && !d.fab.given.any (fun g => g.2 == a))).head?

/-- The root assigns addresses to the devices of the database that hold none. -/
def Dev.fabAssign (d : Dev) : Dev :=
  if !d.on R.FB_STATUS_IS_ROOT then d
  else (d.fab.lsdb.filter (fun l => l.addr == 0 && !d.fab.given.any (fun g => g.1 == l.uid))).foldl (fun e l =>
    match e.freeAddr with
    | none => e
    | some a => e.fabAddrIn none l.uid a) d

/-- Two devices hold one address: the one with the lower UID keeps it (R334). The own old grant lapses with it. -/
def Dev.fabConflict (d : Dev) : Dev :=
  if d.fabAddr != 0 && d.fab.lsdb.any (fun l => l.addr == d.fabAddr && decide (l.uid < ownUid)) then
    (((d.raise 11 (srcNum 0x1A 10) d.fabAddr).flag R.FB_STATUS_ADDR_CONFLICT).setFabAddr 0).setFab (fun x => { x with
      given := x.given.filter (fun g => g.1 != ownUid) })
  else d

/-- What follows from the database: roots (R332, R338), FB_DEVICES, conflicts and assignment. -/
def Dev.fabView (d : Dev) : Dev :=
  let e := d.wr R.FB_DEVICES d.fab.lsdb.length
  let old := (List.range 4).map (fun i => d.rd R.FB_ROOT_UID 0 i)
  let u := match d.fabRootLsa with | some l => l.uid | none => 0
  let new := (List.range 4).map (fun i => u >>> (32 * i) % 2 ^ 32)
  let e := (List.range 4).foldl (fun x i => x.wr R.FB_ROOT_UID (new.getD i 0) 0 i) e
  let e := (e.wr R.FB_ROOT_ROOT_ADDR (match d.fabRootLsa with | some l => l.addr | none => 0)).wr R.FB_STATUS_IS_ROOT
    (b2n (match d.fabRootLsa with | some l => l.uid == ownUid | none => false))
  let e := e.when (old != new) (fun x => x.raise 11 (srcNum 0x1A 12) u)
  let t := d.fabTimeRoot
  let e := (e.wr R.FB_ROOT_TIME_ROOT_ADDR (match t with | some l => l.addr | none => 0)).wr R.FB_STATUS_IS_TIME_ROOT
    (b2n (match t with | some l => l.uid == ownUid | none => false))
  e.fabConflict.fabAssign

/-- Store an LSA in the database. -/
def Dev.lsaPut (d : Dev) (b : Bytes) : Dev :=
  (d.setFab (fun x => { x with
    lsdb := x.lsdb.filter (fun l => l.uid != lsaUid b) ++ [⟨lsaUid b, b, lsaSeq b, d.cyc⟩] })).fabView

/-- A received LSA (R331): newer than the copy, it is stored and sent on; older, the copy goes back; the same, nothing. -/
def Dev.lsaIn (d : Dev) (p : Nat) (b : Bytes) : Dev :=
  match d.lsaOf (lsaUid b) with
  | none => (d.fabFlood 2 (d.fabUps.filter (· != p)) b).lsaPut b
  | some l =>
    if serialNewer (lsaSeq b) l.seq then (d.fabFlood 2 (d.fabUps.filter (· != p)) b).lsaPut b
    else if serialNewer l.seq (lsaSeq b) then d.fabFlood 2 [p] l.payload
    else d

/-- LSA (R331). -/
def execLsa (p : Nat) (payload : Bytes) (s : State) : Host.Outcome State Fault Refusal :=
  .next (s.onDev (fun d => d.when (d.fabOn && d.fabUp p) (fun e => e.lsaIn p payload)))

/-- LSA_ORIGINATE (R331): the sequence number rises by one; the device's own LSA enters its database and leaves on every UP port. -/
def execLsaOriginate (s : State) : Host.Outcome State Fault Refusal :=
  .next (s.onDev (fun d =>
    if !(d.fabOn && d.on R.FB_CTRL_EN) then d
    else
      let n := ((match d.lsaOf ownUid with | some l => l.seq | none => d.fab.ownSeq) + 1) % 2 ^ 32
      let b := d.ownLsa n
      ((d.setFab (fun x => { x with ownSeq := n })).fabFlood 2 d.fabUps b).lsaPut b))

/-- LSA_EXPIRE (R331): LSAs not refreshed for 4 s are removed. -/
def execLsaExpire (s : State) : Host.Outcome State Fault Refusal :=
  .next (s.onDev (fun d =>
    let keep := d.fab.lsdb.filter (fun l => decide (d.cyc < l.cyc + 4 * 10 ^ 9))
    if keep.length = d.fab.lsdb.length then d else (d.setFab (fun x => { x with lsdb := keep })).fabView))

/-- ADDR (R333): a message that arrived on a port gives a UID its address. -/
def execAddr (p uid addr : Nat) (s : State) : Host.Outcome State Fault Refusal :=
  .next (s.onDev (fun d => d.when (d.fabOn && d.fabUp p) (fun e => e.fabAddrIn (some p) uid addr)))

/-! ## The time parent (R338) and the routes (R335, R337) -/

/-- Hops from the neighbour of an UP port to the time root. -/
def Dev.parentHops (d : Dev) (root p : Nat) : Option Nat := distOf (fabDist d.fab.lsdb root) (d.peerUid p)

/-- The parent port: the fewest hops, and among those the lowest port. -/
def Dev.pickParent (d : Dev) : Option (Nat × Nat) :=
  match d.fabTimeRoot with
  | none => none
  | some t =>
    if t.uid = ownUid then none
    else d.fabUps.foldl (fun b p =>
      match d.parentHops t.uid p, b with
      | none, b => b
      | some h, none => some (p, h)
      | some h, some (q, g) => if h < g then some (p, h) else some (q, g)) none

/-- FB_TIME takes the choice; a change is a class 11 event, local 11, and an exchange in progress knows of it (R341). -/
def Dev.chooseParent (d : Dev) : Dev :=
  let old := (d.rd R.FB_TIME_PARENT_V, d.rd R.FB_TIME_PARENT)
  let c := d.pickParent
  let new := match c with | some (p, _) => (1, p) | none => (0, old.2)
  let e := (((d.wr R.FB_TIME_PARENT_V new.1).wr R.FB_TIME_PARENT new.2).wr R.FB_TIME_HOPS (match c with | some (_, h) => h + 1 | none => 0)).wr
    R.FB_STATUS_TIME_PATH new.1
  if old = new then e else (e.raise 11 (srcNum 0x1A 11) new.2).setFab (fun x => { x with exch := x.exch.map (fun y => { y with moved := true }) })

/-- A change of link state, with the parent chosen again at once when its port leaves UP. -/
def Dev.fabLinkState (d : Dev) (p st : Nat) : Dev :=
  let e := d.setFabState p st
  e.when (d.fabUp p && st != 4 && d.on R.FB_TIME_PARENT_V && d.rd R.FB_TIME_PARENT == p) Dev.chooseParent

/-- The ports on a shortest path to a device: UP ports whose neighbour is one hop nearer to it. -/
def Dev.routeMask (d : Dev) (u : Nat) : Nat :=
  let dist := fabDist d.fab.lsdb u
  match distOf dist ownUid with
  | none => 0
  | some k =>
    ((fabNeigh d.fab.lsdb ownUid).filter (fun x => distOf dist x.1 == some (k - 1) && decide (1 ≤ k) && decide (x.2.1 < 8))).foldl
      (fun m x => setBit m x.2.1 true) 0

/-- The link by which a device hangs in the tree of the fabric root: the nearer neighbour on its lowest port (log entry 15). -/
def treeLink (db : List FabLsa) (dist : List (Nat × Nat)) (u : Nat) : Option (Nat × Nat × Nat) :=
  match distOf dist u with
  | none => none
  | some 0 => none
  | some (k + 1) =>
    ((fabNeigh db u).filter (fun x => distOf dist x.1 == some k)).foldl
      (fun b x => match b with | none => some x | some y => if x.2.1 < y.2.1 then some x else some y) none

/-- FB_BCAST_PORTS: the device's edges of that tree (R330). -/
def Dev.bcastPorts (d : Dev) : Nat :=
  match d.fabRootLsa with
  | none => 0
  | some r =>
    let db := d.fab.lsdb
    let dist := fabDist db r.uid
    let up := match treeLink db dist ownUid with | some x => [x.2.1] | none => []
    let down := db.filterMap (fun l => match treeLink db dist l.uid with | some x => if x.1 = ownUid then some x.2.2 else none | none => none)
    ((up ++ down).filter (· < 8)).foldl (fun m p => setBit m p true) 0

/-- The firmware writes every MASK (R335); a full installation is a class 11 event, local 8. -/
def Dev.installRoutes (d : Dev) : Dev :=
  let e := (d.regs.chans R.RT_ENTRY_MASK).foldl (fun x a => x.wr R.RT_ENTRY_MASK 0 a) d
  (d.fab.lsdb.foldl (fun x l => if l.addr = 0 ∨ l.uid = ownUid then x else x.wr R.RT_ENTRY_MASK (d.routeMask l.uid) l.addr) e).raise
    11 (srcNum 0x1A 8)

/-- ROUTE_INSTALL (R337, R338, R330). -/
def execRouteInstall (s : State) : Host.Outcome State Fault Refusal :=
  .next (s.onDev (fun d =>
    if !(d.fabOn && d.on R.FB_CTRL_EN) then d
    else ((d.when (!d.on R.FB_CTRL_ROUTE_SW) Dev.installRoutes).wr R.FB_BCAST_PORTS d.bcastPorts).chooseParent))

/-- A MASK write by software (R335): in one step with ROUTE_SW = 1, else ignored with WR_REFUSED. -/
def execRtEntryWrite (req a mask : Nat) (s : State) : Host.Outcome State Fault Refusal :=
  .next (s.onDev (fun d =>
    let e := d.sampleWrite req mask
    if !d.fabOn then e
    else if d.on R.FB_CTRL_ROUTE_SW then e.cfgWrite 9 (srcNum (reqIsland req) 0) R.RT_ENTRY_MASK mask a 0 0
    else e.flag R.FB_STATUS_WR_REFUSED))

/-! ## Links (R322, R323) -/

/-- FB_CTRL.EN and FP_CTRL.ENABLE take a port out of OFF and into it. -/
def Dev.fabPortCtl (d : Dev) (p : Nat) : Dev :=
  let en := d.on R.FB_CTRL_EN && d.on R.FP_CTRL p
  if en ∧ d.fabState p = 0 then d.fabLinkState p 1
  else if !en ∧ d.fabState p ≠ 0 then d.fabLinkState p 0
  else d

/-- FABRIC_PORT_ENABLE (R322). -/
def execFabricPortEnable (req p : Nat) (s : State) : Host.Outcome State Fault Refusal :=
  .next (s.onDev (fun d =>
    let e := d.sampleWrite req 1
    if !d.fabOn then e else (e.flag R.FP_CTRL p).fabPortCtl p))

/-- FABRIC_TRAIN_DONE (R322): TRAIN to HELLO. -/
def execFabricTrainDone (p : Nat) (s : State) : Host.Outcome State Fault Refusal :=
  .next (s.onDev (fun d => d.when (d.fabOn && d.fabState p == 1) (fun e => e.fabLinkState p 2)))

/-- FABRIC_LOCK_LOSS (R323): back to TRAIN at once. -/
def execFabricLockLoss (p : Nat) (s : State) : Host.Outcome State Fault Refusal :=
  .next (s.onDev (fun d => d.when (d.fabOn && d.fabState p != 0) (fun e => e.fabLinkState p 1)))

/-- A port exchanges HELLOs: states 2 and 4 to 6. -/
def Dev.helloing (d : Dev) (p : Nat) : Bool := d.fabState p == 2 || decide (4 ≤ d.fabState p)

/-- A received HELLO (Table 13.4): what the peer says of itself, and the transition of Table 13.1. `acked`: the own HELLO is acknowledged. -/
def Dev.helloIn (d : Dev) (p : Nat) (b : Bytes) (acked : Bool) : Dev :=
  let u := leNat (slice b 8 16)
  let e := (((d.wr R.FP_STATUS_PEER_ADDR (le16 b 4) p).wr R.FP_STATUS_PEER_PORT (byteAt b 1) p).setFabPort p (fun x => { x with
    hello := d.cyc, caps := byteAt b 6, servo := byteAt b 7 }))
  let e := (List.range 4).foldl (fun x i => x.wr R.FP_PEER_UID (u >>> (32 * i)) p i) e
  let same := le16 b 2 == d.rd R.FB_ID
  if d.fabState p = 2 ∧ acked then e.fabLinkState p (if !same then 5 else if u = ownUid then 6 else 4)
  else if d.fabState p = 5 ∧ same then e.fabLinkState p 4
  else e

/-- HELLO (R322). -/
def execHello (p : Nat) (payload : Bytes) (acked : Bool) (s : State) : Host.Outcome State Fault Refusal :=
  .next (s.onDev (fun d => d.when (d.fabOn && d.helloing p && byteAt payload 0 == 1) (fun e => e.helloIn p payload acked)))

/-- HELLO_PERIOD (R323): a port in states 2 and 4-6 sends a HELLO. -/
def execHelloPeriod (p : Nat) (s : State) : Host.Outcome State Fault Refusal :=
  .next (s.onDev (fun d =>
    d.when (d.fabOn && d.helloing p) (fun e =>
      e.fabLink p ([1#8, BitVec.ofNat 8 p] ++ leBytes 2 (d.rd R.FB_ID) ++ leBytes 2 d.fabAddr ++
        [BitVec.ofNat 8 d.fabCaps, BitVec.ofNat 8 (d.rd R.TB_STATUS_STATE)] ++ Config.uid))))

/-- HELLO_TIMEOUT (R323): an UP port without a HELLO for 30 µs returns to HELLO. -/
def execHelloTimeout (p : Nat) (s : State) : Host.Outcome State Fault Refusal :=
  .next (s.onDev (fun d =>
    d.when (d.fabOn && d.fabUp p && decide ((d.fabPort p).hello + 30000 < d.cyc + 8)) (fun e => e.fabLinkState p 2)))

/-! ## Time transfer (R340, R341) -/

/-- Timestamps of a fabric port: those of a 200GbE port with the fused delays (R321). -/
def fabRxStamp (p tDet e pos : Nat) : Nat := roundStamp ((tDet : Int) - (Config.fabRx p : Int)) (varDelayNum e pos) 6800
def fabTxStamp (p tEmit e pos : Nat) : Nat :=
  (((((tEmit : Int) + (Config.fabTx p : Int)) * 6800 + varDelayNum e pos + 2048 * 6800) / (4096 * 6800)) * 4096).toNat

/-- A LINK payload of subtypes 2 to 4 (Table 13.5). -/
def Dev.syncMsg (d : Dev) (sub num stamp : Nat) : Bytes :=
  [BitVec.ofNat 8 sub, BitVec.ofNat 8 num] ++ leBytes 2 (d.rd R.TB_STATUS_STEP_GEN) ++ time96Bytes stamp

/-- SYNC_PERIOD (R340): a SYNC on every UP port, t1 inserted one-step; `emits` holds each port's T_emit. -/
def execSyncPeriod (emits : List Nat) (te tv : Nat) (s : State) : Host.Outcome State Fault Refusal :=
  .next (s.onDev (fun d =>
    if !d.fabOn then d
    else
      let e := d.setFab (fun x => { x with num := (x.num + 1) % 256 })
      d.fabUps.foldl (fun x p => x.fabLink p (d.syncMsg 2 d.fab.num (fabTxStamp p (emits.getD p 0) te tv))) e))

/-- SYNC (R340): answered on the parent port alone, with a DELAY that carries t3. -/
def execSync (p : Nat) (payload : Bytes) (tDet e pos tEmit te tv : Nat) (s : State) : Host.Outcome State Fault Refusal :=
  .next (s.onDev (fun d =>
    if d.fabOn && d.fabUp p && d.on R.FB_TIME_PARENT_V && d.rd R.FB_TIME_PARENT == p then
      let t3 := fabTxStamp p tEmit te tv
      let x : FabExch := { num := byteAt payload 1, gen := le16 payload 2, own := d.rd R.TB_STATUS_STEP_GEN,
                           t1 := time96Of12 (slice payload 4 12), t2 := fabRxStamp p tDet e pos, t3 := t3, port := p }
      (d.setFab (fun y => { y with exch := some x })).fabLink p (d.syncMsg 3 x.num t3)
    else d))

/-- DELAY (R340): answered with a REPLY that carries t4. -/
def execDelay (p : Nat) (payload : Bytes) (tDet e pos : Nat) (s : State) : Host.Outcome State Fault Refusal :=
  .next (s.onDev (fun d =>
    d.when (d.fabOn && d.fabUp p) (fun x => x.fabLink p (d.syncMsg 4 (byteAt payload 1) (fabRxStamp p tDet e pos)))))

/-- Half of a number of 2^-16 ns; R340 does not say to which side a half of the unit goes (log entry 5). -/
def halfUnit (x : Int) : Int := if x % 2 ≠ 0 && Config.halfUp x then x / 2 + 1 else x / 2

/-- θ and d of an exchange (R340). -/
def fabTheta (t1 t2 t3 t4 : Nat) (a : Int) : Int := halfUnit (((t2 : Int) - t1) - ((t4 : Int) - t3) - a)
def fabDelay (t1 t2 t3 t4 : Nat) : Int := halfUnit (((t2 : Int) - t1) + ((t4 : Int) - t3))

/-- Is the sample of an exchange discarded (R341). -/
def Dev.fabSampleBad (d : Dev) (p : Nat) (x : FabExch) (gen : Nat) : Bool :=
  gen != x.gen || x.own != d.rd R.TB_STATUS_STEP_GEN || x.moved || !d.on R.FB_TIME_PARENT_V || d.rd R.FB_TIME_PARENT != p ||
    !(bit (d.fabPort p).caps 2 || (d.fabPort p).servo == 2 || (d.fabPort p).servo == 3)

/-- REPLY (R340, R341): θ and d are formed; with SRC = 2, θ is a sample of the servo. -/
def execReply (p : Nat) (payload : Bytes) (s : State) : Host.Outcome State Fault Refusal :=
  .next (s.onDev (fun d =>
    match d.fab.exch with
    | none => d
    | some x =>
      if !(d.fabOn && d.fabUp p) || byteAt payload 1 != x.num || p != x.port then d
      else
        let t4 := time96Of12 (slice payload 4 12)
        let th := fabTheta x.t1 x.t2 x.t3 t4 (signed 32 (d.rd R.FP_ASYM p))
        let e := ((d.wr R.FP_THETA (twos 64 th) p).wr R.FP_DELAY (twos 64 (fabDelay x.t1 x.t2 x.t3 t4)) p).setFab (fun y => { y with exch := none })
        if d.rd R.TB_CTRL_SRC ≠ 2 then e
        else if d.fabSampleBad p x (le16 payload 2) then e.countSat R.TB_SAMPLE_DISCARD
        else e.sampleIn { src := 2, gen := x.own, theta := th }))

/-! ## Received frames (R325, R326, R328, R330) -/

/-- A LINK frame; SYNC, DELAY and REPLY come with their timestamps by commands of their own. -/
def Dev.fabLinkIn (d : Dev) (p : Nat) (b : Bytes) : Dev :=
  if byteAt b 0 = 1 then d.when (d.helloing p) (fun e => e.helloIn p b true)
  else if byteAt b 0 = 5 ∧ d.fabUp p then d.fabAckGot p (le16 b 2)
  else d

/-- Forward a frame on a port: cut-through when the port is idle and its TC queue empty, else stored; a frame with a bad FCS is ended
inverted when cut through, discarded and counted when stored (log entry 15). `b` has its HOPS raised. -/
def Dev.fabForward (d : Dev) (q p : Nat) (b : Bytes) (good : Bool) : Dev :=
  let idle := decide ((d.fabPort p).busy ≤ d.fabNow + 8000) && d.fabQueue p (fabTc b) == []
  if good then d.fabQueuePut p b
  else if idle then d.fabWire p (fabSeal 0 false b)
  else d.count R.FP_FCS_ERR 1 q

/-- A routed frame (R325, R326). -/
def Dev.fabRoutedIn (d : Dev) (p : Nat) (raw : Bytes) (good : Bool) : Dev :=
  let dst := fabDst raw
  let b := raw.take 6 ++ [BitVec.ofNat 8 (fabHops raw + 1)] ++ (raw.take (raw.length - 4)).drop 7
  if dst = 0xFFF then
    if fabType raw ≠ 6 then d.count R.FB_BCAST_DROP
    else
      let e := if !good then d.count R.FP_FCS_ERR 1 p
        else if d.fabAddr = 0 then d else d.fabLocal 6 (fabSrc raw) (fabPayload raw) true
      if fabHops raw = 16 then e.count R.FB_HOP_EXCEED
      else ((bitsSet 8 (d.rd R.FB_BCAST_PORTS)).filter (fun q => q != p && d.fabUp q)).foldl (fun x q => x.fabForward p q b good) e
  else if dst = d.fabAddr ∧ dst ≠ 0 then
    if good then d.fabLocal (fabType raw) (fabSrc raw) (fabPayload raw) false else d.count R.FP_FCS_ERR 1 p
  else if fabHops raw = 16 then d.count R.FB_HOP_EXCEED
  else
    match d.fabPick (fabSrc raw) dst (fabEntropy raw) with
    | none => d.count R.FB_NO_ROUTE
    | some q => d.fabForward p q b good

/-- FABRIC_FRAME_RECEIVE (R325, R326): `raw` is the frame from its first header byte through the FCS. -/
def execFabricFrameReceive (p : Nat) (raw : Bytes) (s : State) : Host.Outcome State Fault Refusal :=
  .next (s.onDev (fun d =>
    if !d.fabOn || !d.helloing p then d
    else
      let good := fabFcsGood raw
      let e := ((d.wake 0x1A).count R.FP_RX_FRAMES 1 p).count R.FP_RX_OCTETS raw.length p
      if fabHdrBad raw then e.count R.FB_HDR_ERR
      else if fabType raw = 1 then (if good then e.fabLinkIn p (fabPayload raw) else e.count R.FP_FCS_ERR 1 p)
      else if !d.fabUp p then e
      else
        let e := e.when (fabTc raw == 7 && good) (fun x => x.fabAckIn p (fabLseq raw))
        if fabType raw = 2 then (if good then e.lsaIn p (fabPayload raw) else e.count R.FP_FCS_ERR 1 p)
        else if fabType raw = 8 then
          (if good then e.fabAddrIn (some p) (Config.addrRead (fabPayload raw)).1 (Config.addrRead (fabPayload raw)).2
           else e.count R.FP_FCS_ERR 1 p)
        else if !fabRouted (fabType raw) then e.count R.FB_BAD_TYPE
        else e.fabRoutedIn p raw good))

/-! ## Reset (R346) -/

/-- G6 in reset: every port OFF, the route table, the database and a dynamic address gone; the register file's own reset clears the
registers. -/
def Dev.fabReset (d : Dev) : Dev := d.setFab (fun _ => {})

/-- G6 out of reset: a static device takes its address again, ports start from TRAIN. -/
def Dev.fabExit (d : Dev) : Dev :=
  let e := d.when (d.on R.FB_CTRL_EN && d.on R.FB_CTRL_ADDR_MODE) Dev.fabStatic
  (List.range 8).foldl Dev.fabPortCtl e

end Sys2Proof.Machine
end

