-- ==== Sys2Proof/Machine/IraQp.lean ====
section
/-!
DEFINITION. Chapter 10: queue pairs, their contexts (R250, R251), memory regions (R252, R253), send and receive queues (R254).
-/
namespace Sys2Proof.Machine

/-! ## Queue pairs -/

def Dev.setIra (d : Dev) (f : IraState → IraState) : Dev := { d with ira := f d.ira }
def Dev.qp (d : Dev) (q : Nat) : QpState := SMap.getD d.ira.qps q {}
def Dev.setQp (d : Dev) (q : Nat) (f : QpState → QpState) : Dev := d.setIra (fun x => { x with qps := SMap.upd x.qps q {} f })

/-- The states of R248. -/
def Dev.qpState (d : Dev) (q : Nat) : Nat := d.rd R.IQ_STATUS_STATE q
/-- READY and not being disabled (R249). -/
def Dev.qpReady (d : Dev) (q : Nat) : Bool := d.qpState q == 1 && d.on R.IQ_CTRL_ENABLE q
def Dev.qpRoce (d : Dev) (q : Nat) : Bool := d.on R.IQ_CFG_MODE q
/-- The function that owns a queue pair. -/
def Dev.qpFn (d : Dev) (q : Nat) : Nat := (d.qpOwner q).getD 0
/-- RDMA runs: G6 is out of reset (R273). -/
def Dev.iraOn (d : Dev) : Bool := !d.rst.active.contains 6

/-- May a requester act on a queue pair (R205). -/
def Dev.qpReach (d : Dev) (req q : Nat) : Bool :=
  d.iraOn && (devSpace req || d.qpOwner q == some req) && (!isFunc req || d.inService req)

/-- 32-bit serial-number comparison: `a` is at or after `b`. -/
def serialGe (a b : Nat) : Bool := decide ((a + 2 ^ 32 - b % 2 ^ 32) % 2 ^ 32 < 2 ^ 31)

/-- Payload bytes of a packet by MTU code (R255). -/
def mtuBytes (code : Nat) : Nat := 256 * 2 ^ code

/-- The cost of a payload in credit units (R257). -/
def creditCost (n : Nat) : Nat := max 1 ((n + 255) / 256)

/-! ## Notifications (R270) -/

/-- Write an IRA notification (Table 10.7); one of subtype 1 that is lost is counted. -/
def Dev.qpNotify (d : Dev) (q sub a b : Nat) : Dev :=
  if !d.on R.IQ_EQ_EN q then d
  else
    match d.qpOwner q with
    | none => d
    | some fn =>
      let p := d.eqPost (d.rd R.FN_EQ_BASE fn + d.rd R.IQ_EQ_EQ q) 4
        (leBytes 3 (q - d.rd R.FN_QP_BASE fn) ++ [BitVec.ofNat 8 sub] ++ leBytes 4 a ++ leBytes 4 b)
      if p.1 = .full ∧ sub = 1 then (p.2.count R.IQ_IMM_LOST 1 q).flag R.IQ_STATUS_IMM_LOST q else p.2

/-! ## Contexts (R250, R251) -/

/-- IR_CTX_CACHED and CACHED follow. -/
def Dev.ctxCount (d : Dev) : Dev := d.wr R.IR_CTX_CACHED d.ira.cached.length

/-- The crossing of IR_CMB_XOFF (R259). -/
def Dev.cmbStatus (d : Dev) : Dev :=
  let used := (d.ira.cmb.map (fun e => e.2.bytes.length)).sum
  let x := b2n (decide (d.rd R.IR_CMB_XOFF * 1024 ≤ used))
  let e := d.wr R.IR_STATUS_CMB_USED (used / 1024)
  if d.rd R.IR_STATUS_XOFF = x then e else (e.wr R.IR_STATUS_XOFF x).raise 11 (srcNum 0x19 2) x

/-- A context goes back to its home: the host copy is written (its layout is the device's own), the HBM copy is the device's. -/
def Dev.ctxWriteBack (d : Dev) (q : Nat) : Dev :=
  if d.on R.IQ_CFG_HOST_CTX q then
    let f := d.fresh
    f.2.hostWrite (d.qpFn q) (d.rd R.IQ_CTX_ADDR_HI q <<< 32 + d.rd R.IQ_CTX_ADDR_LO q <<< 8) ((List.range 256).map (Config.ctxByte q f.1))
  else d

/-- A context leaves the die. -/
def Dev.ctxDrop (d : Dev) (q : Nat) : Dev :=
  if d.ira.cached.contains q then
    (((d.setIra (fun x => { x with cached := x.cached.filter (· != q) })).wr R.IQ_STATUS_CACHED 0 q).ctxWriteBack q).ctxCount
  else d

/-- The context that gives way: the least recently used that is not pinned and has no packet in process. -/
def Dev.ctxVictim (d : Dev) : Option Nat :=
  d.ira.cached.find? (fun q => !d.on R.IQ_CTRL_PIN q && (d.qp q).held == [] && (d.qp q).exec.isNone)

/-- A context comes on die. -/
def Dev.ctxLoad (d : Dev) (q : Nat) : Dev :=
  let e := if d.ira.cached.length < 65536 then d else match d.ctxVictim with | some v => d.ctxDrop v | none => d
  ((e.setIra (fun x => { x with cached := x.cached.filter (· != q) ++ [q] })).flag R.IQ_STATUS_CACHED q).ctxCount

/-- A packet, doorbell or timer needs a context: one on die becomes the latest used, else its fetch starts, or waits for a slot. A queue
pair in RESET is never fetched. -/
def Dev.ctxTouch (d : Dev) (q : Nat) : Dev :=
  if d.ira.cached.contains q then d.setIra (fun x => { x with cached := x.cached.filter (· != q) ++ [q] })
  else if d.qpState q = 0 ∨ d.ira.fetching.contains q ∨ d.ira.fetchWait.contains q then d
  else
    let e := d.count R.IR_CTX_MISS
    if d.ira.fetching.length < 256 then e.setIra (fun x => { x with fetching := x.fetching ++ [q] })
    else e.setIra (fun x => { x with fetchWait := x.fetchWait ++ [q] })

/-- Is a queue pair's context on die. -/
def Dev.ctxIn (d : Dev) (q : Nat) : Bool := d.ira.cached.contains q

/-! ## Memory regions (R252, R253) -/

/-- MR_ATTR bits of an access right. -/
def mrLocalWrite : Nat := 0
def mrRemoteWrite : Nat := 1
def mrRemoteRead : Nat := 2
def mrRemoteAtomic : Nat := 3

/-- The valid region that a key names. -/
def Dev.mrOf (d : Dev) (key : Nat) : Option MemRegion :=
  match SMap.get? d.ira.mr (key % 2 ^ 18) with
  | some m => if m.tag = key >>> 18 % 2 ^ 14 then some m else none
  | none => none

/-- The tests of R253 for a queue pair's access of a kind to a range. -/
def Dev.mrAllows (d : Dev) (q key kind a n : Nat) : Bool :=
  match d.mrOf key with
  | none => false
  | some m =>
    some m.fn == d.qpOwner q && m.pd == d.rd R.IQ_CFG_PD q && bit m.access kind && decide (m.addr ≤ a ∧ a + n ≤ m.addr + m.len)

/-- A function's quota (object 0x4005). -/
def Dev.mrQuota (d : Dev) (fn : Nat) : Nat :=
  match SMap.get? (SMap.getD d.mram.items (objKey 0x4005 0) []) fn with
  | some b => leNat b
  | none => 1024

/-- The first free index from a start, round the table. -/
def mrFree (tab : SMap MemRegion) : Nat → Nat → Option Nat
  | 0, _ => none
  | n + 1, i => if SMap.has tab (i % 262144) then mrFree tab n (i + 1) else some (i % 262144)

/-- The result of an MR operation. -/
def Dev.mrResult (d : Dev) (req r : Nat) : Dev := d.wr R.MR_STATUS_RESULT r 0 0 req

/-- The function that an MR operation acts for: the view's own, or MR_FUNC. -/
def Dev.mrFn (d : Dev) (req : Nat) (view : Bool) : Nat := if view then req else d.rd R.MR_FUNC 0 0 req

/-- May a requester use the MR registers: in the IRA view a function in service, in the block those that reach it. -/
def Dev.mrReach (d : Dev) (req : Nat) (view : Bool) : Bool :=
  d.iraOn && (if view then isFunc req && d.inService req else devSpace req)

/-- REGISTER (R252). -/
def execRegister (req : Nat) (view : Bool) (s : State) : Host.Outcome State Fault Refusal :=
  .next (s.onDev (fun d =>
    if !d.mrReach req view then d
    else
      let d := d.sampleWrite req 1
      let fn := d.mrFn req view
      let a := d.rd R.MR_ADDR 0 0 req
      let n := d.rd R.MR_LEN 0 0 req
      if n = 0 ∨ 2 ^ 40 < n ∨ 2 ^ 64 < a + n then d.mrResult req 5
      else
        let f := d.fresh
        match if d.mrQuota fn ≤ (d.ira.mr.filter (fun e => e.2.fn == fn)).length then none else mrFree d.ira.mr 262144 (Config.mrStart f.1 % 262144) with
        | none => d.mrResult req 2
        | some i =>
          let t := (SMap.getD d.ira.tags i 0 + 1) % 16384
          let t := if t = 0 then 1 else t
          let acc := d.rd R.MR_ATTR_LOCAL_WRITE 0 0 req + 2 * d.rd R.MR_ATTR_REMOTE_WRITE 0 0 req + 4 * d.rd R.MR_ATTR_REMOTE_READ 0 0 req +
            8 * d.rd R.MR_ATTR_REMOTE_ATOMIC 0 0 req
          ((f.2.setIra (fun x => { x with
            mr := SMap.put x.mr i { fn := fn, pd := d.rd R.MR_ATTR_PD 0 0 req, access := acc, addr := a, len := n, tag := t }
            tags := SMap.put x.tags i t })).wr R.MR_KEY (i + t <<< 18) 0 0 req).mrResult req 1))

/-- The region of MR_KEY that a requester may act on. -/
def Dev.mrMine (d : Dev) (req : Nat) (view : Bool) : Option MemRegion :=
  match d.mrOf (d.rd R.MR_KEY 0 0 req) with
  | some m => if !view || m.fn == req then some m else none
  | none => none

/-- DEREGISTER (R252). -/
def execDeregister (req : Nat) (view : Bool) (s : State) : Host.Outcome State Fault Refusal :=
  .next (s.onDev (fun d =>
    if !d.mrReach req view then d
    else
      let d := d.sampleWrite req 2
      match d.mrMine req view with
      | none => d.mrResult req 3
      | some _ => (d.setIra (fun x => { x with mr := SMap.del x.mr (d.rd R.MR_KEY 0 0 req % 2 ^ 18) })).mrResult req 1))

/-- QUERY (Table 10.11): fills MR_ADDR to MR_ATTR. -/
def execQuery (req : Nat) (view : Bool) (s : State) : Host.Outcome State Fault Refusal :=
  .next (s.onDev (fun d =>
    if !d.mrReach req view then d
    else
      let d := d.sampleWrite req 3
      match d.mrMine req view with
      | none => d.mrResult req 3
      | some m =>
        let e := ((d.wr R.MR_ADDR m.addr 0 0 req).wr R.MR_LEN m.len 0 0 req).wr R.MR_ATTR_PD m.pd 0 0 req
        let e := ((e.wr R.MR_ATTR_LOCAL_WRITE (b2n (bit m.access 0)) 0 0 req).wr R.MR_ATTR_REMOTE_WRITE (b2n (bit m.access 1)) 0 0 req).wr
          R.MR_ATTR_REMOTE_READ (b2n (bit m.access 2)) 0 0 req
        (e.wr R.MR_ATTR_REMOTE_ATOMIC (b2n (bit m.access 3)) 0 0 req).mrResult req 1))

/-! ## Send and receive queues (R220, R223, R254) -/

/-- The registers of a work queue. -/
structure Wq where
  lo : Field
  hi : Field
  log2 : Field
  pf : Field
  pi : Field
  fetch : Field
  ci : Field

def wqSq : Wq := ⟨R.SQ_BASE_LO, R.SQ_BASE_HI, R.SQ_CFG_LOG2_SIZE, R.SQ_CFG_PFMODE, R.SQ_PI, R.SQ_FETCH, R.SQ_CI⟩
def wqRq : Wq := ⟨R.RQ_BASE_LO, R.RQ_BASE_HI, R.RQ_CFG_LOG2_SIZE, R.RQ_CFG_PFMODE, R.RQ_PI, R.RQ_FETCH, R.RQ_CI⟩
/-- The queue that bit 24 of IQ_DB_LO names. -/
def wqOf (rq : Bool) : Wq := if rq then wqRq else wqSq

def Dev.wqN (d : Dev) (w : Wq) (q : Nat) : Nat := d.rd w.log2 q
def Dev.wqStep (d : Dev) (w : Wq) (q i k : Nat) : Nat := (i + k) % lapMod (d.wqN w q)
def Dev.wqPosted (d : Dev) (w : Wq) (q : Nat) : Nat := lapSub (d.wqN w q) (d.rd w.pi q) (d.rd w.fetch q)
def Dev.wqAddr (d : Dev) (w : Wq) (q i : Nat) : Nat := d.rd w.hi q <<< 32 + d.rd w.lo q <<< 12 + 64 * (i % 2 ^ d.wqN w q)
def Dev.wqKept (d : Dev) (rq : Bool) (q i : Nat) : Option Bytes := SMap.get? (if rq then (d.qp q).rqKept else (d.qp q).sqKept) i
def Dev.wqKeep (d : Dev) (rq : Bool) (q i : Nat) (b : Bytes) : Dev :=
  d.setQp q (fun x => if rq then { x with rqKept := SMap.put x.rqKept i b } else { x with sqKept := SMap.put x.sqKept i b })
def Dev.wqForget (d : Dev) (rq : Bool) (q i : Nat) : Dev :=
  d.setQp q (fun x => if rq then { x with rqKept := SMap.del x.rqKept i } else { x with sqKept := SMap.del x.sqKept i })

/-- Does the device read an entry now (R223): posted, not kept, within its bound of FETCH. -/
def Dev.wqMayFetch (d : Dev) (rq : Bool) (q i : Nat) : Bool :=
  let w := wqOf rq
  let k := lapSub (d.wqN w q) i (d.rd w.fetch q)
  d.qpState q != 0 && decide (k < d.wqPosted w q) && (d.wqKept rq q i).isNone && decide (k < if d.on w.pf q then 64 else 8)

/-- Write a completion over an entry in two posted writes (R230); `body` is bytes 0 to 51. -/
def Dev.wqCpl (d : Dev) (rq : Bool) (q i status : Nat) (desc body : Bytes) : Dev :=
  let w := wqOf rq
  let a := d.wqAddr w q i
  (d.hostWrite (d.qpFn q) a (slice body 0 52 ++ slice desc 52 4 ++ [0#8, 0#8, 0#8, 0#8])).hostWrite (d.qpFn q) (a + 60)
    (cplCtrl (d.wqN w q) i status desc)

/-- Body of an SQ completion (Table 10.6): original value, bytes, MSN, status. -/
def sqBody (orig n msn status : Nat) : Bytes := leBytes 8 orig ++ leBytes 4 n ++ leBytes 4 msn ++ [BitVec.ofNat 8 status]
/-- Body of an RQ completion: bytes placed, MSN, SSN, status. -/
def rqBody (n msn ssn status : Nat) : Bytes := leBytes 4 n ++ leBytes 4 msn ++ leBytes 4 ssn ++ leBytes 4 0 ++ [BitVec.ofNat 8 status]

/-- The completion of a job has been written: CI, IQ_CPL_COUNT, notification (R269, R270). -/
def Dev.sqAdvance (d : Dev) (q : Nat) (desc : Bytes) : Dev :=
  let e := (d.wr R.SQ_CI (d.wqStep wqSq q (d.rd R.SQ_CI q) 1) q).count R.IQ_CPL_COUNT 1 q
  if descNotify desc then e.qpNotify q 2 (e.rd R.SQ_CI q) (e.rd R.IQ_CPL_COUNT q) else e

/-- Body of a completion of a WAIT (Table 9.8). -/
def IraJob.body (j : IraJob) (status msnFree : Nat) : Bytes :=
  if j.wait.isSome then leBytes 4 j.count ++ leBytes 12 0 ++ [BitVec.ofNat 8 status]
  else sqBody j.orig j.acked (j.msn.getD msnFree) status

/-- Write the completions of the jobs at the head that have ended, in index order. -/
def Dev.sqComplete (q : Nat) : Nat → Dev → Dev
  | 0, d => d
  | n + 1, d =>
    match (d.qp q).jobs with
    | [] => d
    | j :: js =>
      match j.status with
      | none => d
      | some st =>
        let f := if j.msn.isNone && j.wait.isNone then d.fresh else (0, d)
        Dev.sqComplete q n (((f.2.setQp q (fun x => { x with jobs := js })).wqCpl false q j.idx st j.desc
          (j.body st (Config.cplFree f.1))).sqAdvance q j.desc)

/-- Every completion of the SQ that is due. -/
def Dev.sqDue (d : Dev) (q : Nat) : Dev := Dev.sqComplete q (d.qp q).jobs.length d

/-- Posted SQ entries whose copies are kept complete FLUSHED, in order (R249). -/
def Dev.sqFlush (q : Nat) : Nat → Dev → Dev
  | 0, d => d
  | n + 1, d =>
    let i := d.rd R.SQ_FETCH q
    if d.wqPosted wqSq q = 0 then d
    else
      match d.wqKept false q i with
      | none => d
      | some b =>
        let f := d.fresh
        Dev.sqFlush q n ((((f.2.wr R.SQ_FETCH (d.wqStep wqSq q i 1) q).wqForget false q i).wqCpl false q i 0x20 b
          (sqBody 0 0 (Config.cplFree f.1) 0x20)).sqAdvance q b)

/-- The completion of an RQ entry: FETCH and CI pass it, and its notification. -/
def Dev.rqAdvance (d : Dev) (q msn : Nat) : Dev :=
  let i := d.rd R.RQ_FETCH q
  let e := ((d.wr R.RQ_FETCH (d.wqStep wqRq q i 1) q).wr R.RQ_CI (d.wqStep wqRq q (d.rd R.RQ_CI q) 1) q).wqForget true q i
  if e.on R.IQ_EQ_NOTIFY_RQ q then e.qpNotify q 3 (e.rd R.RQ_CI q) msn else e

/-- Posted RQ entries whose copies are kept complete FLUSHED. -/
def Dev.rqFlush (q : Nat) : Nat → Dev → Dev
  | 0, d => d
  | n + 1, d =>
    let i := d.rd R.RQ_FETCH q
    if d.wqPosted wqRq q = 0 then d
    else
      match d.wqKept true q i with
      | none => d
      | some b =>
        let f := d.fresh
        Dev.rqFlush q n ((f.2.wqCpl true q i 0x20 b (rqBody 0 (Config.cplFree f.1) (Config.cplFree (f.1 + 1)) 0x20)).rqAdvance q (Config.cplFree f.1))

/-- A disabled queue pair with nothing left to write is in RESET and IDLE; a host-backed context is written back (R249, R250). -/
def Dev.qpIdle (d : Dev) (q : Nat) : Dev :=
  if !d.on R.IQ_CTRL_ENABLE q && d.qpState q != 0 && (d.qp q).jobs == [] && d.wqPosted wqSq q == 0 && d.wqPosted wqRq q == 0 then
    let e := if d.ctxIn q then d.ctxDrop q else d.ctxWriteBack q
    ((e.wr R.IQ_STATUS_STATE 0 q).flag R.IQ_STATUS_IDLE q).setQp q (fun x => { degraded := x.degraded })
  else d

/-- Inbound packets that are held or in execution: their host writes have not begun. -/
def QpState.unplaced (x : QpState) : Nat := x.held.length + b2n x.exec.isSome

/-- The work of a queue pair that is in ERROR or being disabled: jobs complete in index order, then posted entries FLUSHED. -/
def Dev.qpFlush (d : Dev) (q : Nat) : Dev :=
  let e := d.count R.IQ_ERR_DROP (d.qp q).unplaced q
  let e := e.setQp q (fun x => { x with
    jobs := x.jobs.map (fun (j : IraJob) =>
      if j.status.isNone then { j with status := some (if j.wait.isSome && !d.on R.IQ_CTRL_ENABLE q then 0x0D else 0x20) } else j)
    ready := [], unacked := [], again := [], ctl := [], held := [], exec := none, gaps := [], ackFrom := none, creditFrom := none, roce := none })
  let e := e.setIra (fun x => { x with locks := x.locks.filter (fun l => l.2.2 != q) })
  let e := e.sqDue q
  let e := Dev.sqFlush q (e.wqPosted wqSq q) e
  (Dev.rqFlush q (e.wqPosted wqRq q) e).qpIdle q

/-- A queue pair enters ERROR (R249): the cause, the class 11 event, the notification, the flush; `bad` names a job with its status. -/
def Dev.qpError (d : Dev) (q cause : Nat) (bad : Option (Nat × Nat) := none) : Dev :=
  if !d.qpReady q then d
  else
    let e := match bad with
      | some (i, st) => d.setQp q (fun x => { x with jobs := x.jobs.map (fun (j : IraJob) => if j.idx = i ∧ j.status.isNone then { j with status := some st } else j) })
      | none => d
    let e := (((e.wr R.IQ_STATUS_STATE 2 q).wr R.IQ_STATUS_ERR_CAUSE cause q).raise 11 (srcNum 0x19 1) q).qpNotify q 4 cause 0
    e.qpFlush q

end Sys2Proof.Machine
end

