-- ==== Sys2Proof/Machine/IraTx.lean ====
section
/-!
DEFINITION. Chapter 10, the sender: packets and frames (R244, R247, R272), jobs cut into packets (R254-R256), credit (R257), paths
and retransmission (R260, R266, R267), acknowledgement (R265), enable, disable, doorbells (R248, R249, R254).
-/
namespace Sys2Proof.Machine

/-! ## Packets on the wire (Tables 10.1, 10.2) -/

/-- A packet's bytes. -/
def IraPkt.bytes (p : IraPkt) : Bytes :=
  [0x10#8, BitVec.ofNat 8 p.op, BitVec.ofNat 8 p.flags, BitVec.ofNat 8 p.path] ++ beBytes 4 p.dqp ++ beBytes 4 p.sqp ++ beBytes 4 p.psn ++
    beBytes 4 p.msn ++ beBytes 4 p.off ++ beBytes 4 p.mlen ++ beBytes 4 p.grant ++ p.ext ++ p.data

/-- RoCEv2 opcode of a packet (IBTA RC): first, middle, last or only by its place in its message. -/
def roceOp (op off n mlen : Nat) : Nat :=
  let first := off == 0
  let last := off + n == mlen
  let pick (f m l o : Nat) : Nat := if first && last then o else if first then f else if last then l else m
  if op = 3 then pick 0x00 0x01 0x02 0x04
  else if op = 1 then pick 0x06 0x07 0x08 0x0A
  else if op = 4 then 0x0C
  else if op = 5 then pick 0x0D 0x0E 0x0F 0x10
  else 0x11

/-- A RoCEv2 packet from BTH to the pad, without its ICRC. `ext` holds VA and RKEY, or the AETH syndrome of an acknowledgement. -/
def roceBytes (p : IraPkt) : Bytes :=
  let n := p.data.length
  let op := roceOp p.op p.off n p.mlen
  let pad := (4 - n % 4) % 4
  let last := op == 0x02 || op == 0x04 || op == 0x08 || op == 0x0A || op == 0x0C
  let aeth (s : Nat) : Bytes := [BitVec.ofNat 8 s] ++ beBytes 3 p.msn
  [BitVec.ofNat 8 op, BitVec.ofNat 8 (0x40 + 16 * pad), 0xFF#8, 0xFF#8, 0#8] ++ beBytes 3 p.dqp ++ [if last then 0x80#8 else 0#8] ++ beBytes 3 p.psn ++
    (if op = 0x06 ∨ op = 0x0A ∨ op = 0x0C then p.ext.take 12 ++ beBytes 4 p.mlen
     else if op = 0x0D ∨ op = 0x0F ∨ op = 0x10 then aeth 0x1F
     else if op = 0x11 then aeth (byteAt p.ext 0) else []) ++
    p.data ++ List.replicate pad 0#8

/-- Replace bytes at positions. -/
def maskBytes (b : Bytes) (l : List (Nat × Byte)) : Bytes := l.foldl (fun x e => x.set e.1 e.2) b

/-- The ICRC of Annex A17: CRC-32 with the fields that change on the way masked to ones. -/
def icrc (v6 : Bool) (ip udp pay : Bytes) : Bytes :=
  let ones : Byte := 0xFF#8
  let ip := if v6 then maskBytes ip [(0, 0x6F#8), (1, ones), (2, ones), (3, ones), (7, ones)]
    else maskBytes ip [(1, ones), (8, ones), (10, ones), (11, ones)]
  fcsOf (List.replicate 8 ones ++ ip ++ maskBytes udp [(6, ones), (7, ones)] ++ maskBytes pay [(4, ones)])

/-- Where a packet goes: the egress port, next-hop MAC, IP address, fabric address, peer QP. -/
structure IraDest where
  port : Nat
  dmac : Nat
  ip : Bytes
  fab : Nat
  peer : Nat
  deriving DecidableEq, Repr

/-- The fabric transport (R244). -/
def Dev.qpFab (d : Dev) (q : Nat) : Bool := d.rd R.IQ_CFG_TRANSPORT q == 2
def Dev.qpV6 (d : Dev) (q : Nat) : Bool := d.rd R.IQ_CFG_TRANSPORT q == 1

/-- An IP address of four registers, first wire byte in the highest bits of the first. -/
def Dev.qpIp (d : Dev) (f : Field) (q : Nat) : Bytes :=
  if d.qpV6 q then ((List.range 4).map (fun i => beBytes 4 (d.rd f q i))).flatten else beBytes 4 (d.rd f q 0)

/-- The peer of a queue pair. -/
def Dev.qpDest (d : Dev) (q : Nat) : IraDest :=
  { port := d.rd R.IQ_CFG_PORT q, dmac := d.rd R.IQ_DMAC q, ip := d.qpIp R.IQ_DIP q, fab := d.rd R.IQ_FAB_ADDR q, peer := d.rd R.IQ_PEER q }

/-- A checksum of one's complement. -/
def onesComp (x : Nat) : Nat := 0xFFFF - fold16 4 x

/-- A frame of a queue pair over UDP (R244). -/
def Dev.iraFrameOf (d : Dev) (q : Nat) (t : IraDest) (path n : Nat) (roce : Bool) (pay : Bytes) : Bytes :=
  let v6 := d.qpV6 q
  let len := pay.length + (if roce then 4 else 0)
  let tos := d.rd R.IQ_IPHDR_DSCP q * 4 + d.rd R.IQ_IPHDR_ECN q
  let ttl := BitVec.ofNat 8 (d.rd R.IQ_IPHDR_TTL q)
  let sip := d.qpIp R.IQ_SIP q
  let ip : Bytes :=
    if v6 then beBytes 4 (6 * 2 ^ 28 + tos * 2 ^ 20 + Config.flowLabel q path % 2 ^ 20) ++ beBytes 2 (8 + len) ++ [17#8, ttl] ++ sip ++ t.ip
    else
      let h (c : Nat) : Bytes := [0x45#8, BitVec.ofNat 8 tos] ++ beBytes 2 (28 + len) ++ beBytes 2 (Config.ipIdent q n) ++ [0x40#8, 0#8, ttl, 17#8] ++
        beBytes 2 c ++ sip ++ t.ip
      h (onesComp (csum16 (h 0)))
  let udp (c : Nat) : Bytes := beBytes 2 (d.rd R.IQ_FAB_SPORT_BASE q + path) ++ beBytes 2 (if roce then 4791 else d.rd R.IR_UDP_PORT) ++
    beBytes 2 (8 + len) ++ beBytes 2 c
  let pay := if roce then pay ++ icrc v6 ip (udp 0) pay else pay
  let c := onesComp (csum16 (sip ++ t.ip) + 17 + (8 + len) + csum16 (udp 0 ++ pay))
  beBytes 6 t.dmac ++ beBytes 6 (d.rd R.IR_PORT_MAC 0 t.port) ++
    (if d.on R.IQ_IPHDR_VLAN_EN q then beBytes 2 0x8100 ++ beBytes 2 (d.rd R.IQ_IPHDR_PCP q * 8192 + d.rd R.IQ_IPHDR_VID q) else []) ++
    beBytes 2 (if v6 then 0x86DD else 0x0800) ++ ip ++ udp (if c = 0 then 0xFFFF else c) ++ pay

/-- The TC of a fabric packet: PCP, 7 sent as 6 (Table 13.3). -/
def Dev.qpTc (d : Dev) (q : Nat) : Nat := min 6 (d.rd R.IQ_IPHDR_PCP q)

/-- May a packet of `n` payload bytes, headers included, leave now: the limits of R177, or the TC queue of the fabric port (R343). -/
def Dev.iraRoom (d : Dev) (q : Nat) (t : IraDest) (path n : Nat) : Bool :=
  if d.qpFab q then
    match d.fabPick d.fabAddr t.fab ((d.rd R.IQ_FAB_SPORT_BASE q + path) % 65536) with
    | some p => d.fabRoom p (d.qpTc q) (max 60 (16 + n))
    | none => true
  else
    match d.queueOf t.port (d.rd R.IQ_QUEUE q) with
    | some e => decide (n + 82 ≤ d.bufRoom ∧ d.rd R.QS_DEPTH e + n + 82 ≤ d.queueLimit e 0)
    | none => true

/-- A packet leaves: over the fabric, or into Rein at its queue (R247, R343). Every packet carries the grant (R257). -/
def Dev.iraEmit (d : Dev) (q : Nat) (t : IraDest) (p : IraPkt) : Dev :=
  let roce := d.qpRoce q
  let p := { p with dqp := t.peer, sqp := q, grant := d.rd R.IQ_GRANT_RX q }
  let e := (d.count R.IQ_TX_PKTS 1 q).setQp q (fun x => { x with creditFrom := none })
  if d.qpFab q then e.fabSend 3 (d.qpTc q) t.fab ((d.rd R.IQ_FAB_SPORT_BASE q + p.path) % 65536) p.bytes
  else
    let n := d.rd R.IQ_TX_PKTS q
    let b := d.iraFrameOf q t p.path n roce (if roce then roceBytes p else p.bytes)
    (e.enqueueFrame t.port (d.rd R.IQ_QUEUE q) { id := d.rein.nextId, src := 16, bytes := padFrame b, len := max 64 (b.length + 4) }).nextId

/-! ## Sending (R256, R257, R260) -/

/-- Paths of a queue pair. -/
def Dev.qpPaths (d : Dev) (q : Nat) : Nat := d.rd R.IQ_CFG_PATHS q + 1

/-- The next path in rotation that is not degraded; none skipped if all are. -/
def Dev.nextPath (d : Dev) (q : Nat) : Nat :=
  let n := d.qpPaths q
  let from' := (d.qp q).nextPath
  ((List.range n).map (fun k => (from' + k) % n)).find? (fun p => !bit (d.rd R.IQ_DEGRADED q) p) |>.getD (from' % n)

/-- PSN arithmetic: 32 bits, 24 in RoCEv2. -/
def Dev.psnMod (d : Dev) (q : Nat) : Nat := if d.qpRoce q then 2 ^ 24 else 2 ^ 32

/-- How far PSN `a` lies beyond `b`. -/
def Dev.psnSub (d : Dev) (q a b : Nat) : Nat := (a + d.psnMod q - b % d.psnMod q) % d.psnMod q

/-- PSNs sent and not acknowledged. -/
def QpState.flight (x : QpState) : Nat := (x.unacked.map (·.span)).sum

/-- Does the credit allow a new packet (R257); RoCEv2 has none. -/
def Dev.creditOk (d : Dev) (q cost : Nat) : Bool :=
  d.qpRoce q || serialGe (d.rd R.IQ_GRANT_TX q) ((d.qp q).sent + cost)

/-- IQ_TIMERS.RTO in ns. -/
def Dev.qpRto (d : Dev) (q : Nat) : Nat := d.rd R.IQ_TIMERS_RTO q * 1000

/-- Send what a queue pair may send: packets without PSN, retransmissions, then new packets in order. -/
def Dev.iraSend (q : Nat) : Nat → Dev → Dev
  | 0, d => d
  | n + 1, d =>
    if !d.qpReady q || !d.ctxIn q then d
    else
      let x := d.qp q
      let t := d.qpDest q
      match x.ctl with
      | p :: ps =>
        if d.iraRoom q t p.path (32 + p.ext.length) then Dev.iraSend q n ((d.setQp q (fun x => { x with ctl := ps })).iraEmit q t p) else d
      | [] =>
        match x.again with
        | a :: as =>
          (match x.unacked.find? (fun y => y.pkt.psn == a) with
          | none => Dev.iraSend q n (d.setQp q (fun x => { x with again := as }))
          | some y =>
            if d.iraRoom q t y.pkt.path (32 + y.pkt.ext.length + y.pkt.data.length) then
              Dev.iraSend q n (((d.setQp q (fun x => { x with
                again := as, unacked := x.unacked.map (fun (z : IraTx) => if z.pkt.psn = a then { z with at' := d.cyc } else z) })).count R.IQ_RETX 1 q).iraEmit q t y.pkt)
            else d)
        | [] =>
          match x.ready with
          | [] => d
          | y :: ys =>
            let cost := creditCost y.pkt.data.length
            let path := d.nextPath q
            if x.flight + y.span ≤ 1024 ∧ d.creditOk q cost ∧ d.iraRoom q t path (32 + y.pkt.ext.length + y.pkt.data.length) then
              let psn := d.rd R.IQ_TX_PSN q
              let p := { y.pkt with psn := psn, path := path }
              let e := (d.wr R.IQ_TX_PSN ((psn + y.span) % d.psnMod q) q).setQp q (fun x => { x with
                ready := ys, unacked := x.unacked ++ [{ y with pkt := p, at' := d.cyc, rto := d.qpRto q }]
                nextPath := (path + 1) % d.qpPaths q, sent := (x.sent + cost) % 2 ^ 32 })
              Dev.iraSend q n (e.iraEmit q t p)
            else d

/-- Send all that may leave now. -/
def Dev.iraGo (d : Dev) (q : Nat) : Dev :=
  let x := d.qp q
  Dev.iraSend q (x.ctl.length + x.again.length + x.ready.length) d

/-! ## Cutting messages into packets (R255) -/

/-- Fields of an SQ descriptor (Table 10.4). -/
def sqLaddr (b : Bytes) : Nat := le64 b 0
def sqRaddr (b : Bytes) : Nat := le64 b 8
def sqLen (b : Bytes) : Nat := le32 b 16
def sqRkey (b : Bytes) : Nat := le32 b 20
def sqLkey (b : Bytes) : Nat := le32 b 56
def sqFence (b : Bytes) : Bool := bit (byteAt b 44) 0

/-- The opcode of the packets of a job. -/
def sqPktOp (op : Nat) : Nat :=
  match op with
  | 0x10 => 1
  | 0x11 => 2
  | 0x12 => 4
  | 0x13 => 3
  | 0x14 => 6
  | _ => 7

/-- The extension that every packet of a message carries. -/
def sqExt (b : Bytes) (ssn : Nat) : Bytes :=
  let va := beBytes 8 (sqRaddr b) ++ beBytes 4 (sqRkey b)
  match descOp b with
  | 0x10 => va ++ beBytes 4 0
  | 0x11 => va ++ beBytes 4 (le32 b 24)
  | 0x12 => va ++ beBytes 4 0
  | 0x13 => beBytes 4 ssn ++ beBytes 4 0
  | 0x14 => va ++ beBytes 4 0 ++ beBytes 8 (le64 b 28) ++ beBytes 8 0
  | _ => va ++ beBytes 4 0 ++ beBytes 8 (le64 b 28) ++ beBytes 8 (le64 b 36)

/-- The packets of a message of data: MTU bytes each, the remainder last; one packet for no data. -/
def cutPackets (mtu : Nat) (p : IraPkt) (data : Bytes) : List IraPkt :=
  (List.range (max 1 ((data.length + mtu - 1) / mtu))).map (fun i =>
    { p with off := i * mtu, data := (data.drop (i * mtu)).take mtu })

/-- Does a job carry its own data. -/
def sqCarries (op : Nat) : Bool := op == 0x10 || op == 0x11 || op == 0x13

/-- Cut the jobs that are ready, in order: each takes the next MSN, a SEND the next SSN. -/
def Dev.iraCut (q : Nat) : Nat → Dev → Dev
  | 0, d => d
  | n + 1, d =>
    match (d.qp q).jobs.find? (fun j => j.msn.isNone && j.wait.isNone && j.status.isNone) with
    | none => d
    | some j =>
      let op := descOp j.desc
      if sqCarries op ∧ j.data.isNone then d
      else
        let x := d.qp q
        let mtu := mtuBytes (d.rd R.IQ_CFG_MTU q)
        let base : IraPkt := { op := sqPktOp op, flags := if sqCarries op && sqFence j.desc && !d.qpRoce q then 1 else 0,
                               msn := x.nextMsn, mlen := sqLen j.desc, ext := sqExt j.desc x.nextSsn }
        let span := if d.qpRoce q && op == 0x12 then max 1 ((sqLen j.desc + mtu - 1) / mtu) else 1
        let ps := (cutPackets mtu base (if sqCarries op then j.data.getD [] else [])).map (fun p => ({ pkt := p, job := some j.idx, span := span } : IraTx))
        Dev.iraCut q n (d.setQp q (fun x => { x with
          ready := x.ready ++ ps, nextMsn := (x.nextMsn + 1) % 2 ^ 32, nextSsn := if op = 0x13 then (x.nextSsn + 1) % 2 ^ 32 else x.nextSsn
          jobs := x.jobs.map (fun (y : IraJob) => if y.idx = j.idx then { y with msn := some x.nextMsn, data := none } else y) }))

/-- Cut and send. -/
def Dev.iraWork (d : Dev) (q : Nat) : Dev := (Dev.iraCut q (d.qp q).jobs.length d).iraGo q

/-- STOR sends one message on a queue pair (R291). -/
def Dev.iraMessage (d : Dev) (q : Nat) (data : Bytes) : Dev :=
  if !d.qpReady q || d.qpRoce q then d
  else
    let x := d.qp q
    let base : IraPkt := { op := 3, msn := x.nextMsn, mlen := data.length, ext := beBytes 4 x.nextSsn ++ beBytes 4 0 }
    let ps := (cutPackets (mtuBytes (d.rd R.IQ_CFG_MTU q)) base data).map (fun p => ({ pkt := p } : IraTx))
    (((d.ctxTouch q).setQp q (fun x => { x with
      ready := x.ready ++ ps, nextMsn := (x.nextMsn + 1) % 2 ^ 32, nextSsn := (x.nextSsn + 1) % 2 ^ 32 }))).iraGo q

/-! ## Starting jobs (R254-R256) -/

/-- Is an SQ entry a descriptor error (R225, R249). -/
def sqBad (roce : Bool) (b : Bytes) : Bool :=
  let op := descOp b
  !(op == 3 || op == 0x10 || op == 0x12 || op == 0x13 || (!roce && (op == 0x11 || op == 0x14 || op == 0x15))) ||
    !descFirst b || !descLast b ||
    (op != 3 && (decide (2 ^ 31 ≤ sqLen b) || ((op == 0x14 || op == 0x15) && sqLen b != 8)))

/-- A READ or an atomic. -/
def sqReads (op : Nat) : Bool := op == 0x12 || op == 0x14 || op == 0x15

/-- Do the limits of R256 let a job start: 64 messages, 16 READs and atomics, 1,024 PSNs. -/
def Dev.sqLimits (d : Dev) (q op : Nat) : Bool :=
  let l := (d.qp q).jobs.filter (fun j => j.status.isNone && j.wait.isNone)
  decide (l.length < 64) && (!sqReads op || decide ((l.filter (fun j => sqReads (descOp j.desc))).length < 16)) && decide ((d.qp q).flight < 1024)

/-- The entry at FETCH, when the queue pair may start it: READY, context on die, no WAIT in progress. -/
def Dev.sqHead (d : Dev) (q : Nat) : Option Bytes :=
  if d.qpReady q && d.ctxIn q && (d.qp q).jobs.all (fun j => j.wait.isNone || j.status.isSome) && d.wqPosted wqSq q != 0 then
    d.wqKept false q (d.rd R.SQ_FETCH q)
  else none

/-- FETCH passes an entry that becomes a job. -/
def Dev.sqTake (d : Dev) (q : Nat) (j : IraJob) : Dev :=
  let i := d.rd R.SQ_FETCH q
  ((d.wr R.SQ_FETCH (d.wqStep wqSq q i 1) q).wqForget false q i).setQp q (fun x => { x with jobs := x.jobs ++ [j] })

/-- The job at FETCH, of opcode `op`, starts: its payload is read, or its request cut at once. -/
def Dev.sqStart (d : Dev) (q op : Nat) : Dev :=
  match d.sqHead q with
  | none => d.ctxTouch q
  | some b =>
    if sqBad (d.qpRoce q) b then d.qpError q 3
    else if descOp b ≠ op ∨ !d.sqLimits q op then d
    else
      let i := d.rd R.SQ_FETCH q
      let e := (d.ctxTouch q).sqTake q { idx := i, desc := b, data := if sqCarries op && sqLen b != 0 then none else some [] }
      if sqReads op && !d.mrAllows q (sqLkey b) mrLocalWrite (sqLaddr b) (sqLen b) then e.qpError q 4 (some (i, 0x25))
      else if sqCarries op && sqLen b != 0 then e.hostRead (d.qpFn q) (.iraJob q i) (sqLaddr b) (sqLen b)
      else e.iraWork q

/-- SQ_WRITE (R255). -/
def execSqWrite (q : Nat) (s : State) : Host.Outcome State Fault Refusal := .next (s.onDev (fun d => d.sqStart q 0x10))
/-- SQ_WRITE_IMM (R255). -/
def execSqWriteImm (q : Nat) (s : State) : Host.Outcome State Fault Refusal := .next (s.onDev (fun d => d.sqStart q 0x11))
/-- SQ_READ (R255). -/
def execSqRead (q : Nat) (s : State) : Host.Outcome State Fault Refusal := .next (s.onDev (fun d => d.sqStart q 0x12))
/-- SQ_SEND (R255). -/
def execSqSend (q : Nat) (s : State) : Host.Outcome State Fault Refusal := .next (s.onDev (fun d => d.sqStart q 0x13))
/-- SQ_FETCH_ADD (R255). -/
def execSqFetchAdd (q : Nat) (s : State) : Host.Outcome State Fault Refusal := .next (s.onDev (fun d => d.sqStart q 0x14))
/-- SQ_CMP_SWAP (R255). -/
def execSqCmpSwap (q : Nat) (s : State) : Host.Outcome State Fault Refusal := .next (s.onDev (fun d => d.sqStart q 0x15))

/-- The payload of a job arrives, or its read fails: status 0x09 (Table 9.7), with no packet of it sent. -/
def Dev.iraData (d : Dev) (q idx : Nat) (ok : Bool) (data : Bytes) : Dev :=
  if !d.qpReady q then d
  else
    (((d.setQp q (fun x => { x with jobs := x.jobs.map (fun (j : IraJob) =>
      if j.idx = idx ∧ j.status.isNone ∧ j.msn.isNone then (if ok then { j with data := some data } else { j with status := some 9 }) else j) })).sqDue q).iraWork q)

/-! ## WAIT on an SQ (R232, R254) -/

/-- The count of an SQ WAIT's target; INBOUND takes IQ_RX_COUNT. -/
def Dev.sqWaitCount (d : Dev) (q : Nat) (w : WaitState) (inb : Bool) : Option Nat :=
  let fn := d.qpFn q
  if w.qp && inb then (if w.target < d.rd R.FN_QP_COUNT fn then some (d.rd R.IQ_RX_COUNT (d.rd R.FN_QP_BASE fn + w.target)) else none)
  else d.waitCount fn w

/-- The WAIT in progress. -/
def Dev.sqWaiting (d : Dev) (q : Nat) : Option IraJob := (d.qp q).jobs.find? (fun j => j.wait.isSome && j.status.isNone)

/-- The WAIT ends. -/
def Dev.sqWaitEnd (d : Dev) (q status count : Nat) : Dev :=
  (d.setQp q (fun x => { x with jobs := x.jobs.map (fun (j : IraJob) =>
    if j.wait.isSome && j.status.isNone then { j with status := some status, count := count } else j) })).sqDue q

/-- The test of a WAIT. -/
def Dev.sqWaitTest (d : Dev) (q : Nat) : Dev :=
  match d.sqWaiting q with
  | none => d
  | some j =>
    match j.wait with
    | none => d
    | some w =>
      match d.sqWaitCount q w j.inbound with
      | some c => if waitMet c w.thresh then d.sqWaitEnd q 0 c else d
      | none => d

/-- SQ_WAIT (R254, R232). -/
def execSqWait (q : Nat) (s : State) : Host.Outcome State Fault Refusal :=
  .next (s.onDev (fun d =>
    match d.sqHead q with
    | none => d.ctxTouch q
    | some b =>
      if sqBad (d.qpRoce q) b then d.qpError q 3
      else if descOp b ≠ 3 then d
      else
        let w : WaitState := { qp := bit (le32 b 0) 31, target := le32 b 0 % 2 ^ 23, thresh := le32 b 4, timeout := le32 b 8, start := d.cyc }
        let inb := bit (le32 b 0) 30
        if (d.sqWaitCount q w inb).isNone then d.qpError q 3
        else (((d.ctxTouch q).sqTake q { idx := d.rd R.SQ_FETCH q, desc := b, wait := some w, inbound := inb }).sqWaitTest q)))

/-- The WAIT of an SQ reaches its TIMEOUT. -/
def Dev.sqWaitTimeout (d : Dev) (q : Nat) : Dev :=
  match (d.sqWaiting q).bind (fun j => j.wait.map (fun w => (w, j.inbound))) with
  | none => d
  | some (w, inb) =>
    if w.timeout = 0 ∨ d.cyc + 8 ≤ w.start + w.timeout * 1000 then d else d.sqWaitEnd q 0x0C ((d.sqWaitCount q w inb).getD 0)

/-- WAIT_SATISFIED (R232): the target's count of a ring's WAIT, or of the WAIT of a queue pair's SQ, has changed. -/
def execWaitSatisfied (r : Nat) (sq : Bool) (s : State) : Host.Outcome State Fault Refusal :=
  .next (s.onDev (fun d => if sq then d.sqWaitTest r else d.waitTest r))

/-- WAIT_TIMEOUT (R232). -/
def execWaitTimeout (r : Nat) (sq : Bool) (s : State) : Host.Outcome State Fault Refusal :=
  .next (s.onDev (fun d => if sq then d.sqWaitTimeout r else d.ringWaitTimeout r))

/-! ## Acknowledgement at the sender (R265, R269) -/

/-- WRITE, WRITE_IMM and SEND jobs end when every PSN of their message is acknowledged. -/
def Dev.iraJobsEnd (d : Dev) (q : Nat) : Dev :=
  let x := d.qp q
  (d.setQp q (fun y => { y with jobs := y.jobs.map (fun (j : IraJob) =>
    if j.status.isNone && j.msn.isSome && sqCarries (descOp j.desc) && !(x.ready ++ x.unacked).any (fun (t : IraTx) => t.job == some j.idx) then
      { j with status := some 0 } else j) })).sqDue q

/-- Retire the PSNs that a test covers. -/
def Dev.iraRetire (d : Dev) (q : Nat) (cov : Nat → Bool) : Dev :=
  let gone := (d.qp q).unacked.filter (fun t => cov t.pkt.psn)
  (d.setQp q (fun x => { x with
    unacked := x.unacked.filter (fun t => !cov t.pkt.psn), again := x.again.filter (fun a => !cov a)
    jobs := x.jobs.map (fun (j : IraJob) =>
      if sqCarries (descOp j.desc) then { j with acked := j.acked + ((gone.filter (fun t => t.job == some j.idx)).map (fun t => t.pkt.data.length)).sum }
      else j) })).iraJobsEnd q

/-! ## Retransmission (R260, R266, R267) -/

/-- A packet is to be sent again, on the path after its last, with RETX, its timer doubled. -/
def Dev.iraAgain (d : Dev) (q psn : Nat) : Dev :=
  d.setQp q (fun x => { x with
    again := if x.again.contains psn then x.again else x.again ++ [psn]
    unacked := x.unacked.map (fun (t : IraTx) => if t.pkt.psn = psn then
      { t with pkt := { t.pkt with path := (t.pkt.path + 1) % d.qpPaths q, flags := t.pkt.flags % 2 + 2 + (t.pkt.flags / 4) * 4 }
               tries := t.tries + 1, rto := 2 * t.rto, due := none } else t) })

/-- The path of a packet retransmitted by timer: twice within 100 µs degrade it for 1 ms. -/
def Dev.pathTimed (d : Dev) (q path : Nat) : Dev :=
  let e := d.setQp q (fun x => { x with timed := SMap.put x.timed path d.cyc })
  match SMap.get? (d.qp q).timed path with
  | some c =>
    if d.cyc ≤ c + 100000 then
      (e.wr R.IQ_DEGRADED (setBit (d.rd R.IQ_DEGRADED q) path true) q).setQp q (fun x => { x with degraded := SMap.put x.degraded path (d.cyc + 1000000) })
    else e
  | none => e

/-- IRA_RTO_EXPIRE (R267): the timer of a PSN expires; in RoCEv2 everything from it on is sent again (R272). -/
def execIraRtoExpire (q psn : Nat) (s : State) : Host.Outcome State Fault Refusal :=
  .next (s.onDev (fun d =>
    if !d.qpReady q then d
    else if !d.ctxIn q then d.ctxTouch q
    else
      match (d.qp q).unacked.find? (fun t => t.pkt.psn == psn) with
      | none => d
      | some t =>
        if t.due.isSome ∨ (d.qp q).again.contains psn ∨ d.cyc + 8 ≤ t.at' + t.rto then d
        else if d.rd R.IQ_TIMERS_RETRY q ≤ t.tries then d.qpError q 2 (t.job.map (fun j => (j, 0x22)))
        else
          let l := if d.qpRoce q then ((d.qp q).unacked.filter (fun y => decide (d.psnSub q y.pkt.psn psn < 2 ^ 23))).map (·.pkt.psn) else [psn]
          (((d.ctxTouch q).pathTimed q t.pkt.path).each l (fun e a => e.iraAgain q a)).iraGo q))

/-- IRA_RNR_DELAY (R267): the delay after a RETRY_LATER ends. -/
def execIraRnrDelay (q psn : Nat) (s : State) : Host.Outcome State Fault Refusal :=
  .next (s.onDev (fun d =>
    if !d.qpReady q then d
    else if !d.ctxIn q then d.ctxTouch q
    else
      match (d.qp q).unacked.find? (fun t => t.pkt.psn == psn) with
      | none => d
      | some t =>
        match t.due with
        | none => d
        | some c =>
          if d.cyc + 8 ≤ c then d
          else
            let l := if d.qpRoce q then ((d.qp q).unacked.filter (fun y => decide (d.psnSub q y.pkt.psn psn < 2 ^ 23))).map (·.pkt.psn) else [psn]
            ((d.ctxTouch q).each l (fun e a => e.iraAgain q a)).iraGo q))

/-- PATH_DEGRADE_END (R260): a degraded path's 1 ms ends. -/
def execPathDegradeEnd (q path : Nat) (s : State) : Host.Outcome State Fault Refusal :=
  .next (s.onDev (fun d =>
    match SMap.get? (d.qp q).degraded path with
    | none => d
    | some c =>
      if d.cyc + 8 ≤ c then d
      else (d.wr R.IQ_DEGRADED (setBit (d.rd R.IQ_DEGRADED q) path false) q).setQp q (fun x => { x with degraded := SMap.del x.degraded path })))

/-! ## Enable, disable, error, pin (R248-R250) -/

/-- A refused write of a queue pair's register. -/
def Dev.qpRefused (d : Dev) (q cause : Nat) : Dev := (d.flag R.IQ_STATUS_WR_REFUSED q).wr R.IQ_STATUS_CAUSE cause q

/-- Headers around a payload (R248 cause 5): Ethernet and tag, IP, UDP, the longest header with data, FCS. -/
def Dev.qpHeaders (d : Dev) (q : Nat) : Nat :=
  18 + (if d.on R.IQ_IPHDR_VLAN_EN q then 4 else 0) + (if d.qpV6 q then 40 else 20) + 8 + (if d.qpRoce q then 32 else 48)

/-- The cause that refuses an enable, 0 for none (R248). -/
def Dev.qpCause (d : Dev) (q fn : Nat) : Nat :=
  let badSize (n : Nat) : Bool := decide (n < 6 ∨ 16 < n)
  let t := d.rd R.IQ_CFG_TRANSPORT q
  let mtu := d.rd R.IQ_CFG_MTU q
  if badSize (d.wqN wqSq q) ∨ badSize (d.wqN wqRq q) then 2
  else if t = 3 ∨ (t = 2 ∧ !d.unit 1) ∨ (d.qpRoce q ∧ (t = 2 ∨ d.on R.IQ_CFG_RELAXED q ∨ d.rd R.IQ_CFG_PATHS q ≠ 0)) then 3
  else if d.on R.IQ_EQ_EN q ∧ d.rd R.FN_EQ_COUNT fn ≤ d.rd R.IQ_EQ_EQ q then 4
  else if 5 < mtu ∨ (d.qpRoce q ∧ 4 < mtu) then 5
  else if t = 2 then (if 1 < mtu then 5 else 0)
  else if d.rd R.PT_MTU (d.rd R.IQ_CFG_PORT q) < mtuBytes mtu + d.qpHeaders q then 5
  else 0

/-- IQ_ENABLE (R248). A queue pair in no function's allocation cannot be enabled. -/
def execIqEnable (req q : Nat) (s : State) : Host.Outcome State Fault Refusal :=
  .next (s.onDev (fun d =>
    if !d.qpReach req q then d
    else
      let d := d.sampleWrite req q
      match d.qpOwner q with
      | none => d
      | some fn =>
        if d.qpState q ≠ 0 then d
        else if d.qpCause q fn ≠ 0 then d.qpRefused q (d.qpCause q fn)
        else
          let e := [R.SQ_PI, R.SQ_FETCH, R.SQ_CI, R.RQ_PI, R.RQ_FETCH, R.RQ_CI, R.IQ_CPL_COUNT, R.IQ_RX_COUNT, R.IQ_STATUS_IDLE].foldl
            (fun e f => e.wr f 0 q) d
          let e := ((e.wr R.IQ_TX_PSN (d.rd R.IQ_INIT_PSN q % d.psnMod q) q).wr R.IQ_RX_A (d.rd R.IQ_PEER_PSN q % d.psnMod q) q)
          let e := (e.wr R.IQ_GRANT_TX (d.rd R.IQ_GRANT_INIT q) q).wr R.IQ_GRANT_RX (d.rd R.IQ_GRANT_INIT q) q
          ((e.setQp q (fun x => { degraded := x.degraded })).flag R.IQ_CTRL_ENABLE q).wr R.IQ_STATUS_STATE 1 q))

/-- IQ_DISABLE (R249): clearing ENABLE flushes all work; with nothing left the state is RESET and IDLE. -/
def execIqDisable (req q : Nat) (s : State) : Host.Outcome State Fault Refusal :=
  .next (s.onDev (fun d =>
    if !d.qpReach req q then d
    else
      let e := (d.sampleWrite req q).wr R.IQ_CTRL_ENABLE 0 q
      if d.qpState q = 0 then e else e.qpFlush q))

/-- FORCE_ERR (R249). -/
def execForceErr (req q : Nat) (s : State) : Host.Outcome State Fault Refusal :=
  .next (s.onDev (fun d => if d.qpReach req q then (d.sampleWrite req q).qpError q 5 else d))

/-- PIN (R250): at most 8,192 contexts are pinned. -/
def execPin (req q : Nat) (s : State) : Host.Outcome State Fault Refusal :=
  .next (s.onDev (fun d =>
    if !d.qpReach req q then d
    else
      let e := d.sampleWrite req q
      if d.on R.IQ_CTRL_PIN q then e
      else if 8192 ≤ (d.regs.chans R.IQ_CTRL_PIN).length then e.qpRefused q 6
      else e.flag R.IQ_CTRL_PIN q))

/-! ## Doorbells (R254) and descriptor reads (R223) -/

/-- The value of a doorbell acts on a queue under R221. -/
def Dev.wqBell (d : Dev) (rq : Bool) (q x : Nat) : Dev :=
  let w := wqOf rq
  let n := d.wqN w q
  let pi := d.rd w.pi q
  if x = pi then d
  else if x < lapMod n ∧ lapSub n x pi ≤ 2 ^ n - lapSub n pi (d.rd w.ci q) then
    let e := (d.wr w.pi x q).ctxTouch q
    if e.qpReady q then e else e.qpFlush q
  else d.qpError q 3

/-- IQ_DB (R254): a doorbell by requester `req` in the IRA view or the block. `lo` is the low word of an 8-byte write; without it the
staged low word serves. -/
def execIqDb (req : Nat) (view : Bool) (lo : Option Nat) (hi : Nat) (s : State) : Host.Outcome State Fault Refusal :=
  .next (s.onDev (fun d =>
    if !d.iraOn then d
    else
      let d := match lo with
        | some v => (d.wr R.IQ_DB_LO_QP (v % 2 ^ 23) 0 0 req).wr R.IQ_DB_LO_QUEUE (v >>> 24 % 2) 0 0 req
        | none => d
      let n := d.rd R.IQ_DB_LO_QP 0 0 req
      let rq := d.on R.IQ_DB_LO_QUEUE 0 0 req
      if view then
        if !(isFunc req && d.inService req) then d
        else
          let q := d.rd R.FN_QP_BASE req + n
          if d.rd R.FN_QP_COUNT req ≤ n ∨ d.qpState q = 0 then d.countSat R.FN_DB_IGNORED 1 req else d.wqBell rq q (hi % 2 ^ 17)
      else if !devSpace req then d
      else if d.qpState n = 0 then d.countSat R.FN_DB_IGNORED 1 (d.qpFn n)
      else d.wqBell rq n (hi % 2 ^ 17)))

/-- The read of an entry of a work queue completes, or fails: a descriptor error (R249 cause 3). -/
def Dev.wqFetch (d : Dev) (rq : Bool) (q i : Nat) (ok : Bool) (data : Bytes) : Dev :=
  if !d.iraOn || !d.wqMayFetch rq q i then d
  else if !ok then d.qpError q 3
  else
    let e := d.wqKeep rq q i (padTo 64 data)
    if e.qpReady q then e else e.qpFlush q

end Sys2Proof.Machine
end

