-- ==== Sys2Proof/Machine/IraRx.lean ====
section
/-!
DEFINITION. Chapter 10, the receiver: acceptance (R246), placement and order (R261-R264), atomics (R255), credit (R257-R259),
acknowledgement and NAKs (R265-R268), release (R269), the context-miss buffer (R251). Roce.lean holds the RoCEv2 side.
-/
namespace Sys2Proof.Machine

/-! ## Packets that arrive -/

/-- A packet with where it came from: port, fabric source, source MAC and IP address; RoCEv2, its ECN-CE mark, its ICRC good; the bytes
from the IRA header, or from BTH without ICRC. -/
structure IraSrc where
  port : Nat := 0
  fab : Option Nat := none
  smac : Nat := 0
  sip : Bytes := []
  roce : Bool := false
  ce : Bool := false
  good : Bool := true
  pay : Bytes := []
  deriving DecidableEq, Repr

/-- Take a packet apart. -/
def Dev.iraParse (d : Dev) (x : IraIn) : IraSrc :=
  match x.fab with
  | some a => { fab := some a, pay := x.bytes }
  | none =>
    let b := x.bytes
    let o := d.l3Off b
    let u := (d.udpOff b).getD 0
    let v6 := (d.outer b).etype == 0x86DD
    let roce := be16 b (u + 2) != d.rd R.IR_UDP_PORT
    let pay := slice b (u + 8) (be16 b (u + 4) - 8)
    let n := pay.length - 4
    { port := x.port, smac := be48 b 6, sip := if v6 then slice b (o + 8) 16 else slice b (o + 12) 4, roce := roce,
      ce := (if v6 then bits (byteAt b (o + 1)) 5 4 else byteAt b (o + 1) % 4) == 3,
      good := !roce || (decide (16 ≤ pay.length) && pay.drop n == icrc v6 (slice b o (u - o)) (slice b u 8) (pay.take n)),
      pay := if roce then pay.take n else pay }

/-- The destination queue pair that a packet names. -/
def IraSrc.dqp (r : IraSrc) : Nat := if r.roce then beNat (slice r.pay 5 3) else be32 r.pay 4 % 2 ^ 24

/-- The IRA header of a packet. -/
def iraDecode (b : Bytes) (ext : Nat) : IraPkt :=
  { op := byteAt b 1, flags := byteAt b 2, path := byteAt b 3, dqp := be32 b 4, sqp := be32 b 8, psn := be32 b 12, msn := be32 b 16,
    off := be32 b 20, mlen := be32 b 24, grant := be32 b 28, ext := slice b 32 ext, data := b.drop (32 + ext) }

/-- Extension bytes by opcode (Table 10.2), none for an opcode it does not list. -/
def iraExt (op : Nat) : Option Nat :=
  match op with
  | 1 => some 16
  | 2 => some 16
  | 3 => some 8
  | 4 => some 16
  | 5 => some 0
  | 6 => some 32
  | 7 => some 32
  | 8 => some 8
  | 0x10 => some 8
  | 0x11 => some 12
  | 0x12 => some 0
  | _ => none

/-- Opcodes that carry data. -/
def iraCarries (op : Nat) : Bool := op == 1 || op == 2 || op == 3 || op == 5

/-- A well-formed packet, none where it breaks Table 10.1 or 10.2. -/
def iraWell (b : Bytes) : Option IraPkt :=
  match iraExt (byteAt b 1) with
  | none => none
  | some n =>
    let p := iraDecode b n
    if 32 + n ≤ b.length ∧ byteAt b 0 = 0x10 ∧ p.flags < 8 ∧ p.path < 16 ∧ p.dqp < 2 ^ 24 ∧ p.sqp < 2 ^ 24 ∧
        (if iraCarries p.op then p.off + p.data.length ≤ p.mlen else p.data = []) then some p else none

/-- Which row of the table a packet belongs to: its opcode in IRA terms, 0 for one that is none. -/
def IraSrc.row (r : IraSrc) : Nat :=
  if r.roce then
    let op := byteAt r.pay 0
    if op ≤ 4 ∧ op ≠ 3 then 3 else if 6 ≤ op ∧ op ≤ 0x0A ∧ op ≠ 9 then 1 else if op = 0x0C then 4
    else if 0x0D ≤ op ∧ op ≤ 0x10 then 5 else if op = 0x11 then (if byteAt r.pay 12 / 32 = 0 then 0x10 else 0x11) else 0
  else if (iraExt (byteAt r.pay 1)).isSome then byteAt r.pay 1 else 0

/-! ## NAKs and ACKs (R265, R266, Table 10.5) -/

/-- A packet without PSN joins those to send. -/
def Dev.iraCtl (d : Dev) (q : Nat) (p : IraPkt) : Dev := d.setQp q (fun x => { x with ctl := x.ctl ++ [p] })

/-- The RoCEv2 syndrome of a NAK code. -/
def roceSyndrome (code : Nat) : Nat :=
  match code with
  | 1 => 0x60
  | 2 => 0x20 + Config.roceRnr % 32
  | 0x10 => 0x62
  | 0x11 => 0x61
  | _ => 0x63

/-- A NAK of a packet: PSN carries A, MSN and OFFSET name the packet (log entry 16). -/
def Dev.nakOf (d : Dev) (q code : Nat) (p : IraPkt) : IraPkt :=
  if d.qpRoce q then { op := 0x11, psn := p.psn, msn := (d.qp q).roceMsn, ext := [BitVec.ofNat 8 (roceSyndrome code)] }
  else { op := 0x11, psn := d.rd R.IQ_RX_A q, msn := p.msn, off := p.off, ext := [BitVec.ofNat 8 code, 0#8, 0#8, 0#8] ++ beBytes 8 0 }

/-- Answer a packet with a NAK. -/
def Dev.iraNak (d : Dev) (q code : Nat) (p : IraPkt) : Dev := (d.count R.IQ_NAK_TX 1 q).iraCtl q (d.nakOf q code p)

/-- An accepted packet is refused after all: the sender sends it again, at no further cost. -/
def Dev.iraRefuse (d : Dev) (q code : Nat) (p : IraPkt) : Dev :=
  (d.setQp q (fun x => { x with units := (x.units + 2 ^ 32 - creditCost p.data.length) % 2 ^ 32 })).iraNak q code p

/-- The bitmap of an ACK: bit i for PSN A + 1 + i placed. -/
def Dev.ackMap (d : Dev) (q : Nat) : Nat :=
  let a := d.rd R.IQ_RX_A q
  ((List.range 64).filter (fun i => (d.qp q).got.contains ((a + 1 + i) % 2 ^ 32))).foldl (fun m i => m + 2 ^ i) 0

/-- Send an ACK. -/
def Dev.iraAck (d : Dev) (q : Nat) : Dev :=
  (d.setQp q (fun x => { x with acks := 0, ackFrom := none })).iraCtl q { op := 0x10, psn := d.rd R.IQ_RX_A q, ext := beBytes 8 (d.ackMap q) }

/-! ## Credit at the receiver (R257-R259) -/

/-- The share S of a queue pair (R258). -/
def Dev.grantShare (d : Dev) (q : Nat) : Nat :=
  let n := max 1 ((d.ira.qps.filter (fun e => match e.2.lastRx with | some c => decide (d.cyc ≤ c + 10000) | none => false)).length)
  max (d.rd R.IQ_GRANT_INIT q) (min (d.rd R.IQ_GRANT_MAX q) (d.rd R.IR_GRANT_POOL * 1024 / (256 * n)))

/-- Raise the grant as a packet leaves the buffer; never lowered, not raised above XOFF. -/
def Dev.grantRaise (d : Dev) (q : Nat) : Dev :=
  let g := ((d.qp q).units + d.grantShare q) % 2 ^ 32
  if d.qpRoce q || d.on R.IR_STATUS_XOFF || g == d.rd R.IQ_GRANT_RX q || !serialGe g (d.rd R.IQ_GRANT_RX q) then d
  else (d.wr R.IQ_GRANT_RX g q).setQp q (fun x => { x with creditFrom := some (x.creditFrom.getD d.cyc) })

/-! ## Placement (R261-R264) -/

/-- Address and key of a packet's extension. -/
def IraPkt.va (p : IraPkt) : Nat := beNat (slice p.ext 0 8)
def IraPkt.key (p : IraPkt) : Nat := be32 p.ext 8
def IraPkt.ssn (p : IraPkt) : Nat := be32 p.ext 0
def IraPkt.fence (p : IraPkt) : Bool := bit p.flags 0 && (p.op == 1 || p.op == 2 || p.op == 3)

/-- Is a range of a function's memory under an atomic. -/
def Dev.iraLocked (d : Dev) (q a n : Nat) : Bool :=
  d.ira.locks.any (fun l => l.1 == d.qpFn q && decide (l.2.1 < a + n ∧ a < l.2.1 + 8))

/-- The RQ entry of a SEND: its index, when posted. -/
def Dev.sendEntry (d : Dev) (q ssn : Nat) : Option Nat :=
  let k := (ssn + 2 ^ 32 - (d.qp q).expSsn) % 2 ^ 32
  if k < d.wqPosted wqRq q then some (d.wqStep wqRq q (d.rd R.RQ_FETCH q) k) else none

/-- Is a queue pair bound to an enabled IRA backend: STOR consumes its SENDs (R291). -/
def Dev.storQp (d : Dev) (q : Nat) : Bool :=
  d.mram.backends.any (fun e => decide (3 ≤ byteAt e.2 0 ∧ byteAt e.2 0 ≤ 4) && bit (byteAt e.2 1) 0 && le32 e.2 12 % 2 ^ 24 == q)

/-- May a held packet be placed or executed now. -/
def Dev.iraMay (d : Dev) (q : Nat) (p : IraPkt) : Bool :=
  let x := d.qp q
  let turn := p.msn == x.expMsn || !serialGe p.msn x.expMsn
  if p.op = 5 ∨ p.op = 8 then true
  else if p.op = 4 then turn && x.exec.isNone && !d.iraLocked q p.va p.mlen
  else if p.op = 6 ∨ p.op = 7 then turn && x.exec.isNone && !d.iraLocked q p.va 8
  else
    (turn || (d.on R.IQ_CFG_RELAXED q && !p.fence)) &&
      (if p.op = 3 then d.storQp q || (match d.sendEntry q p.ssn with | some i => (d.wqKept true q i).isSome | none => true)
       else !d.iraLocked q (p.va + p.off) p.data.length)

/-- A is the lowest PSN not acknowledged. -/
def psnAdvance (m : Nat) : Nat → Nat → List Nat → Nat × List Nat
  | 0, a, l => (a, l)
  | n + 1, a, l => if l.contains a then psnAdvance m n ((a + 1) % m) (l.filter (· != a)) else (a, l)

/-- A PSN is placed or executed: A and the bitmap, the count toward the next ACK (R265), the grant. -/
def Dev.iraPsnDone (d : Dev) (q : Nat) (p : IraPkt) : Dev :=
  if d.qpRoce q then d
  else
    let x := d.qp q
    let a := psnAdvance (2 ^ 32) (x.got.length + 1) (d.rd R.IQ_RX_A q) (x.got ++ [p.psn])
    let e := (d.wr R.IQ_RX_A a.1 q).setQp q (fun x => { x with got := a.2, acks := x.acks + 1, ackFrom := some (x.ackFrom.getD d.cyc) })
    let e := e.grantRaise q
    if e.rd R.IR_ACK_EVERY ≤ (e.qp q).acks ∨ bit p.flags 2 ∨ (p.fence ∧ p.off + p.data.length = p.mlen) then e.iraAck q else e

/-- Release complete messages in order (R269). -/
def Dev.iraRelease (q : Nat) : Nat → Dev → Dev
  | 0, d => d
  | n + 1, d =>
    let x := d.qp q
    match SMap.get? x.msgs x.expMsn with
    | none => d
    | some m =>
      if !m.full then d
      else
        let e := d.setQp q (fun x => { x with msgs := SMap.del x.msgs x.expMsn, expMsn := (x.expMsn + 1) % 2 ^ 32 })
        let e := if m.op = 3 && d.storQp q then
            { (e.setQp q (fun x => { x with expSsn := (x.expSsn + 1) % 2 ^ 32 })) with
              nvme := { e.nvme with inbox := e.nvme.inbox ++ [(q, (m.data.map (·.2)).flatten)] } }
          else if m.op = 3 then
            let i := e.rd R.RQ_FETCH q
            (((e.wqCpl true q i m.status ((e.wqKept true q i).getD []) (rqBody (m.got.map (·.2)).sum x.expMsn m.ssn m.status)).rqAdvance q x.expMsn).setQp q
              (fun x => { x with expSsn := (x.expSsn + 1) % 2 ^ 32 }))
          else e
        let e := if (m.op = 1 ∨ m.op = 2 ∨ m.op = 3) ∧ m.status = 0 then e.count R.IQ_RX_COUNT 1 q else e
        let e := if m.op = 2 then e.qpNotify q 1 m.imm x.expMsn else e
        Dev.iraRelease q n e

/-- A message is changed and released when its turn has come. -/
def Dev.iraMsgPut (d : Dev) (q msn : Nat) (m : IraMsg) : Dev :=
  let e := d.setQp q (fun x => { x with msgs := SMap.put x.msgs msn m })
  Dev.iraRelease q (e.qp q).msgs.length e

/-- The bytes of a data packet have been written: its message grows, and is complete when its bytes are all there (R261). -/
def Dev.iraPlaced (d : Dev) (q : Nat) (p : IraPkt) : Dev :=
  let e := d.iraPsnDone q p
  let m := SMap.getD (e.qp q).msgs p.msn { op := p.op, len := p.mlen }
  let got := if m.got.any (fun g => g.1 == p.off) then m.got else m.got ++ [(p.off, p.data.length)]
  let m := { m with got := got, len := p.mlen, imm := if p.op = 2 then be32 p.ext 12 else 0, ssn := if p.op = 3 then p.ssn else 0,
                    data := if p.op = 3 && d.storQp q then SMap.put m.data p.off p.data else [],
                    full := decide ((got.map (·.2)).sum = p.mlen) }
  let e := e.when (d.qpRoce q && m.full) (fun e => e.setQp q (fun x => { x with roceMsn := (x.roceMsn + 1) % 2 ^ 24 }))
  let e := e.when (d.qpRoce q && bit p.flags 2) (fun e => e.iraCtl q { op := 0x10, psn := p.psn, msn := (e.qp q).roceMsn, ext := [0x1F#8] })
  e.iraMsgPut q p.msn m

/-- A SEND that its entry cannot take: REMOTE_INVALID; the entry completes with a status and is consumed (R253, R255). -/
def Dev.sendFail (d : Dev) (q status : Nat) (p : IraPkt) : Dev :=
  (d.iraRefuse q 0x11 p).iraMsgPut q p.msn { op := 3, len := p.mlen, ssn := p.ssn, full := true, status := status }

/-- Is an RQ entry a descriptor error (R254). -/
def rqBad (b : Bytes) : Bool := descOp b != 2 || !descFirst b || !descLast b || le32 b 8 == 0 || decide (2 ^ 31 ≤ le32 b 8)

/-- Place one packet of a SEND. -/
def Dev.placeSend (d : Dev) (q : Nat) (p : IraPkt) : Dev :=
  if d.storQp q then d.iraPlaced q p
  else
  match d.sendEntry q p.ssn with
  | none => d.iraRefuse q 2 p
  | some i =>
    match d.wqKept true q i with
    | none => d.iraRefuse q 2 p
    | some b =>
      if rqBad b then d.qpError q 3
      else if le32 b 8 < (if d.qpRoce q then p.off + p.data.length else p.mlen) then d.sendFail q 0x27 p
      else if !d.mrAllows q (le32 b 56) mrLocalWrite (le64 b 0) (le32 b 8) then d.sendFail q 0x25 p
      else
        let e := if p.data = [] then d else d.hostWrite (d.qpFn q) (le64 b 0 + p.off) p.data
        e.iraPlaced q p

/-- Respond to a request that has been executed: READ_RESP packets or ATOMIC_RESP, outside the order of messages (log entry 16). -/
def Dev.iraRespond (d : Dev) (q : Nat) (p : IraPkt) (ext data : Bytes) : Dev :=
  let mtu := mtuBytes (d.rd R.IQ_CFG_MTU q)
  let base : IraPkt := { op := if p.op = 4 then 5 else 8, msn := p.msn, mlen := p.mlen, ext := ext }
  let ps := cutPackets mtu base data
  if d.qpRoce q then
    let n := ps.length
    (((List.range n).zip ps).foldl (fun e y => e.iraCtl q { y.2 with psn := (p.psn + y.1) % 2 ^ 24, msn := ((d.qp q).roceMsn + 1) % 2 ^ 24 }) d).setQp q
      (fun x => if bit p.flags 1 then x else { x with roceMsn := (x.roceMsn + 1) % 2 ^ 24 })
  else d.setQp q (fun x => { x with ready := x.ready ++ ps.map (fun y => ({ pkt := y } : IraTx)) })

/-- A request has been executed; a RoCEv2 READ executed again is no message of its own. -/
def Dev.iraExecuted (d : Dev) (q : Nat) (p : IraPkt) (ext data : Bytes) : Dev :=
  let e := ((d.setQp q (fun x => { x with exec := none })).iraRespond q p ext data).iraPsnDone q p
  if d.qpRoce q && bit p.flags 1 then e else e.iraMsgPut q p.msn { op := p.op, len := p.mlen, full := true }

/-- The started READ or atomic job that a response answers. -/
def Dev.iraAsked (d : Dev) (q msn : Nat) : Option IraJob :=
  (d.qp q).jobs.find? (fun j => j.status.isNone && j.msn == some msn && sqReads (descOp j.desc))

/-- Change a started job. -/
def Dev.setIraJob (d : Dev) (q idx : Nat) (f : IraJob → IraJob) : Dev :=
  d.setQp q (fun x => { x with jobs := x.jobs.map (fun (j : IraJob) => if j.idx = idx then f j else j) })

/-- Bytes of a READ response are written at LADDR + OFFSET; the last of them ends the job (R269). -/
def Dev.readPlaced (d : Dev) (q : Nat) (j : IraJob) (off : Nat) (data : Bytes) : Dev :=
  let e := if data = [] then d else d.hostWrite (d.qpFn q) (sqLaddr j.desc + off) data
  let got := if j.got.any (fun g => g.1 == off) then j.got else j.got ++ [(off, data.length)]
  let n := (got.map (·.2)).sum
  (e.setIraJob q j.idx (fun j => { j with got := got, acked := n, status := if n = sqLen j.desc then some 0 else none })).sqDue q

/-- Place or execute one packet that may go. -/
def Dev.iraPlace (d : Dev) (q : Nat) (p : IraPkt) : Dev :=
  if p.op = 1 ∨ p.op = 2 then
    if !d.mrAllows q p.key mrRemoteWrite (p.va + p.off) p.data.length then d.iraRefuse q 0x10 p
    else (if p.data = [] then d else d.hostWrite (d.qpFn q) (p.va + p.off) p.data).iraPlaced q p
  else if p.op = 3 then d.placeSend q p
  else if p.op = 4 then
    if !d.mrAllows q p.key mrRemoteRead (p.va + p.off) p.mlen then d.iraRefuse q 0x10 p
    else if p.mlen = 0 then d.iraExecuted q p [] []
    else (d.setQp q (fun x => { x with exec := some p })).hostRead (d.qpFn q) (.iraExec q) (p.va + p.off) p.mlen
  else if p.op = 6 ∨ p.op = 7 then
    if p.va % 8 ≠ 0 then d.iraRefuse q 0x11 p
    else if !d.mrAllows q p.key mrRemoteAtomic p.va 8 then d.iraRefuse q 0x10 p
    else
      ((d.setQp q (fun x => { x with exec := some p })).setIra (fun x => { x with locks := x.locks ++ [(d.qpFn q, p.va, q)] })).hostRead (d.qpFn q)
        (.iraExec q) p.va 8
  else if p.op = 5 then
    (match d.iraAsked q p.msn with
    | some j => (d.readPlaced q j p.off p.data).iraPsnDone q p
    | none => d.iraPsnDone q p)
  else
    (match d.iraAsked q p.msn with
    | some j =>
      let v := beNat (slice p.ext 0 8)
      ((((d.hostWrite (d.qpFn q) (sqLaddr j.desc) (leBytes 8 v)).setIraJob q j.idx (fun j => { j with orig := v, acked := 8, status := some 0 })).sqDue q).iraPsnDone q p)
    | none => d.iraPsnDone q p)

/-- Place every held packet that may go, the earliest received first. -/
def Dev.iraPump (q : Nat) : Nat → Dev → Dev
  | 0, d => d
  | n + 1, d =>
    match (d.qp q).held.find? (d.iraMay q) with
    | none => d
    | some p =>
      if !d.qpReady q then d
      else Dev.iraPump q n ((d.setQp q (fun x => { x with held := x.held.filter (fun y => y.psn != p.psn) })).iraPlace q p)

/-- Place what may be placed, then send what may be sent. -/
def Dev.iraSettle (d : Dev) (q : Nat) : Dev := (Dev.iraPump q ((d.qp q).held.length + 1) d).iraWork q

/-- The host read of the request in execution returns (R255): data and its responses; an atomic writes the word and returns the original. -/
def Dev.iraExecDone (d : Dev) (q : Nat) (ok : Bool) (data : Bytes) : Dev :=
  match (d.qp q).exec with
  | none => d
  | some p =>
    if !d.qpReady q then d
    else
      let e := d.setIra (fun x => { x with locks := x.locks.filter (fun l => l.2.2 != q) })
      let e :=
        if !ok then (e.setQp q (fun x => { x with exec := none })).iraRefuse q 0x10 p
        else if p.op = 4 then e.iraExecuted q p [] data
        else
          let v := leNat (slice data 0 8)
          let a := beNat (slice p.ext 16 8)
          let new := if p.op = 6 then some ((v + a) % 2 ^ 64) else if v = a then some (beNat (slice p.ext 24 8)) else none
          let e := match new with
            | some w => e.hostWrite (d.qpFn q) p.va (leBytes 8 w)
            | none => e
          e.iraExecuted q p (beBytes 8 v) []
      e.each (q :: (e.ira.qps.filter (fun y => y.2.held != [] && y.1 != q)).map (·.1)) Dev.iraSettle

/-! ## Reception of a packet with a PSN (R259, R266, R268) -/

/-- Is a PSN here already: placed, held or in execution. -/
def QpState.have' (x : QpState) (psn : Nat) : Bool :=
  x.got.contains psn || x.held.any (fun p => p.psn == psn) || (match x.exec with | some p => p.psn == psn | none => false)

/-- PSNs below a new arrival that are missing start their delay (R266). -/
def Dev.iraGaps (d : Dev) (q rel psn : Nat) : Dev :=
  let a := d.rd R.IQ_RX_A q
  let miss := ((List.range rel).map (fun i => (a + i) % 2 ^ 32)).filter (fun n => !(d.qp q).have' n && !SMap.has (d.qp q).gaps n)
  d.setQp q (fun x => { x with gaps := miss.foldl (fun g n => SMap.put g n d.cyc) (SMap.del x.gaps psn) })

/-- A packet that consumes a PSN arrives on its queue pair. -/
def Dev.iraDataIn (d : Dev) (q : Nat) (p : IraPkt) : Dev :=
  let a := d.rd R.IQ_RX_A q
  let rel := (p.psn + 2 ^ 32 - a) % 2 ^ 32
  if 2 ^ 31 ≤ rel ∨ (d.qp q).have' p.psn then (d.count R.IQ_DUP 1 q).iraAck q
  else if 1024 ≤ rel then d.count R.IR_PSN_OOW
  else
    let e := (d.iraGaps q rel p.psn).setQp q (fun x => { x with lastRx := some d.cyc })
    let cost := creditCost p.data.length
    let beyond := !serialGe (d.rd R.IQ_GRANT_RX q) ((d.qp q).units + cost)
    if beyond ∧ d.on R.IR_STATUS_XOFF then (e.count R.IR_UNCREDITED).iraNak q 3 p
    else
      (e.when beyond (fun x => x.count R.IR_OVERGRANT)).setQp q (fun x => { x with units := (x.units + cost) % 2 ^ 32, held := x.held ++ [p] })

/-! ## ACK and NAK at the sender (R265-R267, Table 10.5) -/

/-- PSNs that an ACK covers: those before A and those of its bitmap. -/
def ackCovers (a map psn : Nat) : Bool :=
  let rel := (psn + 2 ^ 32 - a) % 2 ^ 32
  decide (2 ^ 31 ≤ rel) || (decide (1 ≤ rel ∧ rel ≤ 64) && map.testBit (rel - 1))

/-- A RETRY_LATER for a PSN: the delay, or the end of the job after RNR_RETRY of them in a row (R267). -/
def Dev.iraLater (d : Dev) (q psn : Nat) : Dev :=
  match (d.qp q).unacked.find? (fun t => t.pkt.psn == psn) with
  | none => d
  | some t =>
    if d.rd R.IQ_TIMERS_RNR_RETRY q ≠ 7 ∧ d.rd R.IQ_TIMERS_RNR_RETRY q ≤ t.rnr + 1 then d.qpError q 2 (t.job.map (fun j => (j, 0x23)))
    else d.setQp q (fun x => { x with unacked := x.unacked.map (fun (y : IraTx) =>
      if y.pkt.psn = psn then { y with rnr := y.rnr + 1, due := some (d.cyc + d.rd R.IQ_TIMERS_RNR_DELAY q * 1000) } else y) })

/-- The job status of a fatal NAK. -/
def nakStatus (code : Nat) : Nat := if code = 0x10 then 0x21 else if code = 0x11 then 0x24 else 0x26

/-- A NAK of an IRA queue pair. -/
def Dev.iraNakIn (d : Dev) (q : Nat) (p : IraPkt) : Dev :=
  let code := byteAt p.ext 0
  let d := (d.count R.IQ_NAK_RX 1 q).wr R.IQ_STATUS_LAST_NAK code q
  if code = 1 then
    let map := beNat (slice p.ext 4 8)
    let l := p.psn :: ((bitsSet 64 map).map (fun i => (p.psn + 1 + i) % 2 ^ 32))
    d.each (l.filter (fun n => (d.qp q).unacked.any (fun t => t.pkt.psn == n))) (fun e n => e.iraAgain q n)
  else
    let d := d.iraRetire q (ackCovers p.psn 0)
    match (d.qp q).unacked.find? (fun t => t.pkt.msn == p.msn && t.pkt.off == p.off) with
    | none => if code = 0x10 ∨ code = 0x11 ∨ code = 0x12 then d.qpError q 1 else d
    | some t =>
      if code = 2 then d.iraLater q t.pkt.psn
      else if code = 3 then d
      else if code = 0x10 ∨ code = 0x11 ∨ code = 0x12 then d.qpError q 1 (t.job.map (fun j => (j, nakStatus code)))
      else d

/-- The grant of a packet raises the credit toward the peer (R257). -/
def Dev.iraGrantIn (d : Dev) (q g : Nat) : Dev :=
  if serialGe g (d.rd R.IQ_GRANT_TX q) then d.wr R.IQ_GRANT_TX g q else d

/-- A well-formed packet acts on its queue pair. -/
def Dev.iraAct (d : Dev) (q : Nat) (p : IraPkt) : Dev :=
  let d := d.iraGrantIn q p.grant
  if p.op = 0x10 then d.iraRetire q (ackCovers p.psn (beNat (slice p.ext 0 8)))
  else if p.op = 0x11 then d.iraNakIn q p
  else if p.op = 0x12 then d
  else d.iraDataIn q p

/-! ## Acceptance (R246) and the context-miss buffer (R251) -/

/-- Does the source of a packet match the queue pair, and its SQP the peer. -/
def Dev.iraSourceOk (d : Dev) (q : Nat) (r : IraSrc) : Bool :=
  r.roce == d.qpRoce q &&
    (match r.fab with
    | some a => d.qpFab q && a == d.rd R.IQ_FAB_ADDR q
    | none => !d.qpFab q && r.sip == d.qpIp R.IQ_DIP q) &&
    (r.roce || be32 r.pay 8 % 2 ^ 24 == d.rd R.IQ_PEER q)

/-- A packet for a queue pair that is not READY: discarded, counted, answered with NAK QP_ERROR to where it came from; RoCEv2 has no
such answer. -/
def Dev.iraNoQp (d : Dev) (q : Nat) (r : IraSrc) : Dev :=
  let e := (d.count R.IR_NO_QP).when (d.qpState q == 2) (fun x => x.count R.IQ_ERR_DROP 1 q)
  if r.roce then e
  else
    let p := iraDecode r.pay 0
    let t : IraDest := { port := r.port, dmac := r.smac, ip := r.sip, fab := r.fab.getD 0, peer := p.sqp % 2 ^ 24 }
    (e.count R.IQ_NAK_TX 1 q).iraEmit q t { op := 0x11, psn := d.rd R.IQ_RX_A q, msn := p.msn, off := p.off, ext := [0x12#8, 0#8, 0#8, 0#8] ++ beBytes 8 0 }

end Sys2Proof.Machine
end

