-- ==== Sys2Proof/Machine/Roce.lean ====
section
/-!
DEFINITION. Chapter 10: RoCEv2 (R272) and the packets' rows: every packet that waits for RDMA takes its turn here, with the timers of the receiver
(R251, R257, R265, R266).
-/
namespace Sys2Proof.Machine

/-! ## RoCEv2 requests -/

/-- A NAK or acknowledgement of a RoCEv2 queue pair with a PSN. -/
def Dev.roceAck (d : Dev) (q psn syndrome : Nat) : Dev :=
  d.iraCtl q { op := 0x10, psn := psn % 2 ^ 24, msn := (d.qp q).roceMsn, ext := [BitVec.ofNat 8 syndrome] }

/-- A NAK by its code. -/
def Dev.roceNakAt (d : Dev) (q code psn : Nat) : Dev := (d.count R.IQ_NAK_TX 1 q).iraCtl q (d.nakOf q code { op := 0x11, psn := psn })

/-- The request that a RoCEv2 packet is, in IRA terms, with the message it continues; none where it is out of place. -/
def Dev.roceRequest (d : Dev) (q : Nat) (b : Bytes) : Option (IraPkt × Option RoceMsg) :=
  let op := byteAt b 0
  let pad := bits (byteAt b 1) 5 4
  let psn := beNat (slice b 9 3)
  let x := d.qp q
  let body (h : Nat) : Bytes := (b.drop (12 + h)).take (b.length - 12 - h - pad)
  let first := op == 0x00 || op == 0x04 || op == 0x06 || op == 0x0A
  let last := op == 0x02 || op == 0x04 || op == 0x08 || op == 0x0A
  let kind := if op ≤ 4 then 3 else 1
  if op = 0x0C then
    some ({ op := 4, psn := psn, msn := x.rxMsns, mlen := be32 b 24, ext := slice b 12 12 }, none)
  else
    let h := if op = 0x06 ∨ op = 0x0A then 16 else 0
    let data := body h
    let m : Option RoceMsg := if first then some ⟨kind, leNat (slice b 12 8).reverse, be32 b 20, if kind = 1 then be32 b 24 else 0, 0⟩
      else match x.roce with
        | some m => if m.op = kind then some m else none
        | none => none
    if first && x.roce.isSome then none
    else
      match m with
      | none => none
      | some m =>
        let fin := m.off + data.length
        if kind = 1 ∧ (m.len < fin ∨ (last ∧ fin ≠ m.len)) then none
        else
          some ({ op := kind, psn := psn, msn := x.rxMsns, off := m.off, data := data, mlen := if last then fin else fin + 1,
                  flags := if bit (byteAt b 8) 7 then 4 else 0,
                  ext := if kind = 1 then beBytes 8 m.va ++ beBytes 4 m.key ++ beBytes 4 0 else beBytes 4 x.rxSsns ++ beBytes 4 0 },
                if last then none else some { m with off := fin })

/-- A RoCEv2 request: in PSN order alone (go-back-N); one NAK per gap, later packets discarded; a duplicate is acknowledged again, a
duplicate READ executed again. -/
def Dev.roceReqIn (d : Dev) (q : Nat) (b : Bytes) : Dev :=
  let psn := beNat (slice b 9 3)
  let a := d.rd R.IQ_RX_A q
  let rel := d.psnSub q psn a
  let mtu := mtuBytes (d.rd R.IQ_CFG_MTU q)
  if rel ≠ 0 ∧ rel < 2 ^ 23 then
    if (d.qp q).roceNak then d else (d.roceNakAt q 1 a).setQp q (fun x => { x with roceNak := true })
  else if rel ≠ 0 then
    let e := d.count R.IQ_DUP 1 q
    if byteAt b 0 = 0x0C then
      if (d.qp q).have' psn then e
      else e.setQp q (fun x => { x with held := x.held ++ [{ op := 4, flags := 2, psn := psn, msn := (x.expMsn + 2 ^ 32 - 1) % 2 ^ 32, mlen := be32 b 24, ext := slice b 12 12 }] })
    else e.roceAck q (a + 2 ^ 24 - 1) 0x1F
  else
    match d.roceRequest q b with
    | none => d.roceNakAt q 0x11 psn
    | some (p, m) =>
      if p.op == 3 && (match d.sendEntry q p.ssn with | some i => (d.wqKept true q i).isNone | none => true) then d.roceNakAt q 2 psn
      else if p.op = 1 ∧ !d.mrAllows q p.key mrRemoteWrite (p.va + p.off) p.data.length then d.roceNakAt q 0x10 psn
      else
        let span := if p.op = 4 then max 1 ((p.mlen + mtu - 1) / mtu) else 1
        (d.wr R.IQ_RX_A ((a + span) % 2 ^ 24) q).setQp q (fun x => { x with
          roceNak := false, roce := m, held := x.held ++ [p], lastRx := some d.cyc
          rxMsns := if p.op = 4 ∨ m.isNone then (x.rxMsns + 1) % 2 ^ 32 else x.rxMsns
          rxSsns := if p.op = 3 ∧ m.isNone then (x.rxSsns + 1) % 2 ^ 32 else x.rxSsns })

/-! ## RoCEv2 responses -/

/-- Retire what an acknowledgement of a PSN covers; READs are retired by their responses. -/
def Dev.roceRetire (d : Dev) (q psn : Nat) (upTo : Bool) : Dev :=
  let l := ((d.qp q).unacked.filter (fun t => t.pkt.op != 4)).map (·.pkt.psn)
  d.iraRetire q (fun n => l.contains n && (let rel := d.psnSub q psn n; decide (rel < 2 ^ 23 ∧ (upTo ∨ rel ≠ 0))))

/-- Send again everything from a PSN on. -/
def Dev.roceBack (d : Dev) (q psn : Nat) : Dev :=
  d.each (((d.qp q).unacked.filter (fun t => decide (d.psnSub q t.pkt.psn psn < 2 ^ 23))).map (·.pkt.psn)) (fun e n => e.iraAgain q n)

/-- A READ response: the next of its request is placed, and acknowledges all before the request. -/
def Dev.roceRespIn (d : Dev) (q : Nat) (b : Bytes) : Dev :=
  let op := byteAt b 0
  let psn := beNat (slice b 9 3)
  let pad := bits (byteAt b 1) 5 4
  let h := if op = 0x0E then 12 else 16
  let data := (b.drop h).take (b.length - h - pad)
  match (d.qp q).unacked.find? (fun t => t.pkt.op == 4 && decide (d.psnSub q psn t.pkt.psn < t.span)) with
  | none => d.count R.IQ_DUP 1 q
  | some t =>
    match d.iraAsked q t.pkt.msn with
    | none => d
    | some j =>
      let k := d.psnSub q psn t.pkt.psn
      if k ≠ j.got.length then d
      else
        let e := (d.roceRetire q t.pkt.psn false).readPlaced q j (k * mtuBytes (d.rd R.IQ_CFG_MTU q)) data
        if k + 1 = t.span then e.iraRetire q (fun n => n == t.pkt.psn) else e

/-- An acknowledgement (AETH): ACK, RNR NAK, or NAK by its code. -/
def Dev.roceAckIn (d : Dev) (q : Nat) (b : Bytes) : Dev :=
  let psn := beNat (slice b 9 3)
  let s := byteAt b 12
  if s / 32 = 0 then d.roceRetire q psn true
  else
    let code := if s / 32 = 1 then 2 else match s % 32 with | 0 => 1 | 1 => 0x11 | 2 => 0x10 | _ => 0x12
    let e := ((d.count R.IQ_NAK_RX 1 q).wr R.IQ_STATUS_LAST_NAK code q).roceRetire q psn false
    if code = 1 then e.roceBack q psn
    else if code = 2 then e.iraLater q psn
    else
      let t := (e.qp q).unacked.find? (fun t => decide (e.psnSub q psn t.pkt.psn < t.span))
      e.qpError q 1 ((t.bind (·.job)).map (fun j => (j, nakStatus code)))

/-- A RoCEv2 packet acts on its queue pair; an ECN-CE mark is counted. -/
def Dev.roceIn (d : Dev) (q : Nat) (r : IraSrc) : Dev :=
  let d := d.when r.ce (fun e => e.count R.IR_ROCE_CE)
  match r.row with
  | 0 => if byteAt r.pay 0 = 0x81 then d.count R.IR_ROCE_CE else d.roceNakAt q 0x11 (beNat (slice r.pay 9 3))
  | 5 => d.roceRespIn q r.pay
  | 0x10 => d.roceAckIn q r.pay
  | 0x11 => d.roceAckIn q r.pay
  | _ => d.roceReqIn q r.pay

/-! ## The packets' turn -/

/-- A packet whose context is on die is accepted or not, and acts. -/
def Dev.iraTake (d : Dev) (q : Nat) (r : IraSrc) : Dev :=
  let d := d.ctxTouch q
  if !d.iraSourceOk q r then d.count R.IR_NO_QP
  else
    let e := d.count R.IQ_RX_PKTS 1 q
    let e := if r.roce then e.roceIn q r
      else match iraWell r.pay with
        | none => e.iraNak q 0x11 (iraDecode r.pay 0)
        | some p => e.iraAct q p
    e.iraSettle q

/-- A packet that misses its context waits in the context-miss buffer, or finds it full (R251). -/
def Dev.iraMiss (d : Dev) (q : Nat) (x : IraIn) : Dev :=
  if 8 * 2 ^ 20 < (d.ira.cmb.map (fun e => e.2.bytes.length)).sum + x.bytes.length then
    let p := iraDecode (d.iraParse x).pay 0
    ((d.count R.IR_CMB_FULL).count R.IQ_NAK_TX 1 q).iraEmit q (d.qpDest q) (d.nakOf q 2 p)
  else ((d.setIra (fun y => { y with cmb := y.cmb ++ [(q, x)] })).ctxTouch q).cmbStatus

/-- A packet reaches RDMA (R246, R251). -/
def Dev.iraArrive (d : Dev) (x : IraIn) : Dev :=
  let r := d.iraParse x
  let q := r.dqp
  if !r.good then d.count R.IR_CSUM_ERR
  else if r.pay.length < (if r.roce then 12 else 32) then d.count R.IR_NO_QP
  else if !d.qpReady q then d.iraNoQp q r
  else if !d.ctxIn q || d.ira.cmb.any (fun e => e.1 == q) then d.iraMiss q x
  else d.iraTake q r

/-- Packets at the head that belong to no row are taken first. -/
def Dev.iraSweep : Nat → Dev → Dev
  | 0, d => d
  | n + 1, d =>
    match d.ira.inbox with
    | [] => d
    | x :: xs => if (d.iraParse x).row = 0 then Dev.iraSweep n ((d.setIra (fun y => { y with inbox := xs })).iraArrive x) else d

/-- The packet at the head is taken, if its opcode is `op`. -/
def Dev.iraRow (d : Dev) (op : Nat) : Dev :=
  if !d.iraOn then d
  else
    let e := Dev.iraSweep d.ira.inbox.length d
    match e.ira.inbox with
    | [] => e
    | x :: xs => if (e.iraParse x).row = op then (e.setIra (fun y => { y with inbox := xs })).iraArrive x else e

/-- IRA_WRITE (R255). -/
def execIraWrite (s : State) : Host.Outcome State Fault Refusal := .next (s.onDev (fun d => d.iraRow 1))
/-- IRA_WRITE_IMM (R255). -/
def execIraWriteImm (s : State) : Host.Outcome State Fault Refusal := .next (s.onDev (fun d => d.iraRow 2))
/-- IRA_SEND (R255). -/
def execIraSend (s : State) : Host.Outcome State Fault Refusal := .next (s.onDev (fun d => d.iraRow 3))
/-- READ_REQ (R255, R264). -/
def execReadReq (s : State) : Host.Outcome State Fault Refusal := .next (s.onDev (fun d => d.iraRow 4))
/-- READ_RESP (R255). -/
def execReadResp (s : State) : Host.Outcome State Fault Refusal := .next (s.onDev (fun d => d.iraRow 5))
/-- FETCH_ADD (R255, R264). -/
def execFetchAdd (s : State) : Host.Outcome State Fault Refusal := .next (s.onDev (fun d => d.iraRow 6))
/-- CMP_SWAP (R255, R264). -/
def execCmpSwap (s : State) : Host.Outcome State Fault Refusal := .next (s.onDev (fun d => d.iraRow 7))
/-- ATOMIC_RESP (R255, R269). -/
def execAtomicResp (s : State) : Host.Outcome State Fault Refusal := .next (s.onDev (fun d => d.iraRow 8))
/-- ACK (R265, R269). -/
def execAck (s : State) : Host.Outcome State Fault Refusal := .next (s.onDev (fun d => d.iraRow 0x10))
/-- NAK (R266, Table 10.5). -/
def execNak (s : State) : Host.Outcome State Fault Refusal := .next (s.onDev (fun d => d.iraRow 0x11))
/-- CREDIT (R257). -/
def execCredit (s : State) : Host.Outcome State Fault Refusal := .next (s.onDev (fun d => d.iraRow 0x12))

/-! ## Contexts and timers of the receiver -/

/-- CONTEXT_FETCH_DONE (R250, R251): the context comes on die, its waiting packets are processed in arrival order, the next fetch starts. -/
def execContextFetchDone (q : Nat) (s : State) : Host.Outcome State Fault Refusal :=
  .next (s.onDev (fun d =>
    if !d.ira.fetching.contains q then d
    else
      let e := d.setIra (fun x => { x with fetching := x.fetching.filter (· != q) })
      let e := match e.ira.fetchWait with
        | [] => e
        | n :: ns => e.setIra (fun x => { x with fetching := x.fetching ++ [n], fetchWait := ns })
      let l := e.ira.cmb.filter (fun y => y.1 == q)
      let e := ((e.ctxLoad q).setIra (fun x => { x with cmb := x.cmb.filter (fun y => y.1 != q) })).cmbStatus
      (e.each l (fun x y => if x.qpReady q then x.iraTake q (x.iraParse y.2) else x.iraNoQp q (x.iraParse y.2))).iraSettle q))

/-- IRA_NAK_DELAY (R266): the first PSN that has been missing for IR_NAK_DELAY is reported with the others that are missing. -/
def execIraNakDelay (q : Nat) (s : State) : Host.Outcome State Fault Refusal :=
  .next (s.onDev (fun d =>
    if !d.qpReady q || d.qpRoce q then d
    else if !d.ctxIn q then d.ctxTouch q
    else
      match (d.qp q).gaps.find? (fun g => decide (g.2 + d.rd R.IR_NAK_DELAY < d.cyc + 8)) with
      | none => d
      | some g =>
        let l := (List.range 64).filter (fun i => SMap.has (d.qp q).gaps ((g.1 + 1 + i) % 2 ^ 32))
        let map := l.foldl (fun m i => m + 2 ^ i) 0
        let told := g.1 :: l.map (fun i => (g.1 + 1 + i) % 2 ^ 32)
        (((d.count R.IQ_NAK_TX 1 q).iraCtl q { op := 0x11, psn := g.1, ext := [1#8, 0#8, 0#8, 0#8] ++ beBytes 8 map }).setQp q (fun x => { x with
          gaps := x.gaps.map (fun y => if told.contains y.1 then (y.1, d.cyc) else y) })).iraGo q))

/-- IRA_ACK_DELAY (R265). -/
def execIraAckDelay (q : Nat) (s : State) : Host.Outcome State Fault Refusal :=
  .next (s.onDev (fun d =>
    if !d.qpReady q then d
    else if !d.ctxIn q then d.ctxTouch q
    else
      match (d.qp q).ackFrom with
      | none => d
      | some c => if d.cyc + 8 ≤ c + d.rd R.IR_ACK_DELAY * 10 then d else (d.iraAck q).iraGo q))

/-- IRA_CREDIT_TIMER (R257): a raised grant that no packet has carried for 1 µs is sent in a CREDIT packet. -/
def execIraCreditTimer (q : Nat) (s : State) : Host.Outcome State Fault Refusal :=
  .next (s.onDev (fun d =>
    if !d.qpReady q then d
    else if !d.ctxIn q then d.ctxTouch q
    else
      match (d.qp q).creditFrom with
      | none => d
      | some c => if d.cyc + 8 ≤ c + 1000 then d else (d.iraCtl q { op := 0x12 }).iraGo q))

/-- DESCRIPTOR_FETCH (R223, R235, R254): the read of entry `i` completes: of device ring `r` (kind 0), of the SQ (1) or the RQ (2) of queue
pair `r`. -/
def execDescriptorFetch (kind r i : Nat) (ok : Bool) (data : Bytes) (s : State) : Host.Outcome State Fault Refusal :=
  .next (s.onDev (fun d =>
    if kind = 0 then d.ringFetch r i ok data
    else
      let e := d.wqFetch (kind == 2) r i ok data
      if e.qpReady r then e.iraSettle r else e))

/-- Queue pairs that wait for room or credit try again, at each event tick. -/
def Dev.iraRetry (d : Dev) : Dev :=
  d.each ((d.ira.qps.filter (fun e => !(e.2.ctl.isEmpty && e.2.again.isEmpty && e.2.ready.isEmpty))).map (·.1)) Dev.iraGo

/-! ## Function disable and reset -/

/-- A disable leaves a queue pair in RESET, with no completion (R214, R249). -/
def Dev.qpKill (d : Dev) (q : Nat) : Dev :=
  let e := d.setIra (fun x => { x with
    qps := SMap.put x.qps q { degraded := (SMap.getD x.qps q {}).degraded }, cached := x.cached.filter (· != q), fetching := x.fetching.filter (· != q)
    fetchWait := x.fetchWait.filter (· != q), cmb := x.cmb.filter (fun y => y.1 != q), locks := x.locks.filter (fun l => l.2.2 != q) })
  ((((e.wr R.IQ_CTRL_ENABLE 0 q).wr R.IQ_STATUS_STATE 0 q).flag R.IQ_STATUS_IDLE q).wr R.IQ_STATUS_CACHED 0 q).ctxCount.cmbStatus

/-- G6 in reset (R273): every queue pair in RESET, every region invalid, caches empty; the tags of indices go with them. -/
def Dev.iraReset (d : Dev) : Dev := { d with ira := {} }

end Sys2Proof.Machine
end

