-- ==== Sys2Proof/Machine/Nvme.lean ====
section
/-!
DEFINITION. Chapter 11, controllers: queues, fetching, completions and events (R275-R278), data pointers (Table 11.1), enable, reset
and shutdown. Status codes, field layouts and pointers are those of the NVMe 2.0 base specification that R275 names.
-/
namespace Sys2Proof.Machine

/-! ## Controllers -/

def Dev.setNv (d : Dev) (f : NvState → NvState) : Dev := { d with nvme := f d.nvme }
def Dev.nv (d : Dev) (c : Nat) : NvCtrl := SMap.getD d.nvme.ctrls c {}

/-- Controllers present: PF5, PF6 and their VFs (R275). -/
def Dev.nvCount (d : Dev) : Nat := if d.unit 2 then 2 + d.host.vfs.getD 5 0 + d.host.vfs.getD 6 0 else 0

/-- The function of a controller. -/
def Dev.nvFn (d : Dev) (c : Nat) : Nat := if c < 2 then 5 + c else 8 + (d.host.vfs.take 5).sum + (c - 2)

/-- The controller of a function. -/
def Dev.nvOf (d : Dev) (fn : Nat) : Nat := if fn < 8 then fn - 5 else fn - 8 - (d.host.vfs.take 5).sum + 2

/-- Change a controller; its counts in the NVME block follow. -/
def Dev.setNvc (d : Dev) (c : Nat) (f : NvCtrl → NvCtrl) : Dev :=
  let e := d.setNv (fun s => { s with ctrls := SMap.upd s.ctrls c {} f })
  if 1024 ≤ c then e
  else
    let x := e.nv c
    ((e.wr R.NC_OUTSTANDING x.cmds.length c).wr R.NC_QUEUES_SQS (x.sqs.filter (fun q => q.1 != 0)).length c).wr
      R.NC_QUEUES_CQS (x.cqs.filter (fun q => q.1 != 0)).length c

/-- STOR runs: the unit is present, G5 out of reset. -/
def Dev.storOn (d : Dev) : Bool := d.unit 2 && !d.rst.active.contains 5

/-- May a controller fetch and work: enabled and ready, no fatal status, no shutdown, no power-fail sequence, its function in service. -/
def Dev.nvLive (d : Dev) (c : Nat) : Bool :=
  d.storOn && !d.on R.NV_STATUS_PF_ACTIVE && !d.nvme.pfDone &&
    (if 1024 ≤ c then true
     else d.on R.NC_INFO_EN c && d.on R.NC_INFO_RDY c && !d.on R.NC_INFO_CFS c && d.inService (d.nvFn c))

/-- CC fields: memory page size, shutdown notification. -/
def NvCtrl.page (x : NvCtrl) : Nat := 2 ^ (12 + bits x.cc 10 7)
def NvCtrl.shn (x : NvCtrl) : Nat := bits x.cc 15 14

/-! ## Completions (R277) -/

/-- Post one entry to a completion queue that has a slot, and signal its vector. -/
def Dev.nvPost (d : Dev) (c q : Nat) (b : Bytes) : Dev :=
  match SMap.get? (d.nv c).cqs q with
  | none => d
  | some k =>
    let st := le16 b 14 + b2n k.phase
    let e := d.hostWrite (d.nvFn c) (k.base + 16 * k.tail) (b.take 14 ++ leBytes 2 st)
    let e := e.setNvc c (fun x => { x with cqs := SMap.put x.cqs q { k with
      tail := (k.tail + 1) % k.size, phase := if k.tail + 1 = k.size then !k.phase else k.phase } })
    if k.ien then e.msix (d.nvFn c) k.vector else e

/-- Has a completion queue a free slot. -/
def NvCq.room (k : NvCq) : Bool := (k.tail + 1) % k.size != k.head

/-- A completion goes to its queue, or waits while it is full. -/
def Dev.nvCqe (d : Dev) (c q : Nat) (b : Bytes) : Dev :=
  match SMap.get? (d.nv c).cqs q with
  | none => d
  | some k =>
    if k.room && k.wait.isEmpty then d.nvPost c q b
    else d.setNvc c (fun x => { x with cqs := SMap.put x.cqs q { k with wait := k.wait ++ [b] } })

/-- Waiting completions take the slots that the host has freed. -/
def Dev.nvDrain (c q : Nat) : Nat → Dev → Dev
  | 0, d => d
  | n + 1, d =>
    match SMap.get? (d.nv c).cqs q with
    | none => d
    | some k =>
      match k.wait with
      | [] => d
      | b :: bs =>
        if k.room then Dev.nvDrain c q n ((d.setNvc c (fun x => { x with cqs := SMap.put x.cqs q { k with wait := bs } })).nvPost c q b) else d

/-- The 16 bytes of a completion entry, phase zero: `status` is SCT × 256 + SC. -/
def nvEntry (dw0 sqhd sq cid status : Nat) : Bytes :=
  leBytes 4 dw0 ++ leBytes 4 0 ++ leBytes 2 sqhd ++ leBytes 2 sq ++ leBytes 2 cid ++ leBytes 2 (2 * status)

/-- A completion for a command of a submission queue. -/
def Dev.nvReport (d : Dev) (c sq cid status dw0 : Nat) : Dev :=
  let e := d.when (status != 0) (fun e => e.count R.NC_ERR_CPL 1 c)
  match SMap.get? (d.nv c).sqs sq with
  | none => e
  | some s => e.nvCqe c s.cq (nvEntry dw0 s.head sq cid status)

/-- The queue pair of an IRA backend. -/
def Dev.backendBytes (d : Dev) (b : Nat) : Bytes := SMap.getD d.mram.backends b []
def Dev.backendQp (d : Dev) (b : Nat) : Nat := le32 (d.backendBytes b) 12 % 2 ^ 24

/-- A command ends: its completion entry is written, or its answer sent to the IRA initiator with its data (R277, R291). -/
def Dev.nvDone (d : Dev) (c : Nat) (m : NvCmd) (status : Nat) (dw0 : Nat := 0) (data : Bytes := []) : Dev :=
  let e := d.setNvc c (fun x => { x with cmds := x.cmds.filter (fun y => y.id != m.id) })
  if 1024 ≤ c then e.iraMessage (d.backendQp (c - 1024)) (nvEntry dw0 0 0 m.cid status ++ data)
  else e.nvReport c m.sq m.cid status dw0

/-! ## Asynchronous events -/

/-- Events meet the requests that wait for them; each is written to the queue of its request. -/
def Dev.nvEvents (c : Nat) : Nat → Dev → Dev
  | 0, d => d
  | n + 1, d =>
    match (d.nv c).aers, (d.nv c).events with
    | a :: as, v :: vs => Dev.nvEvents c n ((d.setNvc c (fun x => { x with aers := as, events := vs })).nvReport c a.1 a.2 0 v)
    | _, _ => d

/-- A controller has an event: type, information, log page. One of the same Dword 0 that waits already is not repeated. -/
def Dev.nvEvent (d : Dev) (c type info log : Nat) : Dev :=
  let v := type + info % 256 * 256 + log * 65536
  if !d.on R.NC_INFO_RDY c || (d.nv c).events.contains v then d
  else Dev.nvEvents c 1 (d.setNvc c (fun x => { x with events := x.events ++ [v] }))

/-! ## Fetching (R277) -/

/-- The submission queue served next: the first after the last one that holds a command. -/
def NvCtrl.next (x : NvCtrl) : Option (Nat × NvSq) :=
  let l := x.sqs.filter (fun q => q.2.head != q.2.tail)
  (l.filter (fun q => decide (x.turn < q.1))).head?.orElse (fun _ => l.head?)

/-- Read the next submission entry, one command per queue per turn. -/
def Dev.nvFetch (d : Dev) (c : Nat) : Dev :=
  let x := d.nv c
  if !d.nvLive c || x.reading || x.shn != 0 then d
  else
    match x.next with
    | none => d
    | some (q, s) =>
      (d.setNvc c (fun x => { x with reading := true, turn := q })).hostRead (d.nvFn c) (.nvmeSqe c q s.head) (s.base + 64 * s.head) 64

/-- A submission entry arrives: the command is fetched, and the next read starts. A failed read is a fatal status. -/
def Dev.nvSqe (d : Dev) (c q h : Nat) (ok : Bool) (data : Bytes) : Dev :=
  match SMap.get? (d.nv c).sqs q with
  | none => (d.setNvc c (fun x => { x with reading := false })).nvFetch c
  | some s =>
    if !(d.nv c).reading || s.head != h then d
    else if !ok then (d.setNvc c (fun x => { x with reading := false })).flag R.NC_INFO_CFS c
    else
      let m : NvCmd := { id := d.nvme.nextCmd, sq := q, cid := le16 data 2, sqe := padTo 64 data, mark := d.nvme.accepted }
      (((d.setNv (fun s => { s with nextCmd := s.nextCmd + 1 })).setNvc c (fun x => { x with
        reading := false, sqs := SMap.put x.sqs q { s with head := (s.head + 1) % s.size }, cmds := x.cmds ++ [m] })).count R.NC_CMDS 1 c).nvFetch c

/-- NVME_SQ_DOORBELL (R277): the tail of a submission queue; an unknown queue or an impossible value is an event of type Error. -/
def execNvmeSqDoorbell (c q tail : Nat) (s : State) : Host.Outcome State Fault Refusal :=
  .next (s.onDev (fun d =>
    if !d.nvLive c then d
    else
      match SMap.get? (d.nv c).sqs q with
      | none => d.nvEvent c 0 0 1
      | some k =>
        if k.size ≤ tail then d.nvEvent c 0 1 1
        else (d.setNvc c (fun x => { x with sqs := SMap.put x.sqs q { k with tail := tail } })).nvFetch c))

/-- NVME_CQ_DOORBELL (R277): the head of a completion queue; completions that waited are written. -/
def execNvmeCqDoorbell (c q head : Nat) (s : State) : Host.Outcome State Fault Refusal :=
  .next (s.onDev (fun d =>
    if !d.nvLive c then d
    else
      match SMap.get? (d.nv c).cqs q with
      | none => d.nvEvent c 0 0 1
      | some k =>
        if k.size ≤ head then d.nvEvent c 0 1 1
        else Dev.nvDrain c q k.wait.length (d.setNvc c (fun x => { x with cqs := SMap.put x.cqs q { k with head := head } }))))

/-! ## Data pointers: PRP and SGL (Table 11.1) -/

/-- What a data pointer gives: all its ranges; a list to read (address, bytes) with the bytes still to place; or an error. -/
inductive NvPtr where
  | ok (segs : List (Nat × Nat))
  | list (segs : List (Nat × Nat)) (addr n rem : Nat)
  | bad (status : Nat)
  deriving DecidableEq, Repr

/-- Pages that `rem` bytes take. -/
def nvPages (page rem : Nat) : Nat := (rem + page - 1) / page

/-- A PRP list begins at an address: its entries up to the page's end that are needed. -/
def prpList (page : Nat) (segs : List (Nat × Nat)) (addr rem : Nat) : NvPtr :=
  if addr % 8 ≠ 0 then .bad 0x13 else .list segs addr (min (8 * nvPages page rem) (page - addr % page)) rem

/-- PRP1 and PRP2 of a transfer. -/
def prpStart (page p1 p2 len : Nat) : NvPtr :=
  let n1 := min len (page - p1 % page)
  let rem := len - n1
  if rem = 0 then .ok [(p1, n1)]
  else if rem ≤ page then (if p2 % page ≠ 0 then .bad 0x13 else .ok [(p1, n1), (p2, rem)])
  else prpList page [(p1, n1)] p2 rem

/-- The entries of a PRP list that has been read; its last points to the next list where more are needed. -/
def prpCont (page : Nat) (segs : List (Nat × Nat)) (rem : Nat) (b : Bytes) : NvPtr :=
  let k := b.length / 8
  let need := nvPages page rem
  let take := if need ≤ k then need else k - 1
  let ents := (List.range take).map (fun i => le64 b (8 * i))
  if ents.any (fun a => a % page != 0) then .bad 0x13
  else
    let segs := segs ++ (List.range take).map (fun i => (ents.getD i 0, min page (rem - page * i)))
    if need ≤ k then .ok segs else prpList page segs (le64 b (8 * (k - 1))) (rem - page * take)

/-- SGL descriptors in order: data blocks until the transfer is covered, a segment descriptor last. -/
def sglWalk : Nat → Bytes → List (Nat × Nat) → Nat → NvPtr
  | 0, _, segs, rem => if rem = 0 then .ok segs else .bad 0x0F
  | n + 1, b, segs, rem =>
    if rem = 0 then .ok segs
    else
      let ty := byteAt b 15 / 16
      let a := le64 b 0
      let l := le32 b 8
      if ty = 0 then sglWalk n (b.drop 16) (if l = 0 then segs else segs ++ [(a, min l rem)]) (rem - l)
      else if ty = 2 ∨ ty = 3 then (if n = 0 ∧ l % 16 = 0 ∧ l ≠ 0 then .list segs a l rem else .bad 0x0D)
      else .bad 0x11

/-- The data pointer of a submission entry for `len` bytes. -/
def nvPtr (page : Nat) (sqe : Bytes) (len : Nat) : NvPtr :=
  if byteAt sqe 1 / 64 = 0 then prpStart page (le64 sqe 24) (le64 sqe 32) len else sglWalk 1 (slice sqe 24 16) [] len

/-- A list that has been read goes on. -/
def nvPtrCont (page : Nat) (sqe : Bytes) (segs : List (Nat × Nat)) (rem : Nat) (b : Bytes) : NvPtr :=
  if byteAt sqe 1 / 64 = 0 then prpCont page segs rem b else sglWalk (b.length / 16) b segs rem

/-- Write data to the host ranges of a command. -/
def Dev.nvScatter (d : Dev) (c : Nat) (segs : List (Nat × Nat)) (data : Bytes) : Dev :=
  (segs.foldl (fun (x : Dev × Bytes) g => (x.1.hostWrite (d.nvFn c) g.1 (x.2.take g.2), x.2.drop g.2)) (d, data)).1

/-- Change an outstanding command. -/
def Dev.setCmd (d : Dev) (c id : Nat) (f : NvCmd → NvCmd) : Dev :=
  d.setNvc c (fun x => { x with cmds := x.cmds.map (fun (m : NvCmd) => if m.id = id then f m else m) })

/-- The outstanding command of a number. -/
def Dev.cmdOf (d : Dev) (c id : Nat) : Option NvCmd := (d.nv c).cmds.find? (fun m => m.id == id)

/-! ## Enable, reset, shutdown (R275, R278) -/

/-- Setting CC.EN: Admin queues from AQA, ASQ and ACQ; CSTS.RDY once ready (after the vault is restored, R298). -/
def Dev.nvEnable (d : Dev) (c cc : Nat) : Dev :=
  let x := d.nv c
  let sq : NvSq := { base := x.asq, size := x.aqa % 4096 + 1, cq := 0 }
  let cq : NvCq := { base := x.acq, size := x.aqa >>> 16 % 4096 + 1, vector := 0, ien := true }
  ((d.setNvc c (fun y => { y with cc := cc, sqs := [(0, sq)], cqs := [(0, cq)], turn := 0, reading := false })).flag R.NC_INFO_EN c).wr
    R.NC_INFO_RDY (b2n (!d.on R.NV_STATUS_VAULT_RESTORE && !d.on R.NC_INFO_CFS c)) c

/-- CONTROLLER_ENABLE (R275): CC is written with EN = 1. -/
def execControllerEnable (c cc : Nat) (s : State) : Host.Outcome State Fault Refusal :=
  .next (s.onDev (fun d =>
    if !d.storOn || decide (d.nvCount ≤ c) || !d.inService (d.nvFn c) || d.on R.NC_INFO_EN c || d.nvme.pfDone || d.on R.NV_STATUS_PF_ACTIVE then d
    else d.nvEnable c cc))

/-- A controller's commands are discarded without completion; data accepted stays in the buffer (R278). -/
def Dev.nvDiscard (d : Dev) (c : Nat) : Dev :=
  (d.setNvc c (fun x => { x with sqs := [], cqs := [], cmds := [], aers := [], events := [], reading := false })).setNv (fun s => { s with
    reqs := s.reqs.filter (fun r => !(r.kind == 0 && r.ctrl == c)) })

/-- A controller's features and state return to those of a reset. -/
def Dev.nvClear (d : Dev) (c : Nat) : Dev :=
  let e := (d.nvDiscard c).setNvc c (fun x => { x with cc := 0, feats := [], intm := 0 })
  [R.NC_INFO_EN, R.NC_INFO_RDY, R.NC_INFO_CFS, R.NC_INFO_SHST, R.NC_INFO_PS].foldl (fun e f => e.wr f 0 c) e

/-- Clearing CC.EN: commands not begun are counted in FN_DISC_SUBMIT, and the controller is reset. -/
def Dev.nvReset (d : Dev) (c : Nat) : Dev :=
  let n := (d.nv c).cmds.length
  ((d.nvClear c).wr R.FN_DISC_SUBMIT n (d.nvFn c)).count R.FN_DISC_TOTAL n (d.nvFn c)

/-- A controller whose function is reset loses AQA, ASQ and ACQ too (NVMe 2.0). -/
def Dev.nvFnReset (d : Dev) (c : Nat) : Dev := (d.nvClear c).setNvc c (fun x => { x with aqa := 0, asq := 0, acq := 0 })

/-- CONTROLLER_RESET (R278). -/
def execControllerReset (c : Nat) (s : State) : Host.Outcome State Fault Refusal :=
  .next (s.onDev (fun d => d.when (d.storOn && d.on R.NC_INFO_EN c && d.inService (d.nvFn c)) (fun e => e.nvReset c)))

end Sys2Proof.Machine
end

