-- ==== Sys2Proof/Machine/NvmeIo.lean ====
section
/-!
DEFINITION. Chapter 11, data: namespaces and extents (R279-R281), the write buffer (R282-R286), backends (R286-R291), encryption (R292),
snapshots (R299), the drain namespaces (R300, R310).
-/
namespace Sys2Proof.Machine

/-! ## Namespaces and extents -/

/-- A namespace entry (Table 11.2) that is valid. -/
def Dev.nsEntry (d : Dev) (n : Nat) : Option Bytes :=
  match SMap.get? d.mram.namespaces n with
  | some b => if bit (byteAt b 0) 0 then some b else none
  | none => none

def nsLba (b : Bytes) : Nat := 2 ^ byteAt b 1
def nsKey (b : Bytes) : Nat := le16 b 2
def nsBase (b : Bytes) : Nat := le32 b 4
def nsCount (b : Bytes) : Nat := le32 b 8
def nsSnap (b : Bytes) : Nat := le16 b 20
def nsReadOnly (b : Bytes) : Bool := bit (byteAt b 0) 1
def nsEncrypt (b : Bytes) : Bool := bit (byteAt b 0) 2
def nsArmed (b : Bytes) : Bool := bit (byteAt b 0) 3
/-- Logical blocks of a namespace and of an extent. -/
def nsBlocks (b : Bytes) : Nat := nsCount b * 2 ^ 20 / nsLba b
def extBlocks (b : Bytes) : Nat := 2 ^ 20 / nsLba b

/-- Does a controller see a namespace: its attachment, or what an IRA target serves. -/
def Dev.nsAttached (d : Dev) (c n : Nat) : Bool :=
  (d.nsEntry n).isSome && (if 1024 ≤ c then le32 (d.backendBytes (c - 1024)) 4 == n else bit (SMap.getD d.mram.attach n 0) c)

/-- The controllers that a namespace is attached to. -/
def Dev.nsCtrls (d : Dev) (n : Nat) : List Nat := (List.range d.nvCount).filter (fun c => bit (SMap.getD d.mram.attach n 0) c)

/-- Is a namespace a drain namespace (R300, R310). -/
def Dev.nsDrain (d : Dev) (n : Nat) : Bool :=
  (d.rd R.HD_DRAIN == 2 && d.objNat 0x3410 2 0 == n) || (List.range 8).any (fun s => d.rd R.CS_CTRL_DEST s == 2 && d.rd R.CS_TARGET s == n)

/-- The source of a snapshot namespace, when an image stands. -/
def Dev.snapSource (d : Dev) (n : Nat) : Option Nat :=
  (d.nvme.snaps.find? (fun e => match d.nsEntry e.1 with | some b => nsSnap b == n | none => false)).map (·.1)

/-- Is a namespace some namespace's snapshot. -/
def Dev.isSnap (d : Dev) (n : Nat) : Bool :=
  d.mram.namespaces.any (fun e => nsSnap e.2 == n && bit (byteAt e.2 0) 0)

/-- Is a namespace ready (R281, R299): the map is loaded; a snapshot whose image was lost is not. -/
def Dev.nsReady (d : Dev) (n : Nat) : Bool := d.on R.NV_STATUS_MAP_DONE && !d.nvme.snapLost.contains n &&
  (match d.nsEntry n with
  | some b => !nsEncrypt b || SMap.has d.encl.keys (nsKey b)
  | none => true)

/-- An extent-map entry and its fields (Table 11.3). -/
def Dev.extEntry (d : Dev) (i : Nat) : Bytes := SMap.getD d.nvme.map i (List.replicate 16 0#8)
def extLba (b : Bytes) : Nat := le64 b 0
def extBackend (b : Bytes) : Nat := byteAt b 8
def extValid (b : Bytes) : Bool := bit (byteAt b 9) 0
def extShared (b : Bytes) : Bool := bit (byteAt b 9) 1

/-- Set an extent-map entry. -/
def Dev.setExt (d : Dev) (i : Nat) (b : Bytes) : Dev := d.setNv (fun s => { s with map := SMap.put s.map i b })
/-- An entry with SHARED set or clear. -/
def extMark (b : Bytes) (shared : Bool) : Bytes := b.set 9 (BitVec.ofNat 8 (setBit (byteAt b 9) 1 shared))

/-- Is a backend enabled and not FAILED. -/
def Dev.backendOk (d : Dev) (b : Nat) : Bool := bit (byteAt (d.backendBytes b) 1) 0 && byteAt (d.backendBytes b) 0 != 0 && !d.nvme.failed.contains b

/-- The key of a slot. -/
def Dev.slotKey (d : Dev) (k : Nat) : Bytes := SMap.getD d.encl.keys k []

/-- A block as it is stored, and back (R292). -/
def Dev.nsCipher (d : Dev) (b : Bytes) (enc : Bool) (lba : Nat) (x : Bytes) : Bytes :=
  if nsEncrypt b then Config.xts enc (d.slotKey (nsKey b)) lba x else x

/-- Cut bytes into blocks. -/
def cutBlocks (n : Nat) : Nat → Bytes → List Bytes
  | 0, _ => []
  | k + 1, b => b.take n :: cutBlocks n k (b.drop n)

/-! ## The write buffer -/

/-- A dirty block. -/
def Dev.dirtyBlock (d : Dev) (n lba : Nat) : Option NvBlock :=
  (d.nvme.dirty.filter (fun e => e.ns == n)).findSome? (fun e => SMap.get? e.blocks lba)

/-- Bytes of dirty data. -/
def Dev.dirtyBytes (d : Dev) : Nat :=
  (d.nvme.dirty.map (fun e => (e.blocks.map (fun b => b.2.data.length)).sum)).sum

/-- NV_BUF_DIRTY and WR_WAIT follow; a crossing of NV_DIRTY_MAX is a class 11 event, STOR local 3 (R284). -/
def Dev.dirtyCount (d : Dev) : Dev :=
  let k := d.dirtyBytes / 1024
  let was := decide (d.rd R.NV_DIRTY_MAX ≤ d.rd R.NV_BUF_DIRTY)
  let new := decide (d.rd R.NV_DIRTY_MAX ≤ k)
  ((d.wr R.NV_BUF_DIRTY k).wr R.NV_STATUS_WR_WAIT (b2n new)).when (was != new) (fun e => e.raise 11 (srcNum 0x17 3) (b2n new))

/-- Put a block into an extent that may hold it already. -/
def NvExtent.put (e : NvExtent) (c lba ver : Nat) (x : Bytes) : NvExtent :=
  let o := (SMap.get? e.blocks lba).getD { data := [], ver := ver, since := ver }
  { e with blocks := SMap.put e.blocks lba { data := x, ver := ver, since := o.since, ctrls := SMap.put o.ctrls c ver } }

/-- A block enters the buffer; an extent that becomes dirty joins the end of the order (R286). -/
def Dev.dirtyPut (d : Dev) (c n ext lba ver : Nat) (x : Bytes) : Dev :=
  let l := d.nvme.dirty
  let l' := if l.any (fun e => e.ns == n && e.ext == ext) then l.map (fun (e : NvExtent) => if e.ns = n ∧ e.ext = ext then e.put c lba ver x else e)
    else l ++ [({ ns := n, ext := ext, blocks := [] } : NvExtent).put c lba ver x]
  d.setNv (fun s => { s with dirty := l' })

/-- A write is accepted: all its blocks at once (R282, R283). -/
def Dev.nvAccept (d : Dev) (c n : Nat) (b : Bytes) (lba : Nat) (blocks : List Bytes) : Dev :=
  let v := d.nvme.accepted + 1
  (((List.range blocks.length).zip blocks).foldl (fun e x => e.dirtyPut c n ((lba + x.1) / extBlocks b) (lba + x.1) v x.2)
    (d.setNv (fun s => { s with accepted := v }))).dirtyCount

/-! ## Requests to backends -/

/-- Bytes 0-63 of a request that goes to an IRA peer (R291): an NVM Read or a Write with FUA. -/
def iraRequest (cid : Nat) (write : Bool) (lba nlb : Nat) : Bytes :=
  [if write then 1#8 else 2#8, 0#8] ++ leBytes 2 cid ++ List.replicate 36 0#8 ++ leBytes 8 lba ++
    leBytes 4 (nlb - 1 + (if write then 2 ^ 30 else 0)) ++ List.replicate 12 0#8

/-- The LBA size of a backend. -/
def Dev.backendLba (d : Dev) (b : Nat) : Nat := max 512 (le32 (d.backendBytes b) 8)

/-- A request is issued; at a type 3 backend it leaves as a SEND. -/
def Dev.nvIssue (d : Dev) (r : NvReq) (at' : Nat) : Dev :=
  let id := d.nvme.nextReq
  let e := d.setNv (fun s => { s with reqs := s.reqs ++ [{ r with id := id }], nextReq := id + 1 })
  if byteAt (d.backendBytes r.backend) 0 = 3 then
    let z := d.backendLba r.backend
    e.iraMessage (d.backendQp r.backend) (iraRequest (id % 65536) (r.kind != 0) (at' / z) ((r.count + z - 1) / z) ++ r.data)
  else e

/-- The byte address of a place in an extent at its backend. -/
def Dev.extAddr (d : Dev) (x : Bytes) (off : Nat) : Nat := extLba x * d.backendLba (extBackend x) + off

/-- Does a namespace's destaging run: its map loaded, G5 out of reset. -/
def Dev.mayDestage (d : Dev) (n : Nat) : Bool := d.storOn && d.on R.NV_STATUS_MAP_DONE && (d.nsEntry n).isSome

/-- Write the dirty blocks of an extent to its backend. The acknowledgement is of the data and of the Flush after it (R285). -/
def Dev.nvDestage (d : Dev) (x : NvExtent) : Dev :=
  match d.nsEntry x.ns with
  | none => d
  | some b =>
    let m := d.extEntry (nsBase b + x.ext)
    if !d.mayDestage x.ns || !extValid m || !d.backendOk (extBackend m) then d
    else
      let data := (x.blocks.map (fun k => k.2.data)).flatten
      let first := (x.blocks.map (·.1)).headD 0
      d.nvIssue { id := 0, backend := extBackend m, kind := 1, ns := x.ns, ext := x.ext, first := first, count := data.length,
                  vers := x.blocks.map (fun k => (k.1, k.2.ver)), data := data } (d.extAddr m ((first % extBlocks b) * nsLba b))

/-- The backend of an extent; 256 where it has none. -/
def Dev.backendOf (d : Dev) (n ext : Nat) : Nat :=
  match d.nsEntry n with
  | some b => if extValid (d.extEntry (nsBase b + ext)) then extBackend (d.extEntry (nsBase b + ext)) else 256
  | none => 256

/-- Is an extent on a local drive that is enabled. -/
def Dev.onDrive (d : Dev) (x : NvExtent) : Bool :=
  byteAt (d.backendBytes (d.backendOf x.ns x.ext)) 0 == 1 && d.backendOk (d.backendOf x.ns x.ext)

/-- Is an extent being destaged or waiting for its retry. -/
def Dev.destaging (d : Dev) (x : NvExtent) : Bool :=
  d.nvme.reqs.any (fun r => r.kind == 1 && r.ns == x.ns && r.ext == x.ext) ||
    SMap.has d.nvme.retry (d.backendOf x.ns x.ext)

/-- DESTAGE (R286): the extent that has been dirty longest is written to its backend. -/
def execDestage (s : State) : Host.Outcome State Fault Refusal :=
  .next (s.onDev (fun d =>
    match d.nvme.dirty.find? (fun x => d.mayDestage x.ns && !d.destaging x && d.backendOk (d.backendOf x.ns x.ext) &&
        (!d.on R.NV_STATUS_PF_ACTIVE || d.onDrive x)) with
    | none => d
    | some x => d.nvDestage x))

/-- Blocks that reached media are clean, unless a later write has been accepted. -/
def NvExtent.clean (x : NvExtent) (vers : List (Nat × Nat)) : NvExtent :=
  { x with blocks := x.blocks.filterMap (fun k =>
      match vers.find? (fun v => v.1 == k.1) with
      | some v => if k.2.ver = v.2 then none else some (k.1, { k.2 with since := max k.2.since (v.2 + 1), ctrls := k.2.ctrls.filter (fun w => decide (v.2 < w.2)) })
      | none => some k) }

/-! ## What completes on media (R285) -/

def cmdOp (m : NvCmd) : Nat := byteAt m.sqe 0
def cmdNs (m : NvCmd) : Nat := le32 m.sqe 4
def cmdLba (m : NvCmd) : Nat := le64 m.sqe 40
def cmdNlb (m : NvCmd) : Nat := le16 m.sqe 48 + 1
def cmdFua (m : NvCmd) : Bool := bit (le32 m.sqe 48) 30

/-- The namespace of a command: its NSID, or the one that the IRA target serves. -/
def Dev.cmdNsid (d : Dev) (c : Nat) (m : NvCmd) : Nat := if 1024 ≤ c then le32 (d.backendBytes (c - 1024)) 4 else cmdNs m

/-- Does a Flush cover a namespace. -/
def Dev.flushCovers (d : Dev) (c : Nat) (m : NvCmd) (n : Nat) : Bool :=
  if cmdNs m = 0xFFFFFFFF then d.nsAttached c n else n == d.cmdNsid c m

/-- Does a command that waits for media wait for a block. -/
def Dev.mediaNeeds (d : Dev) (c : Nat) (m : NvCmd) (n lba : Nat) (k : NvBlock) : Bool :=
  decide (k.since ≤ m.mark) &&
    (if cmdOp m = 0 then d.flushCovers c m n else n == d.cmdNsid c m && decide (cmdLba m ≤ lba ∧ lba < cmdLba m + cmdNlb m))

/-- The extents that hold blocks a command waits for. -/
def Dev.mediaLeft (d : Dev) (c : Nat) (m : NvCmd) : List NvExtent :=
  d.nvme.dirty.filter (fun x => x.blocks.any (fun k => d.mediaNeeds c m x.ns k.1 k.2))

/-- Commands that wait for media and need no more of it complete; one that waits for a FAILED backend ends with its status (R286). -/
def Dev.nvMedia (d : Dev) : Dev :=
  d.nvme.ctrls.foldl (fun e x =>
    (x.2.cmds.filter (fun m => m.phase == 4)).foldl (fun e m =>
      let left := e.mediaLeft x.1 m
      if left = [] then e.nvDone x.1 m 0
      else if left.any (fun y => e.nvme.failed.contains (e.backendOf y.ns y.ext)) then e.nvDone x.1 m (if cmdOp m = 0 then 0x280 else 0x22)
      else e) e) d

/-! ## Backends fail (R286) -/

/-- Does a namespace use a backend. -/
def Dev.nsUses (d : Dev) (n b : Nat) : Bool :=
  match d.nsEntry n with
  | none => false
  | some x => d.nvme.map.any (fun e => decide (nsBase x ≤ e.1 ∧ e.1 < nsBase x + nsCount x) && extValid e.2 && extBackend e.2 == b)

/-- A backend enters FAILED: the class 6 event, an event of type Error on each controller that uses it, its commands end. -/
def Dev.nvFail (d : Dev) (b : Nat) : Dev :=
  if d.nvme.failed.contains b then d
  else
    let gone := d.nvme.reqs.filter (fun r => r.backend == b)
    let e := (d.setNv (fun s => { s with failed := s.failed ++ [b], reqs := s.reqs.filter (fun r => r.backend != b), retry := SMap.del s.retry b })).err
      (srcNum 0x17 1) 6 b
    let cs := (List.range d.nvCount).filter (fun c => d.mram.namespaces.any (fun n => d.nsAttached c n.1 && d.nsUses n.1 b))
    let e := e.each cs (fun x c => x.nvEvent c 0 Config.nvErrInfo 1)
    let e := e.each (gone.filter (fun r => r.kind == 0)) (fun x r => match x.cmdOf r.ctrl r.cmd with
      | some m => x.nvDone r.ctrl m 0x22
      | none => x)
    let e := e.each (gone.filter (fun r => r.kind == 2)) (fun x r =>
      x.nvme.ctrls.foldl (fun y k => (k.2.cmds.filter (fun m => m.phase == 5 && y.cmdNsid k.1 m == r.ns)).foldl (fun z m => z.nvDone k.1 m 0x22) y) x)
    (e.wr R.NV_STATUS_SNAP_BUSY (b2n (e.nvme.reqs.any (fun r => r.kind == 2)))).nvMedia

/-! ## Reads (R280, R283) -/

/-- The extents of a range of blocks. -/
def rangeExts (per lba n : Nat) : List Nat := (List.range ((lba + n - 1) / per - lba / per + 1)).map (· + lba / per)

/-- The part of a range in an extent: first block and number. -/
def extPart (per lba n ext : Nat) : Nat × Nat :=
  let a := max lba (ext * per)
  (a, min (lba + n) ((ext + 1) * per) - a)

/-- The stored bytes of a block that are not at a backend: dirty, or frozen by a snapshot whose image the namespace shows. -/
def Dev.blockNow (d : Dev) (n lba : Nat) : Option Bytes :=
  match d.dirtyBlock n lba with
  | some k => some k.data
  | none => (d.snapSource n).bind (fun src => SMap.get? (SMap.getD d.nvme.snaps src {}).frozen lba)

/-- A read whose parts are all there returns its data: a block written since from the buffer, else one from the buffer at its dispatch, else
the backend's. -/
def Dev.nvReadDone (d : Dev) (c : Nat) (m : NvCmd) : Dev :=
  let n := d.cmdNsid c m
  match d.nsEntry n with
  | none => d.nvDone c m 0x0B
  | some b =>
    let z := nsLba b
    let per := extBlocks b
    let bytes := ((List.range (cmdNlb m)).map (fun i =>
      let lba := cmdLba m + i
      let part := extPart per (cmdLba m) (cmdNlb m) (lba / per)
      let x := match d.blockNow n lba with
        | some x => x
        | none => match SMap.get? m.overlay lba with
          | some x => x
          | none => slice (SMap.getD m.parts (lba / per) []) ((lba - part.1) * z) z
      if extValid (d.extEntry (nsBase b + lba / per)) then d.nsCipher b false lba x else List.replicate z 0#8)).flatten
    let e := (d.count R.NV_READS).count R.NV_BUF_HIT_LBAS m.overlay.length
    if 1024 ≤ c then e.nvDone c m 0 0 bytes
    else ((e.count R.NC_READ_OCTETS bytes.length c).nvScatter c m.segs bytes).nvDone c m 0

/-- Is a read complete: every valid extent of it has its part. -/
def Dev.nvReadTry (d : Dev) (c id : Nat) : Dev :=
  match d.cmdOf c id with
  | none => d
  | some m => if m.need = [] then d.nvReadDone c m else d

/-- A read is dispatched: what the buffer holds is taken, the rest is read from its backends. -/
def Dev.nvRead (d : Dev) (c : Nat) (m : NvCmd) (b : Bytes) : Dev :=
  let n := d.cmdNsid c m
  let per := extBlocks b
  let exts := rangeExts per (cmdLba m) (cmdNlb m)
  let lbas := (List.range (cmdNlb m)).map (· + cmdLba m)
  let overlay := lbas.filterMap (fun l => (d.blockNow n l).map (fun x => (l, x)))
  let ask := exts.filter (fun x => extValid (d.extEntry (nsBase b + x)) && lbas.any (fun l => l / per == x && !SMap.has overlay l))
  if ask.any (fun x => d.nvme.failed.contains (extBackend (d.extEntry (nsBase b + x)))) then d.nvDone c m 0x22
  else
    let e := d.setCmd c m.id (fun m => { m with phase := 3, overlay := overlay, need := ask })
    (e.each ask (fun e x =>
      let p := extPart per (cmdLba m) (cmdNlb m) x
      let k := d.extEntry (nsBase b + x)
      e.nvIssue { id := 0, backend := extBackend k, kind := 0, ns := n, ext := x, first := p.1, count := p.2 * nsLba b, ctrl := c, cmd := m.id }
        (d.extAddr k ((p.1 % per) * nsLba b)))).nvReadTry c m.id

/-! ## Snapshots (R299) -/

/-- A snapshot is lost: its namespace is not ready, SHARED clears at the source. -/
def Dev.snapLose (d : Dev) (n : Nat) (b : Bytes) : Dev :=
  let e := (d.count R.NV_SNAP_INVALID).setNv (fun s => { s with snapLost := s.snapLost ++ [nsSnap b], snaps := SMap.del s.snaps n })
  e.setNv (fun s => { s with map := s.map.map (fun x => if nsBase b ≤ x.1 ∧ x.1 < nsBase b + nsCount b then (x.1, extMark x.2 false) else x) })

/-- The image of one namespace is taken: the snapshot's map copies the source's, both marked SHARED; dirty blocks are frozen. -/
def Dev.snapTake (d : Dev) (n : Nat) (b : Bytes) : Dev :=
  match d.nsEntry (nsSnap b) with
  | none => d
  | some t =>
    let mine := d.nvme.map.filter (fun x => decide (nsBase b ≤ x.1 ∧ x.1 < nsBase b + nsCount b) && extValid x.2)
    let clear := d.nvme.map.filter (fun x => !decide (nsBase t ≤ x.1 ∧ x.1 < nsBase t + nsCount b))
    let map := mine.foldl (fun m x => SMap.put (SMap.put m x.1 (extMark x.2 true)) (nsBase t + (x.1 - nsBase b)) (extMark x.2 true)) clear
    let frozen := ((d.nvme.dirty.filter (fun x => x.ns == n)).map (fun x => x.blocks.map (fun k => (k.1, k.2.data)))).flatten
    (d.setNv (fun s => { s with
      map := map, snaps := SMap.put s.snaps n { frozen := frozen.foldl (fun m k => SMap.put m k.1 k.2) [], used := 0 }
      snapLost := s.snapLost.filter (· != nsSnap b) })).raise 11 (srcNum 0x17 2) n

/-- A trigger fire asks for a snapshot at the end of its tick; one that finds a copy in progress is skipped. -/
def Dev.nvSnapAsk (d : Dev) : Dev :=
  if !d.storOn then d
  else if d.on R.NV_STATUS_SNAP_BUSY then d.setNv (fun s => { s with skipped := s.skipped + 1 })
  else d.setNv (fun s => { s with snapDue := s.snapDue + 1 })

/-- The end of an event tick: the snapshots of its fires are taken of every armed namespace. -/
def Dev.nvSnap (d : Dev) : Dev :=
  let l := d.mram.namespaces.filter (fun e => bit (byteAt e.2 0) 0 && nsArmed e.2 && nsSnap e.2 != 0)
  (List.replicate d.nvme.snapDue ()).foldl (fun e _ => l.foldl (fun e x => e.snapTake x.1 x.2) e) (d.setNv (fun s => { s with snapDue := 0 }))

/-! ## Writes (R282-R285) -/

/-- Does a namespace refuse writes. -/
def Dev.nsProtected (d : Dev) (n : Nat) (b : Bytes) : Bool := nsReadOnly b || d.nsDrain n || d.isSnap n

/-- The status that stops a write before its data, 0 for none. -/
def Dev.nvWriteStop (d : Dev) (n : Nat) (b : Bytes) (lba nlb : Nat) : Nat :=
  let es := (rangeExts (extBlocks b) lba nlb).map (fun x => d.extEntry (nsBase b + x))
  if d.nsProtected n b then 0x20
  else if es.any (fun k => !extValid k) then 0x81
  else if es.any (fun k => d.nvme.failed.contains (extBackend k)) then 0x280
  else 0

/-- Is a write of a controller treated as FUA (R285). -/
def Dev.nvFua (d : Dev) (c : Nat) (m : NvCmd) : Bool := cmdFua m || (decide (c < 1024) && SMap.getD (d.nv c).feats 6 1 % 2 == 0)

/-- The write is accepted; it completes at once, or on media under FUA, with its extents sent to their backends. -/
def Dev.nvWriteAccept (d : Dev) (c : Nat) (m : NvCmd) (n : Nat) (b data : Bytes) : Dev :=
  let z := nsLba b
  let blocks := cutBlocks z (cmdNlb m) data
  let e := d.nvAccept c n b (cmdLba m) (((List.range blocks.length).zip blocks).map (fun x => d.nsCipher b true (cmdLba m + x.1) x.2))
  let e := (e.count R.NV_WRITES).when (decide (c < 1024)) (fun e => e.count R.NC_WRITE_OCTETS data.length c)
  if d.nvFua c m then
    let e := e.setCmd c m.id (fun m => { m with phase := 4, mark := e.nvme.accepted })
    let m := { m with mark := e.nvme.accepted }
    e.each ((e.mediaLeft c m).filter (fun x => !e.destaging x)) Dev.nvDestage
  else e.nvDone c m 0

/-- The first extent of a write that must be copied for a snapshot, with the spare it takes. -/
def Dev.nvShared (d : Dev) (b : Bytes) (m : NvCmd) : Option Nat :=
  (rangeExts (extBlocks b) (cmdLba m) (cmdNlb m)).find? (fun x => extShared (d.extEntry (nsBase b + x)))

/-- A write has its data: shared extents are copied first (R299), then it is accepted. -/
def Dev.nvWriteTake (d : Dev) (c : Nat) (m : NvCmd) (data : Bytes) : Dev :=
  let n := d.cmdNsid c m
  match d.nsEntry n with
  | none => d.nvDone c m 0x0B
  | some b =>
    match d.nvShared b m with
    | none => d.nvWriteAccept c m n b data
    | some x =>
      let s := SMap.getD d.nvme.snaps n {}
      if le32 b 16 ≤ s.used then (d.snapLose n b).nvWriteAccept c m n b data
      else
        let e := d.setCmd c m.id (fun m => { m with phase := 5, inline := data })
        if e.nvme.reqs.any (fun r => r.kind == 2 && r.ns == n) then e
        else (e.nvIssue { id := 0, backend := extBackend (d.extEntry (nsBase b + x)), kind := 2, ns := n, ext := x, first := x * extBlocks b, count := 2 ^ 20 } 0).flag
          R.NV_STATUS_SNAP_BUSY

/-- EXTENT_COPY_DONE (R299): the snapshot's entry takes the copy in the spare, the source's is its own again; the writes that waited go on. -/
def execExtentCopyDone (s : State) : Host.Outcome State Fault Refusal :=
  .next (s.onDev (fun d =>
    match d.nvme.reqs.find? (fun r => r.kind == 2) with
    | none => d
    | some r =>
      let e := d.setNv (fun s => { s with reqs := s.reqs.filter (fun x => x.id != r.id) })
      let e := e.wr R.NV_STATUS_SNAP_BUSY (b2n (e.nvme.reqs.any (fun x => x.kind == 2)))
      match e.nsEntry r.ns with
      | none => e
      | some b =>
        let sn := SMap.getD e.nvme.snaps r.ns {}
        let e := match e.nsEntry (nsSnap b) with
          | some t => e.setExt (nsBase t + r.ext) (extMark (e.extEntry (le32 b 12 + sn.used)) false)
          | none => e
        let e := (e.setExt (nsBase b + r.ext) (extMark (e.extEntry (nsBase b + r.ext)) false)).setNv (fun s => { s with
          snaps := SMap.put s.snaps r.ns { sn with used := sn.used + 1 } })
        e.nvme.ctrls.foldl (fun y k => (k.2.cmds.filter (fun m => m.phase == 5 && y.cmdNsid k.1 m == r.ns)).foldl (fun z m => z.nvWriteTake k.1 m m.inline) y) e))

/-! ## Drain namespaces (R300, R310) -/

/-- Pieces of a segment at a byte address of a namespace: extent, offset, bytes. -/
def drainPieces : Nat → Nat → Bytes → List (Nat × Nat × Bytes)
  | 0, _, _ => []
  | n + 1, a, b =>
    if b = [] then []
    else
      let k := min b.length (2 ^ 20 - a % 2 ^ 20)
      (a / 2 ^ 20, a % 2 ^ 20, b.take k) :: drainPieces n (a + k) (b.drop k)

/-- Write a segment with FUA at a pointer of a namespace, for drain `kind` number `who`; none where it does not fit. -/
def Dev.drainWrite (d : Dev) (kind who n ptr : Nat) (seg : Bytes) : Option Dev :=
  match d.nsEntry n with
  | none => none
  | some b =>
    if !d.mayDestage n || d.on R.NV_STATUS_PF_ACTIVE || decide (nsCount b * 2 ^ 20 < ptr + seg.length) || d.nvme.reqs.any (fun r => r.kind == kind && r.cmd == who) then none
    else
      let ps := drainPieces (seg.length / 2 ^ 20 + 2) ptr seg
      if ps.all (fun p => extValid (d.extEntry (nsBase b + p.1)) && d.backendOk (extBackend (d.extEntry (nsBase b + p.1)))) then
        some (d.each ps (fun e p =>
          let k := d.extEntry (nsBase b + p.1)
          e.nvIssue { id := 0, backend := extBackend k, kind := kind, ns := n, ext := p.1, first := p.2.1, count := p.2.2.length, cmd := who, data := p.2.2 }
            (d.extAddr k p.2.1)))
      else none

/-- Hide's next segment goes to its namespace (R300). -/
def Dev.hideDrain (d : Dev) : Dev :=
  if d.rd R.HD_DRAIN ≠ 2 ∨ d.hide.segs.any (·.sent) then d
  else
    match hideNext d.hide.segs with
    | none => d
    | some b =>
      match d.drainWrite 3 0 (d.objNat 0x3410 2 0) d.hide.drainPtr b with
      | none => d
      | some e => { e with hide := { e.hide with segs := hideSent e.hide.segs } }

/-- NS_DRAIN_RESET (R300): the pointer returns to 0; refused with 0x0401 while a segment is in flight. The result code is returned. -/
def execNsDrainReset (s : State) : Host.Outcome State Fault Refusal :=
  .next (s.onDev (fun d =>
    if d.nvme.reqs.any (fun r => r.kind == 3) then d.ret 0x0401
    else ({ d with hide := { d.hide with drainPtr := 0 } }).ret 0))

/-- A stream's segment at its head is acknowledged: its space is free (R310). -/
def Dev.streamAck (d : Dev) (n : Nat) : Dev :=
  ((d.setStream n (fun x => { x with segs := x.segs.tail, sent := x.sent - 1 })).stageUsed n).lossWrite n

/-- CAPTURE_SEGMENT_DRAIN (R310): a ring's completion acknowledges the segment handed to it; to a namespace the next segment is written. -/
def execCaptureSegmentDrain (n : Nat) (s : State) : Host.Outcome State Fault Refusal :=
  .next (s.onDev (fun d =>
    let x := d.stream n
    if d.rd R.CS_CTRL_DEST n = 1 then (if x.sent = 0 then d else d.streamAck n)
    else if d.rd R.CS_CTRL_DEST n = 2 ∧ x.sent = 0 then
      (match x.segs with
      | [] => d
      | g :: _ =>
        (match d.drainWrite 4 n (d.rd R.CS_TARGET n) x.drainPtr g with
        | none => d
        | some e => e.setStream n (fun x => { x with sent := 1 })))
    else d))

/-! ## Answers of backends (R285, R286, R300) -/

/-- A failed write: the data stays dirty, to be tried again in 100 ms; sixteen failures make the backend FAILED. -/
def Dev.nvError (d : Dev) (b : Nat) : Dev :=
  let n := SMap.getD d.nvme.tries b 0 + 1
  let e := (d.count R.NV_BACKEND_ERR).setNv (fun s => { s with tries := SMap.put s.tries b n, retry := SMap.put s.retry b (d.cyc + 10 ^ 8) })
  if 16 ≤ n then e.nvFail b else e

/-- A backend answers a request. -/
def Dev.nvAnswer (d : Dev) (r : NvReq) (ok : Bool) (data : Bytes) : Dev :=
  let e := d.setNv (fun s => { s with reqs := s.reqs.filter (fun x => x.id != r.id) })
  let good (e : Dev) : Dev := e.setNv (fun s => { s with tries := SMap.del s.tries r.backend })
  if r.kind = 0 then
    (match e.cmdOf r.ctrl r.cmd with
    | none => e
    | some m =>
      if ok then (e.setCmd r.ctrl m.id (fun m => { m with need := m.need.filter (· != r.ext), parts := SMap.put m.parts r.ext (padTo r.count data) })).nvReadTry r.ctrl m.id
      else (e.count R.NV_BACKEND_ERR).nvDone r.ctrl m 0x281)
  else if r.kind = 1 then
    if ok then
      let e := (good e).setNv (fun s => { s with dirty := (s.dirty.map (fun (x : NvExtent) => if x.ns = r.ns ∧ x.ext = r.ext then x.clean r.vers else x)).filter (fun x => x.blocks != []) })
      ((e.count R.NV_DESTAGE_OCTETS r.count).dirtyCount).nvMedia
    else e.nvError r.backend
  else if r.kind = 3 ∨ r.kind = 4 then
    if !ok then
      -- the piece is written again
      (e.count R.NV_BACKEND_ERR).setNv (fun s => { s with reqs := s.reqs ++ [r] })
    else if e.nvme.reqs.any (fun x => x.kind == r.kind && x.cmd == r.cmd) then e
    else if r.kind = 3 then
      let n := match d.hide.segs.find? (·.sent) with | some g => g.bytes.length | none => 0
      (({ e with hide := { e.hide with drainPtr := e.hide.drainPtr + n, segs := segAck e.hide.segs } }).spaceReturn)
    else
      (e.setStream r.cmd (fun x => { x with drainPtr := x.drainPtr + (x.segs.headD []).length })).streamAck r.cmd
  else e

/-- BACKEND_COMPLETION (R285, R286): backend request `id` is answered with success or an error, a read with its data. -/
def execBackendCompletion (id : Nat) (ok : Bool) (data : Bytes) (s : State) : Host.Outcome State Fault Refusal :=
  .next (s.onDev (fun d =>
    if !d.storOn then d
    else
      match d.nvme.reqs.find? (fun r => r.id == id && r.kind != 2) with
      | none => d
      | some r => d.nvAnswer r ok data))

/-- DESTAGE_RETRY (R286): 100 ms after a failure the dirty data of a backend is written again. -/
def execDestageRetry (b : Nat) (s : State) : Host.Outcome State Fault Refusal :=
  .next (s.onDev (fun d =>
    match SMap.get? d.nvme.retry b with
    | none => d
    | some c =>
      if !d.storOn || decide (d.cyc + 8 ≤ c) then d
      else
        let e := d.setNv (fun s => { s with retry := SMap.del s.retry b })
        e.each (e.nvme.dirty.filter (fun x => e.backendOf x.ns x.ext == b && !e.destaging x)) Dev.nvDestage))

/-- DS_LINK_DOWN (R289): surprise link-down of a downstream link, or CFS of a drive on it (`cfs`), fails every backend on it that is named. -/
def execDsLinkDown (link : Nat) (cfs : Bool) (backends : List Nat) (s : State) : Host.Outcome State Fault Refusal :=
  .next (s.onDev (fun d =>
    if !d.storOn then d
    else
      let e := if cfs then d
        else (((d.wr R.DS_LINK_UP 0 link).wr R.DS_LINK_DEGRADED 0 link).when (d.on R.DS_LINK_UP link) (fun e => e.flag R.DS_EVENTS_LINK_CHG link)).flag
          R.DS_EVENTS_SURPRISE_DOWN link
      let hit := (d.mram.backends.filter (fun x => byteAt x.2 0 == 1 && le32 x.2 12 == link && bit (byteAt x.2 1) 0)).map (·.1)
      e.each (hit.filter (fun b => !cfs || backends.contains b)) Dev.nvFail))

/-- DS_LINK_UP (R289, Table 11.10): a link trains at a speed and width; one below 32.0 GT/s or its full width is DEGRADED. -/
def execDsLinkUp (link speed width : Nat) (s : State) : Host.Outcome State Fault Refusal :=
  .next (s.onDev (fun d =>
    if !d.storOn || (link == 1 && !d.on R.DS_MODE) then d
    else
      let full := if d.on R.DS_MODE then 4 else 8
      ((((d.wr R.DS_LINK_SPEED speed link).wr R.DS_LINK_WIDTH width link).wr R.DS_LINK_DEGRADED (b2n (decide (speed < 5 ∨ width < full))) link).when
        (!d.on R.DS_LINK_UP link) (fun e => e.flag R.DS_EVENTS_LINK_CHG link)).flag R.DS_LINK_UP link))

/-- TCP_CONNECTION_LOSS (R290): a connection reset or without keep-alive fails its backend. -/
def execTcpConnectionLoss (b : Nat) (s : State) : Host.Outcome State Fault Refusal :=
  .next (s.onDev (fun d => d.when (d.storOn && byteAt (d.backendBytes b) 0 == 2 && bit (byteAt (d.backendBytes b) 1) 0) (fun e => e.nvFail b)))

/-! ## IRA backends (R291) -/

/-- One message of a bound queue pair: an answer of a peer, or a request to serve. -/
def Dev.nvMessage (d : Dev) (q : Nat) (b : Bytes) : Dev :=
  match d.mram.backends.find? (fun e => decide (3 ≤ byteAt e.2 0 ∧ byteAt e.2 0 ≤ 4) && bit (byteAt e.2 1) 0 && le32 e.2 12 % 2 ^ 24 == q) with
  | none => d
  | some e =>
    if byteAt e.2 0 = 3 then
      (match d.nvme.reqs.find? (fun r => r.backend == e.1 && r.kind != 2 && r.id % 65536 == le16 b 12) with
      | none => d
      | some r => d.nvAnswer r (le16 b 14 / 2 == 0) (b.drop 16))
    else
      let m : NvCmd := { id := d.nvme.nextCmd, sq := 1, cid := le16 b 2, sqe := slice b 0 64, mark := d.nvme.accepted, inline := b.drop 64 }
      (d.setNv (fun s => { s with nextCmd := s.nextCmd + 1 })).setNvc (1024 + e.1) (fun x => { x with cmds := x.cmds ++ [m] })

/-- At each event tick: messages of bound queue pairs are taken, a queue pair in ERROR fails its backend. -/
def Dev.nvIra (d : Dev) : Dev :=
  if !d.storOn then d
  else
    let l := d.nvme.inbox
    let e := d.setNv (fun s => { s with inbox := [] })
    let e := e.each l (fun x m => x.nvMessage m.1 m.2)
    e.each ((e.mram.backends.filter (fun x => decide (3 ≤ byteAt x.2 0 ∧ byteAt x.2 0 ≤ 4) && bit (byteAt x.2 1) 0 &&
      e.qpState (le32 x.2 12 % 2 ^ 24) == 2)).map (·.1)) Dev.nvFail

end Sys2Proof.Machine
end

