-- ==== Sys2Proof/Machine/NvmeCmd.lean ====
section
/-!
DEFINITION. Chapter 11, commands: the Admin and NVM commands (R276, R293), shutdown (R278), the power-fail sequence and the vault
(R296-R298), reset of G5 (R287), what the power controller asks of STOR (R295).
-/
namespace Sys2Proof.Machine

/-! ## Checks before a command is dispatched -/

def nvAdmin (m : NvCmd) : Bool := m.sq == 0
def cdw (m : NvCmd) (n : Nat) : Nat := le32 m.sqe (4 * n)

/-- Does a command wait at the lacing because CRYPT is in reset or its outputs are inhibited (R292, R399). -/
def Dev.nvHeld (d : Dev) (c : Nat) (m : NvCmd) : Bool :=
  !nvAdmin m && (d.inReset 0x16 || d.encl.inhibit) && (match d.nsEntry (d.cmdNsid c m) with
    | some b => nsEncrypt b
    | none => false)

/-- The status that a namespace identifier gives, 0 where it is attached and ready (R279, R281). -/
def Dev.nsStop (d : Dev) (c n : Nat) : Nat :=
  if n = 0 ∨ 16384 < n then 0x0B
  else if !d.nsAttached c n then 0x02
  else if !d.nsReady n then 0x82
  else 0

/-- The status that stops a Read, Write or Write Zeroes before its data, 0 for none (R280). -/
def Dev.nvStop (d : Dev) (c : Nat) (m : NvCmd) : Nat :=
  let n := d.cmdNsid c m
  let s := d.nsStop c n
  if s ≠ 0 then s
  else
    match d.nsEntry n with
    | none => 0x0B
    | some b =>
      if nsBlocks b < cmdLba m + cmdNlb m then 0x80
      else if cmdOp m ≠ 8 ∧ 2 ^ 20 < cmdNlb m * nsLba b then 0x02
      else if cmdOp m = 2 then 0
      else d.nvWriteStop n b (cmdLba m) (cmdNlb m)

/-! ## Structures and logs -/

/-- Bytes that a structure states, at an offset, over those that it leaves to the device. -/
def overlay (b : Bytes) : List (Nat × Bytes) → Bytes
  | [] => b
  | (o, x) :: l => overlay (b.take o ++ x ++ b.drop (o + x.length)) l

/-- One power state descriptor (Table 11.6): centiwatts, whether it is operational, entry and exit latency. -/
def psDesc (mw : Nat) (op : Bool) (en ex : Nat) : Bytes := leBytes 2 mw ++ [0#8, if op then 0#8 else 2#8] ++ leBytes 4 en ++ leBytes 4 ex

/-- The Identify Controller structure: Table 11.1 and Table 11.6 in the places of the NVMe base specification. -/
def identCtrl (c : Nat) : Bytes :=
  overlay ((List.range 4096).map (Config.nvIdentify 1 c 0))
    [(77, [8#8]), (78, leBytes 2 c), (80, leBytes 4 0x20000), (258, [3#8]), (259, leBytes 1 Config.nvAerl), (263, [3#8]),
     (512, [0x66#8, 0x44#8]), (516, leBytes 4 16384), (520, leBytes 2 0x0C), (522, leBytes 2 0), (525, [7#8]), (526, leBytes 2 255),
     (528, leBytes 2 0), (536, leBytes 4 1), (2048, psDesc 2500 true 0 0), (2080, psDesc 1500 true 1 1),
     (2112, psDesc 500 false 10 5), (2144, psDesc 200 false 100 50)]

/-- The Identify Namespace structure; zeros where the namespace is not attached. -/
def Dev.identNs (d : Dev) (c n : Nat) : Bytes :=
  match d.nsEntry n with
  | none => List.replicate 4096 0#8
  | some b =>
    if !d.nsAttached c n then List.replicate 4096 0#8
    else
      overlay ((List.range 4096).map (Config.nvIdentify 0 c n))
        [(0, leBytes 8 (nsBlocks b)), (8, leBytes 8 (nsBlocks b)), (16, leBytes 8 (nsBlocks b)), (25, [0#8, 0#8, 0#8, 0#8, 0#8]),
         (30, leBytes 1 (b2n (decide (1 < (d.nsCtrls n).length)))), (33, [0#8]), (99, leBytes 1 (b2n (d.nsProtected n b))),
         (128, [0#8, 0#8] ++ leBytes 1 (byteAt b 1))]

/-- The active namespaces of a controller above an identifier, in order. -/
def Dev.identList (d : Dev) (c n : Nat) : Bytes :=
  let l := (d.mram.namespaces.map (·.1)).filter (fun k => decide (n < k) && d.nsAttached c k)
  padTo 4096 ((l.take 1024).map (leBytes 4)).flatten

/-- The structure that Identify returns, or the status that refuses it (R276). -/
def Dev.identify (d : Dev) (c : Nat) (m : NvCmd) : Nat × Bytes :=
  let cns := cdw m 10 % 256
  let csi := cdw m 11 / 2 ^ 24
  let n := cmdNs m
  if cns = 0 ∨ cns = 5 ∨ cns = 8 then
    (if n = 0 ∨ 16384 < n then (0x0B, [])
     else if cns = 5 ∧ csi ≠ 0 then (0x02, [])
     else if cns = 0 then (0, d.identNs c n) else (0, (List.range 4096).map (Config.nvIdentify cns c n)))
  else if cns = 1 then (0, identCtrl c)
  else if cns = 2 ∨ cns = 7 then
    (if 0xFFFFFFFE ≤ n then (0x0B, []) else if cns = 7 ∧ csi ≠ 0 then (0x02, []) else (0, d.identList c n))
  else if cns = 6 ∨ cns = 0x1C then (if cns = 6 ∧ csi ≠ 0 then (0x02, []) else (0, (List.range 4096).map (Config.nvIdentify cns c n)))
  else (0x02, [])

/-- The commands of R276 by their opcodes. -/
def adminOps : List Nat := [0, 1, 2, 4, 5, 6, 8, 9, 0x0A, 0x0C]
def nvmOps : List Nat := [0, 1, 2, 8, 9]

/-- Byte `i` of a log page: of Commands Supported and Effects the supported bits, of the rest what the device has. -/
def Dev.logByte (d : Dev) (c lid i : Nat) : Byte :=
  if lid = 5 ∧ i < 2048 ∧ i % 4 = 0 then
    (if i < 1024 then BitVec.ofNat 8 (b2n (adminOps.contains (i / 4)))
     else BitVec.ofNat 8 (b2n (nvmOps.contains ((i - 1024) / 4)) + 2 * b2n ([1, 8].contains ((i - 1024) / 4))))
  else Config.nvLog lid c d.nvme.nextCmd i

/-- The bytes of a log page that a command asks for. -/
def logLen (m : NvCmd) : Nat := 4 * (cdw m 10 / 2 ^ 16 + cdw m 11 % 2 ^ 16 * 2 ^ 16 + 1)
def logOff (m : NvCmd) : Nat := cdw m 12 + cdw m 13 * 2 ^ 32

/-- The status that refuses Get Log Page, 0 for none. -/
def logStop (m : NvCmd) : Nat :=
  if !([1, 2, 3, 5].contains (cdw m 10 % 256)) then 0x109
  else if 2 ^ 20 < logLen m ∨ logOff m % 4 ≠ 0 then 0x02 else 0

/-! ## Dispatch with the host ranges of a command -/

/-- The bytes that a command moves to or from the host. -/
def Dev.cmdBytes (d : Dev) (c : Nat) (m : NvCmd) : Nat :=
  if nvAdmin m then (if cmdOp m = 2 then logLen m else 4096)
  else match d.nsEntry (d.cmdNsid c m) with
    | some b => cmdNlb m * nsLba b
    | none => 0

/-- A write finds room in the buffer: below NV_DIRTY_MAX, its data within 4,032 MiB (R282, R284). -/
def Dev.nvRoom (d : Dev) (c : Nat) (m : NvCmd) : Bool :=
  decide (d.dirtyBytes / 1024 < d.rd R.NV_DIRTY_MAX ∧ d.dirtyBytes + d.cmdBytes c m ≤ 4032 * 2 ^ 20)

/-- A command whose ranges are known runs: data goes to the host, or a write reads its data (R282). -/
def Dev.nvRun (d : Dev) (c : Nat) (m : NvCmd) : Dev :=
  if nvAdmin m then
    if cmdOp m = 2 then
      (d.nvScatter c m.segs ((List.range (logLen m)).map (fun i => d.logByte c (cdw m 10 % 256) (logOff m + i)))).nvDone c m 0
    else (d.nvScatter c m.segs (d.identify c m).2).nvDone c m 0
  else
    let s := d.nvStop c m
    if s ≠ 0 then d.nvDone c m s
    else if cmdOp m = 2 then
      match d.nsEntry (d.cmdNsid c m) with
      | some b => d.nvRead c m b
      | none => d.nvDone c m 0x0B
    else
      let idx := List.range m.segs.length
      let e := d.setCmd c m.id (fun x => { x with phase := 2, need := idx })
      e.each idx (fun x i => x.hostRead (x.nvFn c) (.nvmeData c m.id i) (m.segs.getD i (0, 0)).1 (m.segs.getD i (0, 0)).2)

/-- What a data pointer gave is used: the command runs, reads its next list, or ends. -/
def Dev.nvPointed (d : Dev) (c : Nat) (m : NvCmd) (p : NvPtr) : Dev :=
  match p with
  | .ok segs => (d.setCmd c m.id (fun x => { x with segs := segs, phase := 1 })).nvRun c { m with segs := segs, phase := 1 }
  | .list segs a n rem => (d.setCmd c m.id (fun x => { x with segs := segs, rem := rem, phase := 1 })).hostRead (d.nvFn c) (.nvmeList c m.id) a n
  | .bad s => d.nvDone c m s

/-- A command with data is dispatched: its data pointer is resolved; one of an IRA initiator brought its data with it (R291). -/
def Dev.nvStart (d : Dev) (c : Nat) (m : NvCmd) : Dev :=
  if 1024 ≤ c then
    (match d.nsEntry (d.cmdNsid c m) with
    | none => d.nvDone c m 0x0B
    | some b => if cmdOp m = 2 then d.nvRead c m b else d.nvWriteTake c m (padTo (d.cmdBytes c m) m.inline))
  else d.nvPointed c m (nvPtr (d.nv c).page m.sqe (d.cmdBytes c m))

/-- A pointer list returns from the host. -/
def Dev.nvListDone (d : Dev) (c id : Nat) (ok : Bool) (data : Bytes) : Dev :=
  match d.cmdOf c id with
  | none => d
  | some m => if m.phase ≠ 1 then d else if !ok then d.nvDone c m 0x04 else d.nvPointed c m (nvPtrCont (d.nv c).page m.sqe m.segs m.rem data)

/-- Data of a write returns from the host; with the last of it the write is taken (R282). -/
def Dev.nvDataDone (d : Dev) (c id seg : Nat) (ok : Bool) (data : Bytes) : Dev :=
  match d.cmdOf c id with
  | none => d
  | some m =>
    if m.phase ≠ 2 ∨ ¬ m.need.contains seg then d
    else if !ok then d.nvDone c m 0x04
    else
      let m' := { m with need := m.need.filter (· != seg), data := SMap.put m.data seg (padTo (m.segs.getD seg (0, 0)).2 data) }
      let e := d.setCmd c id (fun _ => m')
      if m'.need = [] then e.nvWriteTake c m' (m'.data.map (·.2)).flatten else e

/-! ## The commands -/

/-- The first command of a kind that has not been dispatched. -/
def Dev.nvFirst (d : Dev) (c : Nat) (admin : Bool) (p : Nat → Bool) : Option NvCmd :=
  (d.nv c).cmds.find? (fun m => (m.phase == 0 || m.phase == 6) && nvAdmin m == admin && p (cmdOp m))

/-- A row of R276: the first fetched command of its opcode is handled, unless its controller has stopped; data pointers of Admin commands
are PRPs and reserved or fused forms are refused. -/
def Dev.nvHandle (d : Dev) (c : Nat) (admin : Bool) (p : Nat → Bool) (f : Dev → NvCmd → Dev) : Dev :=
  if !d.nvLive c then d
  else
    match d.nvFirst c admin p with
    | none => d
    | some m =>
      let x := byteAt m.sqe 1
      if d.nvHeld c m then d
      else if x % 4 ≠ 0 ∨ x / 64 = 3 ∨ (admin ∧ x / 64 ≠ 0) then d.nvDone c m 0x02
      else f d m

/-- CREATE_IO_SQ (R276): identifier 1 to 64 not in use, size, a completion queue that stands, contiguous memory. -/
def execCreateIoSq (c : Nat) (s : State) : Host.Outcome State Fault Refusal :=
  .next (s.onDev (fun d => d.nvHandle c true (· == 1) (fun d m =>
    let q := cdw m 10 % 2 ^ 16
    let n := cdw m 10 / 2 ^ 16 + 1
    let k := cdw m 11 / 2 ^ 16
    if k = 0 ∨ !SMap.has (d.nv c).cqs k then d.nvDone c m 0x100
    else if q = 0 ∨ 64 < q ∨ SMap.has (d.nv c).sqs q then d.nvDone c m 0x101
    else if n < 2 then d.nvDone c m 0x102
    else if !bit (cdw m 11) 0 then d.nvDone c m 0x02
    else if le64 m.sqe 24 % (d.nv c).page ≠ 0 then d.nvDone c m 0x13
    else (d.setNvc c (fun x => { x with sqs := SMap.put x.sqs q { base := le64 m.sqe 24, size := n, cq := k } })).nvDone c m 0)))

/-- CREATE_IO_CQ (R276). -/
def execCreateIoCq (c : Nat) (s : State) : Host.Outcome State Fault Refusal :=
  .next (s.onDev (fun d => d.nvHandle c true (· == 5) (fun d m =>
    let q := cdw m 10 % 2 ^ 16
    let n := cdw m 10 / 2 ^ 16 + 1
    let v := cdw m 11 / 2 ^ 16
    if q = 0 ∨ 64 < q ∨ SMap.has (d.nv c).cqs q then d.nvDone c m 0x101
    else if n < 2 then d.nvDone c m 0x102
    else if bit (cdw m 11) 1 ∧ d.msixSize (d.nvFn c) ≤ v then d.nvDone c m 0x108
    else if !bit (cdw m 11) 0 then d.nvDone c m 0x02
    else if le64 m.sqe 24 % (d.nv c).page ≠ 0 then d.nvDone c m 0x13
    else (d.setNvc c (fun x => { x with cqs := SMap.put x.cqs q { base := le64 m.sqe 24, size := n, vector := v, ien := bit (cdw m 11) 1 } })).nvDone c m 0)))

/-- DELETE_IO_SQ (R276): the queue's commands end first. -/
def execDeleteIoSq (c : Nat) (s : State) : Host.Outcome State Fault Refusal :=
  .next (s.onDev (fun d => d.nvHandle c true (· == 0) (fun d m =>
    let q := cdw m 10 % 2 ^ 16
    if q = 0 ∨ !SMap.has (d.nv c).sqs q then d.nvDone c m 0x101
    else
      let e := d.each ((d.nv c).cmds.filter (fun x => x.sq == q)) (fun e x => e.nvDone c x 0x08)
      (e.setNvc c (fun x => { x with sqs := SMap.del x.sqs q })).nvDone c m 0)))

/-- DELETE_IO_CQ (R276): refused while a submission queue uses it. -/
def execDeleteIoCq (c : Nat) (s : State) : Host.Outcome State Fault Refusal :=
  .next (s.onDev (fun d => d.nvHandle c true (· == 4) (fun d m =>
    let q := cdw m 10 % 2 ^ 16
    if q = 0 ∨ !SMap.has (d.nv c).cqs q then d.nvDone c m 0x101
    else if (d.nv c).sqs.any (fun x => x.2.cq == q) then d.nvDone c m 0x10C
    else (d.setNvc c (fun x => { x with cqs := SMap.del x.cqs q })).nvDone c m 0)))

/-- GET_LOG_PAGE (R276). -/
def execGetLogPage (c : Nat) (s : State) : Host.Outcome State Fault Refusal :=
  .next (s.onDev (fun d => d.nvHandle c true (· == 2) (fun d m =>
    if logStop m ≠ 0 then d.nvDone c m (logStop m) else d.nvStart c m)))

/-- IDENTIFY (R276). -/
def execIdentify (c : Nat) (s : State) : Host.Outcome State Fault Refusal :=
  .next (s.onDev (fun d => d.nvHandle c true (· == 6) (fun d m =>
    if (d.identify c m).1 ≠ 0 then d.nvDone c m (d.identify c m).1 else d.nvStart c m)))

/-- Can a command still be aborted (R293). -/
def abortable (m : NvCmd) : Bool :=
  if nvAdmin m then m.phase == 0
  else if cmdOp m = 0 ∨ cmdOp m = 8 then false
  else decide (m.phase ≤ 1) || m.phase == 6

/-- ABORT (R293): four may be outstanding; a command not yet dispatched ends with Command Abort Requested. -/
def execAbort (c : Nat) (s : State) : Host.Outcome State Fault Refusal :=
  .next (s.onDev (fun d => d.nvHandle c true (· == 8) (fun d m =>
    match ((d.nv c).cmds.filter (fun x => nvAdmin x && cmdOp x == 8))[4]? with
    | some x => d.nvDone c x 0x103
    | none =>
      match (d.nv c).cmds.find? (fun x => x.id != m.id && x.sq == cdw m 10 % 2 ^ 16 && x.cid == cdw m 10 / 2 ^ 16 && abortable x) with
      | some x => ((d.nvDone c x 0x07).count R.NV_ABORT_OK).nvDone c m 0
      | none => (d.count R.NV_ABORT_LATE).nvDone c m 0 1)))

/-- The features of R276. -/
def nvFids : List Nat := [1, 2, 4, 6, 7, 8, 9, 0x0A, 0x0B]

/-- The place of a feature's value: feature and, for Temperature Threshold and Interrupt Vector Configuration, what selects it. -/
def featKey (fid v : Nat) : Nat := fid + 256 * (if fid = 4 then v / 2 ^ 16 % 64 else if fid = 9 then v % 2 ^ 16 else 0)

/-- The value of a feature that has not been set. -/
def featDefault (fid v : Nat) : Nat :=
  if fid = 2 then 0 else if fid = 6 then 1 else if fid = 7 then 63 + 63 * 2 ^ 16 else if fid = 9 then v % 2 ^ 16
  else Config.nvFeature fid (featKey fid v / 256)

/-- SET_FEATURES (R276, R295): power state, write cache and the other features; none can be saved. -/
def execSetFeatures (c : Nat) (s : State) : Host.Outcome State Fault Refusal :=
  .next (s.onDev (fun d => d.nvHandle c true (· == 9) (fun d m =>
    let fid := cdw m 10 % 256
    let v := cdw m 11
    let set (d : Dev) : Dev := d.setNvc c (fun x => { x with feats := SMap.put x.feats (featKey fid v) v })
    if !(nvFids.contains fid) then d.nvDone c m 0x02
    else if bit (cdw m 10) 31 then d.nvDone c m 0x10D
    else if fid = 2 then (if 3 < v % 32 then d.nvDone c m 0x02 else ((set d).wr R.NC_INFO_PS (v % 32) c).nvDone c m 0)
    else if fid = 7 then
      (if v % 2 ^ 16 = 0xFFFF ∨ v / 2 ^ 16 = 0xFFFF then d.nvDone c m 0x02
       else if d.rd R.NC_QUEUES_SQS c ≠ 0 ∨ d.rd R.NC_QUEUES_CQS c ≠ 0 then d.nvDone c m 0x0C
       else d.nvDone c m 0 (63 + 63 * 2 ^ 16))
    else if fid = 9 ∧ d.msixSize (d.nvFn c) ≤ v % 2 ^ 16 then d.nvDone c m 0x02
    else (set d).nvDone c m 0)))

/-- GET_FEATURES (R276): the current value, the default, or what can be done with the feature. -/
def execGetFeatures (c : Nat) (s : State) : Host.Outcome State Fault Refusal :=
  .next (s.onDev (fun d => d.nvHandle c true (· == 0x0A) (fun d m =>
    let fid := cdw m 10 % 256
    let sel := cdw m 10 / 256 % 8
    let v := cdw m 11
    if !(nvFids.contains fid) ∨ 3 < sel ∨ (fid = 9 ∧ d.msixSize (d.nvFn c) ≤ v % 2 ^ 16) then d.nvDone c m 0x02
    else if sel = 3 then d.nvDone c m 0 4
    else if sel ≠ 0 then d.nvDone c m 0 (featDefault fid v)
    else d.nvDone c m 0 (SMap.getD (d.nv c).feats (featKey fid v) (featDefault fid v)))))

/-- ASYNCHRONOUS_EVENT_REQUEST (R276): it waits for an event. -/
def execAsynchronousEventRequest (c : Nat) (s : State) : Host.Outcome State Fault Refusal :=
  .next (s.onDev (fun d => d.nvHandle c true (· == 0x0C) (fun d m =>
    if Config.nvAerl < (d.nv c).aers.length then d.nvDone c m 0x105
    else Dev.nvEvents c 1 (d.setNvc c (fun x => { x with cmds := x.cmds.filter (fun y => y.id != m.id), aers := x.aers ++ [(0, m.cid)] })))))

/-- NVME_READ (R283): each block from the buffer or its backend. -/
def execNvmeRead (c : Nat) (s : State) : Host.Outcome State Fault Refusal :=
  .next (s.onDev (fun d => d.nvHandle c false (· == 2) (fun d m =>
    if d.nvStop c m ≠ 0 then d.nvDone c m (d.nvStop c m) else d.nvStart c m)))

/-- Does an earlier fetched write wait for room (R284). -/
def Dev.nvBehind (d : Dev) (m : NvCmd) : Bool := d.nvme.ctrls.any (fun k => k.2.cmds.any (fun x => x.phase == 6 && decide (x.id < m.id)))

/-- A write waits for room in the buffer, or is dispatched. -/
def Dev.nvWriteStart (d : Dev) (c : Nat) (m : NvCmd) (f : Dev → Dev) : Dev :=
  if d.nvStop c m ≠ 0 then d.nvDone c m (d.nvStop c m)
  else if !d.nvRoom c m || d.nvBehind m then d.setCmd c m.id (fun x => { x with phase := 6 })
  else f d

/-- NVME_WRITE (R282, R284). -/
def execNvmeWrite (c : Nat) (s : State) : Host.Outcome State Fault Refusal :=
  .next (s.onDev (fun d => d.nvHandle c false (· == 1) (fun d m => d.nvWriteStart c m (fun d => d.nvStart c m))))

/-- WRITE_ZEROES (R276): a write of zero blocks. -/
def execWriteZeroes (c : Nat) (s : State) : Host.Outcome State Fault Refusal :=
  .next (s.onDev (fun d => d.nvHandle c false (· == 8) (fun d m => d.nvWriteStart c m (fun d => d.nvWriteTake c m (List.replicate (d.cmdBytes c m) 0#8)))))

/-- FLUSH (R285): it completes when what its namespaces' writes left before its fetch is on media; at once with the write cache disabled. -/
def execFlush (c : Nat) (s : State) : Host.Outcome State Fault Refusal :=
  .next (s.onDev (fun d => d.nvHandle c false (· == 0) (fun d m =>
    let n := d.cmdNsid c m
    let st := if n = 0xFFFFFFFF ∧ c < 1024 then (if d.on R.NV_STATUS_MAP_DONE then 0 else 0x82) else d.nsStop c n
    if st ≠ 0 then d.nvDone c m st
    else if c < 1024 ∧ SMap.getD (d.nv c).feats 6 1 % 2 = 0 then d.nvDone c m 0
    else (d.setCmd c m.id (fun x => { x with phase := 4 })).nvMedia)))

/-- DATASET_MANAGEMENT (R276): it completes and changes no data. -/
def execDatasetManagement (c : Nat) (s : State) : Host.Outcome State Fault Refusal :=
  .next (s.onDev (fun d => d.nvHandle c false (· == 9) (fun d m => d.nvDone c m (d.nsStop c (d.cmdNsid c m)))))

/-- INVALID_COMMAND_OPCODE (R276): every other opcode. -/
def execInvalidCommandOpcode (c : Nat) (s : State) : Host.Outcome State Fault Refusal :=
  .next (s.onDev (fun d =>
    let bad (d : Dev) (m : NvCmd) : Dev := d.nvDone c m 0x01
    match d.nvFirst c true (fun o => !(adminOps.contains o)) with
    | some _ => d.nvHandle c true (fun o => !(adminOps.contains o)) bad
    | none => d.nvHandle c false (fun o => !(nvmOps.contains o)) bad))

/-! ## Shutdown (R278) -/

/-- Is a shutdown over: the controller's commands have completed, its completed writes are on media. -/
def Dev.nvQuiet (d : Dev) (c : Nat) : Bool :=
  (d.nv c).cmds.isEmpty && !d.nvme.dirty.any (fun x => x.blocks.any (fun k => SMap.has k.2.ctrls c))

/-- SHST reaches 10b; also asked at each event tick. -/
def Dev.nvShut (d : Dev) (c : Nat) : Dev := d.when (d.rd R.NC_INFO_SHST c == 1 && d.nvQuiet c) (fun e => e.wr R.NC_INFO_SHST 2 c)

/-- SHUTDOWN_NOTIFICATION (R278): CC.SHN = 01b or 10b. -/
def execShutdownNotification (c shn : Nat) (s : State) : Host.Outcome State Fault Refusal :=
  .next (s.onDev (fun d =>
    if !d.storOn || !d.on R.NC_INFO_EN c || decide (d.rd R.NC_INFO_SHST c ≠ 0) || !d.inService (d.nvFn c) then d
    else ((d.setNvc c (fun x => { x with cc := x.cc % 2 ^ 14 + shn * 2 ^ 14 + x.cc / 2 ^ 16 * 2 ^ 16 })).wr R.NC_INFO_SHST 1 c).nvShut c))

/-! ## The map, the power-fail sequence and the vault -/

/-- NS_MAP_DONE (R281): the extent map has been reloaded. -/
def execNsMapDone (s : State) : Host.Outcome State Fault Refusal :=
  .next (s.onDev (fun d => d.when d.storOn (fun e => e.flag R.NV_STATUS_MAP_DONE)))

/-- Has the vault a drive (R296). -/
def Dev.vaultOk (d : Dev) : Bool :=
  let b := d.objNat 0x4100 3 0xFFFF
  byteAt (d.backendBytes b) 0 == 1 && d.backendOk b

/-- PWR_FAIL (R296): the class 1 event; commands end without completion; dirty extents of local drives are written to them. -/
def execPwrFail (s : State) : Host.Outcome State Fault Refusal :=
  .next (s.onDev (fun d =>
    if !d.unit 2 then { d with pins := { d.pins with pfDone := true } }
    else if d.on R.NV_STATUS_PF_ACTIVE || d.nvme.pfDone then d
    else
      let e := d.raise 1 (srcNum 0x17 0)
      if e.rst.active.contains 5 then e
      else
        let e := e.setNv (fun s => { s with ctrls := s.ctrls.map (fun (k : Nat × NvCtrl) => (k.1, { k.2 with cmds := [], reading := false })), reqs := s.reqs.filter (fun r => r.kind == 1) })
        let e := e.each (e.nvme.ctrls.map (·.1)) (fun e c => e.setNvc c id)
        let e := e.each (e.nvme.dirty.filter (fun x => e.onDrive x && !e.destaging x)) Dev.nvDestage
        (e.flag R.NV_STATUS_PF_ACTIVE).wr R.NV_STATUS_SNAP_BUSY 0))

/-- PF_DONE (R296, R297): the result and the duration go to MRAM, the ball is driven high. `vaulted`: every vault write finished. -/
def execPfDone (vaulted : Bool) (ms : Nat) (s : State) : Host.Outcome State Fault Refusal :=
  .next (s.onDev (fun d =>
    if !d.on R.NV_STATUS_PF_ACTIVE then d
    else
      let away := d.nvme.dirty.filter (fun x => !d.onDrive x)
      let near := d.nvme.dirty.any (fun x => d.onDrive x)
      let use := d.vaultOk && away != []
      let r := if use && !vaulted then 3 else if near || (away != [] && !use) then 2 else 1
      let e := { d with mram := { d.mram with pfResult := r + ms % 2 ^ 16 * 256, vault := if use then some (vaulted, away) else d.mram.vault },
                        pins := { d.pins with pfDone := true } }
      (((e.wr R.NV_PF_RESULT_RESULT r).wr R.NV_PF_RESULT_MS (ms % 2 ^ 16)).wr R.NV_STATUS_PF_ACTIVE 0).setNv (fun s => { s with pfDone := true })))

/-- VAULT_RESTORE (R298): a vault that was finished is reloaded into the buffer; then enabled controllers report ready. -/
def execVaultRestore (s : State) : Host.Outcome State Fault Refusal :=
  .next (s.onDev (fun d =>
    if !d.storOn || !d.on R.NV_STATUS_VAULT_RESTORE then d
    else
      let l := match d.mram.vault with
        | some (true, l) => l
        | _ => []
      let e := (d.setNv (fun s => { s with dirty := s.dirty ++ l })).dirtyCount
      let e := { e with mram := { e.mram with vault := none } }
      (e.wr R.NV_STATUS_VAULT_RESTORE 0).each ((List.range e.nvCount).filter (fun c => e.on R.NC_INFO_EN c && !e.on R.NC_INFO_CFS c)) (fun x c => x.flag R.NC_INFO_RDY c)))

/-! ## Reset of G5, and what STOR is doing -/

/-- The registers that follow what a reset of the group leaves: buffer, map, results, controllers (R287, R297). -/
def Dev.nvRegs (d : Dev) : Dev :=
  (((d.wr R.NV_CTRL_COUNT d.nvCount).wr R.NV_PF_RESULT_RESULT (d.mram.pfResult % 4)).wr R.NV_PF_RESULT_MS (d.mram.pfResult / 256)).wr R.NV_BUF_DIRTY
    (d.dirtyBytes / 1024) |>.each (List.range d.nvCount) (fun e c => e.wr R.NC_INFO_FUNC (e.nvFn c) c)

/-- What a reset of G5 does to STOR, its registers at their reset values: controllers that were enabled have a fatal status, their commands are gone;
buffer, map and FAILED backends stand (R287). `en`: the controllers that were enabled. -/
def Dev.nvStorReset (d : Dev) (en : List Nat) (mapDone : Bool) : Dev :=
  let e := d.setNv (fun s => { s with
    ctrls := s.ctrls.map (fun (k : Nat × NvCtrl) => (k.1, { k.2 with cmds := [], sqs := [], cqs := [], aers := [], events := [], reading := false })),
    reqs := [], retry := [], inbox := [], pfDone := false })
  let e := (e.each en (fun x c => ((x.flag R.NC_INFO_EN c).flag R.NC_INFO_RDY c).flag R.NC_INFO_CFS c)).wr R.NV_STATUS_MAP_DONE (b2n mapDone)
  { e with hide := { e.hide with segs := e.hide.segs.map (fun (g : HideSeg) => if e.rd R.HD_DRAIN = 2 then { g with sent := false } else g) } }

/-- G5 leaves reset: storage objects are reapplied (R302), a cold reset asks for the vault (R298). -/
def Dev.nvStorExit (d : Dev) (cold : Bool) : Dev :=
  let e := ((d.wr R.NV_DIRTY_MAX (d.objNat 0x4100 1 4128768)).wr R.DS_MODE (d.objNat 0x4100 2 0)).nvRegs
  e.when (cold && (match d.mram.vault with | some (true, _) => true | _ => false)) (fun e => e.flag R.NV_STATUS_VAULT_RESTORE)

/-- Does STOR have work that keeps it from going deeper than HOLD (R295). -/
def Dev.nvmeBusy (d : Dev) : Bool :=
  d.nvme.ctrls.any (fun k => !k.2.cmds.isEmpty) || d.nvme.dirty != [] || d.rd R.HD_DRAIN == 2 ||
    (List.range 8).any (fun n => d.on R.CS_CTRL_EN n && d.rd R.CS_CTRL_DEST n == 2)

end Sys2Proof.Machine
end

