-- ==== Sys2Proof/Machine/HostFn.lean ====
section
/-!
DEFINITION. Chapter 8: links (R197, R198), function disable and return (R212-R217), MSI-X masking (R207), configuration requests (R390),
allocations (R218), host memory reads that return (R213, R227).
-/
namespace Sys2Proof.Machine

/-! ## What a function holds -/

/-- Its rings, event queues and queue pairs that are enabled or hold anything. -/
def Dev.fnRings (d : Dev) (fn : Nat) : List Nat :=
  let mine (r : Nat) : Bool := d.ringOwner r == some fn
  ((d.regs.chans R.RG_CTRL_ENABLE ++ d.host.rings.map (·.1) ++ d.host.rx.map (·.1) ++ d.regs.chans R.RG_STATUS_IDLE).filter mine).eraseDups
def Dev.fnEqs (d : Dev) (fn : Nat) : List Nat := ((d.regs.chans R.EQ_CTRL_ENABLE).filter (fun q => d.eqOwner q == some fn)).eraseDups
def Dev.fnQps (d : Dev) (fn : Nat) : List Nat :=
  ((d.regs.chans R.IQ_CTRL_ENABLE ++ d.regs.chans R.IQ_STATUS_STATE ++ d.ira.qps.map (·.1)).filter (fun q => d.qpOwner q == some fn)).eraseDups

/-- The VFs of a PF that VF Enable has enabled. -/
def Dev.fnVfs (d : Dev) (pf : Nat) : List Nat :=
  (List.range (d.fn pf).vfEn).map (fun k => 8 + (d.host.vfs.take pf).sum + k)

/-- Every function of a link that is present. -/
def Dev.linkFns (d : Dev) (link : Nat) : List Nat := (List.range d.fnNum).filter (fun n => d.fnPresent n && d.fnLink n == link)

/-! ## Function disable (R213, R214) -/

/-- Frames of discarded jobs leave Rein's queues and launch lists; one on the wire finishes. -/
def Dev.dropFrames (d : Dev) (ids : List Nat) : Dev :=
  let mine (f : Frame) : Bool := match f.job with
    | some j => ids.contains j
    | none => false
  let e := d.each (d.rein.queues.filter (fun q => q.2.any mine)) (fun e q =>
    let n := ((q.2.filter mine).map (·.len)).sum
    let l := q.2.filter (fun f => !mine f)
    let e := e.setRein (fun r => if l = [] then { r with queues := SMap.del r.queues q.1, defQ := SMap.del r.defQ q.1 } else { r with queues := SMap.put r.queues q.1 l })
    (e.wr R.QS_DEPTH (e.rd R.QS_DEPTH q.1 - n) q.1).bufUse (e.rein.used - n))
  let e := e.each (List.range 16) (fun e p => e.each (List.range 8) (fun x tc => x.tcEmpty p tc))
  e.each e.rein.launch (fun e q =>
    let n := ((q.2.filter mine).map (·.len)).sum
    (e.setRein (fun r => { r with launch := SMap.put r.launch q.1 (q.2.filter (fun f => !mine f)) })).bufUse (e.rein.used - n))

/-- Add to a count of the last disable and to the total (R217). -/
def Dev.disc (d : Dev) (f : Field) (n fn : Nat) : Dev := if n = 0 then d else (d.count f n fn).count R.FN_DISC_TOTAL n fn

/-- A ring stops: its jobs and waiting frames are discarded; ENABLE clears. -/
def Dev.ringKill (fn : Nat) (d : Dev) (r : Nat) : Dev :=
  let js := (d.ring r).jobs
  let rx := (SMap.getD d.host.rx r []).length
  let e := ((d.dropFrames (js.map (·.id))).disc R.FN_DISC_SUBMIT js.length fn).disc R.FN_DISC_RX rx fn
  let e := e.disc R.FN_DISC_NOTIFY (b2n (e.on R.RG_STATUS_NOTIFY_PENDING r)) fn
  let e := e.setHost (fun h => { h with rings := SMap.del h.rings r, rx := SMap.del h.rx r })
  (((e.wr R.RG_CTRL_ENABLE 0 r).wr R.RG_STATUS_NOTIFY_PENDING 0 r).wr R.RG_STATUS_WAITING 0 r).flag R.RG_STATUS_IDLE r

/-- An event queue stops. -/
def Dev.eqKill (fn : Nat) (d : Dev) (q : Nat) : Dev :=
  (d.disc R.FN_DISC_NOTIFY (b2n (d.on R.EQ_STATUS_OVF_PENDING q)) fn).eqDisable q

/-- Has a job begun: bytes of a READ, or the result of an atomic, have been written. -/
def IraJob.begun (j : IraJob) : Bool := sqReads (descOp j.desc) && (j.got != [] || j.status == some 0)

/-- A queue pair stops (R214): a job that has begun and has all its data writes its completion, one that has not all of it ends as partial, the
others are discarded; inbound packets not yet placed are discarded as in error (R249). -/
def Dev.qpStop (fn : Nat) (d : Dev) (q : Nat) : Dev :=
  let x := d.qp q
  let e := d.each (x.jobs.filter (fun j => j.begun && j.status == some 0)) (fun e j => e.wqCpl false q j.idx 0 j.desc (j.body 0 0))
  let e := (e.disc R.FN_DISC_SUBMIT (x.jobs.filter (fun j => !j.begun)).length fn).disc R.FN_DISC_PARTIAL
    (x.jobs.filter (fun j => j.begun && j.status != some 0)).length fn
  ((e.disc R.FN_DISC_RX x.unplaced fn).count R.IQ_ERR_DROP x.unplaced q).qpKill q

/-- The commands of an NVMe function end (R278). -/
def Dev.nvStopFn (d : Dev) (fn : Nat) : Dev :=
  if d.fnType fn ≠ 2 then d
  else
    let c := d.nvOf fn
    (d.nvDiscard c).disc R.FN_DISC_SUBMIT (d.nv c).cmds.length fn

/-- A cause reaches HOST: `code` of R212; `step5` 1 for an FLR, 2 for R198, whose step 5 follows at IDLE. One that arrives during a
disable joins it (R216). -/
def Dev.fnDisable (d : Dev) (fn code step5 : Nat) : Dev :=
  if !d.fnPresent fn then d
  else if d.on R.FN_STATUS_DISABLING fn then d.setFn fn (fun f => { f with step5 := if f.step5 = 0 then step5 else if step5 = 0 then f.step5 else min f.step5 step5 })
  else
    let e := ((((d.flag R.FN_STATUS_DISABLING fn).wr R.FN_STATUS_IDLE 0 fn).wr R.FN_STATUS_CAUSE code fn).count R.FN_DISABLES 1 fn)
    let e := [R.FN_DISC_SUBMIT, R.FN_DISC_RX, R.FN_DISC_NOTIFY, R.FN_DISC_PARTIAL].foldl (fun e f => e.wr f 0 fn) e
    let e := e.setFn fn (fun f => { f with step5 := step5, since := e.tk.etick })
    let e := e.each (e.fnRings fn) (Dev.ringKill fn)
    let e := e.each (e.fnEqs fn) (Dev.eqKill fn)
    let e := (e.each (e.fnQps fn) (Dev.qpStop fn)).nvStopFn fn
    { e with fnOut := e.fnOut.filter (· != fn) ++ [fn] }

/-- FLR (R212, R216): of a PF, its VFs are disabled too. -/
def execFlr (fn : Nat) (s : State) : Host.Outcome State Fault Refusal :=
  .next (s.onDev (fun d => (d.fnDisable fn 1 1).each (if fn < 8 then d.fnVfs fn else []) (fun e v => e.fnDisable v 2 0)))

/-- VF_ENABLE_CLEAR (R212). -/
def execVfEnableClear (pf : Nat) (s : State) : Host.Outcome State Fault Refusal :=
  .next (s.onDev (fun d => (d.each (d.fnVfs pf) (fun e v => e.fnDisable v 2 0)).setFn pf (fun f => { f with vfOff := true })))

/-- BME_CLEAR (R212). -/
def execBmeClear (fn : Nat) (s : State) : Host.Outcome State Fault Refusal :=
  .next (s.onDev (fun d => (d.wr R.FN_INFO_BME 0 fn).fnDisable fn 3 0))

/-- D3HOT_ENTRY (R212). -/
def execD3hotEntry (fn : Nat) (s : State) : Host.Outcome State Fault Refusal :=
  .next (s.onDev (fun d => (d.setFn fn (fun f => { f with d3 := true })).fnDisable fn 5 0))

/-- QUIESCE (R212, Table 8.9): PF0 or a core sets FN_CTRL.QUIESCE. -/
def Dev.quiesce (d : Dev) (fn : Nat) : Dev :=
  if d.on R.FN_CTRL fn ∨ (d.fnType fn = 2 ∧ ¬ d.unit 2) then d else (d.flag R.FN_CTRL fn).fnDisable fn 6 0
def execQuiesce (req fn : Nat) (s : State) : Host.Outcome State Fault Refusal :=
  .next (s.onDev (fun d => if req = 0 ∨ isHart req then (d.sampleWrite req fn).quiesce fn else d))

/-- A link goes down and retrains (R198): every function of it is disabled. -/
def Dev.linkDrop (d : Dev) (link : Nat) : Dev :=
  let e := (d.when (d.on R.PC_LINK_UP link) (fun e => e.flag R.PC_EVENTS_LINK_CHG link)).wr R.PC_LINK_UP 0 link
  (e.count R.PC_RETRAIN 1 link).each (e.linkFns link) (fun e fn => e.fnDisable fn 4 2)

/-- LINK_RESET (R198): kind 0 a Hot Reset, 1 DL_Down, 2 the link's PERST alone in split form. -/
def execLinkReset (link kind : Nat) (s : State) : Host.Outcome State Fault Refusal :=
  .next (s.onDev (fun d =>
    if d.hostReset || (link == 1 && !d.on R.PC_MODE) || (kind == 2 && !d.on R.PC_MODE) then d
    else
      let e := d.when (kind == 0) (fun e => e.flag R.PC_EVENTS_HOT_RESET link)
      (e.when (kind == 1) (fun e => e.flag R.PC_EVENTS_DL_DOWN link)).linkDrop link))

/-- PCIE_LINK_UP (R198, Table 8.12). -/
def execPcieLinkUp (link speed width : Nat) (flit : Bool) (s : State) : Host.Outcome State Fault Refusal :=
  .next (s.onDev (fun d =>
    if d.hostReset || (link == 1 && !d.on R.PC_MODE) then d
    else
      let full := if d.on R.PC_MODE then 8 else 16
      let e := d.when (!d.on R.PC_LINK_UP link) (fun e => e.flag R.PC_EVENTS_LINK_CHG link)
      ((((e.wr R.PC_LINK_SPEED speed link).wr R.PC_LINK_WIDTH width link).flag R.PC_LINK_UP link).wr R.PC_LINK_FLIT (b2n flit) link).wr
        R.PC_LINK_DEGRADED (b2n (decide (speed < 3 ∨ width < full))) link))

/-! ## Step 5, idle and return (R213, R215, R216) -/

/-- The entries of the register file that belong to a channel of a block. -/
def inBlock (blk c : Nat) (k : Key) : Bool := k.addr / 2 ^ 20 == blk && k.chan == c

/-- The enclave slots of a set of owners are free, their buffers zero (R403). -/
def Dev.esFree (d : Dev) (own : Nat → Bool) : Dev :=
  let ks := (List.range 8).filter (fun k => d.on R.ES_STATUS_CLAIMED k && own (d.rd R.ES_STATUS_OWNER k))
  { d with regs := d.regs.filter (fun x => !(x.1.addr / 2 ^ 20 == 0x0D0 && decide (0x1000 ≤ x.1.addr % 2 ^ 20) && ks.contains x.1.chan))
           encl := { d.encl with order := d.encl.order.filter (fun k => !ks.contains k)
                                 testSlot := d.encl.testSlot.filter (fun k => !ks.contains k) } }

/-- What a function's reset returns to reset values: configuration space, window, per-requester state, MSI-X, rings, event queues, queue
pairs. Its allocation stands. -/
def Dev.fnReset (d : Dev) (fn : Nat) : Dev :=
  let rb := d.rd R.FN_RING_BASE fn
  let rc := d.rd R.FN_RING_COUNT fn
  let eb := d.rd R.FN_EQ_BASE fn
  let ec := d.rd R.FN_EQ_COUNT fn
  let qb := d.rd R.FN_QP_BASE fn
  let qc := d.rd R.FN_QP_COUNT fn
  let gone (k : Key) : Bool :=
    k.req == fn + 1 || (k.addr / 2 ^ 20 == 0x052 && decide (rb ≤ k.chan ∧ k.chan < rb + rc)) ||
      (k.addr / 2 ^ 20 == 0x053 && decide (eb ≤ k.chan ∧ k.chan < eb + ec)) || (k.addr / 2 ^ 20 == 0x060 && decide (qb ≤ k.chan ∧ k.chan < qb + qc))
  let e := ({ d with regs := d.regs.filter (fun x => !gone x.1), tb := { d.tb with incrLo := d.tb.incrLo.filter (fun x => x.1 != fn) } }.wr R.FN_INFO_BME 0 fn).wr R.FN_INFO_MSIX_EN 0 fn
  let e := (e.setFn fn (fun _ => { since := (d.fn fn).since })).esFree (fun o => o == fn)
  e.when (d.fnType fn == 2) (fun e => e.nvFnReset (d.nvOf fn))

/-- IDLE sets: the class 11 event, source HOST local 1. -/
def Dev.fnIdle (d : Dev) (fn : Nat) : Dev :=
  (((d.wr R.FN_STATUS_DISABLING 0 fn).flag R.FN_STATUS_IDLE fn).flag R.FN_STATUS_IDLE_CHG fn).raise 11 (srcNum 0x0B 1) fn

/-- Functions of a link whose step 5 waits for the others. -/
def Dev.linkPending (d : Dev) (link : Nat) : List Nat := d.fnOut.filter (fun n => (d.fn n).step5 == 2 && d.fnLink n == link)

/-- FUNCTION_IDLE (R213): no read of the function is outstanding and, for a PF under FLR, its VFs are IDLE. -/
def execFunctionIdle (fn : Nat) (s : State) : Host.Outcome State Fault Refusal :=
  .next (s.onDev (fun d =>
    if !d.on R.FN_STATUS_DISABLING fn || d.host.reads.any (fun r => r.fn == fn) ||
        ((d.fn fn).step5 == 1 && decide (fn < 8) && (d.fnVfs fn).any (fun v => d.on R.FN_STATUS_DISABLING v)) then d
    else
      let e := d.fnIdle fn
      if (e.fn fn).step5 = 1 then e.fnReset fn
      else
        let l := e.linkPending (e.fnLink fn)
        if l.any (fun n => e.on R.FN_STATUS_DISABLING n) then e else e.each l Dev.fnReset))

/-- Does a cause of R212 remain. -/
def Dev.fnHeld (d : Dev) (fn : Nat) : Bool :=
  let f := d.fn fn
  !d.on R.FN_STATUS_IDLE fn || f.step5 != 0 || f.d3 || d.on R.FN_CTRL fn || !d.on R.FN_INFO_BME fn || !d.on R.PC_LINK_UP (d.fnLink fn) ||
    !d.fnPresent fn || (decide (8 ≤ fn) && (d.fn (d.fnPf fn)).vfOff)

/-- FUNCTION_RETURN (R215). -/
def execFunctionReturn (fn : Nat) (s : State) : Host.Outcome State Fault Refusal :=
  .next (s.onDev (fun d => if d.hostReset || d.fnHeld fn then d else { d with fnOut := d.fnOut.filter (· != fn) }))

/-! ## MSI-X and configuration requests -/

/-- Pending vectors that are unmasked are sent, in order. -/
def Dev.msixRelease (d : Dev) (fn : Nat) : Dev :=
  let l := (d.fn fn).pba.filter (fun v => !d.msixMasked fn v)
  if !d.on R.FN_INFO_MSIX_EN fn || d.fnOut.contains fn then d
  else (d.setFn fn (fun f => { f with pba := f.pba.filter (fun v => !l.contains v) })).each l (fun e v => e.msixSend fn v)

/-- MSIX_UNMASK (R207): the host writes the table entry of a vector, whose mask bit it may clear, or clears Function Mask; what is pending
and no longer masked is sent. -/
def execMsixUnmask (fn : Nat) (entry : Option (Nat × Bytes)) (s : State) : Host.Outcome State Fault Refusal :=
  .next (s.onDev (fun d =>
    if !d.inService fn then d
    else
      match entry with
      | none => (d.setFn fn (fun f => { f with mask := false })).msixRelease fn
      | some (v, b) => if d.msixSize fn ≤ v then d else (d.setFn fn (fun f => { f with table := SMap.put f.table v b })).msixRelease fn))

/-- What FN_INFO shows of a function. -/
def Dev.fnShow (d : Dev) (fn : Nat) : Dev :=
  (((((d.wr R.FN_INFO_PF (d.fnPf fn) fn).wr R.FN_INFO_IS_VF (b2n (decide (8 ≤ fn))) fn).wr R.FN_INFO_PRESENT (b2n (d.fnPresent fn)) fn).wr
    R.FN_INFO_LINK (d.fnLink fn) fn).wr R.FN_INFO_TYPE (d.fnType fn) fn).wr R.FN_INFO_VF_NUM (d.fnVf fn) fn

/-- CONFIG_REQUEST (R390, R207, R215): Request Retry Status, returned as 1, until DONE and the end of a cold reset's reapplication (R434); the recovery function alone answers before (R385). -/
def execConfigRequest (fn : Nat) (op : ConfigOp) (s : State) : Host.Outcome State Fault Refusal :=
  .next (s.onDev (fun d =>
    let rec' := fn == 0 && (d.rd R.BT_STATUS_BOOT_ERR == 0x0C || d.rd R.BT_STATUS_BOOT_ERR == 0x0D)
    if d.hostReset || !(d.on R.BT_STATUS_DONE && !d.rst.booting || rec') then d.ret 1
    else if !d.fnPresent fn then d.ret 0
    else
      (match op with
      | .read => d
      | .busMaster => d.flag R.FN_INFO_BME fn
      | .msixEnable on => (d.wr R.FN_INFO_MSIX_EN (b2n on) fn).msixRelease fn
      | .functionMask => d.setFn fn (fun f => { f with mask := true })
      | .vfEnable n =>
        if 8 ≤ fn ∨ (d.host.vfs.getD fn 0) < n then d
        else
          let e := d.setFn fn (fun f => { f with vfEn := n, vfOff := false })
          e.each (e.fnVfs fn) (fun e v => e.fnShow v)
      | .d0 => d.setFn fn (fun f => { f with d3 := false })).ret 0))

/-! ## Allocations (R218) -/

/-- The six values of an allocation: ring base, count, event queue base, count, queue pair base, count. -/
def Dev.fnAlloc (d : Dev) (fn : Nat) : List Nat :=
  [R.FN_RING_BASE, R.FN_RING_COUNT, R.FN_EQ_BASE, R.FN_EQ_COUNT, R.FN_QP_BASE, R.FN_QP_COUNT].map (fun f => d.rd f fn)

def allocFields : List Field := [R.FN_RING_BASE, R.FN_RING_COUNT, R.FN_EQ_BASE, R.FN_EQ_COUNT, R.FN_QP_BASE, R.FN_QP_COUNT]

/-- Is any ring, event queue or queue pair of a function enabled. -/
def Dev.fnEnabled (d : Dev) (fn : Nat) : Bool :=
  (d.regs.chans R.RG_CTRL_ENABLE).any (fun r => d.ringOwner r == some fn) || (d.regs.chans R.EQ_CTRL_ENABLE).any (fun r => d.eqOwner r == some fn) ||
    (d.regs.chans R.IQ_CTRL_ENABLE).any (fun r => d.qpOwner r == some fn)

/-- Does a range meet another function's. -/
def Dev.rangeMeets (d : Dev) (fn : Nat) (base count : Field) (b c : Nat) : Bool :=
  decide (0 < c) && (d.regs.chans count).any (fun f => f != fn && decide (b < d.rd base f + d.rd count f ∧ d.rd base f < b + c))

/-- Doorbell pages in force of a function. -/
def Dev.dbPages (d : Dev) (fn : Nat) : Nat := (if fn < 8 then d.host.pfDb else d.host.vfDb).getD (d.fnPf fn) 0

/-- Why an allocation is refused, 0 where it is not. -/
def Dev.allocCause (d : Dev) (fn : Nat) (a : List Nat) : Nat :=
  let g (i : Nat) : Nat := a.getD i 0
  if d.fnEnabled fn then 1
  else if d.rangeMeets fn R.FN_RING_BASE R.FN_RING_COUNT (g 0) (g 1) || d.rangeMeets fn R.FN_EQ_BASE R.FN_EQ_COUNT (g 2) (g 3) ||
    d.rangeMeets fn R.FN_QP_BASE R.FN_QP_COUNT (g 4) (g 5) then 2
  else if 65536 < g 0 + g 1 ∨ 16384 < g 2 + g 3 ∨ 4194304 < g 4 + g 5 then 3
  else if 512 * d.dbPages fn < g 1 then 4
  else 0

/-- Apply an allocation. -/
def Dev.allocPut (d : Dev) (fn : Nat) (a : List Nat) : Dev := (List.range 6).foldl (fun e i => e.wr (allocFields.getD i R.FN_RING_BASE) (a.getD i 0) fn) d

/-- FN_ALLOC_WRITE (R218): register `i` of the six takes a value, or the write is refused with its cause. -/
def execFnAllocWrite (req fn i value : Nat) (s : State) : Host.Outcome State Fault Refusal :=
  .next (s.onDev (fun d =>
    if !devSpace req || decide (d.fnNum ≤ fn) || (d.fnType fn == 2 && !d.unit 2) then d
    else
      let a := (d.fnAlloc fn).set i (value % 2 ^ (allocFields.getD i R.FN_RING_BASE).width)
      let c := d.allocCause fn a
      let e := d.sampleWrite req value
      if c ≠ 0 then (e.flag R.FN_GSTATUS_WR_REFUSED).wr R.FN_GSTATUS_CAUSE c else e.allocPut fn a))

/-! ## Host memory reads -/

/-- READ_TAG_RETIRE (R213): a read of a function that was disabled 5 ms ago, still outstanding. -/
def execReadTagRetire (id : Nat) (s : State) : Host.Outcome State Fault Refusal :=
  .next (s.onDev (fun d =>
    match d.host.reads.find? (fun r => r.id == id) with
    | none => d
    | some r =>
      if d.inService r.fn || decide (d.tk.etick < (d.fn r.fn).since + 625000) then d
      else d.setHost (fun h => { h with reads := h.reads.filter (fun x => x.id != id), retired := SMap.put h.retired id (d.fnLink r.fn) })))

/-- A read returns to what asked for it. -/
def Dev.readBack (d : Dev) (w : ReadFor) (ok : Bool) (data : Bytes) : Dev :=
  match w with
  | .tx r j i => d.txData r j i ok data
  | .iraJob q i => d.iraData q i ok data
  | .iraExec q => d.iraExecDone q ok data
  | .nvmeSqe c q h => d.nvSqe c q h ok data
  | .nvmeList c m => d.nvListDone c m ok data
  | .nvmeData c m i => d.nvDataDone c m i ok data

/-- HOST_READ_COMPLETION (R213, R227): a read returns with its data, or fails or times out; one whose tag was retired is late, one of a
disabled function is discarded. -/
def execHostReadCompletion (id : Nat) (ok : Bool) (data : Bytes) (s : State) : Host.Outcome State Fault Refusal :=
  .next (s.onDev (fun d =>
    match SMap.get? d.host.retired id with
    | some l => (d.count R.PC_LATE_CPL 1 l).setHost (fun h => { h with retired := SMap.del h.retired id })
    | none =>
      match d.host.reads.find? (fun r => r.id == id) with
      | none => d
      | some r =>
        let e := d.setHost (fun h => { h with reads := h.reads.filter (fun x => x.id != id) })
        if e.inService r.fn then e.readBack r.what ok (padTo r.len data) else e))

end Sys2Proof.Machine
end

