-- ==== Sys2Proof/Machine/Trig.lean ====
section
/-!
DEFINITION. Chapter 3: triggers (R90-R92, Tables 3.1 and 3.9), PPS_OUT (R93), captures (R94).
-/
namespace Sys2Proof.Machine

def Dev.setTrig (d : Dev) (f : TrigState → TrigState) : Dev := { d with trig := f d.trig }
def Dev.tt (d : Dev) (n : Nat) : Trigger := SMap.getD d.trig.trigs n {}
def Dev.setTt (d : Dev) (n : Nat) (f : Trigger → Trigger) : Dev := d.setTrig (fun x => { x with trigs := SMap.upd x.trigs n {} f })

/-- The counter at the end of the present tick. -/
def Dev.nowEnd (d : Dev) : Nat := d.nowAt 8

/-- The TIME cycle of the present tick, 0 to 7, in which the counter reaches a time. -/
def Dev.cycleOf (d : Dev) (t : Nat) : Nat := ((List.range 8).find? (fun k => decide (t ≤ d.nowAt k))).getD 7

/-- TT_NEXT follows. -/
def Dev.ttNext (d : Dev) (n : Nat) : Dev :=
  d.wr R.TT_NEXT (match (d.tt n).next with
    | some t => time96Of t
    | none => 0) n

/-! ## Arming (R91, R92) -/

def Dev.ttStart (d : Dev) (n : Nat) : Nat := d.rd R.TT_START_SEC n * secUnit + d.rd R.TT_START_NS n * nsUnit

/-- Does a target name an absent unit. -/
def Dev.targetAbsent (d : Dev) (t : Nat) : Bool := (bit t 8 && !d.unit 0) || (bit t 9 && !d.unit 4) || (bit t 10 && !d.unit 2)

/-- Is ARM refused. -/
def Dev.armRefused (d : Dev) (n : Nat) : Bool :=
  let w := d.rd R.TT_WIDTH n
  let p := d.rd R.TT_PERIOD n
  decide (w < 8 ∨ (p ≠ 0 ∧ (p < 16 ∨ p ≤ w))) || d.rd R.TT_TARGET n == 0 || d.targetAbsent (d.rd R.TT_TARGET n)

/-- The first occurrence on a grid that is later than an instant. -/
def gridAfter (start period t : Nat) : Nat := if t < start then start else start + ((t - start) / period + 1) * period

/-- ARM takes effect. -/
def Dev.ttArm (d : Dev) (n : Nat) : Dev :=
  let s := d.ttStart n
  let p := d.rd R.TT_PERIOD n * nsUnit
  let rep := d.rd R.TT_REPEAT n
  let past := decide (s < d.now)
  let t : Trigger := {
    next := if past then (if p = 0 then none else some (gridAfter s p d.now)) else some s
    left := if rep = 0 then none else some rep
    late := if past then some (d.tk.etick + 1) else none }
  (((((d.setTt n (fun _ => t)).flag R.TT_CTRL n).flag R.TT_STATUS_ARMED n).wr R.TT_STATUS_DONE 0 n).wr R.TT_FIRED 0 n).wr R.TT_MISSED 0 n |>.ttNext n

/-- TRIGGER_ARM (R91). -/
def execTriggerArm (req n : Nat) (s : State) : Host.Outcome State Fault Refusal :=
  .next (s.onDev (fun d =>
    let e := d.sampleWrite req 1
    if d.on R.TT_STATUS_ARMED n then e
    else if d.armRefused n then e.flag R.TT_STATUS_ARM_REFUSED n
    else e.ttArm n))

/-- A trigger is no longer armed. -/
def Dev.ttStop (d : Dev) (n : Nat) : Dev := (((d.setTt n (fun _ => {})).wr R.TT_CTRL 0 n).wr R.TT_STATUS_ARMED 0 n).ttNext n

/-- TRIGGER_DISARM (R91): further fires stop; a pulse in progress completes. -/
def execTriggerDisarm (req n : Nat) (s : State) : Host.Outcome State Fault Refusal :=
  .next (s.onDev (fun d => (d.sampleWrite req 0).when (d.on R.TT_STATUS_ARMED n) (fun e => e.ttStop n)))

/-! ## Fires (R90, Table 3.9) -/

/-- A fire acts on its targets. -/
def Dev.ttTargets (d : Dev) (n at' : Nat) (late : Bool) : Dev :=
  let t := d.rd R.TT_TARGET n
  let pins := t % 256
  let d := d.when (!late && pins != 0) (fun e =>
    { e with pins := { e.pins with pulses := e.pins.pulses ++ [(n, pins, e.cyc + e.cycleOf at' + e.rd R.TT_WIDTH n)] } })
  let d := d.when (bit t 8) (fun e => e.each ((List.range 16).filter (fun p => bit (e.rd R.TT_PORTS n) p)) (fun x p => x.gateFire p (nsOf at') late))
  let d := d.when (bit t 9) (fun e => e.armWindows n (at' / 65536))
  let d := d.when (bit t 10) Dev.nvSnapAsk
  d.when (bit t 11) (fun e => e.setTrig (fun x => { x with irq := x.irq ++ [srcNum 1 n] }))

/-- One fire: the class 3 event, counts, targets, and the end of REPEAT. -/
def Dev.ttFire (d : Dev) (n at' : Nat) (late : Bool) : Dev :=
  let e := ((d.raise 3 (srcNum 1 n) (b2n late)).count R.TT_FIRED 1 n).wr R.TRIG_FIRED_SUM (setBit (d.rd R.TRIG_FIRED_SUM) n true)
  let e := (e.when late (fun x => x.flag R.TT_STATUS_LATE n)).ttTargets n at' late
  match (d.tt n).left with
  | none => e.ttNext n
  | some k => if k ≤ 1 then (e.ttStop n).flag R.TT_STATUS_DONE n else (e.setTt n (fun t => { t with left := some (k - 1) })).ttNext n

/-- TRIGGER_FIRE (R90): the fire time lies in the present event tick. -/
def execTriggerFire (n : Nat) (s : State) : Host.Outcome State Fault Refusal :=
  .next (s.onDev (fun d =>
    match (d.tt n).next with
    | none => d
    | some t =>
      if !d.on R.TT_STATUS_ARMED n || decide (d.nowEnd ≤ t) then d
      else
        let p := d.rd R.TT_PERIOD n * nsUnit
        (d.setTt n (fun x => { x with next := if p = 0 then none else some (t + p) })).ttFire n t false))

/-- TRIGGER_LATE_FIRE (R92): the tick of the LATE fire has come; it pulses no pin. -/
def execTriggerLateFire (n : Nat) (s : State) : Host.Outcome State Fault Refusal :=
  .next (s.onDev (fun d =>
    match (d.tt n).late with
    | none => d
    | some k => if d.tk.etick < k then d else (d.setTt n (fun x => { x with late := none })).ttFire n d.now true))

/-- A forward step past the next fire of a trigger (Table 3.1): the occurrences jumped over are one LATE fire, the rest are missed and consume
the repeat count. -/
def Dev.ttJump (d : Dev) (new : Nat) (n : Nat) : Dev :=
  match (d.tt n).next with
  | none => d
  | some t =>
    if new ≤ t then d
    else
      let x := d.tt n
      let p := d.rd R.TT_PERIOD n * nsUnit
      let k := if p = 0 then 1 else (new - t + p - 1) / p
      let late := b2n x.late.isSome
      let k' := match x.left with
        | some r => min k (r - late)
        | none => k
      let left := x.left.map (fun r => r - (k' - (1 - late)))
      let next := if p == 0 || (left.getD 2 ≤ 1) then none else some (t + k * p)
      ((d.setTt n (fun x => { x with next := next, left := left, late := if x.late.isSome then x.late else some (d.tk.etick + 1) })).count R.TT_MISSED
        (k' - (1 - late)) n).ttNext n

/-- The steps since the last boundary act on gates and triggers (R74). -/
def Dev.afterSteps (d : Dev) : Dev :=
  if d.tb.jumps = [] then d
  else
    let l := d.tb.jumps
    let e := (d.setTb (fun b => { b with jumps := [] })).gatesStep
    e.each l (fun e j => if j.1 < j.2 then e.each (List.range 16) (fun x n => if x.on R.TT_STATUS_ARMED n then x.ttJump j.2 n else x) else e)

/-- TRIG_OUT_PULSE_END (R90): a pulse of a trigger ends after WIDTH TIME cycles. -/
def execTrigOutPulseEnd (n : Nat) (s : State) : Host.Outcome State Fault Refusal :=
  .next (s.onDev (fun d => { d with pins := { d.pins with pulses := d.pins.pulses.filter (fun p => !(p.1 == n && decide (p.2.2 < d.cyc + 8))) } }))

/-! ## PPS_OUT (R93) -/

/-- Has PPS_OUT already risen for a second. -/
def TrigState.drove (x : TrigState) (s : Nat) : Bool := x.driven.any (fun r => decide (r.1 ≤ s ∧ s ≤ r.2))

/-- Record a second. -/
def putDriven (l : List (Nat × Nat)) (s : Nat) : List (Nat × Nat) :=
  if l.any (fun r => r.2 + 1 == s) then l.map (fun r => if r.2 + 1 = s then (r.1, s) else r) else l ++ [(s, s)]

/-- The edge of a second on the time base: advanced by PPS_OUT_DELAY. -/
def Dev.ppsEdge (d : Dev) (s : Nat) : Int := ((s * secUnit : Nat) : Int) - signed 32 (d.rd R.PPS_OUT_DELAY) * 2 ^ 16

/-- PPS_OUT_SECOND (R93): the edge of a second lies in the present tick: the event, and the rise unless OUT_QUAL holds the pin low. A second whose
edge was driven does not come again, one held low may. -/
def execPpsOutSecond (s : State) : Host.Outcome State Fault Refusal :=
  .next (s.onDev (fun d =>
    let k := (d.now : Int) + signed 32 (d.rd R.PPS_OUT_DELAY) * 2 ^ 16
    let sec := ((k + (secUnit : Int) - 1) / (secUnit : Int)).toNat
    if !d.on R.PPS_CTRL_OUT_EN || d.trig.drove sec || decide ((d.nowEnd : Int) ≤ d.ppsEdge sec) || decide (d.ppsEdge sec < d.now) then d
    else
      let high := !d.on R.PPS_CTRL_OUT_QUAL || decide (2 ≤ d.rd R.TB_STATUS_STATE)
      (d.raise 3 (srcNum 1 16) sec).when high (fun e =>
        { e with pins := { e.pins with ppsOut := true },
                 trig := { e.trig with driven := putDriven e.trig.driven sec, ppsEnd := e.cyc + e.cycleOf (d.ppsEdge sec).toNat + e.rd R.PPS_OUT_WIDTH } })))

/-- PPS_OUT_PULSE_END (R93). -/
def execPpsOutPulseEnd (s : State) : Host.Outcome State Fault Refusal :=
  .next (s.onDev (fun d => if d.pins.ppsOut ∧ d.trig.ppsEnd < d.cyc + 8 then { d with pins := { d.pins with ppsOut := false } } else d))

/-! ## Captures (R94) -/

/-- Is an edge of a channel selected. -/
def Dev.edgeOn (d : Dev) (c : Nat) (rising : Bool) : Bool := d.on R.TS_CTRL_EN c && bit (d.rd R.TS_CTRL_EDGE c) (if rising then 0 else 1)

/-- The time of an edge `sub` sixteenths into a TIME cycle, both delays removed, to the nearest 1/16 ns, halves later. -/
def Dev.edgeTime (d : Dev) (c cycle sub : Nat) : Nat :=
  let t : Int := ((d.nowAt cycle + sub * 2 ^ 28 : Nat) : Int) - (Config.tsDelay (c - 16) + signed 32 (d.rd R.TS_DELAY c)) * 2 ^ 16
  (((t + 2 ^ 27) / 2 ^ 28) % ((tbWrap / 2 ^ 28 : Nat) : Int)).toNat

/-- A capture enters its FIFO, or is lost. -/
def Dev.capture (d : Dev) (c t : Nat) (rising : Bool) : Dev :=
  let l := SMap.getD d.trig.fifos c []
  if 16 ≤ l.length then (d.countSat R.TS_LOST 1 c).flag R.TS_STATUS_OVF c
  else (d.setTrig (fun x => { x with fifos := SMap.put x.fifos c (l ++ [(t, rising)]) })).wr R.TS_STATUS_COUNT (l.length + 1) c

/-- TS_IN_CAPTURE (R94): an edge at TS_IN ball `n`, in TIME cycle `cycle` of the tick, `sub` sixteenths of a nanosecond into it. -/
def execTsInCapture (n : Nat) (rising : Bool) (cycle sub : Nat) (s : State) : Host.Outcome State Fault Refusal :=
  .next (s.onDev (fun d =>
    let c := 16 + n
    if d.edgeOn c rising then (d.capture c (d.edgeTime c cycle sub) rising).raise 11 (srcNum 1 (24 + n)) (b2n rising) else d))

/-- PPS_IN_EDGE (R94, R79): the class 3 event; with SRC = 1 the sample is the time since the nearest whole second. -/
def execPpsInEdge (rising : Bool) (cycle sub : Nat) (s : State) : Host.Outcome State Fault Refusal :=
  .next (s.onDev (fun d =>
    if !d.edgeOn 24 rising then d
    else
      let t := d.edgeTime 24 cycle sub
      let unit := 16 * 10 ^ 9
      let near := (t + unit / 2) / unit * unit
      let e := ((d.capture 24 t rising).raise 3 (srcNum 1 17) t).setTb (fun b => { b with ppsCyc := d.cyc })
      if d.rd R.TB_CTRL_SRC = 1 then
        e.sampleIn { src := 1, gen := d.rd R.TB_STATUS_STEP_GEN, theta := (((t : Int) - (near : Int)) * 4096) }
      else e))

/-- The oldest capture of a channel leaves its FIFO and is latched for a requester; zero when there is none (R94). -/
def Dev.tsPop (d : Dev) (req c : Nat) : Dev :=
  let l := SMap.getD d.trig.fifos c []
  let h := l.headD (0, false)
  let t := h.1 * 2 ^ 28
  let e := (d.setTrig (fun x => { x with fifos := SMap.put x.fifos c l.tail })).wr R.TS_STATUS_COUNT (l.length - 1) c
  let e := (((e.wr R.TS_HEAD0 (tbNs t) c 0 req).wr R.TS_HEAD1 (tbSec t) c 0 req).wr R.TS_HEAD2_SEC_HI (tbSec t >>> 32) c 0 req).wr
    R.TS_HEAD2_SUBNS (tbFrac t >>> 16) c 0 req
  e.wr R.TS_HEAD3 (b2n h.2) c 0 req

/-- TS_HEAD_POP (R94): the oldest capture of a channel is returned and latched for the requester. -/
def execTsHeadPop (req c : Nat) (s : State) : Host.Outcome State Fault Refusal :=
  .next (s.onDev (fun d => let e := d.tsPop req c; e.ret (e.rd R.TS_HEAD0 c 0 req)))

end Sys2Proof.Machine
end

