-- ==== Sys2Proof/Machine/Boot.lean ====
section
/-!
DEFINITION. Chapter 15: bundles and their checks (R380-R382), the boot and its halts (R381-R384), recovery (R385), measurement
(R386), verified regions and the release of processors (R387-R389), key revocation and the security version (R378, R379).
-/
namespace Sys2Proof.Machine

def Dev.setBoot (d : Dev) (f : BootState → BootState) : Dev := { d with boot := f d.boot }

/-- A string of ASCII characters as bytes. -/
def ascii (s : String) : Bytes := s.toList.map (fun c => BitVec.ofNat 8 c.toNat)

/-! ## Fuses (R377) -/

/-- Is a key slot programmed: its digest is not all zero. -/
def keyProgrammed (k : Nat) : Bool := (Config.keyDigest k).any (fun b => b != 0#8)

/-- Is a key slot revoked; one that is not programmed counts as revoked. -/
def Fuses.keyRevoked (z : Fuses) (k : Nat) : Bool := bit z.revoked k || !keyProgrammed k

/-- FUSE_KEYS.REVOKED. -/
def Fuses.revokedMask (z : Fuses) : Nat := ((List.range 4).map (fun k => b2n (z.keyRevoked k) <<< k)).sum

/-- FUSE_KEYS.PROGRAMMED. -/
def programmedMask : Nat := ((List.range 4).map (fun k => b2n (keyProgrammed k) <<< k)).sum

/-- The slots, not revoked, whose digest a public key has. -/
def Fuses.keySlots (z : Fuses) (pk : Bytes) : List Nat :=
  (List.range 4).filter (fun k => !z.keyRevoked k && Config.shake256 pk 32 == Config.keyDigest k)

/-! ## Bundles (R380) -/

/-- 64 MiB, the size of a flash slot. -/
def slotSize : Nat := 64 * 2 ^ 20

/-- Entry `i` of a header (Table 15.2), and its fields. -/
def compEntry (h : Bytes) (i : Nat) : Bytes := slice h (96 + 96 * i) 96
def compType (e : Bytes) : Nat := le16 e 0
def compTarget (e : Bytes) : Nat := le16 e 2
def compOff (e : Bytes) : Nat := le32 e 4
def compLen (e : Bytes) : Nat := le32 e 8
def compLoad (e : Bytes) : Nat := le64 e 16
def compStart (e : Bytes) : Nat := le64 e 24

/-- The number of components of a header, and its entries. -/
def bundleCount (h : Bytes) : Nat := le16 h 12
def bundleComps (h : Bytes) : List Bytes := (List.range (bundleCount h)).map (compEntry h)

/-- The key slot, the security version and the image version of a header. -/
def bundleKey (h : Bytes) : Nat := byteAt h 6
def bundleSvn (h : Bytes) : Nat := byteAt h 7
def bundleVer (h : Bytes) : Nat := le32 h 8

/-- Are all bytes of a range zero. -/
def zeroRange (b : Bytes) (off n : Nat) : Bool := (slice b off n).all (fun x => x == 0#8)

/-- Is an entry within the ranges of Table 15.2, its load range within its destination, its entry within the component. -/
def Dev.compOk (d : Dev) (size : Nat) (e : Bytes) : Bool :=
  let t := compType e
  decide (1 ≤ t ∧ t ≤ 5) &&
    (if t = 3 then decide (1 ≤ compTarget e ∧ compTarget e ≤ 7) else if t = 4 then decide (compTarget e ≤ 11) else compTarget e == 0) &&
    decide (compOff e % 4096 = 0 ∧ 4096 ≤ compOff e ∧ compOff e + compLen e ≤ size) && zeroRange e 12 4 &&
    decide (compStart e < compLen e) &&
    (if t = 1 then decide (compLoad e + compLen e ≤ 2 ^ 20)
     else if t = 4 then decide (compLoad e + compLen e ≤ 2 ^ 18)
     else decide (d.areaBase 7 * gib ≤ compLoad e ∧ compLoad e + compLen e ≤ d.areaBase 8 * gib))

/-- Do two components overlap in the slot. -/
def compMeet (x y : Bytes) : Bool := decide (compOff x < compOff y + compLen y ∧ compOff y < compOff x + compLen x)

/-- Is no pair of a list related. -/
def noPair (r : Bytes → Bytes → Bool) : List Bytes → Bool
  | [] => true
  | x :: xs => xs.all (fun y => !r x y) && noPair r xs

/-- Do two entries of type 3, or two of type 4, share a target. -/
def compClash (x y : Bytes) : Bool :=
  (compType x == 3 || compType x == 4) && compType x == compType y && compTarget x == compTarget y

/-- Is a header valid (R380); `size` bounds the bundle. -/
def Dev.headerValid (d : Dev) (size : Nat) (h : Bytes) : Bool :=
  let cs := bundleComps h
  slice h 0 4 == ascii "IHBT" && le16 h 4 == 1 && decide (bundleKey h ≤ 3 ∧ bundleSvn h ≤ 64 ∧ 2 ≤ bundleCount h ∧ bundleCount h ≤ 32) &&
    zeroRange h 14 18 && zeroRange h 89 7 && zeroRange h (96 + 96 * bundleCount h) (96 * (32 - bundleCount h)) && zeroRange h 3282 814 &&
    cs.all (d.compOk size) && (cs.map compType).head? == some 1 && (cs.filter (fun e => compType e == 1)).length == 1 &&
    decide (compLen (compEntry h 0) ≤ 2 ^ 19) && (cs.filter (fun e => compType e == 2)).length == 1 && noPair compMeet cs && noPair compClash cs

/-- A component's bytes in the bundle, and whether their digest is its entry's (Table 15.2). -/
def compBytes (b e : Bytes) : Bytes := slice b (compOff e) (compLen e)
def digestOk (bytes e : Bytes) : Bool := Config.shake256 bytes 64 == slice e 32 64

/-- The checks 1 to 5 that a bundle passes before the first that it fails (Table 15.4). -/
def Dev.firstChecks (d : Dev) (z : Fuses) (size : Nat) (b : Bytes) : Nat :=
  let h := slice b 0 4096
  let key := slice h 32 57
  if !d.headerValid size h then 0
  else if !(z.keySlots key).contains (bundleKey h) then 1
  else if !Config.ed448Verify key (ascii "IH-BOOT-1") (slice h 0 3168) (slice h 3168 114) then 2
  else if bundleSvn h < z.svn then 3
  else if !digestOk (compBytes b (compEntry h 0)) (compEntry h 0) then 4
  else 5

/-- The slot result of a bundle that passed `n` checks and failed the next (Table 15.4). -/
def slotResult (n : Nat) : Nat := [4, 6, 5, 7, 5, 5].getD n 0

/-- All checks 1 to 6 that a bundle passes, on its own bytes (R372, R379). -/
def Dev.allChecks (d : Dev) (z : Fuses) (b : Bytes) : Nat :=
  let n := d.firstChecks z slotSize b
  if n < 5 then n else if (bundleComps (slice b 0 4096)).all (fun e => digestOk (compBytes b e) e) then 6 else 5

/-- Does a slot hold an image that verifies. -/
def Dev.slotVerifies (d : Dev) (z : Fuses) (b : Bytes) : Bool := d.allChecks z b == 6

/-! ## Measurement (R386) -/

/-- A measurement register. -/
def Dev.mreg (d : Dev) (i : Nat) : Bytes := SMap.getD d.boot.mreg i (List.replicate 64 0#8)

/-- Extend a measurement register by a component's type, version and digest. -/
def Dev.measure (d : Dev) (i y v : Nat) (digest : Bytes) : Dev :=
  d.setBoot (fun x => { x with
    mreg := SMap.put x.mreg i (Config.shake256 ([4#8] ++ d.mreg i ++ leBytes 2 y ++ leBytes 4 v ++ digest) 64) })

/-- The register of a component's type. -/
def mregOf (t : Nat) : Nat := if t = 1 then 0 else t

/-- Measure a component. -/
def Dev.measureComp (d : Dev) (h e : Bytes) : Dev := d.measure (mregOf (compType e)) (compType e) (bundleVer h) (slice e 32 64)

/-- Measure the header and the first stage, once checks 1 to 5 have passed. -/
def Dev.measureHead (d : Dev) (h : Bytes) : Dev :=
  (d.measureComp h (compEntry h 0)).measure 1 0 (bundleVer h) (Config.shake256 (slice h 0 3282) 64)

/-! ## Copying components (R381 step 9) -/

/-- Copy a component to its load address. -/
def State.copyComp (s : State) (b e : Bytes) : State :=
  if compType e = 4 then
    s.onDev (fun d => d.setBoot (fun x => { x with sram := SMap.upd x.sram (compTarget e) [] (fun m =>
      slice m 0 (compLoad e) ++ compBytes b e ++ m.drop (compLoad e + compLen e)) }))
  else { s with hbm := memWriteN s.hbm (compLoad e) (compBytes b e) }

/-- The copy of a component. -/
def State.copied (s : State) (e : Bytes) : Bytes :=
  if compType e = 4 then slice (SMap.getD s.dev.boot.sram (compTarget e) []) (compLoad e) (compLen e)
  else memReadN s.hbm (compLoad e) (compLen e)

/-- Copy, check and measure components in entry order; none where a check fails, with the measurements made until then. -/
def State.copyAll (b h : Bytes) : List Bytes → State → Bool × State
  | [], s => (true, s)
  | e :: es, s =>
    let s' := s.copyComp b e
    if digestOk (s'.copied e) e then State.copyAll b h es (s'.onDev (fun d => d.measureComp h e)) else (false, s')

/-! ## Verified regions (R387) -/

/-- The entry, with its index, that gives a cluster its region: its own image, else the main image. -/
def clusterEntry (h : Bytes) (c : Nat) : Option (Nat × Bytes) :=
  let cs := (List.range (bundleCount h)).map (fun i => (i, compEntry h i))
  match cs.find? (fun p => c != 0 && compType p.2 == 3 && compTarget p.2 == c) with
  | some p => some p
  | none => cs.find? (fun p => compType p.2 == 2)

/-- The entry, with its index, of a controller's firmware. -/
def ctrlEntry (h : Bytes) (k : Nat) : Option (Nat × Bytes) :=
  ((List.range (bundleCount h)).map (fun i => (i, compEntry h i))).find? (fun p => compType p.2 == 4 && compTarget p.2 == k)

/-- A cluster's region and VERIFIED. -/
def Dev.clusterRegion (h : Bytes) (d : Dev) (c : Nat) : Dev :=
  match clusterEntry h c with
  | none => d
  | some (i, e) =>
    (((d.wr R.CL_REGION_BASE (compLoad e) c).wr R.CL_REGION_LEN (compLen e) c).flag R.CLU_STATUS_VERIFIED c).wr R.CLU_STATUS_COMPONENT i c

/-- A controller's region and VERIFIED. -/
def Dev.ctrlRegion (h : Bytes) (d : Dev) (k : Nat) : Dev :=
  match ctrlEntry h k with
  | none => d
  | some (i, e) =>
    ((d.flag R.SV_STATUS_VERIFIED k).wr R.SV_STATUS_COMPONENT i k).setBoot (fun x => { x with
      svRegion := SMap.put x.svRegion k (compLoad e, compLen e) })

/-- Is a cluster, is a controller present (Table 8.9a, R6). -/
def Dev.clPresent (d : Dev) (c : Nat) : Bool := decide (c < 8) && d.unit (8 + c)
def Dev.svPresent (d : Dev) (k : Nat) : Bool := decide (k < 12) && d.unit (16 + k)

/-- The regions of an accepted bundle take the place of the former ones. -/
def Dev.setRegions (d : Dev) (h : Bytes) : Dev :=
  let e := (d.setBoot (fun x => { x with svRegion := [], header := h })).each (List.range 12) (fun x k =>
    (x.wr R.SV_STATUS_VERIFIED 0 k).wr R.SV_STATUS_COMPONENT 0 k)
  let e := (e.each ((List.range 8).filter d.clPresent) (Dev.clusterRegion h)).each ((List.range 12).filter d.svPresent) (Dev.ctrlRegion h)
  { e with hbmc := { e.hbmc with verified := ((List.range 8).filterMap (clusterEntry h)).eraseDups.map (fun p => (compLoad p.2, compLen p.2)) } }

/-! ## Release (R388, R389) -/

/-- A cluster's vector. -/
def Dev.clVector (d : Dev) (c : Nat) : Nat := d.rd R.CL_VECTOR_LO c * 4 + d.rd R.CL_VECTOR_HI c * 2 ^ 32

/-- Cluster 0 starts at the main image's entry (R388). -/
def Dev.releaseCluster0 (d : Dev) : Dev :=
  match clusterEntry d.boot.header 0 with
  | none => d
  | some (_, e) =>
    let v := compLoad e + compStart e
    ((d.wr R.CL_VECTOR_LO (v / 4) 0).wr R.CL_VECTOR_HI (v / 2 ^ 32) 0).flag R.CLU_STATUS_RELEASED 0

/-- The first condition of R389 that a release of a cluster fails; 0 where it holds all. -/
def Dev.clCause (d : Dev) (c : Nat) : Nat :=
  let b := d.rd R.CL_REGION_BASE c
  if !d.on R.CLU_STATUS_VERIFIED c then 1
  else if !decide (b ≤ d.clVector c ∧ d.clVector c < b + d.rd R.CL_REGION_LEN c) then 2
  else if !d.on R.CLU_STATUS_CLK_STABLE c then 3
  else if d.on R.CLU_STATUS_RELEASED c then 4
  else if !d.clPresent c then 5
  else if d.rst.active.contains 4 || SMap.has d.rst.asked 4 then 6
  else 0

/-- The reset group of a controller's island (R13). -/
def svGroup (k : Nat) : Nat := if k < 3 then 5 else if k < 6 then 6 else if k < 9 then 7 else 6

/-- As `Dev.clCause`, for a controller. -/
def Dev.svCause (d : Dev) (k : Nat) : Nat :=
  let r := SMap.getD d.boot.svRegion k (0, 0)
  let v := d.rd R.SV_VECTOR k * 4
  if !d.on R.SV_STATUS_VERIFIED k then 1
  else if !decide (r.1 ≤ v ∧ v < r.1 + r.2) then 2
  else if !d.on R.SV_STATUS_CLK_STABLE k then 3
  else if d.on R.SV_STATUS_RELEASED k then 4
  else if !d.svPresent k then 5
  else if d.rst.active.contains (svGroup k) || SMap.has d.rst.asked (svGroup k) then 6
  else 0

/-- A cluster's RELEASE at its tick boundary. -/
def Dev.clRelease (d : Dev) (c : Nat) : Dev :=
  if d.clCause c = 0 then d.flag R.CLU_STATUS_RELEASED c
  else (d.flag R.CLU_STATUS_REL_REFUSED c).wr R.CLU_STATUS_CAUSE (d.clCause c) c

/-- A controller's RELEASE at its tick boundary. -/
def Dev.svRelease (d : Dev) (k : Nat) : Dev :=
  if d.svCause k = 0 then d.flag R.SV_STATUS_RELEASED k
  else (d.flag R.SV_STATUS_REL_REFUSED k).wr R.SV_STATUS_CAUSE (d.svCause k) k

/-- Who may write RELEASE (R389): a core hart, PF0, the enclave. -/
def mayRelease (req : Nat) : Bool := req == 0 || isHart req || req == 4148

/-- CL_RELEASE (R389): RELEASE of cluster 1 to 7, judged at the start of the next event tick. -/
def execClRelease (req c : Nat) (s : State) : Host.Outcome State Fault Refusal :=
  .next (s.onDev (fun d =>
    if mayRelease req && d.clPresent c && c != 0 then (d.sampleWrite req 1).postAct 9 (srcNum (reqIsland req) 0) (.clRelease c) else d))

/-- SV_RELEASE (R389): RELEASE of a service controller; ignored for one that R6 holds. -/
def execSvRelease (req k : Nat) (s : State) : Host.Outcome State Fault Refusal :=
  .next (s.onDev (fun d =>
    if mayRelease req && d.svPresent k then (d.sampleWrite req 1).postAct 9 (srcNum (reqIsland req) 0) (.svRelease k) else d))

/-! ## The boot (R381-R383) -/

/-- Codes that offer recovery (Table 15.5). -/
def offersRecovery (code : Nat) : Bool := decide (3 ≤ code ∧ code ≤ 7)

/-- BOOT_ERR drives a code (R383). -/
def Dev.bootErr (d : Dev) (code : Nat) : Dev :=
  { (d.wr R.BT_STATUS_BOOT_ERR code).wr R.RC_STATUS_CODE code with pins := { d.pins with bootErr := code } }

/-- The device halts; with RECOVERY_EN a code that offers recovery becomes 0xC (R385). -/
def Dev.bootHalt (d : Dev) (code : Nat) : Dev :=
  let e := d.setBoot (fun x => { x with halted := true, since := none })
  e.bootErr (if bit d.pins.straps 1 && offersRecovery code then 0xC else code)

/-- Record a slot's result. -/
def Dev.slotNote (d : Dev) (slot r : Nat) : Dev := d.wr (if slot = 0 then R.BT_SLOT_RESULT_A else R.BT_SLOT_RESULT_B) r

/-- How an attempt at a bundle ends: refused after some passed checks, halted with a code, or booted. -/
inductive BootTry where
  | refused (passed : Nat) (s : State)
  | halt (code : Nat) (s : State)
  | boots (s : State)

/-- Steps 6 to 9 on a bundle (Tables 15.3, 15.4). A refusal at check 6 discards the copies. -/
def State.tryBundle (s : State) (b : Bytes) (size : Nat) (hbm mram : Bool) : BootTry :=
  let n := s.dev.firstChecks s.fuse size b
  let h := slice b 0 4096
  if n < 5 then .refused n s
  else
    let s1 := s.onDev (fun d => d.measureHead h)
    let st := s1.onDev (fun d => d.flag R.HM_STATUS_TRAINED)
    if !hbm then .halt 8 s1
    else if !mram then .halt 9 st
    else
      match State.copyAll b h (bundleComps h).tail st with
      | (true, s2) => .boots (s2.onDev (fun d => (d.setRegions h).flag R.MM_STATUS_READY))
      | (false, s2) => .refused 5 { s with dev := { s.dev with boot := { s.dev.boot with mreg := s2.dev.boot.mreg } } }

/-- Step 10: cluster 0 starts, and the watchdog with it unless this is a recovery boot. -/
def Dev.startMain (d : Dev) (slot : Nat) : Dev :=
  let e := ((d.wr R.BT_STATUS_SLOT slot).bootErr 0).releaseCluster0
  e.setBoot (fun x => { x with halted := false, since := if slot = 2 then none else some d.tk.etick })

/-- The boot from one slot, then from the other: `slots` in order, with what HBM training gives each, `best` the most checks passed so far. -/
def State.trySlots (mram : Bool) : List (Nat × Bool) → Option Nat → State → State
  | [], best, s => s.onDev (fun d => d.bootHalt (match best with | some n => slotResult n | none => 0xF))
  | (k, hbm) :: rest, best, s =>
    match s.tryBundle (if k = 0 then s.dev.flash.a else s.dev.flash.b) slotSize hbm mram with
    | .refused n s' => State.trySlots mram rest (some (max n (best.getD 0))) (s'.onDev (fun d => d.slotNote k (slotResult n)))
    | .halt code s' => s'.onDev (fun d => d.bootHalt code)
    | .boots s' => s'.onDev (fun d => d.startMain k)

/-- A slot that MRAM marks is skipped once, without any check (R384). -/
def Dev.takeSkip (d : Dev) : List Nat × Dev :=
  match d.mram.skip with
  | none => ([0, 1], d)
  | some k => ([1 - k], ({ d with mram := { d.mram with skip := none } }.slotNote k 0xF).flag R.BT_STATUS_SKIPPED)

/-- The ROM and first-stage steps (Table 15.3), on a device whose groups have just been reset. The clocks of the clusters and
controllers that are present are stable once the PLLs have locked. -/
def State.bootRun (s : State) (v : BootEnv) : State :=
  let halt (c : Nat) : State := s.onDev (fun d => d.bootHalt c)
  if !v.pll then halt 0xA
  else if !v.fuses then halt 2
  else if s.fuse.dsKill || v.tamperN then halt 0xB
  else if !v.selfTests then halt 1
  else
    let up (d : Dev) : Dev :=
      (((d.wr R.EN_STATUS_STATE 1).flag R.EN_STATUS_APPROVED).each ((List.range 8).filter d.clPresent) (fun x c =>
        x.flag R.CLU_STATUS_CLK_STABLE c)).each ((List.range 12).filter d.svPresent) (fun x k => x.flag R.SV_STATUS_CLK_STABLE k)
    let s1 := s.onDev up
    if !v.flash then s1.onDev (fun d => d.bootHalt 3)
    else
      let (slots, d2) := s1.dev.takeSkip
      State.trySlots v.mram (slots.zip [v.hbm, v.hbmAgain]) none { s1 with dev := d2 }

/-- DONE (R384, R392): a hart of cluster 0 ends the boot: BOOT_DONE rises, BOOT_ERR reads 0, the watchdog stops, the skip mark clears, host
functions become visible. -/
def execDone (req : Nat) (s : State) : Host.Outcome State Fault Refusal :=
  .next (s.onDev (fun d =>
    if isHart req && reqIsland req == 0x0D && d.on R.CLU_STATUS_RELEASED 0 && !d.on R.BT_STATUS_DONE then
      let e := ((((d.sampleWrite req 1).flag R.BT_CTRL).flag R.BT_STATUS_DONE).bootErr 0).setBoot (fun x => { x with since := none })
      { e with pins := { e.pins with bootDone := true }, mram := { e.mram with skip := none } }
    else d))

/-- 1,000 ms in event ticks. -/
def watchdogTicks : Nat := 125000000

/-- BOOT_WATCHDOG (R384): 1,000 ms after the release of cluster 0 without DONE. A cold reset with cause 5 and the slot marked; where the
other slot was skipped, a halt with 0xF. -/
def execBootWatchdog (s : State) : Host.Outcome State Fault Refusal :=
  .next (s.onDev (fun d =>
    match d.boot.since with
    | none => d
    | some t =>
      if d.tk.etick < t + watchdogTicks then d
      else if d.on R.BT_STATUS_SKIPPED then ((d.bootHalt 0xF).each (List.range 8) (fun x c => x.wr R.CLU_STATUS_RELEASED 0 c)).each (List.range 12) (fun x k => x.wr R.SV_STATUS_RELEASED 0 k)
      else
        { d with mram := { d.mram with skip := some (d.rd R.BT_STATUS_SLOT) }, rst := { d.rst with cold := some 5 } }))

/-! ## Recovery (R385) -/

/-- Is the recovery function offered. -/
def Dev.recovery (d : Dev) : Bool := d.boot.halted && (d.pins.bootErr == 0xC || d.pins.bootErr == 0xD)

/-- GO (R385): starts a recovery boot, or sets REFUSED. -/
def execGo (program : Bool) (s : State) : Host.Outcome State Fault Refusal :=
  .next (s.onDev (fun d =>
    if !d.recovery then d
    else if !d.on R.RC_STATUS_BUSY && d.on R.FN_INFO_BME 0 && d.rd R.RC_ADDR % 4096 == 0 &&
        decide (4096 ≤ d.rd R.RC_LEN ∧ d.rd R.RC_LEN ≤ slotSize) then
      (d.flag R.RC_STATUS_BUSY).wr R.RC_CTRL_PROGRAM (b2n program)
    else d.flag R.RC_STATUS_REFUSED))

/-- Slot B after the write of a recovery bundle (R385). -/
def Dev.programB (d : Dev) (b : Bytes) (ok : Bool) : Dev :=
  if !d.on R.RC_CTRL_PROGRAM then d
  else if ok then { d with flash := { d.flash with b := b } }
  else { d.fresh.2 with flash := { d.flash with b := Config.flashLeft d.fresh.1 b } }.flag R.RC_STATUS_PROG_FAIL

/-! ## Fuse commands (R378, R379) -/

/-- KEY_REVOKE: the status, and the state after it. -/
def State.keyRevoke (s : State) (b : Bytes) : Nat × State :=
  let k := byteAt b 0
  let pk := slice b 1 57
  let m := Config.uid ++ [BitVec.ofNat 8 k] ++ leBytes 1 s.fuse.revokedMask
  if k > 3 || (s.fuse.keySlots pk).isEmpty || !Config.ed448Verify pk (ascii "IH-REVOKE-1") m (slice b 58 114) then (0x0302, s)
  else if s.fuse.keyRevoked k then (0, s)
  else if !s.dev.pins.fuseOk then (0x0402, s)
  else (0, { s with fuse := { s.fuse with revoked := setBit s.fuse.revoked k true } })

/-- SVN_COMMIT: the status, its data, and the state after it. -/
def State.svnCommit (s : State) (v : Nat) : Nat × Bytes × State :=
  let b := s.dev.flash.b
  let conflict : Nat × Bytes × State := (0x0401, leBytes 1 (s.dev.rd R.BT_STATUS_SLOT), s)
  if v > 64 || v < s.fuse.svn then (0x0302, [], s)
  else if v = s.fuse.svn then (0, [], s)
  else if bundleSvn s.dev.boot.header < v then conflict
  else if !s.dev.slotVerifies s.fuse b || bundleSvn (slice b 0 4096) < v then conflict
  else if !s.dev.pins.fuseOk then (0x0402, [], s)
  else (0, [], { s with fuse := { s.fuse with svn := v } })

/-- The object engine answers a write: status in the last read's word, data in its bytes; one that changed a value is a class 10 event
(R354). -/
def State.answer (s : State) (status : Nat) (data : Bytes := []) : State :=
  s.onDev (fun d => ((d.when (status == 0) (fun e => e.raise 10 0x003F)).ret status).retBytes data)

/-- KEY_REVOKE (R378): the 172 bytes written to 0x7E04:00. -/
def execKeyRevoke (data : Bytes) (s : State) : Host.Outcome State Fault Refusal :=
  .next ((s.keyRevoke data).2.answer (s.keyRevoke data).1)

/-- SVN_COMMIT (R379): the value written to 0x7E05:00. -/
def execSvnCommit (v : Nat) (s : State) : Host.Outcome State Fault Refusal :=
  .next ((s.svnCommit v).2.2.answer (s.svnCommit v).1 (s.svnCommit v).2.1)

end Sys2Proof.Machine
end

