-- ==== Sys2Proof/Machine/Enclave.lean ====
section
/-!
DEFINITION. Chapter 16: principals and their counters (R363, R369), the service slots (R403-R405), the services of Table 16.6, key
provisioning (R406-R410), errors and self-tests (R397-R400), zeroisation, tamper and JTAG (R413-R415).
-/
namespace Sys2Proof.Machine

def Dev.setEncl (d : Dev) (f : EnclState → EnclState) : Dev := { d with encl := f d.encl }

/-! ## Principals (R363, R369) -/

/-- The key of a record (R402): 1 principal, 2 CAK, 3 XTS. -/
def recKey (ty idx : Nat) : Nat := ty * 65536 + idx
def Dev.keyRec (d : Dev) (ty idx : Nat) : Option Bytes := SMap.get? d.mram.keyRec (recKey ty idx)
def Dev.setRec (d : Dev) (ty idx : Nat) (b : Bytes) : Dev :=
  { d with mram := { d.mram with keyRec := SMap.put d.mram.keyRec (recKey ty idx) b } }
def Dev.delRec (d : Dev) (ty idx : Nat) : Dev := { d with mram := { d.mram with keyRec := SMap.del d.mram.keyRec (recKey ty idx) } }

/-- A principal's entry, with the installed bit as the enclave knows it (Table 14.8). -/
def Dev.principal (d : Dev) (p : Nat) : Bytes :=
  let b := SMap.getD d.mram.obj (objKey 0x1110 (p + 1)) [0#8, 0#8, 0#8, 0#8]
  [BitVec.ofNat 8 (b2n (bit (byteAt b 0) 0) + 2 * b2n (d.keyRec 1 p).isSome)] ++ slice b 1 3

/-- Is a principal valid (R369). -/
def Dev.principalValid (d : Dev) (p : Nat) : Bool := decide (p < 16) && byteAt (d.principal p) 0 == 3
def Dev.principalLevel (d : Dev) (p : Nat) : Nat := byteAt (d.principal p) 1 % 4
def Dev.anyPrincipal (d : Dev) : Bool := (List.range 16).any d.principalValid

/-- A principal's last accepted counter. -/
def Dev.prinCtr (d : Dev) (p : Nat) : Nat := SMap.getD d.encl.ctr p 0

/-- An accepted counter becomes c; when c reaches the ceiling z, z becomes c + 65,536 (R363). -/
def Dev.ctrAccept (d : Dev) (p n : Nat) : Dev :=
  let e := d.setEncl (fun x => { x with ctr := SMap.put x.ctr p n })
  if SMap.getD d.mram.ceil p 0 ≤ n then { e with mram := { e.mram with ceil := SMap.put e.mram.ceil p (n + 65536) } } else e

/-- A principal's key is installed: its counter and ceiling return to 0 (R363). -/
def Dev.installPrincipal (d : Dev) (p : Nat) (key : Bytes) : Dev :=
  let e := (d.setRec 1 p key).setEncl (fun x => { x with ctr := SMap.put x.ctr p 0 })
  { e with mram := { e.mram with ceil := SMap.put e.mram.ceil p 0 } }

/-- Does a tag verify under a principal's key (R361). -/
def Dev.tagOk (d : Dev) (p : Nat) (m tag custom : Bytes) : Bool :=
  d.principalValid p && (match d.keyRec 1 p with
    | some k => Config.kmac256 k m custom == tag
    | none => false)

/-- The level of a requester's own path (R351): PF0 and the cores have one. -/
def Dev.pathLevel (d : Dev) (req : Nat) : Nat :=
  if req = 0 then d.objNat 0x1105 0 2 else if isHart req then d.objNat 0x1106 0 2 else 0

/-! ## The module's state (R395-R400) -/

/-- A core interrupt at every present cluster, with its event. -/
def Dev.coreIrq (d : Dev) (src : Nat) : Dev := (d.raise 11 src).setTrig (fun x => { x with irq := x.irq ++ [src] })

/-- Slot buffers. -/
def Dev.esBuf (d : Dev) (k : Nat) : Bytes := (List.range 1020).flatMap (fun i => leBytes 4 (d.rd R.ES_BUF k i))
def Dev.setEsBuf (d : Dev) (k : Nat) (b : Bytes) : Dev := d.each (List.range 1020) (fun e i => e.wr R.ES_BUF (leNat (slice b (4 * i) 4)) k i)

/-- A response (Table 16.5) replaces the request; BUSY clears, DONE sets and raises its event (R403). -/
def Dev.esAnswer (d : Dev) (k code status ind : Nat) (data : Bytes) : Dev :=
  let b := leBytes 2 code ++ leBytes 2 status ++ leBytes 4 ind ++ leBytes 4 data.length ++ leBytes 4 0 ++ data
  ((((d.setEsBuf k b).wr R.ES_STATUS_BUSY 0 k).flag R.ES_STATUS_DONE k).setEncl (fun x => { x with order := x.order.filter (fun j => j != k) })).coreIrq
    (srcNum 0x1B (8 + k))

/-- A non-approved service has been executed (R396). -/
def Dev.unapproved (d : Dev) : Dev := d.wr R.EN_STATUS_APPROVED 0

/-- The entries to ERROR within the last 600 s. -/
def Dev.recentErrs (d : Dev) : List Nat := d.encl.errs.filter (fun t => decide (d.tk.etick < t + 75000000000))

/-- Entry to ERROR (R398, R399): outputs are inhibited, services end, the entries are counted, class 2 at ENCL local 0. -/
def Dev.enclError (d : Dev) (code : Nat) : Dev :=
  let slots := d.encl.order ++ d.encl.testSlot.toList
  let e := ((d.wr R.EN_STATUS_STATE 2).wr R.EN_STATUS_ERR_CODE code).setEncl (fun x => { x with
    inhibit := true, errs := d.recentErrs ++ [d.tk.etick], errAt := d.tk.etick, testSlot := none })
  let e := e.each slots (fun x k => x.esAnswer k (le16 (x.esBuf k) 0) 0x0602 0 [])
  (e.wr R.EN_ERR_ENTRIES (min 3 e.encl.errs.length)).err (srcNum 0x1B 0) 2 code

/-- The codes of R398. -/
def enclCodes : List Nat := [0x01, 0x20, 0x30, 0x40, 0x50] ++ (List.range 11).map (· + 0x10)

/-- ENCL_ERROR (R398): a conditional test fails, or a key record its check. -/
def execEnclError (code : Nat) (s : State) : Host.Outcome State Fault Refusal :=
  .next (s.onDev (fun d => if d.inReset 0x1B || d.rd R.EN_STATUS_STATE != 1 then d else d.enclError code))

/-- ENCL_ERROR_RESET (R400): 10 ms after the entry G1 is reset; at the third entry within 600 s a cold reset with cause 4 follows. -/
def execEnclErrorReset (s : State) : Host.Outcome State Fault Refusal :=
  .next (s.onDev (fun d =>
    if d.rd R.EN_STATUS_STATE ≠ 2 ∨ d.tk.etick < d.encl.errAt + 1250000 then d
    else if 3 ≤ (d.encl.errs.filter (fun t => decide (d.encl.errAt < t + 75000000000))).length then { d with rst := { d.rst with cold := some 4 } }
    else d.askReset 1))

/-- SELF_TEST_DONE (R397, R399): the tests end; `fail` is the code of the test that failed. When all pass the inhibit lifts, with a class 11
event at ENCL local 2 after ERROR. -/
def execSelfTestDone (fail : Option Nat) (s : State) : Host.Outcome State Fault Refusal :=
  .next (s.onDev (fun d =>
    if d.inReset 0x1B || d.rd R.EN_STATUS_STATE != 0 || d.boot.halted then d
    else
      match fail with
      | some code => d.enclError code
      | none =>
        let e := (d.wr R.EN_STATUS_STATE 1).when d.encl.inhibit (fun x => x.raise 11 (srcNum 0x1B 2))
        let e := e.setEncl (fun x => { x with inhibit := false, testSlot := none })
        match d.encl.testSlot with
        | some k => e.esAnswer k 0x0030 0 1 []
        | none => e))

/-! ## Claiming a slot (R403) -/

/-- Who may use the slots. -/
def mayServe (req : Nat) : Bool := req == 0 || isHart req || decide (4136 ≤ req ∧ req < 4148)

/-- ES_CLAIM (R403). -/
def execEsClaim (req k : Nat) (s : State) : Host.Outcome State Fault Refusal :=
  .next (s.onDev (fun d =>
    if mayServe req && !d.inReset 0x1B && !d.on R.ES_STATUS_CLAIMED k then
      ((d.flag R.ES_STATUS_CLAIMED k).wr R.ES_STATUS_OWNER req k).sampleWrite req 1
    else d))

/-- Does a requester own a slot. -/
def Dev.ownsSlot (d : Dev) (req k : Nat) : Bool := d.on R.ES_STATUS_CLAIMED k && d.rd R.ES_STATUS_OWNER k == req

/-- ES_RELEASE (R403): the owner frees the slot. -/
def execEsRelease (req k : Nat) (s : State) : Host.Outcome State Fault Refusal :=
  .next (s.onDev (fun d =>
    if d.ownsSlot req k && !d.inReset 0x1B then ((d.wr R.ES_STATUS_CLAIMED 0 k).wr R.ES_STATUS_OWNER 0 k).sampleWrite req 2 else d))

/-! ## Services (R404, R405) -/

/-- A request as a service sees it: its slot, principal, counter and payload. -/
structure SvcReq where
  slot : Nat
  prin : Nat
  ctr : Nat
  data : Bytes
  deriving DecidableEq, Repr

/-- How a service ends: status, response payload, the state with its effect. -/
structure SvcOut where
  status : Nat
  data : Bytes
  st : State

/-- A service that fails has no effect. -/
def svcFail (s : State) (status : Nat) (data : Bytes := []) : SvcOut := ⟨status, data, s⟩

/-- The level of a service (Table 16.6), none for a code that it does not list. -/
def svcLevel (code : Nat) : Option Nat :=
  if [0x0001, 0x0003].contains code then some 0
  else if [0x0012, 0x0013, 0x0020, 0x0021, 0x0022, 0x0023].contains code then some 1
  else if [0x0002, 0x0010, 0x0011, 0x0030, 0x0031, 0x0032, 0x00F0, 0x00F1, 0x00F2].contains code then some 2
  else none

/-- A request's principal, counter, payload and tag; none where its length exceeds the buffer or a zero field is not zero. -/
def esParse (b : Bytes) : Option (SvcReq × Bytes) :=
  let n := le16 b 12
  let p := le16 b 2
  if 4080 < 16 + n + (if p = 0xFFFF then 0 else 32) ∨ le16 b 14 ≠ 0 then none
  else some ({ slot := 0, prin := p, ctr := le64 b 4, data := slice b 16 n }, slice b (16 + n) 32)

/-- Authentication and level of a request (R404): a status with its data, or the state in which it runs, its level, and whether it runs
as a non-approved service. -/
def State.esAuth (s : State) (owner : Nat) (b : Bytes) (q : SvcReq) (tag : Bytes) : Nat × Bytes × State × Nat × Bool :=
  let d := s.dev
  if q.prin = 0xFFFF then
    let lvl := if d.anyPrincipal then 0 else d.pathLevel owner
    (0, [], s, lvl, decide (0 < lvl))
  else if !d.tagOk q.prin (slice b 0 (16 + q.data.length)) tag (ascii "IH-ENC-1") then (0x0501, [], s, 0, false)
  else if q.ctr ≤ d.prinCtr q.prin then (0x0502, leBytes 8 (d.prinCtr q.prin), s, 0, false)
  else (0, [], s.onDev (fun e => e.ctrAccept q.prin q.ctr), d.principalLevel q.prin, false)

/-- Execute the request of a slot with a service, none where the code names no service. -/
def State.esExec (s : State) (k : Nat) (f : Option (SvcReq → State → SvcOut)) : State :=
  let b := s.dev.esBuf k
  let code := le16 b 0
  match esParse b with
  | none => s.onDev (fun d => d.esAnswer k code 0x0301 0 [])
  | some (q, tag) =>
    match s.esAuth (s.dev.rd R.ES_STATUS_OWNER k) b q tag with
    | (st, data, s1, lvl, odd) =>
      if st ≠ 0 then s1.onDev (fun d => d.esAnswer k code st 0 data)
      else
        match svcLevel code, f with
        | some need, some g =>
          if lvl < need then s1.onDev (fun d => d.esAnswer k code 0x0201 0 [])
          else
            let o := g { q with slot := k } s1
            let ok := o.status == 0 && decide (code < 0xF0) && !odd
            o.st.onDev (fun d =>
              let e := d.when (o.status == 0 && (odd || decide (0xF0 ≤ code))) Dev.unapproved
              if e.encl.testSlot = some k then e else e.esAnswer k code o.status (b2n ok) o.data)
        | _, _ => s1.onDev (fun d => d.esAnswer k code 0x0101 0 [])

/-- Requests at the head of the order whose code names no service are answered. -/
def State.esUnknown : Nat → State → State
  | 0, s => s
  | n + 1, s =>
    match s.dev.encl.order with
    | k :: _ => if (svcLevel (le16 (s.dev.esBuf k) 0)).isNone && s.dev.enclUp then State.esUnknown n (s.esExec k none) else s
    | [] => s

/-- A service executes: the slot's GO is the first in the order (R405), its request names this service, the module is OPERATIONAL. -/
def State.service (s : State) (k code : Nat) (f : SvcReq → State → SvcOut) : State :=
  if s.dev.enclUp && s.dev.encl.order.head? == some k && le16 (s.dev.esBuf k) 0 == code then State.esUnknown 8 (s.esExec k (some f)) else s

/-! ## Random values -/

/-- Bytes from the DRBG: free values, drawn with the model's counter. -/
def Dev.drbg (d : Dev) (n : Nat) : Bytes × Dev := ((List.range n).map (Config.drbgByte d.fresh.1), d.fresh.2)

def svcRandom (q : SvcReq) (s : State) : SvcOut :=
  let n := le16 q.data 0
  if q.data.length ≠ 2 then svcFail s 0x0301
  else if n < 1 ∨ 1024 < n then svcFail s 0x0302
  else ⟨0, (s.dev.drbg n).1, { s with dev := (s.dev.drbg n).2 }⟩

def svcRawEntropy (q : SvcReq) (s : State) : SvcOut :=
  let n := le16 q.data 0
  if q.data.length ≠ 2 then svcFail s 0x0301
  else if n < 1 ∨ 1024 < n then svcFail s 0x0302
  else ⟨0, (List.range n).map (Config.noiseByte s.dev.fresh.1), { s with dev := s.dev.fresh.2 }⟩

/-- RANDOM (R403, Table 16.6): bytes of the DRBG. -/
def execRandom (k : Nat) (s : State) : Host.Outcome State Fault Refusal := .next (s.service k 0x0003 svcRandom)

/-- RAW_ENTROPY (Table 16.6): raw noise samples; a non-approved service. -/
def execRawEntropy (k : Nat) (s : State) : Host.Outcome State Fault Refusal := .next (s.service k 0x00F2 svcRawEntropy)

/-! ## Attestation and measurement (R411) -/

/-- EN_STATUS.APPROVED as it reads: 0 while JTAG is open (R396). -/
def Dev.approved (d : Dev) : Bool := d.on R.EN_STATUS_APPROVED && !d.on R.EN_STATUS_JTAG_OPEN

/-- The report of Table 16.8. -/
def State.attest (s : State) (nonce : Bytes) (mask : Nat) : Bytes :=
  let d := s.dev
  let regs := bitsSet 16 mask
  let m := ascii "IHAT" ++ leBytes 2 1 ++
    leBytes 2 (b2n d.approved + 2 * d.rd R.EN_STATUS_JTAG_OPEN + 4 * b2n s.fuse.tamperArm + 8 * d.rd R.EN_STATUS_SEAL_FAULT) ++ Config.uid ++ nonce ++
    leBytes 12 (time96Of d.now) ++ leBytes 8 d.tk.etick ++ leBytes 8 d.sealCtr ++ leBytes 8 d.mram.epoch ++ leBytes 1 s.fuse.svn ++
    leBytes 1 s.fuse.revokedMask ++ leBytes 1 (d.rd R.BT_STATUS_SLOT) ++ leBytes 1 (d.rd R.ID_PART_SKU) ++ leBytes 4 (d.rd R.UNIT_PRESENT) ++
    leBytes 4 (bundleVer d.boot.header) ++ leBytes 2 mask ++ leBytes 6 0 ++ regs.flatMap d.mreg
  m ++ Config.ed448Sign Config.ak (ascii "IH-ATTEST-1") m

def svcAttest (q : SvcReq) (s : State) : SvcOut :=
  if q.data.length ≠ 34 then svcFail s 0x0301 else ⟨0, s.attest (slice q.data 0 32) (le16 q.data 32), s⟩

/-- ATTEST (R411). -/
def execAttest (k : Nat) (s : State) : Host.Outcome State Fault Refusal := .next (s.service k 0x0001 svcAttest)

def svcMregExtend (q : SvcReq) (s : State) : SvcOut :=
  let i := byteAt q.data 0
  if q.data.length ≠ 71 then svcFail s 0x0301
  else if i < 6 ∨ 15 < i then svcFail s 0x0302
  else
    let d := s.dev.measure i (le16 q.data 1) (le32 q.data 3) (slice q.data 7 64)
    ⟨0, d.mreg i, { s with dev := d }⟩

/-- MREG_EXTEND (R411, R386). -/
def execMregExtend (k : Nat) (s : State) : Host.Outcome State Fault Refusal := .next (s.service k 0x0002 svcMregExtend)

/-! ## Key provisioning (R406-R410) -/

/-- Key length and number of indices of a type (Table 16.7). -/
def keyLen (ty : Nat) : Nat := if ty = 3 then 64 else 32
def keyCount (ty : Nat) : Nat := if ty = 1 then 16 else if ty = 2 then 64 else if ty = 3 then 4096 else if ty = 4 then 256 else 0

/-- Is a key's target in use (R408). -/
def Dev.keyInUse (d : Dev) (ty idx : Nat) : Bool :=
  if ty = 1 then bit (byteAt (d.principal idx) 0) 0
  else if ty = 2 then d.sa.any (fun e => e.2.cak == idx && bit (byteAt (SMap.getD d.sc (e.1 / 4) []) 8) 1)
  else if ty = 3 then d.mram.namespaces.any (fun e => nsEncrypt e.2 && nsKey e.2 == idx && SMap.getD d.mram.attach e.1 0 != 0)
  else false

/-- Install a key of a type (R402, R408); a CAK is kept with its CKN. -/
def Dev.installKey (d : Dev) (ty idx : Nat) (key ckn : Bytes) : Dev :=
  if ty = 1 then d.installPrincipal idx key
  else if ty = 2 then d.setRec 2 idx (key ++ ckn)
  else if ty = 3 then ((d.setRec 3 idx key).setEncl (fun x => { x with keys := SMap.put x.keys idx key })).count R.CR_KEY_INSTALLS
  else (d.setEncl (fun x => { x with bulk := SMap.put x.bulk idx key })).count R.CR_KEY_INSTALLS

/-- Destroy a key of a type. -/
def Dev.destroyKey (d : Dev) (ty idx : Nat) : Dev :=
  if ty = 3 then (d.delRec 3 idx).setEncl (fun x => { x with keys := SMap.del x.keys idx })
  else if ty = 4 then d.setEncl (fun x => { x with bulk := SMap.del x.bulk idx })
  else d.delRec ty idx

/-- The key of an import package, none where decapsulation or unwrap fails (R407). -/
def importKey (b : Bytes) : Option Bytes :=
  match Config.kemDecap (slice b 48 1568) with
  | none => none
  | some ss => Config.kwUnwrap (Config.kmac256 ss (Config.uid ++ slice b 0 48) (ascii "IH-IMPORT-1")) (b.drop 1616)

/-- Is a package within Table 16.7. -/
def packageOk (b : Bytes) : Bool :=
  let ty := le16 b 0
  decide (le16 b 2 < keyCount ty) && le16 b 4 == keyLen ty && byteAt b 7 == 0 && zeroRange b 40 8 &&
    (if ty = 2 then decide (1 ≤ byteAt b 6 ∧ byteAt b 6 ≤ 32) && zeroRange b (8 + byteAt b 6) (32 - byteAt b 6)
     else byteAt b 6 == 0 && zeroRange b 8 32)

/-- The receipt of an import (R408). -/
def receiptOf (ty idx ctr : Nat) (digest : Bytes) : Bytes :=
  let m := Config.uid ++ leBytes 2 ty ++ leBytes 2 idx ++ digest ++ leBytes 8 ctr
  m ++ Config.mlDsaSign (ascii "IH-RECEIPT-1") m

def svcKeyImport (q : SvcReq) (s : State) : SvcOut :=
  let b := q.data
  let ty := le16 b 0
  let idx := le16 b 2
  let halves := match importKey b with
    | some key => ty == 3 && slice key 0 32 == slice key 32 32
    | none => false
  if b.length ≠ 1624 + le16 b 4 then svcFail s 0x0301
  else if !packageOk b || halves then svcFail s 0x0302
  else if s.dev.keyInUse ty idx then svcFail s 0x0401
  else
    match importKey b with
    | none => svcFail s 0x0601
    | some key =>
      let digest := Config.shake256 b 64
      let ckn := [BitVec.ofNat 8 (byteAt b 6)] ++ slice b 8 32
      ⟨0, digest, s.onDev (fun d =>
        let e := d.installKey ty idx key ckn
        if q.prin < 16 then { e with mram := { e.mram with receipts := SMap.put e.mram.receipts q.prin (receiptOf ty idx q.ctr digest) } } else e)⟩

/-- KEY_IMPORT (R407, R408). -/
def execKeyImport (k : Nat) (s : State) : Host.Outcome State Fault Refusal := .next (s.service k 0x0010 svcKeyImport)

def svcKeyDestroy (q : SvcReq) (s : State) : SvcOut :=
  let ty := le16 q.data 0
  let idx := le16 q.data 2
  if q.data.length ≠ 4 then svcFail s 0x0301
  else if keyCount ty ≤ idx then svcFail s 0x0302
  else if s.dev.keyInUse ty idx then svcFail s 0x0401
  else ⟨0, [], s.onDev (fun d => d.destroyKey ty idx)⟩

/-- KEY_DESTROY (R408). -/
def execKeyDestroy (k : Nat) (s : State) : Host.Outcome State Fault Refusal := .next (s.service k 0x0011 svcKeyDestroy)

def svcBulkKeygen (q : SvcReq) (s : State) : SvcOut :=
  if q.data.length ≠ 2 then svcFail s 0x0301
  else if 256 ≤ le16 q.data 0 then svcFail s 0x0302
  else ⟨0, [], { s with dev := (s.dev.drbg 32).2.installKey 4 (le16 q.data 0) (s.dev.drbg 32).1 [] }⟩

/-- BULK_KEYGEN (R406). -/
def execBulkKeygen (k : Nat) (s : State) : Host.Outcome State Fault Refusal := .next (s.service k 0x0012 svcBulkKeygen)

/-- Does a run of bytes lie in HBM area 7. -/
def Dev.inArea7 (d : Dev) (a n : Nat) : Bool := decide (d.areaBase 7 * gib ≤ a ∧ a + n ≤ d.areaBase 8 * gib)

/-- The output of a bulk operation, none where a tag fails; the key is the one the handle names (R410). -/
def bulkOut (op : Nat) (key iv aad src tag : Bytes) : Option Bytes :=
  if op = 1 then some (Config.gcmSeal key iv aad src)
  else if op = 2 then Config.gcmOpen key iv aad (src ++ tag)
  else if op = 5 then some (Config.shake256 src Config.bulkShakeLen)
  else some ((List.range src.length).map (Config.xtsBulkByte (op == 3) key (slice iv 0 8) src))

/-- The bytes that a bulk operation writes. -/
def bulkOutLen (op n : Nat) : Nat := if op = 1 then n + 16 else if op = 5 then Config.bulkShakeLen else n

def svcBulk (q : SvcReq) (s : State) : SvcOut :=
  let b := q.data
  let d := s.dev
  let op := byteAt b 0
  let h := le16 b 1
  let src := le64 b 5
  let dst := le64 b 13
  let n := le32 b 21
  let aadAt := le64 b 37
  let aadLen := le32 b 45
  let inLen := if op = 2 then n + 16 else n
  let key := if op = 5 then some [] else if op = 3 ∨ op = 4 then SMap.get? d.encl.keys h else SMap.get? d.encl.bulk h
  if b.length ≠ 49 then svcFail s 0x0301
  else if op < 1 ∨ 5 < op ∨ le16 b 3 ≠ 0 ∨ 2 ^ 24 < n ∨ (op ≠ 5 ∧ (if op = 3 ∨ op = 4 then 4096 else 256) ≤ h) then svcFail s 0x0302
  else if !(d.inArea7 src inLen && d.inArea7 dst (bulkOutLen op n) && (aadLen == 0 || d.inArea7 aadAt aadLen)) then svcFail s 0x0302
  else
    match key with
    | none => svcFail s 0x0401
    | some key =>
      let data := memReadN s.hbm src n
      let put (x : Bytes) : State :=
        if x = [] then s
        else if d.hbmAllowed 0x16 dst x.length true then { s with hbm := memWriteN s.hbm dst x }
        else s.onDev (fun e => e.hbmRefuse 0x16 dst x.length true)
      match bulkOut op key (slice b 25 12) (memReadN s.hbm aadAt aadLen) data (memReadN s.hbm (src + n) 16) with
      | none => ⟨0x0601, [], put (List.replicate n 0#8)⟩
      | some x => ⟨0, [], (put x).onDev (fun e => (e.count R.CR_BULK_OPS).count R.CR_BULK_OCTETS n)⟩

/-- BULK (R410). -/
def execBulk (k : Nat) (s : State) : Host.Outcome State Fault Refusal := .next (s.service k 0x0013 svcBulk)

/-! ## MACsec services (R409) -/

/-- A CAK with its CKN as IEEE 802.1X takes them. -/
def Dev.cakKey (d : Dev) (i kind : Nat) : Option Bytes :=
  (d.keyRec 2 i).map (fun r => Config.cakKdf kind (slice r 0 32) (slice r 33 (byteAt r 32)))

def svcMkaIcv (q : SvcReq) (s : State) : SvcOut :=
  let n := le16 q.data 1
  if q.data.length ≠ 3 + n then svcFail s 0x0301
  else if 64 ≤ byteAt q.data 0 then svcFail s 0x0302
  else
    match s.dev.cakKey (byteAt q.data 0) 0 with
    | none => svcFail s 0x0401
    | some ick => ⟨0, Config.cmac ick (q.data.drop 3), s⟩

/-- MKA_ICV (R409). -/
def execMkaIcv (k : Nat) (s : State) : Host.Outcome State Fault Refusal := .next (s.service k 0x0020 svcMkaIcv)

/-- The status that forbids a change of an SA's key: 0x0302 where port, SC or AN does not exist or the SC is not valid, 0x0401 for the
active transmit AN whose SA is installed, else 0. -/
def Dev.saStop (d : Dev) (port sc an : Nat) : Nat :=
  let e := byteAt (SMap.getD d.sc (port * 128 + sc) []) 8
  if 16 ≤ port ∨ 128 ≤ sc ∨ 4 ≤ an then 0x0302
  else if !d.formed port || !bit e 0 then 0x0302
  else if bit e 1 && e / 4 % 4 == an && SMap.has d.sa ((port * 128 + sc) * 4 + an) then 0x0401
  else 0

/-- Install a SAK. -/
def Dev.installSak (d : Dev) (port sc an cak : Nat) (key : Bytes) : Dev :=
  { d with sa := SMap.put d.sa ((port * 128 + sc) * 4 + an) { key := key, cak := cak } }.count R.CR_KEY_INSTALLS

def svcSakGenerate (q : SvcReq) (s : State) : SvcOut :=
  let b := q.data
  let stop := s.dev.saStop (byteAt b 1) (byteAt b 2) (byteAt b 3)
  if b.length ≠ 8 then svcFail s 0x0301
  else if 64 ≤ byteAt b 0 then svcFail s 0x0302
  else if stop ≠ 0 then svcFail s stop
  else
    match s.dev.cakKey (byteAt b 0) 1 with
    | none => svcFail s 0x0401
    | some kek =>
      let r := s.dev.drbg 32
      ⟨0, Config.kwWrap kek r.1, { s with dev := r.2.installSak (byteAt b 1) (byteAt b 2) (byteAt b 3) (byteAt b 0) r.1 }⟩

/-- SAK_GENERATE (R409). -/
def execSakGenerate (k : Nat) (s : State) : Host.Outcome State Fault Refusal := .next (s.service k 0x0021 svcSakGenerate)

def svcSakInstall (q : SvcReq) (s : State) : SvcOut :=
  let b := q.data
  let stop := s.dev.saStop (byteAt b 1) (byteAt b 2) (byteAt b 3)
  if b.length ≠ 44 then svcFail s 0x0301
  else if 64 ≤ byteAt b 0 then svcFail s 0x0302
  else if stop ≠ 0 then svcFail s stop
  else
    match s.dev.cakKey (byteAt b 0) 1 with
    | none => svcFail s 0x0401
    | some kek =>
      match Config.kwUnwrap kek (slice b 4 40) with
      | none => svcFail s 0x0601
      | some key => ⟨0, [], s.onDev (fun d => d.installSak (byteAt b 1) (byteAt b 2) (byteAt b 3) (byteAt b 0) key)⟩

/-- SAK_INSTALL (R409). -/
def execSakInstall (k : Nat) (s : State) : Host.Outcome State Fault Refusal := .next (s.service k 0x0022 svcSakInstall)

def svcSaClear (q : SvcReq) (s : State) : SvcOut :=
  let b := q.data
  let stop := s.dev.saStop (byteAt b 0) (byteAt b 1) (byteAt b 2)
  if b.length ≠ 3 then svcFail s 0x0301
  else if stop ≠ 0 then svcFail s stop
  else ⟨0, [], s.onDev (fun d => { d with sa := SMap.del d.sa ((byteAt b 0 * 128 + byteAt b 1) * 4 + byteAt b 2) })⟩

/-- SA_CLEAR (R409). -/
def execSaClear (k : Nat) (s : State) : Host.Outcome State Fault Refusal := .next (s.service k 0x0023 svcSaClear)

/-! ## Self-test, zeroisation (R397, R413) -/

/-- SELF_TEST begins: the module leaves OPERATIONAL until SELF_TEST_DONE. -/
def Dev.selfTest (d : Dev) (slot : Option Nat) : Dev :=
  (d.wr R.EN_STATUS_STATE 0).setEncl (fun x => { x with testSlot := slot, order := x.order.filter (fun k => some k != slot) })

def svcSelfTest (q : SvcReq) (s : State) : SvcOut :=
  if q.data ≠ [] then svcFail s 0x0301 else ⟨0, [], s.onDev (fun d => d.selfTest (some q.slot))⟩

/-- SELF_TEST (R397): the tests start; SELF_TEST_DONE ends them and answers the request. -/
def execSelfTest (k : Nat) (s : State) : Host.Outcome State Fault Refusal := .next (s.service k 0x0030 svcSelfTest)

/-- Every CSP but DS is destroyed: inline key stores, ENCL SRAM, MRAM key records (R413). -/
def Dev.zeroise (d : Dev) : Dev :=
  let e := { d with sa := [], mram := { d.mram with keyRec := [] } }
  (e.setEncl (fun x => { x with keys := [], bulk := [] })).flag R.EN_STATUS_APPROVED

def svcZeroise (q : SvcReq) (s : State) : SvcOut := if q.data ≠ [] then svcFail s 0x0301 else ⟨0, [], s.onDev Dev.zeroise⟩

/-- ZEROISE (R413). -/
def execZeroise (k : Nat) (s : State) : Host.Outcome State Fault Refusal := .next (s.service k 0x0031 svcZeroise)

/-! ## SEAL_RESEAT (R412) -/

/-- Does a signed seal of this device verify under JK. -/
def sealVerifies (b : Bytes) : Bool :=
  b.length == 306 && slice b 8 16 == Config.uid &&
    Config.ed448Verify (Config.ed448Pub Config.jk) (ascii "IH-HIDE-SEAL-1") (slice b 0 192) (slice b 192 114)

/-- EN_STATUS as a word, with the fuse (Table 16.9). -/
def State.enStatus (s : State) : Nat :=
  s.dev.rd R.EN_STATUS_STATE + 4 * b2n s.dev.approved + 8 * s.dev.rd R.EN_STATUS_JTAG_OPEN + 16 * b2n s.fuse.tamperArm +
    32 * s.dev.rd R.EN_STATUS_SEAL_FAULT + 256 * s.dev.rd R.EN_STATUS_ERR_CODE

/-- The reseat; `readBack` says whether the new value reads back. The region is rewritten before that is known. -/
def State.sealReseat (s : State) (b : Bytes) (readBack : Bool) : SvcOut :=
  if !s.dev.on R.EN_STATUS_SEAL_FAULT then svcFail s 0x0401 (leBytes 4 s.enStatus)
  else if !sealVerifies b then svcFail s 0x0601
  else
    let n := ((s.dev.mram.sealStore.filter (fun e => sealVerifies e.2)).map (fun e => le64 e.2 48)).foldl max (le64 b 48) + 2 ^ 20
    let cleared := s.onDev (fun d => { d with mram := { d.mram with sealWords := [] } })
    if !readBack then ⟨0x0401, leBytes 4 s.enStatus, cleared⟩
    else
      ⟨0, leBytes 8 n, cleared.onDev (fun d =>
        ({ d with mram := { d.mram with sealWords := [(n % 65536, n)] } }.wr R.EN_STATUS_SEAL_FAULT 0).err (srcNum 0x1B 3) 6 n)⟩

/-- SEAL_RESEAT (R412). -/
def execSealReseat (k : Nat) (readBack : Bool) (s : State) : Host.Outcome State Fault Refusal :=
  .next (s.service k 0x0032 (fun q s => if q.data.length ≠ 306 then svcFail s 0x0301 else s.sealReseat q.data readBack))

/-! ## JTAG (R415) -/

def svcJtagChallenge (q : SvcReq) (s : State) : SvcOut :=
  let r := s.dev.drbg 32
  if q.data ≠ [] then svcFail s 0x0301
  else ⟨0, r.1, { s with dev := r.2.setEncl (fun x => { x with challenge := some (r.1, s.dev.tk.etick) }) }⟩

/-- JTAG_CHALLENGE (R415). -/
def execJtagChallenge (k : Nat) (s : State) : Host.Outcome State Fault Refusal := .next (s.service k 0x00F0 svcJtagChallenge)

/-- Is a challenge live: less than 60 s old. -/
def Dev.liveChallenge (d : Dev) : Option Bytes :=
  match d.encl.challenge with
  | some (c, t) => if d.tk.etick < t + 7500000000 then some c else none
  | none => none

/-- JTAG_CHALLENGE_EXPIRE (R415). -/
def execJtagChallengeExpire (s : State) : Host.Outcome State Fault Refusal :=
  .next (s.onDev (fun d => if d.liveChallenge.isSome then d else d.setEncl (fun x => { x with challenge := none })))

def svcJtagUnlock (q : SvcReq) (s : State) : SvcOut :=
  let b := q.data
  let scope := byteAt b 58
  if b.length ≠ 173 then svcFail s 0x0301
  else if 3 < byteAt b 0 ∨ scope = 0 ∨ 8 ≤ scope then svcFail s 0x0302
  else
    match s.dev.liveChallenge with
    | none => svcFail s 0x0401
    | some c =>
      let pk := slice b 1 57
      if (s.fuse.keySlots pk).contains (byteAt b 0) &&
          Config.ed448Verify pk (ascii "IH-JTAG-1") (Config.uid ++ c ++ [BitVec.ofNat 8 scope]) (slice b 59 114) then
        ⟨0, [], s.onDev (fun d => (d.zeroise.flag R.EN_STATUS_JTAG_OPEN).setEncl (fun x => { x with scope := x.scope ||| scope }))⟩
      else svcFail s 0x0601

/-- JTAG_UNLOCK (R415): a valid signature zeroises the module and opens the scope until the next cold reset. -/
def execJtagUnlock (k : Nat) (s : State) : Host.Outcome State Fault Refusal := .next (s.service k 0x00F1 svcJtagUnlock)

/-! ## Tamper (R414) -/

/-- TAMPER_ARM_PERM: the status and the state after it (R447 for the fuse supply). -/
def State.tamperArm (s : State) : Nat × State :=
  if s.fuse.tamperArm then (0, s)
  else if !s.dev.pins.fuseOk then (0x0402, s)
  else (0, { s with fuse := { s.fuse with tamperArm := true } })

/-- TAMPER_ARM_PERM (R414): the command blows the arming fuse. -/
def execTamperArmPerm (s : State) : Host.Outcome State Fault Refusal := .next (s.tamperArm.2.answer s.tamperArm.1)

/-- TAMPER (R414): `cause` has a bit for TAMPER_N, voltage, clock, temperature, shield. -/
def execTamper (cause : Nat) (s : State) : Host.Outcome State Fault Refusal :=
  let s1 := s.onDev (fun d =>
    let e := (d.raise 1 (srcNum 0x1B 1) cause).zeroise
    { e with mram := { e.mram with tamperCause := cause, tampers := satAdd 16 e.mram.tampers 1 }, rst := { e.rst with cold := some 3 } })
  .next (if s.fuse.tamperArm then { s1 with fuse := { s1.fuse with dsKill := true } } else s1)

end Sys2Proof.Machine
end

