-- ==== Sys2Proof/Machine/RegRules.lean ====
section
/-!
DEFINITION. What a write of a value to a register field must obey, and what follows it, whatever path carries it (R8, R10, R457, R356): the
ranges of the register tables, the states in which a chapter ignores or refuses a write, and the effects of fields that have no
command of their own. REGISTER_WRITE and the object dictionary both use it.
-/
namespace Sys2Proof.Machine

/-- A field that a write would set: channel, element, value. -/
structure Assign where
  f : Field
  c : Nat := 0
  i : Nat := 0
  v : Nat
  deriving DecidableEq, Repr

/-- Why a field keeps its value: whether the whole write changes nothing (R457), the status and data of an object write (R353, R356), the fields
that say so (field, value, channel). -/
structure RegStop where
  whole : Bool := false
  status : Nat := 0x0302
  data : Bytes := []
  marks : List (Field × Nat × Nat) := []
  deriving DecidableEq, Repr

/-- The value that a field has after a list of assignments. -/
def Dev.newVal (d : Dev) (l : List Assign) (f : Field) (c : Nat := 0) (i : Nat := 0) : Nat :=
  match l.reverse.find? (fun a => a.f == f && a.c == c && a.i == i) with
  | some a => a.v
  | none => d.rd f c i

/-! ## Ranges -/

/-- The fields with a range narrower than their width: lowest and highest value. -/
def fieldRanges : List (Field × Nat × Nat) :=
  [(R.PT_MTU, 64, 9216), (R.PT_CTRL_FEC, 0, 2), (R.PT_CTRL_FC, 0, 2), (R.PT_CTRL_LPBK, 0, 2), (R.MS_CTRL_VALIDATE, 0, 2), (R.MS_CTRL_CONF_OFFSET, 0, 2),
   (R.TB_SLEW_MAX, 1, 200000), (R.TB_FREQ_LIMIT, 1, 1000000), (R.TB_LOCK_LOCK_COUNT, 1, 255), (R.PPS_OUT_WIDTH, 8, 999999999),
   (R.TT_START_NS, 0, 999999999), (R.SQ_CTRL_K, 0, 10), (R.SQ_GUARD, 0, 100000),
   (R.SQ_EPOCH_NS, 0, 999999999), (R.SQ_STALL_LIMIT, 1000, 10000000), (R.SQ_HOLD_MAX, 1024, 32768), (R.HD_SEAL_PERIOD, 100, 1000000),
   (R.HD_SEAL_RECORDS, 1024, 1048576), (R.PR_MALF_ACTION, 0, 2), (R.PF_CTRL_NWIN, 0, 16), (R.WIN_LEN, 1, 16), (R.LN_HOLDDOWN, 0, 1000000)] ++
  [(R.BURN_PERIOD_FT, 1000, 3600000), (R.BURN_PERIOD_MT, 100, 3600000), (R.QS_CFG_QUANTUM, 1, 1023), (R.GT_BASE_NS, 0, 999999999),
   (R.RQ_COUNT, 0, 65536), (R.PC_TARGET, 1, 6), (R.IR_GRANT_POOL, 1024, 32768), (R.IR_CMB_XOFF, 1024, 8192), (R.IR_NAK_DELAY, 100, 65535),
   (R.IR_ACK_EVERY, 1, 255), (R.IQ_TIMERS_RTO, 1, 65535), (R.NV_DIRTY_MAX, 65536, 4128768), (R.CF_CTRL_FC_MODE, 0, 2),
   (R.CS_FLUSH, 10, 1000000), (R.HG_CTRL, 0, 2), (R.FB_SYNC_PERIOD, 100, 1000000), (R.PW_GUARD, 100, 65535),
   (R.PW_QUIET_CTRL_CAP, 1, 3)]

/-- Does a value lie in its field's range. -/
def rangeOk (a : Assign) : Bool :=
  match fieldRanges.find? (fun x => x.1 == a.f) with
  | some x => decide (x.2.1 ≤ a.v ∧ a.v ≤ x.2.2)
  | none =>
    if a.f == R.CF_SNAP then decide (a.v = 0 ∨ (64 ≤ a.v ∧ a.v ≤ 16384))
    else if a.f == R.FP_ASYM then decide ((signed 32 a.v).natAbs ≤ 65536000)
    else if a.f == R.PW_QUIET_START || a.f == R.PW_QUIET_END then decide (a.v % 2 ^ 32 < 10 ^ 9)
    else true

/-- The values that the fields of a part without a unit, or of one element, do not take (R4, R110, R115, R141). -/
def Dev.valueOk (d : Dev) (a : Assign) : Bool :=
  rangeOk a &&
    (if a.f == R.SQ_CTRL_CL_ROLE then decide (a.v = 0 ∨ (a.v < 3 ∧ d.unit 1))
     else if a.f == R.HD_DRAIN then decide (a.v < 2 ∨ (a.v = 2 ∧ d.unit 2))
     else if a.f == R.PR_MALF_ACTION && a.i == 16 then a.v == 0
     else true)

/-! ## Whole-write limits -/

/-- Is a list of assignments free of the combinations that leave a whole write ignored: XON above XOFF, a window past byte 511, a template flag
that LN_FLOW_TMPL may not set. -/
def Dev.comboOk (d : Dev) (l : List Assign) (a : Assign) : Bool :=
  if a.f == R.PT_PFC_THR_PFC_XOFF || a.f == R.PT_PFC_THR_PFC_XON then
    decide (d.newVal l R.PT_PFC_THR_PFC_XON a.c ≤ d.newVal l R.PT_PFC_THR_PFC_XOFF a.c)
  else if a.f == R.LN_FLOW_TMPL_FLAGS then decide (a.v &&& 0xD3 = 0)
  else if a.f == R.WIN_OFFSET || a.f == R.WIN_LEN then
    decide (d.newVal l R.WIN_OFFSET a.c a.i + d.newVal l R.WIN_LEN a.c a.i ≤ 512)
  else true

/-! ## States -/

/-- CL_BANK[5:0], the bank state (Table 5.6). -/
def Dev.bankState (d : Dev) : Nat :=
  d.rd R.CL_BANK_ACTIVE + d.rd R.CL_BANK_SWAP_PENDING <<< R.CL_BANK_SWAP_PENDING.lo + d.rd R.CL_BANK_OLD_BUSY <<< R.CL_BANK_OLD_BUSY.lo +
    d.rd R.CL_BANK_COPY_BUSY <<< R.CL_BANK_COPY_BUSY.lo

/-- A write that a state keeps out whole: the status of an object write, its data, and WR_REFUSED with a cause. -/
def stopState (refused cause : Field) (n c : Nat) (data : Bytes := []) (status : Nat := 0x0401) : RegStop :=
  { whole := true, status := status, data := data, marks := [(refused, 1, c), (cause, n, c)] }

/-- The registers that START latches, and SQ_GSN_NEXT (R106, R107). -/
def latchedBySeq (f : Field) : Bool :=
  [R.SQ_GUARD, R.SQ_EPOCH_NS, R.SQ_EPOCH_SEC, R.SQ_ENROL, R.SQ_CL_BASE, R.SQ_CL_P, R.SQ_CL_ROOT, R.SQ_CL_TIMEOUT, R.SQ_GSN_NEXT].contains f

/-- Would a port's range of queues overlap another's, or end beyond queue 262,143 (R176). -/
def Dev.rangeBad (d : Dev) (l : List Assign) (p : Nat) : Bool :=
  let b := d.newVal l R.RQ_BASE p
  let n := d.newVal l R.RQ_COUNT p
  decide (262144 < b + n) ||
    (List.range 16).any (fun q => q != p && decide (b < d.rd R.RQ_BASE q + d.rd R.RQ_COUNT q ∧ d.rd R.RQ_BASE q < b + n))

/-- Would a port join a release group whose members run another mode (R190). -/
def Dev.joinBad (d : Dev) (l : List Assign) (p : Nat) : Bool :=
  d.newVal l R.RN_CTRL_RG_EN p == 1 &&
    (List.range 16).any (fun q => q != p && d.on R.RN_CTRL_RG_EN q && d.rd R.RN_CTRL_RG q == d.newVal l R.RN_CTRL_RG p &&
      decide (d.portMode q ≠ d.portMode p))

/-- Is the enable of a policer refused (R183). -/
def Dev.policerBad (d : Dev) (l : List Assign) (n : Nat) : Bool :=
  let two := d.newVal l R.PL_CTRL_MODE n == 0
  (two && decide (d.newVal l R.PL_PIR n < d.newVal l R.PL_CIR n)) || d.newVal l R.PL_CBS n == 0 || (two && d.newVal l R.PL_PBS n == 0)

/-- The shadow registers of a gate list (R187). -/
def gateShadow (f : Field) : Bool :=
  [R.GT_LEN, R.GT_BASE_NS, R.GT_BASE_SEC, R.GT_CYCLE, R.GT_ENTRY_GATES, R.GT_ENTRY_INTERVAL].contains f

/-- Is a field configuration of a queue pair that only RESET lets be written (R248). -/
def qpConfig (f : Field) : Bool :=
  f.chan == .window && decide (0x06001008 ≤ f.addr ∧ f.addr < 0x060010B4 ∧ f.addr ≠ 0x060010A0) && f.ty == .rw

/-- Is a field a parser profile's (Table 5.5), or an Awl pattern's. -/
def isProfile (f : Field) : Bool := f.chan == .window && f.addr >>> 20 == 0x030
def isPattern (f : Field) : Bool := f.chan == .window && f.addr >>> 20 == 0x031

/-- The configuration of a trigger (R91). -/
def trigConfig (f : Field) : Bool :=
  [R.TT_START_NS, R.TT_START_SEC, R.TT_PERIOD, R.TT_WIDTH, R.TT_REPEAT, R.TT_TARGET, R.TT_PORTS].contains f

/-- The cause that refuses a write to a stream's control, target or share (R313), 0 for none. -/
def Dev.streamWriteCause (d : Dev) (l : List Assign) (s : Nat) : Nat :=
  d.streamCause s (d.newVal l R.CS_CTRL_DEST s) (d.newVal l R.CS_STAGE s) (d.newVal l R.CS_TARGET s)

/-- Is a cluster's or a controller's vector closed to writes (R389): the target is released; cluster 0's is the enclave's. -/
def Dev.vectorClosed (d : Dev) (req : Nat) (a : Assign) : Option RegStop :=
  if a.f == R.CL_VECTOR_LO || a.f == R.CL_VECTOR_HI then
    (if d.on R.CLU_STATUS_RELEASED a.c || (a.c == 0 && req != 4148) then some (stopState R.CLU_STATUS_REL_REFUSED R.CLU_STATUS_CAUSE 4 a.c) else none)
  else if a.f == R.SV_VECTOR && d.on R.SV_STATUS_RELEASED a.c then some (stopState R.SV_STATUS_REL_REFUSED R.SV_STATUS_CAUSE 4 a.c)
  else none

/-- May a port's LL be set (R48), with the FEC that the same write gives it; an FEC that the write does not change counts as it stands (R457). -/
def Dev.llFits (d : Dev) (l : List Assign) (p : Nat) : Bool :=
  let v := d.newVal l R.PT_CTRL_FEC p
  if d.portMode p = 6 ∧ v < 2 then d.formed p && v == 0 else d.llOk p

/-- Chapters 1 to 4 and 17. -/
def Dev.stopA (d : Dev) (req : Nat) (l : List Assign) (a : Assign) : Option RegStop :=
  if a.f == R.GRP_RESET_ALLOW then (if d.on R.RSTC_LOCK then some { status := 0x0401 } else none)
  else if a.f == R.PT_CTRL_FEC then
    (if a.v = d.rd R.PT_CTRL_FEC a.c then none
     else if d.portMode a.c ≠ 6 ∨ ¬d.formed a.c then some { status := 0x0401 } else if 1 < a.v then some {} else none)
  else if a.f == R.PT_CTRL_LL then (if a.v == 0 || d.llFits l a.c then none else some { status := 0x0401 })
  else if a.f == R.SD_TXEQ_PRE || a.f == R.SD_TXEQ_MAIN || a.f == R.SD_TXEQ_POST then
    (if (List.range 16).any (fun p => d.formed p && (d.lanes p).contains a.c && d.rd R.PT_STATUS_LSTATE p == 2) then
      some { whole := true, status := 0x0401 } else none)
  else if trigConfig a.f then
    (if d.on R.TT_STATUS_ARMED a.c then some { whole := true, status := 0x0401, marks := [(R.TT_STATUS_WR_REFUSED, 1, a.c)] } else none)
  else if latchedBySeq a.f || ((a.f == R.SQ_CTRL_K || a.f == R.SQ_CTRL_CL_ROLE) && a.v != d.rd a.f) then
    (if d.seqRunning then
      some { status := 0x0401, data := leBytes 1 (d.rd R.SQ_STATUS_STATE), marks := [(R.SQ_STATUS_WR_IGNORED, 1, 0)] } else none)
  else if a.f == R.PW_QUIET_START || a.f == R.PW_QUIET_END || a.f == R.PW_QUIET_CTRL_GROUPS then
    (if d.on R.PW_QUIET_CTRL_ARM then
      some { status := 0x0401, marks := [(R.PW_STATUS_WR_REFUSED, 1, 0)],
             data := leBytes 1 (d.rd R.PW_QUIET_CTRL_ARM + 2 * d.rd R.PW_QUIET_CTRL_CAP + 16 * d.rd R.PW_QUIET_CTRL_GROUPS) } else none)
  else if a.f == R.PI_NE_SW then (if 0x0D ≤ a.c ∧ a.c ≤ 0x14 then none else some {})
  else d.vectorClosed req a

/-- Chapters 5 to 7. -/
def Dev.stopB (d : Dev) (l : List Assign) (a : Assign) : Option RegStop :=
  if isProfile a.f then
    (if d.bankBusy || a.c / 256 == d.activeBank then some (stopState R.PR_STATUS_WR_REFUSED R.PR_STATUS_CAUSE 1 0 (leBytes 1 d.bankState)) else none)
  else if isPattern a.f then
    (if d.bankBusy || a.c / 65536 == d.activeBank || d.on R.AW_CTRL_VALID a.c then
      some (stopState R.AW_STATUS_WR_REFUSED R.AW_STATUS_CAUSE 1 0 (leBytes 1 d.bankState)) else none)
  else if a.f == R.RQ_BASE || a.f == R.RQ_COUNT then
    (if d.rangeBad l a.c then some (stopState R.RN_STATUS_WR_REFUSED R.RN_STATUS_CAUSE 1 0 [] 0x0302) else none)
  else if a.f == R.RN_CTRL_RG_EN || a.f == R.RN_CTRL_RG then
    (if d.joinBad l a.c then some (stopState R.RN_STATUS_WR_REFUSED R.RN_STATUS_CAUSE 2 0) else none)
  else if gateShadow a.f then
    (if (d.gate a.c).pend.isSome then some (stopState R.GT_STATUS_REFUSED R.GT_STATUS_CAUSE 1 a.c) else none)
  else if a.f == R.PL_CTRL_EN && a.v == 1 && !d.on R.PL_CTRL_EN a.c then
    (if d.policerBad l a.c then some { marks := [(R.PL_STATUS, 1, 0)] } else none)
  else none

/-- Chapters 8 to 13. -/
def Dev.stopC (d : Dev) (l : List Assign) (a : Assign) : Option RegStop :=
  if [R.RG_BASE_LO, R.RG_BASE_HI, R.RG_CFG_LOG2_SIZE, R.RG_CFG_TYPE, R.RG_CFG_PFMODE, R.RG_CFG_NOTIFY_ALL, R.RG_CFG_EQ_EN, R.RG_CFG_EQ].contains a.f then
    (if d.on R.RG_CTRL_ENABLE a.c || !d.on R.RG_STATUS_IDLE a.c then some (stopState R.RG_STATUS_WR_REFUSED R.RG_STATUS_CAUSE 5 a.c) else none)
  else if [R.EQ_BASE_LO, R.EQ_BASE_HI, R.EQ_CFG_LOG2_SIZE, R.EQ_CFG_VECTOR, R.EQ_CFG_MOD].contains a.f then
    (if d.on R.EQ_CTRL_ENABLE a.c then some (stopState R.EQ_STATUS_WR_REFUSED R.EQ_STATUS_CAUSE 3 a.c) else none)
  else if qpConfig a.f then
    (if d.rd R.IQ_STATUS_STATE a.c != 0 then some (stopState R.IQ_STATUS_WR_REFUSED R.IQ_STATUS_CAUSE 1 a.c) else none)
  else if [R.CS_CTRL_EN, R.CS_CTRL_COMPRESS, R.CS_CTRL_DEST, R.CS_TARGET, R.CS_STAGE].contains a.f then
    (let n := d.streamWriteCause l a.c
     if n = 0 then none
     else some (stopState R.CS_STATUS_WR_REFUSED R.CS_STATUS_CAUSE n a.c [] (if n = 1 then 0x0401 else 0x0302)))
  else if a.f == R.SK_SEED || a.f == R.SK_UNIT then
    (if d.on R.CP_CTRL then some (stopState R.CP_STATUS_WR_REFUSED R.CP_STATUS_CAUSE 2 0) else none)
  else none

/-- A window past byte 511 sets WR_REFUSED with cause 1 (Table 5.5). -/
def windowMarks (f : Field) : List (Field × Nat × Nat) :=
  if f == R.WIN_OFFSET || f == R.WIN_LEN then [(R.PR_STATUS_WR_REFUSED, 1, 0), (R.PR_STATUS_CAUSE, 1, 0)] else []

/-- Why an assignment of a write fails; none where it takes effect. A field whose value is ignored keeps its previous value in what the
others are judged by (R457). A state that keeps a write out says so whatever its value. -/
def Dev.regStop (d : Dev) (req : Nat) (l : List Assign) (a : Assign) : Option RegStop :=
  let l := l.filter d.valueOk
  let st := ((d.stopA req l a).orElse (fun _ => d.stopB l a)).orElse (fun _ => d.stopC l a)
  let marks := (st.map (·.marks)).getD []
  let whole := (st.map (·.whole)).getD false
  if !d.valueOk a then some { whole := whole, marks := marks }
  else if !d.comboOk l a then some { whole := true, marks := marks ++ windowMarks a.f }
  else st

/-- The marks of a stop. -/
def Dev.mark (d : Dev) (s : RegStop) : Dev := d.each s.marks (fun e m => e.wr m.1 m.2.1 m.2.2)

/-! ## Effects -/

/-- A byte of TC_WEIGHT that is written as 0 keeps its value. -/
def keepZero (old new : Nat) : Nat :=
  ((List.range 8).map (fun k => (if new / 256 ^ k % 256 = 0 then old / 256 ^ k % 256 else new / 256 ^ k % 256) * 256 ^ k)).sum

/-- An entry of a shadow gate list takes a field of GT_ENTRY: `idx` is the entry. -/
def Dev.gateEntry (d : Dev) (p idx : Nat) (f : Field) (v : Nat) : Dev :=
  let w := SMap.getD (d.gate p).shadow idx 0x8FF
  let w' := if f.lo = 0 then w / 256 * 256 + v % 256 else w % 256 + v % 2 ^ 24 * 256
  d.setGate p (fun g => { g with shadow := SMap.put g.shadow idx w' })

/-- The value of a field is set, with what follows from it. `req` owns per-requester copies. -/
def Dev.setField (d : Dev) (req : Nat) (a : Assign) : Dev :=
  let e := d.wr a.f a.v a.c a.i req
  if a.f == R.PT_CTRL_FEC then d.fecWrite a.c a.v
  else if a.f == R.SQ_ENROL then e.enrolStatus
  else if a.f.addr = R.SYNCE_RCLK_EN.addr then e.synce
  else if a.f == R.LN_CTRL_BURN_FT || a.f == R.LN_CTRL_BURN_MT then
    e.when (a.v == 1 && !d.on a.f) (fun x => x.burnRestart (a.f == R.LN_CTRL_BURN_MT))
  else if a.f == R.BURN_PERIOD_FT || a.f == R.BURN_PERIOD_MT then e.burnRestart (a.f == R.BURN_PERIOD_MT)
  else if a.f == R.FB_CTRL_EN then e.each (List.range 8) Dev.fabPortCtl
  else if a.f == R.RN_CTRL_RG_EN || a.f == R.RN_CTRL_RG then
    e.when (a.v != d.rd a.f a.c) (fun x => x.wr R.RG_ALIGNED (setBit (x.rd R.RG_ALIGNED) a.c false))
  else if a.f == R.GT_ENTRY_GATES || a.f == R.GT_ENTRY_INTERVAL then d.gateEntry a.c (d.rd R.GT_IDX a.c 0 req) a.f a.v
  else if a.f == R.TC_WEIGHT then d.wr a.f (keepZero (d.rd a.f a.c) a.v) a.c
  else if a.f == R.CS_CTRL_EN && a.v == 1 then (e.setStream a.c (fun x => { x with segNo := 0 })).wr R.CS_STATUS_IDLE 0 a.c
  else if a.f == R.PW_QUIET_CTRL_ARM && a.v == 0 && d.pwr.quiet then d.quietEnd
  else if a.f == R.PI_CAP then e.when (a.v != d.rd a.f a.c) (fun x => x.wake a.c)
  else e

/-- What an enable bit that changes does to its engine, after the other fields of the write: a shaper starts or ends (R181), a policer's buckets
are full (R183), a gate list stands before its first cycle (R185), a static device takes its fabric address (R333). `d` is the device before the write. -/
def Dev.enables (d : Dev) (e : Dev) (a : Assign) : Dev :=
  if a.f == R.QS_CFG_SH_EN then e.when (a.v != d.rd a.f a.c) (fun x => x.shapeQ a.c (a.v == 1))
  else if a.f == R.RN_CTRL_TC_SH_EN then
    e.each ((List.range 8).filter (fun tc => bit a.v tc != bit (d.rd a.f a.c) tc)) (fun x tc => x.shapeTc a.c tc (bit a.v tc))
  else if a.f == R.PL_CTRL_EN then e.when (a.v == 1 && !d.on a.f a.c) (fun x => { x with police := SMap.put x.police a.c (x.fullBucket a.c) })
  else if a.f == R.GT_CTRL_EN then e.when (a.v != d.rd a.f a.c) (fun x => x.gateFresh a.c)
  else if a.f == R.FB_ADDR_STATIC || ((a.f == R.FB_CTRL_EN || a.f == R.FB_CTRL_ADDR_MODE) && a.v == 1 && !d.on a.f) then
    e.when (e.on R.FB_CTRL_EN && e.on R.FB_CTRL_ADDR_MODE) Dev.fabStatic
  else e

/-- Do a list of assignments that no state keeps out, in order. -/
def Dev.assignAll (d : Dev) (req : Nat) (l : List Assign) : Dev := (d.each l (fun e a => e.setField req a)).each l (fun e a => d.enables e a)

/-- A register write of several fields (R457): one that a whole-write limit meets changes nothing; else each field that nothing stops takes its
value. The marks of every stop are set. -/
def Dev.regAssign (d : Dev) (req : Nat) (l : List Assign) : Dev :=
  let stops := l.map (fun a => (a, d.regStop req l a))
  let e := d.each (stops.filterMap (fun x => x.2)) Dev.mark
  if stops.any (fun x => (x.2.map (fun s => s.whole)).getD false) then e
  else e.assignAll req ((stops.filter (fun x => x.2.isNone)).map (fun x => x.1))

/-- An object write of the same values (R352, R356): the first stop, values before states, gives its status and data, and nothing changes. -/
def Dev.objAssign (d : Dev) (l : List Assign) : Nat × Bytes × Dev :=
  let stops := l.filterMap (fun a => d.regStop 4149 l a)
  match (stops.find? (fun s => s.status == 0x0302)).or stops.head? with
  | some s => (s.status, s.data, d)
  | none => (0, [], d.assignAll 4149 l)

end Sys2Proof.Machine
end

