-- ==== Sys2Proof/Machine/View.lean ====
section
/-!
DEFINITION. What a read of a register returns (R8, R10, R64, R208, R209): the value stored, or for a field that shows other state that state;
CHSEL and CHSEL_STATUS; the function registers of Table 8.5.
-/
namespace Sys2Proof.Machine

/-! ## Fields that show other state -/

/-- How often the reset pair of two groups has come up (R23, R24). -/
def Dev.pairUps (d : Dev) (a b : Nat) : Nat := SMap.getD d.rst.ups (8 * min a b + max a b) 0

/-- The remaining phase in 2^-16 ns (Table 3.3); of a remainder, whether it rounds up is open (log entry 5). -/
def slewShown (slew : Int) : Int := if slew % 65536 ≠ 0 && Config.slewUp slew then slew / 65536 + 1 else slew / 65536

/-- LACE, HBM, time base, calibration (chapters 1 and 3). -/
def Dev.viewTime (d : Dev) (f : Field) (c i : Nat) : Option Nat :=
  if f == R.OVR_SUM then some (((List.range 32).map (fun b => b2n (d.on R.LC_STATUS_OVERRUN (32 * i + b)) * 2 ^ b)).sum)
  else if f == R.LC_ID_SRC_ISLAND then some (Config.lcSrc c % 64)
  else if f == R.LC_ID_DST_ISLAND then some (Config.lcDst c % 64)
  else if f == R.LC_ID_KIND then some (Config.lcKind c % 4)
  else if f == R.LC_ID_SOURCE then some (Config.lcSource c % 64)
  else if f == R.LC_ID_PRESENT then some 1
  else if f == R.LC_STATUS_DOWN then some (b2n (d.lacingDown c))
  else if f == R.LC_RESETS then some (d.pairUps (islandGroup (Config.lcSrc c)) (islandGroup (Config.lcDst c)) % 65536)
  else if f == R.TB_STATUS_SLEWING then some (b2n (d.tb.slew != 0))
  else if f == R.TB_SLEW_REMAIN then some (twos 64 (slewShown d.tb.slew))
  else if f == R.TB_CAL_DIGEST then some (leNat d.cal.digest)
  else if f == R.CAL_F_RX then some (twos 32 (factoryRx c (d.rateCode c)))
  else if f == R.TB_HO_ELAPSED then some (d.hoElapsed % 2 ^ 32)
  else if f == R.CAL_F_TX then some (twos 32 (factoryTx c (d.rateCode c)))
  else if f == R.CAL_USER_TX then some (twos 32 (sat32 (d.userTx c)))
  else if f == R.CAL_USER_RX then some (twos 32 (sat32 (d.userRx c)))
  else if f == R.CAL_EFF_TX then some (twos 32 (d.calEff c).dTx)
  else if f == R.CAL_EFF_RX then some (twos 32 (d.calEff c).dRx)
  else if f == R.CAL_STATUS_RATE then some (d.rateCode c)
  else if f == R.CAL_STATUS_SAT then some (b2n (d.calSat c))
  else if f == R.HM_STATUS_TEMP then (if d.on R.HM_STATUS_TRAINED then some (Config.hbmTemp d.tk.etick) else none)
  else if f == R.TS_F_DELAY then some (twos 32 (Config.tsDelay (c - 16)))
  else none

/-- Tables, scheduling, capture, fabric (chapters 5 to 7, 12, 13). -/
def Dev.viewData (d : Dev) (req : Nat) (f : Field) (c i : Nat) : Option Nat :=
  let idx (x : Field) : Nat := d.rd x c 0 req
  if f == R.GEOM_ACT then
    some (d.rd R.EM_GEOM_BASE d.activeBank i + d.rd R.EM_GEOM_EN d.activeBank i * 2 ^ 15 + d.rd R.EM_GEOM_LOG2_BUCKETS d.activeBank i * 2 ^ 16 +
      d.rd R.EM_GEOM_WIDTH d.activeBank i * 2 ^ 21)
  else if f == R.SEED_ACT then some (d.rd R.EM_SEED d.activeBank i)
  else if f.addr >>> 20 = 0x032 ∧ (f == R.EM_GEOM_BASE || f == R.EM_GEOM_EN || f == R.EM_GEOM_LOG2_BUCKETS || f == R.EM_GEOM_WIDTH || f == R.EM_SEED ||
      f == R.EM_USED) then
    some (d.rd f d.shadowBank i)
  else if f == R.LPM_POOL then some (lpmPool i)
  else if f == R.LPM_DATA_LO then some (d.lpmWord c (idx R.LPM_IDX) % 2 ^ 32)
  else if f == R.QS_CREDIT then some (if d.on R.QS_CFG_SH_EN c then twos 32 ((d.credQ c).at' (d.cyc * 1000) / 1024) else 0)
  else if f == R.TCS_CREDIT then some (if bit (d.rd R.RN_CTRL_TC_SH_EN c) i then twos 32 ((d.credTc c i).at' (d.cyc * 1000) / 1024) else 0)
  else if f == R.GT_STATUS_GATES then some (d.gatesNow c)
  else if f == R.GT_STATUS_ENTRY then some (d.gate c).entry
  else if f == R.PL_TC then some ((d.buckets c).tc / byteUnit)
  else if f == R.PL_TP then some ((d.buckets c).tp / byteUnit)
  else if f == R.GT_ENTRY_GATES then some (SMap.getD (d.gate c).shadow (idx R.GT_IDX) 0x8FF % 256)
  else if f == R.GT_ENTRY_INTERVAL then some (SMap.getD (d.gate c).shadow (idx R.GT_IDX) 0x8FF / 256)
  else if f == R.HD_RING_FREE then some (d.ringFree / 2 ^ 10)
  else if f == R.HG_COUNT then some (if idx R.HG_IDX ≤ 1984 then SMap.getD d.capt.hist ((d.frozen * 64 + c) * 2048 + idx R.HG_IDX) 0 else 0)
  else if f == R.HG_TOTAL then some (SMap.getD d.capt.hist ((d.frozen * 64 + c) * 2048 + 2046) 0)
  else if f == R.HG_SUM then some (SMap.getD d.capt.hist ((d.frozen * 64 + c) * 2048 + 2047) 0)
  else if f == R.FP_F_RX then some (Config.fabRx c % 2 ^ 32)
  else if f == R.FP_F_TX then some (Config.fabTx c % 2 ^ 32)
  else if f == R.RT_ENTRY_LIVE then some (d.rd R.RT_ENTRY_MASK c &&& d.rd R.FB_STATUS_PORTS_UP)
  else none

/-- Identity, HOST, mailboxes, faults (chapters 8, 9, 14, 17). -/
def Dev.viewHost (d : Dev) (req : Nat) (f : Field) (c i : Nat) : Option Nat :=
  let vec := d.rd R.MX_IDX c 0 req
  if f == R.ETICK_LO then some (d.tk.etick % 2 ^ 32)
  else if f == R.ID_UID then some (le32 Config.uid (4 * i))
  else if f == R.MX_ENTRY then some (if vec < d.msixSize c then le32 (d.msixEntry c vec) (4 * i) else 0)
  else if f == R.MX_STATE_PENDING then some (b2n ((d.fn c).pba.contains vec))
  else if f == R.MX_STATE_FN_MASK then some (b2n (d.fn c).mask)
  else if f == R.MX_STATE_SIZE then some (d.msixSize c - 1)
  else if f == R.RG_OWNER then some ((d.ringOwner c).getD 0)
  else if f == R.PC_LINK_PERST then some (b2n (if c = 0 then d.rst.perstA else d.rst.perstB))
  else if f == R.MB_STATUS_OWN then
    some (b2n (d.on R.MB_STATUS_CLAIMED c && isHart req && d.rd R.MB_STATUS_OWNER c == req - 4104))
  else if f == R.MB_LEVEL then some (if c = 0 then d.objNat 0x1105 0 2 else d.objNat 0x1106 0 2)
  else if f == R.MB_BUF then
    (if c = 0 ∨ (d.on R.MB_STATUS_CLAIMED c && isHart req && d.rd R.MB_STATUS_OWNER c == req - 4104) then none else some 0)
  else if f == R.PI_STATUS_WAKING then some 0
  else if f == R.FL_HEAD then some (d.mram.logSeq % 4096)
  else if f == R.FL_SEQ_NEXT then some d.mram.logSeq
  else if f == R.FL_REC then
    (match SMap.get? d.mram.log c with
    | some x => some (le32 (x.encode ((d.mram.logSeq + 2 ^ 32 - 1 - (d.mram.logSeq + 4095 - c) % 4096) % 2 ^ 32)) (4 * i))
    | none => some 0)
  else if f == R.MM_STATUS_WINDOW then some (d.mram.logSeq / 4096 % 128)
  else none

/-- Boot, fuses and the enclave (chapters 15 and 16). -/
def State.viewSecure (s : State) (req : Nat) (f : Field) (c i : Nat) : Option Nat :=
  let d := s.dev
  if f == R.FUSE_KEYS_REVOKED then some s.fuse.revokedMask
  else if f == R.FUSE_KEYS_PROGRAMMED then some programmedMask
  else if f == R.FUSE_SVN then some s.fuse.svn
  else if f == R.KEY_DIGEST then some (le32 (Config.keyDigest (i / 8)) (4 * (i % 8)))
  else if f == R.CLU_STATUS_PRESENT then some (b2n (d.clPresent c))
  else if f == R.SV_STATUS_PRESENT then some (b2n (d.svPresent c))
  else if f == R.SV_ROLE then some (c / 3)
  else if f == R.EN_STATUS_APPROVED then some (b2n d.approved)
  else if f == R.EN_STATUS_TAMPER_PERM then some (b2n s.fuse.tamperArm)
  else if f == R.EN_TAMPER_CAUSE then some d.mram.tamperCause
  else if f == R.EN_TAMPER_COUNT then some d.mram.tampers
  else if f == R.ES_STATUS_OWN then some (b2n (d.on R.ES_STATUS_CLAIMED c && d.rd R.ES_STATUS_OWNER c == req))
  else if f == R.ES_BUF then (if d.on R.ES_STATUS_CLAIMED c && d.rd R.ES_STATUS_OWNER c == req then none else some 0)
  else if f == R.CR_STATUS then some (b2n d.encl.inhibit)
  else if f == R.CR_SAK_USED then some d.sa.length
  else if f == R.CR_XTS_USED then some d.encl.keys.length
  else if f == R.CR_BULK_USED then some d.encl.bulk.length
  else none

/-- The value of a field as a requester reads it; write-only fields read zero (Table 0.4). -/
def State.view (s : State) (req : Nat) (f : Field) (c i : Nat) : Nat :=
  let d := s.dev
  let v := (((d.viewTime f c i).orElse (fun _ => d.viewData req f c i)).orElse (fun _ => d.viewHost req f c i)).orElse
    (fun _ => s.viewSecure req f c i)
  if f.ty = .wo then 0 else (v.getD (d.rd f c i req)) % 2 ^ f.width

/-! ## Words -/

/-- The word at a device address in a channel. A wide field's later words are those that its low word's read latched for the requester, for a
counter (R64); those of other pairs are read as they stand. -/
def State.wordAt (s : State) (req : Nat) (t : Target) : Nat :=
  (t.fields.map (fun p =>
    let (f, i, w) := p
    let c := t.ch f
    let now := s.view req f c i
    let v := if f.width = 64 ∧ f.ty = .ro ∧ w = 1 then (RegFile.get? s.dev.regs (latchKey f c i req)).getD (now >>> 32)
      else now >>> (32 * w)
    (v % 2 ^ (32 - f.lo)) <<< f.lo % 2 ^ 32)).sum % 2 ^ 32

/-- The word at a device address of block `addr >>> 20`, channel kind and number, as the dictionary engine reads it: no latch takes part. -/
def State.wordOf (s : State) (addr : Nat) (k : Chan) (c : Nat) : Nat :=
  let t : Target := { addr := addr, chan := k, c := c }
  (t.fields.map (fun p => ((s.view 4149 p.1 (t.ch p.1) p.2.1 >>> (32 * p.2.2)) % 2 ^ (32 - p.1.lo)) <<< p.1.lo % 2 ^ 32)).sum % 2 ^ 32

/-- `n` words from a device address, little-endian. -/
def State.wordsOf (s : State) (addr : Nat) (k : Chan) (c n : Nat) : Bytes :=
  (List.range n).flatMap (fun j => leBytes 4 (s.wordOf (addr + 4 * j) k c))

/-- CHSEL_STATUS.BAD of a block or a view for a requester (R209, R366). -/
def Dev.chselBad (d : Dev) (req addr : Nat) : Bool :=
  let v := d.rd (chselField (addr - 4)) 0 0 req
  if addr < 0x10000000 then (d.selectChan req (addr >>> 20) v).isNone
  else
    let view := (addr - 0x10000000) / 0x2000
    decide ((if view = 1 then d.rd R.FN_RING_COUNT req else if view = 2 then d.rd R.FN_EQ_COUNT req else if view = 3 then d.rd R.FN_QP_COUNT req
      else d.host.vfs.getD req 0) ≤ v)

/-- The blocks with a channel window. -/
def hasWindow (blk : Nat) : Bool :=
  [0x001, 0x003, 0x010, 0x011, 0x012, 0x020, 0x021, 0x022, 0x030, 0x031, 0x032, 0x034, 0x035, 0x040, 0x041, 0x042, 0x043, 0x050, 0x051, 0x052, 0x053,
   0x054, 0x060, 0x070, 0x071, 0x080, 0x090, 0x0B0, 0x0B1, 0x0D0, 0x0E0, 0x0F0].contains blk

/-- Is an address the CHSEL of a block or of a view (Table 8.6). -/
def isChsel (addr : Nat) : Bool :=
  (decide (addr < 0x10000000) && addr % 0x100000 == 0 && hasWindow (addr >>> 20)) ||
    [0x10002000, 0x10004000, 0x10006000, 0x10008000].contains addr

/-- The function registers FNW (Table 8.5). -/
def State.fnw (s : State) (req off : Nat) : Nat :=
  let d := s.dev
  if off = 0 then req + d.fnPf req * 2 ^ 13 + b2n (decide (8 ≤ req)) * 2 ^ 16 + d.fnType req * 2 ^ 20
  else if off = 4 then d.rd R.FN_RING_COUNT req
  else if off = 8 then d.rd R.FN_EQ_COUNT req
  else if off = 12 then d.rd R.FN_QP_COUNT req
  else if off = 16 then d.rd R.UNIT_PRESENT
  else if off = 0x18 then d.rd R.TB_NOW0 0 0 req
  else if off = 0x1C then d.rd R.TB_NOW1 0 0 req
  else if off = 0x20 then d.rd R.TB_NOW2_SEC_HI 0 0 req + d.rd R.TB_NOW2_SUBNS 0 0 req * 65536
  else 0

/-- What a read of a word returns to a requester. -/
def State.readWord (s : State) (req addr : Nat) : Nat :=
  match windowOff req addr with
  | some off =>
    if off < 0x2000 then (if s.dev.fnPf req = 5 ∨ s.dev.fnPf req = 6 then 0 else s.fnw req off)
    else
      match s.dev.target req addr with
      | none => 0
      | some t =>
        if isChsel t.addr then s.dev.rd (chselField t.addr) 0 0 req
        else if isChsel (t.addr - 4) && decide (4 ≤ t.addr) then b2n (s.dev.chselBad req t.addr)
        else s.wordAt req t
  | none =>
    if s.dev.absentBlock (addr >>> 20) then 0
    else if isChsel addr then s.dev.rd (chselField addr) 0 0 req
    else if isChsel (addr - 4) && decide (4 ≤ addr) then b2n (s.dev.chselBad req addr)
    else
      match s.dev.target req addr with
      | some t => s.wordAt req t
      | none => 0

end Sys2Proof.Machine
end

