-- ==== Sys2Proof/Machine/ObjTable.lean ====
section
/-!
DEFINITION. The object dictionary's tables (Tables 1.12, 2.12, 3.13, 4.13, 5.9, 6.14, 7.9, 8.14, 9.13, 10.13, 11.11, 12.6, 13.9, 14.8, 14.9, 15.11,
16.11, 17.11, 18.11): every object with its type, access class, level, owning reset group and unit, and the register fields that it mirrors.
-/
namespace Sys2Proof.Machine

/-- The types of Table 14.1. -/
inductive ObjTy where
  | bool | num (n : Nat) | time | octets (n : Nat) | str (n : Nat) | domain | command
  deriving DecidableEq, Repr

/-- The access classes of Table 0.5. -/
inductive ObjAcc where
  | const | ro | rw | wo | rwp
  deriving DecidableEq, Repr

/-- How a mirrored field's channel or element follows from the object's address: fixed; the sub-index less 1, plus a base; the index
less the row's first. -/
inductive Sel where
  | fix (n : Nat) | sub (base : Nat) | idx (base : Nat)
  deriving DecidableEq, Repr

/-- A register field that an object mirrors: the field, its lowest bit within the object's value, channel and element. -/
structure Slot where
  f : Field
  pos : Nat := 0
  ch : Sel := .fix 0
  el : Sel := .fix 0
  deriving DecidableEq, Repr

/-- A row of an object table: `span` indices from `idx`, sub-indices `lo` to `hi`. `grp` is the reset group of the island that owns it. -/
structure ObjRow where
  idx : Nat
  lo : Nat
  hi : Nat
  ty : ObjTy
  acc : ObjAcc
  slots : List Slot := []
  grp : Nat := 0
  unit : Option Nat := none
  level : Nat := 2
  span : Nat := 1
  deriving DecidableEq, Repr

/-- Slots of global fields, of fields by port, by element. -/
def g1 (f : Field) (pos : Nat := 0) : Slot := { f := f, pos := pos }
def p1 (f : Field) (pos : Nat := 0) (base : Nat := 0) : Slot := { f := f, pos := pos, ch := .sub base }
def e1 (f : Field) (pos : Nat := 0) : Slot := { f := f, pos := pos, el := .sub 0 }
def x1 (f : Field) (pos : Nat := 0) : Slot := { f := f, pos := pos, ch := .idx 0 }

/-- An object of a type and class, mirroring fields. -/
def o1 (idx sub : Nat) (ty : ObjTy) (acc : ObjAcc) (grp : Nat := 0) (slots : List Slot := []) : ObjRow :=
  { idx := idx, lo := sub, hi := sub, ty := ty, acc := acc, slots := slots, grp := grp }

/-- The same for sub-indices 1 to `n`. -/
def oN (idx n : Nat) (ty : ObjTy) (acc : ObjAcc) (grp : Nat := 0) (slots : List Slot := []) : ObjRow :=
  { idx := idx, lo := 1, hi := n, ty := ty, acc := acc, slots := slots, grp := grp }

/-- Tables 1.12 and 2.12. -/
def objHbmPorts : List ObjRow :=
  [o1 0x6010 0 (.num 1) .const, oN 0x6011 7 (.num 2) .ro, oN 0x6012 7 (.num 8) .ro, o1 0x6013 0 (.num 2) .rwp, o1 0x6014 0 (.num 2) .rwp,
   o1 0x6015 0 (.num 2) .ro, o1 0x6016 0 .bool .ro, o1 0x6017 0 .command .wo,
   oN 0x2000 4 (.num 1) .rwp 3, oN 0x2001 16 .bool .rwp 3, oN 0x2002 16 (.num 1) .rwp 3 [p1 R.PT_CTRL_FEC], oN 0x2003 16 .bool .rwp 3 [p1 R.PT_CTRL_LL],
   oN 0x2004 16 (.num 1) .rwp 3 [p1 R.PT_CTRL_AN_EN, p1 R.PT_CTRL_LT_EN 1], oN 0x2005 16 (.num 2) .rwp 3 [p1 R.PT_MTU],
   oN 0x2006 16 (.num 8) .rwp 3 [p1 R.PT_CTRL_FC, p1 R.PT_PFC_PFC_RX_EN 8, p1 R.PT_PFC_PFC_TX_EN 16, p1 R.PT_PFC_PAUSE_QUANTA 32],
   oN 0x2007 16 (.num 1) .ro 3 [p1 R.PT_STATUS_LSTATE],
   oN 0x2008 2 (.num 2) .rwp 3 [e1 R.SYNCE_RCLK_LANE, e1 R.SYNCE_RCLK_DIV 4, e1 R.SYNCE_RCLK_EN 6, e1 R.SYNCE_RCLK_AUTO_SQUELCH 7, e1 R.SYNCE_RCLK_SQUELCHED 8],
   oN 0x2010 16 (.num 1) .rwp 3 [p1 R.MS_CTRL_TX_EN, p1 R.MS_CTRL_RX_EN 1, p1 R.MS_CTRL_VALIDATE 2, p1 R.MS_CTRL_XPN 4, p1 R.MS_CTRL_CONF_OFFSET 5,
     p1 R.MS_CTRL_INCLUDE_SCI 7],
   { idx := 0x2020, span := 16, lo := 1, hi := 128, ty := .octets 16, acc := .rw, grp := 3 }, oN 0x2030 16 (.num 8) .rwp 3]

/-- Table 3.13. -/
def objTime : List ObjRow :=
  [o1 0x3000 0 .time .ro, o1 0x3001 1 .bool .rwp 0 [g1 R.TB_CTRL_SERVO_EN], o1 0x3001 2 (.num 1) .rwp 0 [g1 R.TB_CTRL_SRC],
   o1 0x3001 3 .bool .rwp 0 [g1 R.TB_CTRL_L1_SYNT], o1 0x3002 0 (.num 1) .ro 0 [g1 R.TB_STATUS_STATE], o1 0x3003 0 .time .wo, o1 0x3004 0 (.num 8) .wo,
   o1 0x3005 0 (.num 4) .rwp 0 [g1 R.TB_STEP_THRESH], o1 0x3006 0 (.num 4) .rwp 0 [g1 R.TB_SLEW_MAX], o1 0x3007 0 (.num 4) .rwp 0 [g1 R.TB_FREQ_LIMIT],
   o1 0x3008 1 (.num 2) .rwp 0 [g1 R.TB_GAIN_KP], o1 0x3008 2 (.num 2) .rwp 0 [g1 R.TB_GAIN_KI], o1 0x3009 1 (.num 2) .rwp 0 [g1 R.TB_LOCK_LOCK_THRESH],
   o1 0x3009 2 (.num 1) .rwp 0 [g1 R.TB_LOCK_LOCK_COUNT], o1 0x3009 3 (.num 4) .rwp 0 [g1 R.TB_HO_TIMEOUT], o1 0x300A 0 (.num 8) .rw 0 [g1 R.TB_INCR],
   o1 0x300B 0 (.num 8) .ro 0 [g1 R.TB_LAST_OFFSET], { o1 0x300C 0 (.octets 8) .rw 0 [g1 R.TB_GM_ID] with level := 1 }, o1 0x300D 0 (.octets 8) .ro,
   o1 0x300E 0 (.num 1) .rwp] ++
  [{ idx := 0x3100, span := 17, lo := 1, hi := 12, ty := .num 4, acc := .const }, { idx := 0x3100, span := 17, lo := 17, hi := 28, ty := .num 4, acc := .const },
   { idx := 0x3180, span := 17, lo := 1, hi := 4, ty := .num 4, acc := .rwp }, { idx := 0x3180, span := 17, lo := 5, hi := 8, ty := .num 4, acc := .ro },
   { idx := 0x3200, span := 16, lo := 1, hi := 1, ty := .time, acc := .rw, slots := [x1 R.TT_START_NS, x1 R.TT_START_SEC 32] },
   { idx := 0x3200, span := 16, lo := 2, hi := 2, ty := .num 8, acc := .rw, slots := [x1 R.TT_PERIOD] },
   { idx := 0x3200, span := 16, lo := 3, hi := 3, ty := .num 4, acc := .rw, slots := [x1 R.TT_WIDTH] },
   { idx := 0x3200, span := 16, lo := 4, hi := 4, ty := .num 4, acc := .rw, slots := [x1 R.TT_REPEAT] },
   { idx := 0x3200, span := 16, lo := 5, hi := 5, ty := .num 2, acc := .rw, slots := [x1 R.TT_TARGET] },
   { idx := 0x3200, span := 16, lo := 6, hi := 6, ty := .num 2, acc := .rw, slots := [x1 R.TT_PORTS] },
   { idx := 0x3200, span := 16, lo := 7, hi := 7, ty := .bool, acc := .rw },
   oN 0x3220 9 (.num 1) .rwp 0 [p1 R.TS_CTRL_EDGE 0 16], oN 0x3221 9 (.num 4) .rwp 0 [p1 R.TS_DELAY 0 16], oN 0x3222 9 (.num 4) .const,
   o1 0x3230 1 (.num 1) .rwp 0 [g1 R.PPS_CTRL_OUT_EN, g1 R.PPS_CTRL_OUT_QUAL 1], o1 0x3230 2 (.num 4) .rwp 0 [g1 R.PPS_OUT_WIDTH],
   o1 0x3230 3 (.num 4) .rwp 0 [g1 R.PPS_OUT_DELAY]]

/-- Table 4.13. -/
def objSeq : List ObjRow :=
  [o1 0x3300 1 .command .wo, o1 0x3300 2 .command .wo, o1 0x3301 0 (.num 1) .ro 0 [g1 R.SQ_STATUS_STATE], o1 0x3302 1 (.num 1) .rwp 0 [g1 R.SQ_CTRL_K],
   o1 0x3302 2 (.num 4) .rwp 0 [g1 R.SQ_GUARD], o1 0x3302 3 .time .rwp 0 [g1 R.SQ_EPOCH_NS, g1 R.SQ_EPOCH_SEC 32], o1 0x3302 4 (.num 2) .rwp 0 [g1 R.SQ_ENROL],
   o1 0x3302 5 .bool .rwp 0 [g1 R.SQ_CTRL_GAP_MODE], o1 0x3302 6 (.num 4) .rwp 0 [g1 R.SQ_STALL_LIMIT], o1 0x3302 7 (.num 2) .rwp 0 [g1 R.SQ_HOLD_MAX],
   o1 0x3303 0 (.num 8) .rw 0 [g1 R.SQ_GSN_NEXT], o1 0x3304 1 (.num 2) .rwp 0 [g1 R.SQ_CTRL_CL_ROLE], o1 0x3304 2 (.num 2) .rwp 0 [g1 R.SQ_CL_BASE],
   o1 0x3304 3 (.num 2) .rwp 0 [g1 R.SQ_CL_P], o1 0x3304 4 (.num 2) .rwp 0 [g1 R.SQ_CL_ROOT], o1 0x3304 5 (.num 4) .rwp 0 [g1 R.SQ_CL_TIMEOUT],
   o1 0x3305 1 (.num 8) .ro 0 [g1 R.SQ_LATE], o1 0x3305 2 (.num 8) .ro 0 [g1 R.SQ_UNSEQ], o1 0x3305 3 (.num 8) .ro 0 [g1 R.SQ_DROP],
   o1 0x3305 4 (.num 8) .ro 0 [g1 R.SQ_CL_MISMATCH]] ++
  [o1 0x3400 1 (.num 4) .rwp 7 [g1 R.HD_SEAL_PERIOD], o1 0x3400 2 (.num 4) .rwp 7 [g1 R.HD_SEAL_RECORDS], o1 0x3400 3 .bool .rwp 0 [g1 R.SQ_CTRL_IDLE_SEAL],
   o1 0x3401 0 (.num 8) .ro 7 [g1 R.HD_SEAL_CTR], o1 0x3402 0 (.num 8) .ro 7 [g1 R.HD_EPOCH], o1 0x3403 0 (.octets 306) .ro, o1 0x3404 0 .domain .ro,
   o1 0x3410 1 (.num 1) .rwp 7 [g1 R.HD_DRAIN], o1 0x3410 2 (.num 4) .rwp 7]

/-- Tables 5.9 and 6.14. -/
def objPipe : List ObjRow :=
  [o1 0x2100 1 .command .wo 3, o1 0x2100 2 .command .wo 3, o1 0x2100 3 (.num 1) .ro 3, o1 0x2101 0 (.num 4) .rwp 3 [g1 R.PR_TPID_TPID2, g1 R.PR_TPID_TPID2_EN 16],
   oN 0x2102 64 (.octets 344) .rw 3, oN 0x2103 64 (.octets 344) .ro 3, o1 0x2104 0 .domain .rw 3, o1 0x2105 1 .domain .wo 3, o1 0x2105 2 (.num 4) .ro 3,
   o1 0x2106 0 (.octets 64) .rw 3, oN 0x2107 128 (.octets 16) .rwp 3, oN 0x2108 128 (.octets 16) .rwp 3,
   oN 0x2109 17 (.num 4) .rwp 3 [e1 R.PR_MALF_ACTION, e1 R.PR_MALF_MALF_CLASS 8, e1 R.PR_MALF_RING 16], oN 0x210A 17 (.octets 40) .ro 3] ++
  [o1 0x2200 1 (.num 4) .rwp 3, o1 0x2200 2 (.num 4) .rwp 3, o1 0x2201 0 (.num 4) .rwp 3 [g1 R.FT_MISS_FUNC, g1 R.FT_MISS_DELIVER 13, g1 R.FT_MISS_RING 16],
   o1 0x2202 1 (.num 1) .rwp 3 [g1 R.LN_CTRL_MAC_EN, g1 R.LN_CTRL_FLOW_EN 1, g1 R.LN_CTRL_BURN_FT 2, g1 R.LN_CTRL_BURN_MT 3],
   o1 0x2202 2 (.num 4) .rwp 3 [g1 R.LN_HOLDDOWN], o1 0x2202 3 (.num 8) .rwp 3 [g1 R.LN_FLOW_PROF],
   o1 0x2202 4 (.num 4) .rwp 3 [g1 R.LN_FLOW_TMPL_FLAGS, g1 R.LN_FLOW_TMPL_PORT 8, g1 R.LN_FLOW_TMPL_QUEUE 16],
   o1 0x2202 5 (.num 4) .rwp 3 [g1 R.LN_EXPORT_EN_MAC, g1 R.LN_EXPORT_EN_FLOW 1, g1 R.LN_EXPORT_EQ 16],
   oN 0x2203 16 (.num 4) .rwp 3 [p1 R.LN_PORT_EN, p1 R.LN_PORT_PVID 16], o1 0x2204 1 (.num 4) .rwp 3 [g1 R.BURN_PERIOD_FT],
   o1 0x2204 2 (.num 4) .rwp 3 [g1 R.BURN_PERIOD_MT], o1 0x2205 1 .domain .wo 3, o1 0x2205 2 (.num 4) .ro 3, o1 0x2206 0 .domain .wo 3,
   o1 0x2207 1 (.num 4) .rwp 3 [g1 R.LPM_DEF4_NH, g1 R.LPM_DEF4_VALID 20], o1 0x2207 2 (.num 4) .rwp 3 [g1 R.LPM_DEF6_NH, g1 R.LPM_DEF6_VALID 20],
   o1 0x2208 0 .command .wo 3, o1 0x2209 0 (.octets 128) .ro 3]

/-- The slots of PORT_SCHED and TC_SHAPERS. -/
def schedSlots : List Slot :=
  [p1 R.RN_CTRL_TC_SP, p1 R.RN_CTRL_DOWN_FLUSH 8, p1 R.RN_CTRL_RL_LATE_ACTION 9, p1 R.RN_CTRL_RG_EN 10, p1 R.RN_CTRL_RG 11, p1 R.RN_CTRL_TC_SH_EN 16,
   p1 R.TC_WEIGHT 32]
def shaperSlots : List Slot :=
  (List.range 8).flatMap (fun t => [{ f := R.TCS_RATE, pos := 64 * t, ch := .sub 0, el := .fix t }, { f := R.TCS_BURST, pos := 64 * t + 32, ch := .sub 0, el := .fix t }])

/-- Tables 7.9, 8.14 and 9.13. -/
def objReinHost : List ObjRow :=
  [oN 0x2300 16 (.num 8) .rwp 3 [p1 R.RQ_BASE, p1 R.RQ_COUNT 32], oN 0x2301 16 (.octets 12) .rwp 3 schedSlots, oN 0x2302 16 (.octets 64) .rwp 3 shaperSlots,
   o1 0x2303 0 .domain .rwp 3, o1 0x2304 0 .domain .rwp 3, oN 0x2305 16 .domain .rwp 3, oN 0x2306 8 (.num 4) .rwp 3 [e1 R.RG_PHASE], oN 0x2307 16 (.octets 64) .ro 3] ++
  [o1 0x1200 0 .bool .ro 2 [g1 R.PC_MODE], oN 0x1201 2 (.num 4) .ro 2, oN 0x1202 8 (.num 2) .rwp 2, oN 0x1203 8 (.num 2) .rwp 2, oN 0x1204 8 (.num 1) .rwp 2,
   oN 0x1205 8 (.num 1) .rwp 2, oN 0x1206 8 (.num 1) .rwp 2, oN 0x1207 8 (.num 4) .rwp 2, o1 0x1208 0 .domain .rwp 2, o1 0x1209 0 .domain .ro 2,
   o1 0x120A 0 .bool .ro 2, oN 0x120B 16 .domain .rw 2, o1 0x1210 0 .domain .ro 2, o1 0x1211 0 .domain .ro 2]

/-- Tables 10.13, 11.11. -/
def objIraStor : List ObjRow :=
  [o1 0x4000 1 .bool .rwp 6 [g1 R.IR_CTRL_EN], o1 0x4000 2 .bool .rwp 6 [g1 R.IR_CTRL_ROCE_EN], o1 0x4001 0 (.num 2) .rwp 6 [g1 R.IR_UDP_PORT],
   o1 0x4002 0 (.num 2) .rwp 6 [g1 R.IR_PORT_EN], o1 0x4003 1 (.num 4) .rwp 6 [g1 R.IR_GRANT_POOL], o1 0x4003 2 (.num 4) .rwp 6 [g1 R.IR_CMB_XOFF],
   o1 0x4003 3 (.num 4) .rwp 6 [g1 R.IR_NAK_DELAY], o1 0x4003 4 (.num 4) .rwp 6 [g1 R.IR_ACK_EVERY, g1 R.IR_ACK_DELAY 16], oN 0x4004 16 (.octets 6) .rwp 6,
   o1 0x4005 0 .domain .rwp 6, o1 0x4006 0 .domain .ro 6, o1 0x4007 0 (.octets 64) .ro 6] ++
  ([o1 0x4100 1 (.num 4) .rwp 5 [g1 R.NV_DIRTY_MAX], o1 0x4100 2 .bool .rwp 5, o1 0x4100 3 (.num 2) .rwp 5, o1 0x4100 4 (.num 8) .rwp 5,
    o1 0x4101 0 .domain .rwp 5, o1 0x4102 0 .domain .rwp 5, o1 0x4103 0 .domain .rwp 5, o1 0x4104 0 .domain .rw 5, o1 0x4105 0 .command .wo 5,
    o1 0x4106 0 .domain .ro 5, o1 0x4107 1 (.num 8) .ro 5, o1 0x4107 2 .command .wo 5, o1 0x4108 0 (.num 4) .ro 5, o1 0x4109 0 (.octets 72) .ro 5].map
     (fun r => { r with unit := some 2 }))

/-- The slots of a capture profile and of a stream. -/
def profSlots (b : Nat) : List Slot :=
  [p1 R.CF_CTRL_REC_EN 0 b, p1 R.CF_CTRL_TS_1NS 1 b, p1 R.CF_CTRL_ARM_MODE 2 b, p1 R.CF_CTRL_STREAM 3 b, p1 R.CF_CTRL_SK_EN 6 b, p1 R.CF_CTRL_FC_MODE 7 b,
   p1 R.CF_CTRL_ARM_TRIG 9 b, p1 R.CF_SNAP 32 b, p1 R.CF_ARM_WIN 64 b, p1 R.CF_FC_BASE 96 b, p1 R.CF_HIST_HG 128 b, p1 R.CF_HIST_HG_EN 134 b]
def streamSlots : List Slot :=
  [p1 R.CS_CTRL_EN, p1 R.CS_CTRL_COMPRESS 1, p1 R.CS_CTRL_DEST 2, p1 R.CS_TARGET 32, p1 R.CS_STAGE 64, p1 R.CS_FLUSH 96]

/-- Tables 12.6 and 13.9. -/
def objCaptFab : List ObjRow :=
  [o1 0x4200 0 .bool .rwp 7 [g1 R.CP_CTRL], oN 0x4201 128 (.octets 20) .rwp 7 (profSlots 0), oN 0x4202 128 (.octets 20) .rwp 7 (profSlots 128),
   oN 0x4203 8 (.octets 16) .rwp 7 streamSlots, oN 0x4204 64 (.num 1) .rwp 7 [p1 R.HG_CTRL], { oN 0x4205 4 (.num 4) .rwp 7 [e1 R.SK_SEED] with hi := 4 },
   o1 0x4205 5 (.num 1) .rwp 7 [g1 R.SK_UNIT], o1 0x4206 1 .command .wo 7, o1 0x4206 2 .command .wo 7, oN 0x4207 64 .domain .ro 7, o1 0x4208 0 .domain .ro 7,
   o1 0x4209 0 .domain .ro 7, o1 0x420A 0 .domain .wo 7, oN 0x420B 8 (.num 8) .ro 7, oN 0x420C 8 .command .wo 7, o1 0x420D 0 (.octets 64) .ro 7] ++
  ([o1 0x5000 1 .bool .rwp 6 [g1 R.FB_CTRL_EN], o1 0x5000 2 .bool .rwp 6 [g1 R.FB_CTRL_ROOT_ELIG], o1 0x5000 3 .bool .rwp 6 [g1 R.FB_CTRL_TIME_ELIG],
    o1 0x5000 4 .bool .rwp 6 [g1 R.FB_CTRL_ROUTE_SW], o1 0x5001 0 (.num 2) .rwp 6 [g1 R.FB_ID], o1 0x5002 1 (.num 1) .rwp 6 [g1 R.FB_CTRL_ADDR_MODE],
    o1 0x5002 2 (.num 2) .rwp 6 [g1 R.FB_ADDR_STATIC], o1 0x5002 3 (.num 2) .ro 6 [g1 R.FB_ADDR_ADDR], o1 0x5003 0 (.octets 16) .ro 6,
    o1 0x5004 1 (.num 2) .rwp 6 [g1 R.FB_TIME_TPRIO], o1 0x5004 2 (.num 4) .rwp 6 [g1 R.FB_SYNC_PERIOD], o1 0x5004 3 (.num 4) .rwp 6 [g1 R.FB_ECMP_SEED],
    oN 0x5005 8 .bool .rwp 6 [p1 R.FP_CTRL], oN 0x5006 8 (.num 4) .rwp 6 [p1 R.FP_ASYM], o1 0x5007 0 .domain .ro 6, o1 0x5008 0 .domain .rw 6,
    oN 0x5009 8 (.octets 64) .ro 6, o1 0x500A 0 (.octets 56) .ro 6].map (fun r => { r with unit := some 1 }))

/-- Tables 14.8 and 14.9. -/
def objMgmt : List ObjRow :=
  [o1 0x1000 1 (.str 16) .const, o1 0x1000 2 (.str 16) .const, o1 0x1000 3 (.num 2) .const, o1 0x1000 4 (.num 1) .const, o1 0x1001 0 (.num 4) .const,
   o1 0x1002 0 (.octets 16) .const, oN 0x1003 4 (.num 4) .ro, { o1 0x1004 0 (.str 32) .rwp with level := 1 }, o1 0x1005 0 (.num 8) .ro,
   o1 0x1006 0 (.num 1) .ro 0 [g1 R.COLD_CAUSE], o1 0x1007 0 (.num 4) .ro, o1 0x1100 1 (.num 1) .rwp, o1 0x1100 2 (.octets 6) .const,
   o1 0x1101 1 (.octets 4) .rwp, o1 0x1101 2 (.num 1) .rwp, o1 0x1101 3 (.octets 4) .rwp, o1 0x1102 1 (.octets 16) .rwp, o1 0x1102 2 (.num 1) .rwp,
   o1 0x1102 3 (.octets 16) .rwp, o1 0x1103 1 (.num 2) .rwp, o1 0x1103 2 .bool .rwp, o1 0x1104 0 .command .wo, o1 0x1105 0 (.num 1) .rwp,
   o1 0x1106 0 (.num 1) .rwp, o1 0x1107 0 .bool .rwp, oN 0x1110 16 (.octets 4) .rwp, oN 0x1111 16 (.octets 32) .wo 1, oN 0x1112 16 (.num 8) .ro,
   o1 0x1113 0 (.octets 48) .ro] ++
  [o1 0x7F00 1 .domain .wo, o1 0x7F00 2 (.num 1) .ro, o1 0x7F01 0 .command .wo, o1 0x7F02 0 (.num 1) .ro, o1 0x7F03 0 .command .wo, o1 0x7F04 0 .command .wo,
   oN 0x7F05 2 (.octets 16) .ro, o1 0x7F06 0 (.num 1) .ro 0 [g1 R.BT_STATUS_SLOT]]

/-- Tables 15.11, 16.11, 17.11 and 18.11. XTAL, sub-index 0x16 of 0x6001, is no object (R439). -/
def objSecurePower : List ObjRow :=
  [o1 0x7E00 1 (.num 4) .ro, o1 0x7E00 2 (.num 1) .ro 0 [g1 R.BT_SLOT_RESULT_A, g1 R.BT_SLOT_RESULT_B 4], oN 0x7E01 4 (.octets 32) .const, o1 0x7E02 0 (.num 1) .ro,
   o1 0x7E03 0 (.num 1) .ro, o1 0x7E04 0 (.octets 172) .wo, o1 0x7E05 0 (.num 1) .wo, oN 0x7E06 16 (.octets 64) .ro] ++
  [o1 0x7000 1 (.num 1) .ro 1 [g1 R.EN_STATUS_STATE], o1 0x7000 2 .bool .ro 1, o1 0x7000 3 (.num 1) .ro 1 [g1 R.EN_STATUS_ERR_CODE], oN 0x7001 3 (.octets 57) .const 1,
   o1 0x7001 4 .domain .const 1, o1 0x7001 5 .domain .const 1, o1 0x7002 0 .domain .const 1, o1 0x7003 0 .command .wo 1, o1 0x7004 0 .command .wo 1,
   o1 0x7005 0 (.octets 306) .wo 1, o1 0x7006 0 .command .wo 1, oN 0x7007 16 (.octets 4719) .ro 1, o1 0x7008 0 .domain .ro 1,
   { o1 0x7010 0 .domain .rwp 1 with level := 3 }, { o1 0x7011 0 .domain .rwp 1 with level := 3 }] ++
  [o1 0x6000 0 (.num 4) .rwp 0 [g1 R.PW_GUARD], { oN 0x6001 21 (.num 1) .rwp 0 [p1 R.PI_CAP] with hi := 21 }, { oN 0x6001 28 (.num 1) .rwp 0 [p1 R.PI_CAP] with lo := 23 },
   oN 0x6002 8 (.num 1) .rwp, o1 0x6003 0 (.octets 28) .rw 0 [g1 R.PW_QUIET_START, g1 R.PW_QUIET_END 96, g1 R.PW_QUIET_CTRL_CAP 193, g1 R.PW_QUIET_CTRL_GROUPS 196,
     g1 R.PW_QUIET_CTRL_ARM 192],
   o1 0x6004 0 (.octets 8) .ro, o1 0x6005 0 .domain .ro, o1 0x6006 0 (.num 1) .ro 0 [g1 R.HU_STATE], o1 0x6007 1 .command .wo, o1 0x6007 2 .command .wo,
   o1 0x6007 3 .command .wo, o1 0x6100 0 .domain .ro, o1 0x6101 0 (.num 1) .rwp 0 [g1 R.FL_AUTO 2], o1 0x6102 0 (.octets 16) .ro, o1 0x6103 0 .domain .ro,
   o1 0x6020 0 (.num 1) .ro, o1 0x6021 1 (.num 2) .ro, o1 0x6021 2 (.num 4) .ro, o1 0x6022 0 (.num 4) .ro]

/-- Every object of the device. -/
def objTable : List ObjRow :=
  objHbmPorts ++ objTime ++ objSeq ++ objPipe ++ objReinHost ++ objIraStor ++ objCaptFab ++ objMgmt ++ objSecurePower

/-! ## Looking an object up -/

/-- The rows of an index whose owning unit is present. -/
def Dev.objRows (d : Dev) (idx : Nat) : List ObjRow :=
  objTable.filter (fun r => decide (r.idx ≤ idx ∧ idx < r.idx + r.span) && (match r.unit with
    | some u => d.unit u
    | none => true))

/-- What a request finds: an object, an implicit sub-index 0 with its value, or a status (R348). -/
inductive Found where
  | row (r : ObjRow)
  | count (n : Nat)
  | none (status : Nat)
  deriving DecidableEq, Repr

/-- Look an object up. The sub-index of an island, cluster or PF of an absent unit is listed still (R219, R439). -/
def Dev.objFind (d : Dev) (idx sub : Nat) : Found :=
  let rs := d.objRows idx
  if rs = [] then .none 0x0101
  else
    match rs.find? (fun r => decide (r.lo ≤ sub ∧ sub ≤ r.hi)) with
    | some r => .row r
    | none => if sub = 0 then .count ((rs.map (·.hi)).foldl max 0) else .none 0x0102

/-- The length of a type's value; none where it varies. -/
def ObjTy.size : ObjTy → Option Nat
  | .bool => some 1
  | .num n => some n
  | .time => some 12
  | .octets n => some n
  | .str _ => none
  | .domain => none
  | .command => some 0

/-- Is an object read and written in segments on a path with a segment size (R358). -/
def ObjTy.segmented (t : ObjTy) (seg : Nat) : Bool :=
  match t with
  | .domain => true
  | .octets n => decide (seg < n)
  | .str n => decide (seg < n)
  | _ => false

/-! ## Mirrored values (R356) -/

/-- The channel or element that a selector gives. -/
def Sel.get (s : Sel) (r : ObjRow) (idx sub : Nat) : Nat :=
  match s with
  | .fix n => n
  | .sub b => sub - 1 + b
  | .idx b => idx - r.idx + b

/-- The number that a row's slots hold. -/
def State.slotsRead (s : State) (r : ObjRow) (idx sub : Nat) : Nat :=
  (r.slots.map (fun x => s.view 4149 x.f (x.ch.get r idx sub) (x.el.get r idx sub) * 2 ^ x.pos)).sum

/-- The assignments of a written number. -/
def ObjRow.assigns (r : ObjRow) (idx sub v : Nat) : List Assign :=
  r.slots.map (fun x => { f := x.f, c := x.ch.get r idx sub, i := x.el.get r idx sub, v := v / 2 ^ x.pos % 2 ^ x.f.width })

/-- The bits of a value that no slot takes; a value that sets one is out of range (R356). -/
def ObjRow.spare (r : ObjRow) (v : Nat) : Bool :=
  v != (r.slots.map (fun x => v / 2 ^ x.pos % 2 ^ x.f.width * 2 ^ x.pos)).sum

end Sys2Proof.Machine
end

