-- ==== Sys2Proof/Machine/Power.lean ====
section
/-!
DEFINITION. Chapter 17: island power states (R417-R423), quiet windows (R424), operating points (R425, R448), thermal limits
(R426, R427), and the rail, reference and SMBus rules of chapter 18 (R446, R451, R453).
-/
namespace Sys2Proof.Machine

/-! ## Ceilings (R418, Table 17.2) -/

/-- Does the quiet window that runs include a lane group. -/
def Dev.quietFor (d : Dev) (g : Nat) : Bool := d.pwr.quiet && bit (d.rd R.PW_QUIET_CTRL_GROUPS) g

/-- The ports of a lane group. -/
def lgPorts (g : Nat) : List Nat := (List.range 4).map (fun i => 4 * g + i)

/-- Does any SA of a lane group's ports hold a key. -/
def Dev.lgKeys (d : Dev) (g : Nat) : Bool := d.sa.any (fun e => decide (e.1 / 4 / 128 / 4 = g))

/-- Has any queue pair left RESET, or is any MR entry valid (RDMA's OFF, Table 17.2). -/
def Dev.rdmaIdle (d : Dev) : Bool := !d.on R.IR_CTRL_EN && d.regs.chans R.IQ_STATUS_STATE == [] && d.ira.mr == []

/-- The islands with an HBM port that sleep at all (Tables 1.11, 17.2; AON and the enclave never do). -/
def hbmIslands : List Nat := [6, 7, 8, 9, 0x0B, 0x0D, 0x0E, 0x0F, 0x10, 0x11, 0x12, 0x13, 0x14, 0x16, 0x17, 0x18, 0x19]

/-- The deepest NVMe state that every enabled controller allows STOR (R295, Table 11.6): no deeper than HOLD while work, dirty data
or an active drain remains. -/
def Dev.storCeiling (d : Dev) : Nat :=
  let deep := ((d.nvme.ctrls.filter (fun e => d.on R.NC_INFO_EN e.1)).map (fun e => d.rd R.NC_INFO_PS e.1)).foldl min 3
  if d.nvmeBusy then min deep 1 else deep

/-- The present ceiling of an island. -/
def Dev.ceiling (d : Dev) (c : Nat) : Nat :=
  if c ≤ 1 ∨ c = 0x1B then 0
  else if c = 0x0C then (if hbmIslands.all (fun i => decide (2 ≤ d.rd R.PI_STATUS_STATE i) || !d.islandPresent i) then 2 else 1)
  else if c ≤ 5 then
    (if (lgPorts (c - 2)).all (fun p => !d.on R.PT_CTRL_ENABLE p) && !d.lgKeys (c - 2) then 4 else 1)
  else if c ≤ 9 then
    let g := c - 6
    let w := if d.quietFor g then min 3 (d.rd R.PW_QUIET_CTRL_CAP) else 0
    max (max 1 w) (if (lgPorts g).all (fun p => !d.up p) then 3 else 1)
  else if c = 0x0A then
    let groups := (List.range 4).filter (fun g => (lgPorts g).any d.formed)
    let w := if groups.all d.quietFor && d.pwr.quiet then min 3 (d.rd R.PW_QUIET_CTRL_CAP) else 0
    max (max 1 w) (if (List.range 16).all (fun p => !d.up p) then 3 else 1)
  else if c = 0x0B then (if d.on R.PC_LINK_UP 0 || d.on R.PC_LINK_UP 1 then 1 else 3)
  else if c ≤ 0x14 then (if d.on R.CLU_STATUS_RELEASED (c - 0x0D) then 3 else 4)
  else if c = 0x16 then 3
  else if c = 0x17 then d.storCeiling
  else if c = 0x18 then (if d.on R.CP_CTRL then 3 else 4)
  else if c = 0x19 then (if d.rdmaIdle then 4 else 3)
  else if c = 0x1A then
    (if !d.on R.FB_CTRL_EN then 4 else if (List.range 8).all (fun p => d.rd R.FP_STATUS_LSTATE p == 0) then 3 else 1)
  else 0

/-! ## Sleeping and waking -/

/-- Exit latency and break-even of a state in ns (Table 17.1); OFF counts its 1 ms restore. -/
def exitNs (st : Nat) : Nat := if st = 1 then 25 else if st = 2 then 2000 else if st = 3 then 40000 else if st = 4 then 3000000 else 0
def breakEvenNs (st : Nat) : Nat := if st = 1 then 200 else if st = 2 then 20000 else if st = 3 then 400000 else if st = 4 then 20000000 else 0

/-- No next event (R422). -/
def noEvent : Nat := 2 ^ 64 - 1

/-- The event tick of a time-base instant at the present rate (R422). -/
def Dev.etickOf (d : Dev) (t : Nat) : Nat :=
  if t ≤ d.now then d.tk.etick else d.tk.etick + (t - d.now) / (8 * max 1 (d.rd R.TB_INCR))

/-- The earliest pending event of an island in event ticks (R422): PI_NE_SW for clusters, the events its unit posts. -/
def Dev.nextEvent (d : Dev) (c : Nat) : Nat :=
  let sw := if 0x0D ≤ c ∧ c ≤ 0x14 then d.rd R.PI_NE_SW c else noEvent
  let tb := match SMap.get? d.pwr.nextTb c with
    | some t => d.etickOf t
    | none => noEvent
  let quiet := if d.on R.PW_QUIET_CTRL_ARM ∧ 6 ≤ c ∧ c ≤ 0x0A then
      d.etickOf (timeOf96 (if d.pwr.quiet then d.rd R.PW_QUIET_END else d.rd R.PW_QUIET_START)) else noEvent
  min (min (SMap.getD d.pwr.nextE c noEvent) sw) (min tb quiet)

/-- The time to an island's next event in ns, none for infinity. -/
def Dev.timeToNext (d : Dev) (c : Nat) : Option Nat :=
  if d.nextEvent c = noEvent then none else some ((d.nextEvent c - d.tk.etick) * 8)

/-- Does a state qualify under the time to the next event (R421). -/
def Dev.qualifies (d : Dev) (tn : Option Nat) (st : Nat) : Bool :=
  match tn with
  | none => true
  | some t => decide (exitNs st + d.rd R.PW_GUARD ≤ t ∧ breakEvenNs st ≤ t)

/-- Has an island a transfer that is not acknowledged, or one pending toward it (R421). -/
def Dev.lacingBusy (d : Dev) (c : Nat) : Bool := d.vlac.any (fun e => e.2.held != [] && (e.1 / 64 == c || e.1 % 64 == c))

/-- The state chosen for an idle island (R421): the deepest that its ceiling, its cap and its next event allow. -/
def Dev.sleepState (d : Dev) (c : Nat) : Nat :=
  ((List.range 5).filter (fun st => 0 < st && decide (st ≤ min (d.ceiling c) (d.rd R.PI_CAP c)) && d.qualifies (d.timeToNext c) st)).foldl max 0

/-- ISLAND_SLEEP (R421): the island has been idle for 100 ns. `nextE` is the earliest event its unit has posted, in event ticks (all ones
for none), `nextT` the earliest on the time base (R422). -/
def execIslandSleep (c nextE : Nat) (nextT : Option Nat) (s : State) : Host.Outcome State Fault Refusal :=
  .next (s.onDev (fun d =>
    let e := { d with pwr := { d.pwr with
      nextE := SMap.put d.pwr.nextE c nextE
      nextTb := match nextT with
        | some t => SMap.put d.pwr.nextTb c t
        | none => SMap.del d.pwr.nextTb c } }
    let e := e.wr R.PI_NEXT (e.nextEvent c) c
    if d.stopped c || d.lacingBusy c || d.inReset c || !d.islandPresent c then e
    else
      let st := e.sleepState c
      let e := (e.wr R.PI_STATUS_STATE st c).wr R.PI_STATUS_CEILING (d.ceiling c) c
      let e := e.when (st == 4) (fun x => { x with pwr := { x.pwr with saved := x.pwr.saved.filter (fun i => i != c) ++ [c] } })
      e.when (c == 0x0C && st == 2) (fun x => x.flag R.HM_STATUS_SELF_REFRESH)))

/-- ISLAND_WAKE (R421, R17): the exit before the next event, or at a transfer, an interrupt or a change of cap or ceiling. -/
def execIslandWake (c : Nat) (s : State) : Host.Outcome State Fault Refusal := .next (s.onDev (fun d => d.wake c))

/-- Residency in each state, sampled once a microsecond (Table 17.8, log entry 9). -/
def Dev.residency (d : Dev) : Dev :=
  if d.tk.etick % 125 = 0 then
    islandCodes.foldl (fun e c =>
      let st := d.rd R.PI_STATUS_STATE c
      e.count (if st = 0 then R.PI_RES_RUN else if st = 1 then R.PI_RES_HOLD else if st = 2 then R.PI_RES_DOZE
        else if st = 3 then R.PI_RES_NAP else R.PI_RES_OFF) 1 c) d
  else d

/-- A step re-evaluates every island (R423): one whose next event is nearer than its exit is woken. -/
def Dev.stepWakes (d : Dev) : Dev :=
  (islandCodes.filter (fun c => d.stopped c)).foldl (fun e c =>
    match e.timeToNext c with
    | some t => if t < exitNs (e.rd R.PI_STATUS_STATE c) + e.rd R.PW_GUARD then e.wake c else e
    | none => e) d

/-! ## Quiet windows (R424) -/

/-- QUIET_WINDOW_START (R424): the armed window's START is reached. -/
def execQuietWindowStart (s : State) : Host.Outcome State Fault Refusal :=
  .next (s.onDev (fun d =>
    if d.on R.PW_QUIET_CTRL_ARM && decide (timeOf96 (d.rd R.PW_QUIET_START) ≤ d.nowAt 8 ∧ d.now < timeOf96 (d.rd R.PW_QUIET_END)) then
      { d with pwr := { d.pwr with quiet := true } }
    else d))

/-- QUIET_WINDOW_END (R424): at END or a step past it; the first frame of a listed group ends it in FRAME_RECEIVE. -/
def execQuietWindowEnd (s : State) : Host.Outcome State Fault Refusal :=
  .next (s.onDev (fun d =>
    if d.on R.PW_QUIET_CTRL_ARM && decide (timeOf96 (d.rd R.PW_QUIET_END) ≤ d.nowAt 8) then d.quietEnd else d))

/-! ## Operating points (R425, R448) -/

/-- Cluster voltage of an operating point in mV (Table 17.4). -/
def oppMv (o : Nat) : Nat := [600, 640, 680, 730, 780, 830, 880, 925].getD o 925

/-- The present limit of every cluster (R426): 0 while the hottest sensor reads 110 or more. -/
def Dev.oppLimit (d : Dev) : Nat := if d.on R.PW_STATUS_HEAVY then 0 else d.pwr.limit

/-- The voltage that the device requests (R425, R448): the highest need among clusters not in OFF, plus 25 mV. -/
def Dev.avsNeed (d : Dev) : Nat :=
  let live := (List.range 8).filter (fun c => d.islandPresent (0x0D + c) && d.rd R.PI_STATUS_STATE (0x0D + c) != 4)
  if live = [] then 600
  else
    (live.map (fun c => max (oppMv (d.rd R.PI_OPP_CUR (0x0D + c)))
      (match SMap.get? d.pwr.opp c with
      | some t => oppMv (min t d.oppLimit)
      | none => 0))).foldl max 0 + 25

/-- PI_OPP (R425): a write starts a transition, or replaces the target of the one in progress; a rise waits for the voltage. -/
def Dev.setOpp (d : Dev) (c opp : Nat) : Dev :=
  let e := d.wr R.PI_OPP_OPP opp (0x0D + c)
  let rise := e.rd R.PI_OPP_CUR (0x0D + c) < min opp e.oppLimit
  { e with pwr := { e.pwr with
    opp := SMap.put e.pwr.opp c opp
    rising := if rise then e.pwr.rising.filter (fun i => i != c) ++ [c] else e.pwr.rising.filter (fun i => i != c) } }

/-- PI_OPP (R425). -/
def execPiOpp (req c opp : Nat) (s : State) : Host.Outcome State Fault Refusal :=
  .next (s.onDev (fun d => (d.sampleWrite req opp).setOpp c opp))

/-- CUR and LIMITED of a cluster (R425, R426). -/
def Dev.oppEffective (d : Dev) (c target : Nat) : Dev :=
  (d.wr R.PI_OPP_CUR (min target d.oppLimit) (0x0D + c)).wr R.PI_OPP_LIMITED (b2n (decide (d.oppLimit < target))) (0x0D + c)

/-- OPP_TRANSITION_DONE (R425): a transition whose voltage stands completes; a sleeping cluster takes its point at its exit. -/
def execOppTransitionDone (c : Nat) (s : State) : Host.Outcome State Fault Refusal :=
  .next (s.onDev (fun d =>
    match SMap.get? d.pwr.opp c with
    | none => d
    | some t =>
      if d.pwr.rising.contains c || d.stopped (0x0D + c) then d
      else
        let e := d.oppEffective c t
        { e with pwr := { e.pwr with opp := SMap.del e.pwr.opp c } }))

/-- AVS_VOLTAGE_REACHED (R448): the pending frequency rises begin. -/
def execAvsVoltageReached (s : State) : Host.Outcome State Fault Refusal :=
  .next (s.onDev (fun d => { d with pwr := { d.pwr with rising := [] } }))

/-- AVS_TIMEOUT (R448): a cluster's rise is abandoned and keeps its point; an uncorrected-contained error of AON local 13. -/
def execAvsTimeout (c : Nat) (s : State) : Host.Outcome State Fault Refusal :=
  .next (s.onDev (fun d =>
    if d.pwr.rising.contains c then
      let e := { d with pwr := { d.pwr with
        opp := SMap.del d.pwr.opp c, rising := d.pwr.rising.filter (fun i => i != c), avsFaults := satAdd 32 d.pwr.avsFaults 1 } }
      e.err (srcNum 0 13) 6 c
    else d))

/-! ## Thermal limits (R426, R427) -/

/-- The hottest sensor and its number. -/
def hottest (ts : List Int) : Int × Nat :=
  (ts.zipIdx).foldl (fun (m : Int × Nat) x => if m.1 < x.1 then x else m) (-1000, 0)

/-- A cluster under the present thermal limit: a point above it falls at once; one that the limit has held begins its rise when it may. -/
def Dev.limitOne (d : Dev) (c : Nat) : Dev :=
  let want := d.rd R.PI_OPP_OPP (0x0D + c)
  let cur := d.rd R.PI_OPP_CUR (0x0D + c)
  let e := d.wr R.PI_OPP_LIMITED (b2n (decide (d.oppLimit < want))) (0x0D + c)
  if d.oppLimit < cur then e.wr R.PI_OPP_CUR d.oppLimit (0x0D + c)
  else if d.on R.PI_OPP_LIMITED (0x0D + c) && decide (cur < min want d.oppLimit) && !SMap.has d.pwr.opp c then e.setOpp c want
  else e

/-- Every cluster follows the thermal limit. -/
def Dev.limitAll (d : Dev) : Dev := (List.range 8).foldl Dev.limitOne d

/-- The thermal limit after a sample (R426): down one point per ten samples at or above 105, up one per hundred below 103. -/
def Dev.thermalLimit (d : Dev) (t : Int) : Dev :=
  let p := d.pwr
  let p := if 105 ≤ t then
      (if p.hot + 1 ≥ 10 then { p with hot := 0, cool := 0, limit := p.limit - 1 } else { p with hot := p.hot + 1, cool := 0 })
    else if t < 103 then
      (if p.cool + 1 ≥ 100 then { p with hot := 0, cool := 0, limit := min 7 (p.limit + 1) } else { p with hot := 0, cool := p.cool + 1 })
    else { p with hot := 0, cool := 0 }
  { d with pwr := p }

/-- 115 degrees (R427): THERM_TRIP_N, the class 1 record in MRAM, then every group except G0 is asked into reset and held there. -/
def Dev.thermTrip (d : Dev) (t : Nat) : Dev :=
  let rep : Report := { tick := d.tk.etick, src := srcNum 0 1, cls := 1, loc := t, code := Config.errCode (srcNum 0 1), nbits := 0 }
  let e := ({ d with pins := { d.pins with thermTrip := true } }.raise 1 (srcNum 0 1) t).mramLog
    { rep := rep, held := false, grpReset := false, suppressed := 0 }
  let e := { e with mram := { e.mram with tripped := true }, rst := { e.rst with tripHold := true } }
  e.each [1, 2, 3, 4, 5, 6, 7] Dev.askReset

/-- THERMAL_SAMPLE (R426, R427): the 24 sensors in whole degrees. -/
def execThermalSample (temps : List Int) (s : State) : Host.Outcome State Fault Refusal :=
  .next (s.onDev (fun d =>
    let m := hottest temps
    let thr := decide (105 ≤ m.1)
    let e := (((d.wr R.PW_STATUS_TEMP_MAX (twos 8 m.1)).wr R.PW_STATUS_SENSOR m.2).wr R.PW_STATUS_THROTTLE (b2n thr)).wr
      R.PW_STATUS_HEAVY (b2n (decide (110 ≤ m.1)))
    let e := e.when (thr != d.on R.PW_STATUS_THROTTLE) (fun x =>
      ({ x with pwr := { x.pwr with throttles := x.pwr.throttles + b2n thr } }).raise 11 (srcNum 0 2) (b2n thr))
    let e := (e.thermalLimit m.1).limitAll
    e.when (decide (115 ≤ m.1) && !d.pins.thermTrip) (fun x => x.thermTrip m.2)))

/-! ## Rails, references, SMBus (chapter 18) -/

/-- RAIL_FAULT (R446): rail `n` of Table 18.7, VDD_FUSE apart, has been out of tolerance for 10 µs while RESET_N is high. -/
def execRailFault (n : Nat) (s : State) : Host.Outcome State Fault Refusal :=
  .next (s.onDev (fun d =>
    if d.rst.resetNLow then d
    else if n = 10 then { d with pins := { d.pins with fuseOk := false } }
    else
      let e := { d with mram := { d.mram with railFaults := setBit d.mram.railFaults n true }, pwr := { d.pwr with rails := setBit d.pwr.rails n true } }
      let e := e.err (srcNum 0 14) 2 n
      e.when (n == 7) (fun x => { x with mram := { x.mram with down := true } })))

/-- REF_SYS_LOSS (R451): a cold reset with cause 5; the boot then halts until REF_SYS returns. -/
def execRefSysLoss (s : State) : Host.Outcome State Fault Refusal :=
  .next (s.onDev (fun d =>
    { d with rst := { d.rst with cold := some (d.rst.cold.getD 5) }, pins := { d.pins with refLost := true } }))

/-- TIME_REF_LOSS (R451): at a cold reset the PLL locks to REF_SYS and a corrected error is logged; while running it holds its
frequency and an uncorrected-contained error is logged. -/
def execTimeRefLoss (atReset : Bool) (s : State) : Host.Outcome State Fault Refusal :=
  .next (s.onDev (fun d =>
    if d.tb.pllSrc != 1 then d
    else if atReset then (d.setTb (fun b => { b with pllSrc := 0 })).err (srcNum 0 7) 8 0
    else (d.setTb (fun b => { b with pllHold := true })).err (srcNum 0 7) 6 0))

/-- TIME_REF_RETURN (R451): the PLL relocks without a phase step. -/
def execTimeRefReturn (s : State) : Host.Outcome State Fault Refusal :=
  .next (s.onDev (fun d => d.setTb (fun b => { b with pllHold := false })))

/-- One byte of the SMBus PEC: CRC-8, polynomial x^8 + x^2 + x + 1. -/
def crc8Byte (crc b : Nat) : Nat :=
  (List.range 8).foldl (fun c _ => if c ≥ 128 then ((c * 2) % 256) ^^^ 0x07 else c * 2) (crc ^^^ b)

/-- The value of a field at its place in its word. -/
def Dev.inPlace (d : Dev) (f : Field) : Nat := d.rd f <<< f.lo

/-- The byte that an SMBus command returns, none for a command that is not acknowledged (Table 18.10). -/
def Dev.smbusByte (d : Dev) (cmd : Nat) : Option Nat :=
  if cmd = 0 then some (d.rd R.PW_STATUS_TEMP_MAX)
  else if cmd = 1 then
    some ((d.inPlace R.BT_STATUS_BOOT_ERR + d.inPlace R.BT_STATUS_DONE + d.inPlace R.BT_STATUS_RECOVERY_EN + d.inPlace R.BT_STATUS_SLOT +
      d.inPlace R.BT_STATUS_SKIPPED) % 256)
  else if cmd = 2 then
    some (d.rd R.PW_STATUS_THROTTLE + 2 * d.rd R.PW_STATUS_HEAVY + 4 * b2n d.pins.thermTrip + 8 * b2n d.pins.pfDone)
  else none

/-- SMBUS_READ_BYTE (R453): the byte and its PEC; nothing is returned where the command is not acknowledged. -/
def execSmbusReadByte (cmd : Nat) (s : State) : Host.Outcome State Fault Refusal :=
  .next (s.onDev (fun d =>
    match d.smbusByte cmd with
    | none => d.retBytes []
    | some b => d.retBytes [BitVec.ofNat 8 b, BitVec.ofNat 8 ([0x9C, cmd, 0x9D, b].foldl crc8Byte 0)]))

/-- SMB_ALERT_N is asserted while THROTTLE = 1 or BOOT_ERR drives a halt code (R453). -/
def Dev.smbAlert (d : Dev) : Bool := d.on R.PW_STATUS_THROTTLE || d.pins.bootErr != 0

end Sys2Proof.Machine
end

