-- ==== Sys2Proof/Machine/ObjRead.lean ====
section
/-!
DEFINITION. What a read of an object returns (R348, R349, R356, R358): mirrored registers as they stand, values that the rules keep elsewhere,
and the items of segmented objects.
-/
namespace Sys2Proof.Machine

/-- The stored bytes of an object, or its Default. -/
def Dev.objBytes (d : Dev) (idx sub : Nat) (dflt : Bytes) : Bytes := (SMap.get? d.mram.obj (objKey idx sub)).getD dflt

/-- The stored bytes of an item of a segmented object. -/
def Dev.objItem? (d : Dev) (idx sub item : Nat) : Option Bytes := SMap.get? (SMap.getD d.mram.items (objKey idx sub) []) item

/-- Persist an item. -/
def Dev.objItemPut (d : Dev) (idx sub item : Nat) (b : Bytes) : Dev :=
  { d with mram := { d.mram with items := SMap.upd d.mram.items (objKey idx sub) [] (fun m => SMap.put m item b) } }

/-- The bytes before the first zero (Table 14.1, STRING). -/
def cString (b : Bytes) : Bytes := b.takeWhile (fun x => x != 0#8)

/-- The name of the part (R1). -/
def Dev.partName (d : Dev) : Bytes := ascii "IH-P48" ++ [BitVec.ofNat 8 (d.rd R.ID_PART_SKU)]

/-- The oldest first of the MRAM log, each with its sequence number (R432). -/
def Dev.logOrder (d : Dev) : List Nat :=
  if d.mram.log.length < 4096 then List.range d.mram.log.length else (List.range 4096).map (fun i => (d.mram.logSeq + i) % 4096)

/-- The sequence number of the record at a ring index. -/
def Dev.logSeqOf (d : Dev) (i : Nat) : Nat := (d.mram.logSeq + 2 ^ 32 - 1 - (d.mram.logSeq + 4095 - i) % 4096) % 2 ^ 32

/-- Stored seals from the oldest (R118). -/
def Dev.sealsByAge (d : Dev) : List Bytes :=
  let last := d.sealCtr % 131072
  ((d.mram.sealStore.filter (fun e => decide (last < e.1))) ++ d.mram.sealStore.filter (fun e => decide (e.1 ≤ last))).map (·.2)

/-- The unused form of a lane group's port: is a port without formed lanes (the port objects' rule of chapter 2). -/
def Dev.portUnused (d : Dev) (p : Nat) : Bool := !d.formed p

/-- The Defaults of the port objects that have one of their own (Table 2.12). -/
def portDefault (idx : Nat) : Nat :=
  if idx = 0x2005 then 1522 else if idx = 0x2006 then 0x0000FFFF00000000 else if idx = 0x2010 then 0x88 else 0

/-- Bytes for a set of bits. -/
def bitBytes (n : Nat) (l : List Nat) : Bytes := leBytes n ((l.filter (fun i => decide (i < 8 * n))).eraseDups.map (fun i => 2 ^ i)).sum

/-- A slot's header fields (SLOT_INFO, Table 14.9). -/
def State.slotInfo (s : State) (b : Bytes) : Bytes :=
  let h := slice b 0 4096
  leBytes 4 (bundleVer h) ++ leBytes 1 (bundleSvn h) ++ leBytes 1 (bundleKey h) ++ leBytes 1 (b2n (s.dev.slotVerifies s.fuse b)) ++ leBytes 9 0

/-- Versions running (0x1003): the first stage and the main image come from one bundle, as do the firmwares of the controllers of FAB and
STOR that it holds. -/
def Dev.fwRunning (d : Dev) (sub : Nat) : Nat :=
  let v := if d.boot.header = [] then 0 else bundleVer d.boot.header
  if sub ≤ 2 then v
  else if sub = 3 then (if d.unit 1 ∧ ([3, 4, 5].any (fun k => d.on R.SV_STATUS_VERIFIED k)) then v else 0)
  else (if d.unit 2 ∧ ([0, 1, 2].any (fun k => d.on R.SV_STATUS_VERIFIED k)) then v else 0)

/-- Chapters 1 to 4. -/
def State.objReadA (s : State) (r : ObjRow) (idx sub : Nat) : Option Bytes :=
  let d := s.dev
  if idx = 0x6010 then some (leBytes 1 7)
  else if idx = 0x6011 then some (leBytes 2 (d.areaBase (sub + 1) - d.areaBase sub))
  else if idx = 0x6012 then some (leBytes 8 (d.areaBase sub * gib))
  else if idx = 0x6013 then some (leBytes 2 (d.objNat 0x6013 0 1))
  else if idx = 0x6014 then some (leBytes 2 (d.objNat 0x6014 0 2))
  else if idx = 0x6015 then some (leBytes 2 (9 - d.objNat 0x6013 0 1 - d.objNat 0x6014 0 2))
  else if idx = 0x6016 then some (leBytes 1 (b2n (d.objNat 0x6013 0 1 != d.hbmc.journal || d.objNat 0x6014 0 2 != d.hbmc.capture)))
  else if idx = 0x2000 then some (leBytes 1 (d.rd R.LG_MODE 0 (sub - 1)))
  else if idx = 0x2001 then
    some (leBytes 1 (if d.portUnused (sub - 1) then d.objNat idx sub 0 else d.rd R.PT_CTRL_ENABLE (sub - 1)))
  else if (0x2002 ≤ idx ∧ idx ≤ 0x2006 ∨ idx = 0x2010) ∧ d.portUnused (sub - 1) then
    some (leBytes (r.ty.size.getD 0) (d.objNat idx sub (portDefault idx)))
  else if idx = 0x2007 ∧ d.portUnused (sub - 1) then some (leBytes 1 0)
  else if 0x2020 ≤ idx ∧ idx < 0x2030 then (
    let k := (idx - 0x2020) * 128 + (sub - 1)
    let b := padTo 16 (SMap.getD d.sc k [])
    some (slice b 0 13 ++ leBytes 1 ((List.range 4).map (fun an => b2n (SMap.has d.sa (4 * k + an)) * 2 ^ an)).sum ++ [0#8, 0#8]))
  else if idx = 0x2030 then some (leBytes 8 (d.pnThresh (sub - 1)))
  else if idx = 0x3000 then some (time96Bytes d.now16)
  else if idx = 0x300D then some d.cal.digest
  else if idx = 0x300E then some (leBytes 1 (d.objNat idx 0 0))
  else if 0x3100 ≤ idx ∧ idx < 0x3111 then
    some (leBytes 4 (twos 32 (if sub < 13 then factoryRx (idx - 0x3100) sub else factoryTx (idx - 0x3100) (sub - 16))))
  else if 0x3180 ≤ idx ∧ idx < 0x3191 then
    let p := idx - 0x3180
    some (leBytes 4 (if sub ≤ 4 then d.rd (if sub = 1 then R.CAL_CABLE else if sub = 2 then R.CAL_ASYM else if sub = 3 then R.CAL_TX_CORR else R.CAL_RX_CORR) p
      else if sub = 5 then twos 32 (sat32 (d.userTx p)) else if sub = 6 then twos 32 (sat32 (d.userRx p))
      else if sub = 7 then twos 32 (d.calEff p).dTx else twos 32 (d.calEff p).dRx))
  else if 0x3200 ≤ idx ∧ idx < 0x3210 ∧ sub = 7 then some (leBytes 1 (d.rd R.TT_CTRL (idx - 0x3200)))
  else if idx = 0x3222 then some (leBytes 4 (twos 32 (Config.tsDelay (sub - 1))))
  else if idx = 0x3403 then some (padTo 306 (SMap.getD d.mram.sealStore (d.sealCtr % 131072) []))
  else if idx = 0x3410 ∧ sub = 2 then some (leBytes 4 (d.objNat 0x3410 2 0))
  else none

/-- Chapters 5 to 13. -/
def State.objReadB (s : State) (idx sub : Nat) : Option Bytes :=
  let d := s.dev
  let profile (b : Nat) : Bytes :=
    s.wordsOf R.PF_SEL_PORT.addr .window (sub - 1 + 256 * b) 6 ++
      (List.range 16).flatMap (fun w => s.wordsOf (R.WIN_OFFSET.addr + 32 * w) .window (sub - 1 + 256 * b) 1 ++
        s.wordsOf (R.MASK0.addr + 32 * w) .window (sub - 1 + 256 * b) 4)
  if idx = 0x2100 then some (leBytes 1 d.bankState)
  else if idx = 0x2102 then some (profile d.shadowBank)
  else if idx = 0x2103 then some (profile d.activeBank)
  else if idx = 0x2105 then some (leBytes 4 d.obj.rulesDone)
  else if idx = 0x2106 then some (s.wordsOf R.EM_GEOM_BASE.addr .global 0 16)
  else if idx = 0x2107 then some ((List.range 4).flatMap (fun i => leBytes 4 (d.classWord (sub - 1) i)))
  else if idx = 0x2108 then some ((List.range 4).flatMap (fun i => leBytes 4 (d.classWord (127 + sub) i)))
  else if idx = 0x210A then some (s.wordsOf (R.PR_MALF_CNT.addr + 32 * (sub - 1)) .global 0 8 ++ s.wordsOf (R.PR_DROP_OTHER.addr + 8 * (sub - 1)) .global 0 2)
  else if idx = 0x2200 then some (leBytes 4 (d.rd (if sub = 1 then R.FT_SEED else R.MT_SEED)))
  else if idx = 0x2205 then some (leBytes 4 d.obj.flowDone)
  else if idx = 0x2209 then
    some (s.wordsOf R.FT_CACHE_HIT.addr .global 0 12 ++ s.wordsOf R.LN_APPLIED.addr .global 0 16 ++ s.wordsOf R.LPM_MISS.addr .global 0 4)
  else if idx = 0x2307 then some (s.wordsOf R.RQ_MISS.addr .window (sub - 1) 12 ++ s.wordsOf R.GT_OVERSIZE.addr .window (sub - 1) 4)
  else if idx = 0x1201 then some (leBytes 4 (s.wordOf R.PC_LINK_SPEED.addr .window (sub - 1)))
  else if 0x1202 ≤ idx ∧ idx ≤ 0x1207 then
    let absent := (sub = 6 ∨ sub = 7) ∧ ¬d.unit 2
    let n := if idx = 0x1202 ∨ idx = 0x1203 then 2 else if idx = 0x1207 then 4 else 1
    let dflt := if idx = 0x1202 then 0 else if idx = 0x1203 then 2048 else if idx = 0x1204 then 64 else if idx = 0x1205 then 16
      else if idx = 0x1206 then 1 else 0x1F3C
    some (leBytes n (if absent then 0 else d.objNat idx sub dflt))
  else if idx = 0x120A then
    let want (i dflt : Nat) : List Nat := (List.range 8).map (fun k => d.objNat i (k + 1) dflt)
    let h := d.host
    some (leBytes 1 (b2n (h.vfs != want 0x1202 0 || h.pfMsix != want 0x1203 2048 || h.vfMsix != want 0x1204 64 || h.pfDb != want 0x1205 16 ||
      h.vfDb != want 0x1206 1)))
  else if idx = 0x4004 then some (beBytes 6 (d.rd R.IR_PORT_MAC 0 (sub - 1)))
  else if idx = 0x4007 then some (s.wordsOf R.IR_CSUM_ERR.addr .global 0 16)
  else if idx = 0x4100 ∧ sub ≠ 1 then
    some (if sub = 2 then leBytes 1 (d.objNat idx 2 0) else if sub = 3 then leBytes 2 (d.objNat idx 3 0xFFFF) else leBytes 8 (d.objNat idx 4 0))
  else if idx = 0x4107 then some (leBytes 8 d.hide.drainPtr)
  else if idx = 0x4108 then some (leBytes 4 (s.wordOf R.NV_PF_RESULT_RESULT.addr .global 0))
  else if idx = 0x4109 then some (s.wordsOf R.NV_READS.addr .global 0 16 ++ leBytes 8 d.nvme.skipped)
  else if idx = 0x420B then some (leBytes 8 (d.stream (sub - 1)).drainPtr)
  else if idx = 0x420D then some (s.wordsOf R.CP_CANDIDATES.addr .global 0 8 ++ s.wordsOf R.SK_IN_OCTETS.addr .global 0 8)
  else if idx = 0x5003 then some (s.wordsOf R.FB_ROOT_UID.addr .global 0 4)
  else if idx = 0x5009 then some (s.wordsOf R.FP_TX_FRAMES.addr .fabPort (sub - 1) 16)
  else if idx = 0x500A then some (s.wordsOf R.FB_NO_ROUTE.addr .global 0 14)
  else none

/-- Chapters 14 to 18. -/
def State.objReadC (s : State) (idx sub : Nat) : Option Bytes :=
  let d := s.dev
  if idx = 0x1000 then
    some (if sub = 1 then ascii "Terseir" else if sub = 2 then d.partName else if sub = 3 then leBytes 2 (d.rd R.ID_PART_FAMILY)
      else leBytes 1 (d.rd R.ID_STEPPING))
  else if idx = 0x1001 then some (leBytes 4 (d.rd R.UNIT_PRESENT))
  else if idx = 0x1002 then some Config.uid
  else if idx = 0x1003 then some (leBytes 4 (d.fwRunning sub))
  else if idx = 0x1004 then some (cString (d.objBytes idx 0 []))
  else if idx = 0x1005 then some (leBytes 8 d.tk.etick)
  else if idx = 0x1007 then some (leBytes 4 (b2n d.rst.defaulted))
  else if idx = 0x1100 then some (if sub = 1 then leBytes 1 (d.objNat idx 1 0) else Config.mgmtMac)
  else if idx = 0x1101 then some (if sub = 2 then leBytes 1 (d.objNat idx 2 0) else padTo 4 (d.objBytes idx sub []))
  else if idx = 0x1102 then some (if sub = 2 then leBytes 1 (d.objNat idx 2 0) else padTo 16 (d.objBytes idx sub []))
  else if idx = 0x1103 then some (if sub = 1 then leBytes 2 (d.objNat idx 1 0xC5A1) else leBytes 1 (d.objNat idx 2 1))
  else if idx = 0x1105 ∨ idx = 0x1106 then some (leBytes 1 (d.objNat idx 0 2))
  else if idx = 0x1107 then some (leBytes 1 (d.objNat idx 0 1))
  else if idx = 0x1110 then some (d.principal (sub - 1))
  else if idx = 0x1112 then some (leBytes 8 (d.prinCtr (sub - 1)))
  else if idx = 0x1113 then
    let o := d.obj
    some (leBytes 4 o.sopRx ++ leBytes 4 o.sopMalformed ++ leBytes 8 o.sopAuthFail ++ leBytes 8 o.sopReplay ++ leBytes 8 o.sopBusy ++
      leBytes 8 o.sopSuppressed ++ leBytes 8 o.sopProxyTimeout)
  else if idx = 0x7F00 then some (leBytes 1 d.obj.fwStage)
  else if idx = 0x7F02 then some (leBytes 1 d.obj.fwReject)
  else if idx = 0x7F05 then some (s.slotInfo (if sub = 1 then d.flash.a else d.flash.b))
  else if idx = 0x7E00 ∧ sub = 1 then some (leBytes 4 (s.wordOf R.BT_STATUS_BOOT_ERR.addr .global 0))
  else if idx = 0x7E01 then some (Config.keyDigest (sub - 1))
  else if idx = 0x7E02 then some (leBytes 1 s.fuse.revokedMask)
  else if idx = 0x7E03 then some (leBytes 1 s.fuse.svn)
  else if idx = 0x7E06 then some (d.mreg (sub - 1))
  else if idx = 0x7000 ∧ sub = 2 then some (leBytes 1 (b2n d.approved))
  else if idx = 0x7001 then some (Config.ed448Pub (if sub = 1 then Config.idk else if sub = 2 then Config.jk else Config.ak))
  else if idx = 0x7007 then some (padTo 4719 (SMap.getD d.mram.receipts (sub - 1) []))
  else if idx = 0x6002 then some (leBytes 1 (d.rd R.PI_OPP_OPP (0x0C + sub)))
  else if idx = 0x6004 then some (leBytes 4 (s.wordOf R.PW_STATUS_WR_REFUSED.addr .global 0) ++ leBytes 4 d.pwr.throttles)
  else if idx = 0x6102 then some (leBytes 8 (d.rd R.FL_DROPPED) ++ leBytes 4 d.mram.logSeq ++ leBytes 4 (d.mram.logSeq % 4096))
  else if idx = 0x6020 then some (leBytes 1 d.pins.straps)
  else if idx = 0x6021 then some (if sub = 1 then leBytes 2 d.avsNeed else leBytes 4 d.pwr.avsFaults)
  else if idx = 0x6022 then some (leBytes 4 d.mram.railFaults)
  else none

/-- A TIME96 at a byte position of an object, as its register form and back (R114): the registers hold nanoseconds from bit 0, seconds from
bit 32 and the fraction from bit 80. -/
def time96FromReg (v : Nat) : Bytes := leBytes 6 (v / 2 ^ 32 % 2 ^ 48) ++ leBytes 4 (v % 2 ^ 32) ++ leBytes 2 (v / 2 ^ 80 % 65536)
def time96ToReg (b : Bytes) : Nat := leNat (slice b 6 4) + leNat (slice b 0 6) * 2 ^ 32 + leNat (slice b 10 2) * 2 ^ 80

/-- The whole value of an object (R349). -/
def State.objRead (s : State) (r : ObjRow) (idx sub : Nat) : Bytes :=
  match (s.objReadA r idx sub).orElse (fun _ => (s.objReadB idx sub).orElse (fun _ => s.objReadC idx sub)) with
  | some b => b
  | none =>
    let v := s.slotsRead r idx sub
    if r.ty = .time then time96FromReg v
    else if idx = 0x6003 then time96FromReg v ++ time96FromReg (v / 2 ^ 96) ++ leBytes 4 (v / 2 ^ 192)
    else leBytes (r.ty.size.getD 0) v

/-! ## Segmented objects (R358) -/

/-- A segmented value: items of one size, or a byte string. -/
structure ObjDomain where
  size : Nat := 1
  count : Nat
  item : Nat → Bytes

/-- A byte string as a segmented value. -/
def domBytes (b : Bytes) : ObjDomain := { count := b.length, item := fun i => [b.getD i 0#8] }

/-- The bytes from an offset, and whether they reach the end of the value. -/
def ObjDomain.read (x : ObjDomain) (off n : Nat) : Bytes × Bool :=
  let k := min n (x.size * x.count - off)
  let first := off / x.size
  (slice ((List.range ((off + k + x.size - 1) / x.size - first)).flatMap (fun j => x.item (first + j))) (off % x.size) k, decide (x.size * x.count ≤ off + k))

/-- A gate list as its object holds it (Table 7.9): the registers that it mirrors. -/
def State.gateBytes (s : State) (p : Nat) : Bytes :=
  let d := s.dev
  leBytes 1 (d.rd R.GT_CTRL_EN p + 2 * d.rd R.GT_CTRL_MODE p + 4 * d.rd R.GT_CTRL_EVT p) ++ leBytes 1 (d.rd R.GT_INIT p) ++ leBytes 2 (d.rd R.GT_LEN p) ++
    leBytes 6 (d.rd R.GT_BASE_SEC p) ++ leBytes 4 (d.rd R.GT_BASE_NS p) ++ leBytes 2 0 ++ leBytes 4 (d.rd R.GT_CYCLE p) ++
    (List.range (d.rd R.GT_LEN p)).flatMap (fun i => leBytes 4 (SMap.getD (d.gate p).shadow i 0x8FF))

/-- The segmented values. -/
def State.objDomain (s : State) (r : ObjRow) (idx sub : Nat) : ObjDomain :=
  let d := s.dev
  let words (sz n addr : Nat) : ObjDomain := { size := sz, count := n, item := fun i => padTo sz (s.wordsOf addr .window i (sz / 4)) }
  if idx = 0x3404 then domBytes d.sealsByAge.flatten
  else if idx = 0x2104 then
    { size := 68, count := 16384, item := fun i => s.wordsOf R.AW_CTRL_VALID.addr .window (i + 65536 * d.shadowBank) 1 ++
        s.wordsOf R.AW_DATA.addr .window (i + 65536 * d.shadowBank) 16 }
  else if idx = 0x2303 then words 20 262144 R.QS_CFG_TC.addr
  else if idx = 0x2304 then words 20 65536 R.PL_CTRL_EN.addr
  else if idx = 0x2305 then domBytes (s.gateBytes (sub - 1))
  else if idx = 0x1208 then
    { size := 24, count := 4104, item := fun f => (d.fnAlloc f).flatMap (fun v => leBytes 4 v) }
  else if idx = 0x1209 then
    { size := 48, count := 4104, item := fun f => s.wordsOf R.FN_INFO_PF.addr .window f 2 ++ s.wordsOf R.FN_DISABLES.addr .window f 2 ++
        s.wordsOf R.FN_DISC_SUBMIT.addr .window f 4 ++ s.wordsOf R.FN_DISC_TOTAL.addr .window f 2 ++ leBytes 8 0 }
  else if idx = 0x120B then domBytes (bitBytes 513 ((List.range 4104).filter (fun f => d.on R.FN_CTRL f)))
  else if idx = 0x1210 then
    { size := 32, count := 65536, item := fun i => s.wordsOf R.RG_CFG_LOG2_SIZE.addr .window i 1 ++ s.wordsOf R.RG_STATUS_IDLE.addr .window i 5 ++
        s.wordsOf R.RG_OWNER.addr .window i 1 ++ leBytes 4 0 }
  else if idx = 0x1211 then
    { size := 24, count := 16384, item := fun i => s.wordsOf R.EQ_CFG_LOG2_SIZE.addr .window i 1 ++ s.wordsOf R.EQ_STATUS_FULL.addr .window i 5 }
  else if idx = 0x4005 then { size := 4, count := 4104, item := fun f => leBytes 4 (d.mrQuota f) }
  else if idx = 0x4006 then
    { size := 16, count := 4194304, item := fun q => s.wordsOf R.IQ_STATUS_STATE.addr .window q 1 ++ s.wordsOf R.IQ_CPL_COUNT.addr .window q 2 ++
        s.wordsOf R.IQ_TX_PSN.addr .window q 1 }
  else if idx = 0x4101 then { size := 256, count := 256, item := fun b => padTo 256 (d.backendBytes b) }
  else if idx = 0x4102 then { size := 32, count := 16384, item := fun i => padTo 32 (SMap.getD d.mram.namespaces (i + 1) []) }
  else if idx = 0x4103 then { size := 128, count := 16384, item := fun i => leBytes 128 (SMap.getD d.mram.attach (i + 1) 0) }
  else if idx = 0x4104 then { size := 16, count := 67108864, item := d.extEntry }
  else if idx = 0x4106 then
    { size := 4, count := 256, item := fun b => leBytes 1 (if d.nvme.failed.contains b then 2 else if bit (byteAt (d.backendBytes b) 1) 0 then 1 else 0) ++
        leBytes 3 (SMap.getD d.nvme.tries b 0) }
  else if idx = 0x4207 then
    let at' (i : Nat) : Nat := SMap.getD d.capt.hist ((d.frozen * 64 + (sub - 1)) * 2048 + i) 0
    { size := 8, count := 1987, item := fun i => leBytes 8 (if i < 1985 then at' i else at' (i + 61)) }
  else if idx = 0x4208 then
    { size := 4, count := 4 * 2 ^ 20, item := fun i => leBytes 4 (SMap.getD d.capt.sketch (d.frozen * 4 * 2 ^ 20 + i) 0) }
  else if idx = 0x4209 then
    { size := 16, count := 1048576, item := fun i => let x := SMap.getD d.capt.flows i (0, 0); leBytes 8 x.1 ++ leBytes 8 x.2 }
  else if idx = 0x5007 then domBytes (d.fab.lsdb.flatMap (fun l => l.payload))
  else if idx = 0x5008 then { count := 4096, item := fun a => leBytes 1 (d.rd R.RT_ENTRY_MASK a &&& d.rd R.FB_STATUS_PORTS_UP) }
  else if idx = 0x7001 then
    (if sub = 4 then { count := 1568, item := fun i => [Config.kemEkByte i] } else { count := 2592, item := fun i => [Config.receiptPkByte i] })
  else if idx = 0x7002 then { count := Config.idCertLen, item := fun i => [Config.idCertByte i] }
  else if idx = 0x7008 then
    let used (ty n : Nat) : List Nat := (List.range n).filter (fun i => (d.keyRec ty i).isSome)
    domBytes (bitBytes 2 (used 1 16) ++ bitBytes 8 (used 2 64) ++ bitBytes 512 (used 3 4096) ++ bitBytes 32 (d.encl.bulk.map (·.1)))
  else if idx = 0x6005 then { size := 56, count := 28, item := fun c => s.wordsOf R.PI_RES_RUN.addr .window c 14 }
  else if idx = 0x6100 then
    let l := d.logOrder
    { size := 32, count := l.length, item := fun i =>
        match l[i]? with
        | some k => (match SMap.get? d.mram.log k with
          | some x => x.encode (d.logSeqOf k)
          | none => List.replicate 32 0#8)
        | none => [] }
  else if idx = 0x6103 then { size := 4, count := 2048, item := fun i => leBytes 4 (d.rd R.FS_SUPPRESSED i) }
  else domBytes (s.objRead r idx sub)

end Sys2Proof.Machine
end

