-- ==== Sys2Proof/Machine/ObjWrite.lean ====
section
/-!
DEFINITION. What a write of an object does once it exists, is writable and has its length (R352-R357): the owning rule's range and state checks,
then the effect, then the value in MRAM. Chapters 1 to 7; `ObjApply` holds the rest.
-/
namespace Sys2Proof.Machine

/-- The outcome of a write: status, data, the state after it, what its response waits for. -/
structure ObjOut where
  status : Nat := 0
  data : Bytes := []
  st : State
  wait : Option ObjWait := none

/-- A write that fails: nothing changes (R352). -/
def State.objFail (s : State) (status : Nat) (data : Bytes := []) : ObjOut := { status := status, data := data, st := s }

/-- A write that acts on the device. -/
def State.objDone (s : State) (f : Dev → Dev) (wait : Option ObjWait := none) : ObjOut := { st := s.onDev f, wait := wait }

/-- A status, data and device as an outcome. -/
def State.objOut (s : State) (x : Nat × Bytes × Dev) : ObjOut :=
  if x.1 = 0 then { st := { s with dev := x.2.2 } } else { status := x.1, data := x.2.1, st := s }

/-- The class and source of the engine's own writes (R354). -/
def objCls : Nat := 10
def objSrc : Nat := 0x003F

/-- An object that was marked by RESTORE_DEFAULTS and is written keeps its value (R370). -/
def Dev.unmark (d : Dev) (k : Nat) : Dev := { d with mram := { d.mram with marks := d.mram.marks.filter (fun m => m != k) } }

/-- An RWP value goes to MRAM (R357). -/
def Dev.objKeep (d : Dev) (r : ObjRow) (idx sub : Nat) (b : Bytes) : Dev :=
  if r.acc = .rwp then (d.objPut idx sub b).unmark (objKey idx sub) else d

/-- An item of an RWP object goes to MRAM. -/
def Dev.itemKeep (d : Dev) (r : ObjRow) (idx sub n : Nat) (b : Bytes) : Dev :=
  if r.acc = .rwp then (d.objItemPut idx sub n b).unmark (objKey idx sub) else d

/-- The order of the tick puts these values after every class 9 write (R33). -/
def Dev.ranked (d : Dev) (l : List Assign) : Dev :=
  { d with tk := { d.tk with wrote := l.map (fun (a : Assign) => (a.f.key a.c a.i 4149, wrRank objCls objSrc)) ++ d.tk.wrote } }

/-- Assignments through the engine, then the value in MRAM. -/
def State.objAssigns (s : State) (l : List Assign) (keep : Dev → Dev) : ObjOut :=
  let x := s.dev.objAssign l
  s.objOut (x.1, x.2.1, keep (x.2.2.ranked l))

/-! ## Mirrored words -/

/-- The writable fields of a word at a device address take its bits. -/
def wordAssigns (addr : Nat) (k : Chan) (c w : Nat) : List Assign :=
  (({ addr := addr, chan := k, c := c } : Target).fields.filter (fun p => p.1.ty == .rw)).map
    (fun p => { f := p.1, c := if p.1.chan = .global then 0 else c, i := p.2.1, v := w / 2 ^ p.1.lo % 2 ^ p.1.width })

/-- Does a word set a bit that no writable field takes. -/
def wordSpare (addr : Nat) (k : Chan) (c w : Nat) : Bool :=
  w != ((wordAssigns addr k c w).map (fun a => a.v * 2 ^ a.f.lo)).sum

/-- A write of consecutive or listed words as one. -/
def State.objWords (s : State) (k : Chan) (c : Nat) (addrs : List Nat) (b : Bytes) (keep : Dev → Dev) : ObjOut :=
  let ws := (List.range addrs.length).map (fun j => (addrs.getD j 0, le32 b (4 * j)))
  if ws.any (fun x => wordSpare x.1 k c x.2) then s.objFail 0x0302
  else s.objAssigns (ws.flatMap (fun x => wordAssigns x.1 k c x.2)) keep

/-- A write of the fields that an object's row lists. -/
def State.objSlots (s : State) (r : ObjRow) (idx sub v : Nat) (keep : Dev → Dev) : ObjOut :=
  if r.spare v then s.objFail 0x0302
  else s.objAssigns ((r.assigns idx sub v).filter (fun a => a.f.ty != .ro)) keep

/-- A value that only MRAM holds, if it is in range. -/
def State.objStore (s : State) (r : ObjRow) (idx sub : Nat) (b : Bytes) (ok : Bool) : ObjOut :=
  if ok then s.objDone (fun d => d.objKeep r idx sub b) else s.objFail 0x0302

/-! ## Chapters 1 to 4 -/

/-- A MACSEC_SC entry (Table 2.13, R66): the status, and the entries after it. -/
def Dev.scWrite (d : Dev) (port sc : Nat) (b : Bytes) : Nat × Dev :=
  let k := port * 128 + sc
  let old := padTo 16 (SMap.getD d.sc k [])
  let tx (x : Bytes) : Bool := bits (byteAt x 8) 1 0 == 3
  let an (x : Bytes) : Nat := bits (byteAt x 8) 3 2
  if 16 ≤ byteAt b 8 ∨ 16 ≤ byteAt b 13 ∨ byteAt b 14 ≠ 0 ∨ byteAt b 15 ≠ 0 then (0x0302, d)
  else if tx b && (List.range 128).any (fun j => j != sc && tx (SMap.getD d.sc (port * 128 + j) []) && slice (SMap.getD d.sc (port * 128 + j) []) 0 8 == slice b 0 8) then
    (0x0302, d)
  else if tx b && an b != an old && !SMap.has d.sa (k * 4 + an b) then (0x0401, d)
  else (0, { d with sc := SMap.put d.sc k (b.set 13 0#8) })

/-- LG_MODE (R41, R42): the modes of the group and of a pair whose mode changes persist. -/
def State.lgModeObj (s : State) (r : ObjRow) (g mode : Nat) : ObjOut :=
  let d := s.dev
  if 8 ≤ mode then s.objFail 0x0302
  else if !d.modeFree g mode then s.objFail 0x0401 (leBytes 1 (d.rd R.LG_MODE 0 g))
  else s.objDone (fun d => (d.modeApply g mode).each (d.modeGroups g mode) (fun e h => e.objKeep r 0x2000 (h + 1) (leBytes 1 (e.rd R.LG_MODE 0 h))))

/-- The objects of a port that the present modes do not form keep a value in MRAM only (R43). -/
def portObj (idx : Nat) : Bool := decide (0x2001 ≤ idx ∧ idx ≤ 0x2006) || idx == 0x2010

/-- The value of an unused port's object: in range, and kept. -/
def State.portUnusedObj (s : State) (r : ObjRow) (idx sub : Nat) (b : Bytes) : ObjOut :=
  let v := leNat b
  s.objStore r idx sub b (idx == 0x2001 || (!r.spare v && (r.assigns idx sub v).all rangeOk))

/-- Objects of chapters 1 to 4 with a rule of their own. -/
def State.objWriteA (s : State) (r : ObjRow) (idx sub : Nat) (b : Bytes) : Option ObjOut :=
  let d := s.dev
  let v := leNat b
  let post (a : BndAct) : ObjOut := s.objDone (fun d => d.postAct objCls objSrc a) (some .boundary)
  let t := idx - 0x3200
  if idx = 0x6013 ∨ idx = 0x6014 then
    let j := if idx = 0x6013 then v else d.objNat 0x6013 0 1
    let c := if idx = 0x6014 then v else d.objNat 0x6014 0 2
    some (s.objStore r idx sub b (decide (1 ≤ j ∧ j ≤ 5 ∧ 2 ≤ c ∧ c ≤ 6 ∧ j + c ≤ 7)))
  else if idx = 0x6017 then some (s.objDone Dev.layoutRevert)
  else if idx = 0x2000 then some (s.lgModeObj r (sub - 1) v)
  else if portObj idx ∧ d.portUnused (sub - 1) then some (s.portUnusedObj r idx sub b)
  else if idx = 0x2001 then
    some (s.objDone (fun d => (if v = 1 then (if d.on R.PT_CTRL_ENABLE (sub - 1) then d else d.portEnable (sub - 1))
      else if d.on R.PT_CTRL_ENABLE (sub - 1) then d.portDisable (sub - 1) false else d).objKeep r idx sub b))
  else if 0x2020 ≤ idx ∧ idx < 0x2030 then
    let x := d.scWrite (idx - 0x2020) (sub - 1) b
    some (s.objOut (x.1, [], x.2))
  else if idx = 0x2030 ∨ (idx = 0x3410 ∧ sub = 2) then some (s.objStore r idx sub b true)
  else if idx = 0x3001 then
    let bad := sub = 2 ∧ (3 ≤ v ∨ (v = 2 ∧ !d.unit 1))
    let now (k : Nat) (f : Field) : Nat := if sub = k then v else d.rd f
    some (if bad then s.objFail 0x0302
      else s.objDone (fun d => (d.tbCtrl (now 1 R.TB_CTRL_SERVO_EN) (now 2 R.TB_CTRL_SRC) (now 3 R.TB_CTRL_L1_SYNT)).objKeep r idx sub b))
  else if idx = 0x3003 then some (post (.timeSet (leNat (slice b 0 6)) (le32 b 6 * nsUnit + le16 b 10 * 65536) (d.startAhead objCls objSrc)))
  else if idx = 0x3004 then some (post (.timeStep v (d.startAhead objCls objSrc)))
  else if idx = 0x300A then
    some (if !d.incrInRange v then s.objFail 0x0302 else if d.on R.TB_CTRL_SERVO_EN then s.objFail 0x0401 else s.objDone (fun d => d.wr R.TB_INCR v))
  else if idx = 0x300E then some (s.objStore r idx sub b (decide (v < 2)))
  else if 0x3180 ≤ idx ∧ idx < 0x3191 then some (s.objDone (fun d => (d.calUser (idx - 0x3180) (sub - 1) v).objKeep r idx sub b))
  else if 0x3200 ≤ idx ∧ idx < 0x3210 ∧ sub = 7 then
    some (if v = 0 then s.objDone (fun d => d.when (d.on R.TT_STATUS_ARMED t) (fun e => e.ttStop t))
      else if d.on R.TT_STATUS_ARMED t then s.objDone id
      else if d.armRefused t then s.objFail 0x0302 else s.objDone (fun d => d.ttArm t))
  else if idx = 0x3300 then some (post (if sub = 1 then .seqStart else .seqStop))
  else none

/-! ## Chapters 5 to 7 -/

/-- The addresses of a profile's words (Table 5.9, PROFILE). -/
def profileWords : List Nat :=
  (List.range 6).map (fun i => R.PF_SEL_PORT.addr + 4 * i) ++
    (List.range 16).flatMap (fun w => (R.WIN_OFFSET.addr + 32 * w) :: (List.range 4).map (fun j => R.MASK0.addr + 32 * w + 4 * j))

/-- PROFILE (R126): the profile's own windows obey their ranges; the windows from NWIN up belong to no profile, and any value of their fields is
kept, so that the Default, zero, can be written. -/
def State.profileObj (s : State) (c : Nat) (b : Bytes) : ObjOut :=
  let f := R.PF_CTRL_NWIN
  let n := 6 + 5 * (le32 b (f.addr - R.PF_SEL_PORT.addr) / 2 ^ f.lo % 2 ^ f.width)
  let ws := (List.range profileWords.length).map (fun j => (profileWords.getD j 0, le32 b (4 * j)))
  if (ws.drop n).any (fun x => wordSpare x.1 .window c x.2) then s.objFail 0x0302
  else s.objWords .window c (profileWords.take n) b (fun d =>
    d.each ((ws.drop n).flatMap (fun x => wordAssigns x.1 .window c x.2)) (fun e a => e.wr a.f a.v a.c a.i))

/-- The class entry of CLASS_LO and CLASS_HI: reserved bits and R140. -/
def classWordsOk (ws : List Nat) : Bool :=
  let w (i : Nat) : Nat := ws.getD i 0
  !bit (w 0) 7 && bits (w 1) 15 13 == 0 && bits (w 2) 31 20 == 0 && bits (w 3) 31 21 == 0 && !classBad (w 0) (w 3)

/-- EM_GEOM: eight pairs of a geometry word and a seed (R137). -/
def State.emGeomObj (s : State) (b : Bytes) : ObjOut :=
  let d := s.dev
  let g (t : Nat) : Nat := le32 b (8 * t)
  if (List.range 8).any (fun t => bits (g t) 31 23 != 0 || decide (19 < bits (g t) 20 16) || bits (g t) 22 21 == 3) then s.objFail 0x0302
  else if d.bankBusy then s.objFail 0x0401 (leBytes 1 d.bankState)
  else s.objDone (fun d => d.each (List.range 8) (fun e t => (e.emGeomWrite t false (g t)).emGeomWrite t true (le32 b (8 * t + 4))))

/-- Objects of chapters 5 to 7 with a rule of their own. -/
def State.objWriteB (s : State) (r : ObjRow) (idx sub : Nat) (b : Bytes) : Option ObjOut :=
  let d := s.dev
  let v := leNat b
  let busy : ObjOut := s.objFail 0x0401 (leBytes 1 d.bankState)
  if idx = 0x2100 ∧ sub = 1 then
    some (if d.swapCause = 1 then busy else if d.swapCause ≠ 0 then s.objFail 0x0302
      else s.objDone (fun d => d.bankSwap objCls objSrc) (some .boundary))
  else if idx = 0x2100 then some (if d.bankBusy then busy else s.objDone Dev.bankCopy)
  else if idx = 0x2102 then some (s.profileObj (profChan d.shadowBank (sub - 1)) b)
  else if idx = 0x2106 then some (s.emGeomObj b)
  else if idx = 0x2107 ∨ idx = 0x2108 then
    let c := if idx = 0x2107 then sub - 1 else 127 + sub
    let ws := (List.range 4).map (fun i => le32 b (4 * i))
    some (if !classWordsOk ws then s.objFail 0x0302
      else s.objDone (fun d => ((d.classPut c ws).cbStage c (ws.getD 0 0) (ws.getD 1 0) (ws.getD 2 0) (ws.getD 3 0)).objKeep r idx sub b))
  else if idx = 0x2200 then
    some (s.objDone (fun d => ((d.wr (if sub = 2 then R.MT_SEED else R.FT_SEED) v).tableEmpty (sub == 2)).objKeep r idx sub b))
  else if idx = 0x2208 then some (s.objDone (fun d => d.wr R.LPM_STATUS_FENCE_DONE 1 0 0 4149))
  else none

/-- One pattern of AWL_PATTERNS (R129-R131, R143). -/
def State.awlItem (s : State) (n : Nat) (b : Bytes) : ObjOut :=
  let d := s.dev
  let c := awlChan d.shadowBank n
  let w := le32 b 0
  let put (e : Dev) : Dev := e.each (List.range 16) (fun e i => e.wr R.AW_DATA (le32 b (4 + 4 * i)) c i)
  let same := bits w 1 1 == d.rd R.AW_CTRL_ANCHORED c && bits w 8 2 == d.rd R.AW_CTRL_LEN c && bits w 12 9 == d.rd R.AW_CTRL_SET c &&
    bits w 23 13 == d.rd R.AW_CTRL_OFFSET c && (List.range 16).all (fun i => d.rd R.AW_DATA c i == le32 b (4 + 4 * i))
  let new := put (d.awCtrl c w)
  if bits w 31 24 ≠ 0 ∨ bits w 8 2 < 4 ∨ 64 < bits w 8 2 ∨ (w % 2 = 1 ∧ new.awCause c = 3) then s.objFail 0x0302
  else if d.bankBusy || (d.on R.AW_CTRL_VALID c && !same) then s.objFail 0x0401 (leBytes 1 d.bankState)
  else if d.on R.AW_CTRL_VALID c then s.objDone (fun d => d.wr R.AW_CTRL_VALID (w % 2) c)
  else if w % 2 = 1 ∧ new.awCause c ≠ 0 then s.objFail 0x0401
  else s.objDone (fun _ => new.wr R.AW_CTRL_VALID (w % 2) c)

/-- One operation of CL_RULES (R133-R136, R143). -/
def State.ruleItem (s : State) (b : Bytes) : ObjOut :=
  let d := s.dev
  let op := byteAt b 0
  let t := byteAt b 1
  let kl := byteAt b 3
  let key := slice b 8 kl
  if ¬(op = 1 ∨ op = 2 ∨ op = 3) ∨ 8 ≤ t ∨ 64 ≤ byteAt b 2 ∨ bits (le32 b 4) 15 10 ≠ 0 ∨ !zeroRange b 72 8 then s.objFail 0x0302
  else if d.bankBusy then s.objFail 0x0401 (leBytes 1 d.bankState)
  else if d.clRefused t kl then s.objFail 0x0302
  else
    let done (e : Dev) : ObjOut := s.objDone (fun _ => { e with obj := { e.obj with rulesDone := e.obj.rulesDone + 1 } })
    if op = 1 then
      let x := d.emInsert t { profile := byteAt b 2, kl := kl, key := key, cls := byteAt b 4, colour := bits (byteAt b 5) 1 0, queue := le16 b 6 }
      if x.1 < 2 then done x.2.2 else s.objFail 0x0302
    else if op = 3 then (if (d.emLookup d.shadowBank t (byteAt b 2) kl key).isSome then done d else s.objFail 0x0302)
    else
      let x := d.emDelete t (byteAt b 2) kl key
      if x.1 = 2 then done x.2 else s.objFail 0x0302

/-- One operation of FLOW_OPS (R155, R170), staged under the engine's own requester number. -/
def State.flowItem (s : State) (b : Bytes) : ObjOut :=
  let d := s.dev
  let q := 4149
  let op := byteAt b 0
  let mac := byteAt b 1 == 1
  if byteAt b 1 < 2 ∧ !d.on (if mac then R.FT_STATUS_MT_READY else R.FT_STATUS_FT_READY) then s.objFail 0x0402
  else if ¬(1 ≤ op ∧ op ≤ 4) ∨ 2 ≤ byteAt b 1 ∨ 64 ≤ byteAt b 2 ∨ 64 ≤ byteAt b 3 ∨ bits (le32 b 4) 15 12 ≠ 0 ∨ !zeroRange b 52 12 then s.objFail 0x0302
  else
    let e := (((d.wr R.FT_OPARG_TABLE (byteAt b 1) 0 0 q).wr R.FT_OPARG_PROFILE (byteAt b 2) 0 0 q).wr R.FT_OPARG_KL (byteAt b 3) 0 0 q)
    let e := ((e.wr R.FT_ACTION0_FLAGS (byteAt b 4) 0 0 q).wr R.FT_ACTION0_PORT (byteAt b 5 % 16) 0 0 q).wr R.FT_ACTION0_QUEUE (le16 b 6) 0 0 q
    let e := (e.wr R.FT_ACTION1 (le32 b 8) 0 0 q).ftPutKey q (slice b 12 40)
    let e := if op = 1 then e.ftInsert q else if op = 2 then e.ftDelete q else if op = 3 then e.ftLookup q else e.ftReadSlot q
    if 4 ≤ e.rd R.FT_OP_STATUS_RESULT 0 0 q then s.objFail 0x0302
    else s.objDone (fun _ => { e with obj := { e.obj with flowDone := e.obj.flowDone + 1 } })

/-- One write of LPM_WRITES (R173). -/
def State.lpmItem (s : State) (b : Bytes) : ObjOut :=
  if 9 ≤ byteAt b 0 ∨ !zeroRange b 1 3 then s.objFail 0x0302
  else
    let x := s.dev.lpmWrite (byteAt b 0) (le32 b 4) (le64 b 8)
    if x.1 = 0 then s.objDone (fun _ => x.2) else s.objFail 0x0302

/-- GATE_LIST (R187, R195): the shadow list is loaded, then a CHANGE. -/
def State.gateItem (s : State) (r : ObjRow) (idx sub : Nat) (b : Bytes) : ObjOut :=
  let d := s.dev
  let p := sub - 1
  let n := le16 b 2
  let load (d : Dev) : Dev :=
    let e := (((d.wr R.GT_CTRL_EN (byteAt b 0 % 2) p).when (byteAt b 0 % 2 != d.rd R.GT_CTRL_EN p) (fun x => x.gateFresh p)).wr R.GT_CTRL_MODE (byteAt b 0 / 2 % 2) p).wr R.GT_CTRL_EVT (byteAt b 0 / 4 % 2) p
    let e := (((e.wr R.GT_INIT (byteAt b 1) p).wr R.GT_LEN n p).wr R.GT_BASE_SEC (leNat (slice b 4 6)) p).wr R.GT_BASE_NS (le32 b 10) p
    (e.wr R.GT_CYCLE (le32 b 16) p).setGate p (fun g =>
      { g with shadow := (List.range n).foldl (fun m i => SMap.put m i (le32 b (20 + 4 * i))) g.shadow })
  if b.length ≠ 20 + 4 * n then s.objFail 0x0301
  else if 8 ≤ byteAt b 0 ∨ 10 ^ 9 ≤ le32 b 10 ∨ le16 b 14 ≠ 0 then s.objFail 0x0302
  else if d.on R.GT_STATUS_CHANGE_PENDING p then s.objFail 0x0401 (leBytes 4 (s.wordOf R.GT_STATUS_ACTIVE.addr .window p))
  else if (load d).changeCause p ≠ 0 then s.objFail 0x0302
  else s.objDone (fun d => ((load d).gateChange p).itemKeep r idx sub 0 b)

end Sys2Proof.Machine
end

