-- ==== Sys2Proof/Machine/ObjApply.lean ====
section
/-!
DEFINITION. Writes of the objects of chapters 8 to 18, the items of segmented objects (R358, R359), and the write of any object as one function.
-/
namespace Sys2Proof.Machine

/-! ## Chapters 8 to 13 -/

/-- Is a host configuration value in range (Table 8.14, R202). -/
def Dev.hostCfgOk (d : Dev) (idx sub v : Nat) : Bool :=
  let vfs (k : Nat) : Nat := d.objNat 0x1202 (k + 1) 0
  if (sub = 6 ∨ sub = 7) ∧ !d.unit 2 then false
  else if idx = 0x1202 then
    decide (v ≤ 512) && (!(sub == 6 || sub == 7) || decide (v + vfs (if sub = 6 then 6 else 5) ≤ 1022))
  else if idx = 0x1203 then decide (1 ≤ v ∧ v ≤ 2048)
  else if idx = 0x1204 then decide (1 ≤ v ∧ v ≤ 64)
  else if idx = 0x1205 then isPow2 v && decide (v ≤ 128)
  else if idx = 0x1206 then isPow2 v && decide (v ≤ 16)
  else true

/-- A stream whose EN is set changes only FLUSH, or is stopped (R313). -/
def State.streamObj (s : State) (r : ObjRow) (idx sub v : Nat) (keep : Dev → Dev) : ObjOut :=
  let d := s.dev
  let t := sub - 1
  let l := (r.assigns idx sub v).filter (fun a => a.f.ty != .ro)
  if !d.on R.CS_CTRL_EN t then s.objSlots r idx sub v keep
  else if r.spare v || !l.all rangeOk then s.objFail 0x0302
  else if l.any (fun a => a.f != R.CS_CTRL_EN && a.f != R.CS_FLUSH && d.rd a.f a.c != a.v) then s.objFail 0x0401
  else s.objDone (fun d => keep (((d.wr R.CS_FLUSH (v / 2 ^ 96) t).when (v % 2 == 0) (fun e => e.streamStop t)).ranked l))

/-- Objects of chapters 8 to 13 with a rule of their own. -/
def State.objWriteC (s : State) (r : ObjRow) (idx sub : Nat) (b : Bytes) : Option ObjOut :=
  let d := s.dev
  let v := leNat b
  let keep (d : Dev) : Dev := d.objKeep r idx sub b
  if 0x1202 ≤ idx ∧ idx ≤ 0x1207 then some (s.objStore r idx sub b (d.hostCfgOk idx sub v))
  else if idx = 0x4004 then some (s.objAssigns [{ f := R.IR_PORT_MAC, c := 0, i := sub - 1, v := beNat b }] keep)
  else if idx = 0x4100 ∧ sub ≠ 1 then some (s.objStore r idx sub b (sub != 3 || decide (v < 256 ∨ v = 0xFFFF)))
  else if idx = 0x4105 then some (s.objDone (fun d => d.when d.storOn (fun e => e.flag R.NV_STATUS_MAP_DONE)))
  else if idx = 0x4107 then
    some (if d.nvme.reqs.any (fun q => q.kind == 3) then s.objFail 0x0401 else s.objDone (fun d => d.setHide (fun h => { h with drainPtr := 0 })))
  else if idx = 0x4203 then some (s.streamObj r idx sub v keep)
  else if idx = 0x4206 ∧ sub = 1 then
    some (if d.captBusy then s.objFail 0x0401 else s.objDone (fun d => d.captSwap objCls objSrc) (some .boundary))
  else if idx = 0x4206 then some (if d.captBusy then s.objFail 0x0401 else s.objDone Dev.captClear (some .bankClear))
  else if idx = 0x420C then
    some (if d.nvme.reqs.any (fun q => q.kind == 4 && q.ns == d.rd R.CS_TARGET (sub - 1)) then s.objFail 0x0401
      else s.objDone (fun d => d.setStream (sub - 1) (fun x => { x with drainPtr := 0 })))
  else if idx = 0x5002 ∧ sub = 2 ∧ (v = 0 ∨ 0xFFF ≤ v) then some (s.objFail 0x0302)
  else if idx = 0x5005 then some (s.objDone (fun d => keep ((d.wr R.FP_CTRL v (sub - 1)).fabPortCtl (sub - 1))))
  else none

/-- FUNC_ALLOC (R218, R219): one function's six numbers. -/
def State.allocItem (s : State) (r : ObjRow) (fn : Nat) (b : Bytes) : ObjOut :=
  let d := s.dev
  let a := (List.range 6).map (fun i => le32 b (4 * i))
  if (List.range 6).any (fun i => decide (2 ^ (allocFields.getD i R.FN_RING_BASE).width ≤ a.getD i 0)) then s.objFail 0x0302
  else if (fn = 5 ∨ fn = 6) ∧ !d.unit 2 then (if a.all (· == 0) then s.objDone (fun d => d.itemKeep r 0x1208 0 fn b) else s.objFail 0x0302)
  else
    let c := d.allocCause fn a
    if c = 0 then s.objDone (fun d => (d.allocPut fn a).itemKeep r 0x1208 0 fn b)
    else s.objFail (if c = 1 then 0x0401 else 0x0302)

/-- Does an extent-map entry of a ready namespace name a backend (R288). -/
def Dev.backendUsed (d : Dev) (b : Nat) : Bool := d.mram.namespaces.any (fun n => d.nsReady n.1 && d.nsUses n.1 b)

/-- BACKENDS (R286, R288, Table 11.4). One that is FAILED counts as disabled: a write that enables it ends FAILED. -/
def State.backendItem (s : State) (k : Nat) (b : Bytes) : ObjOut :=
  let d := s.dev
  let ty := byteAt b 0
  let lba := le32 b 8
  let x := le32 b 12
  let on := bit (byteAt (d.backendBytes k) 1) 0 && !d.nvme.failed.contains k
  if 4 < ty ∨ 2 ≤ byteAt b 1 ∨ (ty ≠ 0 ∧ lba ≠ 512 ∧ lba ≠ 4096) ∨ (ty = 1 ∧ 2 ≤ x) ∨ ((ty = 3 ∨ ty = 4) ∧ 2 ^ 24 ≤ x) then s.objFail 0x0302
  else if on && d.backendUsed k then s.objFail 0x0401
  else s.objDone (fun d =>
    let e := { d with mram := { d.mram with backends := SMap.put d.mram.backends k b } }.unmark (objKey 0x4101 0)
    e.when (byteAt b 1 == 1) (fun e => e.setNv (fun n =>
      { n with failed := n.failed.filter (fun j => j != k), tries := SMap.del n.tries k, retry := SMap.del n.retry k })))

/-- Has an attached controller a command outstanding to a namespace (R279). -/
def Dev.nsCommand (d : Dev) (n : Nat) : Bool := (d.nsCtrls n).any (fun c => (d.nv c).cmds.any (fun m => m.sq != 0 && cmdNs m == n))

/-- NAMESPACES (R279, R292, Table 11.2). -/
def State.nsItem (s : State) (n : Nat) (b : Bytes) : ObjOut :=
  let d := s.dev
  let old := padTo 32 (SMap.getD d.mram.namespaces n [])
  let valid := bit (byteAt b 0) 0
  let bad := valid && (!(byteAt b 1 == 9 || byteAt b 1 == 12) || decide (nsCount b < 1 ∨ 65536 < nsCount b ∨ 2 ^ 26 < nsBase b + nsCount b ∨
    2 ^ 26 < le32 b 12 + le32 b 16 ∨ 16384 < nsSnap b ∨ 4096 ≤ nsKey b))
  if 16 ≤ byteAt b 0 ∨ !zeroRange b 22 10 ∨ bad then s.objFail 0x0302
  else if b != old && d.nsCommand n then s.objFail 0x0401
  else if (nsEncrypt b != nsEncrypt old || nsKey b != nsKey old) && (SMap.getD d.mram.attach n 0 != 0 || d.nvme.dirty.any (fun e => e.ns == n)) then
    s.objFail 0x0401
  else s.objDone (fun d => { d with mram := { d.mram with namespaces := SMap.put d.mram.namespaces n b } }.unmark (objKey 0x4102 0))

/-- NS_ATTACH (R279): a controller that is attached or detached reports Namespace Attribute Changed. -/
def State.attachItem (s : State) (n : Nat) (b : Bytes) : ObjOut :=
  let d := s.dev
  let old := SMap.getD d.mram.attach n 0
  let new := leNat b
  if (bitsSet 1024 old).any (fun c => !bit new c) && d.nsCommand n then s.objFail 0x0401
  else s.objDone (fun d =>
    let e := { d with mram := { d.mram with attach := SMap.put d.mram.attach n new } }.unmark (objKey 0x4103 0)
    e.each ((List.range d.nvCount).filter (fun c => bit old c != bit new c)) (fun e c => e.nvEvent c 2 0 4))

/-! ## Chapters 14 to 17 -/

/-- PRINCIPAL (R369): the reserved bits and the level are judged first; clearing VALID destroys the key. -/
def State.principalObj (s : State) (r : ObjRow) (p : Nat) (b : Bytes) : ObjOut :=
  let d := s.dev
  let was := bit (byteAt (d.principal p) 0) 0
  let on := bit (byteAt b 0) 0
  if 4 ≤ byteAt b 0 ∨ 3 ≤ byteAt b 1 ∨ le16 b 2 ≠ 0 then s.objFail 0x0302
  else if on && (d.keyRec 1 p).isNone then s.objFail 0x0401
  else s.objDone (fun d => (d.objKeep r 0x1110 (p + 1) (b.set 0 (BitVec.ofNat 8 (b2n on)))).when (was && !on) (fun e => e.delRec 1 p))

/-- The enclave's own commands (R416): in ERROR they end as its services do (R399); while its self-tests run they find it busy. -/
def State.enclObj (s : State) (f : State → ObjOut) : ObjOut :=
  if s.dev.rd R.EN_STATUS_STATE = 2 ∨ s.dev.encl.inhibit then s.objFail 0x0602
  else if !s.dev.enclUp then s.objFail 0x0402
  else f s

/-- Every object of a row. -/
def ObjRow.keys (r : ObjRow) : List Nat :=
  (List.range r.span).flatMap (fun j => (List.range (r.hi + 1 - r.lo)).map (fun k => objKey (r.idx + j) (r.lo + k)))

/-- The objects that RESTORE_DEFAULTS marks: RWP, with a Default, outside 0x1100-0x11FF and 0x3180-0x31FF (R370). -/
def markedKeys : List Nat :=
  (objTable.filter (fun r => r.acc == .rwp && r.level != 3 && !decide (0x1100 ≤ r.idx ∧ r.idx < 0x1200) &&
    !decide (0x3180 ≤ r.idx ∧ r.idx < 0x3200))).flatMap ObjRow.keys

/-- RESTORE_DEFAULTS (R370). -/
def Dev.restoreDefaults (d : Dev) : Dev := { d with mram := { d.mram with marks := markedKeys } }

/-- FW_VERIFY (R372): slot A against the checks of the boot. -/
def State.fwVerify (s : State) : ObjOut :=
  let n := s.dev.allChecks s.fuse s.dev.flash.a
  let set (stage rej : Nat) (d : Dev) : Dev := { d with obj := { d.obj with fwStage := stage, fwReject := rej } }
  if n = 6 then s.objDone (set 3 0)
  else { status := 0x0302, st := s.onDev (set 4 (slotResult n)) }

/-- FW_PROMOTE (R372): the main image that runs must come from slot A. -/
def State.fwPromote (s : State) : ObjOut :=
  if s.dev.rd R.BT_STATUS_SLOT ≠ 0 ∨ s.dev.boot.header = [] then s.objFail 0x0401 (leBytes 1 s.dev.obj.fwStage)
  else s.objDone (fun d => { d with flash := { d.flash with b := d.flash.a } })

end Sys2Proof.Machine
end

