-- ==== Sys2Proof/Machine/Hitless.lean ====
section
/-!
DEFINITION. Firmware in flash and the hitless update (R371, R372, R435, R436): FW_IMAGE's erase, FW_VERIFY, FW_PROMOTE, FW_HITLESS, HU_SWITCH,
HU_COMMIT, HU_ROLLBACK, and the commands of their own that the object engine shares.
-/
namespace Sys2Proof.Machine

/-! ## The hitless update -/

/-- An object write as a command of its own: the engine's answer (R354). -/
def State.objRun (s : State) (f : State → ObjOut) : State :=
  let o := f s
  o.st.answer o.status o.data

def Dev.setHu (d : Dev) (f : Hitless → Hitless) : Dev := { d with hu := f d.hu }

/-- A command that finds slot A being erased (Table 14.3). -/
def State.fwFree (s : State) (f : State → ObjOut) : ObjOut := if s.dev.obj.erasing then s.objFail 0x0402 else f s

/-- What refuses a staging (R435): another first stage, an overlap with a verified region in use or with a released controller's firmware. -/
def Dev.hitlessBad (d : Dev) (h : Bytes) : Bool :=
  slice (compEntry h 0) 32 64 != slice (compEntry d.boot.header 0) 32 64 ||
    (bundleComps h).any (fun e =>
      ((compType e == 2 || compType e == 3) && d.meetsVerified (compLoad e) (compLen e)) ||
        (compType e == 4 && d.on R.SV_STATUS_RELEASED (compTarget e) && (match SMap.get? d.boot.svRegion (compTarget e) with
          | some x => decide (compLoad e < x.1 + x.2 ∧ x.1 < compLoad e + compLen e)
          | none => false)))

/-- FW_HITLESS (R372, R435): slot A's components are copied, checked and measured, and the update is staged. -/
def State.fwHitless (s : State) : ObjOut :=
  let b := s.dev.flash.a
  let h := slice b 0 4096
  if s.dev.obj.fwStage ≠ 3 then s.objFail 0x0401 (leBytes 1 s.dev.obj.fwStage)
  else if s.dev.hitlessBad h then s.objFail 0x0302
  else
    let s1 := s.onDev (fun d => d.measureHead h)
    match State.copyAll b h (bundleComps h).tail s1 with
    | (true, s2) => s2.objDone (fun d => (((d.setHu (fun x => { x with staged := h })).wr R.HU_STATE 1).coreIrq 0x0018))
    | (false, s2) => { status := 0x0302, st := s2.onDev (fun d => { d with obj := { d.obj with fwStage := 4, fwReject := 5 } }) }

/-- The controllers whose type 4 digest differs between two bundles, among those released. -/
def Dev.svChanged (d : Dev) (old new : Bytes) : List Nat :=
  (List.range 12).filter (fun k => d.on R.SV_STATUS_RELEASED k &&
    (ctrlEntry old k).map (fun x => slice x.2 32 64) != (ctrlEntry new k).map (fun x => slice x.2 32 64))

/-- The cores and the changed controllers go over to a bundle (R436, steps 1 to 3); the regions in `keep` stay verified beside its own. A reset of G4
releases cluster 0 at the new vector when it ends. -/
def Dev.switchTo (d : Dev) (new : Bytes) (keep : List (Nat × Nat)) : Dev :=
  let ks := d.svChanged d.boot.header new
  let e := d.setRegions new
  let e := { e with hbmc := { e.hbmc with verified := e.hbmc.verified ++ keep } }
  let e := e.each ks (fun x k => match ctrlEntry new k with
    | some (_, c) => (x.wr R.SV_VECTOR (compLoad c + compStart c) k).flag R.SV_STATUS_RELEASED k
    | none => x.wr R.SV_STATUS_RELEASED 0 k)
  (e.askReset 4).setHu (fun x => { x with since := none })

/-- A command in a wrong state (R436). -/
def State.huWrong (s : State) : ObjOut := s.objFail 0x0401 (leBytes 1 (s.dev.rd R.HU_STATE))

/-- HU_SWITCH (R436). -/
def State.huSwitch (s : State) : ObjOut :=
  if s.dev.rd R.HU_STATE ≠ 1 then s.huWrong
  else s.objDone (fun d => ((d.switchTo d.hu.staged d.hbmc.verified).setHu (fun x => { x with header := d.boot.header })).wr R.HU_STATE 2)

/-- HU_COMMIT (R436): the fallback is freed. -/
def State.huCommit (s : State) : ObjOut :=
  if s.dev.rd R.HU_STATE ≠ 2 then s.huWrong
  else s.objDone (fun d => ((d.setRegions d.boot.header).setHu (fun _ => {})).wr R.HU_STATE 3 |>.wr R.BT_STATUS_SLOT 0)

/-- The return to the fallback. -/
def Dev.huBack (d : Dev) : Dev :=
  (((d.switchTo d.hu.header []).setHu (fun _ => {})).wr R.HU_STATE 4).coreIrq 0x0019

/-- HU_ROLLBACK (R436). -/
def State.huRollback (s : State) : ObjOut := if s.dev.rd R.HU_STATE ≠ 2 then s.huWrong else s.objDone Dev.huBack

/-- A hitless command through its object (`req` 4149, the dictionary engine) or as a class 9 write of HU_CTRL, which a wrong state ignores. -/
def State.huRun (s : State) (req : Nat) (f : State → ObjOut) : State :=
  if req = 4149 then s.objRun f else (f (s.onDev (fun d => d.sampleWrite req))).st

/-- HU_SWITCH, HU_COMMIT, HU_ROLLBACK (R436). -/
def execHuSwitch (req : Nat) (s : State) : Host.Outcome State Fault Refusal := .next (s.huRun req State.huSwitch)
def execHuCommit (req : Nat) (s : State) : Host.Outcome State Fault Refusal := .next (s.huRun req State.huCommit)
def execHuRollback (req : Nat) (s : State) : Host.Outcome State Fault Refusal := .next (s.huRun req State.huRollback)

/-- HU_COMMIT_TIMEOUT (R436): 1,000 ms after the new image's release without HU_COMMIT. -/
def execHuCommitTimeout (s : State) : Host.Outcome State Fault Refusal :=
  .next (s.onDev (fun d => match d.hu.since with
    | some t => if d.rd R.HU_STATE = 2 ∧ t + 125000000 ≤ d.tk.etick then d.huBack else d
    | none => d))

/-! ## Firmware objects as commands of their own -/

/-- FW_VERIFY, FW_PROMOTE, FW_HITLESS (R372). -/
def execFwVerify (s : State) : Host.Outcome State Fault Refusal := .next (s.objRun (fun s => s.fwFree State.fwVerify))
def execFwPromote (s : State) : Host.Outcome State Fault Refusal := .next (s.objRun (fun s => s.fwFree State.fwPromote))
def execFwHitless (s : State) : Host.Outcome State Fault Refusal := .next (s.objRun (fun s => s.fwFree State.fwHitless))

/-- FLASH_ERASE_DONE (R371). -/
def execFlashEraseDone (s : State) : Host.Outcome State Fault Refusal :=
  .next (s.onDev (fun d => { d with obj := { d.obj with erasing := false } }))

/-- RESTORE_DEFAULTS (R370). -/
def execRestoreDefaults (s : State) : Host.Outcome State Fault Refusal := .next (s.objRun (fun s => s.objDone Dev.restoreDefaults))

/-! ## Every object -/

/-- Objects of chapters 14 to 18 with a rule of their own. -/
def State.objWriteD (s : State) (r : ObjRow) (idx sub : Nat) (b : Bytes) : Option ObjOut :=
  let d := s.dev
  let v := leNat b
  let pair (x : Nat × State) : ObjOut := if x.1 = 0 then { st := x.2 } else s.objFail x.1
  if idx = 0x1004 then some (s.objStore r idx sub (padTo 32 b) true)
  else if idx = 0x1100 then
    some (if 1 < v then s.objFail 0x0302 else s.objDone (fun d => (d.mgmtRateSet (9 + v)).objKeep r idx sub b))
  else if idx = 0x1101 ∨ idx = 0x1102 then
    some (s.objStore r idx sub b (sub != 2 || decide (v ≤ (if idx = 0x1101 then 32 else 128))))
  else if idx = 0x1103 ∨ idx = 0x1107 then some (s.objStore r idx sub b true)
  else if idx = 0x1104 then some (s.objDone Dev.restoreDefaults)
  else if idx = 0x1105 ∨ idx = 0x1106 then some (s.objStore r idx sub b (decide (v ≤ 2)))
  else if idx = 0x1110 then some (s.principalObj r (sub - 1) b)
  else if idx = 0x1111 then
    some (if bit (byteAt (d.principal (sub - 1)) 0) 0 then s.objFail 0x0401 (d.principal (sub - 1))
      else s.objDone (fun d => (d.installPrincipal (sub - 1) b).unapproved))
  else if idx = 0x7F01 then some (s.fwFree State.fwVerify)
  else if idx = 0x7F03 then some (s.fwFree State.fwPromote)
  else if idx = 0x7F04 then some (s.fwFree State.fwHitless)
  else if idx = 0x7E04 then some (pair (s.keyRevoke b))
  else if idx = 0x7E05 then
    let x := s.svnCommit v
    some (if x.1 = 0 then { st := x.2.2 } else s.objFail x.1 x.2.1)
  else if idx = 0x7003 then some (s.enclObj (fun s => s.objDone Dev.zeroise))
  else if idx = 0x7004 then some (s.enclObj (fun s => s.objDone (fun d => d.selfTest none) (some .selfTest)))
  else if idx = 0x7005 then
    some (s.enclObj (fun s =>
      let x := s.sealReseat b (Config.reseatReads s.dev.fv)
      { status := x.status, data := x.data, st := x.st.onDev (fun d => d.fresh.2) }))
  else if idx = 0x7006 then some (s.enclObj (fun s => pair s.tamperArm))
  else if idx = 0x6002 then
    some (if 7 < v then s.objFail 0x0302
      else s.objDone (fun d => (d.when (d.clPresent (sub - 1)) (fun e => e.setOpp (sub - 1) v)).objKeep r idx sub b))
  else if idx = 0x6003 then
    some (s.objSlots r idx sub (time96ToReg b + time96ToReg (slice b 12 12) * 2 ^ 96 + le32 b 24 * 2 ^ 192) id)
  else if idx = 0x6007 then some (if sub = 1 then s.huSwitch else if sub = 2 then s.huCommit else s.huRollback)
  else none

/-- Does a value fail by its type alone: a BOOL above 1, nanoseconds of 10^9 or more (R349). -/
def ObjTy.bad (t : ObjTy) (b : Bytes) : Bool :=
  match t with
  | .bool => decide (1 < leNat b)
  | .time => decide (10 ^ 9 ≤ le32 b 6)
  | _ => false

/-- A write of an object that is not segmented. -/
def State.objWrite (s : State) (r : ObjRow) (idx sub : Nat) (b : Bytes) : ObjOut :=
  if r.ty.bad b then s.objFail 0x0302
  else
    match (((s.objWriteA r idx sub b).orElse (fun _ => s.objWriteB r idx sub b)).orElse (fun _ => s.objWriteC r idx sub b)).orElse
        (fun _ => s.objWriteD r idx sub b) with
    | some o => o
    | none => s.objSlots r idx sub (if r.ty = .time then time96ToReg b % 2 ^ 80 else leNat b) (fun d => d.objKeep r idx sub b)

/-! ## Items of segmented objects (R359) -/

/-- The bytes of an item; none where the object is one item. -/
def itemSize (idx : Nat) : Option Nat :=
  if idx = 0x2104 then some 68 else if idx = 0x2105 then some 80 else if idx = 0x2205 then some 64 else if idx = 0x2206 then some 16
  else if idx = 0x2303 ∨ idx = 0x2304 then some 20 else if idx = 0x1208 then some 24 else if idx = 0x4005 then some 4
  else if idx = 0x4101 then some 256 else if idx = 0x4102 then some 32 else if idx = 0x4103 then some 128 else if idx = 0x4104 then some 16
  else if idx = 0x420A then some 8 else if idx = 0x5008 then some 1 else none

/-- How many items an object has. -/
def itemCount (idx : Nat) : Option Nat :=
  if idx = 0x2104 then some 16384 else if idx = 0x2303 then some 262144 else if idx = 0x2304 then some 65536 else if idx = 0x1208 ∨ idx = 0x4005 then some 4104
  else if idx = 0x4101 then some 256 else if idx = 0x4102 ∨ idx = 0x4103 then some 16384 else if idx = 0x4104 then some 67108864
  else if idx = 0x5008 then some 4096 else none

/-- Item `n` of an object is written. -/
def State.itemWrite (s : State) (r : ObjRow) (idx sub n : Nat) (b : Bytes) : ObjOut :=
  let d := s.dev
  if (match itemCount idx with
    | some m => decide (m ≤ n)
    | none => false) then s.objFail 0x0302
  else if idx = 0x2104 then s.awlItem n b
  else if idx = 0x2105 then s.ruleItem b
  else if idx = 0x2205 then s.flowItem b
  else if idx = 0x2206 then s.lpmItem b
  else if idx = 0x2303 ∨ idx = 0x2304 then
    let a := if idx = 0x2303 then R.QS_CFG_TC.addr else R.PL_CTRL_EN.addr
    s.objWords .window n ((List.range 5).map (fun j => a + 4 * j)) b (fun d => d.itemKeep r idx sub n b)
  else if idx = 0x2305 then s.gateItem r idx sub b
  else if idx = 0x1208 then s.allocItem r n b
  else if idx = 0x120B then
    (if b.length ≠ 513 then s.objFail 0x0301
    else s.objDone (fun d => d.each ((List.range d.fnNum).filter (fun f => bit (byteAt b (f / 8)) (f % 8))) Dev.quiesce))
  else if idx = 0x4005 then s.objDone (fun d => d.itemKeep r idx sub n b)
  else if idx = 0x4101 then s.backendItem n b
  else if idx = 0x4102 then s.nsItem (n + 1) b
  else if idx = 0x4103 then s.attachItem (n + 1) b
  else if idx = 0x4104 then
    (if 4 ≤ byteAt b 9 ∨ !zeroRange b 10 6 then s.objFail 0x0302 else s.objDone (fun d => d.setExt n b))
  else if idx = 0x420A then
    (if 2 ^ 20 < le32 b 0 + le32 b 4 then s.objFail 0x0302 else s.objDone (fun d => d.flowClear (le32 b 0) (le32 b 4)))
  else if idx = 0x5008 then
    (if !d.on R.FB_CTRL_ROUTE_SW then s.objFail 0x0401 else s.objDone (fun d => d.wr R.RT_ENTRY_MASK (leNat b) n))
  else if idx = 0x7F00 then
    s.objDone (fun d => { d with flash := { d.flash with a := b }, obj := { d.obj with fwStage := 2 } })
  else s.objWrite r idx sub b

/-- FW_IMAGE's first segment (R371): refused, or slot A's erase begins. -/
def State.fwImageOpen (s : State) : ObjOut :=
  if !s.dev.slotVerifies s.fuse s.dev.flash.b || s.dev.rd R.HU_STATE == 1 || s.dev.rd R.HU_STATE == 2 then s.objFail 0x0401
  else s.objDone (fun d => { d with flash := { d.flash with a := [] }, obj := { d.obj with erasing := true, fwStage := 1, fwReject := 0 } })

/-! ## Segmented writes -/

/-- The items that the bytes at hand complete, applied in order: the outcome, the items applied in all, the bytes left. -/
def State.itemsApply (r : ObjRow) (idx sub size : Nat) : Nat → Nat → Bytes → State → ObjOut × Nat × Bytes
  | 0, n, part, s => ({ st := s }, n, part)
  | k + 1, n, part, s =>
    if part.length < size then ({ st := s }, n, part)
    else
      let o := s.itemWrite r idx sub n (part.take size)
      if o.status ≠ 0 then (o, n, []) else State.itemsApply r idx sub size k (n + 1) (part.drop size) o.st

/-- An open transfer to an object (R359). -/
def Dev.xfer (d : Dev) (idx sub : Nat) : Option ObjXfer := d.obj.xfers.find? (fun x => x.idx == idx && x.sub == sub)
def Dev.setXfer (d : Dev) (idx sub : Nat) (x : Option ObjXfer) : Dev :=
  { d with obj := { d.obj with xfers := d.obj.xfers.filter (fun y => !(y.idx == idx && y.sub == sub)) ++ x.toList } }

/-- The bytes of a segment join a transfer; what they complete is applied, and LAST closes it (R359, rules 3 to 5). -/
def State.segTake (s : State) (r : ObjRow) (x : ObjXfer) (b : Bytes) (last : Bool) : ObjOut :=
  let part := x.part ++ b
  let res : ObjOut × Nat × Bytes := match itemSize x.idx with
    | some size => State.itemsApply r x.idx x.sub size (part.length / size) x.items part s
    | none =>
      if x.idx = 0x7F00 ∧ slotSize < part.length then (s.objFail 0x0302, 0, [])
      else if !last then ({ st := s }, 0, part)
      else (let o := s.itemWrite r x.idx x.sub 0 part; (o, b2n (o.status == 0), []))
  let o := res.1
  let st := o.st.onDev (fun d => d.when (x.items < res.2.1) (fun e => e.raise objCls objSrc))
  if o.status ≠ 0 then { o with st := st.onDev (fun d => d.setXfer x.idx x.sub none) }
  else if !last then
    { st := st.onDev (fun d => d.setXfer x.idx x.sub (some { x with next := x.next + b.length, part := res.2.2, items := res.2.1, tick := d.tk.etick })) }
  else { status := if res.2.2 = [] then 0 else 0x0301, st := st.onDev (fun d => d.setXfer x.idx x.sub none) }

/-- A WRITE_SEG of requester `who` (R359, R371): offset 0 opens a transfer, a later segment continues one. -/
def State.segWrite (s : State) (who : Nat) (r : ObjRow) (idx sub off : Nat) (b : Bytes) (last : Bool) : ObjOut :=
  let held := s.dev.xfer idx sub
  if (held.map (fun x => x.who != who)).getD false || (idx == 0x7F00 && s.dev.obj.erasing) then s.objFail 0x0402
  else if off = 0 then
    let o := if idx = 0x7F00 then s.fwImageOpen else { st := s }
    if o.status ≠ 0 then o
    else
      let st := o.st.onDev (fun d => { d with obj := { d.obj with
        rulesDone := if idx = 0x2105 then 0 else d.obj.rulesDone, flowDone := if idx = 0x2205 then 0 else d.obj.flowDone } })
      st.segTake r { who := who, idx := idx, sub := sub, next := 0, tick := s.dev.tk.etick } b last
  else
    match held with
    | some x => if x.next = off then s.segTake r x b last else s.objFail 0x0401
    | none => s.objFail 0x0401

/-- FW_IMAGE (R371): a segment of a new image from a requester of R359. -/
def execFwImage (who off : Nat) (data : Bytes) (last : Bool) (s : State) : Host.Outcome State Fault Refusal :=
  let o := s.segWrite who (o1 0x7F00 1 .domain .wo) 0x7F00 1 off data last
  .next (o.st.onDev (fun d => (d.ret o.status).retBytes o.data))

/-- TRANSFER_ABANDON (R359): a transfer that has received no segment for 1 s ends. -/
def execTransferAbandon (idx sub : Nat) (s : State) : Host.Outcome State Fault Refusal :=
  .next (s.onDev (fun d => match d.xfer idx sub with
    | some x => if x.tick + 125000000 ≤ d.tk.etick then d.setXfer idx sub none else d
    | none => d))

end Sys2Proof.Machine
end

