-- ==== Sys2Proof/Machine/MgFrames.lean ====
section
/-!
DEFINITION. The MGMT port (R362, R373-R376): the device's own protocols, which it answers itself (ARP, Neighbour Discovery, ICMP echo, UDP to the
object engine), and the two rings of the MGMT frame interface in HBM.
-/
namespace Sys2Proof.Machine

def Dev.setMg (d : Dev) (f : MgState → MgState) : Dev := { d with obj := { d.obj with mg := f d.obj.mg } }

/-! ## Own addresses and frames (R362) -/

/-- The addresses of 0x1101 and 0x1102; zero disables one. -/
def Dev.ip4 (d : Dev) : Bytes := padTo 4 (d.objBytes 0x1101 1 [])
def Dev.ip6 (d : Dev) : Bytes := padTo 16 (d.objBytes 0x1102 1 [])
def Dev.ownIp4 (d : Dev) (a : Bytes) : Bool := leNat d.ip4 != 0 && a == d.ip4
def Dev.ownIp6 (d : Dev) (a : Bytes) : Bool := leNat d.ip6 != 0 && a == d.ip6

/-- The Internet checksum of a byte string. -/
def netSum (b : Bytes) : Nat := 65535 - fold16 4 (csum16 b)

/-- An IPv4 header in front of a payload, and an IPv6 one; `n` numbers the datagram. -/
def ip4Wrap (n proto : Nat) (src dst payload : Bytes) : Bytes :=
  let h (c : Nat) : Bytes := [0x45#8, BitVec.ofNat 8 Config.mgTos] ++ beBytes 2 (20 + payload.length) ++ beBytes 2 (Config.mgIdent n) ++ [0#8, 0#8] ++
    [BitVec.ofNat 8 Config.mgTtl, BitVec.ofNat 8 proto] ++ beBytes 2 c ++ src ++ dst
  h (netSum (h 0)) ++ payload
def ip6Wrap (next hop : Nat) (src dst payload : Bytes) : Bytes :=
  beBytes 4 (6 * 2 ^ 28 + Config.mgTos % 256 * 2 ^ 20 + Config.mgFlow % 2 ^ 20) ++ beBytes 2 payload.length ++
    [BitVec.ofNat 8 next, BitVec.ofNat 8 hop] ++ src ++ dst ++ payload

/-- The checksum of an upper-layer message under IPv4 (UDP) or IPv6, over its pseudo-header. -/
def upperSum (v6 : Bool) (proto : Nat) (src dst m : Bytes) : Nat :=
  netSum (src ++ dst ++ (if v6 then beBytes 4 m.length ++ [0#8, 0#8, 0#8, BitVec.ofNat 8 proto] else [0#8, BitVec.ofNat 8 proto] ++ beBytes 2 m.length) ++ m)

/-- The device's own frames are ready as soon as they are formed (R375). -/
def Dev.mgOwn (d : Dev) (dst : Bytes) (etype : Nat) (payload : Bytes) : Dev :=
  d.setMg (fun m => { m with ready := m.ready ++ [{ bytes := padFrame (dst ++ Config.mgmtMac ++ beBytes 2 etype ++ payload) }] })

/-- The IP version of a frame and the offset of its upper-layer message: 4 with proto and offset, 6 with next header 40 on. -/
def mgIp (b : Bytes) : Option (Bool × Nat × Nat) :=
  if be16 b 12 = 0x0800 ∧ byteAt b 14 / 16 = 4 then some (false, byteAt b 23, 14 + byteAt b 14 % 16 * 4)
  else if be16 b 12 = 0x86DD ∧ byteAt b 14 / 16 = 6 then some (true, byteAt b 20, 54)
  else none

/-- The bytes of the upper-layer message, by the length field of the IP header. -/
def mgUpper (b : Bytes) : Bytes :=
  match mgIp b with
  | some (false, _, o) => slice b o (be16 b 16 - (o - 14))
  | some (true, _, o) => slice b o (be16 b 18)
  | none => []

/-- Is a datagram one of the device's: addressed to it. -/
def Dev.mgMine (d : Dev) (b : Bytes) : Bool :=
  match mgIp b with
  | some (false, _, _) => d.ownIp4 (slice b 30 4)
  | some (true, _, _) => d.ownIp6 (slice b 38 16)
  | none => false

/-- Is a datagram a fragment (R362). -/
def mgFragment (b : Bytes) : Bool :=
  match mgIp b with
  | some (false, _, _) => be16 b 20 % 2 ^ 14 != 0
  | some (true, n, _) => n == 44
  | none => false

/-- A UDP reply to a datagram whose frame begins with `hdr`, up to the UDP payload. -/
def Dev.udpReply (d : Dev) (hdr payload : Bytes) : Dev :=
  match mgIp hdr with
  | none => d
  | some (v6, _, o) =>
    let src := if v6 then slice hdr 38 16 else slice hdr 30 4
    let dst := if v6 then slice hdr 22 16 else slice hdr 26 4
    let m (c : Nat) : Bytes := slice hdr (o + 2) 2 ++ slice hdr o 2 ++ beBytes 2 (8 + payload.length) ++ beBytes 2 c ++ payload
    let c := upperSum v6 17 src dst (m 0)
    let u := m (if c = 0 then 0xFFFF else c)
    let x := d.fresh
    if v6 then x.2.mgOwn (slice hdr 6 6) 0x86DD (ip6Wrap 17 Config.mgTtl src dst u)
    else x.2.mgOwn (slice hdr 6 6) 0x0800 (ip4Wrap x.1 17 src dst u)

/-- What the device does with a frame that is one of its own protocols (R362). -/
inductive MgKind where
  | arp | solicit | echo4 | echo6 | sop | fragment | other
  deriving DecidableEq, Repr

/-- Which protocol of the device a frame belongs to. -/
def Dev.mgKind (d : Dev) (b : Bytes) : MgKind :=
  if be16 b 12 = 0x0806 then
    (if slice b 14 8 == [0#8, 1#8, 8#8, 0#8, 6#8, 4#8, 0#8, 1#8] && d.ownIp4 (slice b 38 4) then .arp else .other)
  else
    match mgIp b with
    | none => .other
    | some (v6, p, o) =>
      if v6 && p == 58 && byteAt b o == 135 && byteAt b 21 == 255 && d.ownIp6 (slice b (o + 8) 16) then .solicit
      else if !d.mgMine b then .other
      else if mgFragment b then .fragment
      else if !v6 && p == 1 && be16 b o == 0x0800 then .echo4
      else if v6 && p == 58 && be16 b o == 0x8000 then .echo6
      else if p == 17 && be16 b (o + 2) == d.objNat 0x1103 1 0xC5A1 then .sop
      else .other

/-- The answer to an ARP request, a Neighbour Solicitation, an echo request. -/
def Dev.mgAnswer (d : Dev) (b : Bytes) (k : MgKind) : Dev :=
  let m := mgUpper b
  match k with
  | .arp => d.mgOwn (slice b 6 6) 0x0806 ([0#8, 1#8, 8#8, 0#8, 6#8, 4#8, 0#8, 2#8] ++ Config.mgmtMac ++ d.ip4 ++ slice b 22 10)
  | .solicit =>
    let from' := slice b 22 16
    let dst := if leNat from' = 0 then [0xFF#8, 0x02#8] ++ List.replicate 13 0#8 ++ [1#8] else from'
    let na (c : Nat) : Bytes := [136#8, 0#8] ++ beBytes 2 c ++ [if leNat from' = 0 then 0x20#8 else 0x60#8, 0#8, 0#8, 0#8] ++ d.ip6 ++ [2#8, 1#8] ++ Config.mgmtMac
    d.mgOwn (if leNat from' = 0 then [0x33#8, 0x33#8, 0#8, 0#8, 0#8, 1#8] else slice b 6 6) 0x86DD
      (ip6Wrap 58 255 d.ip6 dst (na (upperSum true 58 d.ip6 dst (na 0))))
  | .echo4 =>
    let e (c : Nat) : Bytes := [0#8, 0#8] ++ beBytes 2 c ++ m.drop 4
    let x := d.fresh
    x.2.mgOwn (slice b 6 6) 0x0800 (ip4Wrap x.1 1 d.ip4 (slice b 26 4) (e (netSum (e 0))))
  | .echo6 =>
    let e (c : Nat) : Bytes := [129#8, 0#8] ++ beBytes 2 c ++ m.drop 4
    let dst := slice b 22 16
    d.mgOwn (slice b 6 6) 0x86DD (ip6Wrap 58 Config.mgTtl d.ip6 dst (e (upperSum true 58 d.ip6 dst (e 0))))
  | _ => d

/-! ## The rings (R374) -/

/-- LOG2_SIZE, base, PI and CI of the transmit (false) or receive ring. -/
def Dev.mgN (d : Dev) (rx : Bool) : Nat := d.rd (if rx then R.MG_RX_CFG else R.MG_TX_CFG)
def Dev.mgBase (d : Dev) (rx : Bool) : Nat := d.rd (if rx then R.MG_RX_BASE else R.MG_TX_BASE)
def mgPi (rx : Bool) : Field := if rx then R.MG_RX_IDX_PI else R.MG_TX_IDX_PI
def mgCi (rx : Bool) : Field := if rx then R.MG_RX_IDX_CI else R.MG_TX_IDX_CI

/-- The FETCH index of a ring. -/
def Dev.mgFetch (d : Dev) (rx : Bool) : Nat := if rx then d.rd R.MG_RX_IDX_CI else d.obj.mg.fetch

/-- May a ring start a job: enabled and not in error. -/
def Dev.mgRuns (d : Dev) (rx : Bool) : Bool := d.on R.MG_CTRL_EN && !(if rx then d.obj.mg.errRx else d.obj.mg.errTx)

/-- A ring in error; the register keeps the first (R374). -/
def Dev.mgError (d : Dev) (rx : Bool) (cause : Nat) : Dev :=
  let e := d.setMg (fun m => if rx then { m with errRx := true } else { m with errTx := true })
  if d.on R.MG_STATUS_ERR then e else ((e.flag R.MG_STATUS_ERR).wr R.MG_STATUS_ERR_RING (b2n rx)).wr R.MG_STATUS_ERR_CAUSE cause

/-- The entries posted from FETCH on, as HBM holds them. -/
def State.mgPosted (s : State) (rx : Bool) : List Bytes :=
  let d := s.dev
  let n := d.mgN rx
  (List.range (lapSub n (d.rd (mgPi rx)) (d.mgFetch rx))).map (fun k => memReadN s.hbm (d.mgBase rx + 64 * ((d.mgFetch rx + k) % 2 ^ n)) 64)

/-- A completion over the entry at CI: `body` is bytes 0 to 51 (R230). -/
def State.mgCpl (s : State) (rx : Bool) (status : Nat) (desc body : Bytes) : State :=
  let d := s.dev
  let n := d.mgN rx
  let i := d.rd (mgCi rx)
  { s with
    hbm := memWriteN s.hbm (d.mgBase rx + 64 * (i % 2 ^ n)) (slice body 0 52 ++ slice desc 52 4 ++ [0#8, 0#8, 0#8, 0#8] ++ cplCtrl n i status desc)
    dev := d.wr (mgCi rx) ((i + 1) % lapMod n) }

/-- A completed job raises its event where it is enabled (R376). -/
def Dev.mgEvent (d : Dev) (rx : Bool) : Dev :=
  d.when (d.on (if rx then R.MG_IRQ_RX_EN else R.MG_IRQ_TX_EN)) (fun e => e.coreIrq (if rx then 0x001A else 0x001B))

/-- Idle once its jobs have completed with the ring disabled (R234). -/
def Dev.mgIdle (d : Dev) : Dev :=
  if d.on R.MG_CTRL_EN then d
  else (d.when (d.obj.mg.fetch == d.rd R.MG_TX_IDX_CI) (fun e => e.flag R.MG_STATUS_TX_IDLE)).flag R.MG_STATUS_RX_IDLE

/-- A transmit job completes (Table 9.4); `stamp` is its timestamp, zero if it was not sent. -/
def State.mgTxDone (s : State) (l : List Bytes) (status stamp : Nat) : State :=
  let n := l.length
  let t := ((List.range n).zip l).foldl (fun (x : State) p =>
    x.mgCpl false status p.2 ((if p.1 + 1 = n then time96Bytes stamp else List.replicate 12 0#8) ++ leBytes 4 (le16 p.2 8) ++ [BitVec.ofNat 8 status])) s
  t.onDev (fun d => (d.mgEvent false).mgIdle)

/-- Start transmit jobs until one waits for the line (R225, R227, R374). -/
def State.mgTxStart : Nat → State → State
  | 0, s => s
  | k + 1, s =>
    let d := s.dev
    if !d.mgRuns false || d.obj.mg.ready.any (fun f => f.job != []) then s
    else
      match txWork (s.mgPosted false) with
      | .none => s
      | .bad _ => s.onDev (fun d => d.mgError false 2)
      | .wait _ => s.onDev (fun d => d.mgError false 2)
      | .job l =>
        let b := l.headD []
        let raw := l.flatMap (fun e => memReadN s.hbm (le64 e 0) (le16 e 8))
        let data := padFrame raw
        let status := if l.any (fun e => !d.inArea7 (le64 e 0) (le16 e 8)) then 9
          else if txLaunch b || (txOneStep b && decide (raw.length < le16 b 14 + 34)) then 8
          else if 1522 < data.length + 4 then 2 else 0
        let t := s.onDev (fun d => d.setMg (fun m => { m with fetch := (m.fetch + l.length) % lapMod (d.mgN false) }))
        if status ≠ 0 then State.mgTxStart k (t.mgTxDone l status 0)
        else t.onDev (fun d => d.setMg (fun m => { m with ready := m.ready ++
          [{ bytes := data, job := l, oneStep := if txOneStep b then (if txTurn b then 2 else 1) else 0 }] }))

/-- Start what the transmit ring has posted. -/
def State.mgTxKick (s : State) : State := State.mgTxStart (lapMod (s.dev.mgN false)) s

/-- A doorbell of a ring (R221, R374). -/
def Dev.mgBell (d : Dev) (rx : Bool) (x : Nat) : Dev :=
  let n := d.mgN rx
  let p := d.rd (mgPi rx)
  if !d.mgRuns rx || x == p then d
  else if x < lapMod n ∧ lapSub n x p ≤ 2 ^ n - lapSub n p (d.rd (mgCi rx)) then d.wr (mgPi rx) x
  else d.mgError rx 1

/-- A write of a MGNI register that its requester may not make (R376). -/
def Dev.mgRefused (d : Dev) : Dev := d.flag R.MG_STATUS_WR_REFUSED

/-- MG_TX_DB and MG_RX_DB (R374, R376). -/
def execMgTxDb (req value : Nat) (s : State) : Host.Outcome State Fault Refusal :=
  let t := s.onDev (fun d => d.sampleWrite req value)
  .next (if isHart req then (t.onDev (fun d => d.mgBell false (value % 2 ^ 13))).mgTxKick else t.onDev Dev.mgRefused)
def execMgRxDb (req value : Nat) (s : State) : Host.Outcome State Fault Refusal :=
  let t := s.onDev (fun d => d.sampleWrite req value)
  .next (t.onDev (fun d => if isHart req then d.mgBell true (value % 2 ^ 13) else d.mgRefused))

/-- Does an enable fail: a base outside area 7, a size outside 6 to 12, a ring that is not idle (R374, R376). -/
def Dev.mgBad (d : Dev) (rx : Bool) : Bool :=
  decide (d.mgN rx < 6 ∨ 12 < d.mgN rx) || !d.inArea7 (d.mgBase rx) (64 * 2 ^ d.mgN rx) ||
    !d.on (if rx then R.MG_STATUS_RX_IDLE else R.MG_STATUS_TX_IDLE)

/-- An accepted enable: every index 0, no error. -/
def Dev.mgEnable (d : Dev) : Dev :=
  let e := d.each [R.MG_TX_IDX_PI, R.MG_TX_IDX_CI, R.MG_RX_IDX_PI, R.MG_RX_IDX_CI, R.MG_STATUS_TX_IDLE, R.MG_STATUS_RX_IDLE, R.MG_STATUS_ERR, R.MG_STATUS_ERR_RING,
    R.MG_STATUS_ERR_CAUSE] (fun x f => x.wr f 0)
  (e.flag R.MG_CTRL_EN).setMg (fun m => { m with fetch := 0, errTx := false, errRx := false })

/-- EN clears (R234): posted receive entries complete with status 0x0A, and both rings become idle once nothing is in work. -/
def State.mgStop (s : State) : State :=
  if !s.dev.on R.MG_CTRL_EN then s
  else
    let t := (s.mgPosted true).foldl (fun (x : State) b => x.mgCpl true 0x0A b (List.replicate 16 0#8 ++ [0x0A#8])) s
    t.onDev (fun d => (d.wr R.MG_CTRL_EN 0).mgIdle)

/-- MG_CTRL_EN (R376). -/
def execMgCtrlEn (req : Nat) (on : Bool) (s : State) : Host.Outcome State Fault Refusal :=
  let t := s.onDev (fun d => d.sampleWrite req (b2n on))
  .next (
    if !isHart req then t.onDev Dev.mgRefused
    else if !on then t.mgStop
    else t.onDev (fun d => if d.on R.MG_CTRL_EN then d else if d.mgBad false || d.mgBad true then d.mgRefused else d.mgEnable))

/-! ## Receiving and sending -/

/-- A frame goes to the receive ring (R228, R374). -/
def State.mgDeliver (s : State) (b : Bytes) (stamp : Nat) : State :=
  let d := s.dev
  let posted := (s.mgPosted true).map (fun e => if d.inArea7 (le64 e 0) (le32 e 8) then e else [])
  let p := bufJobs 1 posted 0 []
  let lost (e : Dev) : Dev := e.count R.MG_RX_NOBUF
  if !d.mgRuns true then s.onDev lost
  else
    match takeBufs b.length p.1 with
    | none => s.onDev (fun d => lost (d.when p.2.isSome (fun e => e.mgError true 2)))
    | some jobs =>
      let x : RxItem := { bytes := b, len := b.length + 4, stamp := stamp, port := 16 }
      let all := jobs.flatten
      let r := ((List.range all.length).zip all).foldl (fun (y : State × Bytes) q =>
        let t := { y.1 with hbm := memWriteN y.1.hbm (le64 q.2.1 0) (y.2.take q.2.2) }
        (t.mgCpl true 0 q.2.1 (rxBody x q.2.2 (decide (q.1 + 1 = all.length))), y.2.drop q.2.2)) (s, b)
      r.1.onDev (fun d => d.each jobs (fun e _ => e.mgEvent true) |>.count R.MG_RX_FRAMES)

/-- Is a frame accepted by its destination (R373). -/
def Dev.mgAccepts (d : Dev) (b : Bytes) : Bool :=
  d.on R.MG_CTRL_PROMISC || slice b 0 6 == Config.mgmtMac || byteAt b 0 % 2 == 1

/-- MGMT_FRAME_SEND (R375): the frame that became ready first is sent whole; a core frame takes its one-step values (R82) and completes. -/
def execMgmtFrameSend (tEmit e pos : Nat) (s : State) : Host.Outcome State Fault Refusal :=
  .next (match s.dev.obj.mg.ready with
    | [] => s
    | f :: rest =>
      let stamp := s.dev.txStamp 16 tEmit e pos
      let b := f.job.headD []
      let x : Frame := { bytes := f.bytes, oneStep := f.oneStep, osOff := le16 b 14, csOff := le16 b 16, tRef := time96Of12 (slice b 30 12) }
      let out := if f.oneStep = 0 then f.bytes
        else udpUpdate f.bytes (oneStepInsert x stamp) x.osOff x.csOff (innerType f.bytes == 0x0800)
      let t := s.onDev (fun d => d.setMg (fun m => { m with ready := rest, wire := m.wire ++ [(out, stamp)] }))
      if f.job = [] then t else ((t.onDev (fun d => d.count R.MG_TX_FRAMES)).mgTxDone f.job 0 stamp).mgTxKick)

end Sys2Proof.Machine
end

