-- ==== Sys2Proof/Machine/ObjEngine.lean ====
section
/-!
DEFINITION. The dictionary engine (R348-R368): messages as they arrive on each path, the checks of Table 14.3 in their order, authentication and
replay, execution, the response; requests forwarded over the fabric; the core mailboxes; frames received on MGMT.
-/
namespace Sys2Proof.Machine

def Dev.setObj (d : Dev) (f : ObjState → ObjState) : Dev := { d with obj := f d.obj }

/-! ## Messages (Table 14.4) -/

def sopOp (b : Bytes) : Nat := byteAt b 20
def sopDataLen (b : Bytes) : Nat := le16 b 28

/-- The bytes of a request before its tag: a READ_SEG carries no data. -/
def sopLen (b : Bytes) : Nat := 32 + (if sopOp b = 3 then 0 else sopDataLen b)

/-- Does a request disagree with Table 14.4 in its fields. -/
def sopBad (b : Bytes) : Bool :=
  slice b 0 3 != [0x53#8, 0x4F#8, 1#8] || !(byteAt b 3 == 0 || byteAt b 3 == 2) || decide (16 ≤ byteAt b 7) || le16 b 30 != 0 ||
    decide (sopOp b < 1 ∨ 4 < sopOp b) || (decide (sopOp b < 3) && le32 b 24 != 0)

/-- The segment size of a path (Table 14.5). -/
def ObjPath.seg : ObjPath → Nat
  | .fabric _ _ => 768
  | _ => 1024

/-- Is a path one of SOP, which authenticates. -/
def ObjPath.sop : ObjPath → Bool
  | .mailbox _ => false
  | _ => true

/-- A response: the request's header with flags, length and status, and the data. -/
def sopReply (b : Bytes) (status : Nat) (data : Bytes) (last : Bool) : Bytes :=
  slice b 0 3 ++ [BitVec.ofNat 8 (1 + 2 * b2n last)] ++ slice b 4 24 ++ leBytes 2 data.length ++ leBytes 2 status ++ data

/-- The tag of a response (R361): zero for 0x0501 and for a principal without a key. -/
def Dev.sopTag (d : Dev) (m : Bytes) (status : Nat) : Bytes :=
  match d.keyRec 1 (le16 m 4) with
  | some k => if status = 0x0501 then List.replicate 32 0#8 else Config.kmac256 k m (ascii "IH-SOP-1")
  | none => List.replicate 32 0#8

/-! ## Mailboxes (R365, R366) -/

/-- The message buffer of a mailbox. -/
def Dev.mbBuf (d : Dev) (m : Nat) : Bytes := (List.range 320).flatMap (fun i => leBytes 4 (d.rd R.MB_BUF m i))

/-- A message is written over the buffer. -/
def Dev.setMbBuf (d : Dev) (m : Nat) (b : Bytes) : Dev :=
  d.each (List.range (min 320 ((b.length + 3) / 4))) (fun e i => e.wr R.MB_BUF (leNat (slice (b ++ (d.mbBuf m).drop b.length) (4 * i) 4)) m i)

/-- A mailbox request ends (R365, steps 4 and 5). -/
def Dev.mbDone (d : Dev) (m : Nat) (b : Bytes) : Dev :=
  let e := ((d.setMbBuf m b).wr R.MB_STATUS_BUSY 0 m).flag R.MB_STATUS_DONE m
  if m = 0 then (e.raise 11 0x0008).when (e.on R.MB_CTRL_INT_EN) (fun x => x.msix 0 (x.rd R.MB_VECTOR)) else e.coreIrq (0x0008 + m)

/-- Does a requester hold a mailbox: PF0 mailbox 0, the hart that claimed it another. -/
def Dev.ownsMailbox (d : Dev) (req m : Nat) : Bool :=
  if m = 0 then req == 0 else isHart req && d.on R.MB_STATUS_CLAIMED m && d.rd R.MB_STATUS_OWNER m == req - 4104

/-- CLAIM (R366). -/
def execClaim (req m : Nat) (s : State) : Host.Outcome State Fault Refusal :=
  .next (s.onDev (fun d =>
    if isHart req && !d.on R.MB_STATUS_CLAIMED m then ((d.flag R.MB_STATUS_CLAIMED m).wr R.MB_STATUS_OWNER (req - 4104) m).sampleWrite req 2 else d))

/-- A mailbox is free. -/
def Dev.mbFree (d : Dev) (m : Nat) : Dev := (d.wr R.MB_STATUS_CLAIMED 0 m).wr R.MB_STATUS_OWNER 0 m

/-- RELEASE (R366). -/
def execRelease (req m : Nat) (s : State) : Host.Outcome State Fault Refusal :=
  .next (s.onDev (fun d => if m != 0 && d.ownsMailbox req m then (d.mbFree m).sampleWrite req 4 else d))

/-! ## Responses -/

/-- A message leaves on the path of its request. -/
def Dev.pathSend (d : Dev) (path : ObjPath) (m : Bytes) : Dev :=
  match path with
  | .mailbox k => d.mbDone k m
  | .mgmt hdr => d.udpReply hdr m
  | .fabric src _ => d.fabSend 7 6 src 0 m

/-- The response to a request (R360, R361, R364): an accepted SOP request's is stored; refusals of authentication leave at most once in a
millisecond. -/
def Dev.sopRespond (d : Dev) (q : ObjReq) (status : Nat) (data : Bytes) (last : Bool := false) : Dev :=
  let m := sopReply q.bytes status data last
  if !q.path.sop then d.pathSend q.path m
  else
    let r := m ++ d.sopTag m status
    if status = 0x0501 ∨ status = 0x0502 then
      (if (match d.obj.denied with
        | some t => decide (d.tk.etick < t + 125000)
        | none => false) then d.setObj (fun o => { o with sopSuppressed := o.sopSuppressed + 1 })
      else (d.setObj (fun o => { o with denied := some d.tk.etick })).pathSend q.path r)
    else (d.setObj (fun o => { o with last := SMap.put o.last (le16 q.bytes 4) (q.bytes, r) })).pathSend q.path r

/-! ## Arrival -/

/-- Where a request goes: 0 for this device (R367). A fabric request has reached its target. -/
def Dev.sopTarget (d : Dev) (path : ObjPath) (b : Bytes) : Nat :=
  match path with
  | .mailbox m => if d.on R.MB_TARGET m then d.rd R.MB_TARGET m else le16 b 6
  | .mgmt _ => le16 b 6
  | .fabric _ _ => 0

/-- A message that Table 14.4 does not allow (R360). -/
def Dev.sopMalformed (d : Dev) (path : ObjPath) (b : Bytes) : Dev :=
  let e := d.setObj (fun o => { o with sopMalformed := o.sopMalformed + 1 })
  match path with
  | .mailbox m => e.mbDone m (slice b 0 3 ++ [3#8] ++ slice b 4 24 ++ [0#8, 0#8] ++ leBytes 2 0x0301)
  | _ => e

/-- A message arrives at the engine, whole (R354, R360, R367, R368). -/
def Dev.sopIn (d : Dev) (path : ObjPath) (b : Bytes) : Dev :=
  let dst := d.sopTarget path b
  let n := sopLen b + (if path.sop || dst != 0 then 32 else 0)
  let fits := match path with
    | .mailbox _ => decide (n ≤ 1280)
    | _ => b.length == n
  let bcast := match path with
    | .fabric _ x => x
    | _ => false
  if sopBad b || !fits || (bcast && sopOp b != 1 && sopOp b != 3) then d.sopMalformed path b
  else
    let q : ObjReq := { path := path, bytes := b.take n }
    let e := d.when path.sop (fun d => d.setObj (fun o => { o with sopRx := o.sopRx + 1 }))
    if dst ≠ 0 then
      (e.fabSend 6 6 dst 0 q.bytes).setObj (fun o => { o with proxies := o.proxies ++ [{ path := path, dst := dst, head := b.take 32, tick := d.tk.etick }] })
    else if 64 ≤ e.obj.queue.length then
      (let m := sopReply q.bytes 0x0402 [] false
      (e.when path.sop (fun d => d.setObj (fun o => { o with sopBusy := o.sopBusy + 1 }))).pathSend path (if path.sop then m ++ e.sopTag m 0x0402 else m))
    else e.setObj (fun o => { o with queue := o.queue ++ [q] })

/-- MB_CTRL.GO (R365, R366): ignored for a requester that does not hold the mailbox, and while BUSY. -/
def Dev.mailboxGo (d : Dev) (req m : Nat) : Dev :=
  if !d.ownsMailbox req m || d.on R.MB_STATUS_BUSY m then d else (d.flag R.MB_STATUS_BUSY m).sopIn (.mailbox m) (d.mbBuf m)

/-! ## Execution -/

/-- Is the group of an object in reset or being reloaded (R354, R434). -/
def Dev.objBusy (d : Dev) (g : Nat) : Bool := d.rst.active.contains g || (decide (2 ≤ g) && bit (d.rd R.PW_RELOAD) (g - 2))

/-- Does a request's opcode or length disagree with the object's type (R349, R358). -/
def ObjTy.mismatch (t : ObjTy) (op n seg : Nat) : Bool :=
  (decide (3 ≤ op) != t.segmented seg) || decide (seg < n) || (op == 1 && n != 0) ||
    (op == 2 && (match t with
      | .str m => decide (m < n)
      | _ => t.size != some n))

/-- The level that an object requires (R350). -/
def ObjRow.closed (r : ObjRow) (lvl : Nat) (write : Bool) : Bool :=
  if write then decide (lvl < r.level) else decide (lvl < 3 ∧ r.level = 3) || r.acc == .wo || r.ty == .command

/-- Execute a request of requester `who` at a level, after its authentication (Table 14.3): the outcome, and whether a read reached the end. -/
def State.objExec (s : State) (who lvl seg : Nat) (b : Bytes) : ObjOut × Bool :=
  let op := sopOp b
  let sub := byteAt b 21
  let idx := le16 b 22
  let n := sopDataLen b
  let write := op == 2 || op == 4
  match s.dev.objFind idx sub with
  | .none st => (s.objFail st, false)
  | .count k =>
    if write then (s.objFail (if lvl < 2 then 0x0201 else 0x0202), false)
    else if ObjTy.mismatch (.num 1) op n seg then (s.objFail 0x0301, false)
    else if s.dev.objBusy (((s.dev.objRows idx).head?.map (·.grp)).getD 0) then (s.objFail 0x0402, false)
    else ({ data := leBytes 1 k, st := s }, false)
  | .row r =>
    if r.closed lvl write then (s.objFail 0x0201, false)
    else if write && (r.acc == .const || r.acc == .ro) then (s.objFail 0x0202, false)
    else if r.ty.mismatch op n seg then (s.objFail 0x0301, false)
    else if s.dev.objBusy r.grp then (s.objFail 0x0402, false)
    else if op = 1 then ({ data := s.objRead r idx sub, st := s }, false)
    else if op = 2 then
      (let o := s.objWrite r idx sub (slice b 32 n)
      ({ o with st := o.st.onDev (fun d => d.when (o.status == 0) (fun e => e.raise objCls objSrc)) }, false))
    else if op = 3 then
      (let x := (s.objDomain r idx sub).read (le32 b 24) n
      ({ data := x.1, st := s }, x.2))
    else (s.segWrite who r idx sub (le32 b 24) (slice b 32 n) (bit (byteAt b 3) 1), false)

/-- An executed request is answered, or its response waits (R354, R355, R458). -/
def State.objFinish (q : ObjReq) (x : ObjOut × Bool) : State :=
  match x.1.wait with
  | some w => x.1.st.onDev (fun d => d.setObj (fun o => { o with wait := some (q, w) }))
  | none => x.1.st.onDev (fun d => d.sopRespond q x.1.status x.1.data x.2)

/-- The engine executes a request: authentication and replay on SOP (R361, R363, R364, R399), the level of the path (R351). -/
def State.objServe (s : State) (q : ObjReq) : State :=
  let b := q.bytes
  match q.path with
  | .mailbox m => State.objFinish q (s.objExec (16 + m) (s.dev.objNat (if m = 0 then 0x1105 else 0x1106) 0 2) 1024 b)
  | _ =>
    let d := s.dev
    let p := le16 b 4
    let n := sopLen b
    let c := d.prinCtr p
    let fail (e : Dev) : Dev := e.setObj (fun o => { o with sopAuthFail := o.sopAuthFail + 1 })
    if d.encl.inhibit || d.inReset 0x1B then s.onDev fail
    else if !d.tagOk p (b.take n) (slice b n 32) (ascii "IH-SOP-1") then s.onDev (fun d => (fail d).sopRespond q 0x0501 [])
    else
      match SMap.get? d.obj.last p with
      | some (old, r) =>
        if le64 b 8 = c ∧ old = b then s.onDev (fun d => d.pathSend q.path r)
        else if le64 b 8 ≤ c then s.onDev (fun d => (d.setObj (fun o => { o with sopReplay := o.sopReplay + 1 })).sopRespond q 0x0502 (leBytes 8 c))
        else State.objFinish q ((s.onDev (fun d => d.ctrAccept p (le64 b 8))).objExec p (d.principalLevel p) q.path.seg b)
      | none =>
        if le64 b 8 ≤ c then s.onDev (fun d => (d.setObj (fun o => { o with sopReplay := o.sopReplay + 1 })).sopRespond q 0x0502 (leBytes 8 c))
        else State.objFinish q ((s.onDev (fun d => d.ctrAccept p (le64 b 8))).objExec p (d.principalLevel p) q.path.seg b)

/-- The engine takes the request at the head of its queue, if it has this opcode and no response waits (R354). -/
def State.objTake (s : State) (op : Nat) : State :=
  match s.dev.obj.wait, s.dev.obj.queue with
  | none, q :: rest => if sopOp q.bytes = op then (s.onDev (fun d => d.setObj (fun o => { o with queue := rest }))).objServe q else s
  | _, _ => s

/-- READ, WRITE, READ_SEG, WRITE_SEG (R354, R358, R359). -/
def execRead (s : State) : Host.Outcome State Fault Refusal := .next (s.objTake 1)
def execWrite (s : State) : Host.Outcome State Fault Refusal := .next (s.objTake 2)
def execReadSeg (s : State) : Host.Outcome State Fault Refusal := .next (s.objTake 3)
def execWriteSeg (s : State) : Host.Outcome State Fault Refusal := .next (s.objTake 4)

/-- The response that has waited leaves with a status (R355, R458). -/
def Dev.objWaitEnd (d : Dev) (status : Nat) (data : Bytes) : Dev :=
  match d.obj.wait with
  | some (q, _) => (d.setObj (fun o => { o with wait := none })).sopRespond q status data
  | none => d

/-- A response whose condition is met leaves: the bank cleared, the fence passed, the tests over. -/
def Dev.objWaitPoll (d : Dev) : Dev :=
  match d.obj.wait with
  | some (_, .bankClear) => if d.on R.CP_BANK_CLEAR_BUSY then d else d.objWaitEnd 0 []
  | some (_, .selfTest) =>
    if d.rd R.EN_STATUS_STATE = 0 then d else if d.rd R.EN_STATUS_STATE = 1 then d.objWaitEnd 0 [] else d.objWaitEnd 0x0602 []
  | _ => d

/-! ## The fabric (R367, R368) -/

/-- The first object frame of a type at the engine, and the frames without it. -/
def firstObj (ty : Nat) : List FabObj → Option (FabObj × List FabObj)
  | [] => none
  | x :: xs => if x.ty = ty then some (x, xs) else (firstObj ty xs).map (fun p => (p.1, x :: p.2))

/-- OBJ_REQ (R367, R368): a request from the fabric reaches the engine. -/
def execObjReq (s : State) : Host.Outcome State Fault Refusal :=
  .next (s.onDev (fun d => match firstObj 6 d.fab.objIn with
    | none => d
    | some (x, rest) =>
      let e := d.setFab (fun f => { f with objIn := rest })
      if e.objNat 0x1107 0 1 = 0 ∨ e.fabAddr = 0 then e else e.sopIn (.fabric x.src x.bcast) x.bytes))

/-- Does a response answer a forwarded request: from its target, with the fields that it echoes. -/
def ObjProxy.answeredBy (p : ObjProxy) (x : FabObj) : Bool :=
  (p.dst == x.src || p.dst == 0xFFF) && slice x.bytes 4 24 == slice p.head 4 24

/-- OBJ_RESP (R367): a response goes back on the original path. Each response to a broadcast does, but for a mailbox, which takes one. -/
def execObjResp (s : State) : Host.Outcome State Fault Refusal :=
  .next (s.onDev (fun d => match firstObj 7 d.fab.objIn with
    | none => d
    | some (x, rest) =>
      let e := d.setFab (fun f => { f with objIn := rest })
      match e.obj.proxies.find? (fun p => p.answeredBy x) with
      | none => e
      | some p =>
        let more := p.dst == 0xFFF && p.path.sop
        (e.setObj (fun o => { o with proxies := o.proxies.flatMap (fun y => if y = p then (if more then [{ p with got := true }] else []) else [y]) })).pathSend
          p.path x.bytes))

/-- SOP_PROXY_TIMEOUT (R367): 20 ms without a response to the oldest forwarded request. -/
def execSopProxyTimeout (s : State) : Host.Outcome State Fault Refusal :=
  .next (s.onDev (fun d => match d.obj.proxies with
    | [] => d
    | p :: rest =>
      if d.tk.etick < p.tick + 2500000 then d
      else
        let e := d.setObj (fun o => { o with proxies := rest })
        if p.got then e
        else (e.setObj (fun o => { o with sopProxyTimeout := o.sopProxyTimeout + 1 })).pathSend p.path
          (sopReply p.head 0x0402 [] false ++ List.replicate 32 0#8)))

/-! ## MGMT (R362, R373) -/

/-- MGMT_FRAME_RECEIVE (R362, R373): a frame with its FCS is detected at `tDet`. -/
def execMgmtFrameReceive (raw : Bytes) (tDet e pos : Nat) (s : State) : Host.Outcome State Fault Refusal :=
  .next (
    let d := s.dev
    let b := frameBody raw
    let k := d.mgKind b
    if !fcsGood raw || d.boot.halted then s
    else if d.on R.MG_CTRL_PROMISC && d.on R.MG_CTRL_EN || slice b 0 6 == Config.mgmtMac || byteAt b 0 % 2 == 1 then
      (match k with
      | .other => if d.on R.MG_CTRL_EN then s.mgDeliver b (d.rxStamp 16 tDet e pos) else s.onDev (fun d => d.count R.MG_RX_FILTERED)
      | .fragment => s
      | .sop =>
        let u := mgUpper b
        let o := ((mgIp b).map (fun x => x.2.2)).getD 0
        if d.objNat 0x1103 2 1 = 0 then s else s.onDev (fun d => d.sopIn (.mgmt (b.take (o + 8))) (slice u 8 (be16 u 4 - 8)))
      | _ => s.onDev (fun d => d.mgAnswer b k))
    else s.onDev (fun d => d.count R.MG_RX_FILTERED))

end Sys2Proof.Machine
end

