-- ==== Sys2Proof/Machine/Reload.lean ====
section
/-!
DEFINITION. Reapplication (R434): at an exit of a group from reset, and at cold reset, the dictionary engine writes each RWP object whose register
lies in the group, in ascending index and sub-index, while PW_RELOAD shows it.
-/
namespace Sys2Proof.Machine

/-- Insert a number into a rising list. -/
def insertNat (n : Nat) : List Nat → List Nat
  | [] => [n]
  | m :: l => if n < m then n :: m :: l else if n = m then m :: l else m :: insertNat n l

/-- Objects without a register, and those that a cold reset loads itself: the device's name, management, principals, calibration (R95), storage
objects (R302), the HBM layout (R38). -/
def noReload (idx : Nat) : Bool :=
  idx == 0x1004 || decide (0x1100 ≤ idx ∧ idx < 0x1200) || decide (0x3180 ≤ idx ∧ idx < 0x3191) || decide (0x4101 ≤ idx ∧ idx < 0x4104) ||
    idx == 0x6013 || idx == 0x6014 || idx == 0x7010 || idx == 0x7011

/-- The RWP objects of a group whose unit is present, ascending. -/
def Dev.reloadKeys (d : Dev) (g : Nat) : List Nat :=
  ((objTable.filter (fun r => r.acc == .rwp && r.grp == g && !noReload r.idx && (match r.unit with
    | some u => d.unit u
    | none => true))).flatMap ObjRow.keys).foldr insertNat []

/-- The Default of an object where it differs from its register's reset value: LG_MODE 4 (Table 2.12), FP_ENABLE 1 (Table 13.9). Every other
Default is the value that the register holds after the reset. -/
def reloadDefault (idx : Nat) : Option Bytes := if idx = 0x2000 then some [4#8] else if idx = 0x5005 then some [1#8] else none

/-- Write one object again, whole or by its items: the stored value, or the Default. -/
def State.reloadObj (s : State) (k : Nat) : State :=
  let idx := k / 4096
  let sub := k % 4096
  match s.dev.objFind idx sub with
  | .row r =>
    let t := if r.ty = .domain then
        (SMap.getD s.dev.mram.items k []).foldl (fun (t : State) x => (t.itemWrite r idx sub x.1 x.2).st) s
      else match (SMap.get? s.dev.mram.obj k).or (reloadDefault idx) with
        | some b => (s.objWrite r idx sub b).st
        | none => s
    t.onDev (fun d => d.raise objCls objSrc)
  | _ => s

/-- Reapply the objects of a group. What MRAM holds does not change. -/
def State.reload (s : State) (g : Nat) : State :=
  let t := (s.dev.reloadKeys g).foldl State.reloadObj s
  t.onDev (fun d =>
    let e := { d with mram := { d.mram with obj := s.dev.mram.obj, items := s.dev.mram.items, marks := s.dev.mram.marks }
                      rst := { d.rst with reload := d.rst.reload.filter (fun h => h != g) ++ [g] } }
    e.when (2 ≤ g) (fun e => e.wr R.PW_RELOAD (setBit (e.rd R.PW_RELOAD) (g - 2) true)))

/-- RELOAD_DONE (R434): PW_RELOAD clears for the group; the class 11 event. -/
def execReloadDone (g : Nat) (s : State) : Host.Outcome State Fault Refusal :=
  .next (s.onDev (fun d =>
    if !d.rst.reload.contains g then d
    else
      let l := d.rst.reload.filter (fun h => h != g)
      let e := { d with rst := { d.rst with reload := l, booting := d.rst.booting && l != [] } }
      (e.when (2 ≤ g) (fun e => e.wr R.PW_RELOAD (setBit (e.rd R.PW_RELOAD) (g - 2) false))).raise 11 (0x0010 + g)))

end Sys2Proof.Machine
end

