-- ==== Sys2Proof/Machine/Resets.lean ====
section
/-!
DEFINITION. Resets (R22-R28, R47, R120, R147, R196, R198, R273, R287, R312, R346, R388, R389, R403, R434, R456): a group enters reset with the
lacings that cross into it, and leaves it.
-/
namespace Sys2Proof.Machine

/-! ## Entering reset (R23, R24) -/

/-- Every lacing with an end in the group goes down: what it carries is discarded; a discarded event that crosses groups is counted. -/
def Dev.lacingsReset (d : Dev) (g : Nat) : Dev :=
  let e := { d with vlac := d.vlac.map (fun (x : Nat × Lacing) =>
    if islandGroup (x.1 / 64) = g ∨ islandGroup (x.1 % 64) = g then
      (x.1, { held := [], taken := if islandGroup (x.1 % 64) = g then [] else x.2.taken }) else x) }
  e.each ((e.regs.chans R.LC_STATUS_PENDING).filter (fun c => islandGroup (Config.lcSrc c) == g || islandGroup (Config.lcDst c) == g)) (fun x c =>
    (x.wr R.LC_STATUS_PENDING 0 c).when (islandGroup (Config.lcSrc c) != islandGroup (Config.lcDst c)) (fun y => y.countSat R.LC_LOST 1 c))

/-- The registers of a group return to their reset values (R35, Table 1.9). -/
def Dev.regsReset (d : Dev) (g : Nat) : Dev := { d with regs := d.regs.filter (fun x => blockGroup x.1.addr != g) }

/-- The per-requester state of a set of requesters is gone (Table 8.7), with the enclave slots they own (R403). -/
def Dev.requestersReset (d : Dev) (who : Nat → Bool) : Dev :=
  { d with regs := d.regs.filter (fun x => !(x.1.req != 0 && who (x.1.req - 1))), tb := { d.tb with incrLo := d.tb.incrLo.filter (fun x => !who x.1) } }.esFree who

/-- The power controller drops the group's save copies; its islands are in RUN when they leave reset (R420). -/
def Dev.islandsReset (d : Dev) (g : Nat) : Dev :=
  let e := d.each (islandCodes.filter (fun c => islandGroup c == g)) (fun x c => x.wr R.PI_STATUS_STATE 0 c)
  { e with pwr := { e.pwr with wakes := e.pwr.wakes.filter (fun c => islandGroup c != g), saved := e.pwr.saved.filter (fun c => islandGroup c != g) } }

/-- The controllers of a group (R13) stop: RELEASED clears (R389), their per-requester state goes. -/
def Dev.controllersReset (d : Dev) (g : Nat) : Dev :=
  let ks := (List.range 12).filter (fun k => svGroup k == g)
  (d.each ks (fun x k => x.wr R.SV_STATUS_RELEASED 0 k)).requestersReset (fun r => decide (4136 ≤ r ∧ r < 4148) && ks.contains (r - 4136))

/-- Registers keep their values over a reset of their group. -/
def Dev.keepRegs (old d : Dev) (l : List Field) : Dev := d.each l (fun x f => x.wr f (old.rd f))

/-- G1 (R399, R400, R403): services end, slots are free; what a cold reset alone clears stays. -/
def Dev.enclReset (d : Dev) : Dev :=
  let e := ((d.esFree (fun _ => true)).requestersReset (fun r => r == 4148)).regsReset 1
  (Dev.keepRegs d e [R.EN_STATUS_APPROVED, R.EN_STATUS_JTAG_OPEN, R.EN_STATUS_SEAL_FAULT, R.EN_ERR_ENTRIES]).setEncl (fun x => { x with
    order := [], testSlot := none, challenge := none })

/-- G2 (R198, chapter 9): rings, event queues, functions and NVMe controllers return to reset; both links go down. Reads of IRA stay outstanding. -/
def Dev.hostSideReset (d : Dev) : Dev :=
  let cs := (d.nvme.ctrls.filter (fun (k : Nat × NvCtrl) => decide (k.1 < 1024))).map (·.1)
  let e := ((d.each cs Dev.nvFnReset).requestersReset isFunc).regsReset 2
  let iraRead (r : HostRead) : Bool := match r.what with
    | .iraJob _ _ => true
    | .iraExec _ => true
    | _ => false
  { e with fnOut := [], host := { e.host with fns := [], rings := [], rx := [], timers := [], segs := [], retired := [], reads := e.host.reads.filter iraRead } }

/-- G3 (R47): every port goes to OFF, its frames are discarded; tables, queues, gates, keys and classification are empty. Frames on their way to
Stitch go. -/
def Dev.netReset (d : Dev) : Dev :=
  let e := d.each (List.range 16) (fun x p => x.linkTo p 0)
  let e := e.each (List.range 16) (fun x p => (x.portQueues p).foldl (Dev.flushQueue p) (x.flushLaunch p))
  let lost := (e.seq.way.map (·.len)).sum
  let r := e.rein
  let e := ({ e with ports := {}, rein := { wire := r.wire, done := r.done, nextId := r.nextId }, gates := [], police := [], sa := [], sc := [], tab := {}, cls := {} }.setSeq
    (fun q => { q with way := [], hold := q.hold - lost })).regsReset 3
  e.each (List.range 16) (fun x p => if x.rateCode p ≠ d.rateCode p then x.calChange p (x.calNow p) (d.calEff p) else x)

/-- G4: mailboxes and harts' state are free (R366, Table 8.7), MGNI stops (R376), no cluster is released (R388, R389). -/
def State.cpuReset (s : State) : State :=
  s.mgStop.onDev (fun d =>
    ((d.each (List.range 8) (fun x c => x.wr R.CLU_STATUS_RELEASED 0 c)).each [1, 2, 3, 4] Dev.mbFree).requestersReset isHart)

/-- G5 (R287). A power-fail sequence in progress is abandoned. -/
def Dev.storReset (d : Dev) : Dev :=
  let en := (d.regs.chans R.NC_INFO_EN).filter (fun c => d.on R.NC_INFO_EN c)
  let e := d.when (d.on R.NV_STATUS_PF_ACTIVE) (fun x => { x with mram := { x.mram with pfResult := 2 } })
  (e.regsReset 5).nvStorReset en (d.on R.NV_STATUS_MAP_DONE)

/-- G7 (R120, R312, Table 16.7): capture is empty, keys of CRYPT are gone, Hide has to rebuild. -/
def Dev.captSideReset (d : Dev) : Dev :=
  let e := (Dev.keepRegs d (d.regsReset 7) [R.HD_SEAL_CTR, R.HD_EPOCH, R.HD_BLOCK]).captReset
  ((e.setEncl (fun x => { x with keys := [], bulk := [] })).flag R.HD_STATUS_REBUILD).hideStatus

/-- What each group's reset does to its units. -/
def State.unitsReset (s : State) (g : Nat) : State :=
  if g = 1 then s.onDev Dev.enclReset
  else if g = 2 then s.onDev Dev.hostSideReset
  else if g = 3 then s.onDev Dev.netReset
  else if g = 4 then s.cpuReset
  else if g = 5 then s.onDev Dev.storReset
  else if g = 6 then s.onDev (fun d => { (d.regsReset 6).fabReset with ira := {} })
  else s.onDev (fun d => { d.captSideReset with rst := { d.rst with t0 := d.now16 } })

/-- Open transfers to objects of a group are abandoned (R359, rule 7). -/
def Dev.transfersReset (d : Dev) (g : Nat) : Dev :=
  d.setObj (fun o => { o with xfers := o.xfers.filter (fun x => match d.objFind x.idx x.sub with
    | .row r => r.grp != g
    | _ => true) })

/-- A group enters reset. -/
def State.groupDown (s : State) (g : Nat) : State :=
  let t := s.onDev (fun d =>
    let e := { d with rst := { d.rst with asked := SMap.del d.rst.asked g, active := d.rst.active ++ [g] } }
    ((e.transfersReset g).lacingsReset g).when (decide (2 ≤ g) && !(g == 2 && d.rst.perstA)) (fun x => x.wr R.GRP_RESET (setBit (x.rd R.GRP_RESET) (g - 2) true)))
  (t.unitsReset g).onDev (fun d => (d.controllersReset g).islandsReset g)

/-- GROUP_RESET_START (R24, R26): the reset asked for in an earlier tick begins. -/
def execGroupResetStart (g : Nat) (s : State) : Host.Outcome State Fault Refusal :=
  .next (match SMap.get? s.dev.rst.asked g with
    | some t => if t < s.dev.tk.etick then s.groupDown g else s
    | none => s)

/-! ## Leaving reset (R24, R28) -/

/-- The lacings between the group and every group out of reset come up. -/
def Dev.pairsUp (d : Dev) (g : Nat) : Dev :=
  let hs := (List.range 8).filter (fun h => !d.rst.active.contains h)
  { d with rst := { d.rst with ups := hs.foldl (fun (m : SMap Nat) h => SMap.upd m (8 * min g h + max g h) 0 (· + 1)) d.rst.ups } }

/-- TotalVFs, MSI-X sizes, doorbell pages and the split form take force; what FN_INFO shows of the PFs (R197, R202). -/
def Dev.hostExit (d : Dev) : Dev :=
  let want (i dflt : Nat) : List Nat := (List.range 8).map (fun k => if (k = 5 ∨ k = 6) ∧ !d.unit 2 then 0 else d.objNat i (k + 1) dflt)
  let e := d.setHost (fun h => { h with vfs := want 0x1202 0, pfMsix := want 0x1203 2048, vfMsix := want 0x1204 64, pfDb := want 0x1205 16, vfDb := want 0x1206 1 })
  ((e.wr R.PC_MODE (b2n (bit e.pins.straps 0))).wr R.FN_NUM e.fnNum).each (List.range 8) Dev.fnShow

/-- XTS keys are loaded from their records (R402). -/
def Dev.loadKeys (d : Dev) : Dev :=
  d.setEncl (fun x => { x with keys := (d.mram.keyRec.filter (fun e => e.1 / 65536 == 3)).map (fun e => (e.1 % 65536, e.2)) })

/-- What the exit of each group does before its objects are reapplied. -/
def Dev.exitBefore (d : Dev) (g : Nat) (cold : Bool) : Dev :=
  if g = 2 then d.hostExit.nvRegs
  else if g = 3 then d.bankLoad
  else if g = 4 then d.releaseCluster0.setHu (fun x => { x with since := if x.since.isNone && d.rd R.HU_STATE == 2 then some d.tk.etick else x.since })
  else if g = 5 then (d.loadKeys.nvStorExit cold)
  else if g = 7 then d.loadKeys
  else d

/-- What follows. -/
def Dev.exitAfter (d : Dev) (g : Nat) (cold : Bool) : Dev :=
  if g = 3 then d.formedSum.synce
  else if g = 6 then d.when (d.unit 1) Dev.fabExit
  else if g = 7 then d.when (!cold) (fun e => e.captExit e.rst.t0)
  else d

/-- A group is out of reset: REQ clears, DONE sets, lacings come up. -/
def Dev.groupUp (d : Dev) (g : Nat) : Dev :=
  let e := { d with rst := { d.rst with active := d.rst.active.filter (fun h => h != g) } }.pairsUp g
  e.when (2 ≤ g) (fun x => (x.wr R.GRP_RESET (setBit (x.rd R.GRP_RESET) (g - 2) false)).wr R.GRP_RESET_DONE (setBit (x.rd R.GRP_RESET_DONE) (g - 2) true))

/-- Do the pins hold G2 in reset (R198, R456). -/
def Dev.perstHeld (d : Dev) : Bool := if bit d.pins.straps 0 then d.rst.perstA && d.rst.perstB else d.rst.perstA

/-- GROUP_RESET_DONE (R28, R434): a group leaves reset, unless a thermal trip (R427), RESET_N or PERST_N holds it. -/
def execGroupResetDone (g : Nat) (s : State) : Host.Outcome State Fault Refusal :=
  .next (
    let d := s.dev
    if !d.rst.active.contains g || d.rst.tripHold || d.rst.resetNLow || (g == 2 && d.perstHeld) then s
    else ((s.onDev (fun d => (d.groupUp g).exitBefore g false)).reload g).onDev (fun d => d.exitAfter g false))

/-! ## PERST_N (R198, R456) -/

/-- PERST_ASSERT (R456): 100 ns low on PERST_N (link 0) or PERSTB_N (link 1) resets G2 at the next tick boundary, in split form once both are low; one
alone takes its own link down. -/
def execPerstAssert (link : Nat) (s : State) : Host.Outcome State Fault Refusal :=
  .next (s.onDev (fun d =>
    if d.rst.resetNLow then d
    else
      let split := bit d.pins.straps 0
      let e := { d with rst := if link = 0 then { d.rst with perstA := true } else { d.rst with perstB := true } }
      if e.perstHeld && (link == 0 || split) then e.askReset 2
      else if split && !e.hostReset then e.linkDrop link
      else e))

/-- PERST_DEASSERT (R456): 100 ns high; G2 may leave reset. -/
def execPerstDeassert (link : Nat) (s : State) : Host.Outcome State Fault Refusal :=
  .next (s.onDev (fun d => if d.rst.resetNLow then d else { d with rst := if link = 0 then { d.rst with perstA := false } else { d.rst with perstB := false } }))

end Sys2Proof.Machine
end

