-- ==== Sys2Proof/Machine/ColdReset.lean ====
section
/-!
DEFINITION. Cold reset (R34, R38, R85, R95, R357, R363, R370, R381-R385, R427, R434, R444, R449, R452): every group is reset; what MRAM, the
fuses and the flash hold stays; straps are sampled and the enclave boots the device.
-/
namespace Sys2Proof.Machine

/-- MRAM over a cold reset: marked objects lose their values (R370), a power-fail sequence in progress is abandoned (R452), the rails that have left
tolerance stand until the next one (Table 18.11). -/
def Dev.mramCold (d : Dev) : Mram :=
  let m := d.mram
  { m with obj := m.obj.filter (fun x => !m.marks.contains x.1), items := m.items.filter (fun x => !m.marks.contains x.1), marks := [], tripped := false,
           railFaults := d.pwr.rails, pfResult := if d.on R.NV_STATUS_PF_ACTIVE then 2 else m.pfResult }

/-- The device at the start of a cold reset: everything but MRAM, flash, pins and what is fused is at its reset value; HBM's contents are lost
(R38); every group is in reset. -/
def State.coldDown (s : State) (cause : Nat) : State :=
  let d := s.dev
  let m := d.mramCold
  let e : Dev := { rst := { active := [1, 2, 3, 4, 5, 6, 7], perstA := d.rst.perstA, perstB := d.rst.perstB, resetNLow := d.rst.resetNLow }
                   pins := { straps := d.pins.straps, fuseOk := d.pins.fuseOk, refLost := d.pins.refLost }, flash := d.flash, mram := m, fv := d.fv
                   encl := { ctr := m.ceil } }
  { s with hbm := [], dev := ((e.wr R.ID_PART_SKU (d.rd R.ID_PART_SKU)).wr R.UNIT_PRESENT (d.rd R.UNIT_PRESENT)).wr R.COLD_CAUSE (if d.mram.tripped then 2 else cause) }

/-- A value whose check fails at load is replaced by its Default: PERSIST_STATUS bit 0 sets, a corrected error is logged (R357). -/
def Dev.dropBad (d : Dev) (k : Nat) : Dev :=
  if SMap.has d.mram.obj k || SMap.has d.mram.items k then
    ({ d with mram := { d.mram with obj := SMap.del d.mram.obj k, items := SMap.del d.mram.items k }, rst := { d.rst with defaulted := true } }).err
      (srcNum 0 4) 8 k
  else d

/-- What a cold reset loads before the boot runs: the layout, the PLL's source, the user calibration, the MGMT rate; straps (R38, R85, R444). -/
def Dev.coldLoad (d : Dev) (v : BootEnv) : Dev :=
  let d := d.each v.badObjs Dev.dropBad
  let e := { d with pins := { d.pins with straps := v.straps, refLost := d.pins.refLost && !v.pll }, mram := { d.mram with down := d.mram.down && !v.mram }
                    rst := { d.rst with resetNLow := false }, hbmc := { journal := d.objNat 0x6013 0 1, capture := d.objNat 0x6014 0 2 }
                    tb := { d.tb with pllSrc := d.objNat 0x300E 0 0 }, cal := { d.cal with mgmtRate := 9 + d.objNat 0x1100 1 0 } }
  let e := e.wr R.BT_STATUS_RECOVERY_EN (b2n (bit v.straps 1))
  e.each (List.range 17) (fun x p => (((x.wr R.CAL_CABLE (x.objNat (0x3180 + p) 1 0) p).wr R.CAL_ASYM (x.objNat (0x3180 + p) 2 0) p).wr R.CAL_TX_CORR
    (x.objNat (0x3180 + p) 3 0) p).wr R.CAL_RX_CORR (x.objNat (0x3180 + p) 4 0) p)

/-- Reapplication at cold reset, alongside the main image (R434); the calibration is in force at once (R87). -/
def State.coldReload (s : State) : State :=
  let gs := (List.range 8).filter (fun g => !s.dev.rst.active.contains g)
  (gs.foldl State.reload s).onDev (fun d =>
    let e := d.each gs (fun x g => x.exitAfter g true)
    { e with cal := { e.cal with eff := [], due := [] }, rst := { e.rst with booting := true } }.calDigest)

/-- The end of a cold reset: groups leave reset, but G2 while PERST_N holds it; the enclave boots (Table 15.3). -/
def State.coldUp (s : State) (v : BootEnv) : State :=
  let t := s.onDev (fun d =>
    let e := d.coldLoad v
    let up := [1, 2, 3, 4, 5, 6, 7].filter (fun g => !(g == 2 && e.perstHeld))
    { e with rst := { e.rst with active := e.rst.active.filter (fun g => !up.contains g) } }.each up (fun x g => x.exitBefore g true))
  let b := t.bootRun v
  if b.dev.boot.halted then b else b.coldReload

/-- COLD_RESET (R381): one that is due, with its cause (Table 1.5), or a power-on, cause 0. -/
def execColdReset (env : BootEnv) (s : State) : Host.Outcome State Fault Refusal :=
  .next (if s.dev.rst.resetNLow then s else (s.coldDown (s.dev.rst.cold.getD 0)).coldUp env)

/-- RESET_N_ASSERT (R452): low for 10 µs. The device is in cold reset until the pin rises; `powerLost`: VDD_AON fell below its threshold (R449). -/
def execResetNAssert (powerLost : Bool) (s : State) : Host.Outcome State Fault Refusal :=
  .next (if s.dev.rst.resetNLow then s
    else (s.coldDown (if powerLost then 0 else 1)).onDev (fun d => { d with rst := { d.rst with resetNLow := true } }))

/-- RESET_N_DEASSERT (R444, R449, R452): with every rail in tolerance the pin rises; `perst` holds the levels of PERST_N (bit 0 asserted) and
PERSTB_N (bit 1). -/
def execResetNDeassert (env : BootEnv) (perst : Nat) (s : State) : Host.Outcome State Fault Refusal :=
  .next (if !s.dev.rst.resetNLow then s
    else (s.onDev (fun d => { d with pins := { d.pins with fuseOk := true }, rst := { d.rst with perstA := bit perst 0, perstB := bit perst 1 } })).coldUp env)

/-- RECOVERY_BUNDLE_CHECKED (R385): the bundle as the enclave read it from the host, the outcomes of HBM training, of the MRAM test
and of the programming of slot B. -/
def execRecoveryBundleChecked (bundle : Bytes) (hbm mram programOk : Bool) (s : State) : Host.Outcome State Fault Refusal :=
  if s.dev.recovery && s.dev.on R.RC_STATUS_BUSY then
    let b := slice bundle 0 (s.dev.rd R.RC_LEN)
    let s0 := s.onDev (fun d => d.wr R.RC_STATUS_BUSY 0)
    match s0.tryBundle b b.length hbm mram with
    | .refused n s' => .next (s'.onDev (fun d => (d.wr R.RC_STATUS_LAST_FAIL (slotResult n)).bootErr 0xD))
    | .halt code s' => .next (s'.onDev (fun d => d.bootHalt code))
    | .boots s' => .next ((s'.onDev (fun d => (d.programB b programOk).startMain 2)).coldReload)
  else .next s

end Sys2Proof.Machine
end

