-- ==== Sys2Proof/Machine/Registers.lean ====
section
/-!
DEFINITION. Chapter 8, register accesses (R3, R8-R10, R204-R210, R457): a write of a word, a read of a word with what it changes, and the
accesses of BAR0. A field whose behaviour has a command of its own is left to that command (log entry 7).
-/
namespace Sys2Proof.Machine

/-! ## Fields with a command of their own -/

/-- Fields that a write leaves to their own commands, chapters 1 to 7. -/
def ownRowsA : List Field :=
  [R.GRP_RESET, R.RSTC_LOCK, R.LG_MODE, R.PT_CTRL_ENABLE, R.PT_CNT_SNAP, R.TB_CMD, R.TB_CTRL_SERVO_EN, R.TB_CTRL_SRC, R.TB_CTRL_L1_SYNT,
   R.TB_SW_OFFSET_HI_OFF_HI, R.TB_SW_OFFSET_HI_GEN, R.CAL_CABLE, R.CAL_ASYM, R.CAL_TX_CORR, R.CAL_RX_CORR, R.TT_CTRL, R.SQ_CMD, R.CL_BANK_SWAP,
   R.CL_BANK_COPY, R.CL_OP, R.CB3_MIRROR_QUEUE, R.CB3_LPM_WIN, R.CB3_LPM_V6, R.EM_GEOM_BASE, R.EM_GEOM_EN, R.EM_GEOM_LOG2_BUCKETS, R.EM_GEOM_WIDTH,
   R.EM_SEED, R.AW_CTRL_VALID, R.AW_CTRL_ANCHORED, R.AW_CTRL_LEN, R.AW_CTRL_SET, R.AW_CTRL_OFFSET, R.FT_OP, R.FT_SEED, R.MT_SEED, R.LPM_DATA_HI,
   R.LPM_FENCE, R.GT_CTRL_CHANGE]

/-- The same, chapters 8 to 17. -/
def ownRowsB : List Field :=
  [R.FN_RING_BASE, R.FN_RING_COUNT, R.FN_EQ_BASE, R.FN_EQ_COUNT, R.FN_QP_BASE, R.FN_QP_COUNT, R.RG_CTRL_ENABLE, R.RG_CTRL_INVAL, R.EQ_CTRL_ENABLE,
   R.EQ_CI, R.IQ_CTRL_ENABLE, R.IQ_CTRL_FORCE_ERR, R.IQ_CTRL_PIN, R.IQ_DB_HI, R.MR_OP, R.CP_BANK_SWAP, R.CP_BANK_CLEAR, R.SK_QUERY, R.RT_ENTRY_MASK,
   R.MB_CTRL_CLAIM, R.MB_CTRL_RELEASE, R.MG_TX_DB, R.MG_RX_DB, R.MG_CTRL_EN, R.BT_CTRL, R.RC_CTRL_GO, R.CLU_CTRL, R.SV_CTRL, R.ES_CTRL_CLAIM,
   R.ES_CTRL_RELEASE, R.HU_CTRL_SWITCH, R.HU_CTRL_COMMIT, R.HU_CTRL_ROLLBACK, R.PI_OPP_OPP]

/-- Is a write of a value to a field left to a command, or kept out by who writes it: FN_CTRL is for PF0 and the cores (Table 8.9), a slot's and a
mailbox's buffer, and its target, for the owner, while BUSY is 0 (R365, R366, R403). -/
def Dev.notHere (d : Dev) (req : Nat) (a : Assign) : Bool :=
  ownRowsA.contains a.f || ownRowsB.contains a.f ||
    (if a.f == R.FP_CTRL then a.v == 1
     else if a.f == R.CS_CTRL_EN then a.v == 0 && d.on R.CS_CTRL_EN a.c
     else if a.f == R.FN_CTRL then a.v == 1 || !(req == 0 || isHart req)
     else if a.f == R.MB_BUF then d.on R.MB_STATUS_BUSY a.c || !d.ownsMailbox req a.c
     else if a.f == R.MB_TARGET then d.on R.MB_STATUS_BUSY a.c || !d.ownsMailbox req a.c
     else if a.f == R.ES_BUF then d.on R.ES_STATUS_BUSY a.c || !d.ownsSlot req a.c
     else false)

/-! ## Writes -/

/-- The value of a field after word `w` of it is written: the other words stand. -/
def Dev.merged (d : Dev) (req : Nat) (f : Field) (c i w value : Nat) : Nat :=
  let old := d.rd f c i req <<< f.lo
  ((old - (bits old (32 * w + 31) (32 * w)) <<< (32 * w) + value <<< (32 * w)) >>> f.lo) % 2 ^ f.width

/-- The assignments that a write of a word makes to its read-write fields. -/
def Dev.wordSets (d : Dev) (req : Nat) (t : Target) (value : Nat) : List Assign :=
  ((t.fields.filter (fun p => p.1.ty == .rw || p.1.ty == .rwl)).map
    (fun p => ({ f := p.1, c := t.ch p.1, i := p.2.1, v := d.merged req p.1 (t.ch p.1) p.2.1 p.2.2 value } : Assign))).filter
      (fun a => a.f != R.TB_INCR && !d.notHere req a)

/-- Assignments as class 9 writes of the present tick (R31, R33, R210): one that a later write of the tick has set already is dropped. -/
def Dev.regWrite (d : Dev) (req : Nat) (l : List Assign) : Dev :=
  let rank := wrRank 9 (srcNum (reqIsland req) 0)
  let live := l.filter (fun (a : Assign) => decide ((lastRank d.tk.wrote (a.f.key a.c a.i req)).getD 0 ≤ rank))
  let stops := live.map (d.regStop req live)
  let took := if stops.any (fun x => (x.map (·.whole)).getD false) then [] else live.filter (fun a => (d.regStop req live a).isNone)
  let e := d.regAssign req live
  { e with tk := { e.tk with wrote := took.map (fun (a : Assign) => (a.f.key a.c a.i req, rank)) ++ e.tk.wrote } }

/-- A write-1-to-clear field. -/
def Dev.w1c (d : Dev) (req : Nat) (t : Target) (value : Nat) (p : Field × Nat × Nat) : Dev :=
  let old := d.rd p.1 (t.ch p.1) p.2.1 req
  if p.1.ty = .w1c then d.wr p.1 (old - (old &&& (value <<< (32 * p.2.2)) >>> p.1.lo)) (t.ch p.1) p.2.1 req else d

/-- The low words that a requester stages for a command: TB_SW_OFFSET_LO, IQ_DB_LO, TB_INCR (R71, R76, R251). -/
def Dev.stage (d : Dev) (req : Nat) (t : Target) (value : Nat) (p : Field × Nat × Nat) : Dev :=
  if p.1 == R.TB_SW_OFFSET_LO || p.1 == R.IQ_DB_LO_QP || p.1 == R.IQ_DB_LO_QUEUE then
    d.wr p.1 (value >>> p.1.lo) (t.ch p.1) p.2.1 req
  else if p.1 == R.TB_INCR && p.2.2 == 0 then d.setTb (fun b => { b with incrLo := SMap.put b.incrLo req value })
  else d

/-- ES_CTRL.GO (R403, R405): the owner's slot sets BUSY; its request waits in the order of GO writes, or ends with 0x0602 in ERROR (R399). -/
def State.esGo (s : State) (req k : Nat) : State :=
  let d := s.dev
  if !d.ownsSlot req k || d.on R.ES_STATUS_BUSY k || d.inReset 0x1B then s
  else
    let e := d.flag R.ES_STATUS_BUSY k
    if d.rd R.EN_STATUS_STATE = 2 ∨ d.encl.inhibit then s.onDev (fun _ => e.esAnswer k (le16 (e.esBuf k) 0) 0x0602 0 [])
    else State.esUnknown 8 (s.onDev (fun _ => e.setEncl (fun x => { x with order := x.order ++ [k] })))

/-- What a write does beyond its fields' values: FP_CTRL takes a port out of service, GO starts a request. -/
def State.strobe (s : State) (req : Nat) (t : Target) (value : Nat) (p : Field × Nat × Nat) : State :=
  if p.1 == R.FP_CTRL && !bit value p.1.lo then s.onDev (fun d => d.fabPortCtl t.c)
  else if p.1 == R.MB_CTRL_GO && bit value p.1.lo then s.onDev (fun d => d.mailboxGo req t.c)
  else if p.1 == R.ES_CTRL_GO && bit value p.1.lo then s.esGo req t.c
  else s

/-- A write of a word to a register that the requester reaches. -/
def State.writeTarget (s : State) (req : Nat) (t : Target) (value : Nat) : State :=
  let s1 := s.onDev (fun d =>
    let e := (d.sampleWrite req value).regWrite req (d.wordSets req t value)
    (e.each t.fields (fun x p => x.w1c req t value p)).each t.fields (fun x p => x.stage req t value p))
  t.fields.foldl (fun x p => x.strobe req t value p) s1

/-! ## NVMe controller registers (R275; NVMe 2.0) -/

/-- A register word of an NVMe controller. -/
def Dev.nvRegRead (d : Dev) (c off : Nat) : Nat :=
  let x := d.nv c
  if off = 0x00 then 0xFFFF + 2 ^ 16 + 0x14 * 2 ^ 24
  else if off = 0x04 then 2 ^ 5 + 4 * 2 ^ 20
  else if off = 0x08 then 0x00020000
  else if off = 0x0C ∨ off = 0x10 then x.intm
  else if off = 0x14 then x.cc
  else if off = 0x1C then d.rd R.NC_INFO_RDY c + 2 * d.rd R.NC_INFO_CFS c + 4 * d.rd R.NC_INFO_SHST c
  else if off = 0x24 then x.aqa
  else if off = 0x28 then x.asq % 2 ^ 32
  else if off = 0x2C then x.asq >>> 32
  else if off = 0x30 then x.acq % 2 ^ 32
  else if off = 0x34 then x.acq >>> 32
  else 0

/-- A write of one: the mask, CC while EN stays 0, the Admin queues' registers while EN is 0. Setting or clearing EN, SHN and doorbells are
commands of their own. -/
def Dev.nvRegWrite (d : Dev) (c off v : Nat) : Dev :=
  if off = 0x0C then d.setNvc c (fun x => { x with intm := x.intm ||| v })
  else if off = 0x10 then d.setNvc c (fun x => { x with intm := x.intm - (x.intm &&& v) })
  else if d.on R.NC_INFO_EN c then d
  else if off = 0x14 then (if v % 2 = 0 then d.setNvc c (fun x => { x with cc := v }) else d)
  else if off = 0x24 then d.setNvc c (fun x => { x with aqa := v })
  else if off = 0x28 then d.setNvc c (fun x => { x with asq := x.asq / 2 ^ 32 * 2 ^ 32 + v / 4096 * 4096 })
  else if off = 0x2C then d.setNvc c (fun x => { x with asq := x.asq % 2 ^ 32 + v * 2 ^ 32 })
  else if off = 0x30 then d.setNvc c (fun x => { x with acq := x.acq / 2 ^ 32 * 2 ^ 32 + v / 4096 * 4096 })
  else if off = 0x34 then d.setNvc c (fun x => { x with acq := x.acq % 2 ^ 32 + v * 2 ^ 32 })
  else d

/-! ## Access paths -/

/-- Does the recovery window alone answer a requester: the boot has halted (R383, R385). -/
def Dev.recoveryPath (d : Dev) (req : Nat) : Bool := isFunc req && d.boot.halted

/-- The register of the recovery window at an address (Table 15.6). -/
def Dev.recoveryTarget (d : Dev) (req addr : Nat) : Option Target :=
  if d.recovery && req == 0 && decide (0x10000000 ≤ addr ∧ addr < 0x10000020) then some { addr := addr, chan := .global, c := 0 } else none

/-- Is an access to a controller window of an NVMe function that answers. -/
def Dev.nvWindow (d : Dev) (req : Nat) : Bool := isFunc req && d.fnType req == 2 && d.storOn && d.inService req

/-- CHSEL takes a channel for the requester (R208). -/
def Dev.chselWrite (d : Dev) (req base value : Nat) : Dev := (d.sampleWrite req value).wr (chselField base) value 0 0 req

/-- A write of a word by a requester (R3, R10, R205, R209, R457). -/
def State.writeWord (s : State) (req addr value : Nat) : State :=
  let d := s.dev
  if d.recoveryPath req then
    (match d.recoveryTarget req addr with
     | some t => s.writeTarget req t value
     | none => s)
  else if d.nvWindow req then s.onDev (fun d => d.nvRegWrite (d.nvOf req) addr value)
  else if (windowOff req addr).isNone && (d.absentBlock (addr >>> 20) || d.rst.active.contains (blockGroup addr)) then s
  else if (windowOff req addr).isNone && isChsel addr then s.onDev (fun d => d.chselWrite req addr value)
  else
    match d.target req addr with
    | none => s
    | some t =>
      if t.ro || d.rst.active.contains (blockGroup t.addr) then s
      else if isChsel t.addr then s.onDev (fun d => d.chselWrite req t.addr value)
      else if t.addr >>> 20 = 0x0E1 ∧ ¬ isHart req then s.onDev Dev.mgRefused
      else s.writeTarget req t value

/-- REGISTER_WRITE (R457, R8, R10): a 4-byte write. -/
def execRegisterWrite (req addr value : Nat) (s : State) : Host.Outcome State Fault Refusal := .next (s.writeWord req addr value)

/-! ## Reads that act -/

/-- What a read changes before its value is taken: TB_NOW0 and TS_HEAD0 latch (R70, R94). -/
def Dev.readBefore (d : Dev) (req : Nat) (t : Target) : Dev :=
  d.each t.fields (fun e p => if p.1 == R.TB_NOW0 then e.tbNowLatch req 0 else if p.1 == R.TS_HEAD0 then e.tsPop req t.c else e)

/-- What it changes after: RC fields clear, keeping the events that land in the read (R9); the low word of a 64-bit counter, ETICK_LO and
LPM_DATA_LO latch their high words for the requester (R29, R64, R173). -/
def State.readAfter (s : State) (req landed : Nat) (t : Target) : Dev :=
  s.dev.each t.fields (fun e p =>
    let f := p.1
    let c := t.ch f
    if f.ty = .rc then e.wr f (min landed (2 ^ f.width - 1)) c p.2.1
    else if f == R.ETICK_LO then e.wr R.ETICK_HI (e.tk.etick / 2 ^ 32) 0 0 req
    else if f == R.LPM_DATA_LO then e.wr R.LPM_DATA_HI (e.lpmWord c (e.rd R.LPM_IDX c 0 req) >>> 32) c 0 req
    else if f.width = 64 ∧ f.ty = .ro ∧ p.2.2 = 0 then { e with regs := RegFile.put e.regs (latchKey f c p.2.1 req) (s.view req f c p.2.1 >>> 32) }
    else e)

/-- A 4-byte read by a requester: the word it returns, and the state after it. -/
def State.busRead (s : State) (req addr landed : Nat) : Nat × State :=
  let d := s.dev
  if d.recoveryPath req then
    (match d.recoveryTarget req addr with
     | some t => (s.wordAt req t, s)
     | none => (0, s))
  else if d.nvWindow req then (d.nvRegRead (d.nvOf req) addr, s)
  else if windowOff req addr = some 0x18 ∧ d.fnType req ≠ 2 then
    let s1 := s.onDev (fun d => d.tbNowLatch req 0)
    (s1.readWord req addr, s1)
  else
    match d.target req addr with
    | none => (s.readWord req addr, s)
    | some t =>
      let s1 := s.onDev (fun d => d.readBefore req t)
      (s1.readWord req addr, { s1 with dev := s1.readAfter req landed t })

/-- The read as a command: the word goes to the model's read register. -/
def State.readInto (s : State) (req addr landed : Nat) : State :=
  let r := s.busRead req addr landed
  r.2.onDev (fun d => d.ret r.1)

/-- COUNTER_LOW_READ (R64): reading the low word of a 64-bit counter returns it and latches the high word for the same requester. -/
def execCounterLowRead (req addr : Nat) (s : State) : Host.Outcome State Fault Refusal := .next (s.readInto req addr 0)

/-- RC_READ (R9): the read returns the word's value, its RC fields clear, and the `landed` events of the same read are kept. -/
def execRcRead (req addr landed : Nat) (s : State) : Host.Outcome State Fault Refusal := .next (s.readInto req addr landed)

/-- ETICK_LO_READ (R29, Table 1.3): the low word is returned and the high word latched for the same requester. -/
def execEtickLoRead (req : Nat) (s : State) : Host.Outcome State Fault Refusal :=
  .next (s.onDev (fun d => (d.wr R.ETICK_HI (d.tk.etick / 2 ^ 32) 0 0 req).ret (d.tk.etick % 2 ^ 32)))

/-! ## BAR0 (R204) -/

/-- An access of another size or alignment: a function's is counted by its link's PC_CA; a read returns no data, a write is discarded. -/
def Dev.badAccess (d : Dev) (req : Nat) : Dev :=
  { d.when (isFunc req && !d.boot.halted) (fun e => e.count R.PC_CA 1 (e.fnLink req)) with rdata := 0, rpoison := true }

/-- BAR0_ACCESS (R204): 4 or 8 bytes, naturally aligned; 8 bytes are two 4-byte accesses, the lower address first. -/
def execBar0Access (req addr len : Nat) (write : Bool) (value : Nat) (s : State) : Host.Outcome State Fault Refusal :=
  .next (
    if ¬(len = 4 ∨ len = 8) ∨ addr % len ≠ 0 then s.onDev (fun d => d.badAccess req)
    else if write then
      (if len = 4 then s.writeWord req addr (value % 2 ^ 32) else (s.writeWord req addr (value % 2 ^ 32)).writeWord req (addr + 4) (value / 2 ^ 32))
    else
      let lo := s.busRead req addr 0
      if len = 4 then lo.2.onDev (fun d => { d with rdata := lo.1, rpoison := false })
      else
        let hi := lo.2.busRead req (addr + 4) 0
        hi.2.onDev (fun d => { d with rdata := lo.1 + hi.1 * 2 ^ 32, rpoison := false }))

end Sys2Proof.Machine
end

