-- ==== Sys2Proof/Machine/Tick.lean ====
section
/-!
DEFINITION. The event tick (R29-R33): a tick's events enter the ordered log, the time base advances, the next tick begins with the actions
that wait for its boundary (R26, R71, R105, R145, R314, R389, R458), and the engines that work at every tick do so.
-/
namespace Sys2Proof.Machine

/-! ## The order of a tick (R31) -/

/-- Does an event of a class and source come before another. -/
def rankLt (a b : Nat × Nat) : Bool := decide (a.1 < b.1 ∨ (a.1 = b.1 ∧ a.2 < b.2))

/-- Put an element behind every one of the same or a lower rank. -/
def insertRank {α : Type} (rank : α → Nat × Nat) (x : α) : List α → List α
  | [] => [x]
  | y :: l => if rankLt (rank x) (rank y) then x :: y :: l else y :: insertRank rank x l

/-- A list in the order of class and source; equal ranks keep their order of arrival. -/
def byRank {α : Type} (rank : α → Nat × Nat) (l : List α) : List α := l.foldl (fun m x => insertRank rank x m) []

/-- The events that a tick has taken, as they enter the log. -/
def Dev.tickEvents (d : Dev) : List (Nat × Ev) := (byRank (fun (e : Ev) => (e.cls, e.src)) d.tk.sampled).map (fun e => (d.tk.etick, e))

/-! ## Actions at a boundary -/

/-- Does a group's reset begin at this boundary, or hold already: an action on it is gone. -/
def Dev.groupGone (d : Dev) (g : Nat) : Bool := SMap.has d.rst.asked g || d.rst.active.contains g

/-- An action took place: an object request's response leaves (R458). -/
def Dev.acted (d : Dev) (b : Bnd) : Dev := if b.cls = 10 then d.objWaitEnd 0 [] else d

/-- An action was refused: an object request ends with a status and data; on the register path the refusal's marks are set. -/
def Dev.actRefused (d : Dev) (b : Bnd) (status : Nat) (data : Bytes) (mark : Dev → Dev) : Dev := if b.cls = 10 then d.objWaitEnd status data else mark d

/-- The sequencer's state as the data of a refusal. -/
def Dev.seqStateByte (d : Dev) : Bytes := leBytes 1 (d.rd R.SQ_STATUS_STATE)

/-- One action. -/
def Dev.boundaryAct (d : Dev) (b : Bnd) : Dev :=
  match b.act with
  | .timeSet sec sub a =>
    if b.cls = 10 ∧ secUnit ≤ sub then d.objWaitEnd 0x0302 []
    else if d.stepBlocked a then d.actRefused b 0x0401 d.seqStateByte (fun e => e.actSet sec sub a)
    else (d.actSet sec sub a).acted b
  | .timeStep off a =>
    if d.stepBlocked a then d.actRefused b 0x0401 d.seqStateByte (fun e => e.actStep off a) else (d.actStep off a).acted b
  | .slew off => d.actSlew off
  | .holdover => d.actHoldover
  | .clearInteg => d.actClearInteg
  | .classSwap => if d.groupGone 3 then d.actRefused b 0x0402 [] id else d.bankSwitch.acted b
  | .captSwap => if d.groupGone 7 then d.actRefused b 0x0402 [] id else d.captSwitch.acted b
  | .seqStart => if d.startCause ≠ 0 then d.actRefused b 0x0401 d.seqStateByte Dev.seqStart else d.seqStart.acted b
  | .seqStop => if d.rd R.SQ_STATUS_STATE = 0 then d.actRefused b 0x0401 d.seqStateByte Dev.seqStop else d.seqStop.acted b
  | .clRelease c => if d.groupGone 4 then d else d.clRelease c
  | .svRelease k => d.svRelease k

/-! ## The tick -/

/-- A tick ends: its events enter the log in order, snapshots due in it are taken, the time base advances by 8 TIME cycles, ETICK counts, and the
next tick has taken nothing yet. -/
def Dev.tickOver (d : Dev) : Dev :=
  let e := d.nvSnap
  let e := e.setTb (fun b => b.cycles (e.rd R.TB_INCR) (e.rd R.TB_SLEW_MAX) 8)
  { e with tk := { e.tk with etick := e.tk.etick + 1, log := e.tk.log ++ e.tickEvents, sampled := [], wrote := [], acts := [] } }

/-- The next tick begins: the actions of its boundary, in order; what a step of the counter does (R74, R423); calibration that takes force (R87). -/
def Dev.tickBegin (d : Dev) (acts : List Bnd) : Dev :=
  let e := d.each (byRank (fun (b : Bnd) => (b.cls, b.src)) acts) Dev.boundaryAct
  (e.when (!e.tb.jumps.isEmpty) (fun x => x.afterSteps.stepWakes)).calDue

/-- The engines that work at every tick: receivers that run take the events of their lacings (R20), the sequencer, the error log, transmit jobs and queue pairs that wait, the fabric, storage, drains,
responses that wait, residency. -/
def Dev.tickWork (d : Dev) : Dev :=
  let e := d.takeEvents (fun i => !d.stopped i)
  let e := e.seqTick.drainLog.heldRetry.fabStitch.fabDrain.iraRetry.nvIra
  let e := e.each (e.nvme.ctrls.map (·.1)) Dev.nvShut
  e.hideDrain.objWaitPoll.residency

/-- EVENT_TICK (R29, R31). -/
def execEventTick (s : State) : Host.Outcome State Fault Refusal :=
  .next (s.onDev (fun d => (d.tickOver.tickBegin d.tk.acts).tickWork))

end Sys2Proof.Machine
end

