-- ==== Sys2Proof/Machine/Dispatch.lean ====
section
/-!
DEFINITION. The meaning of each command, one arm for each constructor.
-/
namespace Sys2Proof.Machine

def exec (i : Instr) (s : State) : Host.Outcome State Fault Refusal :=
  match i with
  | .registerWrite req addr value => Sys2Proof.Machine.execRegisterWrite req addr value s
  | .counterLowRead req addr => Sys2Proof.Machine.execCounterLowRead req addr s
  | .rcRead req addr landed => Sys2Proof.Machine.execRcRead req addr landed s
  | .etickLoRead req => Sys2Proof.Machine.execEtickLoRead req s
  | .eventTick => Sys2Proof.Machine.execEventTick s
  | .valueLacingTransfer src dst value => Sys2Proof.Machine.execValueLacingTransfer src dst value s
  | .eventLacingOccurrence ch => Sys2Proof.Machine.execEventLacingOccurrence ch s
  | .grpResetRequest req value => Sys2Proof.Machine.execGrpResetRequest req value s
  | .rstcLock req => Sys2Proof.Machine.execRstcLock req s
  | .groupResetStart g => Sys2Proof.Machine.execGroupResetStart g s
  | .groupResetDone g => Sys2Proof.Machine.execGroupResetDone g s
  | .perstAssert link => Sys2Proof.Machine.execPerstAssert link s
  | .perstDeassert link => Sys2Proof.Machine.execPerstDeassert link s
  | .hbmAccess island addr write len data ecc => Sys2Proof.Machine.execHbmAccess island addr write len data ecc s
  | .hbmScrub addr ecc => Sys2Proof.Machine.execHbmScrub addr ecc s
  | .hbmLayoutRevert => Sys2Proof.Machine.execHbmLayoutRevert s
  | .lgModeWrite req g mode => Sys2Proof.Machine.execLgModeWrite req g mode s
  | .portEnable req p => Sys2Proof.Machine.execPortEnable req p s
  | .portDisable req p rxBusy => Sys2Proof.Machine.execPortDisable req p rxBusy s
  | .linkSignalLock p eye => Sys2Proof.Machine.execLinkSignalLock p eye s
  | .linkTrainDone p pre main post => Sys2Proof.Machine.execLinkTrainDone p pre main post s
  | .linkTrainFail p => Sys2Proof.Machine.execLinkTrainFail p s
  | .linkTrainTimeout p => Sys2Proof.Machine.execLinkTrainTimeout p s
  | .linkAlignLock p => Sys2Proof.Machine.execLinkAlignLock p s
  | .linkFault p remote rxBusy => Sys2Proof.Machine.execLinkFault p remote rxBusy s
  | .linkFaultClear p => Sys2Proof.Machine.execLinkFaultClear p s
  | .linkLockLoss p hiBer rxBusy => Sys2Proof.Machine.execLinkLockLoss p hiBer rxBusy s
  | .linkSignalLoss p lane sig rxBusy => Sys2Proof.Machine.execLinkSignalLoss p lane sig rxBusy s
  | .frameReceive p raw tDet e pos overflow off tEmit te tv => Sys2Proof.Machine.execFrameReceive p raw tDet e pos overflow off tEmit te tv s
  | .macControlFrame p pfc classes quanta => Sys2Proof.Machine.execMacControlFrame p pfc classes quanta s
  | .pfcPauseExpire p c => Sys2Proof.Machine.execPfcPauseExpire p c s
  | .pfcXoff p c occ => Sys2Proof.Machine.execPfcXoff p c occ s
  | .pfcRepeat p c occ => Sys2Proof.Machine.execPfcRepeat p c occ s
  | .pfcXon p c occ => Sys2Proof.Machine.execPfcXon p c occ s
  | .snap req p => Sys2Proof.Machine.execSnap req p s
  | .tbNowRead req cycle => Sys2Proof.Machine.execTbNowRead req cycle s
  | .set req => Sys2Proof.Machine.execSet req s
  | .step req => Sys2Proof.Machine.execStep req s
  | .slew req => Sys2Proof.Machine.execSlew req s
  | .holdover req => Sys2Proof.Machine.execHoldover req s
  | .clearInteg req => Sys2Proof.Machine.execClearInteg req s
  | .tbCtrlWrite req value => Sys2Proof.Machine.execTbCtrlWrite req value s
  | .servoSample => Sys2Proof.Machine.execServoSample s
  | .tbSwOffsetSubmit req value => Sys2Proof.Machine.execTbSwOffsetSubmit req value s
  | .servoSourceLost => Sys2Proof.Machine.execServoSourceLost s
  | .tbIncrCommit req value => Sys2Proof.Machine.execTbIncrCommit req value s
  | .mgmtSpeedResolve speed => Sys2Proof.Machine.execMgmtSpeedResolve speed s
  | .calUserWrite req p which value => Sys2Proof.Machine.execCalUserWrite req p which value s
  | .triggerArm req n => Sys2Proof.Machine.execTriggerArm req n s
  | .triggerDisarm req n => Sys2Proof.Machine.execTriggerDisarm req n s
  | .triggerFire n => Sys2Proof.Machine.execTriggerFire n s
  | .triggerLateFire n => Sys2Proof.Machine.execTriggerLateFire n s
  | .trigOutPulseEnd n => Sys2Proof.Machine.execTrigOutPulseEnd n s
  | .ppsOutSecond => Sys2Proof.Machine.execPpsOutSecond s
  | .ppsOutPulseEnd => Sys2Proof.Machine.execPpsOutPulseEnd s
  | .tsInCapture n rising cycle sub => Sys2Proof.Machine.execTsInCapture n rising cycle sub s
  | .ppsInEdge rising cycle sub => Sys2Proof.Machine.execPpsInEdge rising cycle sub s
  | .tsHeadPop req c => Sys2Proof.Machine.execTsHeadPop req c s
  | .enrolment p => Sys2Proof.Machine.execEnrolment p s
  | .seqTickClose => Sys2Proof.Machine.execSeqTickClose s
  | .seqSourceStall => Sys2Proof.Machine.execSeqSourceStall s
  | .start req => Sys2Proof.Machine.execStart req s
  | .stop req => Sys2Proof.Machine.execStop req s
  | .seqSummaryResend t => Sys2Proof.Machine.execSeqSummaryResend t s
  | .seqSummary payload => Sys2Proof.Machine.execSeqSummary payload s
  | .seqClTimeout => Sys2Proof.Machine.execSeqClTimeout s
  | .seqReply payload => Sys2Proof.Machine.execSeqReply payload s
  | .clusterLost => Sys2Proof.Machine.execClusterLost s
  | .journalRecord => Sys2Proof.Machine.execJournalRecord s
  | .sealPeriod => Sys2Proof.Machine.execSealPeriod s
  | .sealSigned readBack => Sys2Proof.Machine.execSealSigned readBack s
  | .journalSpaceReturn => Sys2Proof.Machine.execJournalSpaceReturn s
  | .hideRebuild => Sys2Proof.Machine.execHideRebuild s
  | .drainSegmentAck => Sys2Proof.Machine.execDrainSegmentAck s
  | .clInsert req => Sys2Proof.Machine.execClInsert req s
  | .clDelete req => Sys2Proof.Machine.execClDelete req s
  | .clLookup req => Sys2Proof.Machine.execClLookup req s
  | .cb3Commit req value => Sys2Proof.Machine.execCb3Commit req value s
  | .emGeomWrite req t seed value => Sys2Proof.Machine.execEmGeomWrite req t seed value s
  | .awlValid req value => Sys2Proof.Machine.execAwlValid req value s
  | .swap req => Sys2Proof.Machine.execSwap req s
  | .oldBusyClear => Sys2Proof.Machine.execOldBusyClear s
  | .copy req => Sys2Proof.Machine.execCopy req s
  | .copyDone => Sys2Proof.Machine.execCopyDone s
  | .ftInsert req => Sys2Proof.Machine.execFtInsert req s
  | .ftDelete req => Sys2Proof.Machine.execFtDelete req s
  | .ftLookup req => Sys2Proof.Machine.execFtLookup req s
  | .readSlot req => Sys2Proof.Machine.execReadSlot req s
  | .tableSeedWrite req mac value => Sys2Proof.Machine.execTableSeedWrite req mac value s
  | .tableReady mac => Sys2Proof.Machine.execTableReady mac s
  | .macLearnApply => Sys2Proof.Machine.execMacLearnApply s
  | .flowLearnApply => Sys2Proof.Machine.execFlowLearnApply s
  | .burnisherVisit mac slot => Sys2Proof.Machine.execBurnisherVisit mac slot s
  | .lpmWrite req hi => Sys2Proof.Machine.execLpmWrite req hi s
  | .lpmFence req => Sys2Proof.Machine.execLpmFence req s
  | .frameStart p off tEmit e v => Sys2Proof.Machine.execFrameStart p off tEmit e v s
  | .gateCycleStart p => Sys2Proof.Machine.execGateCycleStart p s
  | .gateEntryEdge p => Sys2Proof.Machine.execGateEntryEdge p s
  | .change req p => Sys2Proof.Machine.execChange req p s
  | .gateListSwitch p => Sys2Proof.Machine.execGateListSwitch p s
  | .releaseGroupAligned p => Sys2Proof.Machine.execReleaseGroupAligned p s
  | .launchDue p off tEmit e v moved => Sys2Proof.Machine.execLaunchDue p off tEmit e v moved s
  | .flr fn => Sys2Proof.Machine.execFlr fn s
  | .vfEnableClear pf => Sys2Proof.Machine.execVfEnableClear pf s
  | .bmeClear fn => Sys2Proof.Machine.execBmeClear fn s
  | .linkReset link kind => Sys2Proof.Machine.execLinkReset link kind s
  | .d3hotEntry fn => Sys2Proof.Machine.execD3hotEntry fn s
  | .quiesce req fn => Sys2Proof.Machine.execQuiesce req fn s
  | .readTagRetire id => Sys2Proof.Machine.execReadTagRetire id s
  | .functionIdle fn => Sys2Proof.Machine.execFunctionIdle fn s
  | .functionReturn fn => Sys2Proof.Machine.execFunctionReturn fn s
  | .bar0Access req addr len write value => Sys2Proof.Machine.execBar0Access req addr len write value s
  | .configRequest fn op => Sys2Proof.Machine.execConfigRequest fn op s
  | .msixUnmask fn entry => Sys2Proof.Machine.execMsixUnmask fn entry s
  | .fnAllocWrite req fn item value => Sys2Proof.Machine.execFnAllocWrite req fn item value s
  | .ringDoorbell fn loc value => Sys2Proof.Machine.execRingDoorbell fn loc value s
  | .inval req r => Sys2Proof.Machine.execInval req r s
  | .descriptorFetch kind r item ok data => Sys2Proof.Machine.execDescriptorFetch kind r item ok data s
  | .txJobStart r => Sys2Proof.Machine.execTxJobStart r s
  | .txJobComplete => Sys2Proof.Machine.execTxJobComplete s
  | .rxDeliver r => Sys2Proof.Machine.execRxDeliver r s
  | .drainDeliver st => Sys2Proof.Machine.execDrainDeliver st s
  | .waitStart r => Sys2Proof.Machine.execWaitStart r s
  | .waitSatisfied r sq => Sys2Proof.Machine.execWaitSatisfied r sq s
  | .waitTimeout r sq => Sys2Proof.Machine.execWaitTimeout r sq s
  | .ringEnable req r => Sys2Proof.Machine.execRingEnable req r s
  | .ringDisable req r => Sys2Proof.Machine.execRingDisable req r s
  | .ringIdle r => Sys2Proof.Machine.execRingIdle r s
  | .eqCiWrite req q value => Sys2Proof.Machine.execEqCiWrite req q value s
  | .eqModTimer q => Sys2Proof.Machine.execEqModTimer q s
  | .eqEnable req q => Sys2Proof.Machine.execEqEnable req q s
  | .eqDisable req q => Sys2Proof.Machine.execEqDisable req q s
  | .iraWrite => Sys2Proof.Machine.execIraWrite s
  | .iraWriteImm => Sys2Proof.Machine.execIraWriteImm s
  | .iraSend => Sys2Proof.Machine.execIraSend s
  | .readReq => Sys2Proof.Machine.execReadReq s
  | .readResp => Sys2Proof.Machine.execReadResp s
  | .fetchAdd => Sys2Proof.Machine.execFetchAdd s
  | .cmpSwap => Sys2Proof.Machine.execCmpSwap s
  | .atomicResp => Sys2Proof.Machine.execAtomicResp s
  | .ack => Sys2Proof.Machine.execAck s
  | .nak => Sys2Proof.Machine.execNak s
  | .credit => Sys2Proof.Machine.execCredit s
  | .iqDb req view lo hi => Sys2Proof.Machine.execIqDb req view lo hi s
  | .sqWrite q => Sys2Proof.Machine.execSqWrite q s
  | .sqWriteImm q => Sys2Proof.Machine.execSqWriteImm q s
  | .sqRead q => Sys2Proof.Machine.execSqRead q s
  | .sqSend q => Sys2Proof.Machine.execSqSend q s
  | .sqFetchAdd q => Sys2Proof.Machine.execSqFetchAdd q s
  | .sqCmpSwap q => Sys2Proof.Machine.execSqCmpSwap q s
  | .sqWait q => Sys2Proof.Machine.execSqWait q s
  | .iqEnable req q => Sys2Proof.Machine.execIqEnable req q s
  | .iqDisable req q => Sys2Proof.Machine.execIqDisable req q s
  | .forceErr req q => Sys2Proof.Machine.execForceErr req q s
  | .pin req q => Sys2Proof.Machine.execPin req q s
  | .contextFetchDone q => Sys2Proof.Machine.execContextFetchDone q s
  | .iraRtoExpire q psn => Sys2Proof.Machine.execIraRtoExpire q psn s
  | .iraRnrDelay q psn => Sys2Proof.Machine.execIraRnrDelay q psn s
  | .iraNakDelay q => Sys2Proof.Machine.execIraNakDelay q s
  | .iraAckDelay q => Sys2Proof.Machine.execIraAckDelay q s
  | .iraCreditTimer q => Sys2Proof.Machine.execIraCreditTimer q s
  | .pathDegradeEnd q path => Sys2Proof.Machine.execPathDegradeEnd q path s
  | .register req view => Sys2Proof.Machine.execRegister req view s
  | .deregister req view => Sys2Proof.Machine.execDeregister req view s
  | .query req view => Sys2Proof.Machine.execQuery req view s
  | .nvmeSqDoorbell c q tail => Sys2Proof.Machine.execNvmeSqDoorbell c q tail s
  | .nvmeCqDoorbell c q head => Sys2Proof.Machine.execNvmeCqDoorbell c q head s
  | .createIoSq c => Sys2Proof.Machine.execCreateIoSq c s
  | .createIoCq c => Sys2Proof.Machine.execCreateIoCq c s
  | .deleteIoSq c => Sys2Proof.Machine.execDeleteIoSq c s
  | .deleteIoCq c => Sys2Proof.Machine.execDeleteIoCq c s
  | .getLogPage c => Sys2Proof.Machine.execGetLogPage c s
  | .identify c => Sys2Proof.Machine.execIdentify c s
  | .abort c => Sys2Proof.Machine.execAbort c s
  | .setFeatures c => Sys2Proof.Machine.execSetFeatures c s
  | .getFeatures c => Sys2Proof.Machine.execGetFeatures c s
  | .asynchronousEventRequest c => Sys2Proof.Machine.execAsynchronousEventRequest c s
  | .nvmeRead c => Sys2Proof.Machine.execNvmeRead c s
  | .nvmeWrite c => Sys2Proof.Machine.execNvmeWrite c s
  | .flush c => Sys2Proof.Machine.execFlush c s
  | .writeZeroes c => Sys2Proof.Machine.execWriteZeroes c s
  | .datasetManagement c => Sys2Proof.Machine.execDatasetManagement c s
  | .invalidCommandOpcode c => Sys2Proof.Machine.execInvalidCommandOpcode c s
  | .controllerReset c => Sys2Proof.Machine.execControllerReset c s
  | .shutdownNotification c shn => Sys2Proof.Machine.execShutdownNotification c shn s
  | .destage => Sys2Proof.Machine.execDestage s
  | .backendCompletion id ok data => Sys2Proof.Machine.execBackendCompletion id ok data s
  | .destageRetry b => Sys2Proof.Machine.execDestageRetry b s
  | .dsLinkDown link cfs backends => Sys2Proof.Machine.execDsLinkDown link cfs backends s
  | .nsMapDone => Sys2Proof.Machine.execNsMapDone s
  | .nsDrainReset => Sys2Proof.Machine.execNsDrainReset s
  | .pwrFail => Sys2Proof.Machine.execPwrFail s
  | .pfDone vaulted ms => Sys2Proof.Machine.execPfDone vaulted ms s
  | .vaultRestore => Sys2Proof.Machine.execVaultRestore s
  | .extentCopyDone => Sys2Proof.Machine.execExtentCopyDone s
  | .lossRecord st => Sys2Proof.Machine.execLossRecord st s
  | .chunkFlush st => Sys2Proof.Machine.execChunkFlush st s
  | .skiverCompress => Sys2Proof.Machine.execSkiverCompress s
  | .captureSegmentDrain st => Sys2Proof.Machine.execCaptureSegmentDrain st s
  | .streamDisable req st => Sys2Proof.Machine.execStreamDisable req st s
  | .bankSwap req => Sys2Proof.Machine.execBankSwap req s
  | .bankClear req => Sys2Proof.Machine.execBankClear req s
  | .skQuery req => Sys2Proof.Machine.execSkQuery req s
  | .flowClear first count => Sys2Proof.Machine.execFlowClear first count s
  | .fabricPortEnable req p => Sys2Proof.Machine.execFabricPortEnable req p s
  | .fabricTrainDone p => Sys2Proof.Machine.execFabricTrainDone p s
  | .fabricLockLoss p => Sys2Proof.Machine.execFabricLockLoss p s
  | .hello p payload acked => Sys2Proof.Machine.execHello p payload acked s
  | .helloPeriod p => Sys2Proof.Machine.execHelloPeriod p s
  | .helloTimeout p => Sys2Proof.Machine.execHelloTimeout p s
  | .fabricFrameReceive p raw => Sys2Proof.Machine.execFabricFrameReceive p raw s
  | .lsa p payload => Sys2Proof.Machine.execLsa p payload s
  | .lsaOriginate => Sys2Proof.Machine.execLsaOriginate s
  | .lsaExpire => Sys2Proof.Machine.execLsaExpire s
  | .addr p uid addr => Sys2Proof.Machine.execAddr p uid addr s
  | .tc7Resend p => Sys2Proof.Machine.execTc7Resend p s
  | .fabricAck p lseq => Sys2Proof.Machine.execFabricAck p lseq s
  | .routeInstall => Sys2Proof.Machine.execRouteInstall s
  | .rtEntryWrite req a mask => Sys2Proof.Machine.execRtEntryWrite req a mask s
  | .syncPeriod emits te tv => Sys2Proof.Machine.execSyncPeriod emits te tv s
  | .sync p payload tDet e pos tEmit te tv => Sys2Proof.Machine.execSync p payload tDet e pos tEmit te tv s
  | .delay p payload tDet e pos => Sys2Proof.Machine.execDelay p payload tDet e pos s
  | .reply p payload => Sys2Proof.Machine.execReply p payload s
  | .objReq => Sys2Proof.Machine.execObjReq s
  | .objResp => Sys2Proof.Machine.execObjResp s
  | .sopProxyTimeout => Sys2Proof.Machine.execSopProxyTimeout s
  | .read => Sys2Proof.Machine.execRead s
  | .write => Sys2Proof.Machine.execWrite s
  | .readSeg => Sys2Proof.Machine.execReadSeg s
  | .writeSeg => Sys2Proof.Machine.execWriteSeg s
  | .transferAbandon idx sub => Sys2Proof.Machine.execTransferAbandon idx sub s
  | .claim req m => Sys2Proof.Machine.execClaim req m s
  | .release req m => Sys2Proof.Machine.execRelease req m s
  | .restoreDefaults => Sys2Proof.Machine.execRestoreDefaults s
  | .fwImage who off data last => Sys2Proof.Machine.execFwImage who off data last s
  | .flashEraseDone => Sys2Proof.Machine.execFlashEraseDone s
  | .fwVerify => Sys2Proof.Machine.execFwVerify s
  | .fwPromote => Sys2Proof.Machine.execFwPromote s
  | .fwHitless => Sys2Proof.Machine.execFwHitless s
  | .mgmtFrameReceive raw tDet e pos => Sys2Proof.Machine.execMgmtFrameReceive raw tDet e pos s
  | .mgTxDb req value => Sys2Proof.Machine.execMgTxDb req value s
  | .mgRxDb req value => Sys2Proof.Machine.execMgRxDb req value s
  | .mgmtFrameSend tEmit e pos => Sys2Proof.Machine.execMgmtFrameSend tEmit e pos s
  | .mgCtrlEn req on => Sys2Proof.Machine.execMgCtrlEn req on s
  | .keyRevoke data => Sys2Proof.Machine.execKeyRevoke data s
  | .svnCommit v => Sys2Proof.Machine.execSvnCommit v s
  | .coldReset env => Sys2Proof.Machine.execColdReset env s
  | .done req => Sys2Proof.Machine.execDone req s
  | .bootWatchdog => Sys2Proof.Machine.execBootWatchdog s
  | .go program => Sys2Proof.Machine.execGo program s
  | .recoveryBundleChecked bundle hbm mram programOk => Sys2Proof.Machine.execRecoveryBundleChecked bundle hbm mram programOk s
  | .clRelease req c => Sys2Proof.Machine.execClRelease req c s
  | .svRelease req k => Sys2Proof.Machine.execSvRelease req k s
  | .esClaim req k => Sys2Proof.Machine.execEsClaim req k s
  | .esRelease req k => Sys2Proof.Machine.execEsRelease req k s
  | .attest k => Sys2Proof.Machine.execAttest k s
  | .mregExtend k => Sys2Proof.Machine.execMregExtend k s
  | .random k => Sys2Proof.Machine.execRandom k s
  | .keyImport k => Sys2Proof.Machine.execKeyImport k s
  | .keyDestroy k => Sys2Proof.Machine.execKeyDestroy k s
  | .bulkKeygen k => Sys2Proof.Machine.execBulkKeygen k s
  | .bulk k => Sys2Proof.Machine.execBulk k s
  | .mkaIcv k => Sys2Proof.Machine.execMkaIcv k s
  | .sakGenerate k => Sys2Proof.Machine.execSakGenerate k s
  | .sakInstall k => Sys2Proof.Machine.execSakInstall k s
  | .saClear k => Sys2Proof.Machine.execSaClear k s
  | .selfTest k => Sys2Proof.Machine.execSelfTest k s
  | .zeroise k => Sys2Proof.Machine.execZeroise k s
  | .sealReseat k readBack => Sys2Proof.Machine.execSealReseat k readBack s
  | .jtagChallenge k => Sys2Proof.Machine.execJtagChallenge k s
  | .jtagChallengeExpire => Sys2Proof.Machine.execJtagChallengeExpire s
  | .jtagUnlock k => Sys2Proof.Machine.execJtagUnlock k s
  | .rawEntropy k => Sys2Proof.Machine.execRawEntropy k s
  | .tamperArmPerm => Sys2Proof.Machine.execTamperArmPerm s
  | .selfTestDone fail => Sys2Proof.Machine.execSelfTestDone fail s
  | .enclError code => Sys2Proof.Machine.execEnclError code s
  | .enclErrorReset => Sys2Proof.Machine.execEnclErrorReset s
  | .tamper cause => Sys2Proof.Machine.execTamper cause s
  | .islandSleep c nextE nextT => Sys2Proof.Machine.execIslandSleep c nextE nextT s
  | .islandWake c => Sys2Proof.Machine.execIslandWake c s
  | .piOpp req c opp => Sys2Proof.Machine.execPiOpp req c opp s
  | .oppTransitionDone c => Sys2Proof.Machine.execOppTransitionDone c s
  | .thermalSample temps => Sys2Proof.Machine.execThermalSample temps s
  | .quietWindowStart => Sys2Proof.Machine.execQuietWindowStart s
  | .quietWindowEnd => Sys2Proof.Machine.execQuietWindowEnd s
  | .errorReport src cls loc code nbits => Sys2Proof.Machine.execErrorReport src cls loc code nbits s
  | .errorPendingLog src => Sys2Proof.Machine.execErrorPendingLog src s
  | .reloadDone g => Sys2Proof.Machine.execReloadDone g s
  | .huSwitch req => Sys2Proof.Machine.execHuSwitch req s
  | .huCommit req => Sys2Proof.Machine.execHuCommit req s
  | .huRollback req => Sys2Proof.Machine.execHuRollback req s
  | .huCommitTimeout => Sys2Proof.Machine.execHuCommitTimeout s
  | .resetNAssert powerLost => Sys2Proof.Machine.execResetNAssert powerLost s
  | .resetNDeassert env perst => Sys2Proof.Machine.execResetNDeassert env perst s
  | .railFault n => Sys2Proof.Machine.execRailFault n s
  | .avsTimeout c => Sys2Proof.Machine.execAvsTimeout c s
  | .refSysLoss => Sys2Proof.Machine.execRefSysLoss s
  | .timeRefLoss atReset => Sys2Proof.Machine.execTimeRefLoss atReset s
  | .timeRefReturn => Sys2Proof.Machine.execTimeRefReturn s
  | .smbusReadByte cmd => Sys2Proof.Machine.execSmbusReadByte cmd s
  | .pcieLinkUp link speed width flit => Sys2Proof.Machine.execPcieLinkUp link speed width flit s
  | .dsLinkUp link speed width => Sys2Proof.Machine.execDsLinkUp link speed width s
  | .controllerEnable c cc => Sys2Proof.Machine.execControllerEnable c cc s
  | .tcpConnectionLoss b => Sys2Proof.Machine.execTcpConnectionLoss b s
  | .hostReadCompletion id ok data => Sys2Proof.Machine.execHostReadCompletion id ok data s
  | .bankClearDone => Sys2Proof.Machine.execBankClearDone s
  | .avsVoltageReached => Sys2Proof.Machine.execAvsVoltageReached s

end Sys2Proof.Machine
end

