-- ==== Sys2Proof/WellFormed.lean ====
section
/-!
DEFINITION. Which commands are well formed: every operand within the range that the spec's numbering gives it (requesters 0 to 4148, ports,
classes, queues, islands), strings of the length their format has. The machine answers every command; the check says which
ones the spec's own environment can send.
-/
namespace Sys2Proof

/-- Is a command well formed. -/
def WellFormed.check : Instr → Bool
  | .registerWrite req addr value => decide (req < 4149 ∧ addr < 2 ^ 29 ∧ addr % 4 = 0 ∧ value < 2 ^ 32)
  | .counterLowRead req addr => decide (req < 4149 ∧ addr < 2 ^ 29 ∧ addr % 4 = 0)
  | .rcRead req addr _ => decide (req < 4149 ∧ addr < 2 ^ 29 ∧ addr % 4 = 0)
  | .etickLoRead req => decide (req < 4149)
  | .eventTick => true
  | .valueLacingTransfer src dst _ => decide (src < 28 ∧ dst < 28)
  | .eventLacingOccurrence ch => decide (ch < 512)
  | .grpResetRequest req value => decide (req < 4149 ∧ value < 2 ^ 32)
  | .rstcLock req => decide (req < 4149)
  | .groupResetStart g => decide (1 ≤ g ∧ g < 8)
  | .groupResetDone g => decide (1 ≤ g ∧ g < 8)
  | .perstAssert link => decide (link < 2)
  | .perstDeassert link => decide (link < 2)
  | .hbmAccess island _ write len data ecc => decide (island < 28 ∧ ecc < 3 ∧ if write then data ≠ [] else 0 < len)
  | .hbmScrub addr ecc => decide (addr < 2 ^ 34 ∧ ecc < 3)
  | .hbmLayoutRevert => true
  | .lgModeWrite req g mode => decide (req < 4149 ∧ g < 4 ∧ mode < 16)
  | .portEnable req p => decide (req < 4149 ∧ p < 16)
  | .portDisable req p _ => decide (req < 4149 ∧ p < 16)
  | .linkSignalLock p eye => decide (p < 16 ∧ eye < 256)
  | .linkTrainDone p pre main post => decide (p < 16 ∧ pre < 64 ∧ main < 64 ∧ post < 64)
  | .linkTrainFail p => decide (p < 16)
  | .linkTrainTimeout p => decide (p < 16)
  | .linkAlignLock p => decide (p < 16)
  | .linkFault p _ _ => decide (p < 16)
  | .linkFaultClear p => decide (p < 16)
  | .linkLockLoss p _ _ => decide (p < 16)
  | .linkSignalLoss p lane _ _ => decide (p < 16 ∧ lane < 16)
  | .frameReceive p raw _ e pos _ off _ te tv => decide (p < 16 ∧ 5 ≤ raw.length ∧ off < 8000 ∧ pos ≤ e ∧ tv ≤ te)
  | .macControlFrame p _ classes quanta => decide (p < 16 ∧ classes < 256 ∧ quanta.length ≤ 8)
  | .pfcPauseExpire p c => decide (p < 16 ∧ c < 8)
  | .pfcXoff p c occ => decide (p < 16 ∧ c < 8 ∧ occ < 2 ^ 20)
  | .pfcRepeat p c occ => decide (p < 16 ∧ c < 8 ∧ occ < 2 ^ 20)
  | .pfcXon p c occ => decide (p < 16 ∧ c < 8 ∧ occ < 2 ^ 20)
  | .snap req p => decide (req < 4149 ∧ p < 16)
  | .tbNowRead req cycle => decide (req < 4149 ∧ cycle < 8)
  | .set req => decide (req < 4149)
  | .step req => decide (req < 4149)
  | .slew req => decide (req < 4149)
  | .holdover req => decide (req < 4149)
  | .clearInteg req => decide (req < 4149)
  | .tbCtrlWrite req value => decide (req < 4149 ∧ value < 2 ^ 32)
  | .servoSample => true
  | .tbSwOffsetSubmit req value => decide (req < 4149 ∧ value < 2 ^ 32)
  | .servoSourceLost => true
  | .tbIncrCommit req value => decide (req < 4149 ∧ value < 2 ^ 32)
  | .mgmtSpeedResolve speed => decide (speed < 3)
  | .calUserWrite req p which value => decide (req < 4149 ∧ p < 17 ∧ which < 4 ∧ value < 2 ^ 32)
  | .triggerArm req n => decide (req < 4149 ∧ n < 16)
  | .triggerDisarm req n => decide (req < 4149 ∧ n < 16)
  | .triggerFire n => decide (n < 16)
  | .triggerLateFire n => decide (n < 16)
  | .trigOutPulseEnd n => decide (n < 16)
  | .ppsOutSecond => true
  | .ppsOutPulseEnd => true
  | .tsInCapture n _ cycle sub => decide (n < 8 ∧ cycle < 8 ∧ sub < 16)
  | .ppsInEdge _ cycle sub => decide (cycle < 8 ∧ sub < 16)
  | .tsHeadPop req c => decide (req < 4149 ∧ 16 ≤ c ∧ c ≤ 24)
  | .enrolment p => decide (p < 16)
  | .seqTickClose => true
  | .seqSourceStall => true
  | .start req => decide (req < 4149)
  | .stop req => decide (req < 4149)
  | .seqSummaryResend t => decide (t < 2 ^ 48)
  | .seqSummary payload => decide (18 ≤ payload.length)
  | .seqClTimeout => true
  | .seqReply payload => decide (16 ≤ payload.length)
  | .clusterLost => true
  | .journalRecord => true
  | .sealPeriod => true
  | .sealSigned _ => true
  | .journalSpaceReturn => true
  | .hideRebuild => true
  | .drainSegmentAck => true
  | .clInsert req => decide (req < 4149)
  | .clDelete req => decide (req < 4149)
  | .clLookup req => decide (req < 4149)
  | .cb3Commit req value => decide (req < 4149 ∧ value < 2 ^ 32)
  | .emGeomWrite req t _ value => decide (req < 4149 ∧ t < 8 ∧ value < 2 ^ 32)
  | .awlValid req value => decide (req < 4149 ∧ value < 2 ^ 32)
  | .swap req => decide (req < 4149)
  | .oldBusyClear => true
  | .copy req => decide (req < 4149)
  | .copyDone => true
  | .ftInsert req => decide (req < 4149)
  | .ftDelete req => decide (req < 4149)
  | .ftLookup req => decide (req < 4149)
  | .readSlot req => decide (req < 4149)
  | .tableSeedWrite req _ value => decide (req < 4149 ∧ value < 2 ^ 32)
  | .tableReady _ => true
  | .macLearnApply => true
  | .flowLearnApply => true
  | .burnisherVisit mac slot => decide (slot < if mac then 2097152 else 16777216)
  | .lpmWrite req hi => decide (req < 4149 ∧ hi < 2 ^ 32)
  | .lpmFence req => decide (req < 4149)
  | .frameStart p off _ e v => decide (p < 16 ∧ off < 8000 ∧ v ≤ e)
  | .gateCycleStart p => decide (p < 16)
  | .gateEntryEdge p => decide (p < 16)
  | .change req p => decide (req < 4149 ∧ p < 16)
  | .gateListSwitch p => decide (p < 16)
  | .releaseGroupAligned p => decide (p < 16)
  | .launchDue p off _ e v _ => decide (p < 16 ∧ off < 8000 ∧ v ≤ e)
  | .flr fn => decide (fn < 4104)
  | .vfEnableClear pf => decide (pf < 8)
  | .bmeClear fn => decide (fn < 4104)
  | .linkReset link kind => decide (link < 2 ∧ kind < 3)
  | .d3hotEntry fn => decide (fn < 4104)
  | .quiesce req fn => decide (req < 4149 ∧ fn < 4104)
  | .readTagRetire _ => true
  | .functionIdle fn => decide (fn < 4104)
  | .functionReturn fn => decide (fn < 4104)
  | .bar0Access req addr len _ value => decide (req < 4149 ∧ addr < 2 ^ 29 ∧ len ≤ 4096 ∧ value < 2 ^ 64)
  | .configRequest fn op => (decide (fn < 4104) && match op with | .vfEnable n => decide (1 ≤ n ∧ n ≤ 512) | _ => true)
  | .msixUnmask fn entry => (decide (fn < 4104) && match entry with | some e => decide (e.1 < 2048 ∧ e.2.length = 16) | none => true)
  | .fnAllocWrite req fn i value => decide (req < 4149 ∧ fn < 4104 ∧ i < 6 ∧ value < 2 ^ 32)
  | .ringDoorbell fn _ value => decide (fn < 4104 ∧ value < 2 ^ 32)
  | .inval req r => decide (req < 4149 ∧ r < 65536)
  | .descriptorFetch kind r i _ data => decide (kind < 3 ∧ (r < if kind = 0 then 65536 else 2 ^ 22) ∧ i < 2 ^ 17 ∧ data.length ≤ 64)
  | .txJobStart r => decide (r < 65536)
  | .txJobComplete => true
  | .rxDeliver r => decide (r < 65536)
  | .drainDeliver st => (match st with | some n => decide (n < 8) | none => true)
  | .waitStart r => decide (r < 65536)
  | .waitSatisfied r sq => decide (r < if sq then 2 ^ 22 else 65536)
  | .waitTimeout r sq => decide (r < if sq then 2 ^ 22 else 65536)
  | .ringEnable req r => decide (req < 4149 ∧ r < 65536)
  | .ringDisable req r => decide (req < 4149 ∧ r < 65536)
  | .ringIdle r => decide (r < 65536)
  | .eqCiWrite req q value => decide (req < 4149 ∧ q < 16384 ∧ value < 2 ^ 32)
  | .eqModTimer q => decide (q < 16384)
  | .eqEnable req q => decide (req < 4149 ∧ q < 16384)
  | .eqDisable req q => decide (req < 4149 ∧ q < 16384)
  | .iraWrite => true
  | .iraWriteImm => true
  | .iraSend => true
  | .readReq => true
  | .readResp => true
  | .fetchAdd => true
  | .cmpSwap => true
  | .atomicResp => true
  | .ack => true
  | .nak => true
  | .credit => true
  | .iqDb req _ lo hi => (decide (req < 4149 ∧ hi < 2 ^ 32) && match lo with | some v => decide (v < 2 ^ 32) | none => true)
  | .sqWrite q => decide (q < 2 ^ 22)
  | .sqWriteImm q => decide (q < 2 ^ 22)
  | .sqRead q => decide (q < 2 ^ 22)
  | .sqSend q => decide (q < 2 ^ 22)
  | .sqFetchAdd q => decide (q < 2 ^ 22)
  | .sqCmpSwap q => decide (q < 2 ^ 22)
  | .sqWait q => decide (q < 2 ^ 22)
  | .iqEnable req q => decide (req < 4149 ∧ q < 2 ^ 22)
  | .iqDisable req q => decide (req < 4149 ∧ q < 2 ^ 22)
  | .forceErr req q => decide (req < 4149 ∧ q < 2 ^ 22)
  | .pin req q => decide (req < 4149 ∧ q < 2 ^ 22)
  | .contextFetchDone q => decide (q < 2 ^ 22)
  | .iraRtoExpire q psn => decide (q < 2 ^ 22 ∧ psn < 2 ^ 32)
  | .iraRnrDelay q psn => decide (q < 2 ^ 22 ∧ psn < 2 ^ 32)
  | .iraNakDelay q => decide (q < 2 ^ 22)
  | .iraAckDelay q => decide (q < 2 ^ 22)
  | .iraCreditTimer q => decide (q < 2 ^ 22)
  | .pathDegradeEnd q path => decide (q < 2 ^ 22 ∧ path < 16)
  | .register req view => decide (req < 4149 ∧ (view → req < 4104))
  | .deregister req view => decide (req < 4149 ∧ (view → req < 4104))
  | .query req view => decide (req < 4149 ∧ (view → req < 4104))
  | .nvmeSqDoorbell c q tail => decide (c < 1024 ∧ q < 65 ∧ tail < 65536)
  | .nvmeCqDoorbell c q head => decide (c < 1024 ∧ q < 65 ∧ head < 65536)
  | .createIoSq c => decide (c < 1024)
  | .createIoCq c => decide (c < 1024)
  | .deleteIoSq c => decide (c < 1024)
  | .deleteIoCq c => decide (c < 1024)
  | .getLogPage c => decide (c < 1024)
  | .identify c => decide (c < 1024)
  | .abort c => decide (c < 1024)
  | .setFeatures c => decide (c < 1024)
  | .getFeatures c => decide (c < 1024)
  | .asynchronousEventRequest c => decide (c < 1024)
  | .nvmeRead c => decide (c < 1280)
  | .nvmeWrite c => decide (c < 1280)
  | .flush c => decide (c < 1280)
  | .writeZeroes c => decide (c < 1280)
  | .datasetManagement c => decide (c < 1280)
  | .invalidCommandOpcode c => decide (c < 1280)
  | .controllerReset c => decide (c < 1024)
  | .shutdownNotification c shn => decide (c < 1024 ∧ (shn = 1 ∨ shn = 2))
  | .destage => true
  | .backendCompletion _ _ _ => true
  | .destageRetry b => decide (b < 256)
  | .dsLinkDown link _ _ => decide (link < 2)
  | .nsMapDone => true
  | .nsDrainReset => true
  | .pwrFail => true
  | .pfDone _ ms => decide (ms < 65536)
  | .vaultRestore => true
  | .extentCopyDone => true
  | .lossRecord st => decide (st < 8)
  | .chunkFlush st => decide (st < 8)
  | .skiverCompress => true
  | .captureSegmentDrain st => decide (st < 8)
  | .streamDisable req st => decide (req < 4149 ∧ st < 8)
  | .bankSwap req => decide (req < 4149)
  | .bankClear req => decide (req < 4149)
  | .skQuery req => decide (req < 4149)
  | .flowClear first count => decide (first < 2 ^ 32 ∧ count < 2 ^ 32)
  | .fabricPortEnable req p => decide (req < 4149 ∧ p < 8)
  | .fabricTrainDone p => decide (p < 8)
  | .fabricLockLoss p => decide (p < 8)
  | .hello p payload _ => decide (p < 8 ∧ payload.length = 24)
  | .helloPeriod p => decide (p < 8)
  | .helloTimeout p => decide (p < 8)
  | .fabricFrameReceive p raw => decide (p < 8 ∧ 64 ≤ raw.length ∧ raw.length ≤ 964)
  | .lsa p payload => decide (p < 8 ∧ 28 ≤ payload.length ∧ payload.length ≤ 188)
  | .lsaOriginate => true
  | .lsaExpire => true
  | .addr p uid addr => decide (p < 8 ∧ uid < 2 ^ 128 ∧ 0 < addr ∧ addr < 4095)
  | .tc7Resend p => decide (p < 8)
  | .fabricAck p lseq => decide (p < 8 ∧ lseq < 65536)
  | .routeInstall => true
  | .rtEntryWrite req a mask => decide (req < 4149 ∧ a < 4096 ∧ mask < 256)
  | .syncPeriod emits te tv => decide (emits.length = 8 ∧ tv ≤ te)
  | .sync p payload _ e pos _ te tv => decide (p < 8 ∧ payload.length = 16 ∧ pos ≤ e ∧ tv ≤ te)
  | .delay p payload _ e pos => decide (p < 8 ∧ payload.length = 16 ∧ pos ≤ e)
  | .reply p payload => decide (p < 8 ∧ payload.length = 16)
  | .objReq => true
  | .objResp => true
  | .sopProxyTimeout => true
  | .read => true
  | .write => true
  | .readSeg => true
  | .writeSeg => true
  | .transferAbandon idx sub => decide (idx < 65536 ∧ sub < 256)
  | .claim req m => decide (req < 4149 ∧ 1 ≤ m ∧ m < 5)
  | .release req m => decide (req < 4149 ∧ 1 ≤ m ∧ m < 5)
  | .restoreDefaults => true
  | .fwImage who off data _ => decide (who < 21 ∧ off ≤ 67108864 ∧ data.length ≤ 1024)
  | .flashEraseDone => true
  | .fwVerify => true
  | .fwPromote => true
  | .fwHitless => true
  | .mgmtFrameReceive raw _ e pos => decide (64 ≤ raw.length ∧ raw.length ≤ 16384 ∧ pos ≤ e)
  | .mgTxDb req value => decide (req < 4149 ∧ value < 2 ^ 32)
  | .mgRxDb req value => decide (req < 4149 ∧ value < 2 ^ 32)
  | .mgmtFrameSend _ e pos => decide (pos ≤ e)
  | .mgCtrlEn req _ => decide (req < 4149)
  | .keyRevoke data => decide (data.length = 172)
  | .svnCommit v => decide (v < 256)
  | .coldReset env => decide (env.straps < 8)
  | .done req => decide (req < 4149)
  | .bootWatchdog => true
  | .go _ => true
  | .recoveryBundleChecked bundle _ _ _ => decide (4096 ≤ bundle.length ∧ bundle.length ≤ 67108864)
  | .clRelease req c => decide (req < 4149 ∧ c < 8)
  | .svRelease req k => decide (req < 4149 ∧ k < 12)
  | .esClaim req k => decide (req < 4149 ∧ k < 8)
  | .esRelease req k => decide (req < 4149 ∧ k < 8)
  | .attest k => decide (k < 8)
  | .mregExtend k => decide (k < 8)
  | .random k => decide (k < 8)
  | .keyImport k => decide (k < 8)
  | .keyDestroy k => decide (k < 8)
  | .bulkKeygen k => decide (k < 8)
  | .bulk k => decide (k < 8)
  | .mkaIcv k => decide (k < 8)
  | .sakGenerate k => decide (k < 8)
  | .sakInstall k => decide (k < 8)
  | .saClear k => decide (k < 8)
  | .selfTest k => decide (k < 8)
  | .zeroise k => decide (k < 8)
  | .sealReseat k _ => decide (k < 8)
  | .jtagChallenge k => decide (k < 8)
  | .jtagChallengeExpire => true
  | .jtagUnlock k => decide (k < 8)
  | .rawEntropy k => decide (k < 8)
  | .tamperArmPerm => true
  | .selfTestDone fail => (match fail with | some c => decide (c = 1 ∨ (16 ≤ c ∧ c < 27)) | none => true)
  | .enclError code => decide ((16 ≤ code ∧ code < 27) ∨ code = 32 ∨ code = 48 ∨ code = 64 ∨ code = 80)
  | .enclErrorReset => true
  | .tamper cause => decide (1 ≤ cause ∧ cause < 32)
  | .islandSleep c nextE _ => decide (c < 28 ∧ nextE < 2 ^ 64)
  | .islandWake c => decide (c < 28)
  | .piOpp req c opp => decide (req < 4149 ∧ c < 8 ∧ opp < 8)
  | .oppTransitionDone c => decide (c < 8)
  | .thermalSample temps => decide (temps.length = 24)
  | .quietWindowStart => true
  | .quietWindowEnd => true
  | .errorReport src cls loc code nbits => decide (src < 2048 ∧ (cls = 2 ∨ cls = 6 ∨ cls = 8) ∧ loc < 2 ^ 64 ∧ code < 65536 ∧ nbits < 65536)
  | .errorPendingLog src => decide (src < 2048)
  | .reloadDone g => decide (g < 8)
  | .huSwitch req => decide (req ≤ 4149)
  | .huCommit req => decide (req ≤ 4149)
  | .huRollback req => decide (req ≤ 4149)
  | .huCommitTimeout => true
  | .resetNAssert _ => true
  | .resetNDeassert env perst => decide (env.straps < 8 ∧ perst < 4)
  | .railFault n => decide (n < 11)
  | .avsTimeout c => decide (c < 8)
  | .refSysLoss => true
  | .timeRefLoss _ => true
  | .timeRefReturn => true
  | .smbusReadByte cmd => decide (cmd < 256)
  | .pcieLinkUp link speed width _ => decide (link < 2 ∧ 1 ≤ speed ∧ speed ≤ 6 ∧ width ≤ 16)
  | .dsLinkUp link speed width => decide (link < 2 ∧ 1 ≤ speed ∧ speed ≤ 5 ∧ width ≤ 8)
  | .controllerEnable c cc => decide (c < 1024 ∧ cc < 2 ^ 32 ∧ cc % 2 = 1)
  | .tcpConnectionLoss b => decide (b < 256)
  | .hostReadCompletion _ _ data => decide (data.length ≤ 16777216)
  | .bankClearDone => true
  | .avsVoltageReached => true

end Sys2Proof
end

