-- ==== Sys2Proof/Laws/PerInstr.lean ====
section
/-!
SUPPORT. Statements made for each command. Family F: the requesters that a well-formed command names are those of Table 8.7, 0 to 4148, or 4149, by which the model names the dictionary engine.
-/
namespace Sys2Proof

/-- The requester that a command names, if it names one (Table 8.7). -/
def Laws.F.requesters : Instr → List Nat
  | .registerWrite req _ _ => [req]
  | .counterLowRead req _ => [req]
  | .rcRead req _ _ => [req]
  | .etickLoRead req => [req]
  | .grpResetRequest req _ => [req]
  | .rstcLock req => [req]
  | .lgModeWrite req _ _ => [req]
  | .portEnable req _ => [req]
  | .portDisable req _ _ => [req]
  | .snap req _ => [req]
  | .tbNowRead req _ => [req]
  | .set req => [req]
  | .step req => [req]
  | .slew req => [req]
  | .holdover req => [req]
  | .clearInteg req => [req]
  | .tbCtrlWrite req _ => [req]
  | .tbSwOffsetSubmit req _ => [req]
  | .tbIncrCommit req _ => [req]
  | .calUserWrite req _ _ _ => [req]
  | .triggerArm req _ => [req]
  | .triggerDisarm req _ => [req]
  | .tsHeadPop req _ => [req]
  | .start req => [req]
  | .stop req => [req]
  | .clInsert req => [req]
  | .clDelete req => [req]
  | .clLookup req => [req]
  | .cb3Commit req _ => [req]
  | .emGeomWrite req _ _ _ => [req]
  | .awlValid req _ => [req]
  | .swap req => [req]
  | .copy req => [req]
  | .ftInsert req => [req]
  | .ftDelete req => [req]
  | .ftLookup req => [req]
  | .readSlot req => [req]
  | .tableSeedWrite req _ _ => [req]
  | .lpmWrite req _ => [req]
  | .lpmFence req => [req]
  | .change req _ => [req]
  | .quiesce req _ => [req]
  | .bar0Access req _ _ _ _ => [req]
  | .fnAllocWrite req _ _ _ => [req]
  | .inval req _ => [req]
  | .ringEnable req _ => [req]
  | .ringDisable req _ => [req]
  | .eqCiWrite req _ _ => [req]
  | .eqEnable req _ => [req]
  | .eqDisable req _ => [req]
  | .iqDb req _ _ _ => [req]
  | .iqEnable req _ => [req]
  | .iqDisable req _ => [req]
  | .forceErr req _ => [req]
  | .pin req _ => [req]
  | .register req _ => [req]
  | .deregister req _ => [req]
  | .query req _ => [req]
  | .streamDisable req _ => [req]
  | .bankSwap req => [req]
  | .bankClear req => [req]
  | .skQuery req => [req]
  | .fabricPortEnable req _ => [req]
  | .rtEntryWrite req _ _ => [req]
  | .claim req _ => [req]
  | .release req _ => [req]
  | .mgTxDb req _ => [req]
  | .mgRxDb req _ => [req]
  | .mgCtrlEn req _ => [req]
  | .done req => [req]
  | .clRelease req _ => [req]
  | .svRelease req _ => [req]
  | .esClaim req _ => [req]
  | .esRelease req _ => [req]
  | .piOpp req _ _ => [req]
  | .huSwitch req => [req]
  | .huCommit req => [req]
  | .huRollback req => [req]
  | _ => []

/-- A well-formed command names only requesters that exist. -/
def Laws.F.Statement (i : Instr) : Prop := WellFormed.check i = true → ∀ r ∈ Laws.F.requesters i, r ≤ 4149

theorem Laws.F.registerWrite (req : Nat) (addr : Nat) (value : Nat) : Laws.F.Statement (.registerWrite req addr value) := by
  intro h r hr
  have h1 := of_decide_eq_true h
  have h2 : r = req := List.mem_singleton.mp hr
  omega

theorem Laws.F.counterLowRead (req : Nat) (addr : Nat) : Laws.F.Statement (.counterLowRead req addr) := by
  intro h r hr
  have h1 := of_decide_eq_true h
  have h2 : r = req := List.mem_singleton.mp hr
  omega

theorem Laws.F.rcRead (req : Nat) (addr : Nat) (landed : Nat) : Laws.F.Statement (.rcRead req addr landed) := by
  intro h r hr
  have h1 := of_decide_eq_true h
  have h2 : r = req := List.mem_singleton.mp hr
  omega

theorem Laws.F.etickLoRead (req : Nat) : Laws.F.Statement (.etickLoRead req) := by
  intro h r hr
  have h1 := of_decide_eq_true h
  have h2 : r = req := List.mem_singleton.mp hr
  omega

theorem Laws.F.eventTick : Laws.F.Statement .eventTick :=
  fun _ _ hr => absurd hr List.not_mem_nil

theorem Laws.F.valueLacingTransfer (src : Nat) (dst : Nat) (value : Nat) : Laws.F.Statement (.valueLacingTransfer src dst value) :=
  fun _ _ hr => absurd hr List.not_mem_nil

theorem Laws.F.eventLacingOccurrence (ch : Nat) : Laws.F.Statement (.eventLacingOccurrence ch) :=
  fun _ _ hr => absurd hr List.not_mem_nil

theorem Laws.F.grpResetRequest (req : Nat) (value : Nat) : Laws.F.Statement (.grpResetRequest req value) := by
  intro h r hr
  have h1 := of_decide_eq_true h
  have h2 : r = req := List.mem_singleton.mp hr
  omega

theorem Laws.F.rstcLock (req : Nat) : Laws.F.Statement (.rstcLock req) := by
  intro h r hr
  have h1 := of_decide_eq_true h
  have h2 : r = req := List.mem_singleton.mp hr
  omega

theorem Laws.F.groupResetStart (g : Nat) : Laws.F.Statement (.groupResetStart g) :=
  fun _ _ hr => absurd hr List.not_mem_nil

theorem Laws.F.groupResetDone (g : Nat) : Laws.F.Statement (.groupResetDone g) :=
  fun _ _ hr => absurd hr List.not_mem_nil

theorem Laws.F.perstAssert (link : Nat) : Laws.F.Statement (.perstAssert link) :=
  fun _ _ hr => absurd hr List.not_mem_nil

theorem Laws.F.perstDeassert (link : Nat) : Laws.F.Statement (.perstDeassert link) :=
  fun _ _ hr => absurd hr List.not_mem_nil

theorem Laws.F.hbmAccess (island : Nat) (addr : Nat) (write : Bool) (len : Nat) (data : Bytes) (ecc : Nat) : Laws.F.Statement (.hbmAccess island addr write len data ecc) :=
  fun _ _ hr => absurd hr List.not_mem_nil

theorem Laws.F.hbmScrub (addr : Nat) (ecc : Nat) : Laws.F.Statement (.hbmScrub addr ecc) :=
  fun _ _ hr => absurd hr List.not_mem_nil

theorem Laws.F.hbmLayoutRevert : Laws.F.Statement .hbmLayoutRevert :=
  fun _ _ hr => absurd hr List.not_mem_nil

theorem Laws.F.lgModeWrite (req : Nat) (g : Nat) (mode : Nat) : Laws.F.Statement (.lgModeWrite req g mode) := by
  intro h r hr
  have h1 := of_decide_eq_true h
  have h2 : r = req := List.mem_singleton.mp hr
  omega

theorem Laws.F.portEnable (req : Nat) (p : Nat) : Laws.F.Statement (.portEnable req p) := by
  intro h r hr
  have h1 := of_decide_eq_true h
  have h2 : r = req := List.mem_singleton.mp hr
  omega

theorem Laws.F.portDisable (req : Nat) (p : Nat) (rxBusy : Bool) : Laws.F.Statement (.portDisable req p rxBusy) := by
  intro h r hr
  have h1 := of_decide_eq_true h
  have h2 : r = req := List.mem_singleton.mp hr
  omega

theorem Laws.F.linkSignalLock (p : Nat) (eye : Nat) : Laws.F.Statement (.linkSignalLock p eye) :=
  fun _ _ hr => absurd hr List.not_mem_nil

theorem Laws.F.linkTrainDone (p : Nat) (pre : Nat) (main : Nat) (post : Nat) : Laws.F.Statement (.linkTrainDone p pre main post) :=
  fun _ _ hr => absurd hr List.not_mem_nil

theorem Laws.F.linkTrainFail (p : Nat) : Laws.F.Statement (.linkTrainFail p) :=
  fun _ _ hr => absurd hr List.not_mem_nil

theorem Laws.F.linkTrainTimeout (p : Nat) : Laws.F.Statement (.linkTrainTimeout p) :=
  fun _ _ hr => absurd hr List.not_mem_nil

theorem Laws.F.linkAlignLock (p : Nat) : Laws.F.Statement (.linkAlignLock p) :=
  fun _ _ hr => absurd hr List.not_mem_nil

theorem Laws.F.linkFault (p : Nat) (remote : Bool) (rxBusy : Bool) : Laws.F.Statement (.linkFault p remote rxBusy) :=
  fun _ _ hr => absurd hr List.not_mem_nil

theorem Laws.F.linkFaultClear (p : Nat) : Laws.F.Statement (.linkFaultClear p) :=
  fun _ _ hr => absurd hr List.not_mem_nil

theorem Laws.F.linkLockLoss (p : Nat) (hiBer : Bool) (rxBusy : Bool) : Laws.F.Statement (.linkLockLoss p hiBer rxBusy) :=
  fun _ _ hr => absurd hr List.not_mem_nil

theorem Laws.F.linkSignalLoss (p : Nat) (lane : Nat) (sig : Bool) (rxBusy : Bool) : Laws.F.Statement (.linkSignalLoss p lane sig rxBusy) :=
  fun _ _ hr => absurd hr List.not_mem_nil

theorem Laws.F.frameReceive (p : Nat) (raw : Bytes) (tDet : Nat) (e : Nat) (pos : Nat) (overflow : Bool) (off : Nat) (tEmit : Nat) (te : Nat) (tv : Nat) : Laws.F.Statement (.frameReceive p raw tDet e pos overflow off tEmit te tv) :=
  fun _ _ hr => absurd hr List.not_mem_nil

theorem Laws.F.macControlFrame (p : Nat) (pfc : Bool) (classes : Nat) (quanta : List Nat) : Laws.F.Statement (.macControlFrame p pfc classes quanta) :=
  fun _ _ hr => absurd hr List.not_mem_nil

theorem Laws.F.pfcPauseExpire (p : Nat) (c : Nat) : Laws.F.Statement (.pfcPauseExpire p c) :=
  fun _ _ hr => absurd hr List.not_mem_nil

theorem Laws.F.pfcXoff (p : Nat) (c : Nat) (occ : Nat) : Laws.F.Statement (.pfcXoff p c occ) :=
  fun _ _ hr => absurd hr List.not_mem_nil

theorem Laws.F.pfcRepeat (p : Nat) (c : Nat) (occ : Nat) : Laws.F.Statement (.pfcRepeat p c occ) :=
  fun _ _ hr => absurd hr List.not_mem_nil

theorem Laws.F.pfcXon (p : Nat) (c : Nat) (occ : Nat) : Laws.F.Statement (.pfcXon p c occ) :=
  fun _ _ hr => absurd hr List.not_mem_nil

theorem Laws.F.snap (req : Nat) (p : Nat) : Laws.F.Statement (.snap req p) := by
  intro h r hr
  have h1 := of_decide_eq_true h
  have h2 : r = req := List.mem_singleton.mp hr
  omega

theorem Laws.F.tbNowRead (req : Nat) (cycle : Nat) : Laws.F.Statement (.tbNowRead req cycle) := by
  intro h r hr
  have h1 := of_decide_eq_true h
  have h2 : r = req := List.mem_singleton.mp hr
  omega

theorem Laws.F.set (req : Nat) : Laws.F.Statement (.set req) := by
  intro h r hr
  have h1 := of_decide_eq_true h
  have h2 : r = req := List.mem_singleton.mp hr
  omega

theorem Laws.F.step (req : Nat) : Laws.F.Statement (.step req) := by
  intro h r hr
  have h1 := of_decide_eq_true h
  have h2 : r = req := List.mem_singleton.mp hr
  omega

theorem Laws.F.slew (req : Nat) : Laws.F.Statement (.slew req) := by
  intro h r hr
  have h1 := of_decide_eq_true h
  have h2 : r = req := List.mem_singleton.mp hr
  omega

theorem Laws.F.holdover (req : Nat) : Laws.F.Statement (.holdover req) := by
  intro h r hr
  have h1 := of_decide_eq_true h
  have h2 : r = req := List.mem_singleton.mp hr
  omega

theorem Laws.F.clearInteg (req : Nat) : Laws.F.Statement (.clearInteg req) := by
  intro h r hr
  have h1 := of_decide_eq_true h
  have h2 : r = req := List.mem_singleton.mp hr
  omega

theorem Laws.F.tbCtrlWrite (req : Nat) (value : Nat) : Laws.F.Statement (.tbCtrlWrite req value) := by
  intro h r hr
  have h1 := of_decide_eq_true h
  have h2 : r = req := List.mem_singleton.mp hr
  omega

theorem Laws.F.servoSample : Laws.F.Statement .servoSample :=
  fun _ _ hr => absurd hr List.not_mem_nil

theorem Laws.F.tbSwOffsetSubmit (req : Nat) (value : Nat) : Laws.F.Statement (.tbSwOffsetSubmit req value) := by
  intro h r hr
  have h1 := of_decide_eq_true h
  have h2 : r = req := List.mem_singleton.mp hr
  omega

theorem Laws.F.servoSourceLost : Laws.F.Statement .servoSourceLost :=
  fun _ _ hr => absurd hr List.not_mem_nil

theorem Laws.F.tbIncrCommit (req : Nat) (value : Nat) : Laws.F.Statement (.tbIncrCommit req value) := by
  intro h r hr
  have h1 := of_decide_eq_true h
  have h2 : r = req := List.mem_singleton.mp hr
  omega

theorem Laws.F.mgmtSpeedResolve (speed : Nat) : Laws.F.Statement (.mgmtSpeedResolve speed) :=
  fun _ _ hr => absurd hr List.not_mem_nil

theorem Laws.F.calUserWrite (req : Nat) (p : Nat) (which : Nat) (value : Nat) : Laws.F.Statement (.calUserWrite req p which value) := by
  intro h r hr
  have h1 := of_decide_eq_true h
  have h2 : r = req := List.mem_singleton.mp hr
  omega

theorem Laws.F.triggerArm (req : Nat) (n : Nat) : Laws.F.Statement (.triggerArm req n) := by
  intro h r hr
  have h1 := of_decide_eq_true h
  have h2 : r = req := List.mem_singleton.mp hr
  omega

theorem Laws.F.triggerDisarm (req : Nat) (n : Nat) : Laws.F.Statement (.triggerDisarm req n) := by
  intro h r hr
  have h1 := of_decide_eq_true h
  have h2 : r = req := List.mem_singleton.mp hr
  omega

theorem Laws.F.triggerFire (n : Nat) : Laws.F.Statement (.triggerFire n) :=
  fun _ _ hr => absurd hr List.not_mem_nil

theorem Laws.F.triggerLateFire (n : Nat) : Laws.F.Statement (.triggerLateFire n) :=
  fun _ _ hr => absurd hr List.not_mem_nil

theorem Laws.F.trigOutPulseEnd (n : Nat) : Laws.F.Statement (.trigOutPulseEnd n) :=
  fun _ _ hr => absurd hr List.not_mem_nil

theorem Laws.F.ppsOutSecond : Laws.F.Statement .ppsOutSecond :=
  fun _ _ hr => absurd hr List.not_mem_nil

theorem Laws.F.ppsOutPulseEnd : Laws.F.Statement .ppsOutPulseEnd :=
  fun _ _ hr => absurd hr List.not_mem_nil

theorem Laws.F.tsInCapture (n : Nat) (rising : Bool) (cycle : Nat) (sub : Nat) : Laws.F.Statement (.tsInCapture n rising cycle sub) :=
  fun _ _ hr => absurd hr List.not_mem_nil

theorem Laws.F.ppsInEdge (rising : Bool) (cycle : Nat) (sub : Nat) : Laws.F.Statement (.ppsInEdge rising cycle sub) :=
  fun _ _ hr => absurd hr List.not_mem_nil

theorem Laws.F.tsHeadPop (req : Nat) (c : Nat) : Laws.F.Statement (.tsHeadPop req c) := by
  intro h r hr
  have h1 := of_decide_eq_true h
  have h2 : r = req := List.mem_singleton.mp hr
  omega

theorem Laws.F.enrolment (p : Nat) : Laws.F.Statement (.enrolment p) :=
  fun _ _ hr => absurd hr List.not_mem_nil

theorem Laws.F.seqTickClose : Laws.F.Statement .seqTickClose :=
  fun _ _ hr => absurd hr List.not_mem_nil

theorem Laws.F.seqSourceStall : Laws.F.Statement .seqSourceStall :=
  fun _ _ hr => absurd hr List.not_mem_nil

theorem Laws.F.start (req : Nat) : Laws.F.Statement (.start req) := by
  intro h r hr
  have h1 := of_decide_eq_true h
  have h2 : r = req := List.mem_singleton.mp hr
  omega

theorem Laws.F.stop (req : Nat) : Laws.F.Statement (.stop req) := by
  intro h r hr
  have h1 := of_decide_eq_true h
  have h2 : r = req := List.mem_singleton.mp hr
  omega

theorem Laws.F.seqSummaryResend (t : Nat) : Laws.F.Statement (.seqSummaryResend t) :=
  fun _ _ hr => absurd hr List.not_mem_nil

theorem Laws.F.seqSummary (payload : Bytes) : Laws.F.Statement (.seqSummary payload) :=
  fun _ _ hr => absurd hr List.not_mem_nil

theorem Laws.F.seqClTimeout : Laws.F.Statement .seqClTimeout :=
  fun _ _ hr => absurd hr List.not_mem_nil

theorem Laws.F.seqReply (payload : Bytes) : Laws.F.Statement (.seqReply payload) :=
  fun _ _ hr => absurd hr List.not_mem_nil

theorem Laws.F.clusterLost : Laws.F.Statement .clusterLost :=
  fun _ _ hr => absurd hr List.not_mem_nil

theorem Laws.F.journalRecord : Laws.F.Statement .journalRecord :=
  fun _ _ hr => absurd hr List.not_mem_nil

theorem Laws.F.sealPeriod : Laws.F.Statement .sealPeriod :=
  fun _ _ hr => absurd hr List.not_mem_nil

theorem Laws.F.sealSigned (readBack : Bool) : Laws.F.Statement (.sealSigned readBack) :=
  fun _ _ hr => absurd hr List.not_mem_nil

theorem Laws.F.journalSpaceReturn : Laws.F.Statement .journalSpaceReturn :=
  fun _ _ hr => absurd hr List.not_mem_nil

theorem Laws.F.hideRebuild : Laws.F.Statement .hideRebuild :=
  fun _ _ hr => absurd hr List.not_mem_nil

theorem Laws.F.drainSegmentAck : Laws.F.Statement .drainSegmentAck :=
  fun _ _ hr => absurd hr List.not_mem_nil

theorem Laws.F.clInsert (req : Nat) : Laws.F.Statement (.clInsert req) := by
  intro h r hr
  have h1 := of_decide_eq_true h
  have h2 : r = req := List.mem_singleton.mp hr
  omega

theorem Laws.F.clDelete (req : Nat) : Laws.F.Statement (.clDelete req) := by
  intro h r hr
  have h1 := of_decide_eq_true h
  have h2 : r = req := List.mem_singleton.mp hr
  omega

theorem Laws.F.clLookup (req : Nat) : Laws.F.Statement (.clLookup req) := by
  intro h r hr
  have h1 := of_decide_eq_true h
  have h2 : r = req := List.mem_singleton.mp hr
  omega

theorem Laws.F.cb3Commit (req : Nat) (value : Nat) : Laws.F.Statement (.cb3Commit req value) := by
  intro h r hr
  have h1 := of_decide_eq_true h
  have h2 : r = req := List.mem_singleton.mp hr
  omega

theorem Laws.F.emGeomWrite (req : Nat) (t : Nat) (seed : Bool) (value : Nat) : Laws.F.Statement (.emGeomWrite req t seed value) := by
  intro h r hr
  have h1 := of_decide_eq_true h
  have h2 : r = req := List.mem_singleton.mp hr
  omega

theorem Laws.F.awlValid (req : Nat) (value : Nat) : Laws.F.Statement (.awlValid req value) := by
  intro h r hr
  have h1 := of_decide_eq_true h
  have h2 : r = req := List.mem_singleton.mp hr
  omega

theorem Laws.F.swap (req : Nat) : Laws.F.Statement (.swap req) := by
  intro h r hr
  have h1 := of_decide_eq_true h
  have h2 : r = req := List.mem_singleton.mp hr
  omega

theorem Laws.F.oldBusyClear : Laws.F.Statement .oldBusyClear :=
  fun _ _ hr => absurd hr List.not_mem_nil

theorem Laws.F.copy (req : Nat) : Laws.F.Statement (.copy req) := by
  intro h r hr
  have h1 := of_decide_eq_true h
  have h2 : r = req := List.mem_singleton.mp hr
  omega

theorem Laws.F.copyDone : Laws.F.Statement .copyDone :=
  fun _ _ hr => absurd hr List.not_mem_nil

theorem Laws.F.ftInsert (req : Nat) : Laws.F.Statement (.ftInsert req) := by
  intro h r hr
  have h1 := of_decide_eq_true h
  have h2 : r = req := List.mem_singleton.mp hr
  omega

theorem Laws.F.ftDelete (req : Nat) : Laws.F.Statement (.ftDelete req) := by
  intro h r hr
  have h1 := of_decide_eq_true h
  have h2 : r = req := List.mem_singleton.mp hr
  omega

theorem Laws.F.ftLookup (req : Nat) : Laws.F.Statement (.ftLookup req) := by
  intro h r hr
  have h1 := of_decide_eq_true h
  have h2 : r = req := List.mem_singleton.mp hr
  omega

theorem Laws.F.readSlot (req : Nat) : Laws.F.Statement (.readSlot req) := by
  intro h r hr
  have h1 := of_decide_eq_true h
  have h2 : r = req := List.mem_singleton.mp hr
  omega

theorem Laws.F.tableSeedWrite (req : Nat) (mac : Bool) (value : Nat) : Laws.F.Statement (.tableSeedWrite req mac value) := by
  intro h r hr
  have h1 := of_decide_eq_true h
  have h2 : r = req := List.mem_singleton.mp hr
  omega

theorem Laws.F.tableReady (mac : Bool) : Laws.F.Statement (.tableReady mac) :=
  fun _ _ hr => absurd hr List.not_mem_nil

theorem Laws.F.macLearnApply : Laws.F.Statement .macLearnApply :=
  fun _ _ hr => absurd hr List.not_mem_nil

theorem Laws.F.flowLearnApply : Laws.F.Statement .flowLearnApply :=
  fun _ _ hr => absurd hr List.not_mem_nil

theorem Laws.F.burnisherVisit (mac : Bool) (slot : Nat) : Laws.F.Statement (.burnisherVisit mac slot) :=
  fun _ _ hr => absurd hr List.not_mem_nil

theorem Laws.F.lpmWrite (req : Nat) (hi : Nat) : Laws.F.Statement (.lpmWrite req hi) := by
  intro h r hr
  have h1 := of_decide_eq_true h
  have h2 : r = req := List.mem_singleton.mp hr
  omega

theorem Laws.F.lpmFence (req : Nat) : Laws.F.Statement (.lpmFence req) := by
  intro h r hr
  have h1 := of_decide_eq_true h
  have h2 : r = req := List.mem_singleton.mp hr
  omega

theorem Laws.F.frameStart (p : Nat) (off : Nat) (tEmit : Nat) (e : Nat) (v : Nat) : Laws.F.Statement (.frameStart p off tEmit e v) :=
  fun _ _ hr => absurd hr List.not_mem_nil

theorem Laws.F.gateCycleStart (p : Nat) : Laws.F.Statement (.gateCycleStart p) :=
  fun _ _ hr => absurd hr List.not_mem_nil

theorem Laws.F.gateEntryEdge (p : Nat) : Laws.F.Statement (.gateEntryEdge p) :=
  fun _ _ hr => absurd hr List.not_mem_nil

theorem Laws.F.change (req : Nat) (p : Nat) : Laws.F.Statement (.change req p) := by
  intro h r hr
  have h1 := of_decide_eq_true h
  have h2 : r = req := List.mem_singleton.mp hr
  omega

theorem Laws.F.gateListSwitch (p : Nat) : Laws.F.Statement (.gateListSwitch p) :=
  fun _ _ hr => absurd hr List.not_mem_nil

theorem Laws.F.releaseGroupAligned (p : Nat) : Laws.F.Statement (.releaseGroupAligned p) :=
  fun _ _ hr => absurd hr List.not_mem_nil

theorem Laws.F.launchDue (p : Nat) (off : Nat) (tEmit : Nat) (e : Nat) (v : Nat) (moved : Bool) : Laws.F.Statement (.launchDue p off tEmit e v moved) :=
  fun _ _ hr => absurd hr List.not_mem_nil

theorem Laws.F.flr (fn : Nat) : Laws.F.Statement (.flr fn) :=
  fun _ _ hr => absurd hr List.not_mem_nil

theorem Laws.F.vfEnableClear (pf : Nat) : Laws.F.Statement (.vfEnableClear pf) :=
  fun _ _ hr => absurd hr List.not_mem_nil

theorem Laws.F.bmeClear (fn : Nat) : Laws.F.Statement (.bmeClear fn) :=
  fun _ _ hr => absurd hr List.not_mem_nil

theorem Laws.F.linkReset (link : Nat) (kind : Nat) : Laws.F.Statement (.linkReset link kind) :=
  fun _ _ hr => absurd hr List.not_mem_nil

theorem Laws.F.d3hotEntry (fn : Nat) : Laws.F.Statement (.d3hotEntry fn) :=
  fun _ _ hr => absurd hr List.not_mem_nil

theorem Laws.F.quiesce (req : Nat) (fn : Nat) : Laws.F.Statement (.quiesce req fn) := by
  intro h r hr
  have h1 := of_decide_eq_true h
  have h2 : r = req := List.mem_singleton.mp hr
  omega

theorem Laws.F.readTagRetire (id : Nat) : Laws.F.Statement (.readTagRetire id) :=
  fun _ _ hr => absurd hr List.not_mem_nil

theorem Laws.F.functionIdle (fn : Nat) : Laws.F.Statement (.functionIdle fn) :=
  fun _ _ hr => absurd hr List.not_mem_nil

theorem Laws.F.functionReturn (fn : Nat) : Laws.F.Statement (.functionReturn fn) :=
  fun _ _ hr => absurd hr List.not_mem_nil

theorem Laws.F.bar0Access (req : Nat) (addr : Nat) (len : Nat) (write : Bool) (value : Nat) : Laws.F.Statement (.bar0Access req addr len write value) := by
  intro h r hr
  have h1 := of_decide_eq_true h
  have h2 : r = req := List.mem_singleton.mp hr
  omega

theorem Laws.F.configRequest (fn : Nat) (op : ConfigOp) : Laws.F.Statement (.configRequest fn op) :=
  fun _ _ hr => absurd hr List.not_mem_nil

theorem Laws.F.msixUnmask (fn : Nat) (entry : Option (Nat × Bytes)) : Laws.F.Statement (.msixUnmask fn entry) :=
  fun _ _ hr => absurd hr List.not_mem_nil

theorem Laws.F.fnAllocWrite (req : Nat) (fn : Nat) (i : Nat) (value : Nat) : Laws.F.Statement (.fnAllocWrite req fn i value) := by
  intro h r hr
  have h1 := of_decide_eq_true h
  have h2 : r = req := List.mem_singleton.mp hr
  omega

theorem Laws.F.ringDoorbell (fn : Nat) (loc : Nat) (value : Nat) : Laws.F.Statement (.ringDoorbell fn loc value) :=
  fun _ _ hr => absurd hr List.not_mem_nil

theorem Laws.F.inval (req : Nat) (r : Nat) : Laws.F.Statement (.inval req r) := by
  intro h r hr
  have h1 := of_decide_eq_true h
  have h2 : r = req := List.mem_singleton.mp hr
  omega

theorem Laws.F.descriptorFetch (kind : Nat) (r : Nat) (i : Nat) (ok : Bool) (data : Bytes) : Laws.F.Statement (.descriptorFetch kind r i ok data) :=
  fun _ _ hr => absurd hr List.not_mem_nil

theorem Laws.F.txJobStart (r : Nat) : Laws.F.Statement (.txJobStart r) :=
  fun _ _ hr => absurd hr List.not_mem_nil

theorem Laws.F.txJobComplete : Laws.F.Statement .txJobComplete :=
  fun _ _ hr => absurd hr List.not_mem_nil

theorem Laws.F.rxDeliver (r : Nat) : Laws.F.Statement (.rxDeliver r) :=
  fun _ _ hr => absurd hr List.not_mem_nil

theorem Laws.F.drainDeliver (st : Option Nat) : Laws.F.Statement (.drainDeliver st) :=
  fun _ _ hr => absurd hr List.not_mem_nil

theorem Laws.F.waitStart (r : Nat) : Laws.F.Statement (.waitStart r) :=
  fun _ _ hr => absurd hr List.not_mem_nil

theorem Laws.F.waitSatisfied (r : Nat) (sq : Bool) : Laws.F.Statement (.waitSatisfied r sq) :=
  fun _ _ hr => absurd hr List.not_mem_nil

theorem Laws.F.waitTimeout (r : Nat) (sq : Bool) : Laws.F.Statement (.waitTimeout r sq) :=
  fun _ _ hr => absurd hr List.not_mem_nil

theorem Laws.F.ringEnable (req : Nat) (r : Nat) : Laws.F.Statement (.ringEnable req r) := by
  intro h r hr
  have h1 := of_decide_eq_true h
  have h2 : r = req := List.mem_singleton.mp hr
  omega

theorem Laws.F.ringDisable (req : Nat) (r : Nat) : Laws.F.Statement (.ringDisable req r) := by
  intro h r hr
  have h1 := of_decide_eq_true h
  have h2 : r = req := List.mem_singleton.mp hr
  omega

theorem Laws.F.ringIdle (r : Nat) : Laws.F.Statement (.ringIdle r) :=
  fun _ _ hr => absurd hr List.not_mem_nil

theorem Laws.F.eqCiWrite (req : Nat) (q : Nat) (value : Nat) : Laws.F.Statement (.eqCiWrite req q value) := by
  intro h r hr
  have h1 := of_decide_eq_true h
  have h2 : r = req := List.mem_singleton.mp hr
  omega

theorem Laws.F.eqModTimer (q : Nat) : Laws.F.Statement (.eqModTimer q) :=
  fun _ _ hr => absurd hr List.not_mem_nil

theorem Laws.F.eqEnable (req : Nat) (q : Nat) : Laws.F.Statement (.eqEnable req q) := by
  intro h r hr
  have h1 := of_decide_eq_true h
  have h2 : r = req := List.mem_singleton.mp hr
  omega

theorem Laws.F.eqDisable (req : Nat) (q : Nat) : Laws.F.Statement (.eqDisable req q) := by
  intro h r hr
  have h1 := of_decide_eq_true h
  have h2 : r = req := List.mem_singleton.mp hr
  omega

theorem Laws.F.iraWrite : Laws.F.Statement .iraWrite :=
  fun _ _ hr => absurd hr List.not_mem_nil

theorem Laws.F.iraWriteImm : Laws.F.Statement .iraWriteImm :=
  fun _ _ hr => absurd hr List.not_mem_nil

theorem Laws.F.iraSend : Laws.F.Statement .iraSend :=
  fun _ _ hr => absurd hr List.not_mem_nil

theorem Laws.F.readReq : Laws.F.Statement .readReq :=
  fun _ _ hr => absurd hr List.not_mem_nil

theorem Laws.F.readResp : Laws.F.Statement .readResp :=
  fun _ _ hr => absurd hr List.not_mem_nil

theorem Laws.F.fetchAdd : Laws.F.Statement .fetchAdd :=
  fun _ _ hr => absurd hr List.not_mem_nil

theorem Laws.F.cmpSwap : Laws.F.Statement .cmpSwap :=
  fun _ _ hr => absurd hr List.not_mem_nil

theorem Laws.F.atomicResp : Laws.F.Statement .atomicResp :=
  fun _ _ hr => absurd hr List.not_mem_nil

theorem Laws.F.ack : Laws.F.Statement .ack :=
  fun _ _ hr => absurd hr List.not_mem_nil

theorem Laws.F.nak : Laws.F.Statement .nak :=
  fun _ _ hr => absurd hr List.not_mem_nil

theorem Laws.F.credit : Laws.F.Statement .credit :=
  fun _ _ hr => absurd hr List.not_mem_nil

theorem Laws.F.iqDb (req : Nat) (view : Bool) (lo : Option Nat) (hi : Nat) : Laws.F.Statement (.iqDb req view lo hi) := by
  intro h r hr
  have h1 := of_decide_eq_true (Bool.and_eq_true _ _ ▸ h).1
  have h2 : r = req := List.mem_singleton.mp hr
  omega

theorem Laws.F.sqWrite (q : Nat) : Laws.F.Statement (.sqWrite q) :=
  fun _ _ hr => absurd hr List.not_mem_nil

theorem Laws.F.sqWriteImm (q : Nat) : Laws.F.Statement (.sqWriteImm q) :=
  fun _ _ hr => absurd hr List.not_mem_nil

theorem Laws.F.sqRead (q : Nat) : Laws.F.Statement (.sqRead q) :=
  fun _ _ hr => absurd hr List.not_mem_nil

theorem Laws.F.sqSend (q : Nat) : Laws.F.Statement (.sqSend q) :=
  fun _ _ hr => absurd hr List.not_mem_nil

theorem Laws.F.sqFetchAdd (q : Nat) : Laws.F.Statement (.sqFetchAdd q) :=
  fun _ _ hr => absurd hr List.not_mem_nil

theorem Laws.F.sqCmpSwap (q : Nat) : Laws.F.Statement (.sqCmpSwap q) :=
  fun _ _ hr => absurd hr List.not_mem_nil

theorem Laws.F.sqWait (q : Nat) : Laws.F.Statement (.sqWait q) :=
  fun _ _ hr => absurd hr List.not_mem_nil

theorem Laws.F.iqEnable (req : Nat) (q : Nat) : Laws.F.Statement (.iqEnable req q) := by
  intro h r hr
  have h1 := of_decide_eq_true h
  have h2 : r = req := List.mem_singleton.mp hr
  omega

theorem Laws.F.iqDisable (req : Nat) (q : Nat) : Laws.F.Statement (.iqDisable req q) := by
  intro h r hr
  have h1 := of_decide_eq_true h
  have h2 : r = req := List.mem_singleton.mp hr
  omega

theorem Laws.F.forceErr (req : Nat) (q : Nat) : Laws.F.Statement (.forceErr req q) := by
  intro h r hr
  have h1 := of_decide_eq_true h
  have h2 : r = req := List.mem_singleton.mp hr
  omega

theorem Laws.F.pin (req : Nat) (q : Nat) : Laws.F.Statement (.pin req q) := by
  intro h r hr
  have h1 := of_decide_eq_true h
  have h2 : r = req := List.mem_singleton.mp hr
  omega

theorem Laws.F.contextFetchDone (q : Nat) : Laws.F.Statement (.contextFetchDone q) :=
  fun _ _ hr => absurd hr List.not_mem_nil

theorem Laws.F.iraRtoExpire (q : Nat) (psn : Nat) : Laws.F.Statement (.iraRtoExpire q psn) :=
  fun _ _ hr => absurd hr List.not_mem_nil

theorem Laws.F.iraRnrDelay (q : Nat) (psn : Nat) : Laws.F.Statement (.iraRnrDelay q psn) :=
  fun _ _ hr => absurd hr List.not_mem_nil

theorem Laws.F.iraNakDelay (q : Nat) : Laws.F.Statement (.iraNakDelay q) :=
  fun _ _ hr => absurd hr List.not_mem_nil

theorem Laws.F.iraAckDelay (q : Nat) : Laws.F.Statement (.iraAckDelay q) :=
  fun _ _ hr => absurd hr List.not_mem_nil

theorem Laws.F.iraCreditTimer (q : Nat) : Laws.F.Statement (.iraCreditTimer q) :=
  fun _ _ hr => absurd hr List.not_mem_nil

theorem Laws.F.pathDegradeEnd (q : Nat) (path : Nat) : Laws.F.Statement (.pathDegradeEnd q path) :=
  fun _ _ hr => absurd hr List.not_mem_nil

theorem Laws.F.register (req : Nat) (view : Bool) : Laws.F.Statement (.register req view) := by
  intro h r hr
  have h1 := of_decide_eq_true h
  have h2 : r = req := List.mem_singleton.mp hr
  omega

theorem Laws.F.deregister (req : Nat) (view : Bool) : Laws.F.Statement (.deregister req view) := by
  intro h r hr
  have h1 := of_decide_eq_true h
  have h2 : r = req := List.mem_singleton.mp hr
  omega

theorem Laws.F.query (req : Nat) (view : Bool) : Laws.F.Statement (.query req view) := by
  intro h r hr
  have h1 := of_decide_eq_true h
  have h2 : r = req := List.mem_singleton.mp hr
  omega

theorem Laws.F.nvmeSqDoorbell (c : Nat) (q : Nat) (tail : Nat) : Laws.F.Statement (.nvmeSqDoorbell c q tail) :=
  fun _ _ hr => absurd hr List.not_mem_nil

theorem Laws.F.nvmeCqDoorbell (c : Nat) (q : Nat) (head : Nat) : Laws.F.Statement (.nvmeCqDoorbell c q head) :=
  fun _ _ hr => absurd hr List.not_mem_nil

theorem Laws.F.createIoSq (c : Nat) : Laws.F.Statement (.createIoSq c) :=
  fun _ _ hr => absurd hr List.not_mem_nil

theorem Laws.F.createIoCq (c : Nat) : Laws.F.Statement (.createIoCq c) :=
  fun _ _ hr => absurd hr List.not_mem_nil

theorem Laws.F.deleteIoSq (c : Nat) : Laws.F.Statement (.deleteIoSq c) :=
  fun _ _ hr => absurd hr List.not_mem_nil

theorem Laws.F.deleteIoCq (c : Nat) : Laws.F.Statement (.deleteIoCq c) :=
  fun _ _ hr => absurd hr List.not_mem_nil

theorem Laws.F.getLogPage (c : Nat) : Laws.F.Statement (.getLogPage c) :=
  fun _ _ hr => absurd hr List.not_mem_nil

theorem Laws.F.identify (c : Nat) : Laws.F.Statement (.identify c) :=
  fun _ _ hr => absurd hr List.not_mem_nil

theorem Laws.F.abort (c : Nat) : Laws.F.Statement (.abort c) :=
  fun _ _ hr => absurd hr List.not_mem_nil

theorem Laws.F.setFeatures (c : Nat) : Laws.F.Statement (.setFeatures c) :=
  fun _ _ hr => absurd hr List.not_mem_nil

theorem Laws.F.getFeatures (c : Nat) : Laws.F.Statement (.getFeatures c) :=
  fun _ _ hr => absurd hr List.not_mem_nil

theorem Laws.F.asynchronousEventRequest (c : Nat) : Laws.F.Statement (.asynchronousEventRequest c) :=
  fun _ _ hr => absurd hr List.not_mem_nil

theorem Laws.F.nvmeRead (c : Nat) : Laws.F.Statement (.nvmeRead c) :=
  fun _ _ hr => absurd hr List.not_mem_nil

theorem Laws.F.nvmeWrite (c : Nat) : Laws.F.Statement (.nvmeWrite c) :=
  fun _ _ hr => absurd hr List.not_mem_nil

theorem Laws.F.flush (c : Nat) : Laws.F.Statement (.flush c) :=
  fun _ _ hr => absurd hr List.not_mem_nil

theorem Laws.F.writeZeroes (c : Nat) : Laws.F.Statement (.writeZeroes c) :=
  fun _ _ hr => absurd hr List.not_mem_nil

theorem Laws.F.datasetManagement (c : Nat) : Laws.F.Statement (.datasetManagement c) :=
  fun _ _ hr => absurd hr List.not_mem_nil

theorem Laws.F.invalidCommandOpcode (c : Nat) : Laws.F.Statement (.invalidCommandOpcode c) :=
  fun _ _ hr => absurd hr List.not_mem_nil

theorem Laws.F.controllerReset (c : Nat) : Laws.F.Statement (.controllerReset c) :=
  fun _ _ hr => absurd hr List.not_mem_nil

theorem Laws.F.shutdownNotification (c : Nat) (shn : Nat) : Laws.F.Statement (.shutdownNotification c shn) :=
  fun _ _ hr => absurd hr List.not_mem_nil

theorem Laws.F.destage : Laws.F.Statement .destage :=
  fun _ _ hr => absurd hr List.not_mem_nil

theorem Laws.F.backendCompletion (id : Nat) (ok : Bool) (data : Bytes) : Laws.F.Statement (.backendCompletion id ok data) :=
  fun _ _ hr => absurd hr List.not_mem_nil

theorem Laws.F.destageRetry (b : Nat) : Laws.F.Statement (.destageRetry b) :=
  fun _ _ hr => absurd hr List.not_mem_nil

theorem Laws.F.dsLinkDown (link : Nat) (cfs : Bool) (backends : List Nat) : Laws.F.Statement (.dsLinkDown link cfs backends) :=
  fun _ _ hr => absurd hr List.not_mem_nil

theorem Laws.F.nsMapDone : Laws.F.Statement .nsMapDone :=
  fun _ _ hr => absurd hr List.not_mem_nil

theorem Laws.F.nsDrainReset : Laws.F.Statement .nsDrainReset :=
  fun _ _ hr => absurd hr List.not_mem_nil

theorem Laws.F.pwrFail : Laws.F.Statement .pwrFail :=
  fun _ _ hr => absurd hr List.not_mem_nil

theorem Laws.F.pfDone (vaulted : Bool) (ms : Nat) : Laws.F.Statement (.pfDone vaulted ms) :=
  fun _ _ hr => absurd hr List.not_mem_nil

theorem Laws.F.vaultRestore : Laws.F.Statement .vaultRestore :=
  fun _ _ hr => absurd hr List.not_mem_nil

theorem Laws.F.extentCopyDone : Laws.F.Statement .extentCopyDone :=
  fun _ _ hr => absurd hr List.not_mem_nil

theorem Laws.F.lossRecord (st : Nat) : Laws.F.Statement (.lossRecord st) :=
  fun _ _ hr => absurd hr List.not_mem_nil

theorem Laws.F.chunkFlush (st : Nat) : Laws.F.Statement (.chunkFlush st) :=
  fun _ _ hr => absurd hr List.not_mem_nil

theorem Laws.F.skiverCompress : Laws.F.Statement .skiverCompress :=
  fun _ _ hr => absurd hr List.not_mem_nil

theorem Laws.F.captureSegmentDrain (st : Nat) : Laws.F.Statement (.captureSegmentDrain st) :=
  fun _ _ hr => absurd hr List.not_mem_nil

theorem Laws.F.streamDisable (req : Nat) (st : Nat) : Laws.F.Statement (.streamDisable req st) := by
  intro h r hr
  have h1 := of_decide_eq_true h
  have h2 : r = req := List.mem_singleton.mp hr
  omega

theorem Laws.F.bankSwap (req : Nat) : Laws.F.Statement (.bankSwap req) := by
  intro h r hr
  have h1 := of_decide_eq_true h
  have h2 : r = req := List.mem_singleton.mp hr
  omega

theorem Laws.F.bankClear (req : Nat) : Laws.F.Statement (.bankClear req) := by
  intro h r hr
  have h1 := of_decide_eq_true h
  have h2 : r = req := List.mem_singleton.mp hr
  omega

theorem Laws.F.skQuery (req : Nat) : Laws.F.Statement (.skQuery req) := by
  intro h r hr
  have h1 := of_decide_eq_true h
  have h2 : r = req := List.mem_singleton.mp hr
  omega

theorem Laws.F.flowClear (first : Nat) (count : Nat) : Laws.F.Statement (.flowClear first count) :=
  fun _ _ hr => absurd hr List.not_mem_nil

theorem Laws.F.fabricPortEnable (req : Nat) (p : Nat) : Laws.F.Statement (.fabricPortEnable req p) := by
  intro h r hr
  have h1 := of_decide_eq_true h
  have h2 : r = req := List.mem_singleton.mp hr
  omega

theorem Laws.F.fabricTrainDone (p : Nat) : Laws.F.Statement (.fabricTrainDone p) :=
  fun _ _ hr => absurd hr List.not_mem_nil

theorem Laws.F.fabricLockLoss (p : Nat) : Laws.F.Statement (.fabricLockLoss p) :=
  fun _ _ hr => absurd hr List.not_mem_nil

theorem Laws.F.hello (p : Nat) (payload : Bytes) (acked : Bool) : Laws.F.Statement (.hello p payload acked) :=
  fun _ _ hr => absurd hr List.not_mem_nil

theorem Laws.F.helloPeriod (p : Nat) : Laws.F.Statement (.helloPeriod p) :=
  fun _ _ hr => absurd hr List.not_mem_nil

theorem Laws.F.helloTimeout (p : Nat) : Laws.F.Statement (.helloTimeout p) :=
  fun _ _ hr => absurd hr List.not_mem_nil

theorem Laws.F.fabricFrameReceive (p : Nat) (raw : Bytes) : Laws.F.Statement (.fabricFrameReceive p raw) :=
  fun _ _ hr => absurd hr List.not_mem_nil

theorem Laws.F.lsa (p : Nat) (payload : Bytes) : Laws.F.Statement (.lsa p payload) :=
  fun _ _ hr => absurd hr List.not_mem_nil

theorem Laws.F.lsaOriginate : Laws.F.Statement .lsaOriginate :=
  fun _ _ hr => absurd hr List.not_mem_nil

theorem Laws.F.lsaExpire : Laws.F.Statement .lsaExpire :=
  fun _ _ hr => absurd hr List.not_mem_nil

theorem Laws.F.addr (p : Nat) (uid : Nat) (addr : Nat) : Laws.F.Statement (.addr p uid addr) :=
  fun _ _ hr => absurd hr List.not_mem_nil

theorem Laws.F.tc7Resend (p : Nat) : Laws.F.Statement (.tc7Resend p) :=
  fun _ _ hr => absurd hr List.not_mem_nil

theorem Laws.F.fabricAck (p : Nat) (lseq : Nat) : Laws.F.Statement (.fabricAck p lseq) :=
  fun _ _ hr => absurd hr List.not_mem_nil

theorem Laws.F.routeInstall : Laws.F.Statement .routeInstall :=
  fun _ _ hr => absurd hr List.not_mem_nil

theorem Laws.F.rtEntryWrite (req : Nat) (a : Nat) (mask : Nat) : Laws.F.Statement (.rtEntryWrite req a mask) := by
  intro h r hr
  have h1 := of_decide_eq_true h
  have h2 : r = req := List.mem_singleton.mp hr
  omega

theorem Laws.F.syncPeriod (emits : List Nat) (te : Nat) (tv : Nat) : Laws.F.Statement (.syncPeriod emits te tv) :=
  fun _ _ hr => absurd hr List.not_mem_nil

theorem Laws.F.sync (p : Nat) (payload : Bytes) (tDet : Nat) (e : Nat) (pos : Nat) (tEmit : Nat) (te : Nat) (tv : Nat) : Laws.F.Statement (.sync p payload tDet e pos tEmit te tv) :=
  fun _ _ hr => absurd hr List.not_mem_nil

theorem Laws.F.delay (p : Nat) (payload : Bytes) (tDet : Nat) (e : Nat) (pos : Nat) : Laws.F.Statement (.delay p payload tDet e pos) :=
  fun _ _ hr => absurd hr List.not_mem_nil

theorem Laws.F.reply (p : Nat) (payload : Bytes) : Laws.F.Statement (.reply p payload) :=
  fun _ _ hr => absurd hr List.not_mem_nil

theorem Laws.F.objReq : Laws.F.Statement .objReq :=
  fun _ _ hr => absurd hr List.not_mem_nil

theorem Laws.F.objResp : Laws.F.Statement .objResp :=
  fun _ _ hr => absurd hr List.not_mem_nil

theorem Laws.F.sopProxyTimeout : Laws.F.Statement .sopProxyTimeout :=
  fun _ _ hr => absurd hr List.not_mem_nil

theorem Laws.F.read : Laws.F.Statement .read :=
  fun _ _ hr => absurd hr List.not_mem_nil

theorem Laws.F.write : Laws.F.Statement .write :=
  fun _ _ hr => absurd hr List.not_mem_nil

theorem Laws.F.readSeg : Laws.F.Statement .readSeg :=
  fun _ _ hr => absurd hr List.not_mem_nil

theorem Laws.F.writeSeg : Laws.F.Statement .writeSeg :=
  fun _ _ hr => absurd hr List.not_mem_nil

theorem Laws.F.transferAbandon (idx : Nat) (sub : Nat) : Laws.F.Statement (.transferAbandon idx sub) :=
  fun _ _ hr => absurd hr List.not_mem_nil

theorem Laws.F.claim (req : Nat) (m : Nat) : Laws.F.Statement (.claim req m) := by
  intro h r hr
  have h1 := of_decide_eq_true h
  have h2 : r = req := List.mem_singleton.mp hr
  omega

theorem Laws.F.release (req : Nat) (m : Nat) : Laws.F.Statement (.release req m) := by
  intro h r hr
  have h1 := of_decide_eq_true h
  have h2 : r = req := List.mem_singleton.mp hr
  omega

theorem Laws.F.restoreDefaults : Laws.F.Statement .restoreDefaults :=
  fun _ _ hr => absurd hr List.not_mem_nil

theorem Laws.F.fwImage (who : Nat) (off : Nat) (data : Bytes) (last : Bool) : Laws.F.Statement (.fwImage who off data last) :=
  fun _ _ hr => absurd hr List.not_mem_nil

theorem Laws.F.flashEraseDone : Laws.F.Statement .flashEraseDone :=
  fun _ _ hr => absurd hr List.not_mem_nil

theorem Laws.F.fwVerify : Laws.F.Statement .fwVerify :=
  fun _ _ hr => absurd hr List.not_mem_nil

theorem Laws.F.fwPromote : Laws.F.Statement .fwPromote :=
  fun _ _ hr => absurd hr List.not_mem_nil

theorem Laws.F.fwHitless : Laws.F.Statement .fwHitless :=
  fun _ _ hr => absurd hr List.not_mem_nil

theorem Laws.F.mgmtFrameReceive (raw : Bytes) (tDet : Nat) (e : Nat) (pos : Nat) : Laws.F.Statement (.mgmtFrameReceive raw tDet e pos) :=
  fun _ _ hr => absurd hr List.not_mem_nil

theorem Laws.F.mgTxDb (req : Nat) (value : Nat) : Laws.F.Statement (.mgTxDb req value) := by
  intro h r hr
  have h1 := of_decide_eq_true h
  have h2 : r = req := List.mem_singleton.mp hr
  omega

theorem Laws.F.mgRxDb (req : Nat) (value : Nat) : Laws.F.Statement (.mgRxDb req value) := by
  intro h r hr
  have h1 := of_decide_eq_true h
  have h2 : r = req := List.mem_singleton.mp hr
  omega

theorem Laws.F.mgmtFrameSend (tEmit : Nat) (e : Nat) (pos : Nat) : Laws.F.Statement (.mgmtFrameSend tEmit e pos) :=
  fun _ _ hr => absurd hr List.not_mem_nil

theorem Laws.F.mgCtrlEn (req : Nat) (on : Bool) : Laws.F.Statement (.mgCtrlEn req on) := by
  intro h r hr
  have h1 := of_decide_eq_true h
  have h2 : r = req := List.mem_singleton.mp hr
  omega

theorem Laws.F.keyRevoke (data : Bytes) : Laws.F.Statement (.keyRevoke data) :=
  fun _ _ hr => absurd hr List.not_mem_nil

theorem Laws.F.svnCommit (v : Nat) : Laws.F.Statement (.svnCommit v) :=
  fun _ _ hr => absurd hr List.not_mem_nil

theorem Laws.F.coldReset (env : BootEnv) : Laws.F.Statement (.coldReset env) :=
  fun _ _ hr => absurd hr List.not_mem_nil

theorem Laws.F.done (req : Nat) : Laws.F.Statement (.done req) := by
  intro h r hr
  have h1 := of_decide_eq_true h
  have h2 : r = req := List.mem_singleton.mp hr
  omega

theorem Laws.F.bootWatchdog : Laws.F.Statement .bootWatchdog :=
  fun _ _ hr => absurd hr List.not_mem_nil

theorem Laws.F.go (program : Bool) : Laws.F.Statement (.go program) :=
  fun _ _ hr => absurd hr List.not_mem_nil

theorem Laws.F.recoveryBundleChecked (bundle : Bytes) (hbm : Bool) (mram : Bool) (programOk : Bool) : Laws.F.Statement (.recoveryBundleChecked bundle hbm mram programOk) :=
  fun _ _ hr => absurd hr List.not_mem_nil

theorem Laws.F.clRelease (req : Nat) (c : Nat) : Laws.F.Statement (.clRelease req c) := by
  intro h r hr
  have h1 := of_decide_eq_true h
  have h2 : r = req := List.mem_singleton.mp hr
  omega

theorem Laws.F.svRelease (req : Nat) (k : Nat) : Laws.F.Statement (.svRelease req k) := by
  intro h r hr
  have h1 := of_decide_eq_true h
  have h2 : r = req := List.mem_singleton.mp hr
  omega

theorem Laws.F.esClaim (req : Nat) (k : Nat) : Laws.F.Statement (.esClaim req k) := by
  intro h r hr
  have h1 := of_decide_eq_true h
  have h2 : r = req := List.mem_singleton.mp hr
  omega

theorem Laws.F.esRelease (req : Nat) (k : Nat) : Laws.F.Statement (.esRelease req k) := by
  intro h r hr
  have h1 := of_decide_eq_true h
  have h2 : r = req := List.mem_singleton.mp hr
  omega

theorem Laws.F.attest (k : Nat) : Laws.F.Statement (.attest k) :=
  fun _ _ hr => absurd hr List.not_mem_nil

theorem Laws.F.mregExtend (k : Nat) : Laws.F.Statement (.mregExtend k) :=
  fun _ _ hr => absurd hr List.not_mem_nil

theorem Laws.F.random (k : Nat) : Laws.F.Statement (.random k) :=
  fun _ _ hr => absurd hr List.not_mem_nil

theorem Laws.F.keyImport (k : Nat) : Laws.F.Statement (.keyImport k) :=
  fun _ _ hr => absurd hr List.not_mem_nil

theorem Laws.F.keyDestroy (k : Nat) : Laws.F.Statement (.keyDestroy k) :=
  fun _ _ hr => absurd hr List.not_mem_nil

theorem Laws.F.bulkKeygen (k : Nat) : Laws.F.Statement (.bulkKeygen k) :=
  fun _ _ hr => absurd hr List.not_mem_nil

theorem Laws.F.bulk (k : Nat) : Laws.F.Statement (.bulk k) :=
  fun _ _ hr => absurd hr List.not_mem_nil

theorem Laws.F.mkaIcv (k : Nat) : Laws.F.Statement (.mkaIcv k) :=
  fun _ _ hr => absurd hr List.not_mem_nil

theorem Laws.F.sakGenerate (k : Nat) : Laws.F.Statement (.sakGenerate k) :=
  fun _ _ hr => absurd hr List.not_mem_nil

theorem Laws.F.sakInstall (k : Nat) : Laws.F.Statement (.sakInstall k) :=
  fun _ _ hr => absurd hr List.not_mem_nil

theorem Laws.F.saClear (k : Nat) : Laws.F.Statement (.saClear k) :=
  fun _ _ hr => absurd hr List.not_mem_nil

theorem Laws.F.selfTest (k : Nat) : Laws.F.Statement (.selfTest k) :=
  fun _ _ hr => absurd hr List.not_mem_nil

theorem Laws.F.zeroise (k : Nat) : Laws.F.Statement (.zeroise k) :=
  fun _ _ hr => absurd hr List.not_mem_nil

theorem Laws.F.sealReseat (k : Nat) (readBack : Bool) : Laws.F.Statement (.sealReseat k readBack) :=
  fun _ _ hr => absurd hr List.not_mem_nil

theorem Laws.F.jtagChallenge (k : Nat) : Laws.F.Statement (.jtagChallenge k) :=
  fun _ _ hr => absurd hr List.not_mem_nil

theorem Laws.F.jtagChallengeExpire : Laws.F.Statement .jtagChallengeExpire :=
  fun _ _ hr => absurd hr List.not_mem_nil

theorem Laws.F.jtagUnlock (k : Nat) : Laws.F.Statement (.jtagUnlock k) :=
  fun _ _ hr => absurd hr List.not_mem_nil

theorem Laws.F.rawEntropy (k : Nat) : Laws.F.Statement (.rawEntropy k) :=
  fun _ _ hr => absurd hr List.not_mem_nil

theorem Laws.F.tamperArmPerm : Laws.F.Statement .tamperArmPerm :=
  fun _ _ hr => absurd hr List.not_mem_nil

theorem Laws.F.selfTestDone (fail : Option Nat) : Laws.F.Statement (.selfTestDone fail) :=
  fun _ _ hr => absurd hr List.not_mem_nil

theorem Laws.F.enclError (code : Nat) : Laws.F.Statement (.enclError code) :=
  fun _ _ hr => absurd hr List.not_mem_nil

theorem Laws.F.enclErrorReset : Laws.F.Statement .enclErrorReset :=
  fun _ _ hr => absurd hr List.not_mem_nil

theorem Laws.F.tamper (cause : Nat) : Laws.F.Statement (.tamper cause) :=
  fun _ _ hr => absurd hr List.not_mem_nil

theorem Laws.F.islandSleep (c : Nat) (nextE : Nat) (nextT : Option Nat) : Laws.F.Statement (.islandSleep c nextE nextT) :=
  fun _ _ hr => absurd hr List.not_mem_nil

theorem Laws.F.islandWake (c : Nat) : Laws.F.Statement (.islandWake c) :=
  fun _ _ hr => absurd hr List.not_mem_nil

theorem Laws.F.piOpp (req : Nat) (c : Nat) (opp : Nat) : Laws.F.Statement (.piOpp req c opp) := by
  intro h r hr
  have h1 := of_decide_eq_true h
  have h2 : r = req := List.mem_singleton.mp hr
  omega

theorem Laws.F.oppTransitionDone (c : Nat) : Laws.F.Statement (.oppTransitionDone c) :=
  fun _ _ hr => absurd hr List.not_mem_nil

theorem Laws.F.thermalSample (temps : List Int) : Laws.F.Statement (.thermalSample temps) :=
  fun _ _ hr => absurd hr List.not_mem_nil

theorem Laws.F.quietWindowStart : Laws.F.Statement .quietWindowStart :=
  fun _ _ hr => absurd hr List.not_mem_nil

theorem Laws.F.quietWindowEnd : Laws.F.Statement .quietWindowEnd :=
  fun _ _ hr => absurd hr List.not_mem_nil

theorem Laws.F.errorReport (src : Nat) (cls : Nat) (loc : Nat) (code : Nat) (nbits : Nat) : Laws.F.Statement (.errorReport src cls loc code nbits) :=
  fun _ _ hr => absurd hr List.not_mem_nil

theorem Laws.F.errorPendingLog (src : Nat) : Laws.F.Statement (.errorPendingLog src) :=
  fun _ _ hr => absurd hr List.not_mem_nil

theorem Laws.F.reloadDone (g : Nat) : Laws.F.Statement (.reloadDone g) :=
  fun _ _ hr => absurd hr List.not_mem_nil

theorem Laws.F.huSwitch (req : Nat) : Laws.F.Statement (.huSwitch req) := by
  intro h r hr
  have h1 := of_decide_eq_true h
  have h2 : r = req := List.mem_singleton.mp hr
  omega

theorem Laws.F.huCommit (req : Nat) : Laws.F.Statement (.huCommit req) := by
  intro h r hr
  have h1 := of_decide_eq_true h
  have h2 : r = req := List.mem_singleton.mp hr
  omega

theorem Laws.F.huRollback (req : Nat) : Laws.F.Statement (.huRollback req) := by
  intro h r hr
  have h1 := of_decide_eq_true h
  have h2 : r = req := List.mem_singleton.mp hr
  omega

theorem Laws.F.huCommitTimeout : Laws.F.Statement .huCommitTimeout :=
  fun _ _ hr => absurd hr List.not_mem_nil

theorem Laws.F.resetNAssert (powerLost : Bool) : Laws.F.Statement (.resetNAssert powerLost) :=
  fun _ _ hr => absurd hr List.not_mem_nil

theorem Laws.F.resetNDeassert (env : BootEnv) (perst : Nat) : Laws.F.Statement (.resetNDeassert env perst) :=
  fun _ _ hr => absurd hr List.not_mem_nil

theorem Laws.F.railFault (n : Nat) : Laws.F.Statement (.railFault n) :=
  fun _ _ hr => absurd hr List.not_mem_nil

theorem Laws.F.avsTimeout (c : Nat) : Laws.F.Statement (.avsTimeout c) :=
  fun _ _ hr => absurd hr List.not_mem_nil

theorem Laws.F.refSysLoss : Laws.F.Statement .refSysLoss :=
  fun _ _ hr => absurd hr List.not_mem_nil

theorem Laws.F.timeRefLoss (atReset : Bool) : Laws.F.Statement (.timeRefLoss atReset) :=
  fun _ _ hr => absurd hr List.not_mem_nil

theorem Laws.F.timeRefReturn : Laws.F.Statement .timeRefReturn :=
  fun _ _ hr => absurd hr List.not_mem_nil

theorem Laws.F.smbusReadByte (cmd : Nat) : Laws.F.Statement (.smbusReadByte cmd) :=
  fun _ _ hr => absurd hr List.not_mem_nil

theorem Laws.F.pcieLinkUp (link : Nat) (speed : Nat) (width : Nat) (flit : Bool) : Laws.F.Statement (.pcieLinkUp link speed width flit) :=
  fun _ _ hr => absurd hr List.not_mem_nil

theorem Laws.F.dsLinkUp (link : Nat) (speed : Nat) (width : Nat) : Laws.F.Statement (.dsLinkUp link speed width) :=
  fun _ _ hr => absurd hr List.not_mem_nil

theorem Laws.F.controllerEnable (c : Nat) (cc : Nat) : Laws.F.Statement (.controllerEnable c cc) :=
  fun _ _ hr => absurd hr List.not_mem_nil

theorem Laws.F.tcpConnectionLoss (b : Nat) : Laws.F.Statement (.tcpConnectionLoss b) :=
  fun _ _ hr => absurd hr List.not_mem_nil

theorem Laws.F.hostReadCompletion (id : Nat) (ok : Bool) (data : Bytes) : Laws.F.Statement (.hostReadCompletion id ok data) :=
  fun _ _ hr => absurd hr List.not_mem_nil

theorem Laws.F.bankClearDone : Laws.F.Statement .bankClearDone :=
  fun _ _ hr => absurd hr List.not_mem_nil

theorem Laws.F.avsVoltageReached : Laws.F.Statement .avsVoltageReached :=
  fun _ _ hr => absurd hr List.not_mem_nil

end Sys2Proof
end

