-- ==== Sys2Proof/Safety.lean ====
section
/-!
DEFINITION. The terms in which statements about the block are made: what an invariant of every step says, which commands may write HBM, the order in
which fuses blow, and what it means that registers outside a list keep their values.
-/
namespace Sys2Proof.Machine

/-- HBM is in its canonical form. -/
def State.Inv (s : State) : Prop := Memory.wf s.hbm = true

/-- Every register outside a list of keys holds what it held. -/
def RegsBut (d e : Dev) (l : List Key) : Prop := ∀ k, k ∉ l → RegFile.get? e.regs k = RegFile.get? d.regs k

/-- A step changed nothing but registers, and of those only the ones with the given keys. -/
def OnlyRegs (s t : State) (l : List Key) : Prop := t = { s with dev := { s.dev with regs := t.dev.regs } } ∧ RegsBut s.dev t.dev l

/-- The same, beside the present tick's events, writes and actions. -/
def OnlyRegsTick (s t : State) (l : List Key) : Prop :=
  t = { s with dev := { s.dev with regs := t.dev.regs, tk := t.dev.tk } } ∧ RegsBut s.dev t.dev l

/-- A read-write field whose write has no effect but its value: none of those that `Dev.setField` follows up, stages or keeps (R457). -/
def plainField (f : Field) : Bool :=
  f.ty == .rw && !([R.PT_CTRL_FEC, R.PT_CTRL_LL, R.SQ_ENROL, R.SYNCE_RCLK_EN, R.LN_CTRL_BURN_FT, R.LN_CTRL_BURN_MT, R.BURN_PERIOD_FT, R.BURN_PERIOD_MT,
    R.FB_CTRL_EN, R.FB_ADDR_STATIC, R.FB_CTRL_ADDR_MODE, R.RN_CTRL_RG_EN, R.RN_CTRL_RG, R.PL_CTRL_EN, R.GT_ENTRY_GATES, R.GT_ENTRY_INTERVAL, R.TC_WEIGHT,
    R.CS_CTRL_EN, R.PW_QUIET_CTRL_ARM, R.PI_CAP, R.TB_SW_OFFSET_LO, R.IQ_DB_LO_QP, R.IQ_DB_LO_QUEUE, R.TB_INCR, R.FP_CTRL, R.MB_CTRL_GO, R.ES_CTRL_GO].contains f) &&
    f.addr != R.SYNCE_RCLK_EN.addr

/-- The fuses of one state are blown in another too, and its counter stands no higher (R377, R447: a blow sets what it programs). -/
def Fuses.Le (a b : Fuses) : Prop :=
  (∀ k, a.revoked.testBit k = true → b.revoked.testBit k = true) ∧ a.svn ≤ b.svn ∧ (a.tamperArm = true → b.tamperArm = true) ∧
    (a.dsKill = true → b.dsKill = true)

/-- The commands after which a byte of HBM may differ: writes of HBM, service results and MGNI rings that the block writes there, loads of firmware, and a
cold reset, which empties it. -/
def writesHbm : Instr → Bool
  | .hbmAccess _ _ write _ _ _ => write
  | .coldReset _ => true
  | .resetNAssert _ => true
  | .resetNDeassert _ _ => true
  | .recoveryBundleChecked _ _ _ _ => true
  | .groupResetStart _ => true
  | .groupResetDone _ => true
  | .bulk _ => true
  | .fwHitless => true
  | .fwImage _ _ _ _ => true
  | .mgTxDb _ _ => true
  | .mgCtrlEn _ _ => true
  | .mgmtFrameSend _ _ _ => true
  | .mgmtFrameReceive _ _ _ _ => true
  | .read => true
  | .write => true
  | .readSeg => true
  | .writeSeg => true
  | _ => false

/-- The command that a row of R276 takes at a running controller: the first of its opcode that has not been dispatched, in a form that the
specification allows, not held at the lacing. -/
def Dev.nvTakes (d : Dev) (c : Nat) (admin : Bool) (op : Nat) (m : NvCmd) : Bool :=
  d.nvLive c && d.nvFirst c admin (· == op) == some m && !d.nvHeld c m && byteAt m.sqe 1 % 4 == 0 &&
    (if admin then byteAt m.sqe 1 / 64 == 0 else byteAt m.sqe 1 / 64 != 3)

/-- The request that a service executes, with the state in which it runs: alone in the order of the slots, of this service, well formed, authenticated
and of the level that Table 16.6 asks (R404, R405). -/
def State.admits (s : State) (k code : Nat) : Option (SvcReq × State) :=
  match esParse (s.dev.esBuf k) with
  | none => none
  | some (q, tag) =>
    match s.esAuth (s.dev.rd R.ES_STATUS_OWNER k) (s.dev.esBuf k) q tag with
    | (st, _, e, lvl, _) =>
      if s.dev.enclUp && decide (s.dev.encl.order = [k] ∧ s.dev.encl.testSlot = none ∧ le16 (s.dev.esBuf k) 0 = code ∧ st = 0) &&
          (match svcLevel code with | some need => decide (need ≤ lvl) | none => false) then some ({ q with slot := k }, e)
      else none

/-- A slot holds the response to its request (Table 16.5): not busy, done, out of the order, its buffer beginning with code and status. -/
def Dev.answers (d : Dev) (k code status : Nat) : Prop :=
  d.on R.ES_STATUS_BUSY k = false ∧ d.on R.ES_STATUS_DONE k = true ∧ k ∉ d.encl.order ∧ slice (d.esBuf k) 0 4 = leBytes 2 code ++ leBytes 2 status

end Sys2Proof.Machine
end

