-- ==== Sys2Proof/Certificates/Slice0/Obligations.lean ====
section
/-!
DEFINITION. What is stated about the block for the provers: one definition for each obligation, in the order of OBLIGATIONS.json.
-/
section
open Sys2Proof Sys2Proof.Machine

/-- A step executes the command at the front of the queue with the queue's rest. For every command c, queue rest and state s: a step of s with c in front of rest is exec of c on s with rest waiting. (opcode_table.json; 95_what_each_step_holds.md.) -/
def Obligations.StepTakesTheFrontCommand : Prop :=
  ∀ (c : Instr) (rest : List Instr) (s : State), step { s with pending := c :: rest } = exec c { s with pending := rest }

/-- With no command waiting the block idles (the model's choice, log entry 1). A step of a state whose queue is empty answers that state. (opcode_table.json (log entry 1: the model's choice).) -/
def Obligations.EmptyQueueIdles : Prop :=
  ∀ (s : State), s.pending = [] → step s = .next s

/-- Every command answers a next state in every state. No command of the table ends in a fault or a refusal: for every command and state there is a next state (the block's own refusals are effects on its state). (opcode_table.json; 98_reader.md.) -/
def Obligations.EveryCommandAnswers : Prop :=
  ∀ (i : Instr) (s : State), ∃ t, exec i s = .next t

/-- No command's effect changes the queue of waiting commands. For every command and state, the queue after exec is the queue before it. (opcode_table.json (log entry 1).) -/
def Obligations.CommandsLeaveTheQueue : Prop :=
  ∀ (i : Instr) (s t : State), exec i s = .next t → t.pending = s.pending

/-- Every byte of HBM reads as before after a command that is none of the writers of HBM. For every command outside writesHbm (writes of HBM, firmware loads, service results, the MGNI rings, cold resets) and every address, the byte reads after the command as it read before. (01_islands_and_lacing.md R36, R37, R39; 95_what_each_step_holds.md.) -/
def Obligations.OtherCommandsKeepHbm : Prop :=
  ∀ (i : Instr) (s t : State), writesHbm i = false → exec i s = .next t → ∀ a, memRead t.hbm a = memRead s.hbm a

/-- Every step keeps HBM in its canonical form. For every state whose HBM lists rising addresses and no byte equal to what an unlisted address reads as, every step that answers a next state leaves it in that form. (01_islands_and_lacing.md R36, R37, R38, R39.) -/
def Obligations.HbmStaysCanonical : Prop :=
  ∀ (s t : State), s.Inv → step s = .next t → t.Inv

/-- No step, a cold reset included, takes a fuse back. In every step that answers a next state, each revoked key slot stays revoked, the security version counter does not fall, and TAMPER_ARM and DS_KILL stay blown once blown. (15_boot_and_secure_start.md R377; 16_qorique_enclave.md R414; 18_package_and_electrical.md R447.) -/
def Obligations.FusesOnlyBlow : Prop :=
  ∀ (s t : State), step s = .next t → Fuses.Le s.fuse t.fuse

/-- The state after reset has canonical HBM, an empty queue and no blown fuse (log entries 2, 3: the model's choices). State.reset satisfies the invariant of HbmStaysCanonical; no command waits; nothing is revoked. (01_islands_and_lacing.md R38 (HBM at power-on: log entry 2).) -/
def Obligations.ResetMeetsTheInvariant : Prop :=
  State.reset.Inv ∧ State.reset.pending = [] ∧ State.reset.fuse = {}

/-- After reset every register field reads its reset value (log entry 3 where the spec gives none). For every field, channel, element and requester, the value after reset is the field's reset value; among them TB_INCR reads 2^32, PT_MTU 0x5F2, SQ_GUARD 0xC8, GRP_RESET_ALLOW six ones, FL_AUTO 0x3E and PI_OPP 7. (00_scope.md R8; 01_islands_and_lacing.md RSTC registers; 02_network_ports.md Table of ports; 03_time_base.md R67, R80; 04_stitch_sequencer_and_hide_journal.md Table of SEQ; 17_power_and_faults.md Table 17.8.) -/
def Obligations.ResetRegisterValues : Prop :=
  (∀ (f : Field) (c i r : Nat), State.reset.dev.rd f c i r = f.reset) ∧
  (∀ (c : Nat), State.reset.dev.rd R.TB_INCR = 2 ^ 32 ∧ State.reset.dev.rd R.PT_MTU c = 0x5F2 ∧ State.reset.dev.rd R.SQ_GUARD = 0xC8 ∧ State.reset.dev.rd R.GRP_RESET_ALLOW = 63 ∧ State.reset.dev.rd R.FL_AUTO = 0x3E ∧ State.reset.dev.rd R.PI_OPP_OPP c = 7)

/-- A well-formed command names only requesters that exist. Every requester that a well-formed command names is a number of Table 8.7 (0 to 4148), or 4149, by which the model names the dictionary engine. (08_host_functions_and_registers.md Table 8.7.) -/
def Obligations.RequestersExist : Prop :=
  ∀ (i : Instr), Laws.F.Statement i

/-- Value and event lacings carry what they are given, or hold or count it. With neither end in reset: to a running receiver that holds nothing the value is taken behind the earlier ones; for a receiver whose clock is stopped, with a slot free, it is held behind the earlier ones and a wake request for the receiver stands. Every other lacing, every register and the rest of the state is unchanged. With an end in reset nothing changes at all. With both ends out of reset and no earlier event untaken the occurrence is pending. With an earlier one untaken OVERRUN sets and LC_LOST rises, saturating. With an end in reset LC_LOST rises alone. Registers other than these keep their values, and of the rest only wake requests may change. (01_islands_and_lacing.md R14; 01_islands_and_lacing.md R15; 01_islands_and_lacing.md R16; 01_islands_and_lacing.md R17; 01_islands_and_lacing.md R20; 01_islands_and_lacing.md R24.) -/
def Obligations.LacingsDeliverOrCount : Prop :=
  (∀ (src dst value : Nat) (s : State), s.dev.inReset src = false → s.dev.inReset dst = false → s.dev.stopped dst = false → (SMap.getD s.dev.vlac (lacingKey src dst) {}).held = [] → ∃ t, exec (.valueLacingTransfer src dst value) s = .next t ∧ (SMap.getD t.dev.vlac (lacingKey src dst) {}).taken = (SMap.getD s.dev.vlac (lacingKey src dst) {}).taken ++ [value] ∧ (SMap.getD t.dev.vlac (lacingKey src dst) {}).held = [] ∧ (∀ k, k ≠ lacingKey src dst → SMap.get? t.dev.vlac k = SMap.get? s.dev.vlac k) ∧ t = { s with dev := { s.dev with vlac := t.dev.vlac } }) ∧
  (∀ (src dst value : Nat) (s : State), s.dev.inReset src = false → s.dev.inReset dst = false → s.dev.stopped dst = true → (SMap.getD s.dev.vlac (lacingKey src dst) {}).held.length < Config.lacingSlots (lacingKey src dst) → ∃ t, exec (.valueLacingTransfer src dst value) s = .next t ∧ (SMap.getD t.dev.vlac (lacingKey src dst) {}).held = (SMap.getD s.dev.vlac (lacingKey src dst) {}).held ++ [value] ∧ (SMap.getD t.dev.vlac (lacingKey src dst) {}).taken = (SMap.getD s.dev.vlac (lacingKey src dst) {}).taken ∧ dst ∈ t.dev.pwr.wakes ∧ (∀ k, k ≠ lacingKey src dst → SMap.get? t.dev.vlac k = SMap.get? s.dev.vlac k) ∧ t = { s with dev := { s.dev with vlac := t.dev.vlac, pwr := { s.dev.pwr with wakes := t.dev.pwr.wakes } } }) ∧
  (∀ (src dst value : Nat) (s : State), s.dev.inReset src = true ∨ s.dev.inReset dst = true → ∃ t, exec (.valueLacingTransfer src dst value) s = .next t ∧ t = s) ∧
  (∀ (ch : Nat) (s : State), s.dev.lacingDown ch = false → s.dev.on R.LC_STATUS_PENDING ch = false → ∃ t, exec (.eventLacingOccurrence ch) s = .next t ∧ t.dev.on R.LC_STATUS_PENDING ch = true ∧ (s.dev.stopped (Config.lcDst ch) = true → Config.lcDst ch ∈ t.dev.pwr.wakes) ∧ RegsBut s.dev t.dev [R.LC_STATUS_PENDING.key ch 0 0] ∧ t = { s with dev := { s.dev with regs := t.dev.regs, pwr := { s.dev.pwr with wakes := t.dev.pwr.wakes } } }) ∧
  (∀ (ch : Nat) (s : State), s.dev.lacingDown ch = false → s.dev.on R.LC_STATUS_PENDING ch = true → ∃ t, exec (.eventLacingOccurrence ch) s = .next t ∧ t.dev.on R.LC_STATUS_OVERRUN ch = true ∧ t.dev.on R.LC_STATUS_PENDING ch = true ∧ t.dev.rd R.LC_LOST ch = min (s.dev.rd R.LC_LOST ch + 1) (2 ^ R.LC_LOST.width - 1) ∧ OnlyRegs s t [R.LC_STATUS_OVERRUN.key ch 0 0, R.LC_LOST.key ch 0 0]) ∧
  (∀ (ch : Nat) (s : State), s.dev.lacingDown ch = true → ∃ t, exec (.eventLacingOccurrence ch) s = .next t ∧ t.dev.rd R.LC_LOST ch = min (s.dev.rd R.LC_LOST ch + 1) (2 ^ R.LC_LOST.width - 1) ∧ OnlyRegs s t [R.LC_LOST.key ch 0 0])

/-- A reset request marks its group for the next tick boundary, or is refused; RSTC_LOCK sets and stays for a reset. A GRP_RESET write naming one group 2 to 7 is sampled as a class 9 event of the requester's island. If GRP_RESET_ALLOW has the group's bit and no function asks for G2, REQ reads 1 for the group and its reset, if not asked for or in progress already, is asked for at this tick. Otherwise only GRP_RESET_REFUSED sets the group's bit. RSTC_LOCK sets its bit and nothing else of the registers. (01_islands_and_lacing.md R26; 01_islands_and_lacing.md R27; 01_islands_and_lacing.md Table 1.5.) -/
def Obligations.ResetRequestsMarkTheirGroups : Prop :=
  (∀ (req g : Nat) (s : State), 2 ≤ g ∧ g < 8 → bit (s.dev.rd R.GRP_RESET_ALLOW) (g - 2) = true ∧ ¬(isFunc req = true ∧ g = 2) → g ∉ s.dev.rst.active ∧ SMap.get? s.dev.rst.asked g = none → ∃ t, exec (.grpResetRequest req (2 ^ g)) s = .next t ∧ SMap.get? t.dev.rst.asked g = some s.dev.tk.etick ∧ bit (t.dev.rd R.GRP_RESET) (g - 2) = true ∧ t.dev.tk = { s.dev.tk with sampled := s.dev.tk.sampled ++ [⟨9, srcNum (reqIsland req) 0, 2 ^ g⟩] } ∧ RegsBut s.dev t.dev [R.GRP_RESET.key 0 0 0] ∧ t = { s with dev := { s.dev with regs := t.dev.regs, tk := t.dev.tk, rst := { s.dev.rst with asked := t.dev.rst.asked } } }) ∧
  (∀ (req g : Nat) (s : State), 2 ≤ g ∧ g < 8 → bit (s.dev.rd R.GRP_RESET_ALLOW) (g - 2) = false ∨ (isFunc req = true ∧ g = 2) → ∃ t, exec (.grpResetRequest req (2 ^ g)) s = .next t ∧ bit (t.dev.rd R.GRP_RESET_REFUSED) (g - 2) = true ∧ t.dev.tk = { s.dev.tk with sampled := s.dev.tk.sampled ++ [⟨9, srcNum (reqIsland req) 0, 2 ^ g⟩] } ∧ OnlyRegsTick s t [R.GRP_RESET_REFUSED.key 0 0 0]) ∧
  (∀ (req : Nat) (s : State), ∃ t, exec (.rstcLock req) s = .next t ∧ t.dev.on R.RSTC_LOCK = true ∧ OnlyRegsTick s t [R.RSTC_LOCK.key 0 0 0])

/-- A group reset begins at the next boundary and ends when its time is over. With a reset of group g asked for before the present tick: afterwards g is in reset and no longer asked for. Fuses and the queue are unchanged, and so is HBM but for G4 (whose MGNI may complete a ring entry). For a GRP_RESET group REQ reads 1, G2 under PERST_N apart. No register of G2 holds anything but its reset value; the tables and keys of G3 are empty. Asked for in the present tick, nothing happens yet. A group in reset that nothing holds there (thermal trip, RESET_N, for G2 PERST_N) leaves it: the state is that of the exit, the reload of the group's objects, and what follows. On a device whose dictionary stores nothing: the group is no longer in reset, DONE has its bit, REQ has it not, and the group is among those whose reload shows; fuses and HBM are as before. RELOAD_DONE then takes the group off, clears its PW_RELOAD bit and raises the class 11 event 0x0010 + g. (01_islands_and_lacing.md R24; 01_islands_and_lacing.md R26; 01_islands_and_lacing.md R28; 01_islands_and_lacing.md R35; 01_islands_and_lacing.md R24; 01_islands_and_lacing.md R28; 17_power_and_faults.md R434.) -/
def Obligations.GroupResetsBeginAndEnd : Prop :=
  (∀ (g n : Nat) (s : State), 1 ≤ g ∧ g < 8 → SMap.get? s.dev.rst.asked g = some n → n < s.dev.tk.etick → ∃ t, exec (.groupResetStart g) s = .next t ∧ g ∈ t.dev.rst.active ∧ t.fuse = s.fuse ∧ t.pending = s.pending ∧ (g ≠ 4 → t.hbm = s.hbm) ∧ (3 ≤ g → bit (t.dev.rd R.GRP_RESET) (g - 2) = true) ∧ (g = 2 → s.dev.rst.perstA = false → bit (t.dev.rd R.GRP_RESET) 0 = true) ∧ (g = 2 → ∀ k, blockGroup k.addr = 2 → RegFile.get? t.dev.regs k = none) ∧ (g = 3 → t.dev.tab = {} ∧ t.dev.cls = {} ∧ t.dev.sa = [] ∧ t.dev.sc = [] ∧ t.dev.gates = [])) ∧
  (∀ (g n : Nat) (s : State), 1 ≤ g ∧ g < 8 → SMap.get? s.dev.rst.asked g = some n → s.dev.tk.etick ≤ n → ∃ t, exec (.groupResetStart g) s = .next t ∧ t = s) ∧
  (∀ (g : Nat) (s : State), 2 ≤ g ∧ g < 8 → g ∈ s.dev.rst.active → s.dev.rst.tripHold = false ∧ s.dev.rst.resetNLow = false ∧ ¬(g = 2 ∧ s.dev.perstHeld = true) → ∃ t, exec (.groupResetDone g) s = .next t ∧ (t = ((s.onDev (fun d => (d.groupUp g).exitBefore g false)).reload g).onDev (fun d => d.exitAfter g false))) ∧
  (∀ (g : Nat) (s : State), 2 ≤ g ∧ g < 8 → g ∈ s.dev.rst.active → s.dev.rst.tripHold = false ∧ s.dev.rst.resetNLow = false ∧ ¬(g = 2 ∧ s.dev.perstHeld = true) → s.dev.mram.obj = [] ∧ s.dev.mram.items = [] → ∃ t, exec (.groupResetDone g) s = .next t ∧ g ∉ t.dev.rst.active ∧ bit (t.dev.rd R.GRP_RESET_DONE) (g - 2) = true ∧ bit (t.dev.rd R.GRP_RESET) (g - 2) = false ∧ g ∈ t.dev.rst.reload ∧ t.fuse = s.fuse ∧ t.hbm = s.hbm ∧ t.pending = s.pending) ∧
  (∀ (g : Nat) (s : State), 2 ≤ g ∧ g < 8 → g ∈ s.dev.rst.reload → ∃ t, exec (.reloadDone g) s = .next t ∧ g ∉ t.dev.rst.reload ∧ bit (t.dev.rd R.PW_RELOAD) (g - 2) = false ∧ t.dev.tk = { s.dev.tk with sampled := s.dev.tk.sampled ++ [⟨11, 0x0010 + g, 0⟩] } ∧ RegsBut s.dev t.dev [R.PW_RELOAD.key 0 0 0] ∧ t = { s with dev := { s.dev with regs := t.dev.regs, tk := t.dev.tk, rst := t.dev.rst } })

/-- A recognised PERST_N asks for the G2 reset; its release lets G2 out; PERSTB_N alone does neither on an unsplit port. On an unsplit port with RESET_N high: an assertion of PERST_N holds G2 and, unless asked for or in progress, asks for its reset at this tick; one of PERSTB_N only records its level. A deassertion records the level, and PERST_N no longer holds G2. Nothing else changes. While RESET_N is low neither input is recognised. (01_islands_and_lacing.md R456; 08_host_functions_and_registers.md R198.) -/
def Obligations.PerstResetsHost : Prop :=
  (∀ (s : State), s.dev.rst.resetNLow = false → bit s.dev.pins.straps 0 = false → 2 ∉ s.dev.rst.active ∧ SMap.get? s.dev.rst.asked 2 = none → ∃ t, exec (.perstAssert 0) s = .next t ∧ t.dev.perstHeld = true ∧ SMap.get? t.dev.rst.asked 2 = some s.dev.tk.etick ∧ t = { s with dev := { s.dev with rst := { s.dev.rst with perstA := true, asked := t.dev.rst.asked } } }) ∧
  (∀ (s : State), s.dev.rst.resetNLow = false → bit s.dev.pins.straps 0 = false → ∃ t, exec (.perstAssert 1) s = .next t ∧ t = { s with dev := { s.dev with rst := { s.dev.rst with perstB := true } } }) ∧
  (∀ (s : State), s.dev.rst.resetNLow = false → ∃ t, exec (.perstDeassert 0) s = .next t ∧ t.dev.perstHeld = false ∧ t = { s with dev := { s.dev with rst := { s.dev.rst with perstA := false } } }) ∧
  (∀ (s : State), s.dev.rst.resetNLow = false → ∃ t, exec (.perstDeassert 1) s = .next t ∧ t = { s with dev := { s.dev with rst := { s.dev.rst with perstB := false } } }) ∧
  (∀ (link : Nat) (s : State), s.dev.rst.resetNLow = true → ∃ t, exec (.perstAssert link) s = .next t ∧ t = s) ∧
  (∀ (link : Nat) (s : State), s.dev.rst.resetNLow = true → ∃ t, exec (.perstDeassert link) s = .next t ∧ t = s)

/-- A cold reset empties HBM, keeps fuses and flash, records its cause, and boots the device. A COLD_RESET with RESET_N high takes the device down with its cause and boots it. Down: HBM is empty, every group 1 to 7 is in reset, COLD_CAUSE names the cause (2 after a thermal trip), no event is sampled, ETICK is 0, fuses, flash and queue are as before. RESET_N_ASSERT leaves it down, with the pin low, cause 0 after a loss of power and 1 otherwise; RESET_N_DEASSERT takes the strap levels of PERST_N and boots. With the pin low already an assertion changes nothing, and with it high a deassertion changes nothing. A recovery bundle that passes every check is programmed into slot B and the main image starts from slot B. (01_islands_and_lacing.md R34; 01_islands_and_lacing.md R38; 01_islands_and_lacing.md Table 1.5; 15_boot_and_secure_start.md R381, R385; 18_package_and_electrical.md R444, R452.) -/
def Obligations.ColdResetClearsAndBoots : Prop :=
  (∀ (s : State) (cause : Nat), (let u := s.coldDown cause; u.hbm = [] ∧ u.fuse = s.fuse ∧ u.pending = s.pending ∧ u.dev.flash = s.dev.flash ∧ u.dev.rst.active = [1, 2, 3, 4, 5, 6, 7] ∧ u.dev.tk = {} ∧ u.dev.rd R.COLD_CAUSE = (if s.dev.mram.tripped then 2 else cause) % 2 ^ R.COLD_CAUSE.width)) ∧
  (∀ (env : BootEnv) (s : State), s.dev.rst.resetNLow = false → ∃ t, exec (.coldReset env) s = .next t ∧ t = (s.coldDown (s.dev.rst.cold.getD 0)).coldUp env) ∧
  (∀ (p : Bool) (s : State), s.dev.rst.resetNLow = false → ∃ t, exec (.resetNAssert p) s = .next t ∧ t.dev.rst.resetNLow = true ∧ t.hbm = [] ∧ t.fuse = s.fuse ∧ t.dev.flash = s.dev.flash ∧ t.dev.rst.active = [1, 2, 3, 4, 5, 6, 7] ∧ (t.dev.rd R.COLD_CAUSE = if s.dev.mram.tripped then 2 else if p then 0 else 1)) ∧
  (∀ (p : Bool) (s : State), s.dev.rst.resetNLow = true → ∃ t, exec (.resetNAssert p) s = .next t ∧ t = s) ∧
  (∀ (env : BootEnv) (perst : Nat) (s : State), s.dev.rst.resetNLow = true → ∃ t, exec (.resetNDeassert env perst) s = .next t ∧ (t = (s.onDev (fun d => { d with pins := { d.pins with fuseOk := true }, rst := { d.rst with perstA := bit perst 0, perstB := bit perst 1 } })).coldUp env)) ∧
  (∀ (env : BootEnv) (perst : Nat) (s : State), s.dev.rst.resetNLow = false → ∃ t, exec (.resetNDeassert env perst) s = .next t ∧ t = s) ∧
  (∀ (b : Bytes) (hbm mram programOk : Bool) (s : State), s.dev.recovery = true ∧ s.dev.on R.RC_STATUS_BUSY = true → ∃ t, exec (.recoveryBundleChecked b hbm mram programOk) s = .next t ∧ (∀ x, x = slice b 0 (s.dev.rd R.RC_LEN) → match (s.onDev (fun d => d.wr R.RC_STATUS_BUSY 0)).tryBundle x x.length hbm mram with
      | .refused n u => t = u.onDev (fun d => (d.wr R.RC_STATUS_LAST_FAIL (slotResult n)).bootErr 0xD)
      | .halt code u => t = u.onDev (fun d => d.bootHalt code)
      | .boots u => t = (u.onDev (fun d => (d.programB x programOk).startMain 2)).coldReload))

/-- HBM accesses are executed in the areas of their unit, or refused and recorded. An allowed write stores its bytes from its address on and changes no other byte and nothing else; an allowed read returns the bytes, poisoned only when the symbol code found an uncorrectable error; a refused write leaves every byte; a refused read returns zeros marked poisoned. A refusal is counted, its address and island recorded, and an event of class 6 raised. The scrubber counts a word it corrects, and no byte changes. HBM_LAYOUT_REVERT stores the active sizes as the requested ones. (01_islands_and_lacing.md R37; 01_islands_and_lacing.md R39; 01_islands_and_lacing.md Tables 1.10, 1.11.) -/
def Obligations.HbmAccessesStayInTheirAreas : Prop :=
  (∀ (island addr len : Nat) (data : Bytes) (ecc : Nat) (s : State), s.dev.hbmAllowed island addr data.length true = true → ∃ t, exec (.hbmAccess island addr true len data ecc) s = .next t ∧ (∀ a, a < addr ∨ addr + data.length ≤ a → memRead t.hbm a = memRead s.hbm a) ∧ (Memory.wf s.hbm = true → memReadN t.hbm addr data.length = data) ∧ t = { s with hbm := t.hbm }) ∧
  (∀ (island addr len : Nat) (data : Bytes) (ecc : Nat) (s : State), s.dev.hbmAllowed island addr data.length true = false → ∃ t, exec (.hbmAccess island addr true len data ecc) s = .next t ∧ t.hbm = s.hbm ∧ t.dev.rd R.HM_REFUSED = (s.dev.rd R.HM_REFUSED + 1) % 2 ^ R.HM_REFUSED.width ∧ t.dev.rd R.HM_REFUSE_ADDR = addr % 2 ^ R.HM_REFUSE_ADDR.width ∧ t.dev.rd R.HM_REFUSE_INFO_ISLAND = island % 2 ^ R.HM_REFUSE_INFO_ISLAND.width ∧ t.dev.tk.sampled.getLast? = some ⟨6, srcNum 0x0C 0, addr⟩ ∧ t = { s with dev := { s.dev with regs := t.dev.regs, tk := t.dev.tk, faults := t.dev.faults } }) ∧
  (∀ (island addr len : Nat) (data : Bytes) (ecc : Nat) (s : State), s.dev.hbmAllowed island addr len false = true → ∃ t, exec (.hbmAccess island addr false len data ecc) s = .next t ∧ t.dev.rbytes = memReadN s.hbm addr len ∧ t.dev.rpoison = decide (ecc = 2) ∧ t.hbm = s.hbm ∧ (ecc = 1 → t.dev.rd R.HM_CORR = (s.dev.rd R.HM_CORR + 1) % 2 ^ R.HM_CORR.width) ∧ (ecc = 2 → t.dev.rd R.HM_UNCORR = (s.dev.rd R.HM_UNCORR + 1) % 2 ^ R.HM_UNCORR.width) ∧ (ecc = 0 → t = { s with dev := { s.dev with rbytes := memReadN s.hbm addr len, rpoison := false } })) ∧
  (∀ (island addr len : Nat) (data : Bytes) (ecc : Nat) (s : State), s.dev.hbmAllowed island addr len false = false → ∃ t, exec (.hbmAccess island addr false len data ecc) s = .next t ∧ t.dev.rbytes = List.replicate len 0#8 ∧ t.dev.rpoison = true ∧ t.hbm = s.hbm ∧ t.dev.rd R.HM_REFUSED = (s.dev.rd R.HM_REFUSED + 1) % 2 ^ R.HM_REFUSED.width) ∧
  (∀ (addr : Nat) (s : State), s.dev.rd R.HM_SCRUB ≠ 0 → ∃ t, exec (.hbmScrub addr 1) s = .next t ∧ t.dev.rd R.HM_CORR = (s.dev.rd R.HM_CORR + 1) % 2 ^ R.HM_CORR.width ∧ t.hbm = s.hbm ∧ t.dev.tk.sampled.getLast? = some ⟨8, srcNum 0x0C 2, addr⟩) ∧
  (∀ (addr : Nat) (s : State), ∃ t, exec (.hbmScrub addr 0) s = .next t ∧ t = s) ∧
  (∀ (s : State), ∃ t, exec (.hbmLayoutRevert) s = .next t ∧ SMap.get? t.dev.mram.obj (objKey 0x6013 0) = some (leBytes 2 s.dev.hbmc.journal) ∧ SMap.get? t.dev.mram.obj (objKey 0x6014 0) = some (leBytes 2 s.dev.hbmc.capture) ∧ (∀ k, k ≠ objKey 0x6013 0 → k ≠ objKey 0x6014 0 → SMap.get? t.dev.mram.obj k = SMap.get? s.dev.mram.obj k) ∧ t = { s with dev := { s.dev with mram := { s.dev.mram with obj := t.dev.mram.obj } } })

/-- An error report enters the log at its source's rate, waits in FIRST, or if fatal goes to MRAM at once. Every report raises an event of its class and source in the present tick. A corrected or contained report of a source that has logged none in the last 125 ticks, with FIFO room and nothing waiting, is appended to the FIFO. One that comes too early, with FIRST free, waits in FIRST and its pending bit sets. A fatal one, with MRAM in use, is written to the record at the ring's place in MRAM, and the ring moves on; in group 0 it makes a cold reset due, with cause 5 unless one is due. Once the rate allows, the waiting report is logged marked HELD and LATEST moves up. (17_power_and_faults.md R428; 17_power_and_faults.md R430; 17_power_and_faults.md R431; 17_power_and_faults.md R432; 17_power_and_faults.md R433.) -/
def Obligations.ErrorReportsAreLoggedOrHeld : Prop :=
  (∀ (src cls loc code n : Nat) (s : State), cls = 6 ∨ cls = 8 → src ≠ 6 → s.dev.rateOk (s.dev.errSource src) = true ∧ s.dev.fifoRoom = true ∧ (s.dev.errSource src).first = none → ∃ t, exec (.errorReport src cls loc code n) s = .next t ∧ t.dev.faults.fifo = s.dev.faults.fifo ++ [{ rep := ⟨s.dev.tk.etick, src, cls, loc, code, n⟩, held := false, grpReset := false, suppressed := (s.dev.errSource src).suppressed }] ∧ (t.dev.errSource src).lastTick = some s.dev.tk.etick ∧ t.dev.tk = { s.dev.tk with sampled := s.dev.tk.sampled ++ [⟨cls, src, loc⟩] } ∧ RegsBut s.dev t.dev [R.FS_PENDING_FIRST.key src 0 0, R.FS_PENDING_LATEST.key src 0 0] ∧ t = { s with dev := { s.dev with regs := t.dev.regs, tk := t.dev.tk, faults := t.dev.faults } }) ∧
  (∀ (src cls loc code n : Nat) (s : State), cls = 6 ∨ cls = 8 → src ≠ 6 → s.dev.rateOk (s.dev.errSource src) = false ∧ (s.dev.errSource src).first = none → ∃ t, exec (.errorReport src cls loc code n) s = .next t ∧ (t.dev.errSource src).first = some ⟨s.dev.tk.etick, src, cls, loc, code, n⟩ ∧ t.dev.on R.FS_PENDING_FIRST src = true ∧ t.dev.faults.fifo = s.dev.faults.fifo ∧ t.dev.tk = { s.dev.tk with sampled := s.dev.tk.sampled ++ [⟨cls, src, loc⟩] } ∧ RegsBut s.dev t.dev [R.FS_PENDING_FIRST.key src 0 0, R.FS_PENDING_LATEST.key src 0 0]) ∧
  (∀ (src loc code n : Nat) (s : State), s.dev.mram.down = false → ∃ t, exec (.errorReport src 2 loc code n) s = .next t ∧ ∃ r, SMap.get? t.dev.mram.log (s.dev.mram.logSeq % 4096) = some r ∧ r.rep = ⟨s.dev.tk.etick, src, 2, loc, code, n⟩ ∧ r.held = false ∧ t.dev.mram.logSeq = (s.dev.mram.logSeq + 1) % 2 ^ 32 ∧ t.dev.faults.fifo = s.dev.faults.fifo ∧ (islandGroup (src / 64) = 0 → t.dev.rst.cold = some (s.dev.rst.cold.getD 5)) ∧ (islandGroup (src / 64) = 1 → t.dev.rst = s.dev.rst) ∧ t.hbm = s.hbm ∧ t.fuse = s.fuse) ∧
  (∀ (src : Nat) (p : Report) (s : State), s.dev.rateOk (s.dev.errSource src) = true ∧ s.dev.fifoRoom = true → (s.dev.errSource src).first = some p → p.src = src ∧ p.cls ≠ 2 → ∃ t, exec (.errorPendingLog src) s = .next t ∧ ∃ r, t.dev.faults.fifo = s.dev.faults.fifo ++ [r] ∧ r.rep = p ∧ r.held = true ∧ (t.dev.errSource src).first = (s.dev.errSource src).latest ∧ (t.dev.errSource src).latest = none ∧ t = { s with dev := { s.dev with regs := t.dev.regs, faults := t.dev.faults } } ∧ RegsBut s.dev t.dev [R.FS_PENDING_FIRST.key src 0 0, R.FS_PENDING_LATEST.key src 0 0])

/-- A register write stores the value, and one that its field ignores leaves the field. For a requester that reaches the device space, a word outside the blocks in reset that holds one plain read-write field, nothing of a later class having written it in this tick: if the value lies in the field's range and no rule of the field's chapter stops it, the field reads the written value afterwards; if it lies outside the range every register keeps its value. A write to CHSEL takes the requester's channel. A write to an absent block, or to one in reset, changes nothing. (00_scope.md R457; 00_scope.md R8; 00_scope.md R10; 08_host_functions_and_registers.md R208; 08_host_functions_and_registers.md R209.) -/
def Obligations.RegisterWritesTakeEffect : Prop :=
  (∀ (req addr value : Nat) (f : Field) (i w : Nat) (g : Target) (s : State), devSpace req = true ∧ s.dev.recoveryPath req = false ∧ s.dev.nvWindow req = false ∧ windowOff req addr = none → s.dev.absentBlock (addr >>> 20) = false ∧ blockGroup addr ∉ s.dev.rst.active ∧ isChsel addr = false ∧ isChsel g.addr = false → s.dev.target req addr = some g ∧ g.ro = false ∧ blockGroup g.addr ∉ s.dev.rst.active ∧ (g.addr >>> 20 = 0x0E1 → isHart req = true) → g.fields = [(f, i, w)] ∧ plainField f = true → s.dev.notHere req ⟨f, g.ch f, i, s.dev.merged req f (g.ch f) i w value⟩ = false → lastRank s.dev.tk.wrote (f.key (g.ch f) i req) = none → s.dev.regStop req [⟨f, g.ch f, i, s.dev.merged req f (g.ch f) i w value⟩] ⟨f, g.ch f, i, s.dev.merged req f (g.ch f) i w value⟩ = none → ∃ t, exec (.registerWrite req addr value) s = .next t ∧ t.dev.rd f (g.ch f) i req = s.dev.merged req f (g.ch f) i w value ∧ OnlyRegsTick s t [f.key (g.ch f) i req]) ∧
  (∀ (req addr value : Nat) (f : Field) (i w : Nat) (g : Target) (s : State), devSpace req = true ∧ s.dev.recoveryPath req = false ∧ s.dev.nvWindow req = false ∧ windowOff req addr = none → s.dev.absentBlock (addr >>> 20) = false ∧ blockGroup addr ∉ s.dev.rst.active ∧ isChsel addr = false ∧ isChsel g.addr = false → s.dev.target req addr = some g ∧ g.ro = false ∧ blockGroup g.addr ∉ s.dev.rst.active ∧ (g.addr >>> 20 = 0x0E1 → isHart req = true) → g.fields = [(f, i, w)] ∧ plainField f = true → s.dev.valueOk ⟨f, g.ch f, i, s.dev.merged req f (g.ch f) i w value⟩ = false → ∃ t, exec (.registerWrite req addr value) s = .next t ∧ OnlyRegsTick s t []) ∧
  (∀ (req addr value : Nat) (s : State), devSpace req = true ∧ s.dev.recoveryPath req = false ∧ s.dev.nvWindow req = false ∧ windowOff req addr = none → s.dev.absentBlock (addr >>> 20) = false ∧ blockGroup addr ∉ s.dev.rst.active ∧ isChsel addr = true → ∃ t, exec (.registerWrite req addr value) s = .next t ∧ t.dev.rd (chselField addr) 0 0 req = value % 2 ^ 32 ∧ OnlyRegsTick s t [(chselField addr).key 0 0 req]) ∧
  (∀ (req addr value : Nat) (s : State), s.dev.recoveryPath req = false ∧ s.dev.nvWindow req = false ∧ windowOff req addr = none → s.dev.absentBlock (addr >>> 20) = true ∨ blockGroup addr ∈ s.dev.rst.active → ∃ t, exec (.registerWrite req addr value) s = .next t ∧ t = s)

/-- Reads latch what belongs together, clear what clears, and return the word. ETICK_LO returns the low word of the tick count and latches the high word for its requester alone. A read of a word whose one field is an RC counter returns its value and leaves in it only the events that landed in the read. A read of the low word of a 64-bit read-only counter returns it and latches the high word for that requester. A BAR0 access of another size than 4 or 8 bytes, or not naturally aligned, returns no data, writes nothing, and is counted for a function's link. An aligned one of 4 bytes writes as a register write and reads as a register read. (01_islands_and_lacing.md R29; 00_scope.md R9; 02_network_ports.md R64; 08_host_functions_and_registers.md R204; 08_host_functions_and_registers.md R208.) -/
def Obligations.RegisterReadsLatchAndClear : Prop :=
  (∀ (req : Nat) (s : State), ∃ t, exec (.etickLoRead req) s = .next t ∧ t.dev.rdata = s.dev.tk.etick % 2 ^ 32 ∧ t.dev.rd R.ETICK_HI 0 0 req = s.dev.tk.etick / 2 ^ 32 % 2 ^ R.ETICK_HI.width ∧ RegsBut s.dev t.dev [R.ETICK_HI.key 0 0 req] ∧ t = { s with dev := { s.dev with regs := t.dev.regs, rdata := t.dev.rdata } }) ∧
  (∀ (req addr landed : Nat) (f : Field) (i : Nat) (g : Target) (s : State), s.dev.recoveryPath req = false ∧ s.dev.nvWindow req = false ∧ windowOff req addr = none ∧ isChsel addr = false ∧ isChsel (addr - 4) = false → s.dev.target req addr = some g ∧ s.dev.absentBlock (addr >>> 20) = false → g.fields = [(f, i, 0)] ∧ f.ty = .rc ∧ f.lo = 0 ∧ f.width ≤ 32 → f ≠ R.TB_NOW0 ∧ f ≠ R.TS_HEAD0 → ∃ t, exec (.rcRead req addr landed) s = .next t ∧ t.dev.rdata = s.view req f (g.ch f) i % 2 ^ 32 ∧ t.dev.rd f (g.ch f) i = min landed (2 ^ f.width - 1) ∧ (f.perReq = false → RegsBut s.dev t.dev [f.key (g.ch f) i 0]) ∧ t = { s with dev := { s.dev with regs := t.dev.regs, rdata := t.dev.rdata } }) ∧
  (∀ (req addr : Nat) (f : Field) (i : Nat) (g : Target) (s : State), s.dev.recoveryPath req = false ∧ s.dev.nvWindow req = false ∧ windowOff req addr = none ∧ isChsel addr = false ∧ isChsel (addr - 4) = false → s.dev.target req addr = some g ∧ s.dev.absentBlock (addr >>> 20) = false → g.fields = [(f, i, 0)] ∧ f.ty = .ro ∧ f.lo = 0 ∧ f.width = 64 → f ≠ R.ETICK_LO ∧ f ≠ R.LPM_DATA_LO ∧ f ≠ R.TB_NOW0 ∧ f ≠ R.TS_HEAD0 → ∃ t, exec (.counterLowRead req addr) s = .next t ∧ t.dev.rdata = s.view req f (g.ch f) i % 2 ^ 32 ∧ RegFile.get? t.dev.regs (latchKey f (g.ch f) i req) = some (s.view req f (g.ch f) i >>> 32) ∧ RegsBut s.dev t.dev [latchKey f (g.ch f) i req] ∧ t = { s with dev := { s.dev with regs := t.dev.regs, rdata := t.dev.rdata } }) ∧
  (∀ (req addr len value : Nat) (write : Bool) (s : State), ¬(len = 4 ∨ len = 8) ∨ addr % len ≠ 0 → ∃ t, exec (.bar0Access req addr len write value) s = .next t ∧ t.dev.rdata = 0 ∧ t.dev.rpoison = true ∧ (isFunc req = true → s.dev.boot.halted = false → t.dev.rd R.PC_CA (s.dev.fnLink req) = (s.dev.rd R.PC_CA (s.dev.fnLink req) + 1) % 2 ^ R.PC_CA.width) ∧ RegsBut s.dev t.dev [R.PC_CA.key (s.dev.fnLink req) 0 0] ∧ t = { s with dev := { s.dev with regs := t.dev.regs, rdata := 0, rpoison := true } }) ∧
  (∀ (req addr value : Nat) (s : State), addr % 4 = 0 → value < 2 ^ 32 → ∃ t, exec (.bar0Access req addr 4 true value) s = .next t ∧ exec (.registerWrite req addr value) s = .next t) ∧
  (∀ (req addr value : Nat) (s : State), addr % 8 = 0 → ∃ t, exec (.bar0Access req addr 8 true value) s = .next t ∧ t = (s.writeWord req addr (value % 2 ^ 32)).writeWord req (addr + 4) (value / 2 ^ 32)) ∧
  (∀ (req addr : Nat) (s : State), addr % 4 = 0 → ∃ t, exec (.bar0Access req addr 4 false 0) s = .next t ∧ t.dev.rdata = (s.busRead req addr 0).1 ∧ t.dev.rpoison = false ∧ exec (.rcRead req addr 0) s = .next { t with dev := { t.dev with rpoison := (s.busRead req addr 0).2.dev.rpoison } })

/-- A port climbs from OFF to UP, and falls from it, by the transitions of Table 2.4. On a formed port: ENABLE takes OFF to SIGNAL; signal and CDR lock on its lanes take SIGNAL to TRAIN where auto-negotiation or link training is on and to ALIGN otherwise; the end of training takes TRAIN to ALIGN with the chosen taps in SD_TXEQ; its failure or time-out takes TRAIN to SIGNAL; alignment with HI_BER clear takes ALIGN to UP; a fault clear for 1 ms takes FAULT to UP. Each change sets LINK_CHG, an entry into UP raises a class 11 event, and registers other than the port's link, its lanes, LINK_SUM and the SyncE squelch keep their values. Out of TRAIN a training result changes nothing. Clearing ENABLE takes a port from any state to OFF and clears its fault and high-BER bits. A fault takes UP to FAULT, loss of a lock or high BER takes UP and FAULT to ALIGN, loss of signal takes TRAIN and later states to SIGNAL, with the lane's lock cleared. An exit from UP counts LINK_DOWN once and raises a class 11 event with the new state. From below UP nothing is counted and only the port's link registers change. (02_network_ports.md R45; 02_network_ports.md R46; 02_network_ports.md Table 2.4.) -/
def Obligations.LinkStatesRiseAndFall : Prop :=
  (∀ (req p : Nat) (s : State), s.dev.formed p = true → s.dev.on R.PT_CTRL_ENABLE p = false → s.dev.rd R.PT_STATUS_LSTATE p = 0 → ∃ t, exec (.portEnable req p) s = .next t ∧ t.dev.rd R.PT_STATUS_LSTATE p = 1 ∧ t.dev.on R.PT_CTRL_ENABLE p = true ∧ t.dev.on R.PT_STATUS_LINK_CHG p = true ∧ OnlyRegsTick s t [R.PT_STATUS_LSTATE.key p 0 0, R.PT_STATUS_LINK_CHG.key p 0 0, R.LINK_SUM.key 0 0 0, R.SYNCE_RCLK_SQUELCHED.key 0 0 0, R.SYNCE_RCLK_SQUELCHED.key 0 1 0, R.PT_CTRL_ENABLE.key p 0 0]) ∧
  (∀ (p eye : Nat) (s : State), s.dev.rd R.PT_STATUS_LSTATE p = 1 → eye < 256 → ∃ t, exec (.linkSignalLock p eye) s = .next t ∧ (t.dev.rd R.PT_STATUS_LSTATE p = (if s.dev.on R.PT_CTRL_AN_EN p || s.dev.on R.PT_CTRL_LT_EN p then 2 else 3)) ∧ (∀ n ∈ s.dev.lanes p, t.dev.on R.SD_STATUS_SIGNAL n = true ∧ t.dev.on R.SD_STATUS_CDR_LOCK n = true ∧ t.dev.rd R.SD_STATUS_EYE n = eye) ∧ (OnlyRegs s t ([R.PT_STATUS_LSTATE.key p 0 0, R.PT_STATUS_LINK_CHG.key p 0 0, R.LINK_SUM.key 0 0 0, R.SYNCE_RCLK_SQUELCHED.key 0 0 0, R.SYNCE_RCLK_SQUELCHED.key 0 1 0] ++ (s.dev.lanes p).flatMap (fun n => [R.SD_STATUS_SIGNAL.key n 0 0, R.SD_STATUS_CDR_LOCK.key n 0 0, R.SD_STATUS_EYE.key n 0 0])))) ∧
  (∀ (p pre main post : Nat) (s : State), s.dev.rd R.PT_STATUS_LSTATE p = 2 → pre < 64 ∧ main < 64 ∧ post < 64 → ∃ t, exec (.linkTrainDone p pre main post) s = .next t ∧ t.dev.rd R.PT_STATUS_LSTATE p = 3 ∧ (∀ n ∈ s.dev.lanes p, t.dev.rd R.SD_TXEQ_PRE n = pre ∧ t.dev.rd R.SD_TXEQ_MAIN n = main ∧ t.dev.rd R.SD_TXEQ_POST n = post) ∧ (OnlyRegs s t ([R.PT_STATUS_LSTATE.key p 0 0, R.PT_STATUS_LINK_CHG.key p 0 0, R.LINK_SUM.key 0 0 0, R.SYNCE_RCLK_SQUELCHED.key 0 0 0, R.SYNCE_RCLK_SQUELCHED.key 0 1 0] ++ (s.dev.lanes p).flatMap (fun n => [R.SD_TXEQ_PRE.key n 0 0, R.SD_TXEQ_MAIN.key n 0 0, R.SD_TXEQ_POST.key n 0 0])))) ∧
  (∀ (p pre main post : Nat) (s : State), s.dev.rd R.PT_STATUS_LSTATE p ≠ 2 → ∃ t, exec (.linkTrainDone p pre main post) s = .next t ∧ t = s) ∧
  (∀ (p : Nat) (s : State), s.dev.rd R.PT_STATUS_LSTATE p = 2 → ∃ t, exec (.linkTrainFail p) s = .next t ∧ t.dev.rd R.PT_STATUS_LSTATE p = 1 ∧ OnlyRegs s t [R.PT_STATUS_LSTATE.key p 0 0, R.PT_STATUS_LINK_CHG.key p 0 0, R.LINK_SUM.key 0 0 0, R.SYNCE_RCLK_SQUELCHED.key 0 0 0, R.SYNCE_RCLK_SQUELCHED.key 0 1 0]) ∧
  (∀ (p : Nat) (s : State), s.dev.rd R.PT_STATUS_LSTATE p = 2 → ∃ t, exec (.linkTrainTimeout p) s = .next t ∧ t.dev.rd R.PT_STATUS_LSTATE p = 1 ∧ OnlyRegs s t [R.PT_STATUS_LSTATE.key p 0 0, R.PT_STATUS_LINK_CHG.key p 0 0, R.LINK_SUM.key 0 0 0, R.SYNCE_RCLK_SQUELCHED.key 0 0 0, R.SYNCE_RCLK_SQUELCHED.key 0 1 0]) ∧
  (∀ (p : Nat) (s : State), s.dev.rd R.PT_STATUS_LSTATE p ≠ 2 → ∃ t, exec (.linkTrainFail p) s = .next t ∧ t = s ∧ exec (.linkTrainTimeout p) s = .next s) ∧
  (∀ (p : Nat) (s : State), s.dev.rd R.PT_STATUS_LSTATE p = 3 → ∃ t, exec (.linkAlignLock p) s = .next t ∧ t.dev.rd R.PT_STATUS_LSTATE p = 4 ∧ t.dev.on R.PT_STATUS_HI_BER p = false ∧ t.dev.tk = { s.dev.tk with sampled := s.dev.tk.sampled ++ [⟨11, linkSrc p, 4⟩] } ∧ (p < 16 → bit (t.dev.rd R.LINK_SUM) p = true) ∧ OnlyRegsTick s t [R.PT_STATUS_LSTATE.key p 0 0, R.PT_STATUS_LINK_CHG.key p 0 0, R.LINK_SUM.key 0 0 0, R.SYNCE_RCLK_SQUELCHED.key 0 0 0, R.SYNCE_RCLK_SQUELCHED.key 0 1 0, R.PT_STATUS_HI_BER.key p 0 0]) ∧
  (∀ (p : Nat) (s : State), s.dev.rd R.PT_STATUS_LSTATE p = 5 → ∃ t, exec (.linkFaultClear p) s = .next t ∧ t.dev.rd R.PT_STATUS_LSTATE p = 4 ∧ t.dev.on R.PT_STATUS_LOCAL_FAULT p = false ∧ t.dev.on R.PT_STATUS_REMOTE_FAULT p = false ∧ t.dev.tk = { s.dev.tk with sampled := s.dev.tk.sampled ++ [⟨11, linkSrc p, 4⟩] } ∧ OnlyRegsTick s t [R.PT_STATUS_LSTATE.key p 0 0, R.PT_STATUS_LINK_CHG.key p 0 0, R.LINK_SUM.key 0 0 0, R.SYNCE_RCLK_SQUELCHED.key 0 0 0, R.SYNCE_RCLK_SQUELCHED.key 0 1 0, R.PT_STATUS_LOCAL_FAULT.key p 0 0, R.PT_STATUS_REMOTE_FAULT.key p 0 0]) ∧
  (∀ (req p : Nat) (b : Bool) (s : State), s.dev.formed p = true → s.dev.on R.PT_CTRL_ENABLE p = true → s.dev.rd R.PT_STATUS_LSTATE p ≠ 4 → ∃ t, exec (.portDisable req p b) s = .next t ∧ t.dev.rd R.PT_STATUS_LSTATE p = 0 ∧ t.dev.on R.PT_CTRL_ENABLE p = false ∧ t.dev.on R.PT_STATUS_LOCAL_FAULT p = false ∧ t.dev.on R.PT_STATUS_REMOTE_FAULT p = false ∧ t.dev.on R.PT_STATUS_HI_BER p = false ∧ OnlyRegsTick s t [R.PT_STATUS_LSTATE.key p 0 0, R.PT_STATUS_LINK_CHG.key p 0 0, R.LINK_SUM.key 0 0 0, R.SYNCE_RCLK_SQUELCHED.key 0 0 0, R.SYNCE_RCLK_SQUELCHED.key 0 1 0, R.PT_CTRL_ENABLE.key p 0 0, R.PT_STATUS_LOCAL_FAULT.key p 0 0, R.PT_STATUS_REMOTE_FAULT.key p 0 0, R.PT_STATUS_HI_BER.key p 0 0]) ∧
  (∀ (req p : Nat) (b : Bool) (s : State), s.dev.formed p = true → s.dev.on R.PT_CTRL_ENABLE p = true → s.dev.rd R.PT_STATUS_LSTATE p = 4 → ∃ t, exec (.portDisable req p b) s = .next t ∧ t.dev.rd R.PT_STATUS_LSTATE p = 0 ∧ t.dev.on R.PT_CTRL_ENABLE p = false ∧ t.dev.tk.sampled.getLast? = some ⟨11, linkSrc p, 0⟩ ∧ t.hbm = s.hbm ∧ t.fuse = s.fuse ∧ t.pending = s.pending ∧ t.dev.rd R.LINK_DOWN p = (s.dev.rd R.LINK_DOWN p + 1) % 2 ^ R.LINK_DOWN.width) ∧
  (∀ (p : Nat) (r b : Bool) (s : State), s.dev.rd R.PT_STATUS_LSTATE p = 4 → ∃ t, exec (.linkFault p r b) s = .next t ∧ t.dev.rd R.PT_STATUS_LSTATE p = 5 ∧ (t.dev.on (if r then R.PT_STATUS_REMOTE_FAULT else R.PT_STATUS_LOCAL_FAULT) p = true) ∧ t.dev.tk.sampled.getLast? = some ⟨11, linkSrc p, 5⟩ ∧ t.dev.rd R.LINK_DOWN p = (s.dev.rd R.LINK_DOWN p + 1) % 2 ^ R.LINK_DOWN.width) ∧
  (∀ (p : Nat) (r b : Bool) (s : State), s.dev.rd R.PT_STATUS_LSTATE p ≠ 4 → ∃ t, exec (.linkFault p r b) s = .next t ∧ (t.dev.on (if r then R.PT_STATUS_REMOTE_FAULT else R.PT_STATUS_LOCAL_FAULT) p = true) ∧ (OnlyRegs s t [(if r then R.PT_STATUS_REMOTE_FAULT else R.PT_STATUS_LOCAL_FAULT).key p 0 0])) ∧
  (∀ (p : Nat) (h b : Bool) (s : State), s.dev.rd R.PT_STATUS_LSTATE p = 4 → ∃ t, exec (.linkLockLoss p h b) s = .next t ∧ t.dev.rd R.PT_STATUS_LSTATE p = 3 ∧ (h = true → t.dev.on R.PT_STATUS_HI_BER p = true) ∧ t.dev.tk.sampled.getLast? = some ⟨11, linkSrc p, 3⟩ ∧ t.dev.rd R.LINK_DOWN p = (s.dev.rd R.LINK_DOWN p + 1) % 2 ^ R.LINK_DOWN.width) ∧
  (∀ (p : Nat) (h b : Bool) (s : State), s.dev.rd R.PT_STATUS_LSTATE p = 5 → ∃ t, exec (.linkLockLoss p h b) s = .next t ∧ t.dev.rd R.PT_STATUS_LSTATE p = 3 ∧ OnlyRegs s t [R.PT_STATUS_LSTATE.key p 0 0, R.PT_STATUS_LINK_CHG.key p 0 0, R.LINK_SUM.key 0 0 0, R.SYNCE_RCLK_SQUELCHED.key 0 0 0, R.SYNCE_RCLK_SQUELCHED.key 0 1 0, R.PT_STATUS_HI_BER.key p 0 0]) ∧
  (∀ (p lane : Nat) (g b : Bool) (s : State), s.dev.rd R.PT_STATUS_LSTATE p = 4 → ∃ t, exec (.linkSignalLoss p lane g b) s = .next t ∧ t.dev.rd R.PT_STATUS_LSTATE p = 1 ∧ t.dev.on R.SD_STATUS_CDR_LOCK lane = false ∧ t.dev.tk.sampled.getLast? = some ⟨11, linkSrc p, 1⟩ ∧ t.dev.rd R.LINK_DOWN p = (s.dev.rd R.LINK_DOWN p + 1) % 2 ^ R.LINK_DOWN.width) ∧
  (∀ (p lane : Nat) (g b : Bool) (s : State), s.dev.rd R.PT_STATUS_LSTATE p = 2 ∨ s.dev.rd R.PT_STATUS_LSTATE p = 3 ∨ s.dev.rd R.PT_STATUS_LSTATE p = 5 → ∃ t, exec (.linkSignalLoss p lane g b) s = .next t ∧ t.dev.rd R.PT_STATUS_LSTATE p = 1 ∧ t.dev.on R.SD_STATUS_CDR_LOCK lane = false ∧ OnlyRegs s t [R.PT_STATUS_LSTATE.key p 0 0, R.PT_STATUS_LINK_CHG.key p 0 0, R.LINK_SUM.key 0 0 0, R.SYNCE_RCLK_SQUELCHED.key 0 0 0, R.SYNCE_RCLK_SQUELCHED.key 0 1 0, R.SD_STATUS_SIGNAL.key lane 0 0, R.SD_STATUS_CDR_LOCK.key lane 0 0, R.SD_STATUS_EYE.key lane 0 0])

/-- A mode write sets its lane group and its pair, or is refused; a snapshot copies every counter. A write of mode 0 to 7 with no port of the affected groups enabled: the group reads the mode, under mode 1 its pair too, a pair that left mode 1 reads 0, and PORT_FORMED follows the modes. With such a port enabled, or a reserved mode, only LG_MODE_REFUSED sets the group's bit. PT_CNT_SNAP copies each of the 32 counters to its place in the snapshot area, and changes no other register. (02_network_ports.md R41; 02_network_ports.md R42; 02_network_ports.md R64.) -/
def Obligations.LaneGroupModesAndSnapshots : Prop :=
  (∀ (req g mode : Nat) (s : State), g < 4 ∧ mode < 8 → s.dev.modeFree g mode = true → ∃ t, exec (.lgModeWrite req g mode) s = .next t ∧ t.dev.rd R.LG_MODE 0 g = mode ∧ (mode = 1 → t.dev.rd R.LG_MODE 0 (pairOf g) = 1) ∧ (mode ≠ 1 → s.dev.rd R.LG_MODE 0 g = 1 → t.dev.rd R.LG_MODE 0 (pairOf g) = 0) ∧ (∀ h, h < 4 → h ∉ s.dev.modeGroups g mode → t.dev.rd R.LG_MODE 0 h = s.dev.rd R.LG_MODE 0 h) ∧ (t.dev.rd R.PORT_FORMED = (((List.range 16).filter (fun p => t.dev.formed p)).map (fun p => 2 ^ p)).sum) ∧ t.hbm = s.hbm ∧ t.fuse = s.fuse ∧ t.pending = s.pending) ∧
  (∀ (req g mode : Nat) (s : State), g < 4 → 8 ≤ mode ∨ s.dev.modeFree g mode = false → ∃ t, exec (.lgModeWrite req g mode) s = .next t ∧ bit (t.dev.rd R.LG_MODE_REFUSED) g = true ∧ OnlyRegsTick s t [R.LG_MODE_REFUSED.key 0 0 0]) ∧
  (∀ (req p : Nat) (s : State), ∃ t, exec (.snap req p) s = .next t ∧ (∀ n x, portCounters[n]? = some x → t.dev.rd R.PT_SNAP p n = s.dev.rd x.1 p x.2 % 2 ^ R.PT_SNAP.width) ∧ (OnlyRegsTick s t ((List.range 32).map (fun n => R.PT_SNAP.key p n 0))))

/-- PAUSE and PFC frames pause classes under the selected setting; occupancy drives XOFF, its repetition and XON. A MAC control frame is always counted. A PAUSE frame under FC 1 pauses all eight classes for its quanta, or releases them with zero; a PFC frame under FC 2 does so for each named class that PFC_RX_EN has; under another setting no class changes. A pause that expires releases its class. When an enabled class that is not paused reaches PFC_XOFF the port sends its PAUSE_QUANTA and shows the class in TX_PAUSED; while it holds at PFC_XON or above, half the quanta later it repeats the frame; below PFC_XON it sends quanta zero and the bit clears. (02_network_ports.md R52; 02_network_ports.md R53; 02_network_ports.md R54.) -/
def Obligations.FlowControlPausesClasses : Prop :=
  (∀ (p classes : Nat) (q : List Nat) (s : State), s.dev.rd R.PT_CTRL_FC p = 1 → ∃ t, exec (.macControlFrame p false classes q) s = .next t ∧ t.dev.rd R.RX_PAUSE p = (s.dev.rd R.RX_PAUSE p + 1) % 2 ^ R.RX_PAUSE.width ∧ (∀ c, c < 8 → bit (t.dev.rd R.PT_PFC_STATUS_RX_PAUSED p) c = decide (q.getD 0 0 ≠ 0)) ∧ (∀ c, c < 8 → SMap.get? t.dev.ports.pausedBy (8 * p + c) = (if q.getD 0 0 = 0 then none else some (q.getD 0 0))) ∧ RegsBut s.dev t.dev [R.RX_PAUSE.key p 0 0, R.PT_PFC_STATUS_RX_PAUSED.key p 0 0] ∧ t = { s with dev := { s.dev with regs := t.dev.regs, ports := { s.dev.ports with pausedBy := t.dev.ports.pausedBy } } }) ∧
  (∀ (p classes : Nat) (q : List Nat) (s : State), s.dev.rd R.PT_CTRL_FC p = 2 → ∃ t, exec (.macControlFrame p true classes q) s = .next t ∧ t.dev.rd R.RX_PAUSE p = (s.dev.rd R.RX_PAUSE p + 1) % 2 ^ R.RX_PAUSE.width ∧ (∀ c, c < 8 → bit classes c = true → t.dev.rd R.RX_PFC p c = (s.dev.rd R.RX_PFC p c + 1) % 2 ^ R.RX_PFC.width) ∧ (∀ c, c < 8 → bit classes c = true → bit (s.dev.rd R.PT_PFC_PFC_RX_EN p) c = true → bit (t.dev.rd R.PT_PFC_STATUS_RX_PAUSED p) c = decide (q.getD c 0 ≠ 0)) ∧ (∀ c, c < 8 → bit classes c = false ∨ bit (s.dev.rd R.PT_PFC_PFC_RX_EN p) c = false → bit (t.dev.rd R.PT_PFC_STATUS_RX_PAUSED p) c = bit (s.dev.rd R.PT_PFC_STATUS_RX_PAUSED p) c)) ∧
  (∀ (p classes : Nat) (pfc : Bool) (q : List Nat) (s : State), s.dev.rd R.PT_CTRL_FC p = 0 → ∃ t, exec (.macControlFrame p pfc classes q) s = .next t ∧ t.dev.rd R.RX_PAUSE p = (s.dev.rd R.RX_PAUSE p + 1) % 2 ^ R.RX_PAUSE.width ∧ (OnlyRegs s t (R.RX_PAUSE.key p 0 0 :: (List.range 8).map (fun c => R.RX_PFC.key p c 0)))) ∧
  (∀ (p c : Nat) (s : State), c < 8 → ∃ t, exec (.pfcPauseExpire p c) s = .next t ∧ bit (t.dev.rd R.PT_PFC_STATUS_RX_PAUSED p) c = false ∧ SMap.get? t.dev.ports.pausedBy (8 * p + c) = none ∧ RegsBut s.dev t.dev [R.PT_PFC_STATUS_RX_PAUSED.key p 0 0] ∧ t = { s with dev := { s.dev with regs := t.dev.regs, ports := { s.dev.ports with pausedBy := t.dev.ports.pausedBy } } }) ∧
  (∀ (p c occ : Nat) (s : State), c < 8 → bit (s.dev.rd R.PT_PFC_PFC_TX_EN p) c = true → s.dev.rd R.PT_PFC_THR_PFC_XOFF p ≤ occ → bit (s.dev.rd R.PT_PFC_STATUS_TX_PAUSED p) c = false → ∃ t, exec (.pfcXoff p c occ) s = .next t ∧ t.dev.ports.pfcSent = s.dev.ports.pfcSent ++ [⟨p, 2 ^ c, s.dev.rd R.PT_PFC_PAUSE_QUANTA p⟩] ∧ bit (t.dev.rd R.PT_PFC_STATUS_TX_PAUSED p) c = true ∧ t.dev.rd R.TX_PFC p c = (s.dev.rd R.TX_PFC p c + 1) % 2 ^ R.TX_PFC.width ∧ RegsBut s.dev t.dev [R.TX_PAUSE.key p 0 0, R.TX_PFC.key p c 0, R.PT_PFC_STATUS_TX_PAUSED.key p 0 0] ∧ t = { s with dev := { s.dev with regs := t.dev.regs, ports := { s.dev.ports with occ := t.dev.ports.occ, pfcSent := t.dev.ports.pfcSent } } }) ∧
  (∀ (p c occ : Nat) (s : State), c < 8 → bit (s.dev.rd R.PT_PFC_STATUS_TX_PAUSED p) c = true → s.dev.rd R.PT_PFC_THR_PFC_XON p ≤ occ → ∃ t, exec (.pfcRepeat p c occ) s = .next t ∧ t.dev.ports.pfcSent = s.dev.ports.pfcSent ++ [⟨p, 2 ^ c, s.dev.rd R.PT_PFC_PAUSE_QUANTA p⟩] ∧ RegsBut s.dev t.dev [R.TX_PAUSE.key p 0 0, R.TX_PFC.key p c 0]) ∧
  (∀ (p c occ : Nat) (s : State), c < 8 → bit (s.dev.rd R.PT_PFC_STATUS_TX_PAUSED p) c = true → occ < s.dev.rd R.PT_PFC_THR_PFC_XON p → ∃ t, exec (.pfcXon p c occ) s = .next t ∧ t.dev.ports.pfcSent = s.dev.ports.pfcSent ++ [⟨p, 2 ^ c, 0⟩] ∧ bit (t.dev.rd R.PT_PFC_STATUS_TX_PAUSED p) c = false ∧ RegsBut s.dev t.dev [R.TX_PAUSE.key p 0 0, R.TX_PFC.key p c 0, R.PT_PFC_STATUS_TX_PAUSED.key p 0 0])

/-- The ordered log takes a tick's events by class, then source, then order of arrival. When a tick ends, the log is the old log followed by the tick's events, each with the tick's number: the same events, in no place one of a later class, or of the same class and a later source, before one of an earlier, and the events of one class and source in the order in which the sampler took them. (R31.) -/
def Obligations.EventsOfATickAreOrdered : Prop :=
  ∀ (d : Dev), ∃ l : List Ev, (d.tickOver).tk.log = d.nvSnap.tk.log ++ l.map (fun e => (d.nvSnap.tk.etick, e)) ∧ l.Perm d.nvSnap.tk.sampled ∧
    l.Pairwise (fun a b => ¬ (b.cls < a.cls ∨ (b.cls = a.cls ∧ b.src < a.src))) ∧
    ∀ c n, l.filter (fun e => decide (e.cls = c ∧ e.src = n)) = d.nvSnap.tk.sampled.filter (fun e => decide (e.cls = c ∧ e.src = n))

/-- An event tick ends its tick, counts, advances the time base by eight cycles, and begins the next with what waited. EVENT_TICK answers the state whose device has ended its tick, done the waiting actions of the boundary and the engines' work of a tick. Ending the tick counts ETICK by one, takes the counter eight TIME cycles on under TB_INCR and the slew, and leaves no event, write or action of the new tick. With no step of the counter and no calibration waiting, a boundary without actions changes nothing more. (01_islands_and_lacing.md R26, R29, R33; 03_time_base.md R67, R71.) -/
def Obligations.EventTickAdvancesTime : Prop :=
  (∀ (s : State), ∃ t, exec (.eventTick) s = .next t ∧ t = { s with dev := (s.dev.tickOver.tickBegin s.dev.tk.acts).tickWork }) ∧
  (∀ (d : Dev), (d.tickOver).tk.etick = d.tk.etick + 1 ∧ (d.tickOver).tk.sampled = [] ∧ (d.tickOver).tk.wrote = [] ∧ (d.tickOver).tk.acts = [] ∧ (d.tickOver).tb.t = d.nowAt 8) ∧
  (∀ (d : Dev), d.tb.jumps = [] → d.cal.due = [] → (d.tickOver).tickBegin [] = d.tickOver)

/-- The time base's commands: reading the counter, SET, STEP, SLEW, HOLDOVER, CLEAR_INTEG. A read of TB_NOW0 returns the nanoseconds of the counter at its TIME cycle and latches the rest for its requester. SET, STEP, SLEW, HOLDOVER and CLEAR_INTEG wait for the next tick boundary and are judged there. While the sequencer runs, or a START sampled before them is about to start it, SET and STEP are refused with cause 1, and a SET of 10^9 nanoseconds or more with cause 2; otherwise the counter takes the new value, the slew ends, STEP_GEN rises and the time-step event is raised. SLEW, with the servo off, puts its offset in place of any slew; HOLDOVER takes ACQUIRING and LOCKED to HOLDOVER; CLEAR_INTEG, with the servo off, clears INTEG and makes TB_INCR nominal. With the servo on, SLEW and CLEAR_INTEG are refused with cause 3, as is HOLDOVER with it off or in FREE. (03_time_base.md R69, R70, R71, R72; 03_time_base.md R77, R80.) -/
def Obligations.TimeCommandsActOnTheCounter : Prop :=
  (∀ (req k : Nat) (s : State), ∃ t, exec (.tbNowRead req k) s = .next t ∧ t.dev.rdata = tbNs (s.dev.nowAt k) ∧ t.dev.rd R.TB_NOW1 0 0 req = tbSec (s.dev.nowAt k) % 2 ^ 32 ∧ t.dev.rd R.TB_NOW2_SEC_HI 0 0 req = tbSec (s.dev.nowAt k) >>> 32 % 2 ^ 16 ∧ t.dev.rd R.TB_NOW2_SUBNS 0 0 req = tbFrac (s.dev.nowAt k) >>> 16 % 2 ^ 16 ∧ RegsBut s.dev t.dev [R.TB_NOW0.key 0 0 req, R.TB_NOW1.key 0 0 req, R.TB_NOW2_SEC_HI.key 0 0 req, R.TB_NOW2_SUBNS.key 0 0 req] ∧ t = { s with dev := { s.dev with regs := t.dev.regs, rdata := t.dev.rdata } }) ∧
  (∀ (req : Nat) (s : State), ∃ t, exec (.set req) s = .next t ∧ t.dev.tk.acts = s.dev.tk.acts ++ [⟨9, srcNum (reqIsland req) 0, .timeSet (s.dev.rd R.TB_SET_SEC_LO + s.dev.rd R.TB_SET_SEC_HI <<< 32) (s.dev.rd R.TB_SET_NS * nsUnit) (s.dev.startAhead 9 (srcNum (reqIsland req) 0))⟩] ∧ OnlyRegsTick s t []) ∧
  (∀ (req : Nat) (s : State), ∃ t, exec (.step req) s = .next t ∧ t.dev.tk.acts = s.dev.tk.acts ++ [⟨9, srcNum (reqIsland req) 0, .timeStep (s.dev.rd R.TB_STEP_OFF) (s.dev.startAhead 9 (srcNum (reqIsland req) 0))⟩] ∧ OnlyRegsTick s t []) ∧
  (∀ (req : Nat) (s : State), ∃ t, exec (.slew req) s = .next t ∧ t.dev.tk.acts = s.dev.tk.acts ++ [⟨9, srcNum (reqIsland req) 0, .slew (s.dev.rd R.TB_STEP_OFF)⟩] ∧ OnlyRegsTick s t []) ∧
  (∀ (req : Nat) (s : State), ∃ t, exec (.holdover req) s = .next t ∧ t.dev.tk.acts = s.dev.tk.acts ++ [⟨9, srcNum (reqIsland req) 0, .holdover⟩] ∧ OnlyRegsTick s t []) ∧
  (∀ (req : Nat) (s : State), ∃ t, exec (.clearInteg req) s = .next t ∧ t.dev.tk.acts = s.dev.tk.acts ++ [⟨9, srcNum (reqIsland req) 0, .clearInteg⟩] ∧ OnlyRegsTick s t []) ∧
  (∀ (d e : Dev) (n off : Nat) (a : Bool), e = d.boundaryAct ⟨9, n, .timeStep off a⟩ → d.seqRunning = true ∨ (a = true ∧ d.startCause = 0) → e.on R.TB_STATUS_CMD_REFUSED = true ∧ e.rd R.TB_STATUS_CMD_CAUSE = 1 ∧ e.tb = d.tb ∧ RegsBut d e [R.TB_STATUS_CMD_REFUSED.key 0 0 0, R.TB_STATUS_CMD_CAUSE.key 0 0 0]) ∧
  (∀ (d e : Dev) (n off : Nat) (a : Bool), e = d.boundaryAct ⟨9, n, .timeStep off a⟩ → d.seqRunning = false ∧ (a = true → d.startCause ≠ 0) → e.tb.t = stepped d.tb.t (signed 64 off) % tbWrap ∧ e.tb.slew = 0 ∧ e.rd R.TB_STATUS_STEP_GEN = (d.rd R.TB_STATUS_STEP_GEN + 1) % 2 ^ R.TB_STATUS_STEP_GEN.width ∧ ⟨3, srcNum 1 18, 0⟩ ∈ e.tk.sampled ∧ e.rd R.TB_CMD_TICK = d.tk.etick % 2 ^ 32 ∧ (d.on R.TB_CTRL_SERVO_EN = true → e.rd R.TB_STATUS_STATE = 1)) ∧
  (∀ (d e : Dev) (n sec sub : Nat) (a : Bool), e = d.boundaryAct ⟨9, n, .timeSet sec sub a⟩ → d.seqRunning = false ∧ (a = true → d.startCause ≠ 0) → (sub < secUnit → e.tb.t = (sec * secUnit + sub) % tbWrap ∧ e.tb.slew = 0 ∧ ⟨3, srcNum 1 18, 0⟩ ∈ e.tk.sampled) ∧ (secUnit ≤ sub → e.on R.TB_STATUS_CMD_REFUSED = true ∧ e.rd R.TB_STATUS_CMD_CAUSE = 2 ∧ e.tb = d.tb)) ∧
  (∀ (d e : Dev) (n off : Nat), e = d.boundaryAct ⟨9, n, .slew off⟩ → (d.on R.TB_CTRL_SERVO_EN = false → e = { d with tb := { d.tb with slew := signed 64 off * 2 ^ 16 } }) ∧ (d.on R.TB_CTRL_SERVO_EN = true → e.on R.TB_STATUS_CMD_REFUSED = true ∧ e.rd R.TB_STATUS_CMD_CAUSE = 3 ∧ e.tb = d.tb)) ∧
  (∀ (d e : Dev) (n : Nat), e = d.boundaryAct ⟨9, n, .holdover⟩ → d.on R.TB_CTRL_SERVO_EN = true → d.rd R.TB_STATUS_STATE = 1 ∨ d.rd R.TB_STATUS_STATE = 2 → e.rd R.TB_STATUS_STATE = 3 ∧ e.on R.TB_STATUS_STATE_CHG = true ∧ e.tk.sampled.getLast? = some ⟨11, srcNum 1 19, 3⟩ ∧ RegsBut d e [R.TB_STATUS_STATE.key 0 0 0, R.TB_STATUS_STATE_CHG.key 0 0 0, R.TB_HO_ELAPSED.key 0 0 0]) ∧
  (∀ (d e : Dev) (n : Nat), e = d.boundaryAct ⟨9, n, .holdover⟩ → d.on R.TB_CTRL_SERVO_EN = false ∨ d.rd R.TB_STATUS_STATE = 0 → e.on R.TB_STATUS_CMD_REFUSED = true ∧ e.rd R.TB_STATUS_CMD_CAUSE = 3 ∧ e.tb = d.tb) ∧
  (∀ (d e : Dev) (n : Nat), e = d.boundaryAct ⟨9, n, .clearInteg⟩ → (d.on R.TB_CTRL_SERVO_EN = false → e.tb = { d.tb with integ := 0 } ∧ e.rd R.TB_INTEG = 0 ∧ e.rd R.TB_INCR = tbNominal ∧ (1 ≤ d.rd R.TB_FREQ_LIMIT → e.rd R.TB_STATUS_FREQ_CLAMP = 0) ∧ RegsBut d e [R.TB_INTEG.key 0 0 0, R.TB_INCR.key 0 0 0, R.TB_STATUS_FREQ_CLAMP.key 0 0 0]) ∧ (d.on R.TB_CTRL_SERVO_EN = true → e.on R.TB_STATUS_CMD_REFUSED = true ∧ e.rd R.TB_STATUS_CMD_CAUSE = 3 ∧ e.tb = d.tb))

/-- The servo takes, steps or slews by, and discards samples; rates and calibration are written. A TB_CTRL write sets SERVO_EN, SRC and L1_SYNT, but leaves SRC on a source the part lacks. A software sample that matches source and generation joins the servo's input; another is counted discarded, at its submission or when taken. An accepted one sets TB_LAST_OFFSET; beyond the step threshold, with no sequencer running, the counter is moved by its negative, STEP_GEN rises and the slew ends; within it INTEG takes the clamped exact value and the slew the proportional part. A lost source takes ACQUIRING to FREE and LOCKED to HOLDOVER. A TB_INCR commit within the limit, with the servo off, sets TB_INCR; otherwise INCR_REFUSED sets. A user calibration write stores its value and is due with the new delays; an SGMII speed changes the MGMT rate code. (03_time_base.md R75, R76, R77, R78, R79, R80; 03_time_base.md R84, R86, R87.) -/
def Obligations.ServoFollowsItsSamples : Prop :=
  (∀ (req v : Nat) (s : State), bits v 2 1 ≠ 3 ∧ (bits v 2 1 = 2 → s.dev.unit 1 = true) → ∃ t, exec (.tbCtrlWrite req v) s = .next t ∧ t.dev.rd R.TB_CTRL_SERVO_EN = v % 2 ∧ t.dev.rd R.TB_CTRL_SRC = bits v 2 1 ∧ t.dev.rd R.TB_CTRL_L1_SYNT = bits v 3 3 ∧ t.hbm = s.hbm ∧ t.fuse = s.fuse ∧ t.dev.tb.t = s.dev.tb.t) ∧
  (∀ (req v : Nat) (s : State), bits v 2 1 = 3 ∨ (bits v 2 1 = 2 ∧ s.dev.unit 1 = false) → ∃ t, exec (.tbCtrlWrite req v) s = .next t ∧ t.dev.on R.TB_STATUS_SRC_REFUSED = true ∧ t.dev.rd R.TB_CTRL_SRC = s.dev.rd R.TB_CTRL_SRC ∧ t.dev.rd R.TB_CTRL_SERVO_EN = v % 2) ∧
  (∀ (req v : Nat) (s : State), s.dev.on R.TB_CTRL_SERVO_EN = true ∧ s.dev.rd R.TB_CTRL_SRC = 0 ∧ v >>> 16 % 2 ^ 16 = s.dev.rd R.TB_STATUS_STEP_GEN → ∃ t, exec (.tbSwOffsetSubmit req v) s = .next t ∧ t.dev.tb = { s.dev.tb with samples := s.dev.tb.samples ++ [⟨0, v >>> 16 % 2 ^ 16, signed 48 ((v % 2 ^ 16) <<< 32 + s.dev.rd R.TB_SW_OFFSET_LO 0 0 req)⟩] } ∧ OnlyRegsTick s { t with dev := { t.dev with tb := s.dev.tb } } []) ∧
  (∀ (req v : Nat) (s : State), s.dev.on R.TB_CTRL_SERVO_EN = false → ∃ t, exec (.tbSwOffsetSubmit req v) s = .next t ∧ t.dev.rd R.TB_SAMPLE_DISCARD = min (s.dev.rd R.TB_SAMPLE_DISCARD + 1) (2 ^ 32 - 1) ∧ OnlyRegsTick s t [R.TB_SAMPLE_DISCARD.key 0 0 0]) ∧
  (∀ (x : Sample) (xs : List Sample) (s : State), s.dev.tb.samples = x :: xs → s.dev.sampleBad x = true → ∃ t, exec (.servoSample) s = .next t ∧ t.dev.rd R.TB_SAMPLE_DISCARD = min (s.dev.rd R.TB_SAMPLE_DISCARD + 1) (2 ^ 32 - 1) ∧ t.dev.tb = { s.dev.tb with samples := xs } ∧ RegsBut s.dev t.dev [R.TB_SAMPLE_DISCARD.key 0 0 0]) ∧
  (∀ (x : Sample) (xs : List Sample) (s : State), s.dev.tb.samples = x :: xs → s.dev.sampleBad x = false → s.dev.rd R.TB_STEP_THRESH * 2 ^ 16 < x.theta.natAbs → s.dev.stepRefused = false → ∃ t, exec (.servoSample) s = .next t ∧ t.dev.rd R.TB_LAST_OFFSET = twos 64 x.theta ∧ t.dev.tb.t = stepped s.dev.tb.t (-x.theta) % tbWrap ∧ t.dev.rd R.TB_STATUS_STEP_GEN = (s.dev.rd R.TB_STATUS_STEP_GEN + 1) % 2 ^ R.TB_STATUS_STEP_GEN.width ∧ t.dev.tb.slew = 0 ∧ ⟨3, srcNum 1 18, 0⟩ ∈ t.dev.tk.sampled ∧ t.dev.tb.samples = xs) ∧
  (∀ (x : Sample) (xs : List Sample) (s : State), s.dev.tb.samples = x :: xs → s.dev.sampleBad x = false → x.theta.natAbs ≤ s.dev.rd R.TB_STEP_THRESH * 2 ^ 16 → ∃ t, exec (.servoSample) s = .next t ∧ t.dev.rd R.TB_LAST_OFFSET = twos 64 x.theta ∧ t.dev.tb.integ = s.dev.nextInteg x.theta s.dev.sampleTau ∧ t.dev.rd R.TB_INCR = twos 64 ((tbNominal : Int) + t.dev.tb.integ) ∧ t.dev.tb.slew = -(roundDiv ((s.dev.rd R.TB_GAIN_KP : Int) * x.theta) (2 ^ 16)) * 2 ^ 16 ∧ t.dev.tb.t = s.dev.tb.t) ∧
  (∀ (s : State), s.dev.sourceLost = true ∧ s.dev.on R.TB_CTRL_SERVO_EN = true → ∃ t, exec (.servoSourceLost) s = .next t ∧ (s.dev.rd R.TB_STATUS_STATE = 1 → t.dev.rd R.TB_STATUS_STATE = 0) ∧ (s.dev.rd R.TB_STATUS_STATE = 2 → t.dev.rd R.TB_STATUS_STATE = 3) ∧ (s.dev.rd R.TB_STATUS_STATE = 3 → t = s) ∧ t.dev.tb.t = s.dev.tb.t) ∧
  (∀ (req v : Nat) (s : State), s.dev.on R.TB_CTRL_SERVO_EN = false → v < 2 ^ 32 → s.dev.incrInRange (v <<< 32 + (SMap.get? s.dev.tb.incrLo req).getD (s.dev.rd R.TB_INCR % 2 ^ 32)) = true → ∃ t, exec (.tbIncrCommit req v) s = .next t ∧ t.dev.rd R.TB_INCR = (v <<< 32 + (SMap.get? s.dev.tb.incrLo req).getD (s.dev.rd R.TB_INCR % 2 ^ 32)) % 2 ^ 64 ∧ SMap.get? t.dev.tb.incrLo req = none ∧ RegsBut s.dev t.dev [R.TB_INCR.key 0 0 0]) ∧
  (∀ (req v : Nat) (s : State), s.dev.on R.TB_CTRL_SERVO_EN = true → ∃ t, exec (.tbIncrCommit req v) s = .next t ∧ t.dev.on R.TB_STATUS_INCR_REFUSED = true ∧ t.dev.rd R.TB_INCR = s.dev.rd R.TB_INCR ∧ RegsBut s.dev t.dev [R.TB_STATUS_INCR_REFUSED.key 0 0 0]) ∧
  (∀ (req p w v : Nat) (s : State), w < 4 → ∃ t, exec (.calUserWrite req p w v) s = .next t ∧ (∀ f, f = (if w = 0 then R.CAL_CABLE else if w = 1 then R.CAL_ASYM else if w = 2 then R.CAL_TX_CORR else R.CAL_RX_CORR) → t.dev.rd f p = v % 2 ^ 32 ∧ RegsBut s.dev t.dev [f.key p 0 0]) ∧ t.dev.cal.due = s.dev.cal.due ++ [(s.dev.tk.etick, p, t.dev.calNow p)] ∧ t = { s with dev := { s.dev with regs := t.dev.regs, tk := t.dev.tk, cal := t.dev.cal } }) ∧
  (∀ (v : Nat) (s : State), s.dev.cal.mgmtRate ≠ 9 → ∃ t, exec (.mgmtSpeedResolve v) s = .next t ∧ t.dev.cal.mgmtRate = 10 + min v 2 ∧ t = { s with dev := { s.dev with cal := t.dev.cal } }) ∧
  (∀ (v : Nat) (s : State), s.dev.cal.mgmtRate = 9 → ∃ t, exec (.mgmtSpeedResolve v) s = .next t ∧ t = s)

/-- Triggers arm, fire, fire late, stop; PPS_OUT rises at each second and falls. An accepted ARM sets ARMED and clears FIRED; a start that lies ahead is the next fire, a start past makes a LATE fire due at the next tick. A refused ARM sets ARM_REFUSED alone. DISARM ends further fires and leaves pins. At its fire time an armed trigger counts, raises its class 3 event and begins the pulses of its pins; a LATE fire raises the event marked late, sets LATE and starts no pulse. A pulse past its end is gone. PPS_OUT raises its event at each whole second whose edge it has not driven yet, rises unless OUT_QUAL holds it low, and falls after its width. (03_time_base.md R90, R91, R92, R93.) -/
def Obligations.TriggersArmAndFire : Prop :=
  (∀ (req n : Nat) (s : State), s.dev.on R.TT_STATUS_ARMED n = false → s.dev.armRefused n = false → s.dev.now ≤ s.dev.ttStart n → ∃ t, exec (.triggerArm req n) s = .next t ∧ t.dev.on R.TT_STATUS_ARMED n = true ∧ (t.dev.tt n).next = some (s.dev.ttStart n) ∧ (t.dev.tt n).late = none ∧ t.dev.rd R.TT_FIRED n = 0 ∧ t.dev.rd R.TT_NEXT n = time96Of (s.dev.ttStart n) % 2 ^ R.TT_NEXT.width ∧ t = { s with dev := { s.dev with regs := t.dev.regs, tk := t.dev.tk, trig := t.dev.trig } }) ∧
  (∀ (req n : Nat) (s : State), s.dev.on R.TT_STATUS_ARMED n = false → s.dev.armRefused n = false → s.dev.ttStart n < s.dev.now → ∃ t, exec (.triggerArm req n) s = .next t ∧ t.dev.on R.TT_STATUS_ARMED n = true ∧ (t.dev.tt n).late = some (s.dev.tk.etick + 1) ∧ (s.dev.rd R.TT_PERIOD n = 0 → (t.dev.tt n).next = none)) ∧
  (∀ (req n : Nat) (s : State), s.dev.on R.TT_STATUS_ARMED n = false → s.dev.armRefused n = true → ∃ t, exec (.triggerArm req n) s = .next t ∧ t.dev.on R.TT_STATUS_ARM_REFUSED n = true ∧ OnlyRegsTick s t [R.TT_STATUS_ARM_REFUSED.key n 0 0]) ∧
  (∀ (req n : Nat) (s : State), s.dev.on R.TT_STATUS_ARMED n = true → ∃ t, exec (.triggerDisarm req n) s = .next t ∧ t.dev.on R.TT_STATUS_ARMED n = false ∧ t.dev.on R.TT_CTRL n = false ∧ (t.dev.tt n).next = none ∧ (t.dev.tt n).late = none ∧ t.dev.pins = s.dev.pins ∧ t = { s with dev := { s.dev with regs := t.dev.regs, tk := t.dev.tk, trig := t.dev.trig } }) ∧
  (∀ (n w : Nat) (s : State), s.dev.on R.TT_STATUS_ARMED n = true → (s.dev.tt n).next = some w → w < s.dev.nowEnd → ∃ t, exec (.triggerFire n) s = .next t ∧ ⟨3, srcNum 1 n, 0⟩ ∈ t.dev.tk.sampled ∧ t.dev.rd R.TT_FIRED n = (s.dev.rd R.TT_FIRED n + 1) % 2 ^ R.TT_FIRED.width ∧ (s.dev.rd R.TT_TARGET n % 256 ≠ 0 → (n, s.dev.rd R.TT_TARGET n % 256, s.dev.cyc + s.dev.cycleOf w + s.dev.rd R.TT_WIDTH n) ∈ t.dev.pins.pulses)) ∧
  (∀ (n k : Nat) (s : State), (s.dev.tt n).late = some k → k ≤ s.dev.tk.etick → ∃ t, exec (.triggerLateFire n) s = .next t ∧ ⟨3, srcNum 1 n, 1⟩ ∈ t.dev.tk.sampled ∧ t.dev.on R.TT_STATUS_LATE n = true ∧ t.dev.rd R.TT_FIRED n = (s.dev.rd R.TT_FIRED n + 1) % 2 ^ R.TT_FIRED.width ∧ t.dev.pins.pulses = s.dev.pins.pulses) ∧
  (∀ (n : Nat) (s : State), ∃ t, exec (.trigOutPulseEnd n) s = .next t ∧ (t.dev.pins.pulses = s.dev.pins.pulses.filter (fun p => !(p.1 == n && decide (p.2.2 < s.dev.cyc + 8)))) ∧ t = { s with dev := { s.dev with pins := { s.dev.pins with pulses := t.dev.pins.pulses } } }) ∧
  (∀ (sec : Nat) (s : State), sec = (((s.dev.now : Int) + signed 32 (s.dev.rd R.PPS_OUT_DELAY) * 2 ^ 16 + (secUnit : Int) - 1) / (secUnit : Int)).toNat → s.dev.on R.PPS_CTRL_OUT_EN = true → s.dev.trig.drove sec = false → s.dev.ppsEdge sec < (s.dev.nowEnd : Int) → (s.dev.now : Int) ≤ s.dev.ppsEdge sec → ∃ t, exec (.ppsOutSecond) s = .next t ∧ t.dev.tk = { s.dev.tk with sampled := s.dev.tk.sampled ++ [⟨3, srcNum 1 16, sec⟩] } ∧ t.dev.pins.ppsOut = (s.dev.pins.ppsOut || !s.dev.on R.PPS_CTRL_OUT_QUAL || decide (2 ≤ s.dev.rd R.TB_STATUS_STATE)) ∧ ((!s.dev.on R.PPS_CTRL_OUT_QUAL || decide (2 ≤ s.dev.rd R.TB_STATUS_STATE)) = true → t.dev.trig.drove sec = true) ∧ ((!s.dev.on R.PPS_CTRL_OUT_QUAL || decide (2 ≤ s.dev.rd R.TB_STATUS_STATE)) = false → t.dev.trig = s.dev.trig) ∧ t.dev.regs = s.dev.regs) ∧
  (∀ (s : State), s.dev.pins.ppsOut = true → s.dev.trig.ppsEnd < s.dev.cyc + 8 → ∃ t, exec (.ppsOutPulseEnd) s = .next t ∧ t = { s with dev := { s.dev with pins := { s.dev.pins with ppsOut := false } } })

/-- Edges at TS_IN and PPS_IN are timestamped and stored or counted lost; a read of TS_HEAD0 pops the oldest. A selected edge with room in its FIFO is stored with its time, delays removed, and raises a class 11 event (PPS_IN: class 3); with sixteen stored it is counted lost and OVF sets. An edge not selected changes nothing. With source 1 a matching PPS edge gives the servo its offset from the nearest second. TS_HEAD0 returns the nanoseconds of the oldest capture, which leaves the FIFO, and latches the rest for the requester. (03_time_base.md R94; 03_time_base.md R79.) -/
def Obligations.CapturesAreStoredAndPopped : Prop :=
  (∀ (n k sub : Nat) (r : Bool) (s : State), s.dev.edgeOn (16 + n) r = true → (SMap.getD s.dev.trig.fifos (16 + n) []).length < 16 → ∃ t, exec (.tsInCapture n r k sub) s = .next t ∧ SMap.getD t.dev.trig.fifos (16 + n) [] = SMap.getD s.dev.trig.fifos (16 + n) [] ++ [(s.dev.edgeTime (16 + n) k sub, r)] ∧ t.dev.tk = { s.dev.tk with sampled := s.dev.tk.sampled ++ [⟨11, srcNum 1 (24 + n), b2n r⟩] } ∧ RegsBut s.dev t.dev [R.TS_STATUS_COUNT.key (16 + n) 0 0]) ∧
  (∀ (n k sub : Nat) (r : Bool) (s : State), s.dev.edgeOn (16 + n) r = true → 16 ≤ (SMap.getD s.dev.trig.fifos (16 + n) []).length → ∃ t, exec (.tsInCapture n r k sub) s = .next t ∧ t.dev.rd R.TS_LOST (16 + n) = min (s.dev.rd R.TS_LOST (16 + n) + 1) (2 ^ R.TS_LOST.width - 1) ∧ t.dev.on R.TS_STATUS_OVF (16 + n) = true ∧ t.dev.trig = s.dev.trig ∧ OnlyRegsTick s t [R.TS_LOST.key (16 + n) 0 0, R.TS_STATUS_OVF.key (16 + n) 0 0]) ∧
  (∀ (n k sub : Nat) (r : Bool) (s : State), s.dev.edgeOn (16 + n) r = false → ∃ t, exec (.tsInCapture n r k sub) s = .next t ∧ t = s) ∧
  (∀ (k sub : Nat) (r : Bool) (s : State), s.dev.edgeOn 24 r = true → (SMap.getD s.dev.trig.fifos 24 []).length < 16 → s.dev.rd R.TB_CTRL_SRC ≠ 1 → ∃ t, exec (.ppsInEdge r k sub) s = .next t ∧ SMap.getD t.dev.trig.fifos 24 [] = SMap.getD s.dev.trig.fifos 24 [] ++ [(s.dev.edgeTime 24 k sub, r)] ∧ t.dev.tk = { s.dev.tk with sampled := s.dev.tk.sampled ++ [⟨3, srcNum 1 17, s.dev.edgeTime 24 k sub⟩] } ∧ t.dev.tb = { s.dev.tb with ppsCyc := s.dev.cyc }) ∧
  (∀ (k sub : Nat) (r : Bool) (s : State), s.dev.edgeOn 24 r = true → s.dev.rd R.TB_CTRL_SRC = 1 ∧ s.dev.on R.TB_CTRL_SERVO_EN = true → ∃ t, exec (.ppsInEdge r k sub) s = .next t ∧ ∃ x, t.dev.tb.samples = s.dev.tb.samples ++ [x] ∧ x.src = 1 ∧ x.gen = s.dev.rd R.TB_STATUS_STEP_GEN ∧ x.theta.natAbs ≤ 8 * 10 ^ 9 * 4096) ∧
  (∀ (k sub : Nat) (r : Bool) (s : State), s.dev.edgeOn 24 r = false → ∃ t, exec (.ppsInEdge r k sub) s = .next t ∧ t = s) ∧
  (∀ (req c : Nat) (h : Nat × Bool) (l : List (Nat × Bool)) (s : State), SMap.getD s.dev.trig.fifos c [] = h :: l → ∃ t, exec (.tsHeadPop req c) s = .next t ∧ t.dev.rdata = tbNs (h.1 * 2 ^ 28) % 2 ^ R.TS_HEAD0.width ∧ t.dev.rd R.TS_HEAD1 c 0 req = tbSec (h.1 * 2 ^ 28) % 2 ^ R.TS_HEAD1.width ∧ SMap.getD t.dev.trig.fifos c [] = l ∧ t.dev.rd R.TS_HEAD3 c 0 req = b2n h.2 % 2 ^ R.TS_HEAD3.width ∧ t = { s with dev := { s.dev with regs := t.dev.regs, trig := t.dev.trig, rdata := t.dev.rdata } })

/-- A frame on a port that is UP is counted and goes to the MAC, to RDMA or to its pipeline. With PIPE and BUF running: a frame under 64 bytes is counted UNDERSIZE with a good FCS and FRAGMENT otherwise, and nothing else but the port's codeword report changes. A good one up to MAX_FRAME that is PAUSE or PFC is counted received and consumed by the MAC. One for RDMA whose checksums hold joins RDMA's input. Any other good frame on a port without MACsec receive is counted and handed to the parser of the pipeline of its port with its receive timestamp. A frame that finds the FIFO of a sleeping pipeline full is counted in PW_QUIET_DROP alone. A port that is not UP takes nothing. (02_network_ports.md R45, R50, R52, R62, R63; 05_parse_and_classify.md R121; 17_power_and_faults.md R424; 10_remote_memory_access.md R245.) -/
def Obligations.FramesAreReceived : Prop :=
  (∀ (p : Nat) (raw : Bytes) (tDet e pos : Nat) (ov : Bool) (off tEmit te tv : Nat) (s : State), s.dev.up p = true ∧ s.dev.inReset 6 = false ∧ s.dev.pwr.quiet = false → s.dev.stopped (6 + s.dev.pipeOf p) = false ∧ s.dev.stopped 0x0A = false → raw.length < 64 → ∃ t, exec (.frameReceive p raw tDet e pos ov off tEmit te tv) s = .next t ∧ (∀ f, f = (if fcsGood raw then R.RX_UNDERSIZE else R.RX_FRAGMENT) → t.dev.rd f p = (s.dev.rd f p + 1) % 2 ^ f.width ∧ OnlyRegs s t [f.key p 0 0, R.PT_CW_POS.key p 0 0, R.PT_CW_CORR.key p 0 0]) ∧ t.dev.rd R.PT_CW_POS p = pos % 2 ^ R.PT_CW_POS.width) ∧
  (∀ (p : Nat) (raw : Bytes) (tDet e pos : Nat) (ov : Bool) (off tEmit te tv : Nat) (s : State), s.dev.up p = true ∧ s.dev.inReset 6 = false ∧ s.dev.pwr.quiet = false → s.dev.stopped (6 + s.dev.pipeOf p) = false ∧ s.dev.stopped 0x0A = false → 64 ≤ raw.length ∧ raw.length ≤ s.dev.rd R.PT_MTU p → fcsGood raw = true ∧ isMacControl (frameBody raw) = true → ∃ t, exec (.frameReceive p raw tDet e pos ov off tEmit te tv) s = .next t ∧ (t = s.onDev (fun d => ((((d.cwReport p e pos)).count R.RX_FRAMES_OK 1 p).count R.RX_OCTETS_OK raw.length p).macControlFrame p (frameBody raw))) ∧ t.dev.rd R.RX_FRAMES_OK p = (s.dev.rd R.RX_FRAMES_OK p + 1) % 2 ^ R.RX_FRAMES_OK.width ∧ t.dev.rd R.RX_PAUSE p = (s.dev.rd R.RX_PAUSE p + 1) % 2 ^ R.RX_PAUSE.width) ∧
  (∀ (p : Nat) (raw : Bytes) (tDet e pos : Nat) (ov : Bool) (off tEmit te tv : Nat) (s : State), s.dev.up p = true ∧ s.dev.inReset 6 = false ∧ s.dev.pwr.quiet = false → s.dev.stopped (6 + s.dev.pipeOf p) = false ∧ s.dev.stopped 0x0A = false → 64 ≤ raw.length ∧ raw.length ≤ s.dev.rd R.PT_MTU p → fcsGood raw = true ∧ isMacControl (frameBody raw) = false → s.dev.iraFrame p (frameBody raw) = true ∧ s.dev.iraSums (frameBody raw) = true → ∃ t, exec (.frameReceive p raw tDet e pos ov off tEmit te tv) s = .next t ∧ t.dev.ira = { s.dev.ira with inbox := s.dev.ira.inbox ++ [⟨p, none, frameBody raw⟩] } ∧ t.dev.rd R.RX_FRAMES_OK p = (s.dev.rd R.RX_FRAMES_OK p + 1) % 2 ^ R.RX_FRAMES_OK.width ∧ RegsBut s.dev t.dev [R.RX_FRAMES_OK.key p 0 0, R.RX_OCTETS_OK.key p 0 0, R.PT_CW_POS.key p 0 0, R.PT_CW_CORR.key p 0 0]) ∧
  (∀ (p : Nat) (raw : Bytes) (tDet e pos : Nat) (ov : Bool) (off tEmit te tv : Nat) (s : State), s.dev.up p = true ∧ s.dev.inReset 6 = false ∧ s.dev.pwr.quiet = false → s.dev.stopped (6 + s.dev.pipeOf p) = false ∧ s.dev.stopped 0x0A = false → 64 ≤ raw.length ∧ raw.length ≤ s.dev.rd R.PT_MTU p → fcsGood raw = true ∧ isMacControl (frameBody raw) = false → s.dev.iraFrame p (frameBody raw) = false ∧ s.dev.on R.MS_CTRL_RX_EN p = false → ∃ t, exec (.frameReceive p raw tDet e pos ov off tEmit te tv) s = .next t ∧ (∀ u, u = (({ s.dev.cwReport p e pos with ports := { s.dev.ports with parsed := SMap.upd s.dev.ports.parsed p 0 (fun n => (n + 1) % 2) } }.count R.RX_FRAMES_OK 1 p).count R.RX_OCTETS_OK raw.length p) →
      t = { s with dev := u.pipeline p (s.dev.pipeOf p) (s.dev.rxStamp p tDet e pos) (frameBody raw) (frameFcs raw) (Config.shake256 raw 32) false true false (s.dev.cyc * 1000 + off) (s.dev.now + off * nsUnit / 1000) (s.dev.txStamp p tEmit te tv) })) ∧
  (∀ (p : Nat) (raw : Bytes) (tDet e pos : Nat) (ov : Bool) (off tEmit te tv : Nat) (s : State), s.dev.up p = true ∧ s.dev.inReset 6 = false ∧ s.dev.pwr.quiet = false → s.dev.stopped (6 + s.dev.pipeOf p) = true ∧ ov = true → ∃ t, exec (.frameReceive p raw tDet e pos ov off tEmit te tv) s = .next t ∧ t.dev.rd R.PW_QUIET_DROP = min (s.dev.rd R.PW_QUIET_DROP + 1) (2 ^ 32 - 1) ∧ OnlyRegs s t [R.PW_QUIET_DROP.key 0 0 0, R.PT_CW_POS.key p 0 0, R.PT_CW_CORR.key p 0 0]) ∧
  (∀ (p : Nat) (raw : Bytes) (tDet e pos : Nat) (ov : Bool) (off tEmit te tv : Nat) (s : State), s.dev.up p = false → ∃ t, exec (.frameReceive p raw tDet e pos ov off tEmit te tv) s = .next t ∧ t = s)

/-- A CHANGE waits for its switch; the lists exchange roles; cycles and entries follow the list. A CHANGE of a valid shadow list makes it pending with a switch time not before the next tick; one that is invalid or finds a change pending is refused with its cause. At the switch time, in time mode, the shadow list becomes active, the pending bit clears, ACTIVE flips and, with EN set, the new list's first cycle starts. At a cycle start the list is at entry 0, GT_CYCLES rises and the next start lies a cycle later. When an entry's interval ends within the cycle the next entry takes effect. A member of a release group that is UP and reaches the grid shows in RG_ALIGNED. (07_rein_scheduling_and_release.md R185, R187, R189, R190.) -/
def Obligations.GateListsChangeAndCycle : Prop :=
  (∀ (req p : Nat) (s : State), s.dev.changeCause p = 0 → ∃ t, exec (.change req p) s = .next t ∧ t.dev.on R.GT_STATUS_CHANGE_PENDING p = true ∧ (∃ w, (t.dev.gate p).pend = some w ∧ (s.dev.on R.GT_CTRL_MODE p = true → w = nsOf (s.dev.nowAt 8 + nsUnit - 1) + 1000)) ∧ (t.dev.gate p).active = (s.dev.gate p).active ∧ RegsBut s.dev t.dev [R.GT_STATUS_CHANGE_PENDING.key p 0 0] ∧ t = { s with dev := { s.dev with regs := t.dev.regs, tk := t.dev.tk, gates := t.dev.gates } }) ∧
  (∀ (req p : Nat) (s : State), s.dev.changeCause p ≠ 0 → ∃ t, exec (.change req p) s = .next t ∧ t.dev.on R.GT_STATUS_REFUSED p = true ∧ t.dev.rd R.GT_STATUS_CAUSE p = s.dev.changeCause p ∧ OnlyRegsTick s t [R.GT_STATUS_REFUSED.key p 0 0, R.GT_STATUS_CAUSE.key p 0 0]) ∧
  (∀ (p w : Nat) (s : State), (s.dev.gate p).pend = some w → s.dev.on R.GT_CTRL_MODE p = false → w < s.dev.tickEndNs → ∃ t, exec (.gateListSwitch p) s = .next t ∧ (t.dev.gate p).active = s.dev.shadowList p ∧ (t.dev.gate p).pend = none ∧ (s.dev.on R.GT_CTRL_EN p = true → (t.dev.gate p).start = some w ∧ (t.dev.gate p).entry = 0 ∧ t.dev.rd R.GT_CYCLES p = (s.dev.rd R.GT_CYCLES p + 1) % 2 ^ R.GT_CYCLES.width) ∧ (s.dev.on R.GT_CTRL_EN p = false → (t.dev.gate p).start = none) ∧ t.dev.on R.GT_STATUS_CHANGE_PENDING p = false ∧ t.dev.rd R.GT_STATUS_ACTIVE p = (1 - s.dev.rd R.GT_STATUS_ACTIVE p) % 2) ∧
  (∀ (p : Nat) (s : State), (s.dev.gate p).pend = none → ∃ t, exec (.gateListSwitch p) s = .next t ∧ t = s) ∧
  (∀ (p n : Nat) (s : State), s.dev.gateNext p = some n → s.dev.on R.GT_CTRL_EN p = true → n < s.dev.tickEndNs → (s.dev.gate p).pend = none → ∃ t, exec (.gateCycleStart p) s = .next t ∧ (t.dev.gate p).start = some n ∧ (t.dev.gate p).entry = 0 ∧ (t.dev.gate p).next = some (n + (s.dev.gate p).active.cycle) ∧ t.dev.rd R.GT_CYCLES p = (s.dev.rd R.GT_CYCLES p + 1) % 2 ^ R.GT_CYCLES.width ∧ (t.dev.gate p).active = (s.dev.gate p).active ∧ RegsBut s.dev t.dev [R.GT_CYCLES.key p 0 0]) ∧
  (∀ (p st : Nat) (s : State), (s.dev.gate p).start = some st → s.dev.on R.GT_CTRL_EN p = true → (s.dev.gate p).entry + 1 < (s.dev.gate p).active.entries.length ∧ (s.dev.gate p).active.entryEnd (s.dev.gate p).entry < (s.dev.gate p).active.cycle → st + (s.dev.gate p).active.entryEnd (s.dev.gate p).entry < s.dev.tickEndNs ∧ (s.dev.gate p).hold = false → ∃ t, exec (.gateEntryEdge p) s = .next t ∧ (t.dev.gate p).entry = (s.dev.gate p).entry + 1 ∧ (t.dev.gate p).active = (s.dev.gate p).active ∧ t.dev.gatesNow p = (s.dev.gate p).active.gatesOf ((s.dev.gate p).entry + 1) ∧ t.dev.regs = s.dev.regs) ∧
  (∀ (p : Nat) (s : State), s.dev.on R.RN_CTRL_RG_EN p = true ∧ s.dev.up p = true → p < 16 → ∃ t, exec (.releaseGroupAligned p) s = .next t ∧ bit (t.dev.rd R.RG_ALIGNED) p = true ∧ OnlyRegs s t [R.RG_ALIGNED.key 0 0 0])

/-- A launch frame starts at its grid point or is late; a free line starts the frame that the selection picks. At its grid point on a free line, its class not paused and no MACsec, the head launch frame of a port leaves its list, goes on the wire with its transmit timestamp and is counted sent. With late frames discarded, one that misses its point is counted in RL_DISCARD and nothing reaches the wire. A frame that is not due yet waits. FRAME_START on a busy line changes nothing; on a free line without a launch frame and gates it starts the head frame of the queue that the selection of R179 picks, and nothing when it picks none. (07_rein_scheduling_and_release.md R179, R191, R192; 02_network_ports.md R57, R59.) -/
def Obligations.FramesStartOnFreeLines : Prop :=
  (∀ (p off tEmit e v : Nat) (mv : Bool) (f : Frame) (s : State), s.dev.launchHead p = some f → s.dev.gridUp p (f.launch.getD 0) * 65536 < s.dev.nowAt 8 * 1000 → s.dev.lineFree p (s.dev.cyc * 1000 + off) = true ∧ s.dev.paused p f.tc = false → mv = true ∨ s.dev.now * 1000 ≤ s.dev.gridUp p (f.launch.getD 0) * 65536 → s.dev.on R.MS_CTRL_TX_EN p = false → ∃ t, exec (.launchDue p off tEmit e v mv) s = .next t ∧ t.dev.rein.wire = s.dev.rein.wire ++ [⟨p, f.id, s.dev.wireBytes p (s.dev.txStamp p tEmit e v) f, s.dev.txStamp p tEmit e v⟩] ∧ SMap.getD t.dev.rein.launch p [] = (SMap.getD s.dev.rein.launch p []).tail ∧ t.dev.rd R.RL_SENT p = (s.dev.rd R.RL_SENT p + 1) % 2 ^ R.RL_SENT.width ∧ t.dev.rd R.TX_FRAMES p = (s.dev.rd R.TX_FRAMES p + 1) % 2 ^ R.TX_FRAMES.width) ∧
  (∀ (p off tEmit e v : Nat) (f : Frame) (s : State), s.dev.launchHead p = some f → s.dev.gridUp p (f.launch.getD 0) * 65536 < s.dev.now * 1000 → s.dev.on R.RN_CTRL_RL_LATE_ACTION p = true → ∃ t, exec (.launchDue p off tEmit e v false) s = .next t ∧ t.dev.rein.wire = s.dev.rein.wire ∧ SMap.getD t.dev.rein.launch p [] = (SMap.getD s.dev.rein.launch p []).tail ∧ t.dev.rd R.RL_DISCARD p = (s.dev.rd R.RL_DISCARD p + 1) % 2 ^ R.RL_DISCARD.width ∧ RegsBut s.dev t.dev [R.RL_DISCARD.key p 0 0, R.RN_BUF_USED.key 0 0 0]) ∧
  (∀ (p off tEmit e v : Nat) (mv : Bool) (f : Frame) (s : State), s.dev.launchHead p = some f → s.dev.nowAt 8 * 1000 ≤ s.dev.gridUp p (f.launch.getD 0) * 65536 → ∃ t, exec (.launchDue p off tEmit e v mv) s = .next t ∧ t = s) ∧
  (∀ (p off tEmit e v : Nat) (s : State), s.dev.lineFree p (s.dev.cyc * 1000 + off) = false → ∃ t, exec (.frameStart p off tEmit e v) s = .next t ∧ t = s) ∧
  (∀ (p off tEmit e v : Nat) (s : State), s.dev.lineFree p (s.dev.cyc * 1000 + off) = true → s.dev.launchHead p = none → s.dev.on R.GT_CTRL_EN p = false → ∃ t, exec (.frameStart p off tEmit e v) s = .next t ∧ match s.dev.pick p (s.dev.cyc * 1000 + off) (s.dev.now + off * nsUnit / 1000) with
      | none => t = s
      | some x => t = { s with dev := x.2.startQueued p x.1 (s.dev.cyc * 1000 + off) (s.dev.txStamp p tEmit e v) })

/-- INSERT, DELETE, LOOKUP and READ_SLOT act on the flow and MAC tables and report their result. With no learn waiting, on a ready MAC table: an INSERT of a key that the table holds replaces its entry by the staged action with the tick of application (result 1); one of a new key with a free way in its first bucket puts it there (result 0). DELETE empties the slot of the key (result 2), or finds none (4). LOOKUP puts the entry's slot and port into the requester's staging (3). READ_SLOT does so for the flow entry at FT_SLOT. Until a table is ready the result is 6 and the tables keep their contents. A write of a seed stores it, empties its table and clears READY; TABLE_READY sets it again out of reset. (06_tables_and_learning.md R154, R155, R156, R159.) -/
def Obligations.TablesAreUpdatedAndSearched : Prop :=
  (∀ (req k : Nat) (s : State), s.dev.tab.macFifo = [] ∧ s.dev.ftMac req = true ∧ s.dev.ftRefused req = false → s.dev.macFind (s.dev.ftMacKey req).1 (s.dev.ftMacKey req).2 = some k → ∃ t, exec (.ftInsert req) s = .next t ∧ t.dev.rd R.FT_OP_STATUS_RESULT 0 0 req = 1 ∧ ∃ m, SMap.get? t.dev.tab.mac k = some m ∧ m.addr = (s.dev.ftMacKey req).1 ∧ m.fid = (s.dev.ftMacKey req).2 ∧ m.port = s.dev.rd R.FT_ACTION0_PORT 0 0 req ∧ m.move = s.dev.tk.etick % 2 ^ 56 ∧ (∀ j, j ≠ k → SMap.get? t.dev.tab.mac j = SMap.get? s.dev.tab.mac j) ∧ t.dev.tab.flow = s.dev.tab.flow) ∧
  (∀ (req k : Nat) (s : State), s.dev.tab.macFifo = [] ∧ s.dev.ftMac req = true ∧ s.dev.ftRefused req = false → s.dev.macFind (s.dev.ftMacKey req).1 (s.dev.ftMacKey req).2 = none → freeWay s.dev.tab.mac (s.dev.macBuckets (s.dev.ftMacKey req).1 (s.dev.ftMacKey req).2).1 = some k → ∃ t, exec (.ftInsert req) s = .next t ∧ t.dev.rd R.FT_OP_STATUS_RESULT 0 0 req = 0 ∧ t.dev.rd R.FT_OP_STATUS_MOVES 0 0 req = 0 ∧ ∃ m, SMap.get? t.dev.tab.mac k = some m ∧ m.addr = (s.dev.ftMacKey req).1 ∧ m.fid = (s.dev.ftMacKey req).2 ∧ m.port = s.dev.rd R.FT_ACTION0_PORT 0 0 req ∧ (∀ j, j ≠ k → SMap.get? t.dev.tab.mac j = SMap.get? s.dev.tab.mac j)) ∧
  (∀ (req k : Nat) (s : State), s.dev.tab.macFifo = [] ∧ s.dev.ftMac req = true ∧ s.dev.ftRefused req = false → s.dev.macFind (s.dev.ftMacKey req).1 (s.dev.ftMacKey req).2 = some k → ∃ t, exec (.ftDelete req) s = .next t ∧ t.dev.rd R.FT_OP_STATUS_RESULT 0 0 req = 2 ∧ SMap.get? t.dev.tab.mac k = none ∧ (∀ j, j ≠ k → SMap.get? t.dev.tab.mac j = SMap.get? s.dev.tab.mac j) ∧ t.dev.tab.flow = s.dev.tab.flow) ∧
  (∀ (req : Nat) (s : State), s.dev.tab.macFifo = [] ∧ s.dev.ftMac req = true ∧ s.dev.ftRefused req = false → s.dev.macFind (s.dev.ftMacKey req).1 (s.dev.ftMacKey req).2 = none → ∃ t, exec (.ftDelete req) s = .next t ∧ t.dev.rd R.FT_OP_STATUS_RESULT 0 0 req = 4 ∧ t.dev.tab = s.dev.tab ∧ OnlyRegsTick s t [R.FT_OP_STATUS_RESULT.key 0 0 req, R.FT_OP_STATUS_MOVES.key 0 0 req]) ∧
  (∀ (req k : Nat) (m : MacEntry) (s : State), s.dev.tab.macFifo = [] ∧ s.dev.ftMac req = true ∧ s.dev.ftRefused req = false → s.dev.macFind (s.dev.ftMacKey req).1 (s.dev.ftMacKey req).2 = some k → SMap.get? s.dev.tab.mac k = some m → ∃ t, exec (.ftLookup req) s = .next t ∧ t.dev.rd R.FT_OP_STATUS_RESULT 0 0 req = 3 ∧ t.dev.rd R.FT_SLOT 0 0 req = k % 2 ^ R.FT_SLOT.width ∧ t.dev.rd R.FT_ACTION0_PORT 0 0 req = m.port % 2 ^ R.FT_ACTION0_PORT.width ∧ t = { s with dev := { s.dev with regs := t.dev.regs, tk := t.dev.tk } }) ∧
  (∀ (req : Nat) (m : FlowEntry) (s : State), s.dev.tab.flowFifo = [] ∧ s.dev.ftMac req = false ∧ s.dev.on R.FT_STATUS_FT_READY = true → SMap.get? s.dev.tab.flow (s.dev.rd R.FT_SLOT 0 0 req) = some m → ∃ t, exec (.readSlot req) s = .next t ∧ t.dev.rd R.FT_OP_STATUS_RESULT 0 0 req = 3 ∧ t.dev.rd R.FT_ACTION0_PORT 0 0 req = m.port % 2 ^ R.FT_ACTION0_PORT.width ∧ t.dev.rd R.FT_ACTION1 0 0 req = m.cookie % 2 ^ R.FT_ACTION1.width ∧ t.dev.rd R.FT_OPARG_PROFILE 0 0 req = m.profile % 2 ^ R.FT_OPARG_PROFILE.width ∧ t = { s with dev := { s.dev with regs := t.dev.regs, tk := t.dev.tk } }) ∧
  (∀ (req : Nat) (s : State), s.dev.tab.macFifo = [] ∧ s.dev.ftMac req = true ∧ s.dev.on R.FT_STATUS_MT_READY = false → ∃ t, exec (.ftInsert req) s = .next t ∧ t.dev.rd R.FT_OP_STATUS_RESULT 0 0 req = 6 ∧ t.dev.tab = s.dev.tab ∧ OnlyRegsTick s t [R.FT_OP_STATUS_RESULT.key 0 0 req, R.FT_OP_STATUS_MOVES.key 0 0 req]) ∧
  (∀ (req v : Nat) (s : State), ∃ t, exec (.tableSeedWrite req true v) s = .next t ∧ t.dev.tab = { s.dev.tab with mac := [], macVer := [], macFifo := [] } ∧ t.dev.rd R.MT_SEED = v % 2 ^ R.MT_SEED.width ∧ t.dev.on R.FT_STATUS_MT_READY = false ∧ t.dev.rd R.MT_USED = 0 ∧ OnlyRegsTick s { t with dev := { t.dev with tab := s.dev.tab } } [R.MT_SEED.key 0 0 0, R.FT_STATUS_MT_READY.key 0 0 0, R.MT_USED.key 0 0 0]) ∧
  (∀ (req v : Nat) (s : State), ∃ t, exec (.tableSeedWrite req false v) s = .next t ∧ t.dev.tab = { s.dev.tab with flow := [], flowVer := [], cache := [], flowFifo := [] } ∧ t.dev.rd R.FT_SEED = v % 2 ^ R.FT_SEED.width ∧ t.dev.on R.FT_STATUS_FT_READY = false ∧ t.dev.rd R.FT_USED = 0) ∧
  (∀ (mac : Bool) (s : State), 3 ∉ s.dev.rst.active → ∃ t, exec (.tableReady mac) s = .next t ∧ (t.dev.on (if mac then R.FT_STATUS_MT_READY else R.FT_STATUS_FT_READY) = true) ∧ (OnlyRegs s t [(if mac then R.FT_STATUS_MT_READY else R.FT_STATUS_FT_READY).key 0 0 0]))

/-- Learn requests are applied in order, the burnisher ages entries, the trie takes whole words. The first learn request whose tick has ended is applied to its ready table and leaves its FIFO: on the same port, or the same flow, the entry it finds is marked hit, and LN_APPLIED counts. One of the present tick waits. At a due visit a MAC or flow entry that is not static loses its hit mark if it has one, and otherwise leaves its table and is counted aged; a static entry, or one before its time, stays. A write through LPM_DATA_HI replaces the whole word at the requester's index of its stage; beyond the pool it is refused with cause 1. A fence is done when every earlier lookup has left. (06_tables_and_learning.md R156, R161, R162, R164, R167, R168, R173, R174.) -/
def Obligations.LearningAgeingAndPrefixes : Prop :=
  (∀ (x : LearnReq (Nat × Nat)) (k : Nat) (m : MacEntry) (s : State), learnFirst s.dev.tab.macFifo = some x → x.tick < s.dev.tk.etick ∧ s.dev.on R.FT_STATUS_MT_READY = true → s.dev.macFind x.key.1 x.key.2 = some k → SMap.get? s.dev.tab.mac k = some m → m.port = x.port → ∃ t, exec (.macLearnApply) s = .next t ∧ SMap.get? t.dev.tab.mac k = some { m with hit := true } ∧ t.dev.tab.macFifo = s.dev.tab.macFifo.erase x ∧ t.dev.rd R.LN_APPLIED = (s.dev.rd R.LN_APPLIED + 1) % 2 ^ R.LN_APPLIED.width ∧ RegsBut s.dev t.dev [R.LN_APPLIED.key 0 0 0] ∧ (∀ j, j ≠ k → SMap.get? t.dev.tab.mac j = SMap.get? s.dev.tab.mac j)) ∧
  (∀ (x : LearnReq (Nat × Nat)) (s : State), learnFirst s.dev.tab.macFifo = some x → s.dev.tk.etick ≤ x.tick → ∃ t, exec (.macLearnApply) s = .next t ∧ t = s) ∧
  (∀ (x : LearnReq (Nat × Nat × Bytes)) (k : Nat) (m : FlowEntry) (s : State), learnFirst s.dev.tab.flowFifo = some x → x.tick < s.dev.tk.etick ∧ s.dev.on R.FT_STATUS_FT_READY = true → s.dev.flowFind x.key.1 x.key.2.1 x.key.2.2 = some k → SMap.get? s.dev.tab.flow k = some m → ∃ t, exec (.flowLearnApply) s = .next t ∧ SMap.get? t.dev.tab.flow k = some m.touch ∧ t.dev.tab.flowFifo = s.dev.tab.flowFifo.erase x ∧ t.dev.rd R.LN_APPLIED = (s.dev.rd R.LN_APPLIED + 1) % 2 ^ R.LN_APPLIED.width ∧ RegsBut s.dev t.dev [R.LN_APPLIED.key 0 0 0]) ∧
  (∀ (k : Nat) (m : MacEntry) (s : State), s.dev.burnDue true k = true → SMap.get? s.dev.tab.mac k = some m → m.stat = false ∧ m.hit = true → ∃ t, exec (.burnisherVisit true k) s = .next t ∧ SMap.get? t.dev.tab.mac k = some { m with hit := false } ∧ t = { s with dev := { s.dev with tab := { s.dev.tab with mac := t.dev.tab.mac } } }) ∧
  (∀ (k : Nat) (m : MacEntry) (s : State), s.dev.burnDue true k = true → SMap.get? s.dev.tab.mac k = some m → m.stat = false ∧ m.hit = false → ∃ t, exec (.burnisherVisit true k) s = .next t ∧ SMap.get? t.dev.tab.mac k = none ∧ t.dev.rd R.AGED_MT = (s.dev.rd R.AGED_MT + 1) % 2 ^ R.AGED_MT.width) ∧
  (∀ (k : Nat) (m : FlowEntry) (s : State), s.dev.burnDue false k = true → SMap.get? s.dev.tab.flow k = some m → bit m.flags fStatic = false ∧ bit m.flags fHit = false → ∃ t, exec (.burnisherVisit false k) s = .next t ∧ SMap.get? t.dev.tab.flow k = none ∧ t.dev.rd R.AGED_FT = (s.dev.rd R.AGED_FT + 1) % 2 ^ R.AGED_FT.width) ∧
  (∀ (mac : Bool) (k : Nat) (s : State), s.dev.burnDue mac k = false → ∃ t, exec (.burnisherVisit mac k) s = .next t ∧ t = s) ∧
  (∀ (req hi ch idx : Nat) (s : State), ch = s.dev.rd (chselField 0x03400000) 0 0 req ∧ ch < 9 → idx = s.dev.rd R.LPM_IDX ch 0 req ∧ idx < lpmPool ch → ch ≠ 7 → ∃ t, exec (.lpmWrite req hi) s = .next t ∧ t.dev.lpmWord ch idx = (hi % 2 ^ 32) <<< 32 + s.dev.rd R.LPM_DATA_LO ch 0 req ∧ (∀ c j, c < 16 → j < 2 ^ 28 → ¬ (c = ch ∧ j = idx) → idx < 2 ^ 28 → t.dev.lpmWord c j = s.dev.lpmWord c j) ∧ OnlyRegsTick s { t with dev := { t.dev with tab := s.dev.tab } } []) ∧
  (∀ (req hi ch : Nat) (s : State), ch = s.dev.rd (chselField 0x03400000) 0 0 req ∧ ch < 9 → lpmPool ch ≤ s.dev.rd R.LPM_IDX ch 0 req → ∃ t, exec (.lpmWrite req hi) s = .next t ∧ t.dev.on R.LPM_STATUS_WR_REFUSED = true ∧ t.dev.rd R.LPM_STATUS_CAUSE = 1 ∧ OnlyRegsTick s t [R.LPM_STATUS_WR_REFUSED.key 0 0 0, R.LPM_STATUS_CAUSE.key 0 0 0]) ∧
  (∀ (req : Nat) (s : State), ∃ t, exec (.lpmFence req) s = .next t ∧ t.dev.on R.LPM_STATUS_FENCE_DONE 0 0 req = true ∧ OnlyRegsTick s t [R.LPM_STATUS_FENCE_DONE.key 0 0 req])

/-- INSERT, DELETE, LOOKUP, CB3 commits and geometry writes act on the shadow bank and report. An operation on a table that is off, with a KL outside the width, or while a copy runs has result 6; one on a busy bank is refused with cause 1; neither changes a rule. Otherwise an INSERT of an existing key replaces its rule by the staged one (result 1), and one of a new key takes a free way of its first bucket (result 0). DELETE removes the rule (2) or finds none (4). LOOKUP stages the rule's action (3) or answers 4. Nothing outside the table, the status and the tick's events changes. A write of CB3 commits a valid staged class entry, and refuses an invalid one with cause 2, the entry and its registers keeping the old value. A write of EM_SEED or EM_GEOM sets it and empties its table. (05_parse_and_classify.md R134, R135, R136, R137, R140, R143.) -/
def Obligations.RulesAreChangedInTheShadowBank : Prop :=
  (∀ (req : Nat) (s : State), s.dev.clRefused (s.dev.clTable req) (s.dev.clKl req) = true → ∃ t, exec (.clInsert req) s = .next t ∧ t.dev.rd R.CL_OP_STATUS_RESULT 0 0 req = 6 ∧ OnlyRegsTick s t [R.CL_OP_STATUS_RESULT.key 0 0 req, R.CL_OP_STATUS_MOVES.key 0 0 req]) ∧
  (∀ (req : Nat) (s : State), s.dev.clRefused (s.dev.clTable req) (s.dev.clKl req) = false → s.dev.bankBusy = true → ∃ t, exec (.clInsert req) s = .next t ∧ t.dev.on R.CL_STATUS_WR_REFUSED = true ∧ t.dev.rd R.CL_STATUS_CAUSE = 1 ∧ OnlyRegsTick s t [R.CL_STATUS_WR_REFUSED.key 0 0 0, R.CL_STATUS_CAUSE.key 0 0 0]) ∧
  (∀ (req : Nat) (s : State), s.dev.clRefused (s.dev.clTable req) (s.dev.clKl req) = true → ∃ t, exec (.clDelete req) s = .next t ∧ t.dev.rd R.CL_OP_STATUS_RESULT 0 0 req = 6 ∧ OnlyRegsTick s t [R.CL_OP_STATUS_RESULT.key 0 0 req, R.CL_OP_STATUS_MOVES.key 0 0 req]) ∧
  (∀ (req : Nat) (s : State), s.dev.clRefused (s.dev.clTable req) (s.dev.clKl req) = false → s.dev.bankBusy = true → ∃ t, exec (.clDelete req) s = .next t ∧ t.dev.on R.CL_STATUS_WR_REFUSED = true ∧ t.dev.rd R.CL_STATUS_CAUSE = 1 ∧ OnlyRegsTick s t [R.CL_STATUS_WR_REFUSED.key 0 0 0, R.CL_STATUS_CAUSE.key 0 0 0]) ∧
  (∀ (req k : Nat) (s : State), s.dev.clRefused (s.dev.clTable req) (s.dev.clKl req) = false → s.dev.bankBusy = false → s.dev.emFind s.dev.shadowBank (s.dev.clTable req) (s.dev.clProfile req) (s.dev.clKl req) (padTo (s.dev.emWidth s.dev.shadowBank (s.dev.clTable req)) (s.dev.clKey req)) = some k → ∃ t, exec (.clInsert req) s = .next t ∧ t.dev.rd R.CL_OP_STATUS_RESULT 0 0 req = 1 ∧ t.dev.rd R.CL_OP_STATUS_MOVES 0 0 req = 0 ∧ ∃ r, SMap.get? (t.dev.emRules s.dev.shadowBank (s.dev.clTable req)) k = some r ∧ r.profile = s.dev.clProfile req ∧ r.kl = s.dev.clKl req ∧ r.cls = s.dev.rd R.CL_ACTION_CLASS 0 0 req ∧ r.colour = s.dev.rd R.CL_ACTION_COLOUR 0 0 req ∧ r.queue = s.dev.rd R.CL_ACTION_QUEUE 0 0 req ∧ (∀ j, j ≠ k → SMap.get? (t.dev.emRules s.dev.shadowBank (s.dev.clTable req)) j = SMap.get? (s.dev.emRules s.dev.shadowBank (s.dev.clTable req)) j) ∧ t = { s with dev := { s.dev with regs := t.dev.regs, tk := t.dev.tk, cls := t.dev.cls } } ∧ RegsBut s.dev t.dev [R.CL_OP_STATUS_RESULT.key 0 0 req, R.CL_OP_STATUS_MOVES.key 0 0 req, R.EM_USED.key s.dev.shadowBank (s.dev.clTable req) 0]) ∧
  (∀ (req k : Nat) (s : State), s.dev.clRefused (s.dev.clTable req) (s.dev.clKl req) = false → s.dev.bankBusy = false → s.dev.emFind s.dev.shadowBank (s.dev.clTable req) (s.dev.clProfile req) (s.dev.clKl req) (padTo (s.dev.emWidth s.dev.shadowBank (s.dev.clTable req)) (s.dev.clKey req)) = none → freeWay (s.dev.emRules s.dev.shadowBank (s.dev.clTable req)) (s.dev.emBuckets s.dev.shadowBank (s.dev.clTable req) (s.dev.clProfile req) (padTo (s.dev.emWidth s.dev.shadowBank (s.dev.clTable req)) (s.dev.clKey req))).1 = some k → ∃ t, exec (.clInsert req) s = .next t ∧ t.dev.rd R.CL_OP_STATUS_RESULT 0 0 req = 0 ∧ t.dev.rd R.CL_OP_STATUS_MOVES 0 0 req = 0 ∧ ∃ r, SMap.get? (t.dev.emRules s.dev.shadowBank (s.dev.clTable req)) k = some r ∧ r.key = (padTo (s.dev.emWidth s.dev.shadowBank (s.dev.clTable req)) (s.dev.clKey req)) ∧ r.cls = s.dev.rd R.CL_ACTION_CLASS 0 0 req ∧ (∀ j, j ≠ k → SMap.get? (t.dev.emRules s.dev.shadowBank (s.dev.clTable req)) j = SMap.get? (s.dev.emRules s.dev.shadowBank (s.dev.clTable req)) j) ∧ t = { s with dev := { s.dev with regs := t.dev.regs, tk := t.dev.tk, cls := t.dev.cls } }) ∧
  (∀ (req k : Nat) (s : State), s.dev.clRefused (s.dev.clTable req) (s.dev.clKl req) = false → s.dev.bankBusy = false → s.dev.emFind s.dev.shadowBank (s.dev.clTable req) (s.dev.clProfile req) (s.dev.clKl req) (s.dev.clKey req) = some k → ∃ t, exec (.clDelete req) s = .next t ∧ t.dev.rd R.CL_OP_STATUS_RESULT 0 0 req = 2 ∧ SMap.get? (t.dev.emRules s.dev.shadowBank (s.dev.clTable req)) k = none ∧ (∀ j, j ≠ k → SMap.get? (t.dev.emRules s.dev.shadowBank (s.dev.clTable req)) j = SMap.get? (s.dev.emRules s.dev.shadowBank (s.dev.clTable req)) j) ∧ RegsBut s.dev t.dev [R.CL_OP_STATUS_RESULT.key 0 0 req, R.CL_OP_STATUS_MOVES.key 0 0 req, R.EM_USED.key s.dev.shadowBank (s.dev.clTable req) 0]) ∧
  (∀ (req : Nat) (s : State), s.dev.clRefused (s.dev.clTable req) (s.dev.clKl req) = false → s.dev.bankBusy = false → s.dev.emFind s.dev.shadowBank (s.dev.clTable req) (s.dev.clProfile req) (s.dev.clKl req) (s.dev.clKey req) = none → ∃ t, exec (.clDelete req) s = .next t ∧ t.dev.rd R.CL_OP_STATUS_RESULT 0 0 req = 4 ∧ OnlyRegsTick s t [R.CL_OP_STATUS_RESULT.key 0 0 req, R.CL_OP_STATUS_MOVES.key 0 0 req]) ∧
  (∀ (req k : Nat) (r : Rule) (s : State), s.dev.clRefused (s.dev.clTable req) (s.dev.clKl req) = false → s.dev.emFind s.dev.shadowBank (s.dev.clTable req) (s.dev.clProfile req) (s.dev.clKl req) (s.dev.clKey req) = some k → SMap.get? (s.dev.emRules s.dev.shadowBank (s.dev.clTable req)) k = some r → ∃ t, exec (.clLookup req) s = .next t ∧ t.dev.rd R.CL_OP_STATUS_RESULT 0 0 req = 3 ∧ t.dev.rd R.CL_ACTION_CLASS 0 0 req = r.cls % 2 ^ R.CL_ACTION_CLASS.width ∧ t.dev.rd R.CL_ACTION_COLOUR 0 0 req = r.colour % 2 ^ R.CL_ACTION_COLOUR.width ∧ t.dev.rd R.CL_ACTION_QUEUE 0 0 req = r.queue % 2 ^ R.CL_ACTION_QUEUE.width ∧ OnlyRegsTick s t [R.CL_OP_STATUS_RESULT.key 0 0 req, R.CL_OP_STATUS_MOVES.key 0 0 req, R.CL_ACTION_CLASS.key 0 0 req, R.CL_ACTION_COLOUR.key 0 0 req, R.CL_ACTION_QUEUE.key 0 0 req]) ∧
  (∀ (req : Nat) (s : State), s.dev.clRefused (s.dev.clTable req) (s.dev.clKl req) = false → s.dev.emFind s.dev.shadowBank (s.dev.clTable req) (s.dev.clProfile req) (s.dev.clKl req) (s.dev.clKey req) = none → ∃ t, exec (.clLookup req) s = .next t ∧ t.dev.rd R.CL_OP_STATUS_RESULT 0 0 req = 4 ∧ OnlyRegsTick s t [R.CL_OP_STATUS_RESULT.key 0 0 req, R.CL_OP_STATUS_MOVES.key 0 0 req]) ∧
  (∀ (req v c : Nat) (s : State), c = s.dev.rd (chselField 0x03200000) 0 0 req ∧ c < 256 → classBad ((s.dev.cbStaged c).getD 0 0) v = false → ∃ t, exec (.cb3Commit req v) s = .next t ∧ t.dev.classWord c 3 = v % 2 ^ 21 ∧ (∀ i, i < 3 → t.dev.classWord c i = (s.dev.cbStaged c).getD i 0) ∧ (∀ x i, x ≠ c → t.dev.classWord x i = s.dev.classWord x i) ∧ t = { s with dev := { s.dev with regs := t.dev.regs, tk := t.dev.tk, cls := t.dev.cls } } ∧ t.dev.on R.CL_STATUS_WR_REFUSED = s.dev.on R.CL_STATUS_WR_REFUSED) ∧
  (∀ (req v c : Nat) (s : State), c = s.dev.rd (chselField 0x03200000) 0 0 req ∧ c < 256 → classBad ((s.dev.cbStaged c).getD 0 0) v = true → ∃ t, exec (.cb3Commit req v) s = .next t ∧ t.dev.on R.CL_STATUS_WR_REFUSED = true ∧ t.dev.rd R.CL_STATUS_CAUSE = 2 ∧ t.dev.on R.CB0_SEQ c = bit (s.dev.classWord c 0) 0 ∧ t.dev.on R.CB0_DROP c = bit (s.dev.classWord c 0) 3 ∧ t.dev.rd R.CB0_DISP c = bits (s.dev.classWord c 0) 5 4 ∧ t.dev.rd R.CB1_FUNC c = bits (s.dev.classWord c 1) 12 0 ∧ t.dev.rd R.CB1_RING_BASE c = bits (s.dev.classWord c 1) 31 16 ∧ t.dev.rd R.CB2_RING_COUNT c = bits (s.dev.classWord c 2) 15 0 ∧ t.dev.rd R.CB3_MIRROR_QUEUE c = bits (s.dev.classWord c 3) 15 0 ∧ OnlyRegsTick s t [R.CL_STATUS_WR_REFUSED.key 0 0 0, R.CL_STATUS_CAUSE.key 0 0 0, R.CB0_SEQ.key c 0 0, R.CB0_CAPTURE.key c 0 0, R.CB0_MIRROR.key c 0 0, R.CB0_DROP.key c 0 0, R.CB0_DISP.key c 0 0, R.CB0_POLICE.key c 0 0, R.CB0_CAP_PROFILE.key c 0 0, R.CB0_POLICER.key c 0 0, R.CB1_FUNC.key c 0 0, R.CB1_RING_BASE.key c 0 0, R.CB2_RING_COUNT.key c 0 0, R.CB2_MIRROR_PORT.key c 0 0, R.CB3_MIRROR_QUEUE.key c 0 0, R.CB3_LPM_WIN.key c 0 0, R.CB3_LPM_V6.key c 0 0]) ∧
  (∀ (req n v : Nat) (s : State), s.dev.bankBusy = false ∧ n < 8 → ∃ t, exec (.emGeomWrite req n true v) s = .next t ∧ t.dev.emRules s.dev.shadowBank n = [] ∧ t.dev.rd R.EM_SEED s.dev.shadowBank n = v % 2 ^ R.EM_SEED.width ∧ t.dev.rd R.EM_USED s.dev.shadowBank n = 0 ∧ (∀ u, u ≠ n → t.dev.emRules s.dev.shadowBank u = s.dev.emRules s.dev.shadowBank u) ∧ t = { s with dev := { s.dev with regs := t.dev.regs, tk := t.dev.tk, cls := t.dev.cls } } ∧ RegsBut s.dev t.dev [R.EM_SEED.key s.dev.shadowBank n 0, R.EM_USED.key s.dev.shadowBank n 0]) ∧
  (∀ (req n v : Nat) (s : State), s.dev.bankBusy = false ∧ n < 8 → ∃ t, exec (.emGeomWrite req n false v) s = .next t ∧ t.dev.emRules s.dev.shadowBank n = [] ∧ t.dev.rd R.EM_GEOM_EN s.dev.shadowBank n = bits v 15 15 ∧ t.dev.rd R.EM_GEOM_BASE s.dev.shadowBank n = bits v 14 0 ∧ (t.dev.rd R.EM_GEOM_LOG2_BUCKETS s.dev.shadowBank n = (if bits v 20 16 ≤ 19 then bits v 20 16 else s.dev.rd R.EM_GEOM_LOG2_BUCKETS s.dev.shadowBank n)) ∧ (t.dev.rd R.EM_GEOM_WIDTH s.dev.shadowBank n = (if bits v 22 21 = 3 then s.dev.rd R.EM_GEOM_WIDTH s.dev.shadowBank n else bits v 22 21)) ∧ t = { s with dev := { s.dev with regs := t.dev.regs, tk := t.dev.tk, cls := t.dev.cls } }) ∧
  (∀ (req n v : Nat) (sd : Bool) (s : State), s.dev.bankBusy = true → ∃ t, exec (.emGeomWrite req n sd v) s = .next t ∧ t.dev.on R.CL_STATUS_WR_REFUSED = true ∧ t.dev.rd R.CL_STATUS_CAUSE = 1 ∧ OnlyRegsTick s t [R.CL_STATUS_WR_REFUSED.key 0 0 0, R.CL_STATUS_CAUSE.key 0 0 0])

/-- Patterns become valid; SWAP, COPY and the telemetry banks act, finish or are refused by cause. A write of AW_CTRL with VALID = 1 to an invalid pattern of the shadow bank makes it valid with the fields written, unless R131 refuses it with its cause; VALID = 0 clears it. An accepted SWAP sets SWAP_PENDING and is due at the next tick as the sender's class 9 write; a refused one sets REFUSED and its cause. OLD_BUSY clears with its class 11 event. A COPY sets COPY_BUSY, or is refused with cause 1; when it is done the shadow bank holds the active bank's rules and profiles. A telemetry SWAP or CLEAR sets its bit or is refused with cause 1; after a CLEAR the frozen bank's sketch is zero and the other keeps its counters. SK_QUERY returns a value no greater than any counter of the staged key. FLOW_CLEAR zeroes exactly its range. (05_parse_and_classify.md R131, R143, R144, R145, R146; 12_capture_and_reduced_data.md R314, R315, R319.) -/
def Obligations.BanksAreSwappedCopiedAndCleared : Prop :=
  (∀ (req v c : Nat) (s : State), c = s.dev.rd (chselField 0x03100000) 0 0 req ∧ c < 16384 → s.dev.bankBusy = false ∧ v % 2 = 1 → s.dev.on R.AW_CTRL_VALID (awlChan s.dev.shadowBank c) = false → (s.dev.awCtrl (awlChan s.dev.shadowBank c) v).awCause (awlChan s.dev.shadowBank c) = 0 → ∃ t, exec (.awlValid req v) s = .next t ∧ t.dev.on R.AW_CTRL_VALID (awlChan s.dev.shadowBank c) = true ∧ t.dev.rd R.AW_CTRL_ANCHORED (awlChan s.dev.shadowBank c) = bits v 1 1 ∧ t.dev.rd R.AW_CTRL_SET (awlChan s.dev.shadowBank c) = bits v 12 9 ∧ t.dev.rd R.AW_CTRL_OFFSET (awlChan s.dev.shadowBank c) = bits v 23 13 ∧ (4 ≤ bits v 8 2 ∧ bits v 8 2 ≤ 64 → t.dev.rd R.AW_CTRL_LEN (awlChan s.dev.shadowBank c) = bits v 8 2) ∧ OnlyRegsTick s t [R.AW_CTRL_VALID.key (awlChan s.dev.shadowBank c) 0 0, R.AW_CTRL_ANCHORED.key (awlChan s.dev.shadowBank c) 0 0, R.AW_CTRL_SET.key (awlChan s.dev.shadowBank c) 0 0, R.AW_CTRL_OFFSET.key (awlChan s.dev.shadowBank c) 0 0, R.AW_CTRL_LEN.key (awlChan s.dev.shadowBank c) 0 0]) ∧
  (∀ (req v c : Nat) (s : State), c = s.dev.rd (chselField 0x03100000) 0 0 req ∧ c < 16384 → s.dev.bankBusy = false ∧ v % 2 = 1 → s.dev.on R.AW_CTRL_VALID (awlChan s.dev.shadowBank c) = false → (s.dev.awCtrl (awlChan s.dev.shadowBank c) v).awCause (awlChan s.dev.shadowBank c) ≠ 0 → ∃ t, exec (.awlValid req v) s = .next t ∧ t.dev.on R.AW_CTRL_VALID (awlChan s.dev.shadowBank c) = false ∧ t.dev.on R.AW_STATUS_WR_REFUSED = true ∧ t.dev.rd R.AW_STATUS_CAUSE = (s.dev.awCtrl (awlChan s.dev.shadowBank c) v).awCause (awlChan s.dev.shadowBank c)) ∧
  (∀ (req v c : Nat) (s : State), c = s.dev.rd (chselField 0x03100000) 0 0 req ∧ c < 16384 → s.dev.bankBusy = false ∧ v % 2 = 0 → ∃ t, exec (.awlValid req v) s = .next t ∧ t.dev.on R.AW_CTRL_VALID (awlChan s.dev.shadowBank c) = false) ∧
  (∀ (req : Nat) (s : State), s.dev.swapCause = 0 → ∃ t, exec (.swap req) s = .next t ∧ t.dev.on R.CL_BANK_SWAP_PENDING = true ∧ t.dev.tk.acts = s.dev.tk.acts ++ [⟨9, srcNum (reqIsland req) 0, .classSwap⟩] ∧ OnlyRegsTick s t [R.CL_BANK_SWAP_PENDING.key 0 0 0]) ∧
  (∀ (req : Nat) (s : State), s.dev.swapCause ≠ 0 → ∃ t, exec (.swap req) s = .next t ∧ t.dev.on R.CL_BANK_REFUSED = true ∧ t.dev.rd R.CL_BANK_CAUSE = s.dev.swapCause ∧ t.dev.tk.acts = s.dev.tk.acts ∧ OnlyRegsTick s t [R.CL_BANK_REFUSED.key 0 0 0, R.CL_BANK_CAUSE.key 0 0 0]) ∧
  (∀ (s : State), s.dev.on R.CL_BANK_OLD_BUSY = true → ∃ t, exec (.oldBusyClear) s = .next t ∧ t.dev.on R.CL_BANK_OLD_BUSY = false ∧ t.dev.tk.sampled = s.dev.tk.sampled ++ [⟨11, srcNum 6 8, 0⟩] ∧ OnlyRegsTick s t [R.CL_BANK_OLD_BUSY.key 0 0 0]) ∧
  (∀ (req : Nat) (s : State), s.dev.bankBusy = false → ∃ t, exec (.copy req) s = .next t ∧ t.dev.on R.CL_BANK_COPY_BUSY = true ∧ OnlyRegsTick s t [R.CL_BANK_COPY_BUSY.key 0 0 0]) ∧
  (∀ (req : Nat) (s : State), s.dev.bankBusy = true → ∃ t, exec (.copy req) s = .next t ∧ t.dev.on R.CL_BANK_REFUSED = true ∧ t.dev.rd R.CL_BANK_CAUSE = 1 ∧ OnlyRegsTick s t [R.CL_BANK_REFUSED.key 0 0 0, R.CL_BANK_CAUSE.key 0 0 0]) ∧
  (∀ (s : State), s.dev.on R.CL_BANK_COPY_BUSY = true → (s.dev.regs.map (·.1)).Nodup → ∃ t, exec (.copyDone) s = .next t ∧ t.dev.on R.CL_BANK_COPY_BUSY = false ∧ (∀ n, n < 8 → t.dev.emRules s.dev.shadowBank n = s.dev.emRules s.dev.activeBank n ∧ t.dev.emRules s.dev.activeBank n = s.dev.emRules s.dev.activeBank n) ∧ (∀ c, c < 64 → t.dev.rd R.PF_SEL2_ETYPE (profChan s.dev.shadowBank c) = s.dev.rd R.PF_SEL2_ETYPE (profChan s.dev.activeBank c)) ∧ t = { s with dev := { s.dev with regs := t.dev.regs, cls := t.dev.cls } }) ∧
  (∀ (req : Nat) (s : State), s.dev.captBusy = false → ∃ t, exec (.bankSwap req) s = .next t ∧ t.dev.on R.CP_BANK_SWAP_PENDING = true ∧ t.dev.tk.acts = s.dev.tk.acts ++ [⟨9, srcNum (reqIsland req) 0, .captSwap⟩] ∧ OnlyRegsTick s t [R.CP_BANK_SWAP_PENDING.key 0 0 0]) ∧
  (∀ (req : Nat) (s : State), s.dev.captBusy = true → ∃ t, exec (.bankSwap req) s = .next t ∧ t.dev.on R.CP_STATUS_WR_REFUSED = true ∧ t.dev.rd R.CP_STATUS_CAUSE = 1 ∧ t.dev.tk.acts = s.dev.tk.acts ∧ OnlyRegsTick s t [R.CP_STATUS_WR_REFUSED.key 0 0 0, R.CP_STATUS_CAUSE.key 0 0 0]) ∧
  (∀ (req : Nat) (s : State), s.dev.captBusy = false → ∃ t, exec (.bankClear req) s = .next t ∧ t.dev.on R.CP_BANK_CLEAR_BUSY = true ∧ OnlyRegsTick s t [R.CP_BANK_CLEAR_BUSY.key 0 0 0]) ∧
  (∀ (s : State), s.dev.on R.CP_BANK_CLEAR_BUSY = true → ∃ t, exec (.bankClearDone) s = .next t ∧ t.dev.on R.CP_BANK_CLEAR_BUSY = false ∧ (∀ i, SMap.getD t.dev.capt.sketch i 0 = (if i / 2 ^ 22 = s.dev.frozen then 0 else SMap.getD s.dev.capt.sketch i 0)) ∧ (∀ i, SMap.getD t.dev.capt.hist i 0 = (if i / 131072 = s.dev.frozen then 0 else SMap.getD s.dev.capt.hist i 0)) ∧ OnlyRegs s { t with dev := { t.dev with capt := s.dev.capt } } [R.CP_BANK_CLEAR_BUSY.key 0 0 0]) ∧
  (∀ (req : Nat) (k : Bytes) (s : State), k = ((List.range 16).flatMap (fun i => leBytes 4 (s.dev.rd R.SK_QKEY 0 i req))).take (s.dev.rd R.SK_QARG_KL 0 0 req) → ∃ t, exec (.skQuery req) s = .next t ∧ (∀ i, i ∈ s.dev.sketchIdx (s.dev.rd R.SK_QARG_PROFILE 0 0 req) k → t.dev.rd R.SK_QRESULT 0 0 req ≤ SMap.getD s.dev.capt.sketch (s.dev.frozen * 2 ^ 22 + i) 0) ∧ OnlyRegsTick s t [R.SK_QRESULT.key 0 0 req, R.SK_QSTATUS_SAT.key 0 0 req]) ∧
  (∀ (a n : Nat) (s : State), ∃ t, exec (.flowClear a n) s = .next t ∧ (∀ i, SMap.getD t.dev.capt.flows i (0, 0) = (if a ≤ i ∧ i < a + n then (0, 0) else SMap.getD s.dev.capt.flows i (0, 0))) ∧ t = { s with dev := { s.dev with capt := { s.dev.capt with flows := t.dev.capt.flows } } })

/-- LOSS records are written, chunks close by time, become segments, and a disabled stream drains. A pending run of losses becomes a LOSS record in the open chunk once 64 bytes of the share are free: CS_LOSS_RECS counts and LOSS_PENDING clears; with less space, or no run, nothing changes. An open chunk older than CS_FLUSH closes and is next for Skiver; a younger one stays. Skiver takes the chunk that closed first and appends its segment: the Zstandard frame with COMPRESS, the chunk itself without; CS_SEGMENTS counts, and other streams are unchanged. Disabling a stream clears EN and closes its chunk; a stream without raw records is IDLE at once. (12_capture_and_reduced_data.md R305, R309, R310, R311, R313.) -/
def Obligations.StreamsCloseAndStoreChunks : Prop :=
  (∀ (st : Nat) (l : LossRun) (s : State), (s.dev.stream st).loss = some l → 64 ≤ s.dev.stageFree st → (s.dev.stream st).chunk.bytes.length + (lossRecord l).length ≤ 131072 → ∃ t, exec (.lossRecord st) s = .next t ∧ (t.dev.stream st).loss = none ∧ (t.dev.stream st).chunk.bytes = (s.dev.stream st).chunk.bytes ++ lossRecord l ∧ (t.dev.stream st).chunk.loss = true ∧ (t.dev.stream st).chunk.records = (s.dev.stream st).chunk.records + 1 ∧ t.dev.rd R.CS_LOSS_RECS st = (s.dev.rd R.CS_LOSS_RECS st + 1) % 2 ^ R.CS_LOSS_RECS.width ∧ t.dev.on R.CS_STATUS_LOSS_PENDING st = false ∧ (∀ x, x ≠ st → t.dev.stream x = s.dev.stream x) ∧ RegsBut s.dev t.dev [R.CS_LOSS_RECS.key st 0 0, R.CS_STATUS_LOSS_PENDING.key st 0 0, R.CP_STATUS_LOSS_PENDING.key 0 0 0, R.CS_STATUS_IDLE.key st 0 0, R.CS_STAGE_USED.key st 0 0]) ∧
  (∀ (st : Nat) (s : State), (s.dev.stream st).loss = none ∨ s.dev.stageFree st < 64 → ∃ t, exec (.lossRecord st) s = .next t ∧ t = s) ∧
  (∀ (st : Nat) (s : State), (s.dev.stream st).chunk.start + s.dev.rd R.CS_FLUSH st * 1000 < s.dev.cyc + 8 → (s.dev.stream st).chunk.records ≠ 0 → ∃ t, exec (.chunkFlush st) s = .next t ∧ (t.dev.stream st).closed = (s.dev.stream st).closed ++ [(s.dev.stream st).chunk] ∧ (t.dev.stream st).chunk = {} ∧ t.dev.capt.order = s.dev.capt.order ++ [st] ∧ (∀ x, x ≠ st → t.dev.stream x = s.dev.stream x) ∧ t = { s with dev := { s.dev with capt := t.dev.capt } }) ∧
  (∀ (st : Nat) (s : State), s.dev.cyc + 8 ≤ (s.dev.stream st).chunk.start + s.dev.rd R.CS_FLUSH st * 1000 → ∃ t, exec (.chunkFlush st) s = .next t ∧ t = s) ∧
  (∀ (st : Nat) (rest : List Nat) (c : Chunk) (cs : List Chunk) (s : State), s.dev.capt.order = st :: rest → (s.dev.stream st).closed = c :: cs → ∃ t, exec (.skiverCompress) s = .next t ∧ ((t.dev.stream st).segs = (s.dev.stream st).segs ++ [captSegment st (s.dev.stream st).segNo (s.dev.on R.CS_CTRL_COMPRESS st) c (if s.dev.on R.CS_CTRL_COMPRESS st then zstdFrame c.bytes else c.bytes)]) ∧ (t.dev.stream st).closed = cs ∧ (t.dev.stream st).segNo = (s.dev.stream st).segNo + 1 ∧ t.dev.capt.order = rest ∧ t.dev.rd R.CS_SEGMENTS st = (s.dev.rd R.CS_SEGMENTS st + 1) % 2 ^ R.CS_SEGMENTS.width ∧ (s.dev.on R.CS_CTRL_COMPRESS st = true → t.dev.rd R.SK_FRAMES = (s.dev.rd R.SK_FRAMES + 1) % 2 ^ R.SK_FRAMES.width) ∧ (∀ x, x ≠ st → t.dev.stream x = s.dev.stream x)) ∧
  (∀ (s : State), s.dev.capt.order = [] → ∃ t, exec (.skiverCompress) s = .next t ∧ t = s) ∧
  (∀ (req st : Nat) (s : State), (s.dev.stream st).chunk.records ≠ 0 → ∃ t, exec (.streamDisable req st) s = .next t ∧ t.dev.on R.CS_CTRL_EN st = false ∧ (t.dev.stream st).closed = (s.dev.stream st).closed ++ [(s.dev.stream st).chunk] ∧ (t.dev.stream st).chunk = {} ∧ (t.dev.stream st).segs = (s.dev.stream st).segs ∧ RegsBut s.dev t.dev [R.CS_CTRL_EN.key st 0 0, R.CS_STATUS_IDLE.key st 0 0]) ∧
  (∀ (req st : Nat) (s : State), (s.dev.stream st).chunk.records = 0 ∧ (s.dev.stream st).raw = 0 → ∃ t, exec (.streamDisable req st) s = .next t ∧ t.dev.on R.CS_CTRL_EN st = false ∧ t.dev.on R.CS_STATUS_IDLE st = true ∧ OnlyRegsTick s t [R.CS_CTRL_EN.key st 0 0, R.CS_STATUS_IDLE.key st 0 0])

/-- Frames take their place in ticks, START and STOP wait for the boundary, ticks close with GSNs. While enrolment is not held, the first frame of a port on its way joins the tick of its timestamp, or, when that has closed, the lowest open tick as late with SQ_LATE counted; a frame that does not enrol is delivered unsequenced and its bytes leave the hold. START and STOP are sampled and wait for the next tick. The lowest open tick of a running sequencer alone, when ready: SQ_TICK_CLOSED names it, its class 5 event rises, its frames leave the ticks, and SQ_GSN_NEXT advances by the number of frames that its order holds. When it must stall the state is STALLED; when it is not ready nothing changes. After SQ_STALL_LIMIT the sources that block are stalled, SRC_STALL sets, each raises its event, and closing goes on from there. (04_stitch_sequencer_and_hide_journal.md R97, R98, R101, R102, R103, R105; 04_stitch_sequencer_and_hide_journal.md R106, R108, R116, R119.) -/
def Obligations.FramesAreEnrolledAndTicksClose : Prop :=
  (∀ (p : Nat) (f : RxFrame) (s : State), s.dev.seq.way.find? (fun f => f.src == p) = some f → s.dev.seqHeld = false ∧ s.dev.enrols f = true → s.dev.seq.next ≤ s.dev.tickOf f.stamp → ∃ t, exec (.enrolment p) s = .next t ∧ t.dev.seq.way = s.dev.seq.way.erase f ∧ SMap.getD t.dev.seq.ticks (s.dev.tickOf f.stamp) [] = SMap.getD s.dev.seq.ticks (s.dev.tickOf f.stamp) [] ++ [⟨f, s.dev.enrolIdx f.src, s.dev.tickOf f.stamp, false⟩] ∧ (∀ n, n ≠ s.dev.tickOf f.stamp → SMap.getD t.dev.seq.ticks n [] = SMap.getD s.dev.seq.ticks n []) ∧ t = { s with dev := { s.dev with seq := { s.dev.seq with way := t.dev.seq.way, ticks := t.dev.seq.ticks } } }) ∧
  (∀ (p : Nat) (f : RxFrame) (s : State), s.dev.seq.way.find? (fun f => f.src == p) = some f → s.dev.seqHeld = false ∧ s.dev.enrols f = true → s.dev.tickOf f.stamp < s.dev.seq.next → ∃ t, exec (.enrolment p) s = .next t ∧ SMap.getD t.dev.seq.ticks s.dev.seq.next [] = SMap.getD s.dev.seq.ticks s.dev.seq.next [] ++ [⟨f, s.dev.enrolIdx f.src, s.dev.seq.next, true⟩] ∧ t.dev.rd R.SQ_LATE = min (s.dev.rd R.SQ_LATE + 1) (2 ^ R.SQ_LATE.width - 1) ∧ t.dev.on R.SQ_STATUS_LATE_SEEN = true ∧ RegsBut s.dev t.dev [R.SQ_LATE.key 0 0 0, R.SQ_STATUS_LATE_SEEN.key 0 0 0]) ∧
  (∀ (p : Nat) (f : RxFrame) (s : State), s.dev.seq.way.find? (fun f => f.src == p) = some f → s.dev.seqHeld = false ∧ s.dev.enrols f = false → ∃ t, exec (.enrolment p) s = .next t ∧ t = { s with dev := ({ s.dev with seq := { s.dev.seq with way := s.dev.seq.way.erase f, hold := s.dev.seq.hold - f.len } }).unsequenced f } ∧ (f.cap = none → t.dev.rd R.SQ_UNSEQ = min (s.dev.rd R.SQ_UNSEQ + 1) (2 ^ R.SQ_UNSEQ.width - 1))) ∧
  (∀ (p : Nat) (s : State), s.dev.seqHeld = true ∨ s.dev.seq.way.find? (fun f => f.src == p) = none → ∃ t, exec (.enrolment p) s = .next t ∧ t = s) ∧
  (∀ (req : Nat) (s : State), ∃ t, exec (.start req) s = .next t ∧ t.dev.tk = { s.dev.tk with sampled := s.dev.tk.sampled ++ [⟨9, srcNum (reqIsland req) 0, 1⟩], acts := s.dev.tk.acts ++ [⟨9, srcNum (reqIsland req) 0, .seqStart⟩] } ∧ OnlyRegsTick s t []) ∧
  (∀ (req : Nat) (s : State), ∃ t, exec (.stop req) s = .next t ∧ t.dev.tk = { s.dev.tk with sampled := s.dev.tk.sampled ++ [⟨9, srcNum (reqIsland req) 0, 2⟩], acts := s.dev.tk.acts ++ [⟨9, srcNum (reqIsland req) 0, .seqStop⟩] } ∧ OnlyRegsTick s t []) ∧
  (∀ (s : State), s.dev.rd R.SQ_STATUS_STATE = 1 ∧ s.dev.rd R.SQ_CTRL_CL_ROLE = 0 ∧ s.dev.rd R.SQ_GSN_NEXT < 2 ^ 64 → s.dev.tickReady = true ∧ s.dev.mustStall = false → ∃ t, exec (.seqTickClose) s = .next t ∧ t.dev.rd R.SQ_TICK_CLOSED = s.dev.seq.next % 2 ^ 48 ∧ t.dev.seq.next = s.dev.seq.next + 1 ∧ SMap.get? t.dev.seq.ticks s.dev.seq.next = none ∧ ⟨5, srcNum 1 32, s.dev.seq.next⟩ ∈ t.dev.tk.sampled ∧ t.dev.rd R.SQ_GSN_NEXT = (s.dev.rd R.SQ_GSN_NEXT + (tickOrder s.dev.seq.next (max 1 s.dev.enrolCount) (SMap.getD s.dev.seq.ticks s.dev.seq.next [])).length) % 2 ^ 64 ∧ t.hbm = s.hbm ∧ t.fuse = s.fuse) ∧
  (∀ (s : State), s.dev.rd R.SQ_STATUS_STATE = 1 → s.dev.tickReady = true ∧ s.dev.mustStall = true → ∃ t, exec (.seqTickClose) s = .next t ∧ t.dev.rd R.SQ_STATUS_STATE = 3 ∧ OnlyRegs s t [R.SQ_STATUS_STATE.key 0 0 0]) ∧
  (∀ (s : State), s.dev.tickReady = false → ∃ t, exec (.seqTickClose) s = .next t ∧ t = s) ∧
  (∀ (n since : Nat) (l : List Nat) (s : State), s.dev.seq.blocked = some (n, since, l) → s.dev.rd R.SQ_STATUS_STATE = 1 ∨ s.dev.rd R.SQ_STATUS_STATE = 2 → n = s.dev.seq.next ∧ since + s.dev.rd R.SQ_STALL_LIMIT < s.dev.cyc + 8 → ∃ t, exec (.seqSourceStall) s = .next t ∧ (∃ e : Dev, t = { s with dev := e.tickClose } ∧ e.on R.SQ_STATUS_SRC_STALL = true ∧ (∀ p, p ∈ s.dev.blockers → e.on R.SRC_STATUS_STALLED p = true) ∧ e = { s.dev with regs := e.regs, tk := { s.dev.tk with sampled := s.dev.tk.sampled ++ s.dev.blockers.map (fun p => ⟨11, srcNum 1 33, p⟩) } } ∧ RegsBut s.dev e (R.SQ_STATUS_SRC_STALL.key 0 0 0 :: s.dev.blockers.map (fun p => R.SRC_STATUS_STALLED.key p 0 0)))) ∧
  (∀ (s : State), s.dev.seq.blocked = none → ∃ t, exec (.seqSourceStall) s = .next t ∧ t = s)

/-- Summaries, replies, resends and time-outs of a sequencing cluster. Ten microseconds after a summary without reply the member sends it again to its root, marked as a resend; a tick already answered, or one too young, sends nothing. A device outside a cluster counts a summary or a reply in FB_BAD_TYPE alone. At a running root a summary with another configuration digest is counted in SQ_CL_MISMATCH and taken no further; one with the same digest joins the root's tick. When the lowest open tick of the root times out, the members without a summary are marked in SQ_CL_ABSENT and the tick closes. A reply for a tick without a batch changes nothing; one for a batch takes the batch away. A member without reply for twice the time-out is CLUSTER_LOST, with its event. (04_stitch_sequencer_and_hide_journal.md R110, R111, R112; 13_werik_fabric.md R344.) -/
def Obligations.ClusterMembersAgreeWithTheirRoot : Prop :=
  (∀ (n : Nat) (b : Batch) (s : State), SMap.get? s.dev.seq.batches n = some b → b.last + 10000 < s.dev.cyc + 8 → ∃ t, exec (.seqSummaryResend n) s = .next t ∧ t.dev.seq.out = s.dev.seq.out ++ [⟨4, s.dev.rd R.SQ_CL_ROOT, s.dev.summaryOf n true ((sourceFrames s.dev.enrolCount b.frames).map List.length)⟩] ∧ SMap.get? t.dev.seq.batches n = some { b with last := s.dev.cyc } ∧ (∀ m, m ≠ n → SMap.get? t.dev.seq.batches m = SMap.get? s.dev.seq.batches m) ∧ t = { s with dev := { s.dev with seq := t.dev.seq } }) ∧
  (∀ (n : Nat) (b : Batch) (s : State), SMap.get? s.dev.seq.batches n = some b → s.dev.cyc + 8 ≤ b.last + 10000 → ∃ t, exec (.seqSummaryResend n) s = .next t ∧ t = s) ∧
  (∀ (n : Nat) (s : State), SMap.get? s.dev.seq.batches n = none → ∃ t, exec (.seqSummaryResend n) s = .next t ∧ t = s) ∧
  (∀ (b : Bytes) (s : State), s.dev.rd R.SQ_CTRL_CL_ROLE = 0 → ∃ t, exec (.seqSummary b) s = .next t ∧ t.dev.rd R.FB_BAD_TYPE = (s.dev.rd R.FB_BAD_TYPE + 1) % 2 ^ R.FB_BAD_TYPE.width ∧ OnlyRegs s t [R.FB_BAD_TYPE.key 0 0 0]) ∧
  (∀ (b : Bytes) (s : State), s.dev.rd R.SQ_CTRL_CL_ROLE = 2 ∧ s.dev.rd R.SQ_STATUS_STATE ≠ 0 → ∃ t, exec (.seqSummary b) s = .next t ∧ (slice b 2 8 ≠ Config.shake256 s.dev.seqConfig 8 → t.dev.rd R.SQ_CL_MISMATCH = min (s.dev.rd R.SQ_CL_MISMATCH + 1) (2 ^ R.SQ_CL_MISMATCH.width - 1) ∧ t.dev.seq = s.dev.seq ∧ ⟨6, srcNum 1 35, le16 b 0⟩ ∈ t.dev.tk.sampled) ∧ (slice b 2 8 = Config.shake256 s.dev.seqConfig 8 → t = { s with dev := s.dev.rootSummary (le16 b 0) (leNat (slice b 10 6)) ((List.range (byteAt b 16)).map (fun i => le16 b (18 + 2 * i))) })) ∧
  (∀ (b : Bytes) (s : State), s.dev.rd R.SQ_CTRL_CL_ROLE = 1 ∨ (s.dev.rd R.SQ_CTRL_CL_ROLE = 2 ∧ s.dev.rd R.SQ_STATUS_STATE = 0) → ∃ t, exec (.seqSummary b) s = .next t ∧ t = s) ∧
  (∀ (c : Nat) (s : State), SMap.get? s.dev.seq.lastSum s.dev.seq.rootNext = some c → s.dev.rd R.SQ_CTRL_CL_ROLE = 2 ∧ c + s.dev.rd R.SQ_CL_TIMEOUT < s.dev.cyc + 8 → ∃ t, exec (.seqClTimeout) s = .next t ∧ (∃ e : Dev, t = { s with dev := Dev.rootDrain (s.dev.seq.sums.length + 1) (e.rootClose s.dev.seq.rootNext) } ∧ e = { s.dev with regs := e.regs } ∧ (∀ m, m ∈ s.dev.seq.members → m.1 ∉ ((SMap.getD s.dev.seq.sums s.dev.seq.rootNext []).filter (fun r => !r.late)).map (·.member) → m.1 < 4096 → bit (e.rd R.SQ_CL_ABSENT 0 (m.1 / 32)) (m.1 % 32) = true))) ∧
  (∀ (s : State), SMap.get? s.dev.seq.lastSum s.dev.seq.rootNext = none → ∃ t, exec (.seqClTimeout) s = .next t ∧ t = s) ∧
  (∀ (b : Bytes) (s : State), s.dev.rd R.SQ_CTRL_CL_ROLE = 0 → ∃ t, exec (.seqReply b) s = .next t ∧ t.dev.rd R.FB_BAD_TYPE = (s.dev.rd R.FB_BAD_TYPE + 1) % 2 ^ R.FB_BAD_TYPE.width ∧ OnlyRegs s t [R.FB_BAD_TYPE.key 0 0 0]) ∧
  (∀ (b : Bytes) (s : State), s.dev.rd R.SQ_CTRL_CL_ROLE ≠ 0 → SMap.get? s.dev.seq.batches (leNat (slice b 0 6)) = none → ∃ t, exec (.seqReply b) s = .next t ∧ t = s) ∧
  (∀ (b : Bytes) (x : Batch) (s : State), s.dev.rd R.SQ_CTRL_CL_ROLE ≠ 0 → SMap.get? s.dev.seq.batches (leNat (slice b 0 6)) = some x → s.dev.rd R.SQ_STATUS_STATE ≠ 2 ∧ s.dev.seq.stop = none → ∃ t, exec (.seqReply b) s = .next t ∧ (t = { s with dev := s.dev.applyReply (leNat (slice b 0 6)) ((byteAt b 7).testBit 0) (leNat (slice b 8 6)) ((List.range (byteAt b 6)).map (fun i => le64 b (16 + 8 * i))) }) ∧ t.dev.seq.batches = SMap.del s.dev.seq.batches (leNat (slice b 0 6)) ∧ (s.dev.rd R.SQ_STATUS_STATE = 4 → t.dev.rd R.SQ_STATUS_STATE = 1)) ∧
  (∀ (n : Nat) (b : Batch) (s : State), s.dev.rd R.SQ_STATUS_STATE = 1 → (n, b) ∈ s.dev.seq.batches → b.first + 2 * s.dev.rd R.SQ_CL_TIMEOUT < s.dev.cyc + 8 → ∃ t, exec (.clusterLost) s = .next t ∧ t.dev.rd R.SQ_STATUS_STATE = 4 ∧ t.dev.tk = { s.dev.tk with sampled := s.dev.tk.sampled ++ [⟨11, srcNum 1 34, 0⟩] } ∧ OnlyRegsTick s t [R.SQ_STATUS_STATE.key 0 0 0]) ∧
  (∀ (s : State), s.dev.seq.batches = [] → ∃ t, exec (.clusterLost) s = .next t ∧ t = s)

/-- Hide takes records, seals them by period, counts signatures, and takes up work when space returns. With CRYPT running, no rebuild, room and no gap open, Hide takes the first record of the FIFO as a leaf; when it is full a running sequencer without gap mode is STALLED and the record stays, and in gap mode the record widens the gap. A due period with records closes the open block and queues one unsigned seal of it; one that is not due does nothing. A signature that reads back sets HD_SEAL_CTR to the seal's own counter and takes the seal from the queue with its class 11 event; one that does not sets SEAL_FAULT and signs nothing. When 4 MiB are free again a stalled sequencer runs; with less only status follows. A rebuild ends. An acknowledged segment at the head of the ring leaves it. (04_stitch_sequencer_and_hide_journal.md R116, R117, R118, R119, R120.) -/
def Obligations.RecordsAreSealedAndDrained : Prop :=
  (∀ (r : Bytes) (rest : List Bytes) (s : State), s.dev.seq.fifo = r :: rest → s.dev.rd R.SQ_STATUS_STATE ≠ 2 → s.dev.inReset 0x16 = false ∧ s.dev.on R.HD_STATUS_REBUILD = false → s.dev.hideFull = false ∧ s.dev.hide.gap = none → recGap r = false ∧ s.dev.hide.recs.length < 1023 → ∃ t, exec (.journalRecord) s = .next t ∧ t.dev.seq = { s.dev.seq with fifo := rest } ∧ t.dev.hide.recs = s.dev.hide.recs ++ [r] ∧ t.dev.hide.coded = s.dev.hide.coded ++ codeRecord (s.dev.hide.recs == []) (s.dev.hide.recs.getLast?.getD []) r ∧ t.dev.hide.last = recGsn r ∧ t.dev.hide.count = s.dev.hide.count + 1 ∧ t.dev.hide.chain = s.dev.hide.chain ∧ RegsBut s.dev t.dev [R.SQ_STATUS_STATE.key 0 0 0, R.HD_STATUS_FULL.key 0 0 0, R.HD_RING_FREE.key 0 0 0, R.HD_UNSIGNED.key 0 0 0, R.HD_STATUS_SIGN_WAIT.key 0 0 0]) ∧
  (∀ (r : Bytes) (rest : List Bytes) (s : State), s.dev.seq.fifo = r :: rest → s.dev.rd R.SQ_STATUS_STATE = 1 → s.dev.on R.SQ_CTRL_GAP_MODE = false → s.dev.hideFull = true → ∃ t, exec (.journalRecord) s = .next t ∧ t.dev.rd R.SQ_STATUS_STATE = 3 ∧ OnlyRegs s t [R.SQ_STATUS_STATE.key 0 0 0]) ∧
  (∀ (r : Bytes) (rest : List Bytes) (s : State), s.dev.seq.fifo = r :: rest → s.dev.rd R.SQ_STATUS_STATE ≠ 2 → s.dev.on R.SQ_CTRL_GAP_MODE = true → s.dev.inReset 0x16 = false ∧ s.dev.on R.HD_STATUS_REBUILD = false → s.dev.hideFull = true → ∃ t, exec (.journalRecord) s = .next t ∧ t = { s with dev := { s.dev with seq := { s.dev.seq with fifo := rest }, hide := { s.dev.hide with gap := some ((s.dev.hide.gap.map (·.1)).getD r, recLast r) } } }) ∧
  (∀ (s : State), s.dev.seq.fifo = [] → s.dev.rd R.SQ_STATUS_STATE ≠ 2 → ∃ t, exec (.journalRecord) s = .next t ∧ t = s) ∧
  (∀ (s : State), s.dev.rd R.SQ_STATUS_STATE = 1 ∨ s.dev.rd R.SQ_STATUS_STATE = 3 → s.dev.inReset 0x16 = false → s.dev.hide.due < s.dev.cyc + 8 → s.dev.hide.recs ≠ [] → ∃ t, exec (.sealPeriod) s = .next t ∧ t.dev.hide.unsigned = s.dev.hide.unsigned ++ [(s.dev.closeBlock true).sealBody false] ∧ t.dev.hide.recs = [] ∧ t.dev.hide.due = s.dev.nextPeriod ∧ t.dev.hide.period = 0 ∧ t.dev.hide.count = 0 ∧ t.dev.rd R.HD_BLOCK = (s.dev.rd R.HD_BLOCK + 1) % 2 ^ R.HD_BLOCK.width ∧ t.dev.hide.segs.length = s.dev.hide.segs.length + 2 ∧ t.dev.mram = s.dev.mram) ∧
  (∀ (s : State), s.dev.rd R.SQ_STATUS_STATE ≠ 2 → s.dev.rd R.SQ_STATUS_STATE = 0 ∨ s.dev.sealDue = false ∨ s.dev.inReset 0x16 = true → ∃ t, exec (.sealPeriod) s = .next t ∧ t = s) ∧
  (∀ (b : Bytes) (rest : List Bytes) (s : State), s.dev.hide.unsigned = b :: rest → s.dev.enclUp = true ∧ s.dev.on R.EN_STATUS_SEAL_FAULT = false → ∃ t, exec (.sealSigned true) s = .next t ∧ t.dev.hide.unsigned = rest ∧ t.dev.rd R.HD_SEAL_CTR = le64 b 48 % 2 ^ R.HD_SEAL_CTR.width ∧ ⟨11, srcNum 0x16 0, le64 b 48⟩ ∈ t.dev.tk.sampled ∧ SMap.get? t.dev.mram.sealWords (le64 b 48 % 65536) = some (le64 b 48) ∧ ∃ sig, SMap.get? t.dev.mram.sealStore (le64 b 48 % 131072) = some (b ++ sig) ∧ RegsBut s.dev t.dev [R.HD_SEAL_CTR.key 0 0 0, R.HD_STATUS_FULL.key 0 0 0, R.HD_RING_FREE.key 0 0 0, R.HD_UNSIGNED.key 0 0 0, R.HD_STATUS_SIGN_WAIT.key 0 0 0]) ∧
  (∀ (b : Bytes) (rest : List Bytes) (s : State), s.dev.hide.unsigned = b :: rest → s.dev.enclUp = true ∧ s.dev.on R.EN_STATUS_SEAL_FAULT = false → ∃ t, exec (.sealSigned false) s = .next t ∧ t.dev.on R.EN_STATUS_SEAL_FAULT = true ∧ t.dev.hide = s.dev.hide ∧ t.dev.mram.sealWords = s.dev.mram.sealWords ∧ t.dev.mram.sealStore = s.dev.mram.sealStore ∧ ⟨2, srcNum 0x16 2, le64 b 48⟩ ∈ t.dev.tk.sampled) ∧
  (∀ (rb : Bool) (s : State), s.dev.hide.unsigned = [] ∨ s.dev.enclUp = false ∨ s.dev.on R.EN_STATUS_SEAL_FAULT = true → ∃ t, exec (.sealSigned rb) s = .next t ∧ t = s) ∧
  (∀ (s : State), 4 * 2 ^ 20 ≤ s.dev.ringFree ∧ s.dev.hide.unsigned.length ≤ 256 → s.dev.inReset 0x16 = false ∧ s.dev.on R.HD_STATUS_REBUILD = false → s.dev.rd R.SQ_STATUS_STATE = 3 ∧ s.dev.seq.stop = none → s.dev.hide.gap = none → ∃ t, exec (.journalSpaceReturn) s = .next t ∧ t.dev.rd R.SQ_STATUS_STATE = 1 ∧ t.dev.on R.HD_STATUS_FULL = false ∧ OnlyRegs s t [R.SQ_STATUS_STATE.key 0 0 0, R.HD_STATUS_FULL.key 0 0 0, R.HD_RING_FREE.key 0 0 0, R.HD_UNSIGNED.key 0 0 0, R.HD_STATUS_SIGN_WAIT.key 0 0 0]) ∧
  (∀ (s : State), s.dev.ringFree < 4 * 2 ^ 20 → ∃ t, exec (.journalSpaceReturn) s = .next t ∧ t.dev.rd R.SQ_STATUS_STATE = s.dev.rd R.SQ_STATUS_STATE ∧ t.dev.on R.HD_STATUS_FULL = s.dev.hideFull ∧ OnlyRegs s t [R.SQ_STATUS_STATE.key 0 0 0, R.HD_STATUS_FULL.key 0 0 0, R.HD_RING_FREE.key 0 0 0, R.HD_UNSIGNED.key 0 0 0, R.HD_STATUS_SIGN_WAIT.key 0 0 0]) ∧
  (∀ (s : State), s.dev.inReset 0x16 = false → s.dev.rd R.SQ_STATUS_STATE ≠ 2 ∧ s.dev.seq.stop = none ∧ s.dev.hide.gap = none → ∃ t, exec (.hideRebuild) s = .next t ∧ t.dev.on R.HD_STATUS_REBUILD = false ∧ OnlyRegs s t [R.SQ_STATUS_STATE.key 0 0 0, R.HD_STATUS_FULL.key 0 0 0, R.HD_RING_FREE.key 0 0 0, R.HD_UNSIGNED.key 0 0 0, R.HD_STATUS_SIGN_WAIT.key 0 0 0, R.HD_STATUS_REBUILD.key 0 0 0]) ∧
  (∀ (s : State), s.dev.inReset 0x16 = true → ∃ t, exec (.hideRebuild) s = .next t ∧ t = s) ∧
  (∀ (g : HideSeg) (rest : List HideSeg) (s : State), s.dev.hide.segs = g :: rest ∧ g.sent = true → s.dev.rd R.SQ_STATUS_STATE ≠ 2 ∧ s.dev.seq.stop = none ∧ s.dev.hide.gap = none → ∃ t, exec (.drainSegmentAck) s = .next t ∧ t.dev.hide = { s.dev.hide with segs := rest } ∧ OnlyRegs s { t with dev := { t.dev with hide := s.dev.hide } } [R.SQ_STATUS_STATE.key 0 0 0, R.HD_STATUS_FULL.key 0 0 0, R.HD_RING_FREE.key 0 0 0, R.HD_UNSIGNED.key 0 0 0, R.HD_STATUS_SIGN_WAIT.key 0 0 0])

/-- Each cause of R212 takes a function out of service with its code and stops its rings. A cause that reaches a function in service sets DISABLING, clears IDLE, records the code of the cause (FLR 1, VF Enable 2, BME 3, link 4, D3hot 5, QUIESCE 6), counts FN_DISABLES, puts the function out of service and clears ENABLE of every ring it owns. An FLR of a PF, and a cleared VF Enable, disable its VFs too. An FLR that joins a disable only adds step 5. A cause of an absent function changes nothing. QUIESCE acts only for PF0 and the cores. A link that goes down counts PC_RETRAIN, clears UP, records Hot Reset or DL_Down and disables every function of the link; one that comes up shows its speed, width and FLIT mode. While HOST is in reset neither acts. (08_host_functions_and_registers.md R198, R212, R213, R216.) -/
def Obligations.FunctionsAreDisabledByTheirCauses : Prop :=
  (∀ (fn : Nat) (s : State), s.dev.fnPresent fn = true ∧ s.dev.on R.FN_STATUS_DISABLING fn = false → ∃ t, exec (.flr fn) s = .next t ∧ t.dev.on R.FN_STATUS_DISABLING fn = true ∧ t.dev.on R.FN_STATUS_IDLE fn = false ∧ t.dev.rd R.FN_STATUS_CAUSE fn = 1 ∧ fn ∈ t.dev.fnOut ∧ t.dev.rd R.FN_DISABLES fn = (s.dev.rd R.FN_DISABLES fn + 1) % 2 ^ R.FN_DISABLES.width ∧ (t.dev.fn fn).step5 = 1 ∧ (∀ r, s.dev.ringOwner r = some fn → t.dev.on R.RG_CTRL_ENABLE r = false) ∧ (∀ v, fn < 8 → v ∈ s.dev.fnVfs fn → s.dev.fnPresent v = true → t.dev.on R.FN_STATUS_DISABLING v = true) ∧ t.hbm = s.hbm ∧ t.fuse = s.fuse) ∧
  (∀ (fn : Nat) (s : State), 8 ≤ fn → s.dev.fnPresent fn = true ∧ s.dev.on R.FN_STATUS_DISABLING fn = true → ∃ t, exec (.flr fn) s = .next t ∧ (t.dev.fn fn).step5 = 1 ∧ (t.dev.fn fn).since = (s.dev.fn fn).since ∧ t = { s with dev := { s.dev with host := { s.dev.host with fns := t.dev.host.fns } } }) ∧
  (∀ (fn : Nat) (s : State), 8 ≤ fn ∧ s.dev.fnPresent fn = false → ∃ t, exec (.flr fn) s = .next t ∧ t = s) ∧
  (∀ (fn v : Nat) (s : State), v ∈ s.dev.fnVfs fn → s.dev.fnPresent v = true ∧ s.dev.on R.FN_STATUS_DISABLING v = false → ∃ t, exec (.vfEnableClear fn) s = .next t ∧ t.dev.on R.FN_STATUS_DISABLING v = true ∧ t.dev.rd R.FN_STATUS_CAUSE v = 2 ∧ v ∈ t.dev.fnOut ∧ (t.dev.fn fn).vfOff = true) ∧
  (∀ (fn : Nat) (s : State), s.dev.fnPresent fn = true ∧ s.dev.on R.FN_STATUS_DISABLING fn = false → ∃ t, exec (.bmeClear fn) s = .next t ∧ t.dev.on R.FN_STATUS_DISABLING fn = true ∧ t.dev.on R.FN_STATUS_IDLE fn = false ∧ t.dev.rd R.FN_STATUS_CAUSE fn = 3 ∧ fn ∈ t.dev.fnOut ∧ t.dev.rd R.FN_DISABLES fn = (s.dev.rd R.FN_DISABLES fn + 1) % 2 ^ R.FN_DISABLES.width ∧ t.dev.on R.FN_INFO_BME fn = false ∧ (∀ r, s.dev.ringOwner r = some fn → t.dev.on R.RG_CTRL_ENABLE r = false)) ∧
  (∀ (fn : Nat) (s : State), s.dev.fnPresent fn = true ∧ s.dev.on R.FN_STATUS_DISABLING fn = false → ∃ t, exec (.d3hotEntry fn) s = .next t ∧ t.dev.on R.FN_STATUS_DISABLING fn = true ∧ t.dev.on R.FN_STATUS_IDLE fn = false ∧ t.dev.rd R.FN_STATUS_CAUSE fn = 5 ∧ fn ∈ t.dev.fnOut ∧ t.dev.rd R.FN_DISABLES fn = (s.dev.rd R.FN_DISABLES fn + 1) % 2 ^ R.FN_DISABLES.width ∧ (t.dev.fn fn).d3 = true ∧ (∀ r, s.dev.ringOwner r = some fn → t.dev.on R.RG_CTRL_ENABLE r = false)) ∧
  (∀ (req fn : Nat) (s : State), req = 0 ∨ isHart req = true → s.dev.on R.FN_CTRL fn = false ∧ (s.dev.fnType fn = 2 → s.dev.unit 2 = true) → s.dev.fnPresent fn = true ∧ s.dev.on R.FN_STATUS_DISABLING fn = false → ∃ t, exec (.quiesce req fn) s = .next t ∧ t.dev.on R.FN_STATUS_DISABLING fn = true ∧ t.dev.on R.FN_STATUS_IDLE fn = false ∧ t.dev.rd R.FN_STATUS_CAUSE fn = 6 ∧ fn ∈ t.dev.fnOut ∧ t.dev.rd R.FN_DISABLES fn = (s.dev.rd R.FN_DISABLES fn + 1) % 2 ^ R.FN_DISABLES.width ∧ t.dev.on R.FN_CTRL fn = true ∧ (∀ r, s.dev.ringOwner r = some fn → t.dev.on R.RG_CTRL_ENABLE r = false)) ∧
  (∀ (req fn : Nat) (s : State), req ≠ 0 ∧ isHart req = false → ∃ t, exec (.quiesce req fn) s = .next t ∧ t = s) ∧
  (∀ (k : Nat) (s : State), s.dev.hostReset = false ∧ k ≤ 1 → ∃ t, exec (.linkReset 0 k) s = .next t ∧ t.dev.rd R.PC_RETRAIN = (s.dev.rd R.PC_RETRAIN + 1) % 2 ^ R.PC_RETRAIN.width ∧ t.dev.on R.PC_LINK_UP = false ∧ (k = 0 → t.dev.on R.PC_EVENTS_HOT_RESET = true) ∧ (k = 1 → t.dev.on R.PC_EVENTS_DL_DOWN = true) ∧ (∀ fn, fn ∈ s.dev.linkFns 0 → t.dev.on R.FN_STATUS_DISABLING fn = true)) ∧
  (∀ (l k : Nat) (s : State), s.dev.hostReset = true → ∃ t, exec (.linkReset l k) s = .next t ∧ t = s) ∧
  (∀ (v w : Nat) (fl : Bool) (s : State), s.dev.hostReset = false → ∃ t, exec (.pcieLinkUp 0 v w fl) s = .next t ∧ t.dev.on R.PC_LINK_UP = true ∧ t.dev.rd R.PC_LINK_SPEED = v % 2 ^ R.PC_LINK_SPEED.width ∧ t.dev.rd R.PC_LINK_WIDTH = w % 2 ^ R.PC_LINK_WIDTH.width ∧ t.dev.on R.PC_LINK_FLIT = fl ∧ (s.dev.on R.PC_LINK_UP = false → t.dev.on R.PC_EVENTS_LINK_CHG = true) ∧ OnlyRegs s t [R.PC_LINK_UP.key 0 0 0, R.PC_LINK_SPEED.key 0 0 0, R.PC_LINK_WIDTH.key 0 0 0, R.PC_LINK_FLIT.key 0 0 0, R.PC_LINK_DEGRADED.key 0 0 0, R.PC_EVENTS_LINK_CHG.key 0 0 0])

/-- A disabled function becomes IDLE and returns; configuration, MSI-X, allocations and reads answer. A disabled function with no read outstanding and no step 5 becomes IDLE with its class 11 event; one with an FLR's step 5 also loses its requester's private registers, BME and MSI-X Enable; one with a read outstanding stays. A function that no cause holds returns to service. Before DONE a configuration request returns Request Retry Status and changes nothing; after it Bus Master sets BME, VF Enable takes the number, reads return. Clearing Function Mask sends exactly the pending vectors that their entries do not mask. An allocation register takes its value, or the cause is recorded. A read that returns after its tag retired counts PC_LATE_CPL; one of a disabled function is discarded; one in service goes to what asked for it. (08_host_functions_and_registers.md R207, R213, R215, R218; 15_boot_and_secure_start.md R390.) -/
def Obligations.FunctionsReturnAndAnswer : Prop :=
  (∀ (fn : Nat) (s : State), s.dev.on R.FN_STATUS_DISABLING fn = true → ∀ r, r ∈ s.dev.host.reads → r.fn ≠ fn → (s.dev.fn fn).step5 = 0 ∧ s.dev.linkPending (s.dev.fnLink fn) = [] → ∃ t, exec (.functionIdle fn) s = .next t ∧ t.dev.on R.FN_STATUS_IDLE fn = true ∧ t.dev.on R.FN_STATUS_DISABLING fn = false ∧ t.dev.on R.FN_STATUS_IDLE_CHG fn = true ∧ ⟨11, srcNum 0x0B 1, fn⟩ ∈ t.dev.tk.sampled ∧ OnlyRegsTick s t [R.FN_STATUS_IDLE.key fn 0 0, R.FN_STATUS_DISABLING.key fn 0 0, R.FN_STATUS_IDLE_CHG.key fn 0 0]) ∧
  (∀ (fn : Nat) (s : State), s.dev.on R.FN_STATUS_DISABLING fn = true → ∀ r, r ∈ s.dev.host.reads → r.fn ≠ fn → (s.dev.fn fn).step5 = 1 ∧ 8 ≤ fn → ∃ t, exec (.functionIdle fn) s = .next t ∧ t.dev.on R.FN_STATUS_IDLE fn = true ∧ t.dev.on R.FN_STATUS_DISABLING fn = false ∧ t.dev.on R.FN_INFO_BME fn = false ∧ t.dev.on R.FN_INFO_MSIX_EN fn = false ∧ (∀ k : Key, k.req = fn + 1 → RegFile.get? t.dev.regs k = none)) ∧
  (∀ (fn : Nat) (r : HostRead) (s : State), r ∈ s.dev.host.reads ∧ r.fn = fn → ∃ t, exec (.functionIdle fn) s = .next t ∧ t = s) ∧
  (∀ (fn : Nat) (s : State), s.dev.hostReset = false ∧ s.dev.fnHeld fn = false → ∃ t, exec (.functionReturn fn) s = .next t ∧ t.dev.fnOut = s.dev.fnOut.filter (· != fn) ∧ t = { s with dev := { s.dev with fnOut := t.dev.fnOut } }) ∧
  (∀ (fn : Nat) (s : State), s.dev.fnHeld fn = true → ∃ t, exec (.functionReturn fn) s = .next t ∧ t = s) ∧
  (∀ (fn : Nat) (op : ConfigOp) (s : State), s.dev.on R.BT_STATUS_DONE = false → s.dev.rd R.BT_STATUS_BOOT_ERR = 0 → ∃ t, exec (.configRequest fn op) s = .next t ∧ t = { s with dev := { s.dev with rdata := 1 } }) ∧
  (∀ (fn : Nat) (s : State), s.dev.hostReset = false → s.dev.on R.BT_STATUS_DONE = true ∧ s.dev.rst.booting = false → s.dev.fnPresent fn = true → ∃ t, exec (.configRequest fn .busMaster) s = .next t ∧ t.dev.on R.FN_INFO_BME fn = true ∧ t.dev.rdata = 0 ∧ OnlyRegs s { t with dev := { t.dev with rdata := s.dev.rdata } } [R.FN_INFO_BME.key fn 0 0]) ∧
  (∀ (fn : Nat) (s : State), s.dev.hostReset = false → s.dev.on R.BT_STATUS_DONE = true ∧ s.dev.rst.booting = false → s.dev.fnPresent fn = true → ∃ t, exec (.configRequest fn .read) s = .next t ∧ t = { s with dev := { s.dev with rdata := 0 } }) ∧
  (∀ (fn n : Nat) (s : State), s.dev.hostReset = false → s.dev.on R.BT_STATUS_DONE = true ∧ s.dev.rst.booting = false → s.dev.fnPresent fn = true ∧ fn < 8 ∧ n ≤ s.dev.host.vfs.getD fn 0 → ∃ t, exec (.configRequest fn (.vfEnable n)) s = .next t ∧ (t.dev.fn fn).vfEn = n ∧ (t.dev.fn fn).vfOff = false) ∧
  (∀ (fn : Nat) (s : State), s.dev.inService fn = true ∧ s.dev.hostReset = false ∧ s.dev.on R.FN_INFO_MSIX_EN fn = true → ∃ t, exec (.msixUnmask fn none) s = .next t ∧ (t.dev.fn fn).mask = false ∧ ((t.dev.fn fn).pba = (s.dev.fn fn).pba.filter (fun v => (byteAt (s.dev.msixEntry fn v) 12).testBit 0)) ∧ (t.dev.host.out = s.dev.host.out ++ ((s.dev.fn fn).pba.filter (fun v => !(byteAt (s.dev.msixEntry fn v) 12).testBit 0)).map (fun v => ⟨fn, le64 (s.dev.msixEntry fn v) 0 % 2 ^ 64, slice (s.dev.msixEntry fn v) 8 4⟩)) ∧ t.dev.regs = s.dev.regs) ∧
  (∀ (fn v : Nat) (b : Bytes) (s : State), s.dev.inService fn = true ∧ v < s.dev.msixSize fn → (s.dev.fn fn).pba = [] → ∃ t, exec (.msixUnmask fn (some (v, b))) s = .next t ∧ (t = s.onDev (fun d => d.setFn fn (fun f => { f with table := SMap.put f.table v b, pba := [] })))) ∧
  (∀ (req fn i v : Nat) (s : State), devSpace req = true ∧ fn < s.dev.fnNum ∧ (s.dev.fnType fn = 2 → s.dev.unit 2 = true) ∧ i < 6 → s.dev.allocCause fn ((s.dev.fnAlloc fn).set i (v % 2 ^ (allocFields.getD i R.FN_RING_BASE).width)) = 0 → ∃ t, exec (.fnAllocWrite req fn i v) s = .next t ∧ t.dev.rd (allocFields.getD i R.FN_RING_BASE) fn = v % 2 ^ (allocFields.getD i R.FN_RING_BASE).width ∧ (OnlyRegsTick s t (allocFields.map (fun f => f.key fn 0 0)))) ∧
  (∀ (req fn i v : Nat) (s : State), devSpace req = true ∧ fn < s.dev.fnNum ∧ (s.dev.fnType fn = 2 → s.dev.unit 2 = true) ∧ i < 6 → s.dev.allocCause fn ((s.dev.fnAlloc fn).set i (v % 2 ^ (allocFields.getD i R.FN_RING_BASE).width)) ≠ 0 → ∃ t, exec (.fnAllocWrite req fn i v) s = .next t ∧ t.dev.on R.FN_GSTATUS_WR_REFUSED = true ∧ t.dev.rd R.FN_GSTATUS_CAUSE = s.dev.allocCause fn ((s.dev.fnAlloc fn).set i (v % 2 ^ (allocFields.getD i R.FN_RING_BASE).width)) ∧ OnlyRegsTick s t [R.FN_GSTATUS_WR_REFUSED.key 0 0 0, R.FN_GSTATUS_CAUSE.key 0 0 0]) ∧
  (∀ (id : Nat) (r : HostRead) (s : State), s.dev.host.reads.find? (fun x => x.id == id) = some r → s.dev.inService r.fn = false ∧ (s.dev.fn r.fn).since + 625000 ≤ s.dev.tk.etick → ∃ t, exec (.readTagRetire id) s = .next t ∧ (∀ x, x ∈ t.dev.host.reads → x.id ≠ id) ∧ SMap.get? t.dev.host.retired id = some (s.dev.fnLink r.fn) ∧ t = { s with dev := { s.dev with host := { s.dev.host with reads := t.dev.host.reads, retired := t.dev.host.retired } } }) ∧
  (∀ (id l : Nat) (ok : Bool) (b : Bytes) (s : State), SMap.get? s.dev.host.retired id = some l → ∃ t, exec (.hostReadCompletion id ok b) s = .next t ∧ t.dev.rd R.PC_LATE_CPL l = (s.dev.rd R.PC_LATE_CPL l + 1) % 2 ^ R.PC_LATE_CPL.width ∧ SMap.get? t.dev.host.retired id = none ∧ RegsBut s.dev t.dev [R.PC_LATE_CPL.key l 0 0]) ∧
  (∀ (id : Nat) (ok : Bool) (b : Bytes) (r : HostRead) (s : State), SMap.get? s.dev.host.retired id = none → s.dev.host.reads.find? (fun x => x.id == id) = some r → s.dev.inService r.fn = false → ∃ t, exec (.hostReadCompletion id ok b) s = .next t ∧ (t = { s with dev := { s.dev with host := { s.dev.host with reads := s.dev.host.reads.filter (fun x => x.id != id) } } })) ∧
  (∀ (id : Nat) (ok : Bool) (b : Bytes) (r : HostRead) (s : State), SMap.get? s.dev.host.retired id = none → s.dev.host.reads.find? (fun x => x.id == id) = some r → s.dev.inService r.fn = true → ∃ t, exec (.hostReadCompletion id ok b) s = .next t ∧ (t = { s with dev := ({ s.dev with host := { s.dev.host with reads := s.dev.host.reads.filter (fun x => x.id != id) } }).readBack r.what ok (padTo r.len b) }))

/-- Rings are enabled, posted, started, completed, delivered to and disabled by their rules. A doorbell for a ring that is not enabled counts FN_DB_IGNORED. INVAL empties the kept copies. An enable without cause starts the indices and counts at 0 and clears IDLE, and is refused with its cause otherwise. A single-entry TX job issues the read of its buffer and FETCH passes it; a bad descriptor is cause 2 at its index. Rein's oldest report ends its job, which as the only one of its ring completes: CI, CPL_COUNT. A WAIT whose target is not met holds the ring; one outside the allocation is cause 4. A received frame fills one fitting buffer byte for byte; without buffers RG_RX_NOBUF counts it, for a ring out of use CL_RING_MISS. A segment that fits its drain ring is handed over. A disable clears ENABLE; a ring with nothing left is IDLE. (09_rings_and_work_queues.md R221, R223, R225, R227, R228, R229; 09_rings_and_work_queues.md R230, R232, R233, R234, R235.) -/
def Obligations.RingsTakeDoorbellsAndDeliver : Prop :=
  (∀ (fn loc v : Nat) (s : State), s.dev.inService fn = true → s.dev.rd R.FN_RING_COUNT fn ≤ loc ∨ s.dev.on R.RG_CTRL_ENABLE (s.dev.rd R.FN_RING_BASE fn + loc) = false → ∃ t, exec (.ringDoorbell fn loc v) s = .next t ∧ t.dev.rd R.FN_DB_IGNORED fn = min (s.dev.rd R.FN_DB_IGNORED fn + 1) (2 ^ R.FN_DB_IGNORED.width - 1) ∧ OnlyRegs s t [R.FN_DB_IGNORED.key fn 0 0]) ∧
  (∀ (req r : Nat) (s : State), s.dev.ringReach req r = true → s.dev.on R.RG_CFG_PFMODE r = true → ∃ t, exec (.inval req r) s = .next t ∧ (t.dev.ring r).kept = [] ∧ (t.dev.ring r).jobs = (s.dev.ring r).jobs ∧ OnlyRegsTick s { t with dev := { t.dev with host := s.dev.host } } []) ∧
  (∀ (req r : Nat) (s : State), s.dev.ringReach req r = true → s.dev.on R.RG_CTRL_ENABLE r = false ∧ s.dev.ringCause r = 0 → ∃ t, exec (.ringEnable req r) s = .next t ∧ t.dev.on R.RG_CTRL_ENABLE r = true ∧ t.dev.on R.RG_STATUS_IDLE r = false ∧ t.dev.on R.RG_STATUS_ERR r = false ∧ t.dev.rd R.RG_PI r = 0 ∧ t.dev.rd R.RG_FETCH r = 0 ∧ t.dev.rd R.RG_CI r = 0 ∧ t.dev.rd R.RG_CPL_COUNT r = 0 ∧ t.dev.ring r = {} ∧ (RegsBut s.dev t.dev ([R.RG_CTRL_ENABLE, R.RG_STATUS_IDLE, R.RG_STATUS_ERR, R.RG_STATUS_NOTIFY_PENDING, R.RG_PI, R.RG_FETCH, R.RG_CI, R.RG_CPL_COUNT].map (fun f => f.key r 0 0)))) ∧
  (∀ (req r : Nat) (s : State), s.dev.ringReach req r = true → s.dev.on R.RG_CTRL_ENABLE r = false ∧ s.dev.ringCause r ≠ 0 → ∃ t, exec (.ringEnable req r) s = .next t ∧ t.dev.on R.RG_STATUS_WR_REFUSED r = true ∧ t.dev.rd R.RG_STATUS_CAUSE r = s.dev.ringCause r ∧ OnlyRegsTick s t [R.RG_STATUS_WR_REFUSED.key r 0 0, R.RG_STATUS_CAUSE.key r 0 0]) ∧
  (∀ (r : Nat) (b : Bytes) (s : State), s.dev.txReady r = true → txWork (s.dev.ringKept r) = .job [b] → le16 b 8 ≠ 0 → ∃ t, exec (.txJobStart r) s = .next t ∧ t.dev.host.reads = s.dev.host.reads ++ [⟨s.dev.host.nextRead, (s.dev.ringOwner r).getD 0, .tx r s.dev.host.nextJob 0, le64 b 0, le16 b 8, s.dev.tk.etick⟩] ∧ t.dev.rd R.RG_FETCH r = s.dev.ringStep r (s.dev.rd R.RG_FETCH r) 1 % 2 ^ R.RG_FETCH.width ∧ (t.dev.ring r).jobs = (s.dev.ring r).jobs ++ [{ id := s.dev.host.nextJob, first := s.dev.rd R.RG_FETCH r, descs := [b], need := [0] }] ∧ RegsBut s.dev t.dev [R.RG_FETCH.key r 0 0]) ∧
  (∀ (r k : Nat) (s : State), s.dev.txReady r = true → txWork (s.dev.ringKept r) = .bad k → s.dev.on R.RG_STATUS_ERR r = false → ∃ t, exec (.txJobStart r) s = .next t ∧ t.dev.on R.RG_STATUS_ERR r = true ∧ t.dev.rd R.RG_STATUS_ERR_CAUSE r = 2 ∧ t.dev.rd R.RG_ERR_IDX r = s.dev.ringStep r (s.dev.rd R.RG_FETCH r) k % 2 ^ R.RG_ERR_IDX.width) ∧
  (∀ (r : Nat) (x : TxDone) (xs : List TxDone) (j : Job) (s : State), s.dev.rein.done = x :: xs → s.dev.jobRing x.job = some r ∧ (s.dev.ring r).jobs = [j] ∧ j.id = x.job → j.cap = none → ∃ t, exec (.txJobComplete) s = .next t ∧ t.dev.rein.done = xs ∧ (t.dev.ring r).jobs = [] ∧ t.dev.rd R.RG_CPL_COUNT r = (s.dev.rd R.RG_CPL_COUNT r + 1) % 2 ^ R.RG_CPL_COUNT.width ∧ t.dev.rd R.RG_CI r = s.dev.ringStep r (s.dev.rd R.RG_CI r) j.descs.length % 2 ^ R.RG_CI.width) ∧
  (∀ (s : State), s.dev.rein.done = [] → ∃ t, exec (.txJobComplete) s = .next t ∧ t = s) ∧
  (∀ (r c : Nat) (b : Bytes) (w : WaitState) (s : State), s.dev.txReady r = true → txWork (s.dev.ringKept r) = .wait b → w = { qp := bit (le32 b 0) 31, target := le32 b 0 % 2 ^ 23, thresh := le32 b 4, timeout := le32 b 8, start := s.dev.cyc } → s.dev.waitCount ((s.dev.ringOwner r).getD 0) w = some c ∧ waitMet c w.thresh = false → ∃ t, exec (.waitStart r) s = .next t ∧ t.dev.on R.RG_STATUS_WAITING r = true ∧ ∃ j, (t.dev.ring r).jobs = (s.dev.ring r).jobs ++ [j] ∧ j.wait = some w ∧ j.status = none ∧ t.dev.rd R.RG_FETCH r = s.dev.ringStep r (s.dev.rd R.RG_FETCH r) 1 % 2 ^ R.RG_FETCH.width) ∧
  (∀ (r : Nat) (b : Bytes) (w : WaitState) (s : State), s.dev.txReady r = true ∧ s.dev.on R.RG_STATUS_ERR r = false → txWork (s.dev.ringKept r) = .wait b → w = { qp := bit (le32 b 0) 31, target := le32 b 0 % 2 ^ 23, thresh := le32 b 4, timeout := le32 b 8, start := s.dev.cyc } → s.dev.waitCount ((s.dev.ringOwner r).getD 0) w = none → ∃ t, exec (.waitStart r) s = .next t ∧ t.dev.on R.RG_STATUS_ERR r = true ∧ t.dev.rd R.RG_STATUS_ERR_CAUSE r = 4) ∧
  (∀ (r fn : Nat) (x : RxItem) (xs : List RxItem) (b : Bytes) (s : State), SMap.getD s.dev.host.rx r [] = x :: xs ∧ x.bytes ≠ [] → s.dev.ringOwner r = some fn ∧ s.dev.inService fn = true ∧ s.dev.on R.RG_CTRL_ENABLE r = true ∧ s.dev.hostReset = false → takeBufs x.bytes.length (bufJobs 1 (s.dev.ringKept r) 0 []).1 = some [[(b, x.bytes.length)]] → descNotify b = false ∧ s.dev.on R.RG_CFG_NOTIFY_ALL r = false → ∃ t, exec (.rxDeliver r) s = .next t ∧ ∃ u v, t.dev.host.out = s.dev.host.out ++ [⟨fn, le64 b 0 % 2 ^ 64, x.bytes⟩, u, v] ∧ u.addr = s.dev.ringAddr r (s.dev.rd R.RG_FETCH r) % 2 ^ 64 ∧ u.bytes.take 12 = time96Bytes x.stamp ∧ SMap.getD t.dev.host.rx r [] = xs ∧ t.dev.rd R.RG_CPL_COUNT r = (s.dev.rd R.RG_CPL_COUNT r + 1) % 2 ^ R.RG_CPL_COUNT.width ∧ t.dev.rd R.RG_FETCH r = s.dev.ringStep r (s.dev.rd R.RG_FETCH r) 1 % 2 ^ R.RG_FETCH.width) ∧
  (∀ (r fn : Nat) (x : RxItem) (xs : List RxItem) (s : State), SMap.getD s.dev.host.rx r [] = x :: xs → s.dev.ringOwner r = some fn ∧ s.dev.inService fn = true ∧ s.dev.on R.RG_CTRL_ENABLE r = true → s.dev.ringUsable r = 0 ∧ x.bytes ≠ [] → ∃ t, exec (.rxDeliver r) s = .next t ∧ t.dev.rd R.RG_RX_NOBUF r = (s.dev.rd R.RG_RX_NOBUF r + 1) % 2 ^ R.RG_RX_NOBUF.width ∧ SMap.getD t.dev.host.rx r [] = xs ∧ OnlyRegs s { t with dev := { t.dev with host := s.dev.host } } [R.RG_RX_NOBUF.key r 0 0] ∧ t.dev.host.out = s.dev.host.out) ∧
  (∀ (r : Nat) (x : RxItem) (xs : List RxItem) (s : State), SMap.getD s.dev.host.rx r [] = x :: xs → s.dev.on R.RG_CTRL_ENABLE r = false → ∃ t, exec (.rxDeliver r) s = .next t ∧ t.dev.rd R.CL_RING_MISS = min (s.dev.rd R.CL_RING_MISS + 1) (2 ^ R.CL_RING_MISS.width - 1) ∧ SMap.getD t.dev.host.rx r [] = xs ∧ (x.status = 0 ∧ x.port < 16 → t.dev.rd R.PR_DROP_OTHER 0 x.port = (s.dev.rd R.PR_DROP_OTHER 0 x.port + 1) % 2 ^ 64)) ∧
  (∀ (n : Nat) (b : Bytes) (e : Dev) (s : State), s.dev.rd R.CS_CTRL_DEST n = 1 → (s.dev.stream n).segs[(s.dev.stream n).sent]? = some b → s.dev.drainTo (s.dev.rd R.CS_TARGET n) 1 b = some e ∧ e.host.segs ≠ s.dev.host.segs → ∃ t, exec (.drainDeliver (some n)) s = .next t ∧ (t.dev.stream n).sent = (s.dev.stream n).sent + 1 ∧ (t.dev.stream n).segs = (s.dev.stream n).segs ∧ t = { s with dev := { e with capt := t.dev.capt } }) ∧
  (∀ (s : State), s.dev.rd R.HD_DRAIN ≠ 1 → ∃ t, exec (.drainDeliver none) s = .next t ∧ t = s) ∧
  (∀ (req r : Nat) (s : State), s.dev.ringReach req r = true → s.dev.on R.RG_CTRL_ENABLE r = true ∧ s.dev.rd R.RG_CFG_TYPE r ≠ 0 ∧ s.dev.ringKept r = [] → ∃ t, exec (.ringDisable req r) s = .next t ∧ t.dev.on R.RG_CTRL_ENABLE r = false ∧ OnlyRegsTick s t [R.RG_CTRL_ENABLE.key r 0 0]) ∧
  (∀ (req r : Nat) (s : State), s.dev.ringReach req r = true → s.dev.on R.RG_CTRL_ENABLE r = true ∧ s.dev.rd R.RG_CFG_TYPE r = 0 → ∃ t, exec (.ringDisable req r) s = .next t ∧ t.dev.on R.RG_CTRL_ENABLE r = false ∧ t.dev.rein = s.dev.rein) ∧
  (∀ (r : Nat) (s : State), s.dev.ringDone r = true → ∃ t, exec (.ringIdle r) s = .next t ∧ t.dev.on R.RG_STATUS_IDLE r = true ∧ (t.dev.ring r).kept = [] ∧ RegsBut s.dev t.dev [R.RG_STATUS_IDLE.key r 0 0]) ∧
  (∀ (r : Nat) (s : State), s.dev.ringDone r = false → ∃ t, exec (.ringIdle r) s = .next t ∧ t = s)

/-- EQ_CI takes a value that does not pass EQ_PI; any other is ignored and sets CI_REFUSED. For a requester that reaches the queue: when the new value is an index of the queue and EQ_PI - C does not exceed EQ_PI - EQ_CI, both in the index with its lap bit, EQ_CI becomes C. Any other value leaves EQ_CI, sets CI_REFUSED and changes nothing else. (09_rings_and_work_queues.md R240.) -/
def Obligations.AnIndexWriteIsAcceptedOrRefused : Prop :=
  (∀ (req q v : Nat) (s : State), s.dev.eqReach req q = true → v % 2 ^ 17 < lapMod (s.dev.eqN q) → lapSub (s.dev.eqN q) (s.dev.rd R.EQ_PI q) (v % 2 ^ 17) ≤ lapSub (s.dev.eqN q) (s.dev.rd R.EQ_PI q) (s.dev.rd R.EQ_CI q) → ∃ t, exec (.eqCiWrite req q v) s = .next t ∧ t.dev.rd R.EQ_CI q = v % 2 ^ 17) ∧
  (∀ (req q v : Nat) (s : State), s.dev.eqReach req q = true → lapMod (s.dev.eqN q) ≤ v % 2 ^ 17 ∨ lapSub (s.dev.eqN q) (s.dev.rd R.EQ_PI q) (s.dev.rd R.EQ_CI q) < lapSub (s.dev.eqN q) (s.dev.rd R.EQ_PI q) (v % 2 ^ 17) → ∃ t, exec (.eqCiWrite req q v) s = .next t ∧ t.dev.on R.EQ_STATUS_CI_REFUSED q = true ∧ t.dev.rd R.EQ_CI q = s.dev.rd R.EQ_CI q ∧ OnlyRegsTick s t [R.EQ_STATUS_CI_REFUSED.key q 0 0])

/-- Event queues are enabled and disabled, write what overflowed once space returns, and moderate. An accepted enable starts EQ_PI, EQ_CI and EQ_OVF at 0; a refused one records its cause. A disable clears ENABLE, OVF_PENDING, the timer and NOTIFY_PENDING of the rings that wait. An EQ_CI write that leaves room while OVF_PENDING is set, with no ring waiting and no interrupt, writes one OVERFLOW notification of two posted writes, advances EQ_PI and clears OVF_PENDING. A moderation timer that saw no notification ends; one that saw some signals the vector and runs again for MOD. (09_rings_and_work_queues.md R237, R238, R239, R241, R242.) -/
def Obligations.EventQueuesRunAndCatchUp : Prop :=
  (∀ (req q : Nat) (s : State), s.dev.eqReach req q = true → s.dev.on R.EQ_CTRL_ENABLE q = false ∧ s.dev.eqCause q = 0 → ∃ t, exec (.eqEnable req q) s = .next t ∧ t.dev.on R.EQ_CTRL_ENABLE q = true ∧ t.dev.rd R.EQ_PI q = 0 ∧ t.dev.rd R.EQ_CI q = 0 ∧ t.dev.rd R.EQ_OVF q = 0 ∧ OnlyRegsTick s t [R.EQ_CTRL_ENABLE.key q 0 0, R.EQ_PI.key q 0 0, R.EQ_CI.key q 0 0, R.EQ_OVF.key q 0 0, R.EQ_STATUS_FULL.key q 0 0]) ∧
  (∀ (req q : Nat) (s : State), s.dev.eqReach req q = true → s.dev.on R.EQ_CTRL_ENABLE q = false ∧ s.dev.eqCause q ≠ 0 → ∃ t, exec (.eqEnable req q) s = .next t ∧ t.dev.on R.EQ_STATUS_WR_REFUSED q = true ∧ t.dev.rd R.EQ_STATUS_CAUSE q = s.dev.eqCause q ∧ OnlyRegsTick s t [R.EQ_STATUS_WR_REFUSED.key q 0 0, R.EQ_STATUS_CAUSE.key q 0 0]) ∧
  (∀ (req q : Nat) (s : State), s.dev.eqReach req q = true → ∃ t, exec (.eqDisable req q) s = .next t ∧ t.dev.on R.EQ_CTRL_ENABLE q = false ∧ t.dev.on R.EQ_STATUS_OVF_PENDING q = false ∧ SMap.get? t.dev.host.timers q = none ∧ (∀ r, s.dev.ringEq r = some q → t.dev.on R.RG_STATUS_NOTIFY_PENDING r = false) ∧ (RegsBut s.dev t.dev (R.EQ_CTRL_ENABLE.key q 0 0 :: R.EQ_STATUS_OVF_PENDING.key q 0 0 :: (s.dev.eqWaiters q).map (fun r => R.RG_STATUS_NOTIFY_PENDING.key r 0 0)))) ∧
  (∀ (req q c : Nat) (s : State), s.dev.eqReach req q = true ∧ s.dev.hostReset = false ∧ s.dev.on R.EQ_CTRL_ENABLE q = true ∧ s.dev.on R.EQ_CTRL_INT_EN q = false → c < lapMod (s.dev.eqN q) ∧ c < 2 ^ 17 ∧ lapSub (s.dev.eqN q) (s.dev.rd R.EQ_PI q) c ≤ lapSub (s.dev.eqN q) (s.dev.rd R.EQ_PI q) (s.dev.rd R.EQ_CI q) → lapSub (s.dev.eqN q) (s.dev.rd R.EQ_PI q) c ≠ 2 ^ s.dev.eqN q → s.dev.on R.EQ_STATUS_OVF_PENDING q = true ∧ s.dev.eqWaiters q = [] → (s.dev.eqOwner q).getD 0 ∉ s.dev.fnOut → ∃ t, exec (.eqCiWrite req q c) s = .next t ∧ t.dev.rd R.EQ_CI q = c ∧ t.dev.on R.EQ_STATUS_OVF_PENDING q = false ∧ t.dev.rd R.EQ_PI q = (s.dev.rd R.EQ_PI q + 1) % lapMod (s.dev.eqN q) % 2 ^ R.EQ_PI.width ∧ ∃ u v, t.dev.host.out = s.dev.host.out ++ [u, v] ∧ u.bytes.take 4 = leBytes 4 (s.dev.rd R.EQ_OVF q)) ∧
  (∀ (q : Nat) (x : EqTimer) (s : State), SMap.get? s.dev.host.timers q = some x → x.due < 8 * s.dev.tk.etick + 8 ∧ x.wrote = false → ∃ t, exec (.eqModTimer q) s = .next t ∧ t = { s with dev := { s.dev with host := { s.dev.host with timers := SMap.del s.dev.host.timers q } } }) ∧
  (∀ (q : Nat) (x : EqTimer) (s : State), SMap.get? s.dev.host.timers q = some x → x.due < 8 * s.dev.tk.etick + 8 ∧ x.wrote = true → ∃ t, exec (.eqModTimer q) s = .next t ∧ SMap.get? t.dev.host.timers q = some ⟨x.due + s.dev.rd R.EQ_CFG_MOD q * 100, false⟩ ∧ t.dev.host.out = (s.dev.msix ((s.dev.eqOwner q).getD 0) (s.dev.rd R.EQ_CFG_VECTOR q)).host.out ∧ t.dev.regs = s.dev.regs) ∧
  (∀ (q : Nat) (s : State), SMap.get? s.dev.host.timers q = none → ∃ t, exec (.eqModTimer q) s = .next t ∧ t = s)

/-- A doorbell has no effect, moves PI, or puts the ring in error with cause 1; a ring in error ignores it. For an enabled ring of a function in service, with D the low 17 bits: in error, or with D = PI, nothing changes. Otherwise, when D is an index of the ring and D - PI is at most 2^n - (PI - CI), PI becomes D and nothing else changes. In every other case the ring enters error with cause 1 and PI is unchanged. (09_rings_and_work_queues.md R221.) -/
def Obligations.DoorbellsMoveTheProducerIndex : Prop :=
  (∀ (fn loc v r : Nat) (s : State), s.dev.inService fn = true ∧ loc < s.dev.rd R.FN_RING_COUNT fn → r = s.dev.rd R.FN_RING_BASE fn + loc → s.dev.on R.RG_CTRL_ENABLE r = true → s.dev.on R.RG_STATUS_ERR r = true ∨ v % 2 ^ 17 = s.dev.rd R.RG_PI r → ∃ t, exec (.ringDoorbell fn loc v) s = .next t ∧ t = s) ∧
  (∀ (fn loc v r : Nat) (s : State), s.dev.inService fn = true ∧ loc < s.dev.rd R.FN_RING_COUNT fn → r = s.dev.rd R.FN_RING_BASE fn + loc → s.dev.on R.RG_CTRL_ENABLE r = true → s.dev.on R.RG_STATUS_ERR r = false → v % 2 ^ 17 < lapMod (s.dev.ringN r) ∧ lapSub (s.dev.ringN r) (v % 2 ^ 17) (s.dev.rd R.RG_PI r) ≤ 2 ^ s.dev.ringN r - lapSub (s.dev.ringN r) (s.dev.rd R.RG_PI r) (s.dev.rd R.RG_CI r) → ∃ t, exec (.ringDoorbell fn loc v) s = .next t ∧ t.dev.rd R.RG_PI r = v % 2 ^ 17 ∧ OnlyRegs s t [R.RG_PI.key r 0 0]) ∧
  (∀ (fn loc v r : Nat) (s : State), s.dev.inService fn = true ∧ loc < s.dev.rd R.FN_RING_COUNT fn → r = s.dev.rd R.FN_RING_BASE fn + loc → s.dev.on R.RG_CTRL_ENABLE r = true → s.dev.on R.RG_STATUS_ERR r = false ∧ v % 2 ^ 17 ≠ s.dev.rd R.RG_PI r → lapMod (s.dev.ringN r) ≤ v % 2 ^ 17 ∨ 2 ^ s.dev.ringN r - lapSub (s.dev.ringN r) (s.dev.rd R.RG_PI r) (s.dev.rd R.RG_CI r) < lapSub (s.dev.ringN r) (v % 2 ^ 17) (s.dev.rd R.RG_PI r) → ∃ t, exec (.ringDoorbell fn loc v) s = .next t ∧ t.dev.on R.RG_STATUS_ERR r = true ∧ t.dev.rd R.RG_STATUS_ERR_CAUSE r = 1 ∧ t.dev.rd R.RG_PI r = s.dev.rd R.RG_PI r)

/-- Memory regions and queue pairs are registered, enabled, disabled, pinned, rung and fetched by their rules. REGISTER of a fit range, the quota not used up and an index free, makes a new region at a free index, whose key it returns (result 1), every other region standing; a range of length 0 is result 5. DEREGISTER removes the region of a key (1), or finds none (3); QUERY shows it. An accepted enable starts the indices at 0, the PSNs and grants at their initial values, in state READY; a refused one records its cause. A disable clears ENABLE, and with nothing posted reaches RESET and IDLE. FORCE_ERR takes a READY queue pair to ERROR with cause 5. A valid doorbell moves the index of the staged queue. A fetched entry is kept, a fetched context is on die. A path's degradation ends when due. A satisfied or timed-out WAIT completes. (10_remote_memory_access.md R248, R249, R250, R251, R252, R254, R260; 09_rings_and_work_queues.md R223, R232.) -/
def Obligations.RegionsAndQueuePairsAreSetUp : Prop :=
  (∀ (req k : Nat) (v : Bool) (s : State), s.dev.mrReach req v = true → 0 < s.dev.rd R.MR_LEN 0 0 req ∧ s.dev.rd R.MR_LEN 0 0 req ≤ 2 ^ 40 ∧ s.dev.rd R.MR_ADDR 0 0 req + s.dev.rd R.MR_LEN 0 0 req ≤ 2 ^ 64 → (s.dev.ira.mr.filter (fun e => e.2.fn == s.dev.mrFn req v)).length < s.dev.mrQuota (s.dev.mrFn req v) → k < 262144 ∧ SMap.has s.dev.ira.mr k = false → ∃ t, exec (.register req v) s = .next t ∧ t.dev.rd R.MR_STATUS_RESULT 0 0 req = 1 ∧ (∃ i m, i < 262144 ∧ SMap.has s.dev.ira.mr i = false ∧ SMap.get? t.dev.ira.mr i = some m ∧ t.dev.mrOf (t.dev.rd R.MR_KEY 0 0 req) = some m ∧ m.fn = s.dev.mrFn req v ∧ m.addr = s.dev.rd R.MR_ADDR 0 0 req ∧ m.len = s.dev.rd R.MR_LEN 0 0 req ∧ m.pd = s.dev.rd R.MR_ATTR_PD 0 0 req ∧ ∀ j, j ≠ i → SMap.get? t.dev.ira.mr j = SMap.get? s.dev.ira.mr j) ∧ RegsBut s.dev t.dev [R.MR_KEY.key 0 0 req, R.MR_STATUS_RESULT.key 0 0 req]) ∧
  (∀ (req : Nat) (v : Bool) (s : State), s.dev.mrReach req v = true → s.dev.rd R.MR_LEN 0 0 req = 0 → ∃ t, exec (.register req v) s = .next t ∧ t.dev.rd R.MR_STATUS_RESULT 0 0 req = 5 ∧ OnlyRegsTick s t [R.MR_STATUS_RESULT.key 0 0 req]) ∧
  (∀ (req : Nat) (v : Bool) (m : MemRegion) (s : State), s.dev.mrReach req v = true → s.dev.mrMine req v = some m → ∃ t, exec (.deregister req v) s = .next t ∧ t.dev.rd R.MR_STATUS_RESULT 0 0 req = 1 ∧ SMap.get? t.dev.ira.mr (s.dev.rd R.MR_KEY 0 0 req % 2 ^ 18) = none ∧ (∀ j, j ≠ s.dev.rd R.MR_KEY 0 0 req % 2 ^ 18 → SMap.get? t.dev.ira.mr j = SMap.get? s.dev.ira.mr j)) ∧
  (∀ (req : Nat) (v : Bool) (s : State), s.dev.mrReach req v = true → s.dev.mrMine req v = none → ∃ t, exec (.deregister req v) s = .next t ∧ t.dev.rd R.MR_STATUS_RESULT 0 0 req = 3 ∧ OnlyRegsTick s t [R.MR_STATUS_RESULT.key 0 0 req]) ∧
  (∀ (req : Nat) (v : Bool) (m : MemRegion) (s : State), s.dev.mrReach req v = true → s.dev.mrMine req v = some m → ∃ t, exec (.query req v) s = .next t ∧ t.dev.rd R.MR_STATUS_RESULT 0 0 req = 1 ∧ t.dev.rd R.MR_ADDR 0 0 req = m.addr % 2 ^ 64 ∧ t.dev.rd R.MR_LEN 0 0 req = m.len % 2 ^ 64 ∧ t.dev.rd R.MR_ATTR_PD 0 0 req = m.pd % 2 ^ 16 ∧ t.dev.ira = s.dev.ira) ∧
  (∀ (req q fn : Nat) (s : State), s.dev.qpReach req q = true → s.dev.qpOwner q = some fn ∧ s.dev.qpState q = 0 → s.dev.qpCause q fn = 0 → ∃ t, exec (.iqEnable req q) s = .next t ∧ t.dev.qpReady q = true ∧ t.dev.qp q = {} ∧ t.dev.rd R.SQ_PI q = 0 ∧ t.dev.rd R.SQ_FETCH q = 0 ∧ t.dev.rd R.SQ_CI q = 0 ∧ t.dev.rd R.RQ_PI q = 0 ∧ t.dev.rd R.RQ_FETCH q = 0 ∧ t.dev.rd R.RQ_CI q = 0 ∧ t.dev.rd R.IQ_TX_PSN q = s.dev.rd R.IQ_INIT_PSN q % s.dev.psnMod q % 2 ^ R.IQ_TX_PSN.width ∧ t.dev.rd R.IQ_GRANT_TX q = s.dev.rd R.IQ_GRANT_INIT q % 2 ^ R.IQ_GRANT_TX.width) ∧
  (∀ (req q fn : Nat) (s : State), s.dev.qpReach req q = true → s.dev.qpOwner q = some fn ∧ s.dev.qpState q = 0 → s.dev.qpCause q fn ≠ 0 → ∃ t, exec (.iqEnable req q) s = .next t ∧ t.dev.on R.IQ_STATUS_WR_REFUSED q = true ∧ t.dev.rd R.IQ_STATUS_CAUSE q = s.dev.qpCause q fn ∧ OnlyRegsTick s t [R.IQ_STATUS_WR_REFUSED.key q 0 0, R.IQ_STATUS_CAUSE.key q 0 0]) ∧
  (∀ (req q : Nat) (s : State), s.dev.qpReach req q = true → s.dev.qpState q ≠ 0 → (s.dev.qp q).jobs = [] ∧ s.dev.wqPosted wqSq q = 0 ∧ s.dev.wqPosted wqRq q = 0 → ∃ t, exec (.iqDisable req q) s = .next t ∧ t.dev.on R.IQ_CTRL_ENABLE q = false ∧ t.dev.qpState q = 0 ∧ t.dev.on R.IQ_STATUS_IDLE q = true ∧ t.dev.qp q = {}) ∧
  (∀ (req q : Nat) (s : State), s.dev.qpReach req q = true → s.dev.qpReady q = true → ∃ t, exec (.forceErr req q) s = .next t ∧ t.dev.qpState q = 2 ∧ t.dev.rd R.IQ_STATUS_ERR_CAUSE q = 5 ∧ ⟨11, srcNum 0x19 1, q⟩ ∈ t.dev.tk.sampled ∧ t.dev.ira.mr = s.dev.ira.mr) ∧
  (∀ (req q : Nat) (s : State), s.dev.qpReach req q = true → s.dev.on R.IQ_CTRL_PIN q = false ∧ (s.dev.regs.chans R.IQ_CTRL_PIN).length < 8192 → ∃ t, exec (.pin req q) s = .next t ∧ t.dev.on R.IQ_CTRL_PIN q = true ∧ OnlyRegsTick s t [R.IQ_CTRL_PIN.key q 0 0]) ∧
  (∀ (req q : Nat) (s : State), s.dev.qpReach req q = true → s.dev.on R.IQ_CTRL_PIN q = true → ∃ t, exec (.pin req q) s = .next t ∧ OnlyRegsTick s t []) ∧
  (∀ (req hi q : Nat) (rq : Bool) (s : State), s.dev.iraOn = true ∧ devSpace req = true → q = s.dev.rd R.IQ_DB_LO_QP 0 0 req ∧ rq = s.dev.on R.IQ_DB_LO_QUEUE 0 0 req → s.dev.qpReady q = true → hi % 2 ^ 17 < lapMod (s.dev.wqN (wqOf rq) q) ∧ lapSub (s.dev.wqN (wqOf rq) q) (hi % 2 ^ 17) (s.dev.rd (wqOf rq).pi q) ≤ 2 ^ s.dev.wqN (wqOf rq) q - lapSub (s.dev.wqN (wqOf rq) q) (s.dev.rd (wqOf rq).pi q) (s.dev.rd (wqOf rq).ci q) → ∃ t, exec (.iqDb req false none hi) s = .next t ∧ t.dev.rd (wqOf rq).pi q = hi % 2 ^ 17 ∧ t.dev.qpReady q = true ∧ RegsBut s.dev t.dev [(wqOf rq).pi.key q 0 0, R.IR_CTX_MISS.key 0 0 0]) ∧
  (∀ (req hi q : Nat) (s : State), s.dev.iraOn = true ∧ devSpace req = true → q = s.dev.rd R.IQ_DB_LO_QP 0 0 req → s.dev.qpState q = 0 → ∃ t, exec (.iqDb req false none hi) s = .next t ∧ t.dev.rd R.FN_DB_IGNORED (s.dev.qpFn q) = min (s.dev.rd R.FN_DB_IGNORED (s.dev.qpFn q) + 1) (2 ^ R.FN_DB_IGNORED.width - 1) ∧ OnlyRegs s t [R.FN_DB_IGNORED.key (s.dev.qpFn q) 0 0]) ∧
  (∀ (q i : Nat) (b : Bytes) (x : QpState) (s : State), s.dev.iraOn = true ∧ s.dev.wqMayFetch false q i = true ∧ s.dev.qpReady q = true → s.dev.qp q = x ∧ x.held = [] ∧ x.jobs = [] ∧ x.ctl = [] ∧ x.again = [] ∧ x.ready = [] → ∃ t, exec (.descriptorFetch 1 q i true b) s = .next t ∧ t.dev.wqKept false q i = some (padTo 64 b) ∧ (∀ j, j ≠ i → t.dev.wqKept false q j = s.dev.wqKept false q j) ∧ t.dev.regs = s.dev.regs ∧ t.dev.host = s.dev.host) ∧
  (∀ (r i fn : Nat) (b : Bytes) (s : State), s.dev.ringOwner r = some fn ∧ s.dev.inService fn = true ∧ s.dev.mayFetch r i = true ∧ s.dev.on R.RG_CTRL_ENABLE r = true → ∃ t, exec (.descriptorFetch 0 r i true b) s = .next t ∧ SMap.get? (t.dev.ring r).kept i = some (padTo 64 b) ∧ t.dev.regs = s.dev.regs ∧ (t.dev.ring r).jobs = (s.dev.ring r).jobs) ∧
  (∀ (q : Nat) (x : QpState) (s : State), s.dev.ira.fetching.contains q = true ∧ s.dev.ira.fetchWait = [] → s.dev.ira.cached.length < 65536 ∧ (∀ y, y ∈ s.dev.ira.cmb → y.1 ≠ q) → s.dev.qp q = x ∧ x.held = [] ∧ x.jobs = [] ∧ x.ctl = [] ∧ x.again = [] ∧ x.ready = [] → ∃ t, exec (.contextFetchDone q) s = .next t ∧ t.dev.ctxIn q = true ∧ t.dev.on R.IQ_STATUS_CACHED q = true ∧ t.dev.ira.fetching = s.dev.ira.fetching.filter (· != q) ∧ t.dev.ira.qps = s.dev.ira.qps) ∧
  (∀ (q : Nat) (s : State), s.dev.ira.fetching.contains q = false → ∃ t, exec (.contextFetchDone q) s = .next t ∧ t = s) ∧
  (∀ (q p c : Nat) (s : State), SMap.get? (s.dev.qp q).degraded p = some c ∧ c < s.dev.cyc + 8 → p < 16 → ∃ t, exec (.pathDegradeEnd q p) s = .next t ∧ bit (t.dev.rd R.IQ_DEGRADED q) p = false ∧ SMap.get? (t.dev.qp q).degraded p = none ∧ RegsBut s.dev t.dev [R.IQ_DEGRADED.key q 0 0]) ∧
  (∀ (r c : Nat) (j : Job) (w : WaitState) (s : State), (s.dev.ring r).jobs = [j] ∧ j.wait = some w ∧ j.status = none → s.dev.waitCount ((s.dev.ringOwner r).getD 0) w = some c ∧ waitMet c w.thresh = true → ∃ t, exec (.waitSatisfied r false) s = .next t ∧ (t.dev.ring r).jobs = [] ∧ t.dev.on R.RG_STATUS_WAITING r = false ∧ t.dev.rd R.RG_CPL_COUNT r = (s.dev.rd R.RG_CPL_COUNT r + 1) % 2 ^ R.RG_CPL_COUNT.width) ∧
  (∀ (q c : Nat) (j : IraJob) (w : WaitState) (s : State), (s.dev.qp q).jobs = [j] ∧ j.wait = some w ∧ j.status = none → s.dev.sqWaitCount q w j.inbound = some c ∧ waitMet c w.thresh = true → ∃ t, exec (.waitSatisfied q true) s = .next t ∧ (t.dev.qp q).jobs = [] ∧ t.dev.rd R.IQ_CPL_COUNT q = (s.dev.rd R.IQ_CPL_COUNT q + 1) % 2 ^ R.IQ_CPL_COUNT.width) ∧
  (∀ (r : Nat) (j : Job) (w : WaitState) (s : State), (s.dev.ring r).jobs = [j] ∧ j.wait = some w ∧ j.status = none → w.timeout ≠ 0 ∧ w.start + w.timeout * 1000 < s.dev.cyc + 8 → ∃ t, exec (.waitTimeout r false) s = .next t ∧ (t.dev.ring r).jobs = [] ∧ t.dev.rd R.RG_ERR_CPL r = (s.dev.rd R.RG_ERR_CPL r + 1) % 2 ^ R.RG_ERR_CPL.width ∧ t.dev.rd R.RG_CPL_COUNT r = (s.dev.rd R.RG_CPL_COUNT r + 1) % 2 ^ R.RG_CPL_COUNT.width) ∧
  (∀ (r : Nat) (sq : Bool) (s : State), s.dev.waiting? r = none ∧ s.dev.sqWaiting r = none → ∃ t, exec (.waitTimeout r sq) s = .next t ∧ t = s)

/-- Jobs at FETCH start by their operation; timers of sender and receiver retransmit, report and acknowledge. With the context on die and the entry at FETCH well formed, of the command's operation and within the limits: a WRITE, WRITE_IMM or SEND of data issues the read of its payload, and FETCH passes it; a READ or atomic whose local range its key allows takes the next MSN; a READ whose range it does not allow takes the queue pair to ERROR with cause 4. A WAIT whose target is not met holds the queue. A PSN whose timer expires is sent again with RETX and its timer doubled, or, its tries used up, takes the queue pair to ERROR with cause 2; one whose RNR delay ends is sent again. A gap old enough is reported by a NAK, a due acknowledgement is sent, a raised grant leaves in a CREDIT packet. A queue pair that is not READY does nothing. (10_remote_memory_access.md R249, R254, R255, R256, R257, R260, R265, R266, R267.) -/
def Obligations.SendQueueJobsAndTimersRun : Prop :=
  (∀ (q : Nat) (b : Bytes) (s : State), s.dev.sqHead q = some b ∧ sqBad (s.dev.qpRoce q) b = false → descOp b = 16 ∧ s.dev.sqLimits q 16 = true ∧ sqLen b ≠ 0 → ∃ t, exec (.sqWrite q) s = .next t ∧ t.dev.host = { s.dev.host with reads := s.dev.host.reads ++ [⟨s.dev.host.nextRead, s.dev.qpFn q, .iraJob q (s.dev.rd R.SQ_FETCH q), sqLaddr b, sqLen b, s.dev.tk.etick⟩], nextRead := s.dev.host.nextRead + 1 } ∧ ∃ j, (t.dev.qp q).jobs = (s.dev.qp q).jobs ++ [j] ∧ j.idx = s.dev.rd R.SQ_FETCH q ∧ j.desc = b ∧ j.data = none ∧ j.status = none ∧ t.dev.rd R.SQ_FETCH q = s.dev.wqStep wqSq q (s.dev.rd R.SQ_FETCH q) 1 % 2 ^ 17 ∧ RegsBut s.dev t.dev [R.SQ_FETCH.key q 0 0]) ∧
  (∀ (q : Nat) (b : Bytes) (s : State), s.dev.sqHead q = some b ∧ sqBad (s.dev.qpRoce q) b = false → descOp b = 17 ∧ s.dev.sqLimits q 17 = true ∧ sqLen b ≠ 0 → ∃ t, exec (.sqWriteImm q) s = .next t ∧ t.dev.host = { s.dev.host with reads := s.dev.host.reads ++ [⟨s.dev.host.nextRead, s.dev.qpFn q, .iraJob q (s.dev.rd R.SQ_FETCH q), sqLaddr b, sqLen b, s.dev.tk.etick⟩], nextRead := s.dev.host.nextRead + 1 } ∧ ∃ j, (t.dev.qp q).jobs = (s.dev.qp q).jobs ++ [j] ∧ j.idx = s.dev.rd R.SQ_FETCH q ∧ j.desc = b ∧ j.data = none ∧ j.status = none ∧ t.dev.rd R.SQ_FETCH q = s.dev.wqStep wqSq q (s.dev.rd R.SQ_FETCH q) 1 % 2 ^ 17 ∧ RegsBut s.dev t.dev [R.SQ_FETCH.key q 0 0]) ∧
  (∀ (q : Nat) (b : Bytes) (s : State), s.dev.sqHead q = some b ∧ sqBad (s.dev.qpRoce q) b = false → descOp b = 19 ∧ s.dev.sqLimits q 19 = true ∧ sqLen b ≠ 0 → ∃ t, exec (.sqSend q) s = .next t ∧ t.dev.host = { s.dev.host with reads := s.dev.host.reads ++ [⟨s.dev.host.nextRead, s.dev.qpFn q, .iraJob q (s.dev.rd R.SQ_FETCH q), sqLaddr b, sqLen b, s.dev.tk.etick⟩], nextRead := s.dev.host.nextRead + 1 } ∧ ∃ j, (t.dev.qp q).jobs = (s.dev.qp q).jobs ++ [j] ∧ j.idx = s.dev.rd R.SQ_FETCH q ∧ j.desc = b ∧ j.data = none ∧ j.status = none ∧ t.dev.rd R.SQ_FETCH q = s.dev.wqStep wqSq q (s.dev.rd R.SQ_FETCH q) 1 % 2 ^ 17 ∧ RegsBut s.dev t.dev [R.SQ_FETCH.key q 0 0]) ∧
  (∀ (q : Nat) (b : Bytes) (s : State), s.dev.sqHead q = some b ∧ sqBad (s.dev.qpRoce q) b = false → descOp b = 18 ∧ s.dev.sqLimits q 18 = true → s.dev.mrAllows q (sqLkey b) mrLocalWrite (sqLaddr b) (sqLen b) = true → (s.dev.qp q).jobs = [] → ∃ t, exec (.sqRead q) s = .next t ∧ ∃ j, (t.dev.qp q).jobs = [j] ∧ j.idx = s.dev.rd R.SQ_FETCH q ∧ j.desc = b ∧ j.msn = some (s.dev.qp q).nextMsn ∧ j.status = none ∧ (t.dev.qp q).nextMsn = ((s.dev.qp q).nextMsn + 1) % 2 ^ 32 ∧ t.dev.rd R.SQ_FETCH q = s.dev.wqStep wqSq q (s.dev.rd R.SQ_FETCH q) 1 % 2 ^ 17) ∧
  (∀ (q : Nat) (b : Bytes) (s : State), s.dev.sqHead q = some b ∧ sqBad (s.dev.qpRoce q) b = false → descOp b = 20 ∧ s.dev.sqLimits q 20 = true → s.dev.mrAllows q (sqLkey b) mrLocalWrite (sqLaddr b) (sqLen b) = true → (s.dev.qp q).jobs = [] → ∃ t, exec (.sqFetchAdd q) s = .next t ∧ ∃ j, (t.dev.qp q).jobs = [j] ∧ j.idx = s.dev.rd R.SQ_FETCH q ∧ j.desc = b ∧ j.msn = some (s.dev.qp q).nextMsn ∧ j.status = none ∧ (t.dev.qp q).nextMsn = ((s.dev.qp q).nextMsn + 1) % 2 ^ 32 ∧ t.dev.rd R.SQ_FETCH q = s.dev.wqStep wqSq q (s.dev.rd R.SQ_FETCH q) 1 % 2 ^ 17) ∧
  (∀ (q : Nat) (b : Bytes) (s : State), s.dev.sqHead q = some b ∧ sqBad (s.dev.qpRoce q) b = false → descOp b = 21 ∧ s.dev.sqLimits q 21 = true → s.dev.mrAllows q (sqLkey b) mrLocalWrite (sqLaddr b) (sqLen b) = true → (s.dev.qp q).jobs = [] → ∃ t, exec (.sqCmpSwap q) s = .next t ∧ ∃ j, (t.dev.qp q).jobs = [j] ∧ j.idx = s.dev.rd R.SQ_FETCH q ∧ j.desc = b ∧ j.msn = some (s.dev.qp q).nextMsn ∧ j.status = none ∧ (t.dev.qp q).nextMsn = ((s.dev.qp q).nextMsn + 1) % 2 ^ 32 ∧ t.dev.rd R.SQ_FETCH q = s.dev.wqStep wqSq q (s.dev.rd R.SQ_FETCH q) 1 % 2 ^ 17) ∧
  (∀ (q : Nat) (b : Bytes) (s : State), s.dev.sqHead q = some b ∧ sqBad (s.dev.qpRoce q) b = false → descOp b = 0x12 ∧ s.dev.sqLimits q 0x12 = true → s.dev.mrAllows q (sqLkey b) mrLocalWrite (sqLaddr b) (sqLen b) = false → ∃ t, exec (.sqRead q) s = .next t ∧ t.dev.qpState q = 2 ∧ t.dev.rd R.IQ_STATUS_ERR_CAUSE q = 4) ∧
  (∀ (q c : Nat) (b : Bytes) (w : WaitState) (s : State), s.dev.sqHead q = some b ∧ sqBad (s.dev.qpRoce q) b = false → descOp b = 3 ∧ w = { qp := bit (le32 b 0) 31, target := le32 b 0 % 2 ^ 23, thresh := le32 b 4, timeout := le32 b 8, start := s.dev.cyc } → s.dev.sqWaitCount q w (bit (le32 b 0) 30) = some c ∧ waitMet c w.thresh = false → ∃ t, exec (.sqWait q) s = .next t ∧ ∃ j, (t.dev.qp q).jobs = (s.dev.qp q).jobs ++ [j] ∧ j.wait = some w ∧ j.status = none ∧ t.dev.rd R.SQ_FETCH q = s.dev.wqStep wqSq q (s.dev.rd R.SQ_FETCH q) 1 % 2 ^ 17 ∧ RegsBut s.dev t.dev [R.SQ_FETCH.key q 0 0]) ∧
  (∀ (q p : Nat) (x : IraTx) (s : State), s.dev.qpReady q = true ∧ s.dev.ctxIn q = true → (s.dev.qp q).unacked.find? (fun y => y.pkt.psn == p) = some x → x.due = none ∧ p ∉ (s.dev.qp q).again ∧ x.at' + x.rto < s.dev.cyc + 8 → s.dev.rd R.IQ_TIMERS_RETRY q ≤ x.tries → ∃ t, exec (.iraRtoExpire q p) s = .next t ∧ t.dev.qpState q = 2 ∧ t.dev.rd R.IQ_STATUS_ERR_CAUSE q = 2) ∧
  (∀ (q p : Nat) (x : IraTx) (s : State), s.dev.qpReady q = true ∧ s.dev.ctxIn q = true → (s.dev.qp q).unacked.find? (fun y => y.pkt.psn == p) = some x → x.due = none ∧ p ∉ (s.dev.qp q).again ∧ x.at' + x.rto < s.dev.cyc + 8 → x.tries < s.dev.rd R.IQ_TIMERS_RETRY q ∧ s.dev.qpRoce q = false → ∃ t, exec (.iraRtoExpire q p) s = .next t ∧ ∃ y, y ∈ (t.dev.qp q).unacked ∧ y.pkt.psn = p ∧ y.tries = x.tries + 1 ∧ y.rto = 2 * x.rto ∧ bit y.pkt.flags 1 = true ∧ t.dev.qpReady q = true) ∧
  (∀ (q p c : Nat) (x : IraTx) (s : State), s.dev.qpReady q = true ∧ s.dev.ctxIn q = true → (s.dev.qp q).unacked.find? (fun y => y.pkt.psn == p) = some x → x.due = some c ∧ c < s.dev.cyc + 8 ∧ s.dev.qpRoce q = false → ∃ t, exec (.iraRnrDelay q p) s = .next t ∧ ∃ y, y ∈ (t.dev.qp q).unacked ∧ y.pkt.psn = p ∧ y.tries = x.tries + 1 ∧ y.due = none ∧ t.dev.qpReady q = true) ∧
  (∀ (q p : Nat) (s : State), s.dev.qpReady q = false → ∃ t, exec (.iraRtoExpire q p) s = .next t ∧ t = s) ∧
  (∀ (q g c : Nat) (s : State), s.dev.qpReady q = true ∧ s.dev.ctxIn q = true ∧ s.dev.qpRoce q = false → (s.dev.qp q).gaps.find? (fun g => decide (g.2 + s.dev.rd R.IR_NAK_DELAY < s.dev.cyc + 8)) = some (g, c) → ∃ t, exec (.iraNakDelay q) s = .next t ∧ t.dev.rd R.IQ_NAK_TX q = (s.dev.rd R.IQ_NAK_TX q + 1) % 2 ^ R.IQ_NAK_TX.width ∧ (∀ y, y ∈ (t.dev.qp q).gaps → y.1 = g → y.2 = s.dev.cyc)) ∧
  (∀ (q c : Nat) (s : State), s.dev.qpReady q = true ∧ s.dev.ctxIn q = true → (s.dev.qp q).ackFrom = some c ∧ c + s.dev.rd R.IR_ACK_DELAY * 10 < s.dev.cyc + 8 → ∃ t, exec (.iraAckDelay q) s = .next t ∧ (t.dev.qp q).ackFrom = none ∧ (t.dev.qp q).acks = 0) ∧
  (∀ (q c : Nat) (s : State), s.dev.qpReady q = true ∧ s.dev.ctxIn q = true → (s.dev.qp q).creditFrom = some c ∧ c + 1000 < s.dev.cyc + 8 → (s.dev.qp q).ctl = [] ∧ (s.dev.qp q).again = [] ∧ (s.dev.qp q).ready = [] → s.dev.iraRoom q (s.dev.qpDest q) 0 32 = true → ∃ t, exec (.iraCreditTimer q) s = .next t ∧ t.dev.rd R.IQ_TX_PKTS q = (s.dev.rd R.IQ_TX_PKTS q + 1) % 2 ^ R.IQ_TX_PKTS.width ∧ (t.dev.qp q).creditFrom = none ∧ (t.dev.qp q).ctl = []) ∧
  (∀ (q : Nat) (s : State), s.dev.qpReady q = false → ∃ t, exec (.iraCreditTimer q) s = .next t ∧ t = s)

/-- A well-formed packet at the head acts on its queue pair by its opcode; another row leaves it. A well-formed IRA packet at the head of the input, for a READY queue pair with its context on die and the right source, is taken and counted, raises the credit by its grant, and acts by its opcode: an ACK retires the PSNs that it covers, a NAK is judged by its code, a CREDIT does no more, the rest are data; then the queue pair places and sends what it may. For one whole WRITE in PSN order with credit, into a range that its key allows: its bytes are written to host memory at the address, A and the expected MSN advance by one and IQ_RX_COUNT counts. A packet of another row stays at the head, and none is taken while RDMA is in reset. (10_remote_memory_access.md R246, R251, R253, R255, R257, R259, R261, R263, R265, R269.) -/
def Obligations.PacketsActOnTheirQueuePair : Prop :=
  (∀ (x : IraIn) (xs : List IraIn) (r : IraSrc) (q : Nat) (p : IraPkt) (e : Dev) (s : State), s.dev.iraOn = true ∧ s.dev.ira.inbox = x :: xs ∧ r = s.dev.iraParse x ∧ q = r.dqp → r.row = 1 ∧ r.roce = false ∧ r.good = true ∧ iraWell r.pay = some p ∧ 32 ≤ r.pay.length → s.dev.qpReady q = true ∧ s.dev.ctxIn q = true ∧ (∀ y, y ∈ s.dev.ira.cmb → y.1 ≠ q) ∧ s.dev.iraSourceOk q r = true → e = ((({ s.dev with ira := { s.dev.ira with inbox := xs } }).ctxTouch q).count R.IQ_RX_PKTS 1 q).iraGrantIn q p.grant → ∃ t, exec (.iraWrite) s = .next t ∧ t = { s with dev := (e.iraDataIn q p).iraSettle q }) ∧
  (∀ (x : IraIn) (xs : List IraIn) (r : IraSrc) (q : Nat) (p : IraPkt) (e : Dev) (s : State), s.dev.iraOn = true ∧ s.dev.ira.inbox = x :: xs ∧ r = s.dev.iraParse x ∧ q = r.dqp → r.row = 2 ∧ r.roce = false ∧ r.good = true ∧ iraWell r.pay = some p ∧ 32 ≤ r.pay.length → s.dev.qpReady q = true ∧ s.dev.ctxIn q = true ∧ (∀ y, y ∈ s.dev.ira.cmb → y.1 ≠ q) ∧ s.dev.iraSourceOk q r = true → e = ((({ s.dev with ira := { s.dev.ira with inbox := xs } }).ctxTouch q).count R.IQ_RX_PKTS 1 q).iraGrantIn q p.grant → ∃ t, exec (.iraWriteImm) s = .next t ∧ t = { s with dev := (e.iraDataIn q p).iraSettle q }) ∧
  (∀ (x : IraIn) (xs : List IraIn) (r : IraSrc) (q : Nat) (p : IraPkt) (e : Dev) (s : State), s.dev.iraOn = true ∧ s.dev.ira.inbox = x :: xs ∧ r = s.dev.iraParse x ∧ q = r.dqp → r.row = 3 ∧ r.roce = false ∧ r.good = true ∧ iraWell r.pay = some p ∧ 32 ≤ r.pay.length → s.dev.qpReady q = true ∧ s.dev.ctxIn q = true ∧ (∀ y, y ∈ s.dev.ira.cmb → y.1 ≠ q) ∧ s.dev.iraSourceOk q r = true → e = ((({ s.dev with ira := { s.dev.ira with inbox := xs } }).ctxTouch q).count R.IQ_RX_PKTS 1 q).iraGrantIn q p.grant → ∃ t, exec (.iraSend) s = .next t ∧ t = { s with dev := (e.iraDataIn q p).iraSettle q }) ∧
  (∀ (x : IraIn) (xs : List IraIn) (r : IraSrc) (q : Nat) (p : IraPkt) (e : Dev) (s : State), s.dev.iraOn = true ∧ s.dev.ira.inbox = x :: xs ∧ r = s.dev.iraParse x ∧ q = r.dqp → r.row = 4 ∧ r.roce = false ∧ r.good = true ∧ iraWell r.pay = some p ∧ 32 ≤ r.pay.length → s.dev.qpReady q = true ∧ s.dev.ctxIn q = true ∧ (∀ y, y ∈ s.dev.ira.cmb → y.1 ≠ q) ∧ s.dev.iraSourceOk q r = true → e = ((({ s.dev with ira := { s.dev.ira with inbox := xs } }).ctxTouch q).count R.IQ_RX_PKTS 1 q).iraGrantIn q p.grant → ∃ t, exec (.readReq) s = .next t ∧ t = { s with dev := (e.iraDataIn q p).iraSettle q }) ∧
  (∀ (x : IraIn) (xs : List IraIn) (r : IraSrc) (q : Nat) (p : IraPkt) (e : Dev) (s : State), s.dev.iraOn = true ∧ s.dev.ira.inbox = x :: xs ∧ r = s.dev.iraParse x ∧ q = r.dqp → r.row = 5 ∧ r.roce = false ∧ r.good = true ∧ iraWell r.pay = some p ∧ 32 ≤ r.pay.length → s.dev.qpReady q = true ∧ s.dev.ctxIn q = true ∧ (∀ y, y ∈ s.dev.ira.cmb → y.1 ≠ q) ∧ s.dev.iraSourceOk q r = true → e = ((({ s.dev with ira := { s.dev.ira with inbox := xs } }).ctxTouch q).count R.IQ_RX_PKTS 1 q).iraGrantIn q p.grant → ∃ t, exec (.readResp) s = .next t ∧ t = { s with dev := (e.iraDataIn q p).iraSettle q }) ∧
  (∀ (x : IraIn) (xs : List IraIn) (r : IraSrc) (q : Nat) (p : IraPkt) (e : Dev) (s : State), s.dev.iraOn = true ∧ s.dev.ira.inbox = x :: xs ∧ r = s.dev.iraParse x ∧ q = r.dqp → r.row = 6 ∧ r.roce = false ∧ r.good = true ∧ iraWell r.pay = some p ∧ 32 ≤ r.pay.length → s.dev.qpReady q = true ∧ s.dev.ctxIn q = true ∧ (∀ y, y ∈ s.dev.ira.cmb → y.1 ≠ q) ∧ s.dev.iraSourceOk q r = true → e = ((({ s.dev with ira := { s.dev.ira with inbox := xs } }).ctxTouch q).count R.IQ_RX_PKTS 1 q).iraGrantIn q p.grant → ∃ t, exec (.fetchAdd) s = .next t ∧ t = { s with dev := (e.iraDataIn q p).iraSettle q }) ∧
  (∀ (x : IraIn) (xs : List IraIn) (r : IraSrc) (q : Nat) (p : IraPkt) (e : Dev) (s : State), s.dev.iraOn = true ∧ s.dev.ira.inbox = x :: xs ∧ r = s.dev.iraParse x ∧ q = r.dqp → r.row = 7 ∧ r.roce = false ∧ r.good = true ∧ iraWell r.pay = some p ∧ 32 ≤ r.pay.length → s.dev.qpReady q = true ∧ s.dev.ctxIn q = true ∧ (∀ y, y ∈ s.dev.ira.cmb → y.1 ≠ q) ∧ s.dev.iraSourceOk q r = true → e = ((({ s.dev with ira := { s.dev.ira with inbox := xs } }).ctxTouch q).count R.IQ_RX_PKTS 1 q).iraGrantIn q p.grant → ∃ t, exec (.cmpSwap) s = .next t ∧ t = { s with dev := (e.iraDataIn q p).iraSettle q }) ∧
  (∀ (x : IraIn) (xs : List IraIn) (r : IraSrc) (q : Nat) (p : IraPkt) (e : Dev) (s : State), s.dev.iraOn = true ∧ s.dev.ira.inbox = x :: xs ∧ r = s.dev.iraParse x ∧ q = r.dqp → r.row = 8 ∧ r.roce = false ∧ r.good = true ∧ iraWell r.pay = some p ∧ 32 ≤ r.pay.length → s.dev.qpReady q = true ∧ s.dev.ctxIn q = true ∧ (∀ y, y ∈ s.dev.ira.cmb → y.1 ≠ q) ∧ s.dev.iraSourceOk q r = true → e = ((({ s.dev with ira := { s.dev.ira with inbox := xs } }).ctxTouch q).count R.IQ_RX_PKTS 1 q).iraGrantIn q p.grant → ∃ t, exec (.atomicResp) s = .next t ∧ t = { s with dev := (e.iraDataIn q p).iraSettle q }) ∧
  (∀ (x : IraIn) (xs : List IraIn) (r : IraSrc) (q : Nat) (p : IraPkt) (e : Dev) (s : State), s.dev.iraOn = true ∧ s.dev.ira.inbox = x :: xs ∧ r = s.dev.iraParse x ∧ q = r.dqp → r.row = 16 ∧ r.roce = false ∧ r.good = true ∧ iraWell r.pay = some p ∧ 32 ≤ r.pay.length → s.dev.qpReady q = true ∧ s.dev.ctxIn q = true ∧ (∀ y, y ∈ s.dev.ira.cmb → y.1 ≠ q) ∧ s.dev.iraSourceOk q r = true → e = ((({ s.dev with ira := { s.dev.ira with inbox := xs } }).ctxTouch q).count R.IQ_RX_PKTS 1 q).iraGrantIn q p.grant → ∃ t, exec (.ack) s = .next t ∧ t = { s with dev := (e.iraRetire q (ackCovers p.psn (beNat (slice p.ext 0 8)))).iraSettle q }) ∧
  (∀ (x : IraIn) (xs : List IraIn) (r : IraSrc) (q : Nat) (p : IraPkt) (e : Dev) (s : State), s.dev.iraOn = true ∧ s.dev.ira.inbox = x :: xs ∧ r = s.dev.iraParse x ∧ q = r.dqp → r.row = 17 ∧ r.roce = false ∧ r.good = true ∧ iraWell r.pay = some p ∧ 32 ≤ r.pay.length → s.dev.qpReady q = true ∧ s.dev.ctxIn q = true ∧ (∀ y, y ∈ s.dev.ira.cmb → y.1 ≠ q) ∧ s.dev.iraSourceOk q r = true → e = ((({ s.dev with ira := { s.dev.ira with inbox := xs } }).ctxTouch q).count R.IQ_RX_PKTS 1 q).iraGrantIn q p.grant → ∃ t, exec (.nak) s = .next t ∧ t = { s with dev := (e.iraNakIn q p).iraSettle q }) ∧
  (∀ (x : IraIn) (xs : List IraIn) (r : IraSrc) (q : Nat) (p : IraPkt) (e : Dev) (s : State), s.dev.iraOn = true ∧ s.dev.ira.inbox = x :: xs ∧ r = s.dev.iraParse x ∧ q = r.dqp → r.row = 18 ∧ r.roce = false ∧ r.good = true ∧ iraWell r.pay = some p ∧ 32 ≤ r.pay.length → s.dev.qpReady q = true ∧ s.dev.ctxIn q = true ∧ (∀ y, y ∈ s.dev.ira.cmb → y.1 ≠ q) ∧ s.dev.iraSourceOk q r = true → e = ((({ s.dev with ira := { s.dev.ira with inbox := xs } }).ctxTouch q).count R.IQ_RX_PKTS 1 q).iraGrantIn q p.grant → ∃ t, exec (.credit) s = .next t ∧ t = { s with dev := e.iraSettle q }) ∧
  (∀ (x : IraIn) (xs : List IraIn) (r : IraSrc) (q : Nat) (p : IraPkt) (s : State), s.dev.iraOn = true ∧ s.dev.ira.inbox = x :: xs ∧ r = s.dev.iraParse x ∧ q = r.dqp → r.row = 1 ∧ r.roce = false ∧ r.good = true ∧ iraWell r.pay = some p ∧ 32 ≤ r.pay.length → s.dev.qpReady q = true ∧ s.dev.ctxIn q = true ∧ (∀ y, y ∈ s.dev.ira.cmb → y.1 ≠ q) ∧ s.dev.iraSourceOk q r = true → (s.dev.qp q).held = [] ∧ (s.dev.qp q).jobs = [] ∧ (s.dev.qp q).ctl = [] ∧ (s.dev.qp q).again = [] ∧ (s.dev.qp q).ready = [] ∧ (s.dev.qp q).got = [] ∧ (s.dev.qp q).gaps = [] ∧ (s.dev.qp q).msgs = [] ∧ (s.dev.qp q).exec = none ∧ (s.dev.qp q).acks = 0 → p.psn = s.dev.rd R.IQ_RX_A q ∧ p.psn < 2 ^ 32 ∧ p.msn = (s.dev.qp q).expMsn ∧ p.off = 0 ∧ p.mlen = p.data.length ∧ p.data ≠ [] ∧ p.flags = 0 → s.dev.mrAllows q p.key mrRemoteWrite p.va p.data.length = true ∧ s.dev.ira.locks = [] → serialGe (s.dev.rd R.IQ_GRANT_RX q) ((s.dev.qp q).units + creditCost p.data.length) = true ∧ 1 < s.dev.rd R.IR_ACK_EVERY → s.dev.hostReset = false ∧ s.dev.qpFn q ∉ s.dev.fnOut → ∃ t, exec (.iraWrite) s = .next t ∧ t.dev.host.out = s.dev.host.out ++ [⟨s.dev.qpFn q, p.va % 2 ^ 64, p.data⟩] ∧ t.dev.rd R.IQ_RX_A q = (s.dev.rd R.IQ_RX_A q + 1) % 2 ^ 32 ∧ t.dev.rd R.IQ_RX_COUNT q = (s.dev.rd R.IQ_RX_COUNT q + 1) % 2 ^ R.IQ_RX_COUNT.width ∧ (t.dev.qp q).expMsn = ((s.dev.qp q).expMsn + 1) % 2 ^ 32) ∧
  (∀ (x : IraIn) (xs : List IraIn) (r : IraSrc) (q : Nat) (p : IraPkt) (s : State), s.dev.iraOn = true ∧ s.dev.ira.inbox = x :: xs ∧ r = s.dev.iraParse x ∧ q = r.dqp → r.row = 18 ∧ r.roce = false ∧ r.good = true ∧ iraWell r.pay = some p ∧ 32 ≤ r.pay.length → s.dev.qpReady q = true ∧ s.dev.ctxIn q = true ∧ (∀ y, y ∈ s.dev.ira.cmb → y.1 ≠ q) ∧ s.dev.iraSourceOk q r = true → (s.dev.qp q).held = [] ∧ (s.dev.qp q).jobs = [] ∧ (s.dev.qp q).ctl = [] ∧ (s.dev.qp q).again = [] ∧ (s.dev.qp q).ready = [] → serialGe p.grant (s.dev.rd R.IQ_GRANT_TX q) = true → ∃ t, exec (.credit) s = .next t ∧ t.dev.rd R.IQ_GRANT_TX q = p.grant % 2 ^ 32 ∧ t.dev.ira.inbox = xs ∧ RegsBut s.dev t.dev [R.IQ_GRANT_TX.key q 0 0, R.IQ_RX_PKTS.key q 0 0]) ∧
  (∀ (x : IraIn) (xs : List IraIn) (s : State), s.dev.iraOn = true ∧ s.dev.ira.inbox = x :: xs → (s.dev.iraParse x).row ≠ 0 ∧ (s.dev.iraParse x).row ≠ 4 → ∃ t, exec (.readReq) s = .next t ∧ t = s) ∧
  (∀ (s : State), s.dev.iraOn = false → ∃ t, exec (.ack) s = .next t ∧ t = s)

/-- NVMe controllers are enabled, reset and rung by doorbells; completions go to their queues or wait. A doorbell of a submission queue that stands moves its tail, nothing else of the controller; with an entry to fetch and none being read, the entry at the head is read from the host. One of an unknown queue makes an event of type Error, which waits for a request. A doorbell of a completion queue moves its head, and a completion that waited is written with its phase. A controller reset clears EN, RDY, CFS, SHST and PS, discards queues and commands, counts the commands discarded, and leaves the buffer; it does nothing to a controller that is not enabled. An enable sets up the Admin queues from AQA, ASQ and ACQ and reports ready unless the vault is being restored or the status is fatal. A command that ends is outstanding no longer, and its entry goes to the host, or waits where the completion queue is full. (11_storage_functions.md R275, R277, R278, R276.) -/
def Obligations.ControllersAreEnabledResetAndRung : Prop :=
  (∀ (c q tail : Nat) (k : NvSq) (s : State), s.dev.nvLive c = true ∧ SMap.get? (s.dev.nv c).sqs q = some k → tail < k.size → ∃ t, exec (.nvmeSqDoorbell c q tail) s = .next t ∧ SMap.get? (t.dev.nv c).sqs q = some { k with tail := tail } ∧ (∀ p, p ≠ q → SMap.get? (t.dev.nv c).sqs p = SMap.get? (s.dev.nv c).sqs p) ∧ (t.dev.nv c).cqs = (s.dev.nv c).cqs ∧ (t.dev.nv c).cmds = (s.dev.nv c).cmds ∧ RegsBut s.dev t.dev [R.NC_OUTSTANDING.key c 0 0, R.NC_QUEUES_SQS.key c 0 0, R.NC_QUEUES_CQS.key c 0 0]) ∧
  (∀ (c q tail : Nat) (k : NvSq) (s : State), s.dev.nvLive c = true ∧ (s.dev.nv c).sqs = [(q, k)] → tail < k.size ∧ k.head ≠ tail → (s.dev.nv c).reading = false ∧ (s.dev.nv c).shn = 0 → ∃ t, exec (.nvmeSqDoorbell c q tail) s = .next t ∧ t.dev.host = { s.dev.host with reads := s.dev.host.reads ++ [⟨s.dev.host.nextRead, s.dev.nvFn c, .nvmeSqe c q k.head, k.base + 64 * k.head, 64, s.dev.tk.etick⟩], nextRead := s.dev.host.nextRead + 1 }) ∧
  (∀ (c q tail : Nat) (s : State), s.dev.nvLive c = true ∧ SMap.get? (s.dev.nv c).sqs q = none → s.dev.on R.NC_INFO_RDY c = true ∧ (s.dev.nv c).events = [] ∧ (s.dev.nv c).aers = [] → ∃ t, exec (.nvmeSqDoorbell c q tail) s = .next t ∧ (t.dev.nv c).events = [65536]) ∧
  (∀ (c q head : Nat) (k : NvCq) (s : State), s.dev.nvLive c = true ∧ SMap.get? (s.dev.nv c).cqs q = some k → head < k.size ∧ k.wait = [] → ∃ t, exec (.nvmeCqDoorbell c q head) s = .next t ∧ SMap.get? (t.dev.nv c).cqs q = some { k with head := head } ∧ (t.dev.nv c).sqs = (s.dev.nv c).sqs ∧ t.dev.host = s.dev.host ∧ RegsBut s.dev t.dev [R.NC_OUTSTANDING.key c 0 0, R.NC_QUEUES_SQS.key c 0 0, R.NC_QUEUES_CQS.key c 0 0]) ∧
  (∀ (c q head : Nat) (k : NvCq) (b : Bytes) (s : State), s.dev.nvLive c = true ∧ SMap.get? (s.dev.nv c).cqs q = some k → head < k.size ∧ k.wait = [b] ∧ (k.tail + 1) % k.size ≠ head ∧ k.ien = false → ∃ t, exec (.nvmeCqDoorbell c q head) s = .next t ∧ t.dev.host = (s.dev.hostWrite (s.dev.nvFn c) (k.base + 16 * k.tail) (b.take 14 ++ leBytes 2 (le16 b 14 + b2n k.phase))).host ∧ (SMap.get? (t.dev.nv c).cqs q = some { k with head := head, wait := [], tail := (k.tail + 1) % k.size, phase := if k.tail + 1 = k.size then !k.phase else k.phase })) ∧
  (∀ (c : Nat) (s : State), s.dev.storOn = true ∧ s.dev.on R.NC_INFO_EN c = true ∧ s.dev.inService (s.dev.nvFn c) = true → ∃ t, exec (.controllerReset c) s = .next t ∧ t.dev.rd R.NC_INFO_EN c = 0 ∧ t.dev.rd R.NC_INFO_RDY c = 0 ∧ t.dev.rd R.NC_INFO_CFS c = 0 ∧ t.dev.rd R.NC_INFO_SHST c = 0 ∧ t.dev.rd R.NC_INFO_PS c = 0 ∧ t.dev.nv c = { aqa := (s.dev.nv c).aqa, asq := (s.dev.nv c).asq, acq := (s.dev.nv c).acq, turn := (s.dev.nv c).turn } ∧ t.dev.rd R.FN_DISC_SUBMIT (s.dev.nvFn c) = (s.dev.nv c).cmds.length % 2 ^ 32 ∧ t.dev.nvme.dirty = s.dev.nvme.dirty ∧ t.dev.host = s.dev.host) ∧
  (∀ (c : Nat) (s : State), s.dev.on R.NC_INFO_EN c = false → ∃ t, exec (.controllerReset c) s = .next t ∧ t = s) ∧
  (∀ (c cc : Nat) (s : State), s.dev.storOn = true ∧ c < s.dev.nvCount ∧ s.dev.inService (s.dev.nvFn c) = true → s.dev.on R.NC_INFO_EN c = false ∧ s.dev.nvme.pfDone = false ∧ s.dev.on R.NV_STATUS_PF_ACTIVE = false → ∃ t, exec (.controllerEnable c cc) s = .next t ∧ t.dev.on R.NC_INFO_EN c = true ∧ t.dev.on R.NC_INFO_RDY c = (!s.dev.on R.NV_STATUS_VAULT_RESTORE && !s.dev.on R.NC_INFO_CFS c) ∧ (t.dev.nv c).cc = cc ∧ (t.dev.nv c).cmds = (s.dev.nv c).cmds ∧ (t.dev.nv c).feats = (s.dev.nv c).feats ∧ (t.dev.nv c).sqs = [(0, { base := (s.dev.nv c).asq, size := (s.dev.nv c).aqa % 2 ^ 12 + 1, cq := 0 })] ∧ (t.dev.nv c).cqs = [(0, { base := (s.dev.nv c).acq, size := (s.dev.nv c).aqa / 2 ^ 16 % 2 ^ 12 + 1, vector := 0, ien := true })] ∧ RegsBut s.dev t.dev [R.NC_INFO_EN.key c 0 0, R.NC_INFO_RDY.key c 0 0, R.NC_OUTSTANDING.key c 0 0, R.NC_QUEUES_SQS.key c 0 0, R.NC_QUEUES_CQS.key c 0 0]) ∧
  (∀ (c st dw : Nat) (m : NvCmd) (q : NvSq) (k : NvCq) (d : Dev), c < 1024 ∧ SMap.get? (d.nv c).sqs m.sq = some q ∧ SMap.get? (d.nv c).cqs q.cq = some k → k.room = true ∧ k.wait = [] ∧ k.ien = false → (d.nvDone c m st dw).host = (d.hostWrite (d.nvFn c) (k.base + 16 * k.tail) ((nvEntry dw q.head m.sq m.cid st).take 14 ++ leBytes 2 (le16 (nvEntry dw q.head m.sq m.cid st) 14 + b2n k.phase))).host ∧ ((d.nvDone c m st dw).nv c).cmds = (d.nv c).cmds.filter (fun y => y.id != m.id)) ∧
  (∀ (c st dw : Nat) (m : NvCmd) (q : NvSq) (k : NvCq) (d : Dev), c < 1024 ∧ SMap.get? (d.nv c).sqs m.sq = some q ∧ SMap.get? (d.nv c).cqs q.cq = some k → k.room = false → (d.nvDone c m st dw).host = d.host ∧ SMap.get? ((d.nvDone c m st dw).nv c).cqs q.cq = some { k with wait := k.wait ++ [nvEntry dw q.head m.sq m.cid st] })

/-- Admin commands make and delete queues, return structures and logs, abort, and set and get features. The first Admin command of its opcode at a running controller acts and completes. Create makes a queue of a free identifier 1 to 64, aligned and contiguous, a submission queue on a completion queue that stands, and ends with 100h without one; Delete removes one, but not a completion queue in use (10Ch). Get Log Page and Identify write their bytes to the host page and complete; an unknown log page is 109h, a fused or SGL form Invalid Field. Abort ends a command that was not dispatched (07h) and counts it, else answers Dword 0 bit 0 set. Set Features keeps the value, the power state shows in NC_INFO.PS; an unknown feature is Invalid Field. Get Features answers the value. An Asynchronous Event Request waits. Every other opcode is Invalid Command Opcode. A stopped controller does nothing. (Identifiers and status codes are those of NVMe 2.0, which R275 names.) (11_storage_functions.md R276, R293, R295.) -/
def Obligations.AdminCommandsActAndComplete : Prop :=
  (∀ (c q n k : Nat) (m : NvCmd) (s : State), s.dev.nvTakes c true 1 m = true → cdw m 10 = q + 2 ^ 16 * (n - 1) ∧ 0 < q ∧ q ≤ 64 ∧ SMap.has (s.dev.nv c).sqs q = false ∧ 2 ≤ n → cdw m 11 / 2 ^ 16 = k ∧ 0 < k ∧ SMap.has (s.dev.nv c).cqs k = true ∧ bit (cdw m 11) 0 = true ∧ le64 m.sqe 24 % (s.dev.nv c).page = 0 → ∃ t, exec (.createIoSq c) s = .next t ∧ (t = { s with dev := (s.dev.setNvc c (fun x => { x with sqs := SMap.put x.sqs q { base := le64 m.sqe 24, size := n, cq := k } })).nvDone c m 0 0 }) ∧ SMap.get? (t.dev.nv c).sqs q = some { base := le64 m.sqe 24, size := n, cq := k }) ∧
  (∀ (c : Nat) (m : NvCmd) (s : State), s.dev.nvTakes c true 1 m = true → cdw m 11 / 2 ^ 16 = 0 ∨ SMap.has (s.dev.nv c).cqs (cdw m 11 / 2 ^ 16) = false → ∃ t, exec (.createIoSq c) s = .next t ∧ t = { s with dev := (s.dev).nvDone c m 0x100 0 }) ∧
  (∀ (c q n v : Nat) (m : NvCmd) (s : State), s.dev.nvTakes c true 5 m = true → cdw m 10 = q + 2 ^ 16 * (n - 1) ∧ 0 < q ∧ q ≤ 64 ∧ SMap.has (s.dev.nv c).cqs q = false ∧ 2 ≤ n → cdw m 11 / 2 ^ 16 = v ∧ (bit (cdw m 11) 1 = true → v < s.dev.msixSize (s.dev.nvFn c)) ∧ bit (cdw m 11) 0 = true ∧ le64 m.sqe 24 % (s.dev.nv c).page = 0 → ∃ t, exec (.createIoCq c) s = .next t ∧ (t = { s with dev := (s.dev.setNvc c (fun x => { x with cqs := SMap.put x.cqs q { base := le64 m.sqe 24, size := n, vector := v, ien := bit (cdw m 11) 1 } })).nvDone c m 0 0 })) ∧
  (∀ (c q : Nat) (m : NvCmd) (s : State), s.dev.nvTakes c true 0 m = true → cdw m 10 % 2 ^ 16 = q ∧ 0 < q ∧ SMap.has (s.dev.nv c).sqs q = true ∧ (s.dev.nv c).cmds.filter (fun x => x.sq == q) = [] → ∃ t, exec (.deleteIoSq c) s = .next t ∧ (t = { s with dev := (s.dev.setNvc c (fun x => { x with sqs := SMap.del x.sqs q })).nvDone c m 0 0 }) ∧ SMap.get? (t.dev.nv c).sqs q = none) ∧
  (∀ (c q : Nat) (m : NvCmd) (s : State), s.dev.nvTakes c true 4 m = true → cdw m 10 % 2 ^ 16 = q ∧ 0 < q ∧ SMap.has (s.dev.nv c).cqs q = true ∧ (s.dev.nv c).sqs.any (fun x => x.2.cq == q) = false → ∃ t, exec (.deleteIoCq c) s = .next t ∧ (t = { s with dev := (s.dev.setNvc c (fun x => { x with cqs := SMap.del x.cqs q })).nvDone c m 0 0 })) ∧
  (∀ (c : Nat) (m : NvCmd) (s : State), s.dev.nvTakes c true 4 m = true → cdw m 10 % 2 ^ 16 ≠ 0 ∧ SMap.has (s.dev.nv c).cqs (cdw m 10 % 2 ^ 16) = true ∧ (s.dev.nv c).sqs.any (fun x => x.2.cq == cdw m 10 % 2 ^ 16) = true → ∃ t, exec (.deleteIoCq c) s = .next t ∧ t = { s with dev := (s.dev).nvDone c m 0x10C 0 }) ∧
  (∀ (c : Nat) (m : NvCmd) (e : Dev) (s : State), s.dev.nvTakes c true 2 m = true ∧ c < 1024 → logStop m = 0 ∧ logLen m ≤ (s.dev.nv c).page - le64 m.sqe 24 % (s.dev.nv c).page → e = s.dev.setCmd c m.id (fun x => { x with segs := [(le64 m.sqe 24, logLen m)], phase := 1 }) → ∃ t, exec (.getLogPage c) s = .next t ∧ (t = { s with dev := (e.hostWrite (e.nvFn c) (le64 m.sqe 24) ((List.range (logLen m)).map (fun i => e.logByte c (cdw m 10 % 256) (logOff m + i)))).nvDone c { m with segs := [(le64 m.sqe 24, logLen m)], phase := 1 } 0 })) ∧
  (∀ (c : Nat) (m : NvCmd) (s : State), s.dev.nvTakes c true 2 m = true → cdw m 10 % 256 ∉ [1, 2, 3, 5] → ∃ t, exec (.getLogPage c) s = .next t ∧ t = { s with dev := (s.dev).nvDone c m 0x109 0 }) ∧
  (∀ (c : Nat) (m : NvCmd) (e : Dev) (s : State), s.dev.nvTakes c true 6 m = true ∧ c < 1024 → (s.dev.identify c m).1 = 0 ∧ le64 m.sqe 24 % (s.dev.nv c).page = 0 → e = s.dev.setCmd c m.id (fun x => { x with segs := [(le64 m.sqe 24, 4096)], phase := 1 }) → ∃ t, exec (.identify c) s = .next t ∧ t = { s with dev := (e.hostWrite (e.nvFn c) (le64 m.sqe 24) ((s.dev.identify c m).2.take 4096)).nvDone c { m with segs := [(le64 m.sqe 24, 4096)], phase := 1 } 0 }) ∧
  (∀ (c : Nat) (m : NvCmd) (s : State), s.dev.nvLive c = true ∧ s.dev.nvFirst c true (· == 6) = some m → byteAt m.sqe 1 ≠ 0 ∧ (byteAt m.sqe 1 % 4 ≠ 0 ∨ byteAt m.sqe 1 / 64 ≠ 0) → ∃ t, exec (.identify c) s = .next t ∧ t = { s with dev := (s.dev).nvDone c m 0x02 0 }) ∧
  (∀ (c : Nat) (m x : NvCmd) (s : State), s.dev.nvTakes c true 8 m = true → ((s.dev.nv c).cmds.filter (fun x => nvAdmin x && cmdOp x == 8))[4]? = none → (s.dev.nv c).cmds.find? (fun x => x.id != m.id && x.sq == cdw m 10 % 2 ^ 16 && x.cid == cdw m 10 / 2 ^ 16 && abortable x) = some x → ∃ t, exec (.abort c) s = .next t ∧ t = { s with dev := ((s.dev.nvDone c x 0x07).count R.NV_ABORT_OK).nvDone c m 0 0 }) ∧
  (∀ (c : Nat) (m : NvCmd) (s : State), s.dev.nvTakes c true 8 m = true → ((s.dev.nv c).cmds.filter (fun x => nvAdmin x && cmdOp x == 8))[4]? = none → (s.dev.nv c).cmds.find? (fun x => x.id != m.id && x.sq == cdw m 10 % 2 ^ 16 && x.cid == cdw m 10 / 2 ^ 16 && abortable x) = none → ∃ t, exec (.abort c) s = .next t ∧ t = { s with dev := (s.dev.count R.NV_ABORT_LATE).nvDone c m 0 1 }) ∧
  (∀ (c fid : Nat) (m : NvCmd) (s : State), s.dev.nvTakes c true 9 m = true → cdw m 10 = fid ∧ fid ∈ [1, 4, 6, 8, 0x0A, 0x0B] → ∃ t, exec (.setFeatures c) s = .next t ∧ SMap.get? (t.dev.nv c).feats (featKey fid (cdw m 11)) = some (cdw m 11) ∧ (t = { s with dev := (s.dev.setNvc c (fun x => { x with feats := SMap.put x.feats (featKey fid (cdw m 11)) (cdw m 11) })).nvDone c m 0 0 })) ∧
  (∀ (c : Nat) (m : NvCmd) (s : State), s.dev.nvTakes c true 9 m = true → cdw m 10 = 2 ∧ cdw m 11 % 32 ≤ 3 → ∃ t, exec (.setFeatures c) s = .next t ∧ t.dev.rd R.NC_INFO_PS c = cdw m 11 % 32) ∧
  (∀ (c : Nat) (m : NvCmd) (s : State), s.dev.nvTakes c true 9 m = true → cdw m 10 % 256 ∉ [1, 2, 4, 6, 7, 8, 9, 0x0A, 0x0B] → ∃ t, exec (.setFeatures c) s = .next t ∧ t = { s with dev := (s.dev).nvDone c m 0x02 0 }) ∧
  (∀ (c fid : Nat) (m : NvCmd) (s : State), s.dev.nvTakes c true 0x0A m = true → cdw m 10 = fid ∧ fid ∈ [1, 2, 4, 6, 7, 8, 0x0A, 0x0B] → ∃ t, exec (.getFeatures c) s = .next t ∧ t = { s with dev := (s.dev).nvDone c m 0 (SMap.getD (s.dev.nv c).feats (featKey fid (cdw m 11)) (featDefault fid (cdw m 11))) }) ∧
  (∀ (c : Nat) (m : NvCmd) (s : State), s.dev.nvTakes c true 0x0C m = true → (s.dev.nv c).aers = [] ∧ (s.dev.nv c).events = [] → ∃ t, exec (.asynchronousEventRequest c) s = .next t ∧ ((t.dev.nv c).aers = [(0, m.cid)] ∧ (t.dev.nv c).cmds = (s.dev.nv c).cmds.filter (fun y => y.id != m.id)) ∧ t.dev.host = s.dev.host ∧ RegsBut s.dev t.dev [R.NC_OUTSTANDING.key c 0 0, R.NC_QUEUES_SQS.key c 0 0, R.NC_QUEUES_CQS.key c 0 0]) ∧
  (∀ (c : Nat) (m : NvCmd) (s : State), s.dev.nvLive c = true ∧ s.dev.nvFirst c true (fun o => !([0, 1, 2, 4, 5, 6, 8, 9, 0x0A, 0x0C].contains o)) = some m → byteAt m.sqe 1 = 0 → ∃ t, exec (.invalidCommandOpcode c) s = .next t ∧ t = { s with dev := (s.dev).nvDone c m 0x01 0 }) ∧
  (∀ (c : Nat) (m : NvCmd) (s : State), s.dev.nvLive c = true ∧ s.dev.nvFirst c true (fun o => !([0, 1, 2, 4, 5, 6, 8, 9, 0x0A, 0x0C].contains o)) = none ∧ s.dev.nvHeld c m = false → s.dev.nvFirst c false (fun o => !([0, 1, 2, 8, 9].contains o)) = some m ∧ byteAt m.sqe 1 = 0 → ∃ t, exec (.invalidCommandOpcode c) s = .next t ∧ t = { s with dev := (s.dev).nvDone c m 0x01 0 }) ∧
  (∀ (c : Nat) (s : State), s.dev.nvLive c = false → ∃ t, exec (.identify c) s = .next t ∧ t = s)

/-- Reads ask backends, writes read host data or wait for room, flushes wait for media; shutdown, power fail and vault. A Read of one block that is not in the buffer asks its backend; one that R280 or R281 stops completes with that status. A Write with room reads its data from the host; without room it waits in phase 6. Write Zeroes is accepted with its data at once. A Flush completes at once with the write cache disabled, or with nothing dirty; with data that it covers dirty it waits in phase 4. Dataset Management completes and changes no data. A shutdown notification stops fetching; SHST is 2 once the controller is quiet, until then 1. NS_MAP_DONE makes namespaces ready. PWR_FAIL raises class 1, STOR local 0, ends every command without completion and leaves what is dirty; PF_DONE drives the ball and reports result 1 with nothing dirty left, 2 with drive data left. VAULT_RESTORE loads a finished vault into the buffer, then enabled controllers are ready. (11_storage_functions.md R276, R278, R280, R281, R282, R283, R284, R285, R296, R297, R298.) -/
def Obligations.NvmCommandsAndPowerFail : Prop :=
  (∀ (c : Nat) (m : NvCmd) (b k : Bytes) (s : State), s.dev.nvTakes c false 2 m = true ∧ c < 1024 → s.dev.nvStop c m = 0 ∧ cmdNlb m = 1 → s.dev.nsEntry (cmdNs m) = some b ∧ s.dev.blockNow (cmdNs m) (cmdLba m) = none → k = s.dev.extEntry (nsBase b + cmdLba m / extBlocks b) ∧ extValid k = true ∧ s.dev.nvme.failed.contains (extBackend k) = false ∧ byteAt (s.dev.backendBytes (extBackend k)) 0 = 1 → 0 < extBlocks b ∧ 0 < nsLba b ∧ byteAt m.sqe 1 / 64 = 0 ∧ nsLba b ≤ (s.dev.nv c).page - le64 m.sqe 24 % (s.dev.nv c).page → ∃ t, exec (.nvmeRead c) s = .next t ∧ t.dev.nvme.reqs = s.dev.nvme.reqs ++ [{ id := s.dev.nvme.nextReq, backend := extBackend k, kind := 0, ns := cmdNs m, ext := cmdLba m / extBlocks b, first := cmdLba m, count := nsLba b, ctrl := c, cmd := m.id }] ∧ t.dev.nvme.nextReq = s.dev.nvme.nextReq + 1 ∧ t.dev.nvme.dirty = s.dev.nvme.dirty ∧ t.dev.host = s.dev.host ∧ RegsBut s.dev t.dev [R.NC_OUTSTANDING.key c 0 0, R.NC_QUEUES_SQS.key c 0 0, R.NC_QUEUES_CQS.key c 0 0]) ∧
  (∀ (c : Nat) (m : NvCmd) (s : State), s.dev.nvTakes c false 2 m = true → s.dev.nvStop c m ≠ 0 → ∃ t, exec (.nvmeRead c) s = .next t ∧ t = { s with dev := (s.dev).nvDone c m (s.dev.nvStop c m) 0 }) ∧
  (∀ (c : Nat) (m : NvCmd) (a n : Nat) (s : State), s.dev.nvTakes c false 1 m = true ∧ c < 1024 → s.dev.nvStop c m = 0 ∧ s.dev.nvRoom c m = true ∧ s.dev.nvBehind m = false → nvPtr (s.dev.nv c).page m.sqe (s.dev.cmdBytes c m) = .ok [(a, n)] → ∃ t, exec (.nvmeWrite c) s = .next t ∧ t.dev.host = { s.dev.host with reads := s.dev.host.reads ++ [⟨s.dev.host.nextRead, s.dev.nvFn c, .nvmeData c m.id 0, a, n, s.dev.tk.etick⟩], nextRead := s.dev.host.nextRead + 1 } ∧ (∀ x, x ∈ (t.dev.nv c).cmds → x.id = m.id → x.phase = 2) ∧ t.dev.nvme.dirty = s.dev.nvme.dirty) ∧
  (∀ (c : Nat) (m : NvCmd) (s : State), s.dev.nvTakes c false 1 m = true → s.dev.nvStop c m = 0 ∧ s.dev.nvRoom c m = false → ∃ t, exec (.nvmeWrite c) s = .next t ∧ (t = { s with dev := s.dev.setCmd c m.id (fun x => { x with phase := 6 }) })) ∧
  (∀ (c : Nat) (m : NvCmd) (s : State), s.dev.nvTakes c false 1 m = true → s.dev.nvStop c m ≠ 0 → ∃ t, exec (.nvmeWrite c) s = .next t ∧ t = { s with dev := (s.dev).nvDone c m (s.dev.nvStop c m) 0 }) ∧
  (∀ (c : Nat) (m : NvCmd) (b : Bytes) (s : State), s.dev.nvTakes c false 8 m = true → s.dev.nvStop c m = 0 ∧ s.dev.nvRoom c m = true ∧ s.dev.nvBehind m = false → s.dev.nsEntry (s.dev.cmdNsid c m) = some b ∧ s.dev.nvShared b m = none ∧ s.dev.nvFua c m = false → ∃ t, exec (.writeZeroes c) s = .next t ∧ t.dev.nvme.accepted = s.dev.nvme.accepted + 1 ∧ t.dev.rd R.NV_WRITES = (s.dev.rd R.NV_WRITES + 1) % 2 ^ R.NV_WRITES.width ∧ ((t.dev.nv c).cmds = (s.dev.nv c).cmds.filter (fun y => y.id != m.id))) ∧
  (∀ (c : Nat) (m : NvCmd) (s : State), s.dev.nvTakes c false 0 m = true ∧ c < 1024 → s.dev.nsStop c (cmdNs m) = 0 ∧ SMap.getD (s.dev.nv c).feats 6 1 % 2 = 0 → ∃ t, exec (.flush c) s = .next t ∧ t = { s with dev := (s.dev).nvDone c m 0 0 }) ∧
  (∀ (c : Nat) (k : NvCtrl) (m : NvCmd) (s : State), s.dev.nvTakes c false 0 m = true ∧ c < 1024 → s.dev.nsStop c (cmdNs m) = 0 ∧ SMap.getD (s.dev.nv c).feats 6 1 % 2 = 1 ∧ s.dev.nvme.dirty = [] → s.dev.nvme.ctrls = [(c, k)] ∧ k.cmds = [m] → ∃ t, exec (.flush c) s = .next t ∧ (t.dev.nv c).cmds = []) ∧
  (∀ (c : Nat) (k : NvCtrl) (m : NvCmd) (s : State), s.dev.nvTakes c false 0 m = true ∧ c < 1024 → s.dev.nsStop c (cmdNs m) = 0 ∧ SMap.getD (s.dev.nv c).feats 6 1 % 2 = 1 ∧ s.dev.nvme.failed = [] → s.dev.nvme.ctrls = [(c, k)] ∧ k.cmds = [m] ∧ s.dev.mediaLeft c m ≠ [] → ∃ t, exec (.flush c) s = .next t ∧ (t.dev.nv c).cmds = [{ m with phase := 4 }] ∧ t.dev.host = s.dev.host) ∧
  (∀ (c : Nat) (m : NvCmd) (s : State), s.dev.nvTakes c false 9 m = true → ∃ t, exec (.datasetManagement c) s = .next t ∧ t = { s with dev := (s.dev).nvDone c m (s.dev.nsStop c (s.dev.cmdNsid c m)) 0 }) ∧
  (∀ (c shn : Nat) (s : State), s.dev.storOn = true ∧ s.dev.on R.NC_INFO_EN c = true ∧ s.dev.inService (s.dev.nvFn c) = true → s.dev.rd R.NC_INFO_SHST c = 0 ∧ (shn = 1 ∨ shn = 2) → ∃ t, exec (.shutdownNotification c shn) s = .next t ∧ (t.dev.rd R.NC_INFO_SHST c = if s.dev.nvQuiet c = true then 2 else 1) ∧ (t.dev.nv c).shn = shn ∧ t.dev.host = s.dev.host ∧ RegsBut s.dev t.dev [R.NC_INFO_SHST.key c 0 0, R.NC_OUTSTANDING.key c 0 0, R.NC_QUEUES_SQS.key c 0 0, R.NC_QUEUES_CQS.key c 0 0]) ∧
  (∀ (s : State), s.dev.storOn = true → ∃ t, exec (.nsMapDone) s = .next t ∧ t.dev.on R.NV_STATUS_MAP_DONE = true ∧ OnlyRegs s t [R.NV_STATUS_MAP_DONE.key 0 0 0]) ∧
  (∀ (s : State), s.dev.unit 2 = true ∧ s.dev.on R.NV_STATUS_PF_ACTIVE = false ∧ s.dev.nvme.pfDone = false ∧ 5 ∉ s.dev.rst.active → ∃ t, exec (.pwrFail) s = .next t ∧ t.dev.on R.NV_STATUS_PF_ACTIVE = true ∧ ⟨1, srcNum 0x17 0, 0⟩ ∈ t.dev.tk.sampled ∧ (∀ c, (t.dev.nv c).cmds = []) ∧ t.dev.nvme.dirty = s.dev.nvme.dirty ∧ t.dev.mram = s.dev.mram) ∧
  (∀ (v : Bool) (ms : Nat) (s : State), s.dev.on R.NV_STATUS_PF_ACTIVE = true → s.dev.nvme.dirty = [] → ∃ t, exec (.pfDone v ms) s = .next t ∧ t.dev.rd R.NV_PF_RESULT_RESULT = 1 ∧ t.dev.rd R.NV_PF_RESULT_MS = ms % 2 ^ 16 ∧ t.dev.pins.pfDone = true ∧ t.dev.on R.NV_STATUS_PF_ACTIVE = false ∧ t.dev.mram = { s.dev.mram with pfResult := 1 + ms % 2 ^ 16 * 256 } ∧ t.dev.nvme = { s.dev.nvme with pfDone := true }) ∧
  (∀ (v : Bool) (ms : Nat) (s : State), s.dev.on R.NV_STATUS_PF_ACTIVE = true → s.dev.nvme.dirty ≠ [] ∧ (∀ x, x ∈ s.dev.nvme.dirty → s.dev.onDrive x = true) → ∃ t, exec (.pfDone v ms) s = .next t ∧ t.dev.rd R.NV_PF_RESULT_RESULT = 2 ∧ t.dev.pins.pfDone = true) ∧
  (∀ (l : List NvExtent) (s : State), s.dev.storOn = true ∧ s.dev.on R.NV_STATUS_VAULT_RESTORE = true → s.dev.mram.vault = some (true, l) → ∃ t, exec (.vaultRestore) s = .next t ∧ t.dev.nvme.dirty = s.dev.nvme.dirty ++ l ∧ t.dev.mram = { s.dev.mram with vault := none } ∧ t.dev.on R.NV_STATUS_VAULT_RESTORE = false ∧ (∀ c, c < s.dev.nvCount → s.dev.on R.NC_INFO_EN c = true → s.dev.on R.NC_INFO_CFS c = false → t.dev.on R.NC_INFO_RDY c = true))

/-- Dirty extents are destaged, acknowledged, retried; links fall and rise; backends fail; copies, drains and pointers move. DESTAGE writes the dirty blocks of the extent to its backend as one request. The acknowledgement cleans the blocks that no later write changed, and leaves the others dirty; an error keeps all of it dirty, counts an attempt and sets the retry 100 ms ahead; a read that fails ends its command; an unknown answer is dropped. DESTAGE_RETRY writes again once due. A surprise link-down clears UP and puts every enabled drive backend of the link into FAILED, as CFS of a drive and the loss of a TCP connection put theirs. A link that trains shows its speed and width and is DEGRADED below 32 GT/s (code 5) or its full width. NS_DRAIN_RESET returns the pointer to 0. CAPTURE_SEGMENT_DRAIN frees the acknowledged segment. EXTENT_COPY_DONE takes the next spare and the source's extent is SHARED no longer. (11_storage_functions.md R281, R285, R286, R289, R290, R299, R300; 12_capture_and_reduced_data.md R310.) -/
def Obligations.DirtyDataReachesItsBackends : Prop :=
  (∀ (x : NvExtent) (b k : Bytes) (s : State), s.dev.nvme.dirty = [x] ∧ s.dev.nsEntry x.ns = some b ∧ s.dev.mayDestage x.ns = true ∧ s.dev.destaging x = false ∧ s.dev.on R.NV_STATUS_PF_ACTIVE = false → k = s.dev.extEntry (nsBase b + x.ext) ∧ extValid k = true ∧ s.dev.backendOk (extBackend k) = true ∧ byteAt (s.dev.backendBytes (extBackend k)) 0 ≠ 3 → ∃ t, exec (.destage) s = .next t ∧ (t = { s with dev := { s.dev with nvme := { s.dev.nvme with nextReq := s.dev.nvme.nextReq + 1, reqs := s.dev.nvme.reqs ++ [{ id := s.dev.nvme.nextReq, backend := extBackend k, kind := 1, ns := x.ns, ext := x.ext, first := (x.blocks.map (·.1)).headD 0, count := ((x.blocks.map (fun k => k.2.data)).flatten).length, vers := x.blocks.map (fun k => (k.1, k.2.ver)), data := (x.blocks.map (fun k => k.2.data)).flatten }] } } })) ∧
  (∀ (s : State), s.dev.nvme.dirty = [] → ∃ t, exec (.destage) s = .next t ∧ t = s) ∧
  (∀ (id : Nat) (x : Bytes) (r : NvReq) (s : State), s.dev.storOn = true ∧ s.dev.nvme.reqs.find? (fun r => r.id == id && r.kind != 2) = some r ∧ r.kind = 1 → s.dev.nvme.dirty = [{ ns := r.ns, ext := r.ext, blocks := [] }] ∨ s.dev.nvme.dirty = [] → s.dev.nvme.ctrls = [] → ∃ t, exec (.backendCompletion id true x) s = .next t ∧ t.dev.nvme.dirty = [] ∧ t.dev.rd R.NV_BUF_DIRTY = 0 ∧ (t.dev.nvme.reqs = s.dev.nvme.reqs.filter (fun y => y.id != r.id) ∧ SMap.get? t.dev.nvme.tries r.backend = none) ∧ t.dev.rd R.NV_DESTAGE_OCTETS = (s.dev.rd R.NV_DESTAGE_OCTETS + r.count) % 2 ^ R.NV_DESTAGE_OCTETS.width) ∧
  (∀ (id l v : Nat) (x : Bytes) (k : NvBlock) (r : NvReq) (s : State), s.dev.storOn = true ∧ s.dev.nvme.reqs.find? (fun r => r.id == id && r.kind != 2) = some r ∧ r.kind = 1 → s.dev.nvme.dirty = [{ ns := r.ns, ext := r.ext, blocks := [(l, k)] }] ∧ r.vers = [(l, v)] → ∃ t, exec (.backendCompletion id true x) s = .next t ∧ (k.ver = v → t.dev.nvme.dirty = []) ∧ (k.ver ≠ v → ∃ k2, t.dev.nvme.dirty = [{ ns := r.ns, ext := r.ext, blocks := [(l, k2)] }] ∧ k2.data = k.data ∧ k2.ver = k.ver)) ∧
  (∀ (id n : Nat) (x : Bytes) (r : NvReq) (s : State), s.dev.storOn = true ∧ s.dev.nvme.reqs.find? (fun r => r.id == id && r.kind != 2) = some r ∧ r.kind = 1 → SMap.getD s.dev.nvme.tries r.backend 0 = n ∧ n < 15 → ∃ t, exec (.backendCompletion id false x) s = .next t ∧ t.dev.nvme.dirty = s.dev.nvme.dirty ∧ t.dev.nvme.failed = s.dev.nvme.failed ∧ SMap.get? t.dev.nvme.tries r.backend = some (n + 1) ∧ SMap.get? t.dev.nvme.retry r.backend = some (s.dev.cyc + 10 ^ 8) ∧ t.dev.rd R.NV_BACKEND_ERR = (s.dev.rd R.NV_BACKEND_ERR + 1) % 2 ^ R.NV_BACKEND_ERR.width ∧ RegsBut s.dev t.dev [R.NV_BACKEND_ERR.key 0 0 0]) ∧
  (∀ (id : Nat) (x : Bytes) (m : NvCmd) (r : NvReq) (s : State), s.dev.storOn = true ∧ s.dev.nvme.reqs.find? (fun r => r.id == id && r.kind != 2) = some r ∧ r.kind = 0 → (s.dev.setNv (fun s => { s with reqs := s.reqs.filter (fun y => y.id != r.id) })).cmdOf r.ctrl r.cmd = some m → ∃ t, exec (.backendCompletion id false x) s = .next t ∧ (t = { s with dev := (((s.dev.setNv (fun s => { s with reqs := s.reqs.filter (fun y => y.id != r.id) })).count R.NV_BACKEND_ERR).nvDone r.ctrl m 0x281) })) ∧
  (∀ (id : Nat) (ok : Bool) (x : Bytes) (s : State), s.dev.nvme.reqs.find? (fun r => r.id == id && r.kind != 2) = none → ∃ t, exec (.backendCompletion id ok x) s = .next t ∧ t = s) ∧
  (∀ (b c : Nat) (x : NvExtent) (s : State), s.dev.storOn = true ∧ SMap.get? s.dev.nvme.retry b = some c ∧ c < s.dev.cyc + 8 → s.dev.nvme.dirty = [x] ∧ s.dev.backendOf x.ns x.ext = b ∧ s.dev.nvme.reqs = [] ∧ s.dev.mayDestage x.ns = true ∧ b < 256 ∧ s.dev.backendOk b = true → ∃ t, exec (.destageRetry b) s = .next t ∧ SMap.get? t.dev.nvme.retry b = none ∧ (∃ r, t.dev.nvme.reqs = [r] ∧ r.kind = 1 ∧ r.backend = b ∧ r.ns = x.ns ∧ r.ext = x.ext ∧ r.data = (x.blocks.map (fun k => k.2.data)).flatten) ∧ t.dev.nvme.dirty = s.dev.nvme.dirty) ∧
  (∀ (b : Nat) (s : State), SMap.get? s.dev.nvme.retry b = none → ∃ t, exec (.destageRetry b) s = .next t ∧ t = s) ∧
  (∀ (link : Nat) (cfs : Bool) (l : List Nat) (b : Nat) (x : Bytes) (s : State), s.dev.storOn = true ∧ s.dev.mram.backends = [(b, x)] ∧ byteAt x 0 = 1 ∧ le32 x 12 = link ∧ bit (byteAt x 1) 0 = true ∧ b ∉ s.dev.nvme.failed → cfs = true → b ∈ l → ∃ t, exec (.dsLinkDown link cfs l) s = .next t ∧ b ∈ t.dev.nvme.failed) ∧
  (∀ (link : Nat) (l : List Nat) (s : State), s.dev.storOn = true ∧ s.dev.mram.backends = [] → ∃ t, exec (.dsLinkDown link false l) s = .next t ∧ t.dev.on R.DS_LINK_UP link = false ∧ t.dev.on R.DS_EVENTS_SURPRISE_DOWN link = true ∧ (s.dev.on R.DS_LINK_UP link = true → t.dev.on R.DS_EVENTS_LINK_CHG link = true) ∧ OnlyRegs s t [R.DS_LINK_UP.key link 0 0, R.DS_LINK_DEGRADED.key link 0 0, R.DS_EVENTS_LINK_CHG.key link 0 0, R.DS_EVENTS_SURPRISE_DOWN.key link 0 0]) ∧
  (∀ (link speed width : Nat) (s : State), s.dev.storOn = true ∧ (link = 1 → s.dev.on R.DS_MODE = true) → ∃ t, exec (.dsLinkUp link speed width) s = .next t ∧ t.dev.on R.DS_LINK_UP link = true ∧ t.dev.rd R.DS_LINK_SPEED link = speed % 2 ^ R.DS_LINK_SPEED.width ∧ t.dev.rd R.DS_LINK_WIDTH link = width % 2 ^ R.DS_LINK_WIDTH.width ∧ (t.dev.rd R.DS_LINK_DEGRADED link = b2n (decide (speed < 5 ∨ width < (if s.dev.on R.DS_MODE then 4 else 8)))) ∧ OnlyRegs s t [R.DS_LINK_UP.key link 0 0, R.DS_LINK_DEGRADED.key link 0 0, R.DS_EVENTS_LINK_CHG.key link 0 0, R.DS_LINK_SPEED.key link 0 0, R.DS_LINK_WIDTH.key link 0 0]) ∧
  (∀ (b : Nat) (s : State), s.dev.storOn = true ∧ byteAt (s.dev.backendBytes b) 0 = 2 ∧ bit (byteAt (s.dev.backendBytes b) 1) 0 = true → ∃ t, exec (.tcpConnectionLoss b) s = .next t ∧ b ∈ t.dev.nvme.failed ∧ t = { s with dev := s.dev.nvFail b }) ∧
  (∀ (s : State), s.dev.nvme.reqs.any (fun r => r.kind == 3) = false → ∃ t, exec (.nsDrainReset) s = .next t ∧ t = { s with dev := { s.dev with hide := { s.dev.hide with drainPtr := 0 }, rdata := 0 } }) ∧
  (∀ (n : Nat) (g : Bytes) (gs : List Bytes) (s : State), s.dev.rd R.CS_CTRL_DEST n = 1 ∧ (s.dev.stream n).segs = g :: gs ∧ (s.dev.stream n).sent ≠ 0 → ∃ t, exec (.captureSegmentDrain n) s = .next t ∧ (t.dev.stream n).segs = gs ∧ (t.dev.stream n).sent = (s.dev.stream n).sent - 1) ∧
  (∀ (r : NvReq) (s : State), s.dev.nvme.reqs = [r] ∧ r.kind = 2 ∧ s.dev.nvme.ctrls = [] → ∃ t, exec (.extentCopyDone) s = .next t ∧ t.dev.nvme.reqs = [] ∧ t.dev.on R.NV_STATUS_SNAP_BUSY = false ∧ (∀ b, s.dev.nsEntry r.ns = some b → (SMap.getD t.dev.nvme.snaps r.ns {}).used = (SMap.getD s.dev.nvme.snaps r.ns {}).used + 1 ∧ extShared (t.dev.extEntry (nsBase b + r.ext)) = false) ∧ RegsBut s.dev t.dev [R.NV_STATUS_SNAP_BUSY.key 0 0 0]) ∧
  (∀ (s : State), s.dev.nvme.reqs = [] → ∃ t, exec (.extentCopyDone) s = .next t ∧ t = s)

/-- Fabric ports pass their states; frames are delivered, forwarded or discarded; TC 7 frames are held, resent and released. An enabled port leaves OFF for TRAIN while FB_CTRL.EN is set; TRAIN_DONE takes it to HELLO, a loss of lock back to TRAIN. An acknowledged HELLO takes the peer's address, port and UID and goes to UP, to FOREIGN with another FB_ID, to LOOPED with the own UID; UP shows in PORTS_UP. A port that leaves UP by loss of lock or 30 us without HELLO drops its bit, counts and raises class 11. HELLO_PERIOD sends a HELLO. A frame with a bad header counts FB_HDR_ERR and does no more; a good IRA frame for the own address is delivered; one for another address enters the queue of its picked port with HOPS raised, or at 16 HOPS is discarded and counted. An ACK releases the held frames up to its LSEQ; a held frame 2 us old is sent again. (13_werik_fabric.md R322, R323, R324, R325, R326, R328, R329, R331.) -/
def Obligations.FabricLinksAndFrames : Prop :=
  (∀ (req p : Nat) (s : State), s.dev.fabOn = true ∧ s.dev.on R.FB_CTRL_EN = true ∧ s.dev.fabState p = 0 → ∃ t, exec (.fabricPortEnable req p) s = .next t ∧ t.dev.on R.FP_CTRL p = true ∧ t.dev.fabState p = 1 ∧ t.dev.on R.FP_STATUS_LINK_CHG p = true ∧ OnlyRegsTick s t [R.FP_CTRL.key p 0 0, R.FP_STATUS_LSTATE.key p 0 0, R.FP_STATUS_LINK_CHG.key p 0 0]) ∧
  (∀ (req p : Nat) (s : State), s.dev.fabOn = true ∧ s.dev.on R.FB_CTRL_EN = false ∧ s.dev.fabState p = 0 → ∃ t, exec (.fabricPortEnable req p) s = .next t ∧ t.dev.on R.FP_CTRL p = true ∧ t.dev.fabState p = 0 ∧ OnlyRegsTick s t [R.FP_CTRL.key p 0 0]) ∧
  (∀ (p : Nat) (s : State), s.dev.fabOn = true ∧ s.dev.fabState p = 1 → ∃ t, exec (.fabricTrainDone p) s = .next t ∧ t.dev.fabState p = 2 ∧ t.dev.on R.FP_STATUS_LINK_CHG p = true ∧ OnlyRegs s t [R.FP_STATUS_LSTATE.key p 0 0, R.FP_STATUS_LINK_CHG.key p 0 0]) ∧
  (∀ (p : Nat) (s : State), s.dev.fabOn = true ∧ s.dev.fabState p ≠ 1 → ∃ t, exec (.fabricTrainDone p) s = .next t ∧ t = s) ∧
  (∀ (p : Nat) (s : State), s.dev.fabOn = true ∧ s.dev.fabState p = 2 → ∃ t, exec (.fabricLockLoss p) s = .next t ∧ t.dev.fabState p = 1 ∧ t.dev.on R.FP_STATUS_LINK_CHG p = true ∧ OnlyRegs s t [R.FP_STATUS_LSTATE.key p 0 0, R.FP_STATUS_LINK_CHG.key p 0 0]) ∧
  (∀ (p : Nat) (s : State), s.dev.fabOn = true ∧ s.dev.fabUp p = true ∧ p < 8 → ∃ t, exec (.fabricLockLoss p) s = .next t ∧ t.dev.fabState p = 1 ∧ bit (t.dev.rd R.FB_STATUS_PORTS_UP) p = false ∧ (t.dev.fabPort p).held = [] ∧ (t.dev.fabPort p).queues = [] ∧ t.dev.rd R.FP_LINK_DOWN p = (s.dev.rd R.FP_LINK_DOWN p + 1) % 2 ^ 64 ∧ ⟨11, srcNum 0x1A p, 0⟩ ∈ t.dev.tk.sampled) ∧
  (∀ (p : Nat) (b : Bytes) (s : State), s.dev.fabOn = true ∧ s.dev.fabState p = 2 ∧ byteAt b 0 = 1 ∧ p < 8 → ∃ t, exec (.hello p b true) s = .next t ∧ (t.dev.fabState p = if le16 b 2 = s.dev.rd R.FB_ID then (if leNat (slice b 8 16) = ownUid then 6 else 4) else 5) ∧ t.dev.rd R.FP_STATUS_PEER_ADDR p = le16 b 4 % 2 ^ 12 ∧ t.dev.rd R.FP_STATUS_PEER_PORT p = byteAt b 1 % 2 ^ 3 ∧ t.dev.peerUid p = leNat (slice b 8 16) ∧ (bit (t.dev.rd R.FB_STATUS_PORTS_UP) p = if t.dev.fabState p = 4 then true else bit (s.dev.rd R.FB_STATUS_PORTS_UP) p)) ∧
  (∀ (p : Nat) (b : Bytes) (s : State), s.dev.fabOn = true ∧ s.dev.fabState p = 2 ∧ byteAt b 0 = 1 → ∃ t, exec (.hello p b false) s = .next t ∧ t.dev.fabState p = 2 ∧ (t.dev.fabPort p).hello = s.dev.cyc) ∧
  (∀ (p : Nat) (s : State), s.dev.fabOn = true ∧ s.dev.helloing p = true → ∃ t, exec (.helloPeriod p) s = .next t ∧ t.dev.fab.wire = s.dev.fab.wire ++ [(p, fabSeal 0 true (fabFrame 1 0 0 s.dev.fabAddr 0 0 ([1#8, BitVec.ofNat 8 p] ++ leBytes 2 (s.dev.rd R.FB_ID) ++ leBytes 2 s.dev.fabAddr ++ [BitVec.ofNat 8 s.dev.fabCaps, BitVec.ofNat 8 (s.dev.rd R.TB_STATUS_STATE)] ++ Config.uid)))] ∧ RegsBut s.dev t.dev [R.FP_TX_FRAMES.key p 0 0, R.FP_TX_OCTETS.key p 0 0]) ∧
  (∀ (p : Nat) (s : State), s.dev.fabOn = true ∧ s.dev.fabUp p = true ∧ p < 8 ∧ (s.dev.fabPort p).hello + 30000 < s.dev.cyc + 8 → ∃ t, exec (.helloTimeout p) s = .next t ∧ t.dev.fabState p = 2 ∧ bit (t.dev.rd R.FB_STATUS_PORTS_UP) p = false) ∧
  (∀ (p : Nat) (s : State), s.dev.cyc + 8 ≤ (s.dev.fabPort p).hello + 30000 → ∃ t, exec (.helloTimeout p) s = .next t ∧ t = s) ∧
  (∀ (p : Nat) (raw : Bytes) (s : State), s.dev.fabOn = true ∧ s.dev.helloing p = true ∧ s.dev.stopped 0x1A = false → fabHdrBad raw = true → ∃ t, exec (.fabricFrameReceive p raw) s = .next t ∧ t.dev.rd R.FB_HDR_ERR = (s.dev.rd R.FB_HDR_ERR + 1) % 2 ^ 64 ∧ t.dev.rd R.FP_RX_FRAMES p = (s.dev.rd R.FP_RX_FRAMES p + 1) % 2 ^ 64 ∧ t.dev.rd R.FP_RX_OCTETS p = (s.dev.rd R.FP_RX_OCTETS p + raw.length) % 2 ^ 64 ∧ OnlyRegs s t [R.FB_HDR_ERR.key 0 0 0, R.FP_RX_FRAMES.key p 0 0, R.FP_RX_OCTETS.key p 0 0]) ∧
  (∀ (p : Nat) (raw : Bytes) (s : State), s.dev.fabOn = true ∧ s.dev.fabUp p = true ∧ s.dev.stopped 0x1A = false → fabHdrBad raw = false ∧ fabFcsGood raw = true ∧ fabType raw = 3 ∧ fabTc raw ≠ 7 → fabDst raw = s.dev.fabAddr ∧ fabDst raw ≠ 0 ∧ fabDst raw ≠ 0xFFF → ∃ t, exec (.fabricFrameReceive p raw) s = .next t ∧ t.dev.ira.inbox = s.dev.ira.inbox ++ [⟨0, some (fabSrc raw), fabPayload raw⟩] ∧ t.dev.rd R.FB_LOCAL_RX = (s.dev.rd R.FB_LOCAL_RX + 1) % 2 ^ 64 ∧ RegsBut s.dev t.dev [R.FB_LOCAL_RX.key 0 0 0, R.FP_RX_FRAMES.key p 0 0, R.FP_RX_OCTETS.key p 0 0]) ∧
  (∀ (p q : Nat) (raw : Bytes) (s : State), s.dev.fabOn = true ∧ s.dev.fabUp p = true ∧ s.dev.stopped 0x1A = false → fabHdrBad raw = false ∧ fabFcsGood raw = true ∧ fabType raw = 3 ∧ fabTc raw ≠ 7 → fabDst raw ≠ s.dev.fabAddr ∧ fabDst raw ≠ 0xFFF ∧ fabHops raw < 16 ∧ s.dev.fabPick (fabSrc raw) (fabDst raw) (fabEntropy raw) = some q → s.dev.fabRoom q (fabTc raw) (raw.length - 4) = true → ∃ t, exec (.fabricFrameReceive p raw) s = .next t ∧ t.dev.fabQueue q (fabTc raw) = s.dev.fabQueue q (fabTc raw) ++ [raw.take 6 ++ [BitVec.ofNat 8 (fabHops raw + 1)] ++ (raw.take (raw.length - 4)).drop 7] ∧ t.dev.ira = s.dev.ira ∧ t.dev.fab.objIn = s.dev.fab.objIn) ∧
  (∀ (p : Nat) (raw : Bytes) (s : State), s.dev.fabOn = true ∧ s.dev.fabUp p = true ∧ s.dev.stopped 0x1A = false → fabHdrBad raw = false ∧ fabType raw = 3 ∧ fabTc raw ≠ 7 → fabDst raw ≠ s.dev.fabAddr ∧ fabDst raw ≠ 0xFFF ∧ fabHops raw = 16 → ∃ t, exec (.fabricFrameReceive p raw) s = .next t ∧ t.dev.rd R.FB_HOP_EXCEED = (s.dev.rd R.FB_HOP_EXCEED + 1) % 2 ^ 64 ∧ t.dev.fab = s.dev.fab) ∧
  (∀ (p n : Nat) (s : State), s.dev.fabOn = true ∧ s.dev.fabUp p = true → ∃ t, exec (.fabricAck p n) s = .next t ∧ ((t.dev.fabPort p).held = (s.dev.fabPort p).held.filter (fun h => !decide ((n + 65536 - h.lseq) % 65536 < 32768))) ∧ t.dev.regs = s.dev.regs ∧ t.dev.fab.wire = s.dev.fab.wire ∧ t.dev.tk = s.dev.tk) ∧
  (∀ (p : Nat) (h : FabHeld) (s : State), s.dev.fabOn = true ∧ s.dev.fabUp p = true ∧ (s.dev.fabPort p).held = [h] ∧ h.sent + 2000 < s.dev.cyc + 8 → ∃ t, exec (.tc7Resend p) s = .next t ∧ t.dev.fab.wire = s.dev.fab.wire ++ [(p, fabSeal h.lseq true h.bytes)] ∧ t.dev.rd R.FP_TC7_RESEND p = (s.dev.rd R.FP_TC7_RESEND p + 1) % 2 ^ 64 ∧ ∃ n, (t.dev.fabPort p).held = [{ h with sent := n }]) ∧
  (∀ (p : Nat) (s : State), s.dev.fabUp p = false → ∃ t, exec (.tc7Resend p) s = .next t ∧ t = s)

/-- LSAs, addresses and routes change the fabric database; SYNC, DELAY and REPLY measure offset and delay on the parent port. A new or newer LSA is stored; one of the same number changes nothing. Originating raises the sequence number and stores the own LSA; LSAs older than 4 s expire. An ADDR message is noted once, and gives a dynamic device without one its address. Installing routes writes every MASK from the database, shows the tree ports and raises class 11, local 8; with ROUTE_SW the masks stay. A MASK write takes effect with ROUTE_SW, else it is refused. SYNC_PERIOD sends one SYNC on each UP port, numbered in turn. A SYNC on the parent port stores t1 to t3 and is answered by a DELAY with t3, elsewhere it does nothing; a DELAY is answered by a REPLY with t4; the REPLY of the exchange sets FP_THETA and FP_DELAY, and with another STEP_GEN its sample is discarded and counted. (13_werik_fabric.md R330, R331, R333, R335, R337, R338, R340, R341.) -/
def Obligations.FabricDatabaseRoutesAndTime : Prop :=
  (∀ (p : Nat) (b : Bytes) (s : State), s.dev.fabOn = true ∧ s.dev.fabUp p = true → s.dev.lsaOf (lsaUid b) = none → ∃ t, exec (.lsa p b) s = .next t ∧ t.dev.lsaOf (lsaUid b) = some ⟨lsaUid b, b, lsaSeq b, s.dev.cyc⟩ ∧ (∀ u, u ≠ lsaUid b → t.dev.lsaOf u = s.dev.lsaOf u)) ∧
  (∀ (p : Nat) (b : Bytes) (l : FabLsa) (s : State), s.dev.fabOn = true ∧ s.dev.fabUp p = true → s.dev.lsaOf (lsaUid b) = some l ∧ serialNewer (lsaSeq b) l.seq = true → ∃ t, exec (.lsa p b) s = .next t ∧ t.dev.lsaOf (lsaUid b) = some ⟨lsaUid b, b, lsaSeq b, s.dev.cyc⟩) ∧
  (∀ (p : Nat) (b : Bytes) (l : FabLsa) (s : State), s.dev.fabOn = true ∧ s.dev.fabUp p = true → s.dev.lsaOf (lsaUid b) = some l ∧ l.seq = lsaSeq b → ∃ t, exec (.lsa p b) s = .next t ∧ t = s) ∧
  (∀ (n : Nat) (s : State), s.dev.fabOn = true ∧ s.dev.on R.FB_CTRL_EN = true → n = ((match s.dev.lsaOf ownUid with | some l => l.seq | none => s.dev.fab.ownSeq) + 1) % 2 ^ 32 → ∃ t, exec (.lsaOriginate) s = .next t ∧ t.dev.fab.ownSeq = n ∧ t.dev.lsaOf (lsaUid (s.dev.ownLsa n)) = some ⟨lsaUid (s.dev.ownLsa n), s.dev.ownLsa n, lsaSeq (s.dev.ownLsa n), s.dev.cyc⟩) ∧
  (∀ (s : State), ∃ t, exec (.lsaExpire) s = .next t ∧ (t.dev.fab.lsdb = s.dev.fab.lsdb.filter (fun l => decide (s.dev.cyc < l.cyc + 4 * 10 ^ 9)))) ∧
  (∀ (p u a : Nat) (s : State), s.dev.fabOn = true ∧ s.dev.fabUp p = true ∧ (u, a) ∉ s.dev.fab.given → ∃ t, exec (.addr p u a) s = .next t ∧ (u, a) ∈ t.dev.fab.given ∧ t.dev.fab.lsdb = s.dev.fab.lsdb ∧ (u = ownUid → s.dev.on R.FB_CTRL_ADDR_MODE = false → s.dev.fabAddr = 0 → t.dev.fabAddr = a % 2 ^ R.FB_ADDR_ADDR.width)) ∧
  (∀ (p u a : Nat) (s : State), (u, a) ∈ s.dev.fab.given → ∃ t, exec (.addr p u a) s = .next t ∧ t = s) ∧
  (∀ (s : State), s.dev.fabOn = true ∧ s.dev.on R.FB_CTRL_EN = true ∧ s.dev.on R.FB_CTRL_ROUTE_SW = false → ∃ t, exec (.routeInstall) s = .next t ∧ ⟨11, srcNum 0x1A 8, 0⟩ ∈ t.dev.tk.sampled ∧ t.dev.rd R.FB_BCAST_PORTS = s.dev.bcastPorts % 2 ^ R.FB_BCAST_PORTS.width ∧ (∀ a, (∀ l, l ∈ s.dev.fab.lsdb → l.addr ≠ a) → t.dev.rd R.RT_ENTRY_MASK a = 0) ∧ (∀ o l, s.dev.fab.lsdb = [o, l] → o.uid = ownUid → l.uid ≠ ownUid → l.addr ≠ 0 → t.dev.rd R.RT_ENTRY_MASK l.addr = s.dev.routeMask l.uid % 2 ^ 8)) ∧
  (∀ (s : State), s.dev.fabOn = true ∧ s.dev.on R.FB_CTRL_EN = true ∧ s.dev.on R.FB_CTRL_ROUTE_SW = true → ∃ t, exec (.routeInstall) s = .next t ∧ (∀ a, t.dev.rd R.RT_ENTRY_MASK a = s.dev.rd R.RT_ENTRY_MASK a) ∧ t.dev.rd R.FB_BCAST_PORTS = s.dev.bcastPorts % 2 ^ R.FB_BCAST_PORTS.width) ∧
  (∀ (req a mask : Nat) (s : State), s.dev.fabOn = true ∧ s.dev.on R.FB_CTRL_ROUTE_SW = true ∧ s.dev.tk.wrote = [] → ∃ t, exec (.rtEntryWrite req a mask) s = .next t ∧ t.dev.rd R.RT_ENTRY_MASK a = mask % 2 ^ 8 ∧ OnlyRegsTick s t [R.RT_ENTRY_MASK.key a 0 0]) ∧
  (∀ (req a mask : Nat) (s : State), s.dev.fabOn = true ∧ s.dev.on R.FB_CTRL_ROUTE_SW = false → ∃ t, exec (.rtEntryWrite req a mask) s = .next t ∧ t.dev.on R.FB_STATUS_WR_REFUSED = true ∧ OnlyRegsTick s t [R.FB_STATUS_WR_REFUSED.key 0 0 0]) ∧
  (∀ (es : List Nat) (te tv : Nat) (s : State), s.dev.fabOn = true → ∃ t, exec (.syncPeriod es te tv) s = .next t ∧ t.dev.fab.num = (s.dev.fab.num + 1) % 256 ∧ (t.dev.fab.wire = s.dev.fab.wire ++ s.dev.fabUps.map (fun p => (p, fabSeal 0 true (fabFrame 1 0 0 s.dev.fabAddr 0 0 (s.dev.syncMsg 2 s.dev.fab.num (fabTxStamp p (es.getD p 0) te tv))))))) ∧
  (∀ (p td e po tm te tv : Nat) (b : Bytes) (s : State), s.dev.fabOn = true ∧ s.dev.fabUp p = true ∧ s.dev.on R.FB_TIME_PARENT_V = true ∧ s.dev.rd R.FB_TIME_PARENT = p → ∃ t, exec (.sync p b td e po tm te tv) s = .next t ∧ t.dev.fab.exch = some { num := byteAt b 1, gen := le16 b 2, own := s.dev.rd R.TB_STATUS_STEP_GEN, t1 := time96Of12 (slice b 4 12), t2 := fabRxStamp p td e po, t3 := fabTxStamp p tm te tv, port := p } ∧ t.dev.fab.wire = s.dev.fab.wire ++ [(p, fabSeal 0 true (fabFrame 1 0 0 s.dev.fabAddr 0 0 (s.dev.syncMsg 3 (byteAt b 1) (fabTxStamp p tm te tv))))]) ∧
  (∀ (p td e po tm te tv : Nat) (b : Bytes) (s : State), s.dev.on R.FB_TIME_PARENT_V = false ∨ s.dev.rd R.FB_TIME_PARENT ≠ p → ∃ t, exec (.sync p b td e po tm te tv) s = .next t ∧ t = s) ∧
  (∀ (p td e po : Nat) (b : Bytes) (s : State), s.dev.fabOn = true ∧ s.dev.fabUp p = true → ∃ t, exec (.delay p b td e po) s = .next t ∧ t.dev.fab.wire = s.dev.fab.wire ++ [(p, fabSeal 0 true (fabFrame 1 0 0 s.dev.fabAddr 0 0 (s.dev.syncMsg 4 (byteAt b 1) (fabRxStamp p td e po))))] ∧ RegsBut s.dev t.dev [R.FP_TX_FRAMES.key p 0 0, R.FP_TX_OCTETS.key p 0 0]) ∧
  (∀ (p : Nat) (b : Bytes) (x : FabExch) (s : State), s.dev.fabOn = true ∧ s.dev.fabUp p = true ∧ s.dev.fab.exch = some x ∧ byteAt b 1 = x.num ∧ x.port = p → s.dev.rd R.TB_CTRL_SRC ≠ 2 → ∃ t, exec (.reply p b) s = .next t ∧ t.dev.rd R.FP_THETA p = twos 64 (fabTheta x.t1 x.t2 x.t3 (time96Of12 (slice b 4 12)) (signed 32 (s.dev.rd R.FP_ASYM p))) % 2 ^ 64 ∧ t.dev.rd R.FP_DELAY p = twos 64 (fabDelay x.t1 x.t2 x.t3 (time96Of12 (slice b 4 12))) % 2 ^ 64 ∧ t = { s with dev := { s.dev with regs := t.dev.regs, fab := { s.dev.fab with exch := none } } } ∧ RegsBut s.dev t.dev [R.FP_THETA.key p 0 0, R.FP_DELAY.key p 0 0]) ∧
  (∀ (p : Nat) (b : Bytes) (x : FabExch) (s : State), s.dev.fabOn = true ∧ s.dev.fabUp p = true ∧ s.dev.fab.exch = some x ∧ byteAt b 1 = x.num ∧ x.port = p → s.dev.rd R.TB_CTRL_SRC = 2 ∧ le16 b 2 ≠ x.gen → ∃ t, exec (.reply p b) s = .next t ∧ t.dev.rd R.TB_SAMPLE_DISCARD = min (s.dev.rd R.TB_SAMPLE_DISCARD + 1) (2 ^ R.TB_SAMPLE_DISCARD.width - 1) ∧ t.dev.fab.exch = none) ∧
  (∀ (p : Nat) (b : Bytes) (s : State), s.dev.fab.exch = none → ∃ t, exec (.reply p b) s = .next t ∧ t = s)

/-- DONE, the watchdog, recovery, fuse commands and releases follow chapter 15. A key revocation blows the bit of its slot only when its key and signature verify and the fuse supply stands; its status says which failed. An SVN commit below the fused version or above 64 is 0302h, an equal one succeeds, a higher one is blown only if the running bundle and slot B carry it; nothing else blows. DONE of a hart of cluster 0 ends the boot: DONE, the ball, BOOT_ERR 0, no skip mark; any other writer has no effect. The watchdog after 1,000 ms marks the slot and asks for a cold reset with cause 5, or with a skipped slot halts with Fh and stops the clusters. GO starts a recovery with a valid address and length, else sets REFUSED, and does nothing without recovery. A release by a core hart, PF0 or the enclave acts at the tick boundary: the released bit sets if every condition of R389 holds, else the first cause is recorded. Others have no effect. (15_boot_and_secure_start.md R378, R379, R384, R385, R389.) -/
def Obligations.BootEndsRecoversAndReleases : Prop :=
  (∀ (data : Bytes) (s : State), ∃ t, exec (.keyRevoke data) s = .next t ∧ (let k := byteAt data 0; let pk := slice data 1 57; let ok := decide (k ≤ 3) && !(s.fuse.keySlots pk).isEmpty && Config.ed448Verify pk (ascii "IH-REVOKE-1") (Config.uid ++ [BitVec.ofNat 8 k] ++ leBytes 1 s.fuse.revokedMask) (slice data 58 114); t.dev.rdata = if ok then (if s.fuse.keyRevoked k || s.dev.pins.fuseOk then 0 else 0x0402) else 0x0302) ∧ (let k := byteAt data 0; let pk := slice data 1 57; let ok := decide (k ≤ 3) && !(s.fuse.keySlots pk).isEmpty && Config.ed448Verify pk (ascii "IH-REVOKE-1") (Config.uid ++ [BitVec.ofNat 8 k] ++ leBytes 1 s.fuse.revokedMask) (slice data 58 114); t.fuse = if ok && !s.fuse.keyRevoked k && s.dev.pins.fuseOk then { s.fuse with revoked := setBit s.fuse.revoked k true } else s.fuse) ∧ t = { s with fuse := t.fuse, dev := { s.dev with tk := t.dev.tk, rdata := t.dev.rdata, rbytes := [] } }) ∧
  (∀ (v : Nat) (s : State), 64 < v ∨ v < s.fuse.svn → ∃ t, exec (.svnCommit v) s = .next t ∧ t = { s with dev := { s.dev with rdata := 0x0302, rbytes := [] } }) ∧
  (∀ (v : Nat) (s : State), v = s.fuse.svn ∧ v ≤ 64 → ∃ t, exec (.svnCommit v) s = .next t ∧ t.dev.rdata = 0 ∧ t.fuse = s.fuse) ∧
  (∀ (v : Nat) (s : State), s.fuse.svn < v ∧ v ≤ 64 → ∃ t, exec (.svnCommit v) s = .next t ∧ (t.fuse = if decide (v ≤ bundleSvn s.dev.boot.header) && s.dev.slotVerifies s.fuse s.dev.flash.b && decide (v ≤ bundleSvn (slice s.dev.flash.b 0 4096)) && s.dev.pins.fuseOk then { s.fuse with svn := v } else s.fuse) ∧ (t.dev.rdata = if decide (v ≤ bundleSvn s.dev.boot.header) && s.dev.slotVerifies s.fuse s.dev.flash.b && decide (v ≤ bundleSvn (slice s.dev.flash.b 0 4096)) then (if s.dev.pins.fuseOk then 0 else 0x0402) else 0x0401)) ∧
  (∀ (req : Nat) (s : State), isHart req = true ∧ reqIsland req = 0x0D ∧ s.dev.on R.CLU_STATUS_RELEASED 0 = true ∧ s.dev.on R.BT_STATUS_DONE = false → ∃ t, exec (.done req) s = .next t ∧ t.dev.on R.BT_STATUS_DONE = true ∧ t.dev.rd R.BT_STATUS_BOOT_ERR = 0 ∧ t.dev.pins = { s.dev.pins with bootDone := true, bootErr := 0 } ∧ t.dev.mram = { s.dev.mram with skip := none } ∧ t.dev.boot = { s.dev.boot with since := none } ∧ RegsBut s.dev t.dev [R.BT_CTRL.key 0 0 0, R.BT_STATUS_DONE.key 0 0 0, R.BT_STATUS_BOOT_ERR.key 0 0 0, R.RC_STATUS_CODE.key 0 0 0]) ∧
  (∀ (req : Nat) (s : State), isHart req = false ∨ s.dev.on R.BT_STATUS_DONE = true → ∃ t, exec (.done req) s = .next t ∧ t = s) ∧
  (∀ (n : Nat) (s : State), s.dev.boot.since = some n ∧ n + 125000000 ≤ s.dev.tk.etick ∧ s.dev.on R.BT_STATUS_SKIPPED = false → ∃ t, exec (.bootWatchdog) s = .next t ∧ t = { s with dev := { s.dev with mram := { s.dev.mram with skip := some (s.dev.rd R.BT_STATUS_SLOT) }, rst := { s.dev.rst with cold := some 5 } } }) ∧
  (∀ (n : Nat) (s : State), s.dev.boot.since = some n ∧ n + 125000000 ≤ s.dev.tk.etick ∧ s.dev.on R.BT_STATUS_SKIPPED = true → ∃ t, exec (.bootWatchdog) s = .next t ∧ t.dev.rd R.BT_STATUS_BOOT_ERR = 0xF ∧ t.dev.pins.bootErr = 0xF ∧ t.dev.boot.halted = true ∧ t.dev.mram = s.dev.mram ∧ (∀ c, c < 8 → t.dev.on R.CLU_STATUS_RELEASED c = false)) ∧
  (∀ (s : State), s.dev.boot.since = none → ∃ t, exec (.bootWatchdog) s = .next t ∧ t = s) ∧
  (∀ (b : Bool) (s : State), s.dev.recovery = true ∧ s.dev.on R.RC_STATUS_BUSY = false ∧ s.dev.on R.FN_INFO_BME 0 = true → s.dev.rd R.RC_ADDR % 4096 = 0 ∧ 4096 ≤ s.dev.rd R.RC_LEN ∧ s.dev.rd R.RC_LEN ≤ 64 * 2 ^ 20 → ∃ t, exec (.go b) s = .next t ∧ t.dev.on R.RC_STATUS_BUSY = true ∧ t.dev.on R.RC_CTRL_PROGRAM = b ∧ OnlyRegs s t [R.RC_STATUS_BUSY.key 0 0 0, R.RC_CTRL_PROGRAM.key 0 0 0]) ∧
  (∀ (b : Bool) (s : State), s.dev.recovery = true → s.dev.on R.RC_STATUS_BUSY = true ∨ s.dev.on R.FN_INFO_BME 0 = false ∨ s.dev.rd R.RC_ADDR % 4096 ≠ 0 ∨ s.dev.rd R.RC_LEN < 4096 ∨ 64 * 2 ^ 20 < s.dev.rd R.RC_LEN → ∃ t, exec (.go b) s = .next t ∧ t.dev.on R.RC_STATUS_REFUSED = true ∧ OnlyRegs s t [R.RC_STATUS_REFUSED.key 0 0 0]) ∧
  (∀ (b : Bool) (s : State), s.dev.recovery = false → ∃ t, exec (.go b) s = .next t ∧ t = s) ∧
  (∀ (req c : Nat) (s : State), mayRelease req = true ∧ s.dev.clPresent c = true ∧ c ≠ 0 → ∃ t, exec (.clRelease req c) s = .next t ∧ t = { s with dev := { s.dev with tk := { s.dev.tk with sampled := s.dev.tk.sampled ++ [⟨9, srcNum (reqIsland req) 0, 1⟩], acts := s.dev.tk.acts ++ [⟨9, srcNum (reqIsland req) 0, .clRelease c⟩] } } }) ∧
  (∀ (req c : Nat) (s : State), mayRelease req = false → ∃ t, exec (.clRelease req c) s = .next t ∧ t = s) ∧
  (∀ (req c : Nat) (s : State), mayRelease req = true ∧ s.dev.svPresent c = true → ∃ t, exec (.svRelease req c) s = .next t ∧ t = { s with dev := { s.dev with tk := { s.dev.tk with sampled := s.dev.tk.sampled ++ [⟨9, srcNum (reqIsland req) 0, 1⟩], acts := s.dev.tk.acts ++ [⟨9, srcNum (reqIsland req) 0, .svRelease c⟩] } } }) ∧
  (∀ (req c : Nat) (s : State), mayRelease req = false → ∃ t, exec (.svRelease req c) s = .next t ∧ t = s) ∧
  (∀ (c : Nat) (d : Dev), (d.clCause c = 0 → (d.clRelease c).on R.CLU_STATUS_RELEASED c = true) ∧ (d.clCause c ≠ 0 → (d.clRelease c).on R.CLU_STATUS_REL_REFUSED c = true ∧ (d.clRelease c).rd R.CLU_STATUS_CAUSE c = d.clCause c % 2 ^ R.CLU_STATUS_CAUSE.width ∧ (d.clRelease c).rd R.CLU_STATUS_RELEASED c = d.rd R.CLU_STATUS_RELEASED c)) ∧
  (∀ (c : Nat) (d : Dev), (d.svCause c = 0 → (d.svRelease c).on R.SV_STATUS_RELEASED c = true) ∧ (d.svCause c ≠ 0 → (d.svRelease c).on R.SV_STATUS_REL_REFUSED c = true ∧ (d.svRelease c).rd R.SV_STATUS_CAUSE c = d.svCause c % 2 ^ R.SV_STATUS_CAUSE.width ∧ (d.svRelease c).rd R.SV_STATUS_RELEASED c = d.rd R.SV_STATUS_RELEASED c))

/-- Firmware is transferred, verified, promoted, staged and switched; transfers are abandoned; defaults are restored. A transfer without a segment for 1 s ends. RESTORE_DEFAULTS marks the objects. FW_IMAGE is busy while slot A is being erased; its first segment begins the erase if slot B verifies, and conflicts during a hitless update; later segments join the transfer and the last one fills slot A. FW_VERIFY reports whether slot A verifies (stage 3, else 4 with the reject cause). FW_PROMOTE copies slot A to slot B only when the running image came from slot A. FW_HITLESS needs stage 3; with every component copied and checked it stages the update (state 1), else the image is rejected. HU_SWITCH in state 1 goes over to the staged bundle and asks for the reset of G4 (state 2); HU_COMMIT frees the fallback (3); HU_ROLLBACK, and 1,000 ms without commit, return to it (4). A command in another state is a conflict with the state as data. (14_object_dictionary.md R359, R370, R371, R372; 17_power_and_faults.md R435, R436.) -/
def Obligations.FirmwareIsWrittenAndSwitched : Prop :=
  (∀ (i j : Nat) (x : ObjXfer) (s : State), s.dev.xfer i j = some x ∧ x.tick + 125000000 ≤ s.dev.tk.etick → ∃ t, exec (.transferAbandon i j) s = .next t ∧ (t = { s with dev := { s.dev with obj := { s.dev.obj with xfers := s.dev.obj.xfers.filter (fun y => !(y.idx == i && y.sub == j)) } } })) ∧
  (∀ (i j : Nat) (x : ObjXfer) (s : State), s.dev.xfer i j = some x ∧ s.dev.tk.etick < x.tick + 125000000 → ∃ t, exec (.transferAbandon i j) s = .next t ∧ t = s) ∧
  (∀ (s : State), ∃ t, exec (.restoreDefaults) s = .next t ∧ t = { s with dev := { s.dev with mram := { s.dev.mram with marks := markedKeys }, tk := { s.dev.tk with sampled := s.dev.tk.sampled ++ [⟨10, 0x003F, 0⟩] }, rdata := 0, rbytes := [] } }) ∧
  (∀ (who off : Nat) (b : Bytes) (last : Bool) (s : State), s.dev.obj.erasing = true → ∃ t, exec (.fwImage who off b last) s = .next t ∧ t = { s with dev := { s.dev with rdata := 0x0402, rbytes := [] } }) ∧
  (∀ (who : Nat) (b : Bytes) (last : Bool) (s : State), s.dev.obj.erasing = false ∧ s.dev.xfer 0x7F00 1 = none → s.dev.rd R.HU_STATE = 1 ∨ s.dev.rd R.HU_STATE = 2 → ∃ t, exec (.fwImage who 0 b last) s = .next t ∧ t = { s with dev := { s.dev with rdata := 0x0401, rbytes := [] } }) ∧
  (∀ (who : Nat) (b : Bytes) (s : State), s.dev.obj.erasing = false ∧ s.dev.xfer 0x7F00 1 = none ∧ b.length ≤ 64 * 2 ^ 20 → s.dev.rd R.HU_STATE ≠ 1 ∧ s.dev.rd R.HU_STATE ≠ 2 → ∃ t, exec (.fwImage who 0 b false) s = .next t ∧ (t.dev.rdata = if s.dev.slotVerifies s.fuse s.dev.flash.b then 0 else 0x0401) ∧ t.dev.obj.erasing = s.dev.slotVerifies s.fuse s.dev.flash.b ∧ (t.dev.flash.a = (if s.dev.slotVerifies s.fuse s.dev.flash.b then [] else s.dev.flash.a) ∧ t.dev.flash.b = s.dev.flash.b)) ∧
  (∀ (who off : Nat) (b : Bytes) (x : ObjXfer) (s : State), s.dev.xfer 0x7F00 1 = some x ∧ x.who = who ∧ x.idx = 0x7F00 ∧ x.sub = 1 ∧ x.next = off ∧ off ≠ 0 ∧ s.dev.obj.erasing = false → x.part.length + b.length ≤ 64 * 2 ^ 20 → ∃ t, exec (.fwImage who off b false) s = .next t ∧ t.dev.rdata = 0 ∧ t.dev.flash = s.dev.flash ∧ ∃ y, t.dev.xfer 0x7F00 1 = some y ∧ y.part = x.part ++ b ∧ y.next = off + b.length ∧ y.who = who) ∧
  (∀ (who off : Nat) (b : Bytes) (x : ObjXfer) (s : State), s.dev.xfer 0x7F00 1 = some x ∧ x.who = who ∧ x.idx = 0x7F00 ∧ x.sub = 1 ∧ x.next = off ∧ off ≠ 0 ∧ s.dev.obj.erasing = false → x.part.length + b.length ≤ 64 * 2 ^ 20 → ∃ t, exec (.fwImage who off b true) s = .next t ∧ t.dev.rdata = 0 ∧ t.dev.flash = { s.dev.flash with a := x.part ++ b } ∧ t.dev.obj.fwStage = 2 ∧ t.dev.xfer 0x7F00 1 = none) ∧
  (∀ (s : State), ∃ t, exec (.flashEraseDone) s = .next t ∧ t = { s with dev := { s.dev with obj := { s.dev.obj with erasing := false } } }) ∧
  (∀ (s : State), s.dev.obj.erasing = true → ∃ t, exec (.fwVerify) s = .next t ∧ t = { s with dev := { s.dev with rdata := 0x0402, rbytes := [] } }) ∧
  (∀ (s : State), s.dev.obj.erasing = true → ∃ t, exec (.fwPromote) s = .next t ∧ t = { s with dev := { s.dev with rdata := 0x0402, rbytes := [] } }) ∧
  (∀ (s : State), s.dev.obj.erasing = true → ∃ t, exec (.fwHitless) s = .next t ∧ t = { s with dev := { s.dev with rdata := 0x0402, rbytes := [] } }) ∧
  (∀ (s : State), s.dev.obj.erasing = false → ∃ t, exec (.fwVerify) s = .next t ∧ (t.dev.rdata = if s.dev.slotVerifies s.fuse s.dev.flash.a then 0 else 0x0302) ∧ (t.dev.obj = { s.dev.obj with fwStage := if s.dev.slotVerifies s.fuse s.dev.flash.a then 3 else 4, fwReject := if s.dev.slotVerifies s.fuse s.dev.flash.a then 0 else slotResult (s.dev.allChecks s.fuse s.dev.flash.a) }) ∧ t.dev.flash = s.dev.flash ∧ t.dev.regs = s.dev.regs) ∧
  (∀ (s : State), s.dev.obj.erasing = false ∧ s.dev.rd R.BT_STATUS_SLOT = 0 ∧ s.dev.boot.header ≠ [] → ∃ t, exec (.fwPromote) s = .next t ∧ t.dev.rdata = 0 ∧ t.dev.flash = { s.dev.flash with b := s.dev.flash.a } ∧ t.dev.regs = s.dev.regs ∧ t.dev.obj = s.dev.obj) ∧
  (∀ (s : State), s.dev.obj.erasing = false ∧ (s.dev.rd R.BT_STATUS_SLOT ≠ 0 ∨ s.dev.boot.header = []) → ∃ t, exec (.fwPromote) s = .next t ∧ t = { s with dev := { s.dev with rdata := 0x0401, rbytes := leBytes 1 s.dev.obj.fwStage } }) ∧
  (∀ (s : State), s.dev.obj.erasing = false ∧ s.dev.obj.fwStage ≠ 3 → ∃ t, exec (.fwHitless) s = .next t ∧ t = { s with dev := { s.dev with rdata := 0x0401, rbytes := leBytes 1 s.dev.obj.fwStage } }) ∧
  (∀ (c : Bool × State) (h : Bytes) (s : State), s.dev.obj.erasing = false ∧ s.dev.obj.fwStage = 3 ∧ h = slice s.dev.flash.a 0 4096 ∧ s.dev.hitlessBad h = false → c = State.copyAll s.dev.flash.a h (bundleComps h).tail (s.onDev (fun d => d.measureHead h)) → ∃ t, exec (.fwHitless) s = .next t ∧ (t.dev.rdata = if c.1 then 0 else 0x0302) ∧ (c.1 = true → t.hbm = c.2.hbm ∧ t.dev.hu.staged = h ∧ t.dev.rd R.HU_STATE = 1) ∧ (c.1 = false → t.dev.obj.fwStage = 4 ∧ t.dev.rd R.HU_STATE = s.dev.rd R.HU_STATE) ∧ t.dev.flash = s.dev.flash) ∧
  (∀ (req : Nat) (s : State), s.dev.rd R.HU_STATE = 1 ∧ req ≠ 4149 ∧ 4 ∉ s.dev.rst.active → ∃ t, exec (.huSwitch req) s = .next t ∧ t.dev.rd R.HU_STATE = 2 ∧ t.dev.boot.header = s.dev.hu.staged ∧ t.dev.hu.header = s.dev.boot.header ∧ SMap.has t.dev.rst.asked 4 = true) ∧
  (∀ (req : Nat) (s : State), s.dev.rd R.HU_STATE = 2 ∧ req ≠ 4149 → ∃ t, exec (.huCommit req) s = .next t ∧ t.dev.rd R.HU_STATE = 3 ∧ t.dev.rd R.BT_STATUS_SLOT = 0 ∧ t.dev.hu = {} ∧ t.dev.boot.header = s.dev.boot.header ∧ t.dev.rst = s.dev.rst) ∧
  (∀ (req : Nat) (s : State), s.dev.rd R.HU_STATE = 2 ∧ req ≠ 4149 ∧ 4 ∉ s.dev.rst.active → ∃ t, exec (.huRollback req) s = .next t ∧ t.dev.rd R.HU_STATE = 4 ∧ t.dev.boot.header = s.dev.hu.header ∧ t.dev.hu = {} ∧ SMap.has t.dev.rst.asked 4 = true) ∧
  (∀ (n : Nat) (s : State), s.dev.rd R.HU_STATE = 2 ∧ s.dev.hu.since = some n ∧ n + 125000000 ≤ s.dev.tk.etick ∧ 4 ∉ s.dev.rst.active → ∃ t, exec (.huCommitTimeout) s = .next t ∧ t.dev.rd R.HU_STATE = 4 ∧ t.dev.boot.header = s.dev.hu.header ∧ t.dev.hu = {} ∧ SMap.has t.dev.rst.asked 4 = true) ∧
  (∀ (s : State), s.dev.hu.since = none → ∃ t, exec (.huCommitTimeout) s = .next t ∧ t = s) ∧
  (∀ (s : State), s.dev.rd R.HU_STATE ≠ 1 → ∃ t, exec (.huSwitch 4149) s = .next t ∧ t = { s with dev := { s.dev with rdata := 0x0401, rbytes := leBytes 1 (s.dev.rd R.HU_STATE) } }) ∧
  (∀ (s : State), s.dev.rd R.HU_STATE ≠ 2 → ∃ t, exec (.huCommit 4149) s = .next t ∧ t = { s with dev := { s.dev with rdata := 0x0401, rbytes := leBytes 1 (s.dev.rd R.HU_STATE) } }) ∧
  (∀ (s : State), s.dev.rd R.HU_STATE ≠ 2 → ∃ t, exec (.huRollback 4149) s = .next t ∧ t = { s with dev := { s.dev with rdata := 0x0401, rbytes := leBytes 1 (s.dev.rd R.HU_STATE) } })

/-- Enclave services act on admitted requests and answer in their slots; tests, errors, tamper and claims change the module. An admitted request (alone in the order, well formed, authenticated, of the level of Table 16.6) runs its service; the slot is then done, out of the order, and its buffer begins with code and status. ATTEST changes no record. MREG_EXTEND extends one register. RANDOM and RAW_ENTROPY return as many bytes as asked, the latter clearing APPROVED. KEY_IMPORT installs the unwrapped key or changes nothing (0601h); KEY_DESTROY removes a key not in use; BULK_KEYGEN makes a 32-byte key; BULK opens into the destination, or zeroes it when the tag fails. MKA_ICV and the SA services need their CAK and set or clear exactly their SA. SELF_TEST leaves OPERATIONAL; ZEROISE and JTAG_UNLOCK destroy the keys; SEAL_RESEAT clears SEAL_FAULT only with a verified seal that reads back. A challenge lives 60 s. TAMPER_ARM_PERM blows its fuse. Passed tests return to OPERATIONAL, failed ones and errors enter ERROR and end the services; 10 ms later G1 is reset, or at the third error in 600 s the device. Tamper zeroises, is recorded, and asks for a cold reset with cause 3. CLAIM and RELEASE act for the owner alone. (Data of wrong length or range is answered 0301h or 0302h.) (16_qorique_enclave.md R396, R397, R398, R399, R400, R403, R404, R405, R406, R407, R408, R409, R410, R411, R412, R413, R414, R415; 15_boot_and_secure_start.md R386.) -/
def Obligations.EnclaveServicesActAndAnswer : Prop :=
  (∀ (k : Nat) (x : SvcReq × State) (s : State), s.admits k 1 = some x → x.1.data.length = 34 → ∃ t, exec (.attest k) s = .next t ∧ t.dev.answers k 1 0 ∧ t.dev.mram = x.2.dev.mram ∧ t.hbm = s.hbm ∧ t.fuse = s.fuse) ∧
  (∀ (k : Nat) (x : SvcReq × State) (s : State), s.admits k 1 = some x → x.1.data.length ≠ 34 → ∃ t, exec (.attest k) s = .next t ∧ t.dev.answers k 1 0x0301) ∧
  (∀ (k : Nat) (x : SvcReq × State) (s : State), s.admits k 2 = some x → x.1.data.length = 71 ∧ 6 ≤ byteAt x.1.data 0 ∧ byteAt x.1.data 0 ≤ 15 → ∃ t, exec (.mregExtend k) s = .next t ∧ t.dev.answers k 2 0 ∧ t.dev.mreg (byteAt x.1.data 0) = Config.shake256 ([4#8] ++ s.dev.mreg (byteAt x.1.data 0) ++ leBytes 2 (le16 x.1.data 1) ++ leBytes 4 (le32 x.1.data 3) ++ slice x.1.data 7 64) 64 ∧ (∀ i, i ≠ byteAt x.1.data 0 → t.dev.mreg i = s.dev.mreg i)) ∧
  (∀ (k : Nat) (x : SvcReq × State) (s : State), s.admits k 3 = some x → x.1.data.length = 2 ∧ 1 ≤ le16 x.1.data 0 ∧ le16 x.1.data 0 ≤ 1024 → ∃ t, exec (.random k) s = .next t ∧ t.dev.answers k 3 0 ∧ slice (t.dev.esBuf k) 8 4 = leBytes 4 (le16 x.1.data 0)) ∧
  (∀ (k : Nat) (x : SvcReq × State) (s : State), s.admits k 3 = some x → x.1.data.length = 2 ∧ (le16 x.1.data 0 = 0 ∨ 1024 < le16 x.1.data 0) → ∃ t, exec (.random k) s = .next t ∧ t.dev.answers k 3 0x0302) ∧
  (∀ (k : Nat) (x : SvcReq × State) (s : State), s.admits k 0x00F2 = some x → x.1.data.length = 2 ∧ 1 ≤ le16 x.1.data 0 ∧ le16 x.1.data 0 ≤ 1024 → ∃ t, exec (.rawEntropy k) s = .next t ∧ t.dev.answers k 0x00F2 0 ∧ t.dev.on R.EN_STATUS_APPROVED = false ∧ slice (t.dev.esBuf k) 8 4 = leBytes 4 (le16 x.1.data 0)) ∧
  (∀ (k : Nat) (x : SvcReq × State) (s : State), s.admits k 0x0010 = some x → x.1.data.length = 1624 + le16 x.1.data 4 ∧ packageOk x.1.data = true ∧ x.2.dev.keyInUse (le16 x.1.data 0) (le16 x.1.data 2) = false → ∃ t, exec (.keyImport k) s = .next t ∧ (importKey x.1.data = none → t.dev.answers k 0x0010 0x0601 ∧ t.dev.mram.keyRec = x.2.dev.mram.keyRec ∧ t.dev.encl.keys = x.2.dev.encl.keys ∧ t.dev.encl.bulk = x.2.dev.encl.bulk) ∧ (∀ key, importKey x.1.data = some key → (le16 x.1.data 0 ≠ 3 ∨ slice key 0 32 ≠ slice key 32 32) → t.dev.answers k 0x0010 0 ∧ (le16 x.1.data 0 = 4 → SMap.get? t.dev.encl.bulk (le16 x.1.data 2) = some key) ∧ (le16 x.1.data 0 = 3 → SMap.get? t.dev.encl.keys (le16 x.1.data 2) = some key) ∧ (le16 x.1.data 0 = 1 → t.dev.keyRec 1 (le16 x.1.data 2) = some key ∧ t.dev.prinCtr (le16 x.1.data 2) = 0)) ∧ (∀ key, importKey x.1.data = some key → le16 x.1.data 0 = 3 → slice key 0 32 = slice key 32 32 → t.dev.answers k 0x0010 0x0302)) ∧
  (∀ (k : Nat) (x : SvcReq × State) (s : State), s.admits k 0x0011 = some x → x.1.data.length = 4 ∧ le16 x.1.data 2 < keyCount (le16 x.1.data 0) ∧ x.2.dev.keyInUse (le16 x.1.data 0) (le16 x.1.data 2) = false → ∃ t, exec (.keyDestroy k) s = .next t ∧ t.dev.answers k 0x0011 0 ∧ (if le16 x.1.data 0 = 4 then SMap.get? t.dev.encl.bulk (le16 x.1.data 2) = none else t.dev.keyRec (le16 x.1.data 0) (le16 x.1.data 2) = none)) ∧
  (∀ (k : Nat) (x : SvcReq × State) (s : State), s.admits k 0x0011 = some x → x.1.data.length = 4 ∧ le16 x.1.data 2 < keyCount (le16 x.1.data 0) ∧ x.2.dev.keyInUse (le16 x.1.data 0) (le16 x.1.data 2) = true → ∃ t, exec (.keyDestroy k) s = .next t ∧ t.dev.answers k 0x0011 0x0401 ∧ t.dev.mram.keyRec = x.2.dev.mram.keyRec) ∧
  (∀ (k : Nat) (x : SvcReq × State) (s : State), s.admits k 0x0012 = some x → x.1.data.length = 2 ∧ le16 x.1.data 0 < 256 → ∃ t, exec (.bulkKeygen k) s = .next t ∧ t.dev.answers k 0x0012 0 ∧ ∃ key, SMap.get? t.dev.encl.bulk (le16 x.1.data 0) = some key ∧ key.length = 32 ∧ t.dev.rd R.CR_KEY_INSTALLS = (s.dev.rd R.CR_KEY_INSTALLS + 1) % 2 ^ R.CR_KEY_INSTALLS.width) ∧
  (∀ (key : Bytes) (k : Nat) (x : SvcReq × State) (s : State), s.admits k 0x0013 = some x ∧ x.1.data.length = 49 ∧ le16 x.1.data 3 = 0 → byteAt x.1.data 0 = 2 ∧ le16 x.1.data 1 < 256 ∧ SMap.get? x.2.dev.encl.bulk (le16 x.1.data 1) = some key ∧ 0 < le32 x.1.data 21 ∧ le32 x.1.data 21 ≤ 2 ^ 24 ∧ le32 x.1.data 45 = 0 → x.2.dev.inArea7 (le64 x.1.data 5) (le32 x.1.data 21 + 16) = true ∧ x.2.dev.inArea7 (le64 x.1.data 13) (le32 x.1.data 21) = true → x.2.dev.hbmAllowed 0x16 (le64 x.1.data 13) (le32 x.1.data 21) true = true → ∃ t, exec (.bulk k) s = .next t ∧ (Config.gcmOpen key (slice x.1.data 25 12) (memReadN s.hbm (le64 x.1.data 37) 0) (memReadN s.hbm (le64 x.1.data 5) (le32 x.1.data 21) ++ memReadN s.hbm (le64 x.1.data 5 + le32 x.1.data 21) 16) = none → t.dev.answers k 0x0013 0x0601 ∧ t.hbm = memWriteN s.hbm (le64 x.1.data 13) (List.replicate (le32 x.1.data 21) 0#8)) ∧ (∀ y, y.length = le32 x.1.data 21 → Config.gcmOpen key (slice x.1.data 25 12) (memReadN s.hbm (le64 x.1.data 37) 0) (memReadN s.hbm (le64 x.1.data 5) (le32 x.1.data 21) ++ memReadN s.hbm (le64 x.1.data 5 + le32 x.1.data 21) 16) = some y → t.dev.answers k 0x0013 0 ∧ t.hbm = memWriteN s.hbm (le64 x.1.data 13) y)) ∧
  (∀ (k : Nat) (x : SvcReq × State) (s : State), s.admits k 0x0013 = some x → x.1.data.length = 49 ∧ (byteAt x.1.data 0 = 0 ∨ 5 < byteAt x.1.data 0) → ∃ t, exec (.bulk k) s = .next t ∧ t.dev.answers k 0x0013 0x0302 ∧ t.hbm = s.hbm) ∧
  (∀ (k : Nat) (x : SvcReq × State) (s : State), s.admits k 0x0020 = some x → x.1.data.length = 3 + le16 x.1.data 1 ∧ byteAt x.1.data 0 < 64 ∧ (x.2.dev.keyRec 2 (byteAt x.1.data 0)).isSome = true → ∃ t, exec (.mkaIcv k) s = .next t ∧ t.dev.answers k 0x0020 0 ∧ t.dev.sa = s.dev.sa ∧ t.dev.mram = x.2.dev.mram) ∧
  (∀ (k : Nat) (x : SvcReq × State) (s : State), s.admits k 0x0020 = some x → x.1.data.length = 3 + le16 x.1.data 1 ∧ byteAt x.1.data 0 < 64 ∧ x.2.dev.keyRec 2 (byteAt x.1.data 0) = none → ∃ t, exec (.mkaIcv k) s = .next t ∧ t.dev.answers k 0x0020 0x0401) ∧
  (∀ (k : Nat) (x : SvcReq × State) (s : State), s.admits k 0x0021 = some x → x.1.data.length = 8 ∧ byteAt x.1.data 0 < 64 ∧ (x.2.dev.keyRec 2 (byteAt x.1.data 0)).isSome = true ∧ x.2.dev.saStop (byteAt x.1.data 1) (byteAt x.1.data 2) (byteAt x.1.data 3) = 0 → ∃ t, exec (.sakGenerate k) s = .next t ∧ t.dev.answers k 0x0021 0 ∧ ∃ sa, SMap.get? t.dev.sa ((byteAt x.1.data 1 * 128 + byteAt x.1.data 2) * 4 + byteAt x.1.data 3) = some sa ∧ sa.cak = byteAt x.1.data 0 ∧ sa.key.length = 32 ∧ (∀ j, j ≠ ((byteAt x.1.data 1 * 128 + byteAt x.1.data 2) * 4 + byteAt x.1.data 3) → SMap.get? t.dev.sa j = SMap.get? s.dev.sa j)) ∧
  (∀ (k : Nat) (x : SvcReq × State) (s : State), s.admits k 0x0022 = some x → x.1.data.length = 44 ∧ byteAt x.1.data 0 < 64 ∧ x.2.dev.saStop (byteAt x.1.data 1) (byteAt x.1.data 2) (byteAt x.1.data 3) = 0 ∧ (x.2.dev.keyRec 2 (byteAt x.1.data 0)).isSome = true → ∃ t, exec (.sakInstall k) s = .next t ∧ (∀ kek, x.2.dev.cakKey (byteAt x.1.data 0) 1 = some kek → Config.kwUnwrap kek (slice x.1.data 4 40) = none → t.dev.answers k 0x0022 0x0601 ∧ t.dev.sa = s.dev.sa) ∧ (∀ kek key, x.2.dev.cakKey (byteAt x.1.data 0) 1 = some kek → Config.kwUnwrap kek (slice x.1.data 4 40) = some key → t.dev.answers k 0x0022 0 ∧ SMap.get? t.dev.sa ((byteAt x.1.data 1 * 128 + byteAt x.1.data 2) * 4 + byteAt x.1.data 3) = some { key := key, cak := byteAt x.1.data 0 })) ∧
  (∀ (k : Nat) (x : SvcReq × State) (s : State), s.admits k 0x0023 = some x → x.1.data.length = 3 ∧ x.2.dev.saStop (byteAt x.1.data 0) (byteAt x.1.data 1) (byteAt x.1.data 2) = 0 → ∃ t, exec (.saClear k) s = .next t ∧ t.dev.answers k 0x0023 0 ∧ t.dev.sa = SMap.del s.dev.sa ((byteAt x.1.data 0 * 128 + byteAt x.1.data 1) * 4 + byteAt x.1.data 2)) ∧
  (∀ (k : Nat) (x : SvcReq × State) (s : State), s.admits k 0x0030 = some x → x.1.data = [] → ∃ t, exec (.selfTest k) s = .next t ∧ t.dev.rd R.EN_STATUS_STATE = 0 ∧ t.dev.encl.testSlot = some k ∧ t.dev.encl.order = [] ∧ t.dev.on R.ES_STATUS_BUSY k = s.dev.on R.ES_STATUS_BUSY k) ∧
  (∀ (k : Nat) (x : SvcReq × State) (s : State), s.admits k 0x0031 = some x → x.1.data = [] → ∃ t, exec (.zeroise k) s = .next t ∧ t.dev.answers k 0x0031 0 ∧ t.dev.sa = [] ∧ t.dev.mram.keyRec = [] ∧ t.dev.encl.keys = [] ∧ t.dev.encl.bulk = []) ∧
  (∀ (rb : Bool) (k : Nat) (x : SvcReq × State) (s : State), s.admits k 0x0032 = some x → x.1.data.length = 306 ∧ s.dev.on R.EN_STATUS_SEAL_FAULT = true → ∃ t, exec (.sealReseat k rb) s = .next t ∧ (sealVerifies x.1.data = false → t.dev.answers k 0x0032 0x0601 ∧ t.dev.mram.sealWords = s.dev.mram.sealWords) ∧ (sealVerifies x.1.data = true → rb = true → t.dev.answers k 0x0032 0 ∧ t.dev.on R.EN_STATUS_SEAL_FAULT = false ∧ ∃ n, t.dev.mram.sealWords = [(n % 65536, n)] ∧ le64 x.1.data 48 + 2 ^ 20 ≤ n) ∧ (sealVerifies x.1.data = true → rb = false → t.dev.answers k 0x0032 0x0401 ∧ t.dev.on R.EN_STATUS_SEAL_FAULT = true)) ∧
  (∀ (k : Nat) (x : SvcReq × State) (s : State), s.admits k 0x00F0 = some x → x.1.data = [] → ∃ t, exec (.jtagChallenge k) s = .next t ∧ t.dev.answers k 0x00F0 0 ∧ ∃ c, t.dev.encl.challenge = some (c, s.dev.tk.etick) ∧ c.length = 32 ∧ t.dev.on R.EN_STATUS_APPROVED = false) ∧
  (∀ (s : State), s.dev.liveChallenge = none → ∃ t, exec (.jtagChallengeExpire) s = .next t ∧ t = { s with dev := { s.dev with encl := { s.dev.encl with challenge := none } } }) ∧
  (∀ (s : State), s.dev.liveChallenge.isSome = true → ∃ t, exec (.jtagChallengeExpire) s = .next t ∧ t = s) ∧
  (∀ (c : Bytes) (k : Nat) (x : SvcReq × State) (s : State), s.admits k 0x00F1 = some x → x.1.data.length = 173 ∧ byteAt x.1.data 0 ≤ 3 ∧ 0 < byteAt x.1.data 58 ∧ byteAt x.1.data 58 < 8 ∧ x.2.dev.liveChallenge = some c → ∃ t, exec (.jtagUnlock k) s = .next t ∧ (((x.2.fuse.keySlots (slice x.1.data 1 57)).contains (byteAt x.1.data 0) && Config.ed448Verify (slice x.1.data 1 57) (ascii "IH-JTAG-1") (Config.uid ++ c ++ [BitVec.ofNat 8 (byteAt x.1.data 58)]) (slice x.1.data 59 114)) = true → t.dev.answers k 0x00F1 0 ∧ t.dev.on R.EN_STATUS_JTAG_OPEN = true ∧ t.dev.encl.scope = s.dev.encl.scope ||| byteAt x.1.data 58 ∧ t.dev.sa = [] ∧ t.dev.mram.keyRec = []) ∧ (((x.2.fuse.keySlots (slice x.1.data 1 57)).contains (byteAt x.1.data 0) && Config.ed448Verify (slice x.1.data 1 57) (ascii "IH-JTAG-1") (Config.uid ++ c ++ [BitVec.ofNat 8 (byteAt x.1.data 58)]) (slice x.1.data 59 114)) = false → t.dev.answers k 0x00F1 0x0601 ∧ t.dev.on R.EN_STATUS_JTAG_OPEN = s.dev.on R.EN_STATUS_JTAG_OPEN)) ∧
  (∀ (s : State), ∃ t, exec (.tamperArmPerm) s = .next t ∧ (t.dev.rdata = if s.fuse.tamperArm || s.dev.pins.fuseOk then 0 else 0x0402) ∧ t.fuse = { s.fuse with tamperArm := s.fuse.tamperArm || s.dev.pins.fuseOk } ∧ t.dev.regs = s.dev.regs) ∧
  (∀ (k : Nat) (s : State), s.dev.inReset 0x1B = false ∧ s.dev.rd R.EN_STATUS_STATE = 0 ∧ s.dev.boot.halted = false ∧ s.dev.encl.testSlot = some k → ∃ t, exec (.selfTestDone none) s = .next t ∧ t.dev.rd R.EN_STATUS_STATE = 1 ∧ t.dev.encl.inhibit = false ∧ t.dev.encl.testSlot = none ∧ t.dev.answers k 0x0030 0 ∧ (s.dev.encl.inhibit = true → ⟨11, srcNum 0x1B 2, 0⟩ ∈ t.dev.tk.sampled)) ∧
  (∀ (code : Nat) (s : State), s.dev.inReset 0x1B = false ∧ s.dev.rd R.EN_STATUS_STATE = 0 ∧ s.dev.boot.halted = false → ∃ t, exec (.selfTestDone (some code)) s = .next t ∧ t.dev.rd R.EN_STATUS_STATE = 2 ∧ t.dev.encl.inhibit = true ∧ t.dev.rd R.EN_STATUS_ERR_CODE = code % 2 ^ R.EN_STATUS_ERR_CODE.width) ∧
  (∀ (code : Nat) (s : State), s.dev.inReset 0x1B = false ∧ s.dev.rd R.EN_STATUS_STATE = 1 → ∃ t, exec (.enclError code) s = .next t ∧ t.dev.rd R.EN_STATUS_STATE = 2 ∧ t.dev.encl.inhibit = true ∧ t.dev.rd R.EN_STATUS_ERR_CODE = code % 2 ^ R.EN_STATUS_ERR_CODE.width ∧ t.dev.encl.errAt = s.dev.tk.etick ∧ t.dev.mram.keyRec = s.dev.mram.keyRec ∧ (∀ k, k ∈ s.dev.encl.order → t.dev.on R.ES_STATUS_BUSY k = false ∧ t.dev.on R.ES_STATUS_DONE k = true)) ∧
  (∀ (s : State), s.dev.rd R.EN_STATUS_STATE = 2 ∧ s.dev.encl.errAt + 1250000 ≤ s.dev.tk.etick → (s.dev.encl.errs.filter (fun n => decide (s.dev.encl.errAt < n + 75000000000))).length < 3 ∧ 1 ∉ s.dev.rst.active → ∃ t, exec (.enclErrorReset) s = .next t ∧ SMap.has t.dev.rst.asked 1 = true ∧ t.dev.rst.cold = s.dev.rst.cold ∧ t.dev.regs = s.dev.regs) ∧
  (∀ (s : State), s.dev.rd R.EN_STATUS_STATE = 2 ∧ s.dev.encl.errAt + 1250000 ≤ s.dev.tk.etick → 3 ≤ (s.dev.encl.errs.filter (fun n => decide (s.dev.encl.errAt < n + 75000000000))).length → ∃ t, exec (.enclErrorReset) s = .next t ∧ t = { s with dev := { s.dev with rst := { s.dev.rst with cold := some 4 } } }) ∧
  (∀ (c : Nat) (s : State), ∃ t, exec (.tamper c) s = .next t ∧ t.dev.rst.cold = some 3 ∧ t.dev.mram.tamperCause = c ∧ t.dev.mram.keyRec = [] ∧ t.dev.sa = [] ∧ t.dev.encl.keys = [] ∧ t.dev.encl.bulk = [] ∧ ⟨1, srcNum 0x1B 1, c⟩ ∈ t.dev.tk.sampled ∧ t.fuse = { s.fuse with dsKill := s.fuse.dsKill || s.fuse.tamperArm } ∧ t.hbm = s.hbm) ∧
  (∀ (req k : Nat) (s : State), mayServe req = true ∧ s.dev.inReset 0x1B = false ∧ s.dev.on R.ES_STATUS_CLAIMED k = false → ∃ t, exec (.esClaim req k) s = .next t ∧ t.dev.on R.ES_STATUS_CLAIMED k = true ∧ t.dev.rd R.ES_STATUS_OWNER k = req % 2 ^ R.ES_STATUS_OWNER.width ∧ OnlyRegsTick s t [R.ES_STATUS_CLAIMED.key k 0 0, R.ES_STATUS_OWNER.key k 0 0]) ∧
  (∀ (req k : Nat) (s : State), s.dev.on R.ES_STATUS_CLAIMED k = true ∨ mayServe req = false → ∃ t, exec (.esClaim req k) s = .next t ∧ t = s) ∧
  (∀ (req k : Nat) (s : State), s.dev.ownsSlot req k = true ∧ s.dev.inReset 0x1B = false → ∃ t, exec (.esRelease req k) s = .next t ∧ t.dev.on R.ES_STATUS_CLAIMED k = false ∧ t.dev.rd R.ES_STATUS_OWNER k = 0 ∧ OnlyRegsTick s t [R.ES_STATUS_CLAIMED.key k 0 0, R.ES_STATUS_OWNER.key k 0 0]) ∧
  (∀ (req k : Nat) (s : State), s.dev.ownsSlot req k = false → ∃ t, exec (.esRelease req k) s = .next t ∧ t = s)

/-- The engine serves requests in order with their status; mailboxes, proxies and the MGMT rings act by their rules. With no response waiting, the request at the head of the queue is taken by the command of its opcode alone. From a mailbox: a READ answers the value, or 0201h above the level, or the status of a missing object; a WRITE answers what the write gave, with a class 10 event on success, and 0202h on a read-only object; the segmented forms answer their segments. With outputs inhibited an SOP request is dropped and counted. A request from the fabric is queued when the device takes them, else dropped; a response ends its proxy at the mailbox, as a proxy 20 ms old does with a count. CLAIM and RELEASE act for a hart, and for the owner. A MGMT frame with a bad FCS is gone; one for the core goes to the posted buffer and completes its entry, no other byte of HBM changing, or is counted NOBUF or FILTERED. Doorbells of a hart move a running ring's PI, an impossible one is error 1; others are refused. The first ready frame is sent with its timestamp. An enable clears the indices, or is refused; a disable idles the receive ring. (14_object_dictionary.md R350, R352, R354, R355, R358, R360, R365, R366, R367, R373, R374, R375, R376.) -/
def Obligations.ObjectsAreServedAndMgmtFramesMove : Prop :=
  (∀ (m : Nat) (q : ObjReq) (qs : List ObjReq) (r : ObjRow) (e s : State), s.dev.obj.wait = none ∧ s.dev.obj.queue = q :: qs ∧ q.path = .mailbox m ∧ sopOp q.bytes = 1 → e = s.onDev (fun d => d.setObj (fun o => { o with queue := qs })) → e.dev.objFind (le16 q.bytes 22) (byteAt q.bytes 21) = .row r ∧ r.closed (e.dev.objNat (if m = 0 then 0x1105 else 0x1106) 0 2) false = false ∧ r.ty.mismatch 1 (sopDataLen q.bytes) 1024 = false ∧ e.dev.objBusy r.grp = false → ∃ t, exec (.read) s = .next t ∧ (t = e.onDev (fun d => d.mbDone m (sopReply q.bytes 0 (e.objRead r (le16 q.bytes 22) (byteAt q.bytes 21)) false))) ∧ t.dev.obj.queue = qs ∧ t.dev.on R.MB_STATUS_DONE m = true ∧ t.dev.on R.MB_STATUS_BUSY m = false) ∧
  (∀ (m : Nat) (q : ObjReq) (qs : List ObjReq) (r : ObjRow) (e s : State), s.dev.obj.wait = none ∧ s.dev.obj.queue = q :: qs ∧ q.path = .mailbox m ∧ sopOp q.bytes = 1 → e = s.onDev (fun d => d.setObj (fun o => { o with queue := qs })) → e.dev.objFind (le16 q.bytes 22) (byteAt q.bytes 21) = .row r ∧ r.closed (e.dev.objNat (if m = 0 then 0x1105 else 0x1106) 0 2) false = true → ∃ t, exec (.read) s = .next t ∧ (t = e.onDev (fun d => d.mbDone m (sopReply q.bytes 0x0201 [] false)))) ∧
  (∀ (m n : Nat) (q : ObjReq) (qs : List ObjReq) (e s : State), s.dev.obj.wait = none ∧ s.dev.obj.queue = q :: qs ∧ q.path = .mailbox m ∧ sopOp q.bytes = 1 → e = s.onDev (fun d => d.setObj (fun o => { o with queue := qs })) → e.dev.objFind (le16 q.bytes 22) (byteAt q.bytes 21) = .none n → ∃ t, exec (.read) s = .next t ∧ (t = e.onDev (fun d => d.mbDone m (sopReply q.bytes n [] false)))) ∧
  (∀ (m : Nat) (q : ObjReq) (qs : List ObjReq) (r : ObjRow) (o : ObjOut) (e s : State), s.dev.obj.wait = none ∧ s.dev.obj.queue = q :: qs ∧ q.path = .mailbox m ∧ sopOp q.bytes = 2 → e = s.onDev (fun d => d.setObj (fun o => { o with queue := qs })) → e.dev.objFind (le16 q.bytes 22) (byteAt q.bytes 21) = .row r ∧ r.closed (e.dev.objNat (if m = 0 then 0x1105 else 0x1106) 0 2) true = false ∧ r.ty.mismatch 2 (sopDataLen q.bytes) 1024 = false ∧ e.dev.objBusy r.grp = false ∧ r.acc ≠ .const ∧ r.acc ≠ .ro → o = e.objWrite r (le16 q.bytes 22) (byteAt q.bytes 21) (slice q.bytes 32 (sopDataLen q.bytes)) ∧ o.wait = none → ∃ t, exec (.write) s = .next t ∧ (t = o.st.onDev (fun d => (d.when (o.status == 0) (fun x => x.raise 10 0x003F)).mbDone m (sopReply q.bytes o.status o.data false))) ∧ t.dev.on R.MB_STATUS_DONE m = true ∧ t.dev.on R.MB_STATUS_BUSY m = false) ∧
  (∀ (m : Nat) (q : ObjReq) (qs : List ObjReq) (r : ObjRow) (e s : State), s.dev.obj.wait = none ∧ s.dev.obj.queue = q :: qs ∧ q.path = .mailbox m ∧ sopOp q.bytes = 2 → e = s.onDev (fun d => d.setObj (fun o => { o with queue := qs })) → e.dev.objFind (le16 q.bytes 22) (byteAt q.bytes 21) = .row r ∧ r.closed (e.dev.objNat (if m = 0 then 0x1105 else 0x1106) 0 2) true = false ∧ (r.acc = .const ∨ r.acc = .ro) → ∃ t, exec (.write) s = .next t ∧ (t = e.onDev (fun d => d.mbDone m (sopReply q.bytes 0x0202 [] false)))) ∧
  (∀ (m : Nat) (q : ObjReq) (qs : List ObjReq) (r : ObjRow) (e s : State), s.dev.obj.wait = none ∧ s.dev.obj.queue = q :: qs ∧ q.path = .mailbox m ∧ sopOp q.bytes = 3 → e = s.onDev (fun d => d.setObj (fun o => { o with queue := qs })) → e.dev.objFind (le16 q.bytes 22) (byteAt q.bytes 21) = .row r ∧ r.closed (e.dev.objNat (if m = 0 then 0x1105 else 0x1106) 0 2) false = false ∧ r.ty.mismatch 3 (sopDataLen q.bytes) 1024 = false ∧ e.dev.objBusy r.grp = false → ∃ t, exec (.readSeg) s = .next t ∧ (t = e.onDev (fun d => d.mbDone m (sopReply q.bytes 0 ((e.objDomain r (le16 q.bytes 22) (byteAt q.bytes 21)).read (le32 q.bytes 24) (sopDataLen q.bytes)).1 ((e.objDomain r (le16 q.bytes 22) (byteAt q.bytes 21)).read (le32 q.bytes 24) (sopDataLen q.bytes)).2)))) ∧
  (∀ (m : Nat) (q : ObjReq) (qs : List ObjReq) (r : ObjRow) (o : ObjOut) (e s : State), s.dev.obj.wait = none ∧ s.dev.obj.queue = q :: qs ∧ q.path = .mailbox m ∧ sopOp q.bytes = 4 → e = s.onDev (fun d => d.setObj (fun o => { o with queue := qs })) → e.dev.objFind (le16 q.bytes 22) (byteAt q.bytes 21) = .row r ∧ r.closed (e.dev.objNat (if m = 0 then 0x1105 else 0x1106) 0 2) true = false ∧ r.ty.mismatch 4 (sopDataLen q.bytes) 1024 = false ∧ e.dev.objBusy r.grp = false ∧ r.acc ≠ .const ∧ r.acc ≠ .ro → o = e.segWrite (16 + m) r (le16 q.bytes 22) (byteAt q.bytes 21) (le32 q.bytes 24) (slice q.bytes 32 (sopDataLen q.bytes)) (bit (byteAt q.bytes 3) 1) ∧ o.wait = none → ∃ t, exec (.writeSeg) s = .next t ∧ (t = o.st.onDev (fun d => d.mbDone m (sopReply q.bytes o.status o.data false)))) ∧
  (∀ (q : ObjReq) (qs : List ObjReq) (s : State), s.dev.obj.wait = none ∧ s.dev.obj.queue = q :: qs ∧ sopOp q.bytes = 1 ∧ q.path.sop = true → s.dev.encl.inhibit = true → ∃ t, exec (.read) s = .next t ∧ t = { s with dev := { s.dev with obj := { s.dev.obj with queue := qs, sopAuthFail := s.dev.obj.sopAuthFail + 1 } } }) ∧
  (∀ (q : ObjReq) (qs : List ObjReq) (s : State), s.dev.obj.queue = q :: qs ∧ (sopOp q.bytes ≠ 1 ∨ s.dev.obj.wait.isSome = true) → ∃ t, exec (.read) s = .next t ∧ t = s) ∧
  (∀ (q : ObjReq) (qs : List ObjReq) (s : State), s.dev.obj.queue = q :: qs ∧ (sopOp q.bytes ≠ 2 ∨ s.dev.obj.wait.isSome = true) → ∃ t, exec (.write) s = .next t ∧ t = s) ∧
  (∀ (q : ObjReq) (qs : List ObjReq) (s : State), s.dev.obj.queue = q :: qs ∧ (sopOp q.bytes ≠ 3 ∨ s.dev.obj.wait.isSome = true) → ∃ t, exec (.readSeg) s = .next t ∧ t = s) ∧
  (∀ (q : ObjReq) (qs : List ObjReq) (s : State), s.dev.obj.queue = q :: qs ∧ (sopOp q.bytes ≠ 4 ∨ s.dev.obj.wait.isSome = true) → ∃ t, exec (.writeSeg) s = .next t ∧ t = s) ∧
  (∀ (x : FabObj) (l : List FabObj) (s : State), firstObj 6 s.dev.fab.objIn = some (x, l) → s.dev.objNat 0x1107 0 1 ≠ 0 ∧ s.dev.fabAddr ≠ 0 ∧ sopBad x.bytes = false ∧ x.bytes.length = sopLen x.bytes + 32 ∧ x.bcast = false ∧ s.dev.obj.queue.length < 64 → ∃ t, exec (.objReq) s = .next t ∧ t.dev.fab.objIn = l ∧ t.dev.obj = { s.dev.obj with queue := s.dev.obj.queue ++ [⟨.fabric x.src x.bcast, x.bytes⟩], sopRx := s.dev.obj.sopRx + 1 } ∧ t.dev.regs = s.dev.regs) ∧
  (∀ (x : FabObj) (l : List FabObj) (s : State), firstObj 6 s.dev.fab.objIn = some (x, l) → s.dev.objNat 0x1107 0 1 = 0 ∨ s.dev.fabAddr = 0 → ∃ t, exec (.objReq) s = .next t ∧ t = { s with dev := { s.dev with fab := { s.dev.fab with objIn := l } } }) ∧
  (∀ (x : FabObj) (l : List FabObj) (p : ObjProxy) (m : Nat) (s : State), firstObj 7 s.dev.fab.objIn = some (x, l) → s.dev.obj.proxies = [p] ∧ p.answeredBy x = true ∧ p.path = .mailbox m → ∃ t, exec (.objResp) s = .next t ∧ t.dev.obj.proxies = [] ∧ t.dev.fab.objIn = l ∧ t.dev.on R.MB_STATUS_DONE m = true ∧ t.dev.on R.MB_STATUS_BUSY m = false) ∧
  (∀ (x : FabObj) (l : List FabObj) (s : State), firstObj 7 s.dev.fab.objIn = some (x, l) → s.dev.obj.proxies = [] → ∃ t, exec (.objResp) s = .next t ∧ t = { s with dev := { s.dev with fab := { s.dev.fab with objIn := l } } }) ∧
  (∀ (p : ObjProxy) (l : List ObjProxy) (m : Nat) (s : State), s.dev.obj.proxies = p :: l ∧ p.path = .mailbox m ∧ p.got = false ∧ p.tick + 2500000 ≤ s.dev.tk.etick → ∃ t, exec (.sopProxyTimeout) s = .next t ∧ t.dev.obj = { s.dev.obj with proxies := l, sopProxyTimeout := s.dev.obj.sopProxyTimeout + 1 } ∧ t.dev.on R.MB_STATUS_DONE m = true ∧ t.dev.on R.MB_STATUS_BUSY m = false) ∧
  (∀ (p : ObjProxy) (l : List ObjProxy) (s : State), s.dev.obj.proxies = p :: l ∧ s.dev.tk.etick < p.tick + 2500000 → ∃ t, exec (.sopProxyTimeout) s = .next t ∧ t = s) ∧
  (∀ (req m : Nat) (s : State), isHart req = true ∧ s.dev.on R.MB_STATUS_CLAIMED m = false → ∃ t, exec (.claim req m) s = .next t ∧ t.dev.on R.MB_STATUS_CLAIMED m = true ∧ t.dev.rd R.MB_STATUS_OWNER m = (req - 4104) % 2 ^ R.MB_STATUS_OWNER.width ∧ OnlyRegsTick s t [R.MB_STATUS_CLAIMED.key m 0 0, R.MB_STATUS_OWNER.key m 0 0]) ∧
  (∀ (req m : Nat) (s : State), isHart req = false ∨ s.dev.on R.MB_STATUS_CLAIMED m = true → ∃ t, exec (.claim req m) s = .next t ∧ t = s) ∧
  (∀ (req m : Nat) (s : State), m ≠ 0 ∧ s.dev.ownsMailbox req m = true → ∃ t, exec (.release req m) s = .next t ∧ t.dev.on R.MB_STATUS_CLAIMED m = false ∧ t.dev.rd R.MB_STATUS_OWNER m = 0 ∧ OnlyRegsTick s t [R.MB_STATUS_CLAIMED.key m 0 0, R.MB_STATUS_OWNER.key m 0 0]) ∧
  (∀ (req m : Nat) (s : State), s.dev.ownsMailbox req m = false → ∃ t, exec (.release req m) s = .next t ∧ t = s) ∧
  (∀ (raw : Bytes) (td e po : Nat) (s : State), fcsGood raw = false → ∃ t, exec (.mgmtFrameReceive raw td e po) s = .next t ∧ t = s) ∧
  (∀ (raw : Bytes) (td e po : Nat) (s : State), fcsGood raw = true ∧ s.dev.boot.halted = false ∧ s.dev.on R.MG_CTRL_PROMISC = true ∧ s.dev.on R.MG_CTRL_EN = true ∧ s.dev.mgKind (frameBody raw) = .other → s.dev.obj.mg.errRx = true ∨ s.mgPosted true = [] → ∃ t, exec (.mgmtFrameReceive raw td e po) s = .next t ∧ t.dev.rd R.MG_RX_NOBUF = (s.dev.rd R.MG_RX_NOBUF + 1) % 2 ^ R.MG_RX_NOBUF.width ∧ OnlyRegs s t [R.MG_RX_NOBUF.key 0 0 0]) ∧
  (∀ (raw a : Bytes) (td e po : Nat) (s : State), fcsGood raw = true ∧ s.dev.boot.halted = false ∧ s.dev.on R.MG_CTRL_PROMISC = true ∧ s.dev.on R.MG_CTRL_EN = true ∧ s.dev.mgKind (frameBody raw) = .other → s.dev.obj.mg.errRx = false ∧ s.mgPosted true = [a] ∧ s.dev.inArea7 (le64 a 0) (le32 a 8) = true ∧ bufOk 1 a = true ∧ descFirst a = true ∧ descLast a = true ∧ (frameBody raw).length ≤ le32 a 8 → ∃ t, exec (.mgmtFrameReceive raw td e po) s = .next t ∧ t.dev.rd R.MG_RX_FRAMES = (s.dev.rd R.MG_RX_FRAMES + 1) % 2 ^ R.MG_RX_FRAMES.width ∧ t.dev.rd R.MG_RX_IDX_CI = (s.dev.rd R.MG_RX_IDX_CI + 1) % lapMod (s.dev.mgN true) % 2 ^ R.MG_RX_IDX_CI.width ∧ (∀ y, (y < le64 a 0 ∨ le64 a 0 + (frameBody raw).length ≤ y) → (y < s.dev.mgBase true + 64 * (s.dev.rd R.MG_RX_IDX_CI % 2 ^ s.dev.mgN true) ∨ s.dev.mgBase true + 64 * (s.dev.rd R.MG_RX_IDX_CI % 2 ^ s.dev.mgN true) + 64 ≤ y) → memRead t.hbm y = memRead s.hbm y)) ∧
  (∀ (raw : Bytes) (td e po : Nat) (s : State), fcsGood raw = true ∧ s.dev.boot.halted = false ∧ s.dev.on R.MG_CTRL_EN = false ∧ byteAt (frameBody raw) 0 % 2 = 1 ∧ s.dev.mgKind (frameBody raw) = .other → ∃ t, exec (.mgmtFrameReceive raw td e po) s = .next t ∧ t.dev.rd R.MG_RX_FILTERED = (s.dev.rd R.MG_RX_FILTERED + 1) % 2 ^ R.MG_RX_FILTERED.width ∧ OnlyRegs s t [R.MG_RX_FILTERED.key 0 0 0]) ∧
  (∀ (req v : Nat) (s : State), isHart req = false → ∃ t, exec (.mgTxDb req v) s = .next t ∧ t.dev.on R.MG_STATUS_WR_REFUSED = true ∧ OnlyRegsTick s t [R.MG_STATUS_WR_REFUSED.key 0 0 0]) ∧
  (∀ (req v : Nat) (s : State), isHart req = true ∧ s.dev.mgRuns false = true ∧ v < lapMod (s.dev.mgN false) ∧ v < 2 ^ 13 → v ≠ s.dev.rd R.MG_TX_IDX_PI ∧ lapSub (s.dev.mgN false) v (s.dev.rd R.MG_TX_IDX_PI) ≤ 2 ^ s.dev.mgN false - lapSub (s.dev.mgN false) (s.dev.rd R.MG_TX_IDX_PI) (s.dev.rd R.MG_TX_IDX_CI) → ∃ t, exec (.mgTxDb req v) s = .next t ∧ t.dev.rd R.MG_TX_IDX_PI = v % 2 ^ R.MG_TX_IDX_PI.width ∧ t.dev.rd R.MG_RX_IDX_PI = s.dev.rd R.MG_RX_IDX_PI ∧ t.dev.rd R.MG_RX_IDX_CI = s.dev.rd R.MG_RX_IDX_CI) ∧
  (∀ (req v : Nat) (s : State), isHart req = true ∧ s.dev.mgRuns false = true ∧ lapMod (s.dev.mgN false) ≤ v ∧ v < 2 ^ 13 ∧ v ≠ s.dev.rd R.MG_TX_IDX_PI ∧ s.dev.on R.MG_STATUS_ERR = false → ∃ t, exec (.mgTxDb req v) s = .next t ∧ t.dev.on R.MG_STATUS_ERR = true ∧ t.dev.rd R.MG_STATUS_ERR_RING = 0 ∧ t.dev.rd R.MG_STATUS_ERR_CAUSE = 1 ∧ t.dev.obj.mg.errTx = true ∧ t.dev.rd R.MG_TX_IDX_PI = s.dev.rd R.MG_TX_IDX_PI ∧ t.hbm = s.hbm) ∧
  (∀ (req v : Nat) (s : State), isHart req = true ∧ s.dev.mgRuns true = true ∧ v < lapMod (s.dev.mgN true) ∧ v < 2 ^ 13 → v ≠ s.dev.rd R.MG_RX_IDX_PI ∧ lapSub (s.dev.mgN true) v (s.dev.rd R.MG_RX_IDX_PI) ≤ 2 ^ s.dev.mgN true - lapSub (s.dev.mgN true) (s.dev.rd R.MG_RX_IDX_PI) (s.dev.rd R.MG_RX_IDX_CI) → ∃ t, exec (.mgRxDb req v) s = .next t ∧ t.dev.rd R.MG_RX_IDX_PI = v % 2 ^ R.MG_RX_IDX_PI.width ∧ OnlyRegsTick s t [R.MG_RX_IDX_PI.key 0 0 0]) ∧
  (∀ (req v : Nat) (s : State), isHart req = false → ∃ t, exec (.mgRxDb req v) s = .next t ∧ t.dev.on R.MG_STATUS_WR_REFUSED = true ∧ OnlyRegsTick s t [R.MG_STATUS_WR_REFUSED.key 0 0 0]) ∧
  (∀ (te e po : Nat) (f : MgFrame) (l : List MgFrame) (s : State), s.dev.obj.mg.ready = f :: l ∧ f.job = [] ∧ f.oneStep = 0 → ∃ t, exec (.mgmtFrameSend te e po) s = .next t ∧ t = { s with dev := { s.dev with obj := { s.dev.obj with mg := { s.dev.obj.mg with ready := l, wire := s.dev.obj.mg.wire ++ [(f.bytes, s.dev.txStamp 16 te e po)] } } } }) ∧
  (∀ (te e po : Nat) (f : MgFrame) (l : List MgFrame) (s : State), s.dev.obj.mg.ready = f :: l ∧ f.job ≠ [] ∧ f.oneStep = 0 → ∃ t, exec (.mgmtFrameSend te e po) s = .next t ∧ t.dev.rd R.MG_TX_FRAMES = (s.dev.rd R.MG_TX_FRAMES + 1) % 2 ^ R.MG_TX_FRAMES.width ∧ t.dev.obj.mg.wire = s.dev.obj.mg.wire ++ [(f.bytes, s.dev.txStamp 16 te e po)]) ∧
  (∀ (te e po : Nat) (s : State), s.dev.obj.mg.ready = [] → ∃ t, exec (.mgmtFrameSend te e po) s = .next t ∧ t = s) ∧
  (∀ (req : Nat) (s : State), isHart req = true ∧ s.dev.on R.MG_CTRL_EN = false ∧ s.dev.mgBad false = false ∧ s.dev.mgBad true = false → ∃ t, exec (.mgCtrlEn req true) s = .next t ∧ t.dev.on R.MG_CTRL_EN = true ∧ t.dev.rd R.MG_TX_IDX_PI = 0 ∧ t.dev.rd R.MG_TX_IDX_CI = 0 ∧ t.dev.rd R.MG_RX_IDX_PI = 0 ∧ t.dev.rd R.MG_RX_IDX_CI = 0 ∧ t.dev.on R.MG_STATUS_TX_IDLE = false ∧ t.dev.on R.MG_STATUS_RX_IDLE = false ∧ t.dev.on R.MG_STATUS_ERR = false ∧ t.dev.obj.mg = { s.dev.obj.mg with fetch := 0, errTx := false, errRx := false } ∧ t.hbm = s.hbm) ∧
  (∀ (req : Nat) (s : State), isHart req = true ∧ s.dev.on R.MG_CTRL_EN = false ∧ (s.dev.mgBad false = true ∨ s.dev.mgBad true = true) → ∃ t, exec (.mgCtrlEn req true) s = .next t ∧ t.dev.on R.MG_STATUS_WR_REFUSED = true ∧ OnlyRegsTick s t [R.MG_STATUS_WR_REFUSED.key 0 0 0]) ∧
  (∀ (req : Nat) (s : State), isHart req = true ∧ s.dev.on R.MG_CTRL_EN = true ∧ s.mgPosted true = [] → ∃ t, exec (.mgCtrlEn req false) s = .next t ∧ t.dev.on R.MG_CTRL_EN = false ∧ t.dev.on R.MG_STATUS_RX_IDLE = true ∧ t.hbm = s.hbm ∧ t.dev.obj = s.dev.obj)

/-- Islands sleep no deeper than ceiling and cap and wake; operating points, thermal limits, rails, references and SMBus follow. An idle running island takes a state no deeper than its ceiling, its cap and OFF, and its next event shows; with cap and ceiling OFF and no event ahead it takes OFF and is saved. A stopped one, or one with a transfer, keeps its state. A wake returns a stopped island to RUN and counts. A write of PI_OPP keeps the target: a rise waits for the regulator, a fall does not; at its end CUR is the target held to the limit. An abandoned rise keeps CUR and counts. A thermal sample shows the hottest sensor, THROTTLE from 105 and HEAVY from 110 degrees; the tenth in a row at 105 or more lowers the limit, which every cluster obeys; at 115 the device trips, and asks every group but G0 into reset. The armed window's start opens it, its end clears ARM and wakes what it named. A rail fault is recorded in MRAM, that of VDD_FUSE only closes the fuses. Loss of REF_SYS asks for a cold reset with cause 5; loss of TIME_REF makes the PLL lock to REF_SYS, or hold; its return ends the hold. SMBus commands 0 to 2 answer a byte and its PEC, others nothing. (17_power_and_faults.md R418, R420, R421, R422, R424, R425, R426, R427; 18_package_and_electrical.md R446, R448, R451, R453.) -/
def Obligations.IslandsSleepAndLimitsHold : Prop :=
  (∀ (c ne : Nat) (nt : Option Nat) (s : State), s.dev.stopped c = false ∧ s.dev.lacingBusy c = false ∧ s.dev.inReset c = false ∧ s.dev.islandPresent c = true → ∃ t, exec (.islandSleep c ne nt) s = .next t ∧ t.dev.rd R.PI_STATUS_STATE c ≤ s.dev.ceiling c ∧ t.dev.rd R.PI_STATUS_STATE c ≤ s.dev.rd R.PI_CAP c ∧ t.dev.rd R.PI_STATUS_STATE c ≤ 4 ∧ t.dev.rd R.PI_NEXT c = t.dev.nextEvent c % 2 ^ R.PI_NEXT.width ∧ SMap.get? t.dev.pwr.nextE c = some ne ∧ SMap.get? t.dev.pwr.nextTb c = nt ∧ RegsBut s.dev t.dev [R.PI_STATUS_STATE.key c 0 0, R.PI_STATUS_CEILING.key c 0 0, R.PI_NEXT.key c 0 0, R.HM_STATUS_SELF_REFRESH.key 0 0 0]) ∧
  (∀ (c : Nat) (s : State), s.dev.stopped c = false ∧ s.dev.lacingBusy c = false ∧ s.dev.inReset c = false ∧ s.dev.islandPresent c = true ∧ s.dev.rd R.PI_CAP c = 4 ∧ s.dev.ceiling c = 4 ∧ s.dev.rd R.PI_NE_SW c = 2 ^ 64 - 1 ∧ s.dev.on R.PW_QUIET_CTRL_ARM = false → ∃ t, exec (.islandSleep c (2 ^ 64 - 1) none) s = .next t ∧ t.dev.rd R.PI_STATUS_STATE c = 4 ∧ c ∈ t.dev.pwr.saved) ∧
  (∀ (c ne : Nat) (nt : Option Nat) (s : State), s.dev.stopped c = true ∨ s.dev.lacingBusy c = true → ∃ t, exec (.islandSleep c ne nt) s = .next t ∧ t.dev.rd R.PI_STATUS_STATE c = s.dev.rd R.PI_STATUS_STATE c ∧ RegsBut s.dev t.dev [R.PI_NEXT.key c 0 0]) ∧
  (∀ (c : Nat) (s : State), s.dev.stopped c = true → ∃ t, exec (.islandWake c) s = .next t ∧ t.dev.rd R.PI_STATUS_STATE c = 0 ∧ c ∉ t.dev.pwr.wakes ∧ c ∉ t.dev.pwr.saved ∧ t.dev.rd R.PI_WAKES c = (s.dev.rd R.PI_WAKES c + 1) % 2 ^ R.PI_WAKES.width) ∧
  (∀ (c : Nat) (s : State), s.dev.stopped c = false → ∃ t, exec (.islandWake c) s = .next t ∧ t = s) ∧
  (∀ (req c opp : Nat) (s : State), c < 8 ∧ opp < 8 ∧ s.dev.rd R.PI_OPP_CUR (0x0D + c) < min opp s.dev.oppLimit → ∃ t, exec (.piOpp req c opp) s = .next t ∧ t.dev.rd R.PI_OPP_OPP (0x0D + c) = opp ∧ t.dev.rd R.PI_OPP_CUR (0x0D + c) = s.dev.rd R.PI_OPP_CUR (0x0D + c) ∧ SMap.get? t.dev.pwr.opp c = some opp ∧ c ∈ t.dev.pwr.rising ∧ OnlyRegs { s with dev := { s.dev with pwr := t.dev.pwr, tk := t.dev.tk } } t [R.PI_OPP_OPP.key (0x0D + c) 0 0]) ∧
  (∀ (req c opp : Nat) (s : State), c < 8 ∧ opp < 8 ∧ min opp s.dev.oppLimit ≤ s.dev.rd R.PI_OPP_CUR (0x0D + c) → ∃ t, exec (.piOpp req c opp) s = .next t ∧ t.dev.rd R.PI_OPP_OPP (0x0D + c) = opp ∧ SMap.get? t.dev.pwr.opp c = some opp ∧ c ∉ t.dev.pwr.rising) ∧
  (∀ (c n : Nat) (s : State), SMap.get? s.dev.pwr.opp c = some n ∧ c ∉ s.dev.pwr.rising ∧ s.dev.stopped (0x0D + c) = false ∧ n < 8 ∧ s.dev.oppLimit < 8 → ∃ t, exec (.oppTransitionDone c) s = .next t ∧ t.dev.rd R.PI_OPP_CUR (0x0D + c) = min n s.dev.oppLimit ∧ t.dev.on R.PI_OPP_LIMITED (0x0D + c) = decide (s.dev.oppLimit < n) ∧ SMap.get? t.dev.pwr.opp c = none ∧ RegsBut s.dev t.dev [R.PI_OPP_CUR.key (0x0D + c) 0 0, R.PI_OPP_LIMITED.key (0x0D + c) 0 0]) ∧
  (∀ (c : Nat) (s : State), SMap.get? s.dev.pwr.opp c = none ∨ c ∈ s.dev.pwr.rising → ∃ t, exec (.oppTransitionDone c) s = .next t ∧ t = s) ∧
  (∀ (s : State), ∃ t, exec (.avsVoltageReached) s = .next t ∧ t = { s with dev := { s.dev with pwr := { s.dev.pwr with rising := [] } } }) ∧
  (∀ (c : Nat) (s : State), c ∈ s.dev.pwr.rising → ∃ t, exec (.avsTimeout c) s = .next t ∧ SMap.get? t.dev.pwr.opp c = none ∧ c ∉ t.dev.pwr.rising ∧ t.dev.pwr.avsFaults = min (s.dev.pwr.avsFaults + 1) (2 ^ 32 - 1) ∧ t.dev.rd R.PI_OPP_CUR (0x0D + c) = s.dev.rd R.PI_OPP_CUR (0x0D + c)) ∧
  (∀ (c : Nat) (s : State), c ∉ s.dev.pwr.rising → ∃ t, exec (.avsTimeout c) s = .next t ∧ t = s) ∧
  (∀ (ts : List Int) (s : State), (hottest ts).1 < 115 → ∃ t, exec (.thermalSample ts) s = .next t ∧ t.dev.rd R.PW_STATUS_TEMP_MAX = twos 8 (hottest ts).1 ∧ t.dev.rd R.PW_STATUS_SENSOR = (hottest ts).2 % 2 ^ R.PW_STATUS_SENSOR.width ∧ t.dev.on R.PW_STATUS_THROTTLE = decide (105 ≤ (hottest ts).1) ∧ t.dev.on R.PW_STATUS_HEAVY = decide (110 ≤ (hottest ts).1) ∧ t.dev.pins = s.dev.pins ∧ t.dev.rst = s.dev.rst ∧ t.dev.mram = s.dev.mram) ∧
  (∀ (ts : List Int) (s : State), 105 ≤ (hottest ts).1 ∧ (hottest ts).1 < 115 ∧ 9 ≤ s.dev.pwr.hot → ∃ t, exec (.thermalSample ts) s = .next t ∧ t.dev.pwr.limit = s.dev.pwr.limit - 1 ∧ t.dev.pwr.hot = 0 ∧ ((hottest ts).1 < 110 → s.dev.pwr.limit ≤ 7 → ∀ c, c < 8 → t.dev.rd R.PI_OPP_CUR (0x0D + c) ≤ s.dev.pwr.limit - 1)) ∧
  (∀ (ts : List Int) (s : State), 115 ≤ (hottest ts).1 ∧ s.dev.pins.thermTrip = false → ∃ t, exec (.thermalSample ts) s = .next t ∧ t.dev.pins.thermTrip = true ∧ t.dev.mram.tripped = true ∧ t.dev.rst.tripHold = true ∧ (∀ g, 1 ≤ g → g ≤ 7 → t.dev.rst.active.contains g = true ∨ SMap.has t.dev.rst.asked g = true) ∧ ⟨1, srcNum 0 1, (hottest ts).2⟩ ∈ t.dev.tk.sampled) ∧
  (∀ (s : State), s.dev.on R.PW_QUIET_CTRL_ARM = true ∧ timeOf96 (s.dev.rd R.PW_QUIET_START) ≤ s.dev.nowAt 8 ∧ s.dev.now < timeOf96 (s.dev.rd R.PW_QUIET_END) → ∃ t, exec (.quietWindowStart) s = .next t ∧ t = { s with dev := { s.dev with pwr := { s.dev.pwr with quiet := true } } }) ∧
  (∀ (s : State), s.dev.on R.PW_QUIET_CTRL_ARM = false → ∃ t, exec (.quietWindowStart) s = .next t ∧ t = s) ∧
  (∀ (s : State), s.dev.on R.PW_QUIET_CTRL_ARM = true ∧ timeOf96 (s.dev.rd R.PW_QUIET_END) ≤ s.dev.nowAt 8 → ∃ t, exec (.quietWindowEnd) s = .next t ∧ t.dev.on R.PW_QUIET_CTRL_ARM = false ∧ t.dev.pwr.quiet = false ∧ (t.dev.rd R.PI_STATUS_STATE 0x0A = 0 ∧ ∀ g, g < 4 → bit (s.dev.rd R.PW_QUIET_CTRL_GROUPS) g = true → t.dev.rd R.PI_STATUS_STATE (6 + g) = 0)) ∧
  (∀ (s : State), s.dev.on R.PW_QUIET_CTRL_ARM = false → ∃ t, exec (.quietWindowEnd) s = .next t ∧ t = s) ∧
  (∀ (n : Nat) (s : State), s.dev.rst.resetNLow = false ∧ n ≠ 10 → ∃ t, exec (.railFault n) s = .next t ∧ t.dev.pwr.rails = setBit s.dev.pwr.rails n true ∧ t.dev.mram.railFaults = setBit s.dev.mram.railFaults n true ∧ (n = 7 → t.dev.mram.down = true) ∧ t.dev.pins = s.dev.pins) ∧
  (∀ (s : State), s.dev.rst.resetNLow = false → ∃ t, exec (.railFault 10) s = .next t ∧ t = { s with dev := { s.dev with pins := { s.dev.pins with fuseOk := false } } }) ∧
  (∀ (n : Nat) (s : State), s.dev.rst.resetNLow = true → ∃ t, exec (.railFault n) s = .next t ∧ t = s) ∧
  (∀ (s : State), ∃ t, exec (.refSysLoss) s = .next t ∧ t = { s with dev := { s.dev with rst := { s.dev.rst with cold := some (s.dev.rst.cold.getD 5) }, pins := { s.dev.pins with refLost := true } } }) ∧
  (∀ (b : Bool) (s : State), s.dev.tb.pllSrc = 1 → ∃ t, exec (.timeRefLoss b) s = .next t ∧ (t.dev.tb = if b then { s.dev.tb with pllSrc := 0 } else { s.dev.tb with pllHold := true }) ∧ t.dev.rst = s.dev.rst) ∧
  (∀ (b : Bool) (s : State), s.dev.tb.pllSrc ≠ 1 → ∃ t, exec (.timeRefLoss b) s = .next t ∧ t = s) ∧
  (∀ (s : State), ∃ t, exec (.timeRefReturn) s = .next t ∧ t = { s with dev := { s.dev with tb := { s.dev.tb with pllHold := false } } }) ∧
  (∀ (n c : Nat) (s : State), s.dev.smbusByte c = some n → ∃ t, exec (.smbusReadByte c) s = .next t ∧ t = { s with dev := { s.dev with rbytes := [BitVec.ofNat 8 n, BitVec.ofNat 8 ([0x9C, c, 0x9D, n].foldl crc8Byte 0)] } }) ∧
  (∀ (c : Nat) (s : State), 3 ≤ c → ∃ t, exec (.smbusReadByte c) s = .next t ∧ t = { s with dev := { s.dev with rbytes := [] } })

end
end

