-- ==== Sys2Proof/Laws/State.lean ====
section
/-!
SUPPORT. What each update of the state leaves: one lemma for each field of the device under each of the updates that the families use, true
by unfolding. They let a proof pass an update without opening the record. The register reads `rd` and `on` pass every update but those of the
register file.
-/
namespace Sys2Proof.Machine

/-! ## State -/

@[simp] theorem State.onDev_pending (s : State) (f : Dev → Dev) : (s.onDev f).pending = s.pending := rfl
@[simp] theorem State.onDev_fuse (s : State) (f : Dev → Dev) : (s.onDev f).fuse = s.fuse := rfl
@[simp] theorem State.onDev_hbm (s : State) (f : Dev → Dev) : (s.onDev f).hbm = s.hbm := rfl
@[simp] theorem State.onDev_dev (s : State) (f : Dev → Dev) : (s.onDev f).dev = f s.dev := rfl

/-! ## Register writes -/

@[simp] theorem Dev.wr_tk (d : Dev) (f : Field) (v c i r : Nat) : (d.wr f v c i r).tk = d.tk := rfl
@[simp] theorem Dev.wr_rst (d : Dev) (f : Field) (v c i r : Nat) : (d.wr f v c i r).rst = d.rst := rfl
@[simp] theorem Dev.wr_vlac (d : Dev) (f : Field) (v c i r : Nat) : (d.wr f v c i r).vlac = d.vlac := rfl
@[simp] theorem Dev.wr_ports (d : Dev) (f : Field) (v c i r : Nat) : (d.wr f v c i r).ports = d.ports := rfl
@[simp] theorem Dev.wr_cal (d : Dev) (f : Field) (v c i r : Nat) : (d.wr f v c i r).cal = d.cal := rfl
@[simp] theorem Dev.wr_tb (d : Dev) (f : Field) (v c i r : Nat) : (d.wr f v c i r).tb = d.tb := rfl
@[simp] theorem Dev.wr_rein (d : Dev) (f : Field) (v c i r : Nat) : (d.wr f v c i r).rein = d.rein := rfl
@[simp] theorem Dev.wr_pins (d : Dev) (f : Field) (v c i r : Nat) : (d.wr f v c i r).pins = d.pins := rfl
@[simp] theorem Dev.wr_trig (d : Dev) (f : Field) (v c i r : Nat) : (d.wr f v c i r).trig = d.trig := rfl
@[simp] theorem Dev.wr_gates (d : Dev) (f : Field) (v c i r : Nat) : (d.wr f v c i r).gates = d.gates := rfl
@[simp] theorem Dev.wr_police (d : Dev) (f : Field) (v c i r : Nat) : (d.wr f v c i r).police = d.police := rfl
@[simp] theorem Dev.wr_sa (d : Dev) (f : Field) (v c i r : Nat) : (d.wr f v c i r).sa = d.sa := rfl
@[simp] theorem Dev.wr_sc (d : Dev) (f : Field) (v c i r : Nat) : (d.wr f v c i r).sc = d.sc := rfl
@[simp] theorem Dev.wr_hbmc (d : Dev) (f : Field) (v c i r : Nat) : (d.wr f v c i r).hbmc = d.hbmc := rfl
@[simp] theorem Dev.wr_host (d : Dev) (f : Field) (v c i r : Nat) : (d.wr f v c i r).host = d.host := rfl
@[simp] theorem Dev.wr_tab (d : Dev) (f : Field) (v c i r : Nat) : (d.wr f v c i r).tab = d.tab := rfl
@[simp] theorem Dev.wr_cls (d : Dev) (f : Field) (v c i r : Nat) : (d.wr f v c i r).cls = d.cls := rfl
@[simp] theorem Dev.wr_capt (d : Dev) (f : Field) (v c i r : Nat) : (d.wr f v c i r).capt = d.capt := rfl
@[simp] theorem Dev.wr_seq (d : Dev) (f : Field) (v c i r : Nat) : (d.wr f v c i r).seq = d.seq := rfl
@[simp] theorem Dev.wr_hide (d : Dev) (f : Field) (v c i r : Nat) : (d.wr f v c i r).hide = d.hide := rfl
@[simp] theorem Dev.wr_ira (d : Dev) (f : Field) (v c i r : Nat) : (d.wr f v c i r).ira = d.ira := rfl
@[simp] theorem Dev.wr_fab (d : Dev) (f : Field) (v c i r : Nat) : (d.wr f v c i r).fab = d.fab := rfl
@[simp] theorem Dev.wr_nvme (d : Dev) (f : Field) (v c i r : Nat) : (d.wr f v c i r).nvme = d.nvme := rfl
@[simp] theorem Dev.wr_encl (d : Dev) (f : Field) (v c i r : Nat) : (d.wr f v c i r).encl = d.encl := rfl
@[simp] theorem Dev.wr_boot (d : Dev) (f : Field) (v c i r : Nat) : (d.wr f v c i r).boot = d.boot := rfl
@[simp] theorem Dev.wr_flash (d : Dev) (f : Field) (v c i r : Nat) : (d.wr f v c i r).flash = d.flash := rfl
@[simp] theorem Dev.wr_obj (d : Dev) (f : Field) (v c i r : Nat) : (d.wr f v c i r).obj = d.obj := rfl
@[simp] theorem Dev.wr_hu (d : Dev) (f : Field) (v c i r : Nat) : (d.wr f v c i r).hu = d.hu := rfl
@[simp] theorem Dev.wr_pwr (d : Dev) (f : Field) (v c i r : Nat) : (d.wr f v c i r).pwr = d.pwr := rfl
@[simp] theorem Dev.wr_faults (d : Dev) (f : Field) (v c i r : Nat) : (d.wr f v c i r).faults = d.faults := rfl
@[simp] theorem Dev.wr_mram (d : Dev) (f : Field) (v c i r : Nat) : (d.wr f v c i r).mram = d.mram := rfl
@[simp] theorem Dev.wr_fnOut (d : Dev) (f : Field) (v c i r : Nat) : (d.wr f v c i r).fnOut = d.fnOut := rfl
@[simp] theorem Dev.wr_rdata (d : Dev) (f : Field) (v c i r : Nat) : (d.wr f v c i r).rdata = d.rdata := rfl
@[simp] theorem Dev.wr_rbytes (d : Dev) (f : Field) (v c i r : Nat) : (d.wr f v c i r).rbytes = d.rbytes := rfl
@[simp] theorem Dev.wr_rpoison (d : Dev) (f : Field) (v c i r : Nat) : (d.wr f v c i r).rpoison = d.rpoison := rfl
@[simp] theorem Dev.wr_fv (d : Dev) (f : Field) (v c i r : Nat) : (d.wr f v c i r).fv = d.fv := rfl

/-! ## Flags -/

@[simp] theorem Dev.flag_tk (d : Dev) (f : Field) (c i r : Nat) : (d.flag f c i r).tk = d.tk := rfl
@[simp] theorem Dev.flag_rst (d : Dev) (f : Field) (c i r : Nat) : (d.flag f c i r).rst = d.rst := rfl
@[simp] theorem Dev.flag_vlac (d : Dev) (f : Field) (c i r : Nat) : (d.flag f c i r).vlac = d.vlac := rfl
@[simp] theorem Dev.flag_ports (d : Dev) (f : Field) (c i r : Nat) : (d.flag f c i r).ports = d.ports := rfl
@[simp] theorem Dev.flag_cal (d : Dev) (f : Field) (c i r : Nat) : (d.flag f c i r).cal = d.cal := rfl
@[simp] theorem Dev.flag_tb (d : Dev) (f : Field) (c i r : Nat) : (d.flag f c i r).tb = d.tb := rfl
@[simp] theorem Dev.flag_rein (d : Dev) (f : Field) (c i r : Nat) : (d.flag f c i r).rein = d.rein := rfl
@[simp] theorem Dev.flag_pins (d : Dev) (f : Field) (c i r : Nat) : (d.flag f c i r).pins = d.pins := rfl
@[simp] theorem Dev.flag_trig (d : Dev) (f : Field) (c i r : Nat) : (d.flag f c i r).trig = d.trig := rfl
@[simp] theorem Dev.flag_gates (d : Dev) (f : Field) (c i r : Nat) : (d.flag f c i r).gates = d.gates := rfl
@[simp] theorem Dev.flag_police (d : Dev) (f : Field) (c i r : Nat) : (d.flag f c i r).police = d.police := rfl
@[simp] theorem Dev.flag_sa (d : Dev) (f : Field) (c i r : Nat) : (d.flag f c i r).sa = d.sa := rfl
@[simp] theorem Dev.flag_sc (d : Dev) (f : Field) (c i r : Nat) : (d.flag f c i r).sc = d.sc := rfl
@[simp] theorem Dev.flag_hbmc (d : Dev) (f : Field) (c i r : Nat) : (d.flag f c i r).hbmc = d.hbmc := rfl
@[simp] theorem Dev.flag_host (d : Dev) (f : Field) (c i r : Nat) : (d.flag f c i r).host = d.host := rfl
@[simp] theorem Dev.flag_tab (d : Dev) (f : Field) (c i r : Nat) : (d.flag f c i r).tab = d.tab := rfl
@[simp] theorem Dev.flag_cls (d : Dev) (f : Field) (c i r : Nat) : (d.flag f c i r).cls = d.cls := rfl
@[simp] theorem Dev.flag_capt (d : Dev) (f : Field) (c i r : Nat) : (d.flag f c i r).capt = d.capt := rfl
@[simp] theorem Dev.flag_seq (d : Dev) (f : Field) (c i r : Nat) : (d.flag f c i r).seq = d.seq := rfl
@[simp] theorem Dev.flag_hide (d : Dev) (f : Field) (c i r : Nat) : (d.flag f c i r).hide = d.hide := rfl
@[simp] theorem Dev.flag_ira (d : Dev) (f : Field) (c i r : Nat) : (d.flag f c i r).ira = d.ira := rfl
@[simp] theorem Dev.flag_fab (d : Dev) (f : Field) (c i r : Nat) : (d.flag f c i r).fab = d.fab := rfl
@[simp] theorem Dev.flag_nvme (d : Dev) (f : Field) (c i r : Nat) : (d.flag f c i r).nvme = d.nvme := rfl
@[simp] theorem Dev.flag_encl (d : Dev) (f : Field) (c i r : Nat) : (d.flag f c i r).encl = d.encl := rfl
@[simp] theorem Dev.flag_boot (d : Dev) (f : Field) (c i r : Nat) : (d.flag f c i r).boot = d.boot := rfl
@[simp] theorem Dev.flag_flash (d : Dev) (f : Field) (c i r : Nat) : (d.flag f c i r).flash = d.flash := rfl
@[simp] theorem Dev.flag_obj (d : Dev) (f : Field) (c i r : Nat) : (d.flag f c i r).obj = d.obj := rfl
@[simp] theorem Dev.flag_hu (d : Dev) (f : Field) (c i r : Nat) : (d.flag f c i r).hu = d.hu := rfl
@[simp] theorem Dev.flag_pwr (d : Dev) (f : Field) (c i r : Nat) : (d.flag f c i r).pwr = d.pwr := rfl
@[simp] theorem Dev.flag_faults (d : Dev) (f : Field) (c i r : Nat) : (d.flag f c i r).faults = d.faults := rfl
@[simp] theorem Dev.flag_mram (d : Dev) (f : Field) (c i r : Nat) : (d.flag f c i r).mram = d.mram := rfl
@[simp] theorem Dev.flag_fnOut (d : Dev) (f : Field) (c i r : Nat) : (d.flag f c i r).fnOut = d.fnOut := rfl
@[simp] theorem Dev.flag_rdata (d : Dev) (f : Field) (c i r : Nat) : (d.flag f c i r).rdata = d.rdata := rfl
@[simp] theorem Dev.flag_rbytes (d : Dev) (f : Field) (c i r : Nat) : (d.flag f c i r).rbytes = d.rbytes := rfl
@[simp] theorem Dev.flag_rpoison (d : Dev) (f : Field) (c i r : Nat) : (d.flag f c i r).rpoison = d.rpoison := rfl
@[simp] theorem Dev.flag_fv (d : Dev) (f : Field) (c i r : Nat) : (d.flag f c i r).fv = d.fv := rfl

/-! ## Counters -/

@[simp] theorem Dev.count_tk (d : Dev) (f : Field) (n c i : Nat) : (d.count f n c i).tk = d.tk := rfl
@[simp] theorem Dev.count_rst (d : Dev) (f : Field) (n c i : Nat) : (d.count f n c i).rst = d.rst := rfl
@[simp] theorem Dev.count_vlac (d : Dev) (f : Field) (n c i : Nat) : (d.count f n c i).vlac = d.vlac := rfl
@[simp] theorem Dev.count_ports (d : Dev) (f : Field) (n c i : Nat) : (d.count f n c i).ports = d.ports := rfl
@[simp] theorem Dev.count_cal (d : Dev) (f : Field) (n c i : Nat) : (d.count f n c i).cal = d.cal := rfl
@[simp] theorem Dev.count_tb (d : Dev) (f : Field) (n c i : Nat) : (d.count f n c i).tb = d.tb := rfl
@[simp] theorem Dev.count_rein (d : Dev) (f : Field) (n c i : Nat) : (d.count f n c i).rein = d.rein := rfl
@[simp] theorem Dev.count_pins (d : Dev) (f : Field) (n c i : Nat) : (d.count f n c i).pins = d.pins := rfl
@[simp] theorem Dev.count_trig (d : Dev) (f : Field) (n c i : Nat) : (d.count f n c i).trig = d.trig := rfl
@[simp] theorem Dev.count_gates (d : Dev) (f : Field) (n c i : Nat) : (d.count f n c i).gates = d.gates := rfl
@[simp] theorem Dev.count_police (d : Dev) (f : Field) (n c i : Nat) : (d.count f n c i).police = d.police := rfl
@[simp] theorem Dev.count_sa (d : Dev) (f : Field) (n c i : Nat) : (d.count f n c i).sa = d.sa := rfl
@[simp] theorem Dev.count_sc (d : Dev) (f : Field) (n c i : Nat) : (d.count f n c i).sc = d.sc := rfl
@[simp] theorem Dev.count_hbmc (d : Dev) (f : Field) (n c i : Nat) : (d.count f n c i).hbmc = d.hbmc := rfl
@[simp] theorem Dev.count_host (d : Dev) (f : Field) (n c i : Nat) : (d.count f n c i).host = d.host := rfl
@[simp] theorem Dev.count_tab (d : Dev) (f : Field) (n c i : Nat) : (d.count f n c i).tab = d.tab := rfl
@[simp] theorem Dev.count_cls (d : Dev) (f : Field) (n c i : Nat) : (d.count f n c i).cls = d.cls := rfl
@[simp] theorem Dev.count_capt (d : Dev) (f : Field) (n c i : Nat) : (d.count f n c i).capt = d.capt := rfl
@[simp] theorem Dev.count_seq (d : Dev) (f : Field) (n c i : Nat) : (d.count f n c i).seq = d.seq := rfl
@[simp] theorem Dev.count_hide (d : Dev) (f : Field) (n c i : Nat) : (d.count f n c i).hide = d.hide := rfl
@[simp] theorem Dev.count_ira (d : Dev) (f : Field) (n c i : Nat) : (d.count f n c i).ira = d.ira := rfl
@[simp] theorem Dev.count_fab (d : Dev) (f : Field) (n c i : Nat) : (d.count f n c i).fab = d.fab := rfl
@[simp] theorem Dev.count_nvme (d : Dev) (f : Field) (n c i : Nat) : (d.count f n c i).nvme = d.nvme := rfl
@[simp] theorem Dev.count_encl (d : Dev) (f : Field) (n c i : Nat) : (d.count f n c i).encl = d.encl := rfl
@[simp] theorem Dev.count_boot (d : Dev) (f : Field) (n c i : Nat) : (d.count f n c i).boot = d.boot := rfl
@[simp] theorem Dev.count_flash (d : Dev) (f : Field) (n c i : Nat) : (d.count f n c i).flash = d.flash := rfl
@[simp] theorem Dev.count_obj (d : Dev) (f : Field) (n c i : Nat) : (d.count f n c i).obj = d.obj := rfl
@[simp] theorem Dev.count_hu (d : Dev) (f : Field) (n c i : Nat) : (d.count f n c i).hu = d.hu := rfl
@[simp] theorem Dev.count_pwr (d : Dev) (f : Field) (n c i : Nat) : (d.count f n c i).pwr = d.pwr := rfl
@[simp] theorem Dev.count_faults (d : Dev) (f : Field) (n c i : Nat) : (d.count f n c i).faults = d.faults := rfl
@[simp] theorem Dev.count_mram (d : Dev) (f : Field) (n c i : Nat) : (d.count f n c i).mram = d.mram := rfl
@[simp] theorem Dev.count_fnOut (d : Dev) (f : Field) (n c i : Nat) : (d.count f n c i).fnOut = d.fnOut := rfl
@[simp] theorem Dev.count_rdata (d : Dev) (f : Field) (n c i : Nat) : (d.count f n c i).rdata = d.rdata := rfl
@[simp] theorem Dev.count_rbytes (d : Dev) (f : Field) (n c i : Nat) : (d.count f n c i).rbytes = d.rbytes := rfl
@[simp] theorem Dev.count_rpoison (d : Dev) (f : Field) (n c i : Nat) : (d.count f n c i).rpoison = d.rpoison := rfl
@[simp] theorem Dev.count_fv (d : Dev) (f : Field) (n c i : Nat) : (d.count f n c i).fv = d.fv := rfl

/-! ## Saturating counters -/

@[simp] theorem Dev.countSat_tk (d : Dev) (f : Field) (n c i : Nat) : (d.countSat f n c i).tk = d.tk := rfl
@[simp] theorem Dev.countSat_rst (d : Dev) (f : Field) (n c i : Nat) : (d.countSat f n c i).rst = d.rst := rfl
@[simp] theorem Dev.countSat_vlac (d : Dev) (f : Field) (n c i : Nat) : (d.countSat f n c i).vlac = d.vlac := rfl
@[simp] theorem Dev.countSat_ports (d : Dev) (f : Field) (n c i : Nat) : (d.countSat f n c i).ports = d.ports := rfl
@[simp] theorem Dev.countSat_cal (d : Dev) (f : Field) (n c i : Nat) : (d.countSat f n c i).cal = d.cal := rfl
@[simp] theorem Dev.countSat_tb (d : Dev) (f : Field) (n c i : Nat) : (d.countSat f n c i).tb = d.tb := rfl
@[simp] theorem Dev.countSat_rein (d : Dev) (f : Field) (n c i : Nat) : (d.countSat f n c i).rein = d.rein := rfl
@[simp] theorem Dev.countSat_pins (d : Dev) (f : Field) (n c i : Nat) : (d.countSat f n c i).pins = d.pins := rfl
@[simp] theorem Dev.countSat_trig (d : Dev) (f : Field) (n c i : Nat) : (d.countSat f n c i).trig = d.trig := rfl
@[simp] theorem Dev.countSat_gates (d : Dev) (f : Field) (n c i : Nat) : (d.countSat f n c i).gates = d.gates := rfl
@[simp] theorem Dev.countSat_police (d : Dev) (f : Field) (n c i : Nat) : (d.countSat f n c i).police = d.police := rfl
@[simp] theorem Dev.countSat_sa (d : Dev) (f : Field) (n c i : Nat) : (d.countSat f n c i).sa = d.sa := rfl
@[simp] theorem Dev.countSat_sc (d : Dev) (f : Field) (n c i : Nat) : (d.countSat f n c i).sc = d.sc := rfl
@[simp] theorem Dev.countSat_hbmc (d : Dev) (f : Field) (n c i : Nat) : (d.countSat f n c i).hbmc = d.hbmc := rfl
@[simp] theorem Dev.countSat_host (d : Dev) (f : Field) (n c i : Nat) : (d.countSat f n c i).host = d.host := rfl
@[simp] theorem Dev.countSat_tab (d : Dev) (f : Field) (n c i : Nat) : (d.countSat f n c i).tab = d.tab := rfl
@[simp] theorem Dev.countSat_cls (d : Dev) (f : Field) (n c i : Nat) : (d.countSat f n c i).cls = d.cls := rfl
@[simp] theorem Dev.countSat_capt (d : Dev) (f : Field) (n c i : Nat) : (d.countSat f n c i).capt = d.capt := rfl
@[simp] theorem Dev.countSat_seq (d : Dev) (f : Field) (n c i : Nat) : (d.countSat f n c i).seq = d.seq := rfl
@[simp] theorem Dev.countSat_hide (d : Dev) (f : Field) (n c i : Nat) : (d.countSat f n c i).hide = d.hide := rfl
@[simp] theorem Dev.countSat_ira (d : Dev) (f : Field) (n c i : Nat) : (d.countSat f n c i).ira = d.ira := rfl
@[simp] theorem Dev.countSat_fab (d : Dev) (f : Field) (n c i : Nat) : (d.countSat f n c i).fab = d.fab := rfl
@[simp] theorem Dev.countSat_nvme (d : Dev) (f : Field) (n c i : Nat) : (d.countSat f n c i).nvme = d.nvme := rfl
@[simp] theorem Dev.countSat_encl (d : Dev) (f : Field) (n c i : Nat) : (d.countSat f n c i).encl = d.encl := rfl
@[simp] theorem Dev.countSat_boot (d : Dev) (f : Field) (n c i : Nat) : (d.countSat f n c i).boot = d.boot := rfl
@[simp] theorem Dev.countSat_flash (d : Dev) (f : Field) (n c i : Nat) : (d.countSat f n c i).flash = d.flash := rfl
@[simp] theorem Dev.countSat_obj (d : Dev) (f : Field) (n c i : Nat) : (d.countSat f n c i).obj = d.obj := rfl
@[simp] theorem Dev.countSat_hu (d : Dev) (f : Field) (n c i : Nat) : (d.countSat f n c i).hu = d.hu := rfl
@[simp] theorem Dev.countSat_pwr (d : Dev) (f : Field) (n c i : Nat) : (d.countSat f n c i).pwr = d.pwr := rfl
@[simp] theorem Dev.countSat_faults (d : Dev) (f : Field) (n c i : Nat) : (d.countSat f n c i).faults = d.faults := rfl
@[simp] theorem Dev.countSat_mram (d : Dev) (f : Field) (n c i : Nat) : (d.countSat f n c i).mram = d.mram := rfl
@[simp] theorem Dev.countSat_fnOut (d : Dev) (f : Field) (n c i : Nat) : (d.countSat f n c i).fnOut = d.fnOut := rfl
@[simp] theorem Dev.countSat_rdata (d : Dev) (f : Field) (n c i : Nat) : (d.countSat f n c i).rdata = d.rdata := rfl
@[simp] theorem Dev.countSat_rbytes (d : Dev) (f : Field) (n c i : Nat) : (d.countSat f n c i).rbytes = d.rbytes := rfl
@[simp] theorem Dev.countSat_rpoison (d : Dev) (f : Field) (n c i : Nat) : (d.countSat f n c i).rpoison = d.rpoison := rfl
@[simp] theorem Dev.countSat_fv (d : Dev) (f : Field) (n c i : Nat) : (d.countSat f n c i).fv = d.fv := rfl

/-! ## Events -/

@[simp] theorem Dev.raise_regs (d : Dev) (a b n : Nat) : (d.raise a b n).regs = d.regs := rfl
@[simp] theorem Dev.raise_rst (d : Dev) (a b n : Nat) : (d.raise a b n).rst = d.rst := rfl
@[simp] theorem Dev.raise_vlac (d : Dev) (a b n : Nat) : (d.raise a b n).vlac = d.vlac := rfl
@[simp] theorem Dev.raise_ports (d : Dev) (a b n : Nat) : (d.raise a b n).ports = d.ports := rfl
@[simp] theorem Dev.raise_cal (d : Dev) (a b n : Nat) : (d.raise a b n).cal = d.cal := rfl
@[simp] theorem Dev.raise_tb (d : Dev) (a b n : Nat) : (d.raise a b n).tb = d.tb := rfl
@[simp] theorem Dev.raise_rein (d : Dev) (a b n : Nat) : (d.raise a b n).rein = d.rein := rfl
@[simp] theorem Dev.raise_pins (d : Dev) (a b n : Nat) : (d.raise a b n).pins = d.pins := rfl
@[simp] theorem Dev.raise_trig (d : Dev) (a b n : Nat) : (d.raise a b n).trig = d.trig := rfl
@[simp] theorem Dev.raise_gates (d : Dev) (a b n : Nat) : (d.raise a b n).gates = d.gates := rfl
@[simp] theorem Dev.raise_police (d : Dev) (a b n : Nat) : (d.raise a b n).police = d.police := rfl
@[simp] theorem Dev.raise_sa (d : Dev) (a b n : Nat) : (d.raise a b n).sa = d.sa := rfl
@[simp] theorem Dev.raise_sc (d : Dev) (a b n : Nat) : (d.raise a b n).sc = d.sc := rfl
@[simp] theorem Dev.raise_hbmc (d : Dev) (a b n : Nat) : (d.raise a b n).hbmc = d.hbmc := rfl
@[simp] theorem Dev.raise_host (d : Dev) (a b n : Nat) : (d.raise a b n).host = d.host := rfl
@[simp] theorem Dev.raise_tab (d : Dev) (a b n : Nat) : (d.raise a b n).tab = d.tab := rfl
@[simp] theorem Dev.raise_cls (d : Dev) (a b n : Nat) : (d.raise a b n).cls = d.cls := rfl
@[simp] theorem Dev.raise_capt (d : Dev) (a b n : Nat) : (d.raise a b n).capt = d.capt := rfl
@[simp] theorem Dev.raise_seq (d : Dev) (a b n : Nat) : (d.raise a b n).seq = d.seq := rfl
@[simp] theorem Dev.raise_hide (d : Dev) (a b n : Nat) : (d.raise a b n).hide = d.hide := rfl
@[simp] theorem Dev.raise_ira (d : Dev) (a b n : Nat) : (d.raise a b n).ira = d.ira := rfl
@[simp] theorem Dev.raise_fab (d : Dev) (a b n : Nat) : (d.raise a b n).fab = d.fab := rfl
@[simp] theorem Dev.raise_nvme (d : Dev) (a b n : Nat) : (d.raise a b n).nvme = d.nvme := rfl
@[simp] theorem Dev.raise_encl (d : Dev) (a b n : Nat) : (d.raise a b n).encl = d.encl := rfl
@[simp] theorem Dev.raise_boot (d : Dev) (a b n : Nat) : (d.raise a b n).boot = d.boot := rfl
@[simp] theorem Dev.raise_flash (d : Dev) (a b n : Nat) : (d.raise a b n).flash = d.flash := rfl
@[simp] theorem Dev.raise_obj (d : Dev) (a b n : Nat) : (d.raise a b n).obj = d.obj := rfl
@[simp] theorem Dev.raise_hu (d : Dev) (a b n : Nat) : (d.raise a b n).hu = d.hu := rfl
@[simp] theorem Dev.raise_pwr (d : Dev) (a b n : Nat) : (d.raise a b n).pwr = d.pwr := rfl
@[simp] theorem Dev.raise_faults (d : Dev) (a b n : Nat) : (d.raise a b n).faults = d.faults := rfl
@[simp] theorem Dev.raise_mram (d : Dev) (a b n : Nat) : (d.raise a b n).mram = d.mram := rfl
@[simp] theorem Dev.raise_fnOut (d : Dev) (a b n : Nat) : (d.raise a b n).fnOut = d.fnOut := rfl
@[simp] theorem Dev.raise_rdata (d : Dev) (a b n : Nat) : (d.raise a b n).rdata = d.rdata := rfl
@[simp] theorem Dev.raise_rbytes (d : Dev) (a b n : Nat) : (d.raise a b n).rbytes = d.rbytes := rfl
@[simp] theorem Dev.raise_rpoison (d : Dev) (a b n : Nat) : (d.raise a b n).rpoison = d.rpoison := rfl
@[simp] theorem Dev.raise_fv (d : Dev) (a b n : Nat) : (d.raise a b n).fv = d.fv := rfl
@[simp] theorem Dev.raise_rd (d : Dev) (a b n : Nat) (g : Field) (k j w : Nat) : (d.raise a b n).rd g k j w = d.rd g k j w := rfl
@[simp] theorem Dev.raise_on (d : Dev) (a b n : Nat) (g : Field) (k j w : Nat) : (d.raise a b n).on g k j w = d.on g k j w := rfl

@[simp] theorem Dev.raise_etick (d : Dev) (a b n : Nat) : (d.raise a b n).tk.etick = d.tk.etick := rfl
@[simp] theorem Dev.raise_sampled (d : Dev) (a b n : Nat) : (d.raise a b n).tk.sampled = d.tk.sampled ++ [⟨a, b, n⟩] := rfl
@[simp] theorem Dev.raise_acts (d : Dev) (a b n : Nat) : (d.raise a b n).tk.acts = d.tk.acts := rfl
/-! ## Sampled writes -/

@[simp] theorem Dev.sampleWrite_regs (d : Dev) (q n : Nat) : (d.sampleWrite q n).regs = d.regs := rfl
@[simp] theorem Dev.sampleWrite_rst (d : Dev) (q n : Nat) : (d.sampleWrite q n).rst = d.rst := rfl
@[simp] theorem Dev.sampleWrite_vlac (d : Dev) (q n : Nat) : (d.sampleWrite q n).vlac = d.vlac := rfl
@[simp] theorem Dev.sampleWrite_ports (d : Dev) (q n : Nat) : (d.sampleWrite q n).ports = d.ports := rfl
@[simp] theorem Dev.sampleWrite_cal (d : Dev) (q n : Nat) : (d.sampleWrite q n).cal = d.cal := rfl
@[simp] theorem Dev.sampleWrite_tb (d : Dev) (q n : Nat) : (d.sampleWrite q n).tb = d.tb := rfl
@[simp] theorem Dev.sampleWrite_rein (d : Dev) (q n : Nat) : (d.sampleWrite q n).rein = d.rein := rfl
@[simp] theorem Dev.sampleWrite_pins (d : Dev) (q n : Nat) : (d.sampleWrite q n).pins = d.pins := rfl
@[simp] theorem Dev.sampleWrite_trig (d : Dev) (q n : Nat) : (d.sampleWrite q n).trig = d.trig := rfl
@[simp] theorem Dev.sampleWrite_gates (d : Dev) (q n : Nat) : (d.sampleWrite q n).gates = d.gates := rfl
@[simp] theorem Dev.sampleWrite_police (d : Dev) (q n : Nat) : (d.sampleWrite q n).police = d.police := rfl
@[simp] theorem Dev.sampleWrite_sa (d : Dev) (q n : Nat) : (d.sampleWrite q n).sa = d.sa := rfl
@[simp] theorem Dev.sampleWrite_sc (d : Dev) (q n : Nat) : (d.sampleWrite q n).sc = d.sc := rfl
@[simp] theorem Dev.sampleWrite_hbmc (d : Dev) (q n : Nat) : (d.sampleWrite q n).hbmc = d.hbmc := rfl
@[simp] theorem Dev.sampleWrite_host (d : Dev) (q n : Nat) : (d.sampleWrite q n).host = d.host := rfl
@[simp] theorem Dev.sampleWrite_tab (d : Dev) (q n : Nat) : (d.sampleWrite q n).tab = d.tab := rfl
@[simp] theorem Dev.sampleWrite_cls (d : Dev) (q n : Nat) : (d.sampleWrite q n).cls = d.cls := rfl
@[simp] theorem Dev.sampleWrite_capt (d : Dev) (q n : Nat) : (d.sampleWrite q n).capt = d.capt := rfl
@[simp] theorem Dev.sampleWrite_seq (d : Dev) (q n : Nat) : (d.sampleWrite q n).seq = d.seq := rfl
@[simp] theorem Dev.sampleWrite_hide (d : Dev) (q n : Nat) : (d.sampleWrite q n).hide = d.hide := rfl
@[simp] theorem Dev.sampleWrite_ira (d : Dev) (q n : Nat) : (d.sampleWrite q n).ira = d.ira := rfl
@[simp] theorem Dev.sampleWrite_fab (d : Dev) (q n : Nat) : (d.sampleWrite q n).fab = d.fab := rfl
@[simp] theorem Dev.sampleWrite_nvme (d : Dev) (q n : Nat) : (d.sampleWrite q n).nvme = d.nvme := rfl
@[simp] theorem Dev.sampleWrite_encl (d : Dev) (q n : Nat) : (d.sampleWrite q n).encl = d.encl := rfl
@[simp] theorem Dev.sampleWrite_boot (d : Dev) (q n : Nat) : (d.sampleWrite q n).boot = d.boot := rfl
@[simp] theorem Dev.sampleWrite_flash (d : Dev) (q n : Nat) : (d.sampleWrite q n).flash = d.flash := rfl
@[simp] theorem Dev.sampleWrite_obj (d : Dev) (q n : Nat) : (d.sampleWrite q n).obj = d.obj := rfl
@[simp] theorem Dev.sampleWrite_hu (d : Dev) (q n : Nat) : (d.sampleWrite q n).hu = d.hu := rfl
@[simp] theorem Dev.sampleWrite_pwr (d : Dev) (q n : Nat) : (d.sampleWrite q n).pwr = d.pwr := rfl
@[simp] theorem Dev.sampleWrite_faults (d : Dev) (q n : Nat) : (d.sampleWrite q n).faults = d.faults := rfl
@[simp] theorem Dev.sampleWrite_mram (d : Dev) (q n : Nat) : (d.sampleWrite q n).mram = d.mram := rfl
@[simp] theorem Dev.sampleWrite_fnOut (d : Dev) (q n : Nat) : (d.sampleWrite q n).fnOut = d.fnOut := rfl
@[simp] theorem Dev.sampleWrite_rdata (d : Dev) (q n : Nat) : (d.sampleWrite q n).rdata = d.rdata := rfl
@[simp] theorem Dev.sampleWrite_rbytes (d : Dev) (q n : Nat) : (d.sampleWrite q n).rbytes = d.rbytes := rfl
@[simp] theorem Dev.sampleWrite_rpoison (d : Dev) (q n : Nat) : (d.sampleWrite q n).rpoison = d.rpoison := rfl
@[simp] theorem Dev.sampleWrite_fv (d : Dev) (q n : Nat) : (d.sampleWrite q n).fv = d.fv := rfl
@[simp] theorem Dev.sampleWrite_rd (d : Dev) (q n : Nat) (g : Field) (k j w : Nat) : (d.sampleWrite q n).rd g k j w = d.rd g k j w := rfl
@[simp] theorem Dev.sampleWrite_on (d : Dev) (q n : Nat) (g : Field) (k j w : Nat) : (d.sampleWrite q n).on g k j w = d.on g k j w := rfl

@[simp] theorem Dev.sampleWrite_etick (d : Dev) (q n : Nat) : (d.sampleWrite q n).tk.etick = d.tk.etick := rfl
@[simp] theorem Dev.sampleWrite_sampled (d : Dev) (q n : Nat) :
    (d.sampleWrite q n).tk.sampled = d.tk.sampled ++ [⟨9, srcNum (reqIsland q) 0, n⟩] := rfl
@[simp] theorem Dev.sampleWrite_acts (d : Dev) (q n : Nat) : (d.sampleWrite q n).tk.acts = d.tk.acts := rfl
/-! ## Boundary actions -/

@[simp] theorem Dev.postAct_regs (d : Dev) (a b : Nat) (x : BndAct) : (d.postAct a b x).regs = d.regs := rfl
@[simp] theorem Dev.postAct_rst (d : Dev) (a b : Nat) (x : BndAct) : (d.postAct a b x).rst = d.rst := rfl
@[simp] theorem Dev.postAct_vlac (d : Dev) (a b : Nat) (x : BndAct) : (d.postAct a b x).vlac = d.vlac := rfl
@[simp] theorem Dev.postAct_ports (d : Dev) (a b : Nat) (x : BndAct) : (d.postAct a b x).ports = d.ports := rfl
@[simp] theorem Dev.postAct_cal (d : Dev) (a b : Nat) (x : BndAct) : (d.postAct a b x).cal = d.cal := rfl
@[simp] theorem Dev.postAct_tb (d : Dev) (a b : Nat) (x : BndAct) : (d.postAct a b x).tb = d.tb := rfl
@[simp] theorem Dev.postAct_rein (d : Dev) (a b : Nat) (x : BndAct) : (d.postAct a b x).rein = d.rein := rfl
@[simp] theorem Dev.postAct_pins (d : Dev) (a b : Nat) (x : BndAct) : (d.postAct a b x).pins = d.pins := rfl
@[simp] theorem Dev.postAct_trig (d : Dev) (a b : Nat) (x : BndAct) : (d.postAct a b x).trig = d.trig := rfl
@[simp] theorem Dev.postAct_gates (d : Dev) (a b : Nat) (x : BndAct) : (d.postAct a b x).gates = d.gates := rfl
@[simp] theorem Dev.postAct_police (d : Dev) (a b : Nat) (x : BndAct) : (d.postAct a b x).police = d.police := rfl
@[simp] theorem Dev.postAct_sa (d : Dev) (a b : Nat) (x : BndAct) : (d.postAct a b x).sa = d.sa := rfl
@[simp] theorem Dev.postAct_sc (d : Dev) (a b : Nat) (x : BndAct) : (d.postAct a b x).sc = d.sc := rfl
@[simp] theorem Dev.postAct_hbmc (d : Dev) (a b : Nat) (x : BndAct) : (d.postAct a b x).hbmc = d.hbmc := rfl
@[simp] theorem Dev.postAct_host (d : Dev) (a b : Nat) (x : BndAct) : (d.postAct a b x).host = d.host := rfl
@[simp] theorem Dev.postAct_tab (d : Dev) (a b : Nat) (x : BndAct) : (d.postAct a b x).tab = d.tab := rfl
@[simp] theorem Dev.postAct_cls (d : Dev) (a b : Nat) (x : BndAct) : (d.postAct a b x).cls = d.cls := rfl
@[simp] theorem Dev.postAct_capt (d : Dev) (a b : Nat) (x : BndAct) : (d.postAct a b x).capt = d.capt := rfl
@[simp] theorem Dev.postAct_seq (d : Dev) (a b : Nat) (x : BndAct) : (d.postAct a b x).seq = d.seq := rfl
@[simp] theorem Dev.postAct_hide (d : Dev) (a b : Nat) (x : BndAct) : (d.postAct a b x).hide = d.hide := rfl
@[simp] theorem Dev.postAct_ira (d : Dev) (a b : Nat) (x : BndAct) : (d.postAct a b x).ira = d.ira := rfl
@[simp] theorem Dev.postAct_fab (d : Dev) (a b : Nat) (x : BndAct) : (d.postAct a b x).fab = d.fab := rfl
@[simp] theorem Dev.postAct_nvme (d : Dev) (a b : Nat) (x : BndAct) : (d.postAct a b x).nvme = d.nvme := rfl
@[simp] theorem Dev.postAct_encl (d : Dev) (a b : Nat) (x : BndAct) : (d.postAct a b x).encl = d.encl := rfl
@[simp] theorem Dev.postAct_boot (d : Dev) (a b : Nat) (x : BndAct) : (d.postAct a b x).boot = d.boot := rfl
@[simp] theorem Dev.postAct_flash (d : Dev) (a b : Nat) (x : BndAct) : (d.postAct a b x).flash = d.flash := rfl
@[simp] theorem Dev.postAct_obj (d : Dev) (a b : Nat) (x : BndAct) : (d.postAct a b x).obj = d.obj := rfl
@[simp] theorem Dev.postAct_hu (d : Dev) (a b : Nat) (x : BndAct) : (d.postAct a b x).hu = d.hu := rfl
@[simp] theorem Dev.postAct_pwr (d : Dev) (a b : Nat) (x : BndAct) : (d.postAct a b x).pwr = d.pwr := rfl
@[simp] theorem Dev.postAct_faults (d : Dev) (a b : Nat) (x : BndAct) : (d.postAct a b x).faults = d.faults := rfl
@[simp] theorem Dev.postAct_mram (d : Dev) (a b : Nat) (x : BndAct) : (d.postAct a b x).mram = d.mram := rfl
@[simp] theorem Dev.postAct_fnOut (d : Dev) (a b : Nat) (x : BndAct) : (d.postAct a b x).fnOut = d.fnOut := rfl
@[simp] theorem Dev.postAct_rdata (d : Dev) (a b : Nat) (x : BndAct) : (d.postAct a b x).rdata = d.rdata := rfl
@[simp] theorem Dev.postAct_rbytes (d : Dev) (a b : Nat) (x : BndAct) : (d.postAct a b x).rbytes = d.rbytes := rfl
@[simp] theorem Dev.postAct_rpoison (d : Dev) (a b : Nat) (x : BndAct) : (d.postAct a b x).rpoison = d.rpoison := rfl
@[simp] theorem Dev.postAct_fv (d : Dev) (a b : Nat) (x : BndAct) : (d.postAct a b x).fv = d.fv := rfl
@[simp] theorem Dev.postAct_rd (d : Dev) (a b : Nat) (x : BndAct) (g : Field) (k j w : Nat) : (d.postAct a b x).rd g k j w = d.rd g k j w := rfl
@[simp] theorem Dev.postAct_on (d : Dev) (a b : Nat) (x : BndAct) (g : Field) (k j w : Nat) : (d.postAct a b x).on g k j w = d.on g k j w := rfl

@[simp] theorem Dev.postAct_etick (d : Dev) (a b : Nat) (x : BndAct) : (d.postAct a b x).tk.etick = d.tk.etick := rfl
@[simp] theorem Dev.postAct_sampled (d : Dev) (a b : Nat) (x : BndAct) : (d.postAct a b x).tk.sampled = d.tk.sampled := rfl
@[simp] theorem Dev.postAct_acts (d : Dev) (a b : Nat) (x : BndAct) : (d.postAct a b x).tk.acts = d.tk.acts ++ [⟨a, b, x⟩] := rfl
/-! ## Read registers -/

@[simp] theorem Dev.ret_regs (d : Dev) (v : Nat) : (d.ret v).regs = d.regs := rfl
@[simp] theorem Dev.ret_tk (d : Dev) (v : Nat) : (d.ret v).tk = d.tk := rfl
@[simp] theorem Dev.ret_rst (d : Dev) (v : Nat) : (d.ret v).rst = d.rst := rfl
@[simp] theorem Dev.ret_vlac (d : Dev) (v : Nat) : (d.ret v).vlac = d.vlac := rfl
@[simp] theorem Dev.ret_ports (d : Dev) (v : Nat) : (d.ret v).ports = d.ports := rfl
@[simp] theorem Dev.ret_cal (d : Dev) (v : Nat) : (d.ret v).cal = d.cal := rfl
@[simp] theorem Dev.ret_tb (d : Dev) (v : Nat) : (d.ret v).tb = d.tb := rfl
@[simp] theorem Dev.ret_rein (d : Dev) (v : Nat) : (d.ret v).rein = d.rein := rfl
@[simp] theorem Dev.ret_pins (d : Dev) (v : Nat) : (d.ret v).pins = d.pins := rfl
@[simp] theorem Dev.ret_trig (d : Dev) (v : Nat) : (d.ret v).trig = d.trig := rfl
@[simp] theorem Dev.ret_gates (d : Dev) (v : Nat) : (d.ret v).gates = d.gates := rfl
@[simp] theorem Dev.ret_police (d : Dev) (v : Nat) : (d.ret v).police = d.police := rfl
@[simp] theorem Dev.ret_sa (d : Dev) (v : Nat) : (d.ret v).sa = d.sa := rfl
@[simp] theorem Dev.ret_sc (d : Dev) (v : Nat) : (d.ret v).sc = d.sc := rfl
@[simp] theorem Dev.ret_hbmc (d : Dev) (v : Nat) : (d.ret v).hbmc = d.hbmc := rfl
@[simp] theorem Dev.ret_host (d : Dev) (v : Nat) : (d.ret v).host = d.host := rfl
@[simp] theorem Dev.ret_tab (d : Dev) (v : Nat) : (d.ret v).tab = d.tab := rfl
@[simp] theorem Dev.ret_cls (d : Dev) (v : Nat) : (d.ret v).cls = d.cls := rfl
@[simp] theorem Dev.ret_capt (d : Dev) (v : Nat) : (d.ret v).capt = d.capt := rfl
@[simp] theorem Dev.ret_seq (d : Dev) (v : Nat) : (d.ret v).seq = d.seq := rfl
@[simp] theorem Dev.ret_hide (d : Dev) (v : Nat) : (d.ret v).hide = d.hide := rfl
@[simp] theorem Dev.ret_ira (d : Dev) (v : Nat) : (d.ret v).ira = d.ira := rfl
@[simp] theorem Dev.ret_fab (d : Dev) (v : Nat) : (d.ret v).fab = d.fab := rfl
@[simp] theorem Dev.ret_nvme (d : Dev) (v : Nat) : (d.ret v).nvme = d.nvme := rfl
@[simp] theorem Dev.ret_encl (d : Dev) (v : Nat) : (d.ret v).encl = d.encl := rfl
@[simp] theorem Dev.ret_boot (d : Dev) (v : Nat) : (d.ret v).boot = d.boot := rfl
@[simp] theorem Dev.ret_flash (d : Dev) (v : Nat) : (d.ret v).flash = d.flash := rfl
@[simp] theorem Dev.ret_obj (d : Dev) (v : Nat) : (d.ret v).obj = d.obj := rfl
@[simp] theorem Dev.ret_hu (d : Dev) (v : Nat) : (d.ret v).hu = d.hu := rfl
@[simp] theorem Dev.ret_pwr (d : Dev) (v : Nat) : (d.ret v).pwr = d.pwr := rfl
@[simp] theorem Dev.ret_faults (d : Dev) (v : Nat) : (d.ret v).faults = d.faults := rfl
@[simp] theorem Dev.ret_mram (d : Dev) (v : Nat) : (d.ret v).mram = d.mram := rfl
@[simp] theorem Dev.ret_fnOut (d : Dev) (v : Nat) : (d.ret v).fnOut = d.fnOut := rfl
@[simp] theorem Dev.ret_rbytes (d : Dev) (v : Nat) : (d.ret v).rbytes = d.rbytes := rfl
@[simp] theorem Dev.ret_rpoison (d : Dev) (v : Nat) : (d.ret v).rpoison = d.rpoison := rfl
@[simp] theorem Dev.ret_fv (d : Dev) (v : Nat) : (d.ret v).fv = d.fv := rfl
@[simp] theorem Dev.ret_rd (d : Dev) (v : Nat) (g : Field) (k j w : Nat) : (d.ret v).rd g k j w = d.rd g k j w := rfl
@[simp] theorem Dev.ret_on (d : Dev) (v : Nat) (g : Field) (k j w : Nat) : (d.ret v).on g k j w = d.on g k j w := rfl

@[simp] theorem Dev.ret_rdata (d : Dev) (v : Nat) : (d.ret v).rdata = v := rfl
/-! ## Returned bytes -/

@[simp] theorem Dev.retBytes_regs (d : Dev) (b : Bytes) : (d.retBytes b).regs = d.regs := rfl
@[simp] theorem Dev.retBytes_tk (d : Dev) (b : Bytes) : (d.retBytes b).tk = d.tk := rfl
@[simp] theorem Dev.retBytes_rst (d : Dev) (b : Bytes) : (d.retBytes b).rst = d.rst := rfl
@[simp] theorem Dev.retBytes_vlac (d : Dev) (b : Bytes) : (d.retBytes b).vlac = d.vlac := rfl
@[simp] theorem Dev.retBytes_ports (d : Dev) (b : Bytes) : (d.retBytes b).ports = d.ports := rfl
@[simp] theorem Dev.retBytes_cal (d : Dev) (b : Bytes) : (d.retBytes b).cal = d.cal := rfl
@[simp] theorem Dev.retBytes_tb (d : Dev) (b : Bytes) : (d.retBytes b).tb = d.tb := rfl
@[simp] theorem Dev.retBytes_rein (d : Dev) (b : Bytes) : (d.retBytes b).rein = d.rein := rfl
@[simp] theorem Dev.retBytes_pins (d : Dev) (b : Bytes) : (d.retBytes b).pins = d.pins := rfl
@[simp] theorem Dev.retBytes_trig (d : Dev) (b : Bytes) : (d.retBytes b).trig = d.trig := rfl
@[simp] theorem Dev.retBytes_gates (d : Dev) (b : Bytes) : (d.retBytes b).gates = d.gates := rfl
@[simp] theorem Dev.retBytes_police (d : Dev) (b : Bytes) : (d.retBytes b).police = d.police := rfl
@[simp] theorem Dev.retBytes_sa (d : Dev) (b : Bytes) : (d.retBytes b).sa = d.sa := rfl
@[simp] theorem Dev.retBytes_sc (d : Dev) (b : Bytes) : (d.retBytes b).sc = d.sc := rfl
@[simp] theorem Dev.retBytes_hbmc (d : Dev) (b : Bytes) : (d.retBytes b).hbmc = d.hbmc := rfl
@[simp] theorem Dev.retBytes_host (d : Dev) (b : Bytes) : (d.retBytes b).host = d.host := rfl
@[simp] theorem Dev.retBytes_tab (d : Dev) (b : Bytes) : (d.retBytes b).tab = d.tab := rfl
@[simp] theorem Dev.retBytes_cls (d : Dev) (b : Bytes) : (d.retBytes b).cls = d.cls := rfl
@[simp] theorem Dev.retBytes_capt (d : Dev) (b : Bytes) : (d.retBytes b).capt = d.capt := rfl
@[simp] theorem Dev.retBytes_seq (d : Dev) (b : Bytes) : (d.retBytes b).seq = d.seq := rfl
@[simp] theorem Dev.retBytes_hide (d : Dev) (b : Bytes) : (d.retBytes b).hide = d.hide := rfl
@[simp] theorem Dev.retBytes_ira (d : Dev) (b : Bytes) : (d.retBytes b).ira = d.ira := rfl
@[simp] theorem Dev.retBytes_fab (d : Dev) (b : Bytes) : (d.retBytes b).fab = d.fab := rfl
@[simp] theorem Dev.retBytes_nvme (d : Dev) (b : Bytes) : (d.retBytes b).nvme = d.nvme := rfl
@[simp] theorem Dev.retBytes_encl (d : Dev) (b : Bytes) : (d.retBytes b).encl = d.encl := rfl
@[simp] theorem Dev.retBytes_boot (d : Dev) (b : Bytes) : (d.retBytes b).boot = d.boot := rfl
@[simp] theorem Dev.retBytes_flash (d : Dev) (b : Bytes) : (d.retBytes b).flash = d.flash := rfl
@[simp] theorem Dev.retBytes_obj (d : Dev) (b : Bytes) : (d.retBytes b).obj = d.obj := rfl
@[simp] theorem Dev.retBytes_hu (d : Dev) (b : Bytes) : (d.retBytes b).hu = d.hu := rfl
@[simp] theorem Dev.retBytes_pwr (d : Dev) (b : Bytes) : (d.retBytes b).pwr = d.pwr := rfl
@[simp] theorem Dev.retBytes_faults (d : Dev) (b : Bytes) : (d.retBytes b).faults = d.faults := rfl
@[simp] theorem Dev.retBytes_mram (d : Dev) (b : Bytes) : (d.retBytes b).mram = d.mram := rfl
@[simp] theorem Dev.retBytes_fnOut (d : Dev) (b : Bytes) : (d.retBytes b).fnOut = d.fnOut := rfl
@[simp] theorem Dev.retBytes_rdata (d : Dev) (b : Bytes) : (d.retBytes b).rdata = d.rdata := rfl
@[simp] theorem Dev.retBytes_rpoison (d : Dev) (b : Bytes) : (d.retBytes b).rpoison = d.rpoison := rfl
@[simp] theorem Dev.retBytes_fv (d : Dev) (b : Bytes) : (d.retBytes b).fv = d.fv := rfl
@[simp] theorem Dev.retBytes_rd (d : Dev) (b : Bytes) (g : Field) (k j w : Nat) : (d.retBytes b).rd g k j w = d.rd g k j w := rfl
@[simp] theorem Dev.retBytes_on (d : Dev) (b : Bytes) (g : Field) (k j w : Nat) : (d.retBytes b).on g k j w = d.on g k j w := rfl

@[simp] theorem Dev.retBytes_rbytes (d : Dev) (b : Bytes) : (d.retBytes b).rbytes = b := rfl
/-! ## setBoot -/

@[simp] theorem Dev.setBoot_regs (d : Dev) (f : BootState → BootState) : (d.setBoot f).regs = d.regs := rfl
@[simp] theorem Dev.setBoot_tk (d : Dev) (f : BootState → BootState) : (d.setBoot f).tk = d.tk := rfl
@[simp] theorem Dev.setBoot_rst (d : Dev) (f : BootState → BootState) : (d.setBoot f).rst = d.rst := rfl
@[simp] theorem Dev.setBoot_vlac (d : Dev) (f : BootState → BootState) : (d.setBoot f).vlac = d.vlac := rfl
@[simp] theorem Dev.setBoot_ports (d : Dev) (f : BootState → BootState) : (d.setBoot f).ports = d.ports := rfl
@[simp] theorem Dev.setBoot_cal (d : Dev) (f : BootState → BootState) : (d.setBoot f).cal = d.cal := rfl
@[simp] theorem Dev.setBoot_tb (d : Dev) (f : BootState → BootState) : (d.setBoot f).tb = d.tb := rfl
@[simp] theorem Dev.setBoot_rein (d : Dev) (f : BootState → BootState) : (d.setBoot f).rein = d.rein := rfl
@[simp] theorem Dev.setBoot_pins (d : Dev) (f : BootState → BootState) : (d.setBoot f).pins = d.pins := rfl
@[simp] theorem Dev.setBoot_trig (d : Dev) (f : BootState → BootState) : (d.setBoot f).trig = d.trig := rfl
@[simp] theorem Dev.setBoot_gates (d : Dev) (f : BootState → BootState) : (d.setBoot f).gates = d.gates := rfl
@[simp] theorem Dev.setBoot_police (d : Dev) (f : BootState → BootState) : (d.setBoot f).police = d.police := rfl
@[simp] theorem Dev.setBoot_sa (d : Dev) (f : BootState → BootState) : (d.setBoot f).sa = d.sa := rfl
@[simp] theorem Dev.setBoot_sc (d : Dev) (f : BootState → BootState) : (d.setBoot f).sc = d.sc := rfl
@[simp] theorem Dev.setBoot_hbmc (d : Dev) (f : BootState → BootState) : (d.setBoot f).hbmc = d.hbmc := rfl
@[simp] theorem Dev.setBoot_host (d : Dev) (f : BootState → BootState) : (d.setBoot f).host = d.host := rfl
@[simp] theorem Dev.setBoot_tab (d : Dev) (f : BootState → BootState) : (d.setBoot f).tab = d.tab := rfl
@[simp] theorem Dev.setBoot_cls (d : Dev) (f : BootState → BootState) : (d.setBoot f).cls = d.cls := rfl
@[simp] theorem Dev.setBoot_capt (d : Dev) (f : BootState → BootState) : (d.setBoot f).capt = d.capt := rfl
@[simp] theorem Dev.setBoot_seq (d : Dev) (f : BootState → BootState) : (d.setBoot f).seq = d.seq := rfl
@[simp] theorem Dev.setBoot_hide (d : Dev) (f : BootState → BootState) : (d.setBoot f).hide = d.hide := rfl
@[simp] theorem Dev.setBoot_ira (d : Dev) (f : BootState → BootState) : (d.setBoot f).ira = d.ira := rfl
@[simp] theorem Dev.setBoot_fab (d : Dev) (f : BootState → BootState) : (d.setBoot f).fab = d.fab := rfl
@[simp] theorem Dev.setBoot_nvme (d : Dev) (f : BootState → BootState) : (d.setBoot f).nvme = d.nvme := rfl
@[simp] theorem Dev.setBoot_encl (d : Dev) (f : BootState → BootState) : (d.setBoot f).encl = d.encl := rfl
@[simp] theorem Dev.setBoot_flash (d : Dev) (f : BootState → BootState) : (d.setBoot f).flash = d.flash := rfl
@[simp] theorem Dev.setBoot_obj (d : Dev) (f : BootState → BootState) : (d.setBoot f).obj = d.obj := rfl
@[simp] theorem Dev.setBoot_hu (d : Dev) (f : BootState → BootState) : (d.setBoot f).hu = d.hu := rfl
@[simp] theorem Dev.setBoot_pwr (d : Dev) (f : BootState → BootState) : (d.setBoot f).pwr = d.pwr := rfl
@[simp] theorem Dev.setBoot_faults (d : Dev) (f : BootState → BootState) : (d.setBoot f).faults = d.faults := rfl
@[simp] theorem Dev.setBoot_mram (d : Dev) (f : BootState → BootState) : (d.setBoot f).mram = d.mram := rfl
@[simp] theorem Dev.setBoot_fnOut (d : Dev) (f : BootState → BootState) : (d.setBoot f).fnOut = d.fnOut := rfl
@[simp] theorem Dev.setBoot_rdata (d : Dev) (f : BootState → BootState) : (d.setBoot f).rdata = d.rdata := rfl
@[simp] theorem Dev.setBoot_rbytes (d : Dev) (f : BootState → BootState) : (d.setBoot f).rbytes = d.rbytes := rfl
@[simp] theorem Dev.setBoot_rpoison (d : Dev) (f : BootState → BootState) : (d.setBoot f).rpoison = d.rpoison := rfl
@[simp] theorem Dev.setBoot_fv (d : Dev) (f : BootState → BootState) : (d.setBoot f).fv = d.fv := rfl
@[simp] theorem Dev.setBoot_rd (d : Dev) (f : BootState → BootState) (g : Field) (k j w : Nat) : (d.setBoot f).rd g k j w = d.rd g k j w := rfl
@[simp] theorem Dev.setBoot_on (d : Dev) (f : BootState → BootState) (g : Field) (k j w : Nat) : (d.setBoot f).on g k j w = d.on g k j w := rfl

@[simp] theorem Dev.setBoot_boot (d : Dev) (f : BootState → BootState) : (d.setBoot f).boot = f d.boot := rfl

/-! ## setCapt -/

@[simp] theorem Dev.setCapt_regs (d : Dev) (f : Capture → Capture) : (d.setCapt f).regs = d.regs := rfl
@[simp] theorem Dev.setCapt_tk (d : Dev) (f : Capture → Capture) : (d.setCapt f).tk = d.tk := rfl
@[simp] theorem Dev.setCapt_rst (d : Dev) (f : Capture → Capture) : (d.setCapt f).rst = d.rst := rfl
@[simp] theorem Dev.setCapt_vlac (d : Dev) (f : Capture → Capture) : (d.setCapt f).vlac = d.vlac := rfl
@[simp] theorem Dev.setCapt_ports (d : Dev) (f : Capture → Capture) : (d.setCapt f).ports = d.ports := rfl
@[simp] theorem Dev.setCapt_cal (d : Dev) (f : Capture → Capture) : (d.setCapt f).cal = d.cal := rfl
@[simp] theorem Dev.setCapt_tb (d : Dev) (f : Capture → Capture) : (d.setCapt f).tb = d.tb := rfl
@[simp] theorem Dev.setCapt_rein (d : Dev) (f : Capture → Capture) : (d.setCapt f).rein = d.rein := rfl
@[simp] theorem Dev.setCapt_pins (d : Dev) (f : Capture → Capture) : (d.setCapt f).pins = d.pins := rfl
@[simp] theorem Dev.setCapt_trig (d : Dev) (f : Capture → Capture) : (d.setCapt f).trig = d.trig := rfl
@[simp] theorem Dev.setCapt_gates (d : Dev) (f : Capture → Capture) : (d.setCapt f).gates = d.gates := rfl
@[simp] theorem Dev.setCapt_police (d : Dev) (f : Capture → Capture) : (d.setCapt f).police = d.police := rfl
@[simp] theorem Dev.setCapt_sa (d : Dev) (f : Capture → Capture) : (d.setCapt f).sa = d.sa := rfl
@[simp] theorem Dev.setCapt_sc (d : Dev) (f : Capture → Capture) : (d.setCapt f).sc = d.sc := rfl
@[simp] theorem Dev.setCapt_hbmc (d : Dev) (f : Capture → Capture) : (d.setCapt f).hbmc = d.hbmc := rfl
@[simp] theorem Dev.setCapt_host (d : Dev) (f : Capture → Capture) : (d.setCapt f).host = d.host := rfl
@[simp] theorem Dev.setCapt_tab (d : Dev) (f : Capture → Capture) : (d.setCapt f).tab = d.tab := rfl
@[simp] theorem Dev.setCapt_cls (d : Dev) (f : Capture → Capture) : (d.setCapt f).cls = d.cls := rfl
@[simp] theorem Dev.setCapt_seq (d : Dev) (f : Capture → Capture) : (d.setCapt f).seq = d.seq := rfl
@[simp] theorem Dev.setCapt_hide (d : Dev) (f : Capture → Capture) : (d.setCapt f).hide = d.hide := rfl
@[simp] theorem Dev.setCapt_ira (d : Dev) (f : Capture → Capture) : (d.setCapt f).ira = d.ira := rfl
@[simp] theorem Dev.setCapt_fab (d : Dev) (f : Capture → Capture) : (d.setCapt f).fab = d.fab := rfl
@[simp] theorem Dev.setCapt_nvme (d : Dev) (f : Capture → Capture) : (d.setCapt f).nvme = d.nvme := rfl
@[simp] theorem Dev.setCapt_encl (d : Dev) (f : Capture → Capture) : (d.setCapt f).encl = d.encl := rfl
@[simp] theorem Dev.setCapt_boot (d : Dev) (f : Capture → Capture) : (d.setCapt f).boot = d.boot := rfl
@[simp] theorem Dev.setCapt_flash (d : Dev) (f : Capture → Capture) : (d.setCapt f).flash = d.flash := rfl
@[simp] theorem Dev.setCapt_obj (d : Dev) (f : Capture → Capture) : (d.setCapt f).obj = d.obj := rfl
@[simp] theorem Dev.setCapt_hu (d : Dev) (f : Capture → Capture) : (d.setCapt f).hu = d.hu := rfl
@[simp] theorem Dev.setCapt_pwr (d : Dev) (f : Capture → Capture) : (d.setCapt f).pwr = d.pwr := rfl
@[simp] theorem Dev.setCapt_faults (d : Dev) (f : Capture → Capture) : (d.setCapt f).faults = d.faults := rfl
@[simp] theorem Dev.setCapt_mram (d : Dev) (f : Capture → Capture) : (d.setCapt f).mram = d.mram := rfl
@[simp] theorem Dev.setCapt_fnOut (d : Dev) (f : Capture → Capture) : (d.setCapt f).fnOut = d.fnOut := rfl
@[simp] theorem Dev.setCapt_rdata (d : Dev) (f : Capture → Capture) : (d.setCapt f).rdata = d.rdata := rfl
@[simp] theorem Dev.setCapt_rbytes (d : Dev) (f : Capture → Capture) : (d.setCapt f).rbytes = d.rbytes := rfl
@[simp] theorem Dev.setCapt_rpoison (d : Dev) (f : Capture → Capture) : (d.setCapt f).rpoison = d.rpoison := rfl
@[simp] theorem Dev.setCapt_fv (d : Dev) (f : Capture → Capture) : (d.setCapt f).fv = d.fv := rfl
@[simp] theorem Dev.setCapt_rd (d : Dev) (f : Capture → Capture) (g : Field) (k j w : Nat) : (d.setCapt f).rd g k j w = d.rd g k j w := rfl
@[simp] theorem Dev.setCapt_on (d : Dev) (f : Capture → Capture) (g : Field) (k j w : Nat) : (d.setCapt f).on g k j w = d.on g k j w := rfl

@[simp] theorem Dev.setCapt_capt (d : Dev) (f : Capture → Capture) : (d.setCapt f).capt = f d.capt := rfl

/-! ## setEncl -/

@[simp] theorem Dev.setEncl_regs (d : Dev) (f : EnclState → EnclState) : (d.setEncl f).regs = d.regs := rfl
@[simp] theorem Dev.setEncl_tk (d : Dev) (f : EnclState → EnclState) : (d.setEncl f).tk = d.tk := rfl
@[simp] theorem Dev.setEncl_rst (d : Dev) (f : EnclState → EnclState) : (d.setEncl f).rst = d.rst := rfl
@[simp] theorem Dev.setEncl_vlac (d : Dev) (f : EnclState → EnclState) : (d.setEncl f).vlac = d.vlac := rfl
@[simp] theorem Dev.setEncl_ports (d : Dev) (f : EnclState → EnclState) : (d.setEncl f).ports = d.ports := rfl
@[simp] theorem Dev.setEncl_cal (d : Dev) (f : EnclState → EnclState) : (d.setEncl f).cal = d.cal := rfl
@[simp] theorem Dev.setEncl_tb (d : Dev) (f : EnclState → EnclState) : (d.setEncl f).tb = d.tb := rfl
@[simp] theorem Dev.setEncl_rein (d : Dev) (f : EnclState → EnclState) : (d.setEncl f).rein = d.rein := rfl
@[simp] theorem Dev.setEncl_pins (d : Dev) (f : EnclState → EnclState) : (d.setEncl f).pins = d.pins := rfl
@[simp] theorem Dev.setEncl_trig (d : Dev) (f : EnclState → EnclState) : (d.setEncl f).trig = d.trig := rfl
@[simp] theorem Dev.setEncl_gates (d : Dev) (f : EnclState → EnclState) : (d.setEncl f).gates = d.gates := rfl
@[simp] theorem Dev.setEncl_police (d : Dev) (f : EnclState → EnclState) : (d.setEncl f).police = d.police := rfl
@[simp] theorem Dev.setEncl_sa (d : Dev) (f : EnclState → EnclState) : (d.setEncl f).sa = d.sa := rfl
@[simp] theorem Dev.setEncl_sc (d : Dev) (f : EnclState → EnclState) : (d.setEncl f).sc = d.sc := rfl
@[simp] theorem Dev.setEncl_hbmc (d : Dev) (f : EnclState → EnclState) : (d.setEncl f).hbmc = d.hbmc := rfl
@[simp] theorem Dev.setEncl_host (d : Dev) (f : EnclState → EnclState) : (d.setEncl f).host = d.host := rfl
@[simp] theorem Dev.setEncl_tab (d : Dev) (f : EnclState → EnclState) : (d.setEncl f).tab = d.tab := rfl
@[simp] theorem Dev.setEncl_cls (d : Dev) (f : EnclState → EnclState) : (d.setEncl f).cls = d.cls := rfl
@[simp] theorem Dev.setEncl_capt (d : Dev) (f : EnclState → EnclState) : (d.setEncl f).capt = d.capt := rfl
@[simp] theorem Dev.setEncl_seq (d : Dev) (f : EnclState → EnclState) : (d.setEncl f).seq = d.seq := rfl
@[simp] theorem Dev.setEncl_hide (d : Dev) (f : EnclState → EnclState) : (d.setEncl f).hide = d.hide := rfl
@[simp] theorem Dev.setEncl_ira (d : Dev) (f : EnclState → EnclState) : (d.setEncl f).ira = d.ira := rfl
@[simp] theorem Dev.setEncl_fab (d : Dev) (f : EnclState → EnclState) : (d.setEncl f).fab = d.fab := rfl
@[simp] theorem Dev.setEncl_nvme (d : Dev) (f : EnclState → EnclState) : (d.setEncl f).nvme = d.nvme := rfl
@[simp] theorem Dev.setEncl_boot (d : Dev) (f : EnclState → EnclState) : (d.setEncl f).boot = d.boot := rfl
@[simp] theorem Dev.setEncl_flash (d : Dev) (f : EnclState → EnclState) : (d.setEncl f).flash = d.flash := rfl
@[simp] theorem Dev.setEncl_obj (d : Dev) (f : EnclState → EnclState) : (d.setEncl f).obj = d.obj := rfl
@[simp] theorem Dev.setEncl_hu (d : Dev) (f : EnclState → EnclState) : (d.setEncl f).hu = d.hu := rfl
@[simp] theorem Dev.setEncl_pwr (d : Dev) (f : EnclState → EnclState) : (d.setEncl f).pwr = d.pwr := rfl
@[simp] theorem Dev.setEncl_faults (d : Dev) (f : EnclState → EnclState) : (d.setEncl f).faults = d.faults := rfl
@[simp] theorem Dev.setEncl_mram (d : Dev) (f : EnclState → EnclState) : (d.setEncl f).mram = d.mram := rfl
@[simp] theorem Dev.setEncl_fnOut (d : Dev) (f : EnclState → EnclState) : (d.setEncl f).fnOut = d.fnOut := rfl
@[simp] theorem Dev.setEncl_rdata (d : Dev) (f : EnclState → EnclState) : (d.setEncl f).rdata = d.rdata := rfl
@[simp] theorem Dev.setEncl_rbytes (d : Dev) (f : EnclState → EnclState) : (d.setEncl f).rbytes = d.rbytes := rfl
@[simp] theorem Dev.setEncl_rpoison (d : Dev) (f : EnclState → EnclState) : (d.setEncl f).rpoison = d.rpoison := rfl
@[simp] theorem Dev.setEncl_fv (d : Dev) (f : EnclState → EnclState) : (d.setEncl f).fv = d.fv := rfl
@[simp] theorem Dev.setEncl_rd (d : Dev) (f : EnclState → EnclState) (g : Field) (k j w : Nat) : (d.setEncl f).rd g k j w = d.rd g k j w := rfl
@[simp] theorem Dev.setEncl_on (d : Dev) (f : EnclState → EnclState) (g : Field) (k j w : Nat) : (d.setEncl f).on g k j w = d.on g k j w := rfl

@[simp] theorem Dev.setEncl_encl (d : Dev) (f : EnclState → EnclState) : (d.setEncl f).encl = f d.encl := rfl

/-! ## setFab -/

@[simp] theorem Dev.setFab_regs (d : Dev) (f : FabState → FabState) : (d.setFab f).regs = d.regs := rfl
@[simp] theorem Dev.setFab_tk (d : Dev) (f : FabState → FabState) : (d.setFab f).tk = d.tk := rfl
@[simp] theorem Dev.setFab_rst (d : Dev) (f : FabState → FabState) : (d.setFab f).rst = d.rst := rfl
@[simp] theorem Dev.setFab_vlac (d : Dev) (f : FabState → FabState) : (d.setFab f).vlac = d.vlac := rfl
@[simp] theorem Dev.setFab_ports (d : Dev) (f : FabState → FabState) : (d.setFab f).ports = d.ports := rfl
@[simp] theorem Dev.setFab_cal (d : Dev) (f : FabState → FabState) : (d.setFab f).cal = d.cal := rfl
@[simp] theorem Dev.setFab_tb (d : Dev) (f : FabState → FabState) : (d.setFab f).tb = d.tb := rfl
@[simp] theorem Dev.setFab_rein (d : Dev) (f : FabState → FabState) : (d.setFab f).rein = d.rein := rfl
@[simp] theorem Dev.setFab_pins (d : Dev) (f : FabState → FabState) : (d.setFab f).pins = d.pins := rfl
@[simp] theorem Dev.setFab_trig (d : Dev) (f : FabState → FabState) : (d.setFab f).trig = d.trig := rfl
@[simp] theorem Dev.setFab_gates (d : Dev) (f : FabState → FabState) : (d.setFab f).gates = d.gates := rfl
@[simp] theorem Dev.setFab_police (d : Dev) (f : FabState → FabState) : (d.setFab f).police = d.police := rfl
@[simp] theorem Dev.setFab_sa (d : Dev) (f : FabState → FabState) : (d.setFab f).sa = d.sa := rfl
@[simp] theorem Dev.setFab_sc (d : Dev) (f : FabState → FabState) : (d.setFab f).sc = d.sc := rfl
@[simp] theorem Dev.setFab_hbmc (d : Dev) (f : FabState → FabState) : (d.setFab f).hbmc = d.hbmc := rfl
@[simp] theorem Dev.setFab_host (d : Dev) (f : FabState → FabState) : (d.setFab f).host = d.host := rfl
@[simp] theorem Dev.setFab_tab (d : Dev) (f : FabState → FabState) : (d.setFab f).tab = d.tab := rfl
@[simp] theorem Dev.setFab_cls (d : Dev) (f : FabState → FabState) : (d.setFab f).cls = d.cls := rfl
@[simp] theorem Dev.setFab_capt (d : Dev) (f : FabState → FabState) : (d.setFab f).capt = d.capt := rfl
@[simp] theorem Dev.setFab_seq (d : Dev) (f : FabState → FabState) : (d.setFab f).seq = d.seq := rfl
@[simp] theorem Dev.setFab_hide (d : Dev) (f : FabState → FabState) : (d.setFab f).hide = d.hide := rfl
@[simp] theorem Dev.setFab_ira (d : Dev) (f : FabState → FabState) : (d.setFab f).ira = d.ira := rfl
@[simp] theorem Dev.setFab_nvme (d : Dev) (f : FabState → FabState) : (d.setFab f).nvme = d.nvme := rfl
@[simp] theorem Dev.setFab_encl (d : Dev) (f : FabState → FabState) : (d.setFab f).encl = d.encl := rfl
@[simp] theorem Dev.setFab_boot (d : Dev) (f : FabState → FabState) : (d.setFab f).boot = d.boot := rfl
@[simp] theorem Dev.setFab_flash (d : Dev) (f : FabState → FabState) : (d.setFab f).flash = d.flash := rfl
@[simp] theorem Dev.setFab_obj (d : Dev) (f : FabState → FabState) : (d.setFab f).obj = d.obj := rfl
@[simp] theorem Dev.setFab_hu (d : Dev) (f : FabState → FabState) : (d.setFab f).hu = d.hu := rfl
@[simp] theorem Dev.setFab_pwr (d : Dev) (f : FabState → FabState) : (d.setFab f).pwr = d.pwr := rfl
@[simp] theorem Dev.setFab_faults (d : Dev) (f : FabState → FabState) : (d.setFab f).faults = d.faults := rfl
@[simp] theorem Dev.setFab_mram (d : Dev) (f : FabState → FabState) : (d.setFab f).mram = d.mram := rfl
@[simp] theorem Dev.setFab_fnOut (d : Dev) (f : FabState → FabState) : (d.setFab f).fnOut = d.fnOut := rfl
@[simp] theorem Dev.setFab_rdata (d : Dev) (f : FabState → FabState) : (d.setFab f).rdata = d.rdata := rfl
@[simp] theorem Dev.setFab_rbytes (d : Dev) (f : FabState → FabState) : (d.setFab f).rbytes = d.rbytes := rfl
@[simp] theorem Dev.setFab_rpoison (d : Dev) (f : FabState → FabState) : (d.setFab f).rpoison = d.rpoison := rfl
@[simp] theorem Dev.setFab_fv (d : Dev) (f : FabState → FabState) : (d.setFab f).fv = d.fv := rfl
@[simp] theorem Dev.setFab_rd (d : Dev) (f : FabState → FabState) (g : Field) (k j w : Nat) : (d.setFab f).rd g k j w = d.rd g k j w := rfl
@[simp] theorem Dev.setFab_on (d : Dev) (f : FabState → FabState) (g : Field) (k j w : Nat) : (d.setFab f).on g k j w = d.on g k j w := rfl

@[simp] theorem Dev.setFab_fab (d : Dev) (f : FabState → FabState) : (d.setFab f).fab = f d.fab := rfl

/-! ## setHu -/

@[simp] theorem Dev.setHu_regs (d : Dev) (f : Hitless → Hitless) : (d.setHu f).regs = d.regs := rfl
@[simp] theorem Dev.setHu_tk (d : Dev) (f : Hitless → Hitless) : (d.setHu f).tk = d.tk := rfl
@[simp] theorem Dev.setHu_rst (d : Dev) (f : Hitless → Hitless) : (d.setHu f).rst = d.rst := rfl
@[simp] theorem Dev.setHu_vlac (d : Dev) (f : Hitless → Hitless) : (d.setHu f).vlac = d.vlac := rfl
@[simp] theorem Dev.setHu_ports (d : Dev) (f : Hitless → Hitless) : (d.setHu f).ports = d.ports := rfl
@[simp] theorem Dev.setHu_cal (d : Dev) (f : Hitless → Hitless) : (d.setHu f).cal = d.cal := rfl
@[simp] theorem Dev.setHu_tb (d : Dev) (f : Hitless → Hitless) : (d.setHu f).tb = d.tb := rfl
@[simp] theorem Dev.setHu_rein (d : Dev) (f : Hitless → Hitless) : (d.setHu f).rein = d.rein := rfl
@[simp] theorem Dev.setHu_pins (d : Dev) (f : Hitless → Hitless) : (d.setHu f).pins = d.pins := rfl
@[simp] theorem Dev.setHu_trig (d : Dev) (f : Hitless → Hitless) : (d.setHu f).trig = d.trig := rfl
@[simp] theorem Dev.setHu_gates (d : Dev) (f : Hitless → Hitless) : (d.setHu f).gates = d.gates := rfl
@[simp] theorem Dev.setHu_police (d : Dev) (f : Hitless → Hitless) : (d.setHu f).police = d.police := rfl
@[simp] theorem Dev.setHu_sa (d : Dev) (f : Hitless → Hitless) : (d.setHu f).sa = d.sa := rfl
@[simp] theorem Dev.setHu_sc (d : Dev) (f : Hitless → Hitless) : (d.setHu f).sc = d.sc := rfl
@[simp] theorem Dev.setHu_hbmc (d : Dev) (f : Hitless → Hitless) : (d.setHu f).hbmc = d.hbmc := rfl
@[simp] theorem Dev.setHu_host (d : Dev) (f : Hitless → Hitless) : (d.setHu f).host = d.host := rfl
@[simp] theorem Dev.setHu_tab (d : Dev) (f : Hitless → Hitless) : (d.setHu f).tab = d.tab := rfl
@[simp] theorem Dev.setHu_cls (d : Dev) (f : Hitless → Hitless) : (d.setHu f).cls = d.cls := rfl
@[simp] theorem Dev.setHu_capt (d : Dev) (f : Hitless → Hitless) : (d.setHu f).capt = d.capt := rfl
@[simp] theorem Dev.setHu_seq (d : Dev) (f : Hitless → Hitless) : (d.setHu f).seq = d.seq := rfl
@[simp] theorem Dev.setHu_hide (d : Dev) (f : Hitless → Hitless) : (d.setHu f).hide = d.hide := rfl
@[simp] theorem Dev.setHu_ira (d : Dev) (f : Hitless → Hitless) : (d.setHu f).ira = d.ira := rfl
@[simp] theorem Dev.setHu_fab (d : Dev) (f : Hitless → Hitless) : (d.setHu f).fab = d.fab := rfl
@[simp] theorem Dev.setHu_nvme (d : Dev) (f : Hitless → Hitless) : (d.setHu f).nvme = d.nvme := rfl
@[simp] theorem Dev.setHu_encl (d : Dev) (f : Hitless → Hitless) : (d.setHu f).encl = d.encl := rfl
@[simp] theorem Dev.setHu_boot (d : Dev) (f : Hitless → Hitless) : (d.setHu f).boot = d.boot := rfl
@[simp] theorem Dev.setHu_flash (d : Dev) (f : Hitless → Hitless) : (d.setHu f).flash = d.flash := rfl
@[simp] theorem Dev.setHu_obj (d : Dev) (f : Hitless → Hitless) : (d.setHu f).obj = d.obj := rfl
@[simp] theorem Dev.setHu_pwr (d : Dev) (f : Hitless → Hitless) : (d.setHu f).pwr = d.pwr := rfl
@[simp] theorem Dev.setHu_faults (d : Dev) (f : Hitless → Hitless) : (d.setHu f).faults = d.faults := rfl
@[simp] theorem Dev.setHu_mram (d : Dev) (f : Hitless → Hitless) : (d.setHu f).mram = d.mram := rfl
@[simp] theorem Dev.setHu_fnOut (d : Dev) (f : Hitless → Hitless) : (d.setHu f).fnOut = d.fnOut := rfl
@[simp] theorem Dev.setHu_rdata (d : Dev) (f : Hitless → Hitless) : (d.setHu f).rdata = d.rdata := rfl
@[simp] theorem Dev.setHu_rbytes (d : Dev) (f : Hitless → Hitless) : (d.setHu f).rbytes = d.rbytes := rfl
@[simp] theorem Dev.setHu_rpoison (d : Dev) (f : Hitless → Hitless) : (d.setHu f).rpoison = d.rpoison := rfl
@[simp] theorem Dev.setHu_fv (d : Dev) (f : Hitless → Hitless) : (d.setHu f).fv = d.fv := rfl
@[simp] theorem Dev.setHu_rd (d : Dev) (f : Hitless → Hitless) (g : Field) (k j w : Nat) : (d.setHu f).rd g k j w = d.rd g k j w := rfl
@[simp] theorem Dev.setHu_on (d : Dev) (f : Hitless → Hitless) (g : Field) (k j w : Nat) : (d.setHu f).on g k j w = d.on g k j w := rfl

@[simp] theorem Dev.setHu_hu (d : Dev) (f : Hitless → Hitless) : (d.setHu f).hu = f d.hu := rfl

/-! ## setHost -/

@[simp] theorem Dev.setHost_regs (d : Dev) (f : HostState → HostState) : (d.setHost f).regs = d.regs := rfl
@[simp] theorem Dev.setHost_tk (d : Dev) (f : HostState → HostState) : (d.setHost f).tk = d.tk := rfl
@[simp] theorem Dev.setHost_rst (d : Dev) (f : HostState → HostState) : (d.setHost f).rst = d.rst := rfl
@[simp] theorem Dev.setHost_vlac (d : Dev) (f : HostState → HostState) : (d.setHost f).vlac = d.vlac := rfl
@[simp] theorem Dev.setHost_ports (d : Dev) (f : HostState → HostState) : (d.setHost f).ports = d.ports := rfl
@[simp] theorem Dev.setHost_cal (d : Dev) (f : HostState → HostState) : (d.setHost f).cal = d.cal := rfl
@[simp] theorem Dev.setHost_tb (d : Dev) (f : HostState → HostState) : (d.setHost f).tb = d.tb := rfl
@[simp] theorem Dev.setHost_rein (d : Dev) (f : HostState → HostState) : (d.setHost f).rein = d.rein := rfl
@[simp] theorem Dev.setHost_pins (d : Dev) (f : HostState → HostState) : (d.setHost f).pins = d.pins := rfl
@[simp] theorem Dev.setHost_trig (d : Dev) (f : HostState → HostState) : (d.setHost f).trig = d.trig := rfl
@[simp] theorem Dev.setHost_gates (d : Dev) (f : HostState → HostState) : (d.setHost f).gates = d.gates := rfl
@[simp] theorem Dev.setHost_police (d : Dev) (f : HostState → HostState) : (d.setHost f).police = d.police := rfl
@[simp] theorem Dev.setHost_sa (d : Dev) (f : HostState → HostState) : (d.setHost f).sa = d.sa := rfl
@[simp] theorem Dev.setHost_sc (d : Dev) (f : HostState → HostState) : (d.setHost f).sc = d.sc := rfl
@[simp] theorem Dev.setHost_hbmc (d : Dev) (f : HostState → HostState) : (d.setHost f).hbmc = d.hbmc := rfl
@[simp] theorem Dev.setHost_tab (d : Dev) (f : HostState → HostState) : (d.setHost f).tab = d.tab := rfl
@[simp] theorem Dev.setHost_cls (d : Dev) (f : HostState → HostState) : (d.setHost f).cls = d.cls := rfl
@[simp] theorem Dev.setHost_capt (d : Dev) (f : HostState → HostState) : (d.setHost f).capt = d.capt := rfl
@[simp] theorem Dev.setHost_seq (d : Dev) (f : HostState → HostState) : (d.setHost f).seq = d.seq := rfl
@[simp] theorem Dev.setHost_hide (d : Dev) (f : HostState → HostState) : (d.setHost f).hide = d.hide := rfl
@[simp] theorem Dev.setHost_ira (d : Dev) (f : HostState → HostState) : (d.setHost f).ira = d.ira := rfl
@[simp] theorem Dev.setHost_fab (d : Dev) (f : HostState → HostState) : (d.setHost f).fab = d.fab := rfl
@[simp] theorem Dev.setHost_nvme (d : Dev) (f : HostState → HostState) : (d.setHost f).nvme = d.nvme := rfl
@[simp] theorem Dev.setHost_encl (d : Dev) (f : HostState → HostState) : (d.setHost f).encl = d.encl := rfl
@[simp] theorem Dev.setHost_boot (d : Dev) (f : HostState → HostState) : (d.setHost f).boot = d.boot := rfl
@[simp] theorem Dev.setHost_flash (d : Dev) (f : HostState → HostState) : (d.setHost f).flash = d.flash := rfl
@[simp] theorem Dev.setHost_obj (d : Dev) (f : HostState → HostState) : (d.setHost f).obj = d.obj := rfl
@[simp] theorem Dev.setHost_hu (d : Dev) (f : HostState → HostState) : (d.setHost f).hu = d.hu := rfl
@[simp] theorem Dev.setHost_pwr (d : Dev) (f : HostState → HostState) : (d.setHost f).pwr = d.pwr := rfl
@[simp] theorem Dev.setHost_faults (d : Dev) (f : HostState → HostState) : (d.setHost f).faults = d.faults := rfl
@[simp] theorem Dev.setHost_mram (d : Dev) (f : HostState → HostState) : (d.setHost f).mram = d.mram := rfl
@[simp] theorem Dev.setHost_fnOut (d : Dev) (f : HostState → HostState) : (d.setHost f).fnOut = d.fnOut := rfl
@[simp] theorem Dev.setHost_rdata (d : Dev) (f : HostState → HostState) : (d.setHost f).rdata = d.rdata := rfl
@[simp] theorem Dev.setHost_rbytes (d : Dev) (f : HostState → HostState) : (d.setHost f).rbytes = d.rbytes := rfl
@[simp] theorem Dev.setHost_rpoison (d : Dev) (f : HostState → HostState) : (d.setHost f).rpoison = d.rpoison := rfl
@[simp] theorem Dev.setHost_fv (d : Dev) (f : HostState → HostState) : (d.setHost f).fv = d.fv := rfl
@[simp] theorem Dev.setHost_rd (d : Dev) (f : HostState → HostState) (g : Field) (k j w : Nat) : (d.setHost f).rd g k j w = d.rd g k j w := rfl
@[simp] theorem Dev.setHost_on (d : Dev) (f : HostState → HostState) (g : Field) (k j w : Nat) : (d.setHost f).on g k j w = d.on g k j w := rfl

@[simp] theorem Dev.setHost_host (d : Dev) (f : HostState → HostState) : (d.setHost f).host = f d.host := rfl

/-! ## setIra -/

@[simp] theorem Dev.setIra_regs (d : Dev) (f : IraState → IraState) : (d.setIra f).regs = d.regs := rfl
@[simp] theorem Dev.setIra_tk (d : Dev) (f : IraState → IraState) : (d.setIra f).tk = d.tk := rfl
@[simp] theorem Dev.setIra_rst (d : Dev) (f : IraState → IraState) : (d.setIra f).rst = d.rst := rfl
@[simp] theorem Dev.setIra_vlac (d : Dev) (f : IraState → IraState) : (d.setIra f).vlac = d.vlac := rfl
@[simp] theorem Dev.setIra_ports (d : Dev) (f : IraState → IraState) : (d.setIra f).ports = d.ports := rfl
@[simp] theorem Dev.setIra_cal (d : Dev) (f : IraState → IraState) : (d.setIra f).cal = d.cal := rfl
@[simp] theorem Dev.setIra_tb (d : Dev) (f : IraState → IraState) : (d.setIra f).tb = d.tb := rfl
@[simp] theorem Dev.setIra_rein (d : Dev) (f : IraState → IraState) : (d.setIra f).rein = d.rein := rfl
@[simp] theorem Dev.setIra_pins (d : Dev) (f : IraState → IraState) : (d.setIra f).pins = d.pins := rfl
@[simp] theorem Dev.setIra_trig (d : Dev) (f : IraState → IraState) : (d.setIra f).trig = d.trig := rfl
@[simp] theorem Dev.setIra_gates (d : Dev) (f : IraState → IraState) : (d.setIra f).gates = d.gates := rfl
@[simp] theorem Dev.setIra_police (d : Dev) (f : IraState → IraState) : (d.setIra f).police = d.police := rfl
@[simp] theorem Dev.setIra_sa (d : Dev) (f : IraState → IraState) : (d.setIra f).sa = d.sa := rfl
@[simp] theorem Dev.setIra_sc (d : Dev) (f : IraState → IraState) : (d.setIra f).sc = d.sc := rfl
@[simp] theorem Dev.setIra_hbmc (d : Dev) (f : IraState → IraState) : (d.setIra f).hbmc = d.hbmc := rfl
@[simp] theorem Dev.setIra_host (d : Dev) (f : IraState → IraState) : (d.setIra f).host = d.host := rfl
@[simp] theorem Dev.setIra_tab (d : Dev) (f : IraState → IraState) : (d.setIra f).tab = d.tab := rfl
@[simp] theorem Dev.setIra_cls (d : Dev) (f : IraState → IraState) : (d.setIra f).cls = d.cls := rfl
@[simp] theorem Dev.setIra_capt (d : Dev) (f : IraState → IraState) : (d.setIra f).capt = d.capt := rfl
@[simp] theorem Dev.setIra_seq (d : Dev) (f : IraState → IraState) : (d.setIra f).seq = d.seq := rfl
@[simp] theorem Dev.setIra_hide (d : Dev) (f : IraState → IraState) : (d.setIra f).hide = d.hide := rfl
@[simp] theorem Dev.setIra_fab (d : Dev) (f : IraState → IraState) : (d.setIra f).fab = d.fab := rfl
@[simp] theorem Dev.setIra_nvme (d : Dev) (f : IraState → IraState) : (d.setIra f).nvme = d.nvme := rfl
@[simp] theorem Dev.setIra_encl (d : Dev) (f : IraState → IraState) : (d.setIra f).encl = d.encl := rfl
@[simp] theorem Dev.setIra_boot (d : Dev) (f : IraState → IraState) : (d.setIra f).boot = d.boot := rfl
@[simp] theorem Dev.setIra_flash (d : Dev) (f : IraState → IraState) : (d.setIra f).flash = d.flash := rfl
@[simp] theorem Dev.setIra_obj (d : Dev) (f : IraState → IraState) : (d.setIra f).obj = d.obj := rfl
@[simp] theorem Dev.setIra_hu (d : Dev) (f : IraState → IraState) : (d.setIra f).hu = d.hu := rfl
@[simp] theorem Dev.setIra_pwr (d : Dev) (f : IraState → IraState) : (d.setIra f).pwr = d.pwr := rfl
@[simp] theorem Dev.setIra_faults (d : Dev) (f : IraState → IraState) : (d.setIra f).faults = d.faults := rfl
@[simp] theorem Dev.setIra_mram (d : Dev) (f : IraState → IraState) : (d.setIra f).mram = d.mram := rfl
@[simp] theorem Dev.setIra_fnOut (d : Dev) (f : IraState → IraState) : (d.setIra f).fnOut = d.fnOut := rfl
@[simp] theorem Dev.setIra_rdata (d : Dev) (f : IraState → IraState) : (d.setIra f).rdata = d.rdata := rfl
@[simp] theorem Dev.setIra_rbytes (d : Dev) (f : IraState → IraState) : (d.setIra f).rbytes = d.rbytes := rfl
@[simp] theorem Dev.setIra_rpoison (d : Dev) (f : IraState → IraState) : (d.setIra f).rpoison = d.rpoison := rfl
@[simp] theorem Dev.setIra_fv (d : Dev) (f : IraState → IraState) : (d.setIra f).fv = d.fv := rfl
@[simp] theorem Dev.setIra_rd (d : Dev) (f : IraState → IraState) (g : Field) (k j w : Nat) : (d.setIra f).rd g k j w = d.rd g k j w := rfl
@[simp] theorem Dev.setIra_on (d : Dev) (f : IraState → IraState) (g : Field) (k j w : Nat) : (d.setIra f).on g k j w = d.on g k j w := rfl

@[simp] theorem Dev.setIra_ira (d : Dev) (f : IraState → IraState) : (d.setIra f).ira = f d.ira := rfl

/-! ## setHide -/

@[simp] theorem Dev.setHide_regs (d : Dev) (f : Hide → Hide) : (d.setHide f).regs = d.regs := rfl
@[simp] theorem Dev.setHide_tk (d : Dev) (f : Hide → Hide) : (d.setHide f).tk = d.tk := rfl
@[simp] theorem Dev.setHide_rst (d : Dev) (f : Hide → Hide) : (d.setHide f).rst = d.rst := rfl
@[simp] theorem Dev.setHide_vlac (d : Dev) (f : Hide → Hide) : (d.setHide f).vlac = d.vlac := rfl
@[simp] theorem Dev.setHide_ports (d : Dev) (f : Hide → Hide) : (d.setHide f).ports = d.ports := rfl
@[simp] theorem Dev.setHide_cal (d : Dev) (f : Hide → Hide) : (d.setHide f).cal = d.cal := rfl
@[simp] theorem Dev.setHide_tb (d : Dev) (f : Hide → Hide) : (d.setHide f).tb = d.tb := rfl
@[simp] theorem Dev.setHide_rein (d : Dev) (f : Hide → Hide) : (d.setHide f).rein = d.rein := rfl
@[simp] theorem Dev.setHide_pins (d : Dev) (f : Hide → Hide) : (d.setHide f).pins = d.pins := rfl
@[simp] theorem Dev.setHide_trig (d : Dev) (f : Hide → Hide) : (d.setHide f).trig = d.trig := rfl
@[simp] theorem Dev.setHide_gates (d : Dev) (f : Hide → Hide) : (d.setHide f).gates = d.gates := rfl
@[simp] theorem Dev.setHide_police (d : Dev) (f : Hide → Hide) : (d.setHide f).police = d.police := rfl
@[simp] theorem Dev.setHide_sa (d : Dev) (f : Hide → Hide) : (d.setHide f).sa = d.sa := rfl
@[simp] theorem Dev.setHide_sc (d : Dev) (f : Hide → Hide) : (d.setHide f).sc = d.sc := rfl
@[simp] theorem Dev.setHide_hbmc (d : Dev) (f : Hide → Hide) : (d.setHide f).hbmc = d.hbmc := rfl
@[simp] theorem Dev.setHide_host (d : Dev) (f : Hide → Hide) : (d.setHide f).host = d.host := rfl
@[simp] theorem Dev.setHide_tab (d : Dev) (f : Hide → Hide) : (d.setHide f).tab = d.tab := rfl
@[simp] theorem Dev.setHide_cls (d : Dev) (f : Hide → Hide) : (d.setHide f).cls = d.cls := rfl
@[simp] theorem Dev.setHide_capt (d : Dev) (f : Hide → Hide) : (d.setHide f).capt = d.capt := rfl
@[simp] theorem Dev.setHide_seq (d : Dev) (f : Hide → Hide) : (d.setHide f).seq = d.seq := rfl
@[simp] theorem Dev.setHide_ira (d : Dev) (f : Hide → Hide) : (d.setHide f).ira = d.ira := rfl
@[simp] theorem Dev.setHide_fab (d : Dev) (f : Hide → Hide) : (d.setHide f).fab = d.fab := rfl
@[simp] theorem Dev.setHide_nvme (d : Dev) (f : Hide → Hide) : (d.setHide f).nvme = d.nvme := rfl
@[simp] theorem Dev.setHide_encl (d : Dev) (f : Hide → Hide) : (d.setHide f).encl = d.encl := rfl
@[simp] theorem Dev.setHide_boot (d : Dev) (f : Hide → Hide) : (d.setHide f).boot = d.boot := rfl
@[simp] theorem Dev.setHide_flash (d : Dev) (f : Hide → Hide) : (d.setHide f).flash = d.flash := rfl
@[simp] theorem Dev.setHide_obj (d : Dev) (f : Hide → Hide) : (d.setHide f).obj = d.obj := rfl
@[simp] theorem Dev.setHide_hu (d : Dev) (f : Hide → Hide) : (d.setHide f).hu = d.hu := rfl
@[simp] theorem Dev.setHide_pwr (d : Dev) (f : Hide → Hide) : (d.setHide f).pwr = d.pwr := rfl
@[simp] theorem Dev.setHide_faults (d : Dev) (f : Hide → Hide) : (d.setHide f).faults = d.faults := rfl
@[simp] theorem Dev.setHide_mram (d : Dev) (f : Hide → Hide) : (d.setHide f).mram = d.mram := rfl
@[simp] theorem Dev.setHide_fnOut (d : Dev) (f : Hide → Hide) : (d.setHide f).fnOut = d.fnOut := rfl
@[simp] theorem Dev.setHide_rdata (d : Dev) (f : Hide → Hide) : (d.setHide f).rdata = d.rdata := rfl
@[simp] theorem Dev.setHide_rbytes (d : Dev) (f : Hide → Hide) : (d.setHide f).rbytes = d.rbytes := rfl
@[simp] theorem Dev.setHide_rpoison (d : Dev) (f : Hide → Hide) : (d.setHide f).rpoison = d.rpoison := rfl
@[simp] theorem Dev.setHide_fv (d : Dev) (f : Hide → Hide) : (d.setHide f).fv = d.fv := rfl
@[simp] theorem Dev.setHide_rd (d : Dev) (f : Hide → Hide) (g : Field) (k j w : Nat) : (d.setHide f).rd g k j w = d.rd g k j w := rfl
@[simp] theorem Dev.setHide_on (d : Dev) (f : Hide → Hide) (g : Field) (k j w : Nat) : (d.setHide f).on g k j w = d.on g k j w := rfl

@[simp] theorem Dev.setHide_hide (d : Dev) (f : Hide → Hide) : (d.setHide f).hide = f d.hide := rfl

/-! ## setNv -/

@[simp] theorem Dev.setNv_regs (d : Dev) (f : NvState → NvState) : (d.setNv f).regs = d.regs := rfl
@[simp] theorem Dev.setNv_tk (d : Dev) (f : NvState → NvState) : (d.setNv f).tk = d.tk := rfl
@[simp] theorem Dev.setNv_rst (d : Dev) (f : NvState → NvState) : (d.setNv f).rst = d.rst := rfl
@[simp] theorem Dev.setNv_vlac (d : Dev) (f : NvState → NvState) : (d.setNv f).vlac = d.vlac := rfl
@[simp] theorem Dev.setNv_ports (d : Dev) (f : NvState → NvState) : (d.setNv f).ports = d.ports := rfl
@[simp] theorem Dev.setNv_cal (d : Dev) (f : NvState → NvState) : (d.setNv f).cal = d.cal := rfl
@[simp] theorem Dev.setNv_tb (d : Dev) (f : NvState → NvState) : (d.setNv f).tb = d.tb := rfl
@[simp] theorem Dev.setNv_rein (d : Dev) (f : NvState → NvState) : (d.setNv f).rein = d.rein := rfl
@[simp] theorem Dev.setNv_pins (d : Dev) (f : NvState → NvState) : (d.setNv f).pins = d.pins := rfl
@[simp] theorem Dev.setNv_trig (d : Dev) (f : NvState → NvState) : (d.setNv f).trig = d.trig := rfl
@[simp] theorem Dev.setNv_gates (d : Dev) (f : NvState → NvState) : (d.setNv f).gates = d.gates := rfl
@[simp] theorem Dev.setNv_police (d : Dev) (f : NvState → NvState) : (d.setNv f).police = d.police := rfl
@[simp] theorem Dev.setNv_sa (d : Dev) (f : NvState → NvState) : (d.setNv f).sa = d.sa := rfl
@[simp] theorem Dev.setNv_sc (d : Dev) (f : NvState → NvState) : (d.setNv f).sc = d.sc := rfl
@[simp] theorem Dev.setNv_hbmc (d : Dev) (f : NvState → NvState) : (d.setNv f).hbmc = d.hbmc := rfl
@[simp] theorem Dev.setNv_host (d : Dev) (f : NvState → NvState) : (d.setNv f).host = d.host := rfl
@[simp] theorem Dev.setNv_tab (d : Dev) (f : NvState → NvState) : (d.setNv f).tab = d.tab := rfl
@[simp] theorem Dev.setNv_cls (d : Dev) (f : NvState → NvState) : (d.setNv f).cls = d.cls := rfl
@[simp] theorem Dev.setNv_capt (d : Dev) (f : NvState → NvState) : (d.setNv f).capt = d.capt := rfl
@[simp] theorem Dev.setNv_seq (d : Dev) (f : NvState → NvState) : (d.setNv f).seq = d.seq := rfl
@[simp] theorem Dev.setNv_hide (d : Dev) (f : NvState → NvState) : (d.setNv f).hide = d.hide := rfl
@[simp] theorem Dev.setNv_ira (d : Dev) (f : NvState → NvState) : (d.setNv f).ira = d.ira := rfl
@[simp] theorem Dev.setNv_fab (d : Dev) (f : NvState → NvState) : (d.setNv f).fab = d.fab := rfl
@[simp] theorem Dev.setNv_encl (d : Dev) (f : NvState → NvState) : (d.setNv f).encl = d.encl := rfl
@[simp] theorem Dev.setNv_boot (d : Dev) (f : NvState → NvState) : (d.setNv f).boot = d.boot := rfl
@[simp] theorem Dev.setNv_flash (d : Dev) (f : NvState → NvState) : (d.setNv f).flash = d.flash := rfl
@[simp] theorem Dev.setNv_obj (d : Dev) (f : NvState → NvState) : (d.setNv f).obj = d.obj := rfl
@[simp] theorem Dev.setNv_hu (d : Dev) (f : NvState → NvState) : (d.setNv f).hu = d.hu := rfl
@[simp] theorem Dev.setNv_pwr (d : Dev) (f : NvState → NvState) : (d.setNv f).pwr = d.pwr := rfl
@[simp] theorem Dev.setNv_faults (d : Dev) (f : NvState → NvState) : (d.setNv f).faults = d.faults := rfl
@[simp] theorem Dev.setNv_mram (d : Dev) (f : NvState → NvState) : (d.setNv f).mram = d.mram := rfl
@[simp] theorem Dev.setNv_fnOut (d : Dev) (f : NvState → NvState) : (d.setNv f).fnOut = d.fnOut := rfl
@[simp] theorem Dev.setNv_rdata (d : Dev) (f : NvState → NvState) : (d.setNv f).rdata = d.rdata := rfl
@[simp] theorem Dev.setNv_rbytes (d : Dev) (f : NvState → NvState) : (d.setNv f).rbytes = d.rbytes := rfl
@[simp] theorem Dev.setNv_rpoison (d : Dev) (f : NvState → NvState) : (d.setNv f).rpoison = d.rpoison := rfl
@[simp] theorem Dev.setNv_fv (d : Dev) (f : NvState → NvState) : (d.setNv f).fv = d.fv := rfl
@[simp] theorem Dev.setNv_rd (d : Dev) (f : NvState → NvState) (g : Field) (k j w : Nat) : (d.setNv f).rd g k j w = d.rd g k j w := rfl
@[simp] theorem Dev.setNv_on (d : Dev) (f : NvState → NvState) (g : Field) (k j w : Nat) : (d.setNv f).on g k j w = d.on g k j w := rfl

@[simp] theorem Dev.setNv_nvme (d : Dev) (f : NvState → NvState) : (d.setNv f).nvme = f d.nvme := rfl

/-! ## setObj -/

@[simp] theorem Dev.setObj_regs (d : Dev) (f : ObjState → ObjState) : (d.setObj f).regs = d.regs := rfl
@[simp] theorem Dev.setObj_tk (d : Dev) (f : ObjState → ObjState) : (d.setObj f).tk = d.tk := rfl
@[simp] theorem Dev.setObj_rst (d : Dev) (f : ObjState → ObjState) : (d.setObj f).rst = d.rst := rfl
@[simp] theorem Dev.setObj_vlac (d : Dev) (f : ObjState → ObjState) : (d.setObj f).vlac = d.vlac := rfl
@[simp] theorem Dev.setObj_ports (d : Dev) (f : ObjState → ObjState) : (d.setObj f).ports = d.ports := rfl
@[simp] theorem Dev.setObj_cal (d : Dev) (f : ObjState → ObjState) : (d.setObj f).cal = d.cal := rfl
@[simp] theorem Dev.setObj_tb (d : Dev) (f : ObjState → ObjState) : (d.setObj f).tb = d.tb := rfl
@[simp] theorem Dev.setObj_rein (d : Dev) (f : ObjState → ObjState) : (d.setObj f).rein = d.rein := rfl
@[simp] theorem Dev.setObj_pins (d : Dev) (f : ObjState → ObjState) : (d.setObj f).pins = d.pins := rfl
@[simp] theorem Dev.setObj_trig (d : Dev) (f : ObjState → ObjState) : (d.setObj f).trig = d.trig := rfl
@[simp] theorem Dev.setObj_gates (d : Dev) (f : ObjState → ObjState) : (d.setObj f).gates = d.gates := rfl
@[simp] theorem Dev.setObj_police (d : Dev) (f : ObjState → ObjState) : (d.setObj f).police = d.police := rfl
@[simp] theorem Dev.setObj_sa (d : Dev) (f : ObjState → ObjState) : (d.setObj f).sa = d.sa := rfl
@[simp] theorem Dev.setObj_sc (d : Dev) (f : ObjState → ObjState) : (d.setObj f).sc = d.sc := rfl
@[simp] theorem Dev.setObj_hbmc (d : Dev) (f : ObjState → ObjState) : (d.setObj f).hbmc = d.hbmc := rfl
@[simp] theorem Dev.setObj_host (d : Dev) (f : ObjState → ObjState) : (d.setObj f).host = d.host := rfl
@[simp] theorem Dev.setObj_tab (d : Dev) (f : ObjState → ObjState) : (d.setObj f).tab = d.tab := rfl
@[simp] theorem Dev.setObj_cls (d : Dev) (f : ObjState → ObjState) : (d.setObj f).cls = d.cls := rfl
@[simp] theorem Dev.setObj_capt (d : Dev) (f : ObjState → ObjState) : (d.setObj f).capt = d.capt := rfl
@[simp] theorem Dev.setObj_seq (d : Dev) (f : ObjState → ObjState) : (d.setObj f).seq = d.seq := rfl
@[simp] theorem Dev.setObj_hide (d : Dev) (f : ObjState → ObjState) : (d.setObj f).hide = d.hide := rfl
@[simp] theorem Dev.setObj_ira (d : Dev) (f : ObjState → ObjState) : (d.setObj f).ira = d.ira := rfl
@[simp] theorem Dev.setObj_fab (d : Dev) (f : ObjState → ObjState) : (d.setObj f).fab = d.fab := rfl
@[simp] theorem Dev.setObj_nvme (d : Dev) (f : ObjState → ObjState) : (d.setObj f).nvme = d.nvme := rfl
@[simp] theorem Dev.setObj_encl (d : Dev) (f : ObjState → ObjState) : (d.setObj f).encl = d.encl := rfl
@[simp] theorem Dev.setObj_boot (d : Dev) (f : ObjState → ObjState) : (d.setObj f).boot = d.boot := rfl
@[simp] theorem Dev.setObj_flash (d : Dev) (f : ObjState → ObjState) : (d.setObj f).flash = d.flash := rfl
@[simp] theorem Dev.setObj_hu (d : Dev) (f : ObjState → ObjState) : (d.setObj f).hu = d.hu := rfl
@[simp] theorem Dev.setObj_pwr (d : Dev) (f : ObjState → ObjState) : (d.setObj f).pwr = d.pwr := rfl
@[simp] theorem Dev.setObj_faults (d : Dev) (f : ObjState → ObjState) : (d.setObj f).faults = d.faults := rfl
@[simp] theorem Dev.setObj_mram (d : Dev) (f : ObjState → ObjState) : (d.setObj f).mram = d.mram := rfl
@[simp] theorem Dev.setObj_fnOut (d : Dev) (f : ObjState → ObjState) : (d.setObj f).fnOut = d.fnOut := rfl
@[simp] theorem Dev.setObj_rdata (d : Dev) (f : ObjState → ObjState) : (d.setObj f).rdata = d.rdata := rfl
@[simp] theorem Dev.setObj_rbytes (d : Dev) (f : ObjState → ObjState) : (d.setObj f).rbytes = d.rbytes := rfl
@[simp] theorem Dev.setObj_rpoison (d : Dev) (f : ObjState → ObjState) : (d.setObj f).rpoison = d.rpoison := rfl
@[simp] theorem Dev.setObj_fv (d : Dev) (f : ObjState → ObjState) : (d.setObj f).fv = d.fv := rfl
@[simp] theorem Dev.setObj_rd (d : Dev) (f : ObjState → ObjState) (g : Field) (k j w : Nat) : (d.setObj f).rd g k j w = d.rd g k j w := rfl
@[simp] theorem Dev.setObj_on (d : Dev) (f : ObjState → ObjState) (g : Field) (k j w : Nat) : (d.setObj f).on g k j w = d.on g k j w := rfl

@[simp] theorem Dev.setObj_obj (d : Dev) (f : ObjState → ObjState) : (d.setObj f).obj = f d.obj := rfl

/-! ## setRein -/

@[simp] theorem Dev.setRein_regs (d : Dev) (f : ReinState → ReinState) : (d.setRein f).regs = d.regs := rfl
@[simp] theorem Dev.setRein_tk (d : Dev) (f : ReinState → ReinState) : (d.setRein f).tk = d.tk := rfl
@[simp] theorem Dev.setRein_rst (d : Dev) (f : ReinState → ReinState) : (d.setRein f).rst = d.rst := rfl
@[simp] theorem Dev.setRein_vlac (d : Dev) (f : ReinState → ReinState) : (d.setRein f).vlac = d.vlac := rfl
@[simp] theorem Dev.setRein_ports (d : Dev) (f : ReinState → ReinState) : (d.setRein f).ports = d.ports := rfl
@[simp] theorem Dev.setRein_cal (d : Dev) (f : ReinState → ReinState) : (d.setRein f).cal = d.cal := rfl
@[simp] theorem Dev.setRein_tb (d : Dev) (f : ReinState → ReinState) : (d.setRein f).tb = d.tb := rfl
@[simp] theorem Dev.setRein_pins (d : Dev) (f : ReinState → ReinState) : (d.setRein f).pins = d.pins := rfl
@[simp] theorem Dev.setRein_trig (d : Dev) (f : ReinState → ReinState) : (d.setRein f).trig = d.trig := rfl
@[simp] theorem Dev.setRein_gates (d : Dev) (f : ReinState → ReinState) : (d.setRein f).gates = d.gates := rfl
@[simp] theorem Dev.setRein_police (d : Dev) (f : ReinState → ReinState) : (d.setRein f).police = d.police := rfl
@[simp] theorem Dev.setRein_sa (d : Dev) (f : ReinState → ReinState) : (d.setRein f).sa = d.sa := rfl
@[simp] theorem Dev.setRein_sc (d : Dev) (f : ReinState → ReinState) : (d.setRein f).sc = d.sc := rfl
@[simp] theorem Dev.setRein_hbmc (d : Dev) (f : ReinState → ReinState) : (d.setRein f).hbmc = d.hbmc := rfl
@[simp] theorem Dev.setRein_host (d : Dev) (f : ReinState → ReinState) : (d.setRein f).host = d.host := rfl
@[simp] theorem Dev.setRein_tab (d : Dev) (f : ReinState → ReinState) : (d.setRein f).tab = d.tab := rfl
@[simp] theorem Dev.setRein_cls (d : Dev) (f : ReinState → ReinState) : (d.setRein f).cls = d.cls := rfl
@[simp] theorem Dev.setRein_capt (d : Dev) (f : ReinState → ReinState) : (d.setRein f).capt = d.capt := rfl
@[simp] theorem Dev.setRein_seq (d : Dev) (f : ReinState → ReinState) : (d.setRein f).seq = d.seq := rfl
@[simp] theorem Dev.setRein_hide (d : Dev) (f : ReinState → ReinState) : (d.setRein f).hide = d.hide := rfl
@[simp] theorem Dev.setRein_ira (d : Dev) (f : ReinState → ReinState) : (d.setRein f).ira = d.ira := rfl
@[simp] theorem Dev.setRein_fab (d : Dev) (f : ReinState → ReinState) : (d.setRein f).fab = d.fab := rfl
@[simp] theorem Dev.setRein_nvme (d : Dev) (f : ReinState → ReinState) : (d.setRein f).nvme = d.nvme := rfl
@[simp] theorem Dev.setRein_encl (d : Dev) (f : ReinState → ReinState) : (d.setRein f).encl = d.encl := rfl
@[simp] theorem Dev.setRein_boot (d : Dev) (f : ReinState → ReinState) : (d.setRein f).boot = d.boot := rfl
@[simp] theorem Dev.setRein_flash (d : Dev) (f : ReinState → ReinState) : (d.setRein f).flash = d.flash := rfl
@[simp] theorem Dev.setRein_obj (d : Dev) (f : ReinState → ReinState) : (d.setRein f).obj = d.obj := rfl
@[simp] theorem Dev.setRein_hu (d : Dev) (f : ReinState → ReinState) : (d.setRein f).hu = d.hu := rfl
@[simp] theorem Dev.setRein_pwr (d : Dev) (f : ReinState → ReinState) : (d.setRein f).pwr = d.pwr := rfl
@[simp] theorem Dev.setRein_faults (d : Dev) (f : ReinState → ReinState) : (d.setRein f).faults = d.faults := rfl
@[simp] theorem Dev.setRein_mram (d : Dev) (f : ReinState → ReinState) : (d.setRein f).mram = d.mram := rfl
@[simp] theorem Dev.setRein_fnOut (d : Dev) (f : ReinState → ReinState) : (d.setRein f).fnOut = d.fnOut := rfl
@[simp] theorem Dev.setRein_rdata (d : Dev) (f : ReinState → ReinState) : (d.setRein f).rdata = d.rdata := rfl
@[simp] theorem Dev.setRein_rbytes (d : Dev) (f : ReinState → ReinState) : (d.setRein f).rbytes = d.rbytes := rfl
@[simp] theorem Dev.setRein_rpoison (d : Dev) (f : ReinState → ReinState) : (d.setRein f).rpoison = d.rpoison := rfl
@[simp] theorem Dev.setRein_fv (d : Dev) (f : ReinState → ReinState) : (d.setRein f).fv = d.fv := rfl
@[simp] theorem Dev.setRein_rd (d : Dev) (f : ReinState → ReinState) (g : Field) (k j w : Nat) : (d.setRein f).rd g k j w = d.rd g k j w := rfl
@[simp] theorem Dev.setRein_on (d : Dev) (f : ReinState → ReinState) (g : Field) (k j w : Nat) : (d.setRein f).on g k j w = d.on g k j w := rfl

@[simp] theorem Dev.setRein_rein (d : Dev) (f : ReinState → ReinState) : (d.setRein f).rein = f d.rein := rfl

/-! ## setSeq -/

@[simp] theorem Dev.setSeq_regs (d : Dev) (f : Stitch → Stitch) : (d.setSeq f).regs = d.regs := rfl
@[simp] theorem Dev.setSeq_tk (d : Dev) (f : Stitch → Stitch) : (d.setSeq f).tk = d.tk := rfl
@[simp] theorem Dev.setSeq_rst (d : Dev) (f : Stitch → Stitch) : (d.setSeq f).rst = d.rst := rfl
@[simp] theorem Dev.setSeq_vlac (d : Dev) (f : Stitch → Stitch) : (d.setSeq f).vlac = d.vlac := rfl
@[simp] theorem Dev.setSeq_ports (d : Dev) (f : Stitch → Stitch) : (d.setSeq f).ports = d.ports := rfl
@[simp] theorem Dev.setSeq_cal (d : Dev) (f : Stitch → Stitch) : (d.setSeq f).cal = d.cal := rfl
@[simp] theorem Dev.setSeq_tb (d : Dev) (f : Stitch → Stitch) : (d.setSeq f).tb = d.tb := rfl
@[simp] theorem Dev.setSeq_rein (d : Dev) (f : Stitch → Stitch) : (d.setSeq f).rein = d.rein := rfl
@[simp] theorem Dev.setSeq_pins (d : Dev) (f : Stitch → Stitch) : (d.setSeq f).pins = d.pins := rfl
@[simp] theorem Dev.setSeq_trig (d : Dev) (f : Stitch → Stitch) : (d.setSeq f).trig = d.trig := rfl
@[simp] theorem Dev.setSeq_gates (d : Dev) (f : Stitch → Stitch) : (d.setSeq f).gates = d.gates := rfl
@[simp] theorem Dev.setSeq_police (d : Dev) (f : Stitch → Stitch) : (d.setSeq f).police = d.police := rfl
@[simp] theorem Dev.setSeq_sa (d : Dev) (f : Stitch → Stitch) : (d.setSeq f).sa = d.sa := rfl
@[simp] theorem Dev.setSeq_sc (d : Dev) (f : Stitch → Stitch) : (d.setSeq f).sc = d.sc := rfl
@[simp] theorem Dev.setSeq_hbmc (d : Dev) (f : Stitch → Stitch) : (d.setSeq f).hbmc = d.hbmc := rfl
@[simp] theorem Dev.setSeq_host (d : Dev) (f : Stitch → Stitch) : (d.setSeq f).host = d.host := rfl
@[simp] theorem Dev.setSeq_tab (d : Dev) (f : Stitch → Stitch) : (d.setSeq f).tab = d.tab := rfl
@[simp] theorem Dev.setSeq_cls (d : Dev) (f : Stitch → Stitch) : (d.setSeq f).cls = d.cls := rfl
@[simp] theorem Dev.setSeq_capt (d : Dev) (f : Stitch → Stitch) : (d.setSeq f).capt = d.capt := rfl
@[simp] theorem Dev.setSeq_hide (d : Dev) (f : Stitch → Stitch) : (d.setSeq f).hide = d.hide := rfl
@[simp] theorem Dev.setSeq_ira (d : Dev) (f : Stitch → Stitch) : (d.setSeq f).ira = d.ira := rfl
@[simp] theorem Dev.setSeq_fab (d : Dev) (f : Stitch → Stitch) : (d.setSeq f).fab = d.fab := rfl
@[simp] theorem Dev.setSeq_nvme (d : Dev) (f : Stitch → Stitch) : (d.setSeq f).nvme = d.nvme := rfl
@[simp] theorem Dev.setSeq_encl (d : Dev) (f : Stitch → Stitch) : (d.setSeq f).encl = d.encl := rfl
@[simp] theorem Dev.setSeq_boot (d : Dev) (f : Stitch → Stitch) : (d.setSeq f).boot = d.boot := rfl
@[simp] theorem Dev.setSeq_flash (d : Dev) (f : Stitch → Stitch) : (d.setSeq f).flash = d.flash := rfl
@[simp] theorem Dev.setSeq_obj (d : Dev) (f : Stitch → Stitch) : (d.setSeq f).obj = d.obj := rfl
@[simp] theorem Dev.setSeq_hu (d : Dev) (f : Stitch → Stitch) : (d.setSeq f).hu = d.hu := rfl
@[simp] theorem Dev.setSeq_pwr (d : Dev) (f : Stitch → Stitch) : (d.setSeq f).pwr = d.pwr := rfl
@[simp] theorem Dev.setSeq_faults (d : Dev) (f : Stitch → Stitch) : (d.setSeq f).faults = d.faults := rfl
@[simp] theorem Dev.setSeq_mram (d : Dev) (f : Stitch → Stitch) : (d.setSeq f).mram = d.mram := rfl
@[simp] theorem Dev.setSeq_fnOut (d : Dev) (f : Stitch → Stitch) : (d.setSeq f).fnOut = d.fnOut := rfl
@[simp] theorem Dev.setSeq_rdata (d : Dev) (f : Stitch → Stitch) : (d.setSeq f).rdata = d.rdata := rfl
@[simp] theorem Dev.setSeq_rbytes (d : Dev) (f : Stitch → Stitch) : (d.setSeq f).rbytes = d.rbytes := rfl
@[simp] theorem Dev.setSeq_rpoison (d : Dev) (f : Stitch → Stitch) : (d.setSeq f).rpoison = d.rpoison := rfl
@[simp] theorem Dev.setSeq_fv (d : Dev) (f : Stitch → Stitch) : (d.setSeq f).fv = d.fv := rfl
@[simp] theorem Dev.setSeq_rd (d : Dev) (f : Stitch → Stitch) (g : Field) (k j w : Nat) : (d.setSeq f).rd g k j w = d.rd g k j w := rfl
@[simp] theorem Dev.setSeq_on (d : Dev) (f : Stitch → Stitch) (g : Field) (k j w : Nat) : (d.setSeq f).on g k j w = d.on g k j w := rfl

@[simp] theorem Dev.setSeq_seq (d : Dev) (f : Stitch → Stitch) : (d.setSeq f).seq = f d.seq := rfl

/-! ## setTab -/

@[simp] theorem Dev.setTab_regs (d : Dev) (f : Tables → Tables) : (d.setTab f).regs = d.regs := rfl
@[simp] theorem Dev.setTab_tk (d : Dev) (f : Tables → Tables) : (d.setTab f).tk = d.tk := rfl
@[simp] theorem Dev.setTab_rst (d : Dev) (f : Tables → Tables) : (d.setTab f).rst = d.rst := rfl
@[simp] theorem Dev.setTab_vlac (d : Dev) (f : Tables → Tables) : (d.setTab f).vlac = d.vlac := rfl
@[simp] theorem Dev.setTab_ports (d : Dev) (f : Tables → Tables) : (d.setTab f).ports = d.ports := rfl
@[simp] theorem Dev.setTab_cal (d : Dev) (f : Tables → Tables) : (d.setTab f).cal = d.cal := rfl
@[simp] theorem Dev.setTab_tb (d : Dev) (f : Tables → Tables) : (d.setTab f).tb = d.tb := rfl
@[simp] theorem Dev.setTab_rein (d : Dev) (f : Tables → Tables) : (d.setTab f).rein = d.rein := rfl
@[simp] theorem Dev.setTab_pins (d : Dev) (f : Tables → Tables) : (d.setTab f).pins = d.pins := rfl
@[simp] theorem Dev.setTab_trig (d : Dev) (f : Tables → Tables) : (d.setTab f).trig = d.trig := rfl
@[simp] theorem Dev.setTab_gates (d : Dev) (f : Tables → Tables) : (d.setTab f).gates = d.gates := rfl
@[simp] theorem Dev.setTab_police (d : Dev) (f : Tables → Tables) : (d.setTab f).police = d.police := rfl
@[simp] theorem Dev.setTab_sa (d : Dev) (f : Tables → Tables) : (d.setTab f).sa = d.sa := rfl
@[simp] theorem Dev.setTab_sc (d : Dev) (f : Tables → Tables) : (d.setTab f).sc = d.sc := rfl
@[simp] theorem Dev.setTab_hbmc (d : Dev) (f : Tables → Tables) : (d.setTab f).hbmc = d.hbmc := rfl
@[simp] theorem Dev.setTab_host (d : Dev) (f : Tables → Tables) : (d.setTab f).host = d.host := rfl
@[simp] theorem Dev.setTab_cls (d : Dev) (f : Tables → Tables) : (d.setTab f).cls = d.cls := rfl
@[simp] theorem Dev.setTab_capt (d : Dev) (f : Tables → Tables) : (d.setTab f).capt = d.capt := rfl
@[simp] theorem Dev.setTab_seq (d : Dev) (f : Tables → Tables) : (d.setTab f).seq = d.seq := rfl
@[simp] theorem Dev.setTab_hide (d : Dev) (f : Tables → Tables) : (d.setTab f).hide = d.hide := rfl
@[simp] theorem Dev.setTab_ira (d : Dev) (f : Tables → Tables) : (d.setTab f).ira = d.ira := rfl
@[simp] theorem Dev.setTab_fab (d : Dev) (f : Tables → Tables) : (d.setTab f).fab = d.fab := rfl
@[simp] theorem Dev.setTab_nvme (d : Dev) (f : Tables → Tables) : (d.setTab f).nvme = d.nvme := rfl
@[simp] theorem Dev.setTab_encl (d : Dev) (f : Tables → Tables) : (d.setTab f).encl = d.encl := rfl
@[simp] theorem Dev.setTab_boot (d : Dev) (f : Tables → Tables) : (d.setTab f).boot = d.boot := rfl
@[simp] theorem Dev.setTab_flash (d : Dev) (f : Tables → Tables) : (d.setTab f).flash = d.flash := rfl
@[simp] theorem Dev.setTab_obj (d : Dev) (f : Tables → Tables) : (d.setTab f).obj = d.obj := rfl
@[simp] theorem Dev.setTab_hu (d : Dev) (f : Tables → Tables) : (d.setTab f).hu = d.hu := rfl
@[simp] theorem Dev.setTab_pwr (d : Dev) (f : Tables → Tables) : (d.setTab f).pwr = d.pwr := rfl
@[simp] theorem Dev.setTab_faults (d : Dev) (f : Tables → Tables) : (d.setTab f).faults = d.faults := rfl
@[simp] theorem Dev.setTab_mram (d : Dev) (f : Tables → Tables) : (d.setTab f).mram = d.mram := rfl
@[simp] theorem Dev.setTab_fnOut (d : Dev) (f : Tables → Tables) : (d.setTab f).fnOut = d.fnOut := rfl
@[simp] theorem Dev.setTab_rdata (d : Dev) (f : Tables → Tables) : (d.setTab f).rdata = d.rdata := rfl
@[simp] theorem Dev.setTab_rbytes (d : Dev) (f : Tables → Tables) : (d.setTab f).rbytes = d.rbytes := rfl
@[simp] theorem Dev.setTab_rpoison (d : Dev) (f : Tables → Tables) : (d.setTab f).rpoison = d.rpoison := rfl
@[simp] theorem Dev.setTab_fv (d : Dev) (f : Tables → Tables) : (d.setTab f).fv = d.fv := rfl
@[simp] theorem Dev.setTab_rd (d : Dev) (f : Tables → Tables) (g : Field) (k j w : Nat) : (d.setTab f).rd g k j w = d.rd g k j w := rfl
@[simp] theorem Dev.setTab_on (d : Dev) (f : Tables → Tables) (g : Field) (k j w : Nat) : (d.setTab f).on g k j w = d.on g k j w := rfl

@[simp] theorem Dev.setTab_tab (d : Dev) (f : Tables → Tables) : (d.setTab f).tab = f d.tab := rfl

/-! ## setTb -/

@[simp] theorem Dev.setTb_regs (d : Dev) (f : TimeBase → TimeBase) : (d.setTb f).regs = d.regs := rfl
@[simp] theorem Dev.setTb_tk (d : Dev) (f : TimeBase → TimeBase) : (d.setTb f).tk = d.tk := rfl
@[simp] theorem Dev.setTb_rst (d : Dev) (f : TimeBase → TimeBase) : (d.setTb f).rst = d.rst := rfl
@[simp] theorem Dev.setTb_vlac (d : Dev) (f : TimeBase → TimeBase) : (d.setTb f).vlac = d.vlac := rfl
@[simp] theorem Dev.setTb_ports (d : Dev) (f : TimeBase → TimeBase) : (d.setTb f).ports = d.ports := rfl
@[simp] theorem Dev.setTb_cal (d : Dev) (f : TimeBase → TimeBase) : (d.setTb f).cal = d.cal := rfl
@[simp] theorem Dev.setTb_rein (d : Dev) (f : TimeBase → TimeBase) : (d.setTb f).rein = d.rein := rfl
@[simp] theorem Dev.setTb_pins (d : Dev) (f : TimeBase → TimeBase) : (d.setTb f).pins = d.pins := rfl
@[simp] theorem Dev.setTb_trig (d : Dev) (f : TimeBase → TimeBase) : (d.setTb f).trig = d.trig := rfl
@[simp] theorem Dev.setTb_gates (d : Dev) (f : TimeBase → TimeBase) : (d.setTb f).gates = d.gates := rfl
@[simp] theorem Dev.setTb_police (d : Dev) (f : TimeBase → TimeBase) : (d.setTb f).police = d.police := rfl
@[simp] theorem Dev.setTb_sa (d : Dev) (f : TimeBase → TimeBase) : (d.setTb f).sa = d.sa := rfl
@[simp] theorem Dev.setTb_sc (d : Dev) (f : TimeBase → TimeBase) : (d.setTb f).sc = d.sc := rfl
@[simp] theorem Dev.setTb_hbmc (d : Dev) (f : TimeBase → TimeBase) : (d.setTb f).hbmc = d.hbmc := rfl
@[simp] theorem Dev.setTb_host (d : Dev) (f : TimeBase → TimeBase) : (d.setTb f).host = d.host := rfl
@[simp] theorem Dev.setTb_tab (d : Dev) (f : TimeBase → TimeBase) : (d.setTb f).tab = d.tab := rfl
@[simp] theorem Dev.setTb_cls (d : Dev) (f : TimeBase → TimeBase) : (d.setTb f).cls = d.cls := rfl
@[simp] theorem Dev.setTb_capt (d : Dev) (f : TimeBase → TimeBase) : (d.setTb f).capt = d.capt := rfl
@[simp] theorem Dev.setTb_seq (d : Dev) (f : TimeBase → TimeBase) : (d.setTb f).seq = d.seq := rfl
@[simp] theorem Dev.setTb_hide (d : Dev) (f : TimeBase → TimeBase) : (d.setTb f).hide = d.hide := rfl
@[simp] theorem Dev.setTb_ira (d : Dev) (f : TimeBase → TimeBase) : (d.setTb f).ira = d.ira := rfl
@[simp] theorem Dev.setTb_fab (d : Dev) (f : TimeBase → TimeBase) : (d.setTb f).fab = d.fab := rfl
@[simp] theorem Dev.setTb_nvme (d : Dev) (f : TimeBase → TimeBase) : (d.setTb f).nvme = d.nvme := rfl
@[simp] theorem Dev.setTb_encl (d : Dev) (f : TimeBase → TimeBase) : (d.setTb f).encl = d.encl := rfl
@[simp] theorem Dev.setTb_boot (d : Dev) (f : TimeBase → TimeBase) : (d.setTb f).boot = d.boot := rfl
@[simp] theorem Dev.setTb_flash (d : Dev) (f : TimeBase → TimeBase) : (d.setTb f).flash = d.flash := rfl
@[simp] theorem Dev.setTb_obj (d : Dev) (f : TimeBase → TimeBase) : (d.setTb f).obj = d.obj := rfl
@[simp] theorem Dev.setTb_hu (d : Dev) (f : TimeBase → TimeBase) : (d.setTb f).hu = d.hu := rfl
@[simp] theorem Dev.setTb_pwr (d : Dev) (f : TimeBase → TimeBase) : (d.setTb f).pwr = d.pwr := rfl
@[simp] theorem Dev.setTb_faults (d : Dev) (f : TimeBase → TimeBase) : (d.setTb f).faults = d.faults := rfl
@[simp] theorem Dev.setTb_mram (d : Dev) (f : TimeBase → TimeBase) : (d.setTb f).mram = d.mram := rfl
@[simp] theorem Dev.setTb_fnOut (d : Dev) (f : TimeBase → TimeBase) : (d.setTb f).fnOut = d.fnOut := rfl
@[simp] theorem Dev.setTb_rdata (d : Dev) (f : TimeBase → TimeBase) : (d.setTb f).rdata = d.rdata := rfl
@[simp] theorem Dev.setTb_rbytes (d : Dev) (f : TimeBase → TimeBase) : (d.setTb f).rbytes = d.rbytes := rfl
@[simp] theorem Dev.setTb_rpoison (d : Dev) (f : TimeBase → TimeBase) : (d.setTb f).rpoison = d.rpoison := rfl
@[simp] theorem Dev.setTb_fv (d : Dev) (f : TimeBase → TimeBase) : (d.setTb f).fv = d.fv := rfl
@[simp] theorem Dev.setTb_rd (d : Dev) (f : TimeBase → TimeBase) (g : Field) (k j w : Nat) : (d.setTb f).rd g k j w = d.rd g k j w := rfl
@[simp] theorem Dev.setTb_on (d : Dev) (f : TimeBase → TimeBase) (g : Field) (k j w : Nat) : (d.setTb f).on g k j w = d.on g k j w := rfl

@[simp] theorem Dev.setTb_tb (d : Dev) (f : TimeBase → TimeBase) : (d.setTb f).tb = f d.tb := rfl

/-! ## setTrig -/

@[simp] theorem Dev.setTrig_regs (d : Dev) (f : TrigState → TrigState) : (d.setTrig f).regs = d.regs := rfl
@[simp] theorem Dev.setTrig_tk (d : Dev) (f : TrigState → TrigState) : (d.setTrig f).tk = d.tk := rfl
@[simp] theorem Dev.setTrig_rst (d : Dev) (f : TrigState → TrigState) : (d.setTrig f).rst = d.rst := rfl
@[simp] theorem Dev.setTrig_vlac (d : Dev) (f : TrigState → TrigState) : (d.setTrig f).vlac = d.vlac := rfl
@[simp] theorem Dev.setTrig_ports (d : Dev) (f : TrigState → TrigState) : (d.setTrig f).ports = d.ports := rfl
@[simp] theorem Dev.setTrig_cal (d : Dev) (f : TrigState → TrigState) : (d.setTrig f).cal = d.cal := rfl
@[simp] theorem Dev.setTrig_tb (d : Dev) (f : TrigState → TrigState) : (d.setTrig f).tb = d.tb := rfl
@[simp] theorem Dev.setTrig_rein (d : Dev) (f : TrigState → TrigState) : (d.setTrig f).rein = d.rein := rfl
@[simp] theorem Dev.setTrig_pins (d : Dev) (f : TrigState → TrigState) : (d.setTrig f).pins = d.pins := rfl
@[simp] theorem Dev.setTrig_gates (d : Dev) (f : TrigState → TrigState) : (d.setTrig f).gates = d.gates := rfl
@[simp] theorem Dev.setTrig_police (d : Dev) (f : TrigState → TrigState) : (d.setTrig f).police = d.police := rfl
@[simp] theorem Dev.setTrig_sa (d : Dev) (f : TrigState → TrigState) : (d.setTrig f).sa = d.sa := rfl
@[simp] theorem Dev.setTrig_sc (d : Dev) (f : TrigState → TrigState) : (d.setTrig f).sc = d.sc := rfl
@[simp] theorem Dev.setTrig_hbmc (d : Dev) (f : TrigState → TrigState) : (d.setTrig f).hbmc = d.hbmc := rfl
@[simp] theorem Dev.setTrig_host (d : Dev) (f : TrigState → TrigState) : (d.setTrig f).host = d.host := rfl
@[simp] theorem Dev.setTrig_tab (d : Dev) (f : TrigState → TrigState) : (d.setTrig f).tab = d.tab := rfl
@[simp] theorem Dev.setTrig_cls (d : Dev) (f : TrigState → TrigState) : (d.setTrig f).cls = d.cls := rfl
@[simp] theorem Dev.setTrig_capt (d : Dev) (f : TrigState → TrigState) : (d.setTrig f).capt = d.capt := rfl
@[simp] theorem Dev.setTrig_seq (d : Dev) (f : TrigState → TrigState) : (d.setTrig f).seq = d.seq := rfl
@[simp] theorem Dev.setTrig_hide (d : Dev) (f : TrigState → TrigState) : (d.setTrig f).hide = d.hide := rfl
@[simp] theorem Dev.setTrig_ira (d : Dev) (f : TrigState → TrigState) : (d.setTrig f).ira = d.ira := rfl
@[simp] theorem Dev.setTrig_fab (d : Dev) (f : TrigState → TrigState) : (d.setTrig f).fab = d.fab := rfl
@[simp] theorem Dev.setTrig_nvme (d : Dev) (f : TrigState → TrigState) : (d.setTrig f).nvme = d.nvme := rfl
@[simp] theorem Dev.setTrig_encl (d : Dev) (f : TrigState → TrigState) : (d.setTrig f).encl = d.encl := rfl
@[simp] theorem Dev.setTrig_boot (d : Dev) (f : TrigState → TrigState) : (d.setTrig f).boot = d.boot := rfl
@[simp] theorem Dev.setTrig_flash (d : Dev) (f : TrigState → TrigState) : (d.setTrig f).flash = d.flash := rfl
@[simp] theorem Dev.setTrig_obj (d : Dev) (f : TrigState → TrigState) : (d.setTrig f).obj = d.obj := rfl
@[simp] theorem Dev.setTrig_hu (d : Dev) (f : TrigState → TrigState) : (d.setTrig f).hu = d.hu := rfl
@[simp] theorem Dev.setTrig_pwr (d : Dev) (f : TrigState → TrigState) : (d.setTrig f).pwr = d.pwr := rfl
@[simp] theorem Dev.setTrig_faults (d : Dev) (f : TrigState → TrigState) : (d.setTrig f).faults = d.faults := rfl
@[simp] theorem Dev.setTrig_mram (d : Dev) (f : TrigState → TrigState) : (d.setTrig f).mram = d.mram := rfl
@[simp] theorem Dev.setTrig_fnOut (d : Dev) (f : TrigState → TrigState) : (d.setTrig f).fnOut = d.fnOut := rfl
@[simp] theorem Dev.setTrig_rdata (d : Dev) (f : TrigState → TrigState) : (d.setTrig f).rdata = d.rdata := rfl
@[simp] theorem Dev.setTrig_rbytes (d : Dev) (f : TrigState → TrigState) : (d.setTrig f).rbytes = d.rbytes := rfl
@[simp] theorem Dev.setTrig_rpoison (d : Dev) (f : TrigState → TrigState) : (d.setTrig f).rpoison = d.rpoison := rfl
@[simp] theorem Dev.setTrig_fv (d : Dev) (f : TrigState → TrigState) : (d.setTrig f).fv = d.fv := rfl
@[simp] theorem Dev.setTrig_rd (d : Dev) (f : TrigState → TrigState) (g : Field) (k j w : Nat) : (d.setTrig f).rd g k j w = d.rd g k j w := rfl
@[simp] theorem Dev.setTrig_on (d : Dev) (f : TrigState → TrigState) (g : Field) (k j w : Nat) : (d.setTrig f).on g k j w = d.on g k j w := rfl

@[simp] theorem Dev.setTrig_trig (d : Dev) (f : TrigState → TrigState) : (d.setTrig f).trig = f d.trig := rfl

end Sys2Proof.Machine
end

