-- ==== Sys2Proof/Laws/Ops.lean ====
section
/-!
SUPPORT. The shared operations, once: what a sparse map, the register file and HBM answer after an update, and that every update of HBM keeps
its canonical form.
-/
namespace Sys2Proof.Machine

/-! ## Sparse maps -/

@[simp] theorem SMap.get?_put_self {α : Type} (m : SMap α) (k : Nat) (a : α) : SMap.get? (SMap.put m k a) k = some a := by
  induction m with
  | nil => simp [SMap.put, SMap.get?]
  | cons e m ih =>
    obtain ⟨j, b⟩ := e
    by_cases h1 : k < j
    · simp [SMap.put, SMap.get?, h1]
    · by_cases h2 : k = j
      · simp [SMap.put, SMap.get?, h2]
      · simp [SMap.put, SMap.get?, h1, h2, Ne.symm h2, ih]

theorem SMap.get?_put_ne {α : Type} (m : SMap α) (k k' : Nat) (a : α) (h : k' ≠ k) : SMap.get? (SMap.put m k a) k' = SMap.get? m k' := by
  induction m with
  | nil => simp [SMap.put, SMap.get?, Ne.symm h]
  | cons e m ih =>
    obtain ⟨j, b⟩ := e
    by_cases h1 : k < j
    · simp [SMap.put, SMap.get?, h1, Ne.symm h]
    · by_cases h2 : k = j
      · subst h2; simp [SMap.put, SMap.get?, Ne.symm h]
      · simp [SMap.put, SMap.get?, h1, h2, ih]

@[simp] theorem SMap.getD_put_self {α : Type} (m : SMap α) (k : Nat) (a b : α) : SMap.getD (SMap.put m k a) k b = a := by simp [SMap.getD]

theorem SMap.getD_put_ne {α : Type} (m : SMap α) (k k' : Nat) (a b : α) (h : k' ≠ k) : SMap.getD (SMap.put m k a) k' b = SMap.getD m k' b := by
  simp [SMap.getD, SMap.get?_put_ne m k k' a h]

@[simp] theorem SMap.get?_del_self {α : Type} (m : SMap α) (k : Nat) : SMap.get? (SMap.del m k) k = none := by
  induction m with
  | nil => rfl
  | cons e m ih =>
    by_cases h : e.1 = k
    · simpa [SMap.del, h] using ih
    · simp only [SMap.del, List.filter, bne_iff_ne.mpr h, SMap.get?, h, if_false]; exact ih

theorem SMap.get?_del_ne {α : Type} (m : SMap α) (k k' : Nat) (h : k' ≠ k) : SMap.get? (SMap.del m k) k' = SMap.get? m k' := by
  induction m with
  | nil => rfl
  | cons e m ih =>
    by_cases he : e.1 = k
    · have hk : e.1 ≠ k' := fun x => h (x.symm.trans he)
      simp only [SMap.del, List.filter, he, bne_self_eq_false, SMap.get?] at ih ⊢
      rw [if_neg (fun x => h x.symm)]; exact ih
    · simp only [SMap.del, List.filter, bne_iff_ne.mpr he, SMap.get?] at ih ⊢
      by_cases hk : e.1 = k'
      · simp [hk]
      · simp only [hk, if_false]; exact ih

/-! ## The register file -/

theorem RegFile.get?_put_self (m : RegFile) (k : Key) (a : Nat) : RegFile.get? (RegFile.put m k a) k = some a := by
  induction m with
  | nil => simp [RegFile.put, RegFile.get?]
  | cons e m ih =>
    obtain ⟨j, b⟩ := e
    by_cases h1 : k.lt j = true
    · simp [RegFile.put, RegFile.get?, h1]
    · by_cases h2 : k = j
      · subst h2; simp [RegFile.put, RegFile.get?, h1]
      · simp [RegFile.put, RegFile.get?, h1, h2, Ne.symm h2, ih]

theorem RegFile.get?_put_ne (m : RegFile) (k k' : Key) (a : Nat) (h : k' ≠ k) : RegFile.get? (RegFile.put m k a) k' = RegFile.get? m k' := by
  induction m with
  | nil => simp [RegFile.put, RegFile.get?, Ne.symm h]
  | cons e m ih =>
    obtain ⟨j, b⟩ := e
    by_cases h1 : k.lt j = true
    · simp [RegFile.put, RegFile.get?, h1, Ne.symm h]
    · by_cases h2 : k = j
      · subst h2; simp [RegFile.put, RegFile.get?, h1, Ne.symm h]
      · simp [RegFile.put, RegFile.get?, h1, h2, ih]

theorem RegFile.get?_erase_self (m : RegFile) (k : Key) : RegFile.get? (RegFile.erase m k) k = none := by
  induction m with
  | nil => rfl
  | cons e m ih =>
    obtain ⟨j, b⟩ := e
    by_cases h : j = k
    · simp [RegFile.erase, h, ih]
    · simp [RegFile.erase, RegFile.get?, h, ih]

theorem RegFile.get?_erase_ne (m : RegFile) (k k' : Key) (h : k' ≠ k) : RegFile.get? (RegFile.erase m k) k' = RegFile.get? m k' := by
  induction m with
  | nil => rfl
  | cons e m ih =>
    obtain ⟨j, b⟩ := e
    by_cases hj : j = k
    · subst hj; simp [RegFile.erase, RegFile.get?, ih, Ne.symm h]
    · simp [RegFile.erase, RegFile.get?, hj, ih]

theorem RegFile.get?_wr_ne (m : RegFile) (f : Field) (v c i r : Nat) (k : Key) (h : k ≠ f.key c i r) :
    RegFile.get? (m.wr f v c i r) k = RegFile.get? m k := by
  unfold RegFile.wr
  split
  · exact RegFile.get?_erase_ne m _ _ h
  · exact RegFile.get?_put_ne m _ _ _ h

/-- A field reads back what was written, truncated to its width. -/
theorem Dev.rd_wr (d : Dev) (f : Field) (v c i r : Nat) : (d.wr f v c i r).rd f c i r = v % 2 ^ f.width := by
  simp only [Dev.rd, Dev.wr, RegFile.rd, RegFile.wr]
  split
  · next h => simp [RegFile.get?_erase_self, h]
  · simp [RegFile.get?_put_self]

/-- A field of another key keeps its value. -/
theorem Dev.rd_wr_ne (d : Dev) (f : Field) (v c i r : Nat) (g : Field) (c' i' r' : Nat) (h : g.key c' i' r' ≠ f.key c i r) :
    (d.wr f v c i r).rd g c' i' r' = d.rd g c' i' r' := by
  simp [Dev.rd, Dev.wr, RegFile.rd, RegFile.get?_wr_ne _ _ _ _ _ _ _ h]

/-- Every entry but the written one stays. -/
theorem Dev.get?_wr_ne (d : Dev) (f : Field) (v c i r : Nat) (k : Key) (h : k ≠ f.key c i r) :
    RegFile.get? (d.wr f v c i r).regs k = RegFile.get? d.regs k := RegFile.get?_wr_ne d.regs f v c i r k h

/-- A sticky bit reads 1 once set. -/
theorem Dev.on_flag (d : Dev) (f : Field) (c i r : Nat) (h : 0 < f.width) : (d.flag f c i r).on f c i r = true := by
  have : 1 < 2 ^ f.width := Nat.one_lt_two_pow (by omega)
  simp [Dev.on, Dev.flag, Dev.rd_wr, Nat.mod_eq_of_lt this]

/-- A counter counts, modulo its width (R64). -/
theorem Dev.rd_count (d : Dev) (f : Field) (n c i : Nat) : (d.count f n c i).rd f c i = (d.rd f c i + n) % 2 ^ f.width := by
  simp [Dev.count, Dev.rd_wr]

/-! ## HBM -/

theorem Memory.wf_tail {e : Host.Cell} {m : List Host.Cell} (h : Memory.wf (e :: m) = true) : Memory.wf m = true := by
  cases m with
  | nil => rfl
  | cons e' m => obtain ⟨a, b⟩ := e; obtain ⟨a', b'⟩ := e'; simp [Memory.wf] at h; exact h.2

/-- Every entry of a canonical memory behind its first lies higher. -/
theorem Memory.wf_lt {a : Nat} {b : BitVec 8} {m : List Host.Cell} (h : Memory.wf ((a, b) :: m) = true) : ∀ e ∈ m, a < e.1 := by
  induction m generalizing a b with
  | nil => simp
  | cons e' m ih =>
    obtain ⟨a', b'⟩ := e'
    simp [Memory.wf] at h
    intro e he
    cases he with
    | head => exact h.1.2
    | tail _ he => exact Nat.lt_trans h.1.2 (ih h.2 e he)

theorem Memory.wf_cons {a : Nat} {b : BitVec 8} {m : List Host.Cell} (hb : b ≠ hbmBlank) (hl : ∀ e ∈ m, a < e.1) (hm : Memory.wf m = true) :
    Memory.wf ((a, b) :: m) = true := by
  cases m with
  | nil => simp [Memory.wf, hb]
  | cons e m =>
    obtain ⟨a', b'⟩ := e
    have := hl (a', b') (by simp)
    simp [Memory.wf, hb, this, hm]

theorem Memory.wf_head {a : Nat} {b : BitVec 8} {m : List Host.Cell} (h : Memory.wf ((a, b) :: m) = true) : b ≠ hbmBlank := by
  cases m with
  | nil => simpa [Memory.wf] using h
  | cons e m => obtain ⟨a', b'⟩ := e; simp [Memory.wf] at h; exact h.1.1

theorem memWrite_mem {m : List Host.Cell} {a : Nat} {v : Byte} {e : Host.Cell} (h : e ∈ memWrite m a v) : e ∈ m ∨ e.1 = a := by
  induction m with
  | nil => simp only [memWrite] at h; split at h <;> simp_all
  | cons x m ih =>
    obtain ⟨j, b⟩ := x
    simp only [memWrite] at h
    split at h
    · split at h
      · exact .inl h
      · simp at h ⊢; rcases h with h | h | h <;> simp_all
    · split at h
      · split at h
        · simp [h]
        · simp at h ⊢; rcases h with h | h <;> simp_all
      · simp at h ⊢; rcases h with h | h
        · simp [h]
        · rcases ih h with h | h <;> simp [h]

/-- Writing a byte keeps the canonical form. -/
theorem memWrite_wf (m : List Host.Cell) (a : Nat) (v : Byte) (h : Memory.wf m = true) : Memory.wf (memWrite m a v) = true := by
  induction m with
  | nil => simp only [memWrite]; split <;> simp_all [Memory.wf]
  | cons x m ih =>
    obtain ⟨j, b⟩ := x
    have hl := Memory.wf_lt h
    have ht := Memory.wf_tail h
    have hb := Memory.wf_head h
    simp only [memWrite]
    split
    · next h1 =>
      split
      · exact h
      · next hv =>
        refine Memory.wf_cons hv ?_ h
        intro e he
        cases he with
        | head => exact h1
        | tail _ he => exact Nat.lt_trans h1 (hl e he)
    · next h1 =>
      split
      · next h2 =>
        subst h2
        split
        · exact ht
        · next hv => exact Memory.wf_cons hv hl ht
      · next h2 =>
        refine Memory.wf_cons hb ?_ (ih ht)
        intro e he
        rcases memWrite_mem he with he | he
        · exact hl e he
        · rw [he]; omega

/-- So does writing a run. -/
theorem memWriteN_wf (m : List Host.Cell) (a : Nat) (l : Bytes) (h : Memory.wf m = true) : Memory.wf (memWriteN m a l) = true := by
  induction l generalizing m a with
  | nil => exact h
  | cons v l ih => exact ih _ _ (memWrite_wf m a v h)

theorem memRead_of_lt (m : List Host.Cell) (a : Nat) (h : ∀ e ∈ m, a < e.1) : memRead m a = hbmBlank := by
  induction m with
  | nil => rfl
  | cons x m ih =>
    obtain ⟨j, b⟩ := x
    have hj : j ≠ a := by have := h (j, b) (by simp); simp at this; omega
    simp only [memRead, hj, if_false]
    exact ih (fun e he => h e (by simp [he]))

/-- A byte reads back what was written to it. -/
theorem memRead_memWrite_self (m : List Host.Cell) (a : Nat) (v : Byte) (h : Memory.wf m = true) : memRead (memWrite m a v) a = v := by
  induction m with
  | nil => simp only [memWrite]; split <;> simp_all [memRead]
  | cons x m ih =>
    obtain ⟨j, b⟩ := x
    have hl := Memory.wf_lt h
    simp only [memWrite]
    split
    · next h1 =>
      split
      · next hv =>
        rw [hv]
        refine memRead_of_lt _ _ ?_
        intro e he
        cases he with
        | head => exact h1
        | tail _ he => exact Nat.lt_trans h1 (hl e he)
      · simp [memRead]
    · next h1 =>
      split
      · next h2 =>
        subst h2
        split
        · next hv => rw [hv]; exact memRead_of_lt _ _ hl
        · simp [memRead]
      · next h2 => simp only [memRead, Ne.symm h2, if_false]; exact ih (Memory.wf_tail h)

/-- Every other byte keeps its value. -/
theorem memRead_memWrite_ne (m : List Host.Cell) (a : Nat) (v : Byte) (c : Nat) (h : c ≠ a) : memRead (memWrite m a v) c = memRead m c := by
  induction m with
  | nil => simp only [memWrite]; split <;> simp [memRead, Ne.symm h]
  | cons x m ih =>
    obtain ⟨j, b⟩ := x
    simp only [memWrite]
    split
    · split
      · rfl
      · simp [memRead, Ne.symm h]
    · split
      · next h2 =>
        subst h2
        split <;> simp [memRead, Ne.symm h]
      · by_cases hc : j = c
        · simp [memRead, hc]
        · simp only [memRead, hc, if_false]; exact ih

/-- A run of bytes leaves every byte outside it. -/
theorem memRead_memWriteN_ne (m : List Host.Cell) (a : Nat) (l : Bytes) (c : Nat) (h : c < a ∨ a + l.length ≤ c) :
    memRead (memWriteN m a l) c = memRead m c := by
  induction l generalizing m a with
  | nil => rfl
  | cons v l ih =>
    simp only [List.length_cons] at h
    rw [memWriteN, ih _ _ (by omega), memRead_memWrite_ne _ _ _ _ (by omega)]

end Sys2Proof.Machine
end

