-- ==== Sys2Proof/Tests/Build.lean ====
section
/-!
SUPPORT. Small states and frames for the tests and the witnesses.
-/
namespace Sys2Proof.Tests
open Sys2Proof.Machine

/-- The state after reset with its device changed. -/
def dev (f : Dev → Dev) : State := State.reset.onDev f

/-- A frame of 60 bytes that begins with the given ones, with its FCS. -/
def framed (b : Bytes) : Bytes := (padTo 60 b) ++ fcsOf (padTo 60 b)

/-- A PAUSE frame for 9 quanta, a frame of zeros, and a frame for the IRA port with a good IPv4 header. -/
def pauseFrame : Bytes := framed (List.replicate 12 0#8 ++ [0x88#8, 0x08#8, 0#8, 1#8, 0#8, 9#8])
def plainFrame : Bytes := framed []
def iraFrameBytes : Bytes :=
  framed (List.replicate 12 0#8 ++ [8#8, 0#8, 0x45#8, 0#8, 0#8, 0x2E#8, 0#8, 0#8, 0#8, 0#8, 0x40#8, 0x11#8, 0x7A#8, 0xC0#8] ++ List.replicate 8 0#8 ++
    [0#8, 0#8] ++ beBytes 2 R.IR_UDP_PORT.reset ++ [0#8, 26#8, 0#8, 0#8])

/-- States with a MAC table whose one entry is that of the all-zero key, and requester 4104 staging that key. -/
def macSlot0 : Nat := 4 * (State.reset.dev.macBuckets 0 0).1
def macEntry0 : MacEntry := ⟨0, 0, 5, false, false, false, 0⟩
def macEmpty : State := dev (fun d => (d.flag R.FT_STATUS_MT_READY).wr R.FT_OPARG_TABLE 1 0 0 4104)
def macState : State := macEmpty.onDev (fun d => { d with tab := { d.tab with mac := [(macSlot0, macEntry0)] } })
def macLearn : State := macState.onDev (fun d => { d with tk := { d.tk with etick := 1 }, tab := { d.tab with macFifo := [⟨0, 0, 5, (0, 0)⟩] } })

/-- A state with one flow entry and a request that finds it. -/
def flowSlot0 : Nat := 4 * (State.reset.dev.flowBuckets 1 (padTo 40 [])).1
def flowLearnState : State := dev (fun d => { d.flag R.FT_STATUS_FT_READY with
  tk := { d.tk with etick := 1 }
  tab := { d.tab with
    flow := [(flowSlot0, { profile := 1, kl := 4, key := padTo 40 [], flags := 0, port := 2, queue := 0, cookie := 9 })]
    flowFifo := [⟨0, 0, 5, (1, 4, padTo 40 [])⟩] } })

/-- Device ring 3 as the one ring of PF1, enabled with a type, of 64 entries; with an entry kept and posted if one is given. -/
def ringState (ty : Nat) (b : Bytes) : State := dev (fun d =>
  ((((((d.wr R.FN_RING_BASE 3 1).wr R.FN_RING_COUNT 1 1).wr R.RG_CFG_TYPE ty 3).wr R.RG_STATUS_IDLE 0 3).flag R.RG_CTRL_ENABLE 3).wr R.RG_PI
    (if b = [] then 0 else 1) 3).setRing 3 (fun x => { x with kept := if b = [] then [] else [(0, b)] }))

/-- Device ring 3 as a drain ring of PF7 with one buffer, and a capture stream with a segment for it. -/
def drainState : State := dev (fun d =>
  let e := ((((((d.wr R.FN_RING_BASE 3 7).wr R.FN_RING_COUNT 1 7).wr R.RG_CFG_TYPE 2 3).wr R.RG_STATUS_IDLE 0 3).flag R.RG_CTRL_ENABLE 3).wr R.RG_PI 1 3)
  let e := e.setRing 3 (fun x => { x with kept := [(0, leBytes 8 0 ++ leBytes 4 4096 ++ List.replicate 48 0#8 ++ [2#8, 3#8, 0#8, 0#8])] })
  ((e.wr R.CS_CTRL_DEST 1 2).wr R.CS_TARGET 3 2).setStream 2 (fun x => { x with segs := [[7#8]] }))

/-- A work queue entry of 8 bytes for an operation, and queue pair 5 of PF1, READY, with that entry kept and posted if `posted`. -/
def qpDesc (op : Nat) : Bytes := leBytes 8 0 ++ leBytes 8 0 ++ leBytes 4 8 ++ List.replicate 40 0#8 ++ [BitVec.ofNat 8 op, 3#8, 0#8, 0#8]
def qpUp (posted : Bool) (op : Nat) : State := dev (fun d =>
  let e := (((((d.wr R.FN_QP_BASE 5 1).wr R.FN_QP_COUNT 1 1).wr R.IQ_STATUS_STATE 1 5).flag R.IQ_CTRL_ENABLE 5).wr R.IQ_CFG_TRANSPORT 2 5).wr R.SQ_PI (b2n posted) 5
  { e with ira := { e.ira with cached := [5], mr := [(0, { fn := 1, pd := 0, access := 15, addr := 0, len := 64, tag := 0 })]
                               qps := if posted then [(5, { sqKept := [(0, qpDesc op)] })] else [] } })

/-- A packet of an opcode for queue pair 5, and the state in which it waits. -/
def iraIn (op : Nat) (ext data : Bytes) : IraIn := ⟨0, some 0, [0x10#8, BitVec.ofNat 8 op, 0#8, 0#8] ++ beBytes 4 5 ++ leBytes 16 0 ++ beBytes 4 data.length ++
  leBytes 4 0 ++ ext ++ data⟩
def iraWaits (op : Nat) (ext data : Bytes) : State := (qpUp false 0).onDev (fun d => { d with ira := { d.ira with inbox := [iraIn op ext data] } })

/-- A submission entry for namespace 1 with PRP1 at 4096 and two command Dwords, the command it becomes, and controller 0 enabled with its Admin
queues and queue pair 1, namespace 1 of two extents on a drive attached, and outstanding commands. -/
def nvSqe (op a b : Nat) : Bytes :=
  [BitVec.ofNat 8 op, 0#8, 7#8, 0#8] ++ leBytes 4 1 ++ List.replicate 16 0#8 ++ leBytes 8 4096 ++ leBytes 8 0 ++ leBytes 4 a ++ leBytes 4 b ++ List.replicate 16 0#8
def nvCmd (op : Nat) (admin : Bool) (a b : Nat) : NvCmd := { id := 0, sq := if admin then 0 else 1, cid := 7, sqe := nvSqe op a b, mark := 0 }
def nvNs : Bytes := padTo 32 ([1#8, 9#8, 0#8, 0#8] ++ leBytes 4 0 ++ leBytes 4 2)
def nvExt : Bytes := leBytes 8 0 ++ [0#8, 1#8] ++ List.replicate 6 0#8
def nvDrive : Bytes := padTo 256 ([1#8, 1#8, 0#8, 0#8, 0#8, 0#8, 0#8, 0#8] ++ leBytes 4 512)
def nvUp (l : List NvCmd) : State := dev (fun d =>
  let e := ((d.flag R.NC_INFO_EN 0).flag R.NC_INFO_RDY 0).flag R.NV_STATUS_MAP_DONE
  { e with
    mram := { e.mram with namespaces := [(1, nvNs)], attach := [(1, 1)], backends := [(0, nvDrive)] }
    nvme := { e.nvme with
      map := [(0, nvExt), (1, nvExt)]
      ctrls := [(0, { sqs := [(0, { base := 8192, size := 4, cq := 0, head := 1, tail := 1 }), (1, { base := 12288, size := 4, cq := 1, head := 1, tail := 1 })]
                      cqs := [(0, { base := 16384, size := 4, vector := 0, ien := true }), (1, { base := 20480, size := 4, vector := 1, ien := false })]
                      cmds := l })] } })

/-- A fabric device of address 9 with port 1 UP, and frames for it. -/
def fabSt (st : Nat) : State := dev (fun d =>
  (((((d.flag R.FB_CTRL_EN).wr R.FB_ADDR_ADDR 9).flag R.FP_CTRL 1).wr R.FP_STATUS_LSTATE st 1).wr R.FB_STATUS_PORTS_UP (if st = 4 then 2 else 0)))
def fabIn (ty dst : Nat) : Bytes := fabSeal 0 true (fabFrame ty 0 dst 5 0 0 [7#8])
def lsa1 : Bytes := leBytes 8 0 ++ leBytes 16 5 ++ leBytes 4 3

/-- Slot A has been verified: an empty slot, whose header is all zero, stands for the image. -/
def verifiedSt : State := dev (fun d => { d with obj := { d.obj with fwStage := 3 } })
def verifiedHeader : Bytes := slice verifiedSt.dev.flash.a 0 4096

/-- The enclave OPERATIONAL, with one untagged request of PF0 in slot 2: its code, its payload's length and the payload's first words; and what it admits. -/
def esUp (code n : Nat) (l : List Nat) (f : Dev → Dev) : State := dev (fun d =>
  let e := (((((f d).wr R.EN_STATUS_STATE 1).flag R.ES_STATUS_CLAIMED 2).flag R.ES_STATUS_BUSY 2).wr R.ES_BUF (code + 65535 * 65536) 2 0).wr R.ES_BUF n 2 3
  (e.each ((List.range l.length).zip l) (fun x p => x.wr R.ES_BUF p.2 2 (4 + p.1))).setEncl (fun x => { x with order := [2] }))
def esReq (s : State) (code : Nat) : SvcReq × State := (s.admits 2 code).getD (⟨0, 0, 0, []⟩, s)

/-- Requests with a long payload: BULK opening 16 bytes in area 7 with key 0, SEAL_RESEAT with the fault set, JTAG_UNLOCK with a challenge. -/
def bulkSt : State := esUp 0x13 49 [] (fun d =>
  let a := State.reset.dev.areaBase 7 * gib
  let e := d.setEncl (fun x => { x with bulk := [(0, [7#8])] })
  e.each ((List.range 13).zip [2, a * 256 % 2 ^ 32, a / 2 ^ 24 % 2 ^ 32, a / 2 ^ 56 + a * 256 % 2 ^ 32, a / 2 ^ 24 % 2 ^ 32, a / 2 ^ 56 + 16 * 256]) (fun x p => x.wr R.ES_BUF p.2 2 (4 + p.1)))
def sealSt : State := esUp 0x32 306 [] (fun d => d.flag R.EN_STATUS_SEAL_FAULT)
def jtagSt : State := esUp 0xF1 173 [] (fun d => (d.setEncl (fun x => { x with challenge := some ([], 0) })).wr R.ES_BUF (2 ^ 16) 2 18)

/-- A request of the dictionary engine without its tag, from mailbox 0, and the state in which it is at the head of the queue. -/
def objMsg (op sub idx off : Nat) (data : Bytes) : Bytes :=
  [0x53#8, 0x4F#8, 1#8, 0#8] ++ leBytes 16 0 ++ [BitVec.ofNat 8 op, BitVec.ofNat 8 sub] ++ leBytes 2 idx ++ leBytes 4 off ++ leBytes 2 data.length ++ [0#8, 0#8] ++ data
def objReq (op sub idx off : Nat) (data : Bytes) : ObjReq := ⟨.mailbox 0, objMsg op sub idx off data⟩
def objUp (op sub idx off : Nat) (data : Bytes) : State := dev (fun d => { d with obj := { d.obj with queue := [objReq op sub idx off data] } })

/-- The MGNI rings enabled with 64 entries each in area 7. -/
def mgUp : State := dev (fun d =>
  let a := d.areaBase 7 * gib
  (((((d.flag R.MG_CTRL_EN).wr R.MG_TX_CFG 6).wr R.MG_RX_CFG 6).wr R.MG_TX_BASE a).wr R.MG_RX_BASE (a + 65536)).flag R.MG_CTRL_PROMISC)

/-- A receive buffer of 2048 bytes posted to the MGNI receive ring. -/
def mgBuf : Bytes := leBytes 8 (mgUp.dev.mgBase true + 65536) ++ leBytes 4 2048 ++ List.replicate 48 0#8 ++ [2#8, 3#8, 0#8, 0#8]
def mgRxSt : State := { mgUp.onDev (fun d => d.wr R.MG_RX_IDX_PI 1) with hbm := memWriteN mgUp.hbm (mgUp.dev.mgBase true) mgBuf }

end Sys2Proof.Tests
end

