-- ==== Sys2Proof/Tests/Slice0.lean ====
section
/-!
SUPPORT. Own tests: the smoke of WellFormed, single steps and calculations against the spec's examples, and for every statement
with hypotheses a state and operands that meet them, clause by clause.
-/
set_option Elab.async false
set_option linter.unusedVariables false
open Sys2Proof Sys2Proof.Machine

namespace Sys2Proof.Tests

/-! ## WellFormed -/

/-- Each check of a command refuses the term that breaks it, and takes the one that keeps it (commands 1 to 40 that have a check). -/
theorem test_wellFormed_refuses_0 : ∀ i ∈ ([
    .registerWrite 4149 4 1, .registerWrite 1 536870912 1, .registerWrite 1 6 1, .registerWrite 1 4 4294967296, .counterLowRead 4149 4,
    .counterLowRead 1 536870912, .counterLowRead 1 6, .rcRead 4149 4 1, .rcRead 1 536870912 1, .rcRead 1 6 1, .etickLoRead 4149,
    .valueLacingTransfer 28 1 1, .valueLacingTransfer 1 28 1, .eventLacingOccurrence 512, .grpResetRequest 4149 1, .grpResetRequest 1 4294967296,
    .rstcLock 4149, .groupResetStart 0, .groupResetStart 8, .groupResetDone 0, .groupResetDone 8, .perstAssert 2, .perstDeassert 2,
    .hbmAccess 28 1 false 1 [] 1, .hbmAccess 1 1 false 1 [] 3, .hbmAccess 1 1 true 1 [] 0, .hbmAccess 1 1 false 0 [] 0, .hbmScrub 17179869184 1,
    .hbmScrub 1 3, .lgModeWrite 4149 1 1, .lgModeWrite 1 4 1, .lgModeWrite 1 1 16, .portEnable 4149 1, .portEnable 1 16, .portDisable 4149 1 false,
    .portDisable 1 16 false, .linkSignalLock 16 1, .linkSignalLock 1 256, .linkTrainDone 16 1 1 1, .linkTrainDone 1 64 1 1, .linkTrainDone 1 1 64 1,
    .linkTrainDone 1 1 1 64, .linkTrainFail 16, .linkTrainTimeout 16, .linkAlignLock 16, .linkFault 16 false false, .linkFaultClear 16,
    .linkLockLoss 16 false false, .linkSignalLoss 16 1 false false, .linkSignalLoss 1 16 false false,
    .frameReceive 16 (List.replicate 5 0) 1 1 1 false 1 1 1 1, .frameReceive 1 [] 1 1 1 false 1 1 1 1,
    .frameReceive 1 (List.replicate 5 0) 1 1 1 false 8000 1 1 1, .frameReceive 1 (List.replicate 5 0) 1 1 2 false 1 1 1 1,
    .frameReceive 1 (List.replicate 5 0) 1 1 1 false 1 1 1 2, .macControlFrame 16 false 1 [], .macControlFrame 1 false 256 [],
    .macControlFrame 1 false 1 (List.replicate 9 0), .pfcPauseExpire 16 1, .pfcPauseExpire 1 8, .pfcXoff 16 1 1, .pfcXoff 1 8 1,
    .pfcXoff 1 1 1048576, .pfcRepeat 16 1 1, .pfcRepeat 1 8 1, .pfcRepeat 1 1 1048576, .pfcXon 16 1 1, .pfcXon 1 8 1, .pfcXon 1 1 1048576,
    .snap 4149 1, .snap 1 16, .tbNowRead 4149 1, .tbNowRead 1 8, .set 4149, .step 4149, .slew 4149, .holdover 4149, .clearInteg 4149,
    .tbCtrlWrite 4149 1, .tbCtrlWrite 1 4294967296] : List Instr), WellFormed.check i = false := by decide +kernel

theorem test_wellFormed_takes_0 : ∀ i ∈ ([
    .registerWrite 1 4 1, .counterLowRead 1 4, .rcRead 1 4 1, .etickLoRead 1, .valueLacingTransfer 1 1 1, .eventLacingOccurrence 1,
    .grpResetRequest 1 1, .rstcLock 1, .groupResetStart 1, .groupResetDone 1, .perstAssert 1, .perstDeassert 1, .hbmAccess 1 1 false 1 [] 0,
    .hbmScrub 1 1, .lgModeWrite 1 1 1, .portEnable 1 1, .portDisable 1 1 false, .linkSignalLock 1 1, .linkTrainDone 1 1 1 1, .linkTrainFail 1,
    .linkTrainTimeout 1, .linkAlignLock 1, .linkFault 1 false false, .linkFaultClear 1, .linkLockLoss 1 false false, .linkSignalLoss 1 1 false false,
    .frameReceive 1 (List.replicate 5 0) 1 1 1 false 1 1 1 1, .macControlFrame 1 false 1 [], .pfcPauseExpire 1 1, .pfcXoff 1 1 1, .pfcRepeat 1 1 1,
    .pfcXon 1 1 1, .snap 1 1, .tbNowRead 1 1, .set 1, .step 1, .slew 1, .holdover 1, .clearInteg 1, .tbCtrlWrite 1 1] : List Instr), WellFormed.check i = true := by decide +kernel

/-- Each check of a command refuses the term that breaks it, and takes the one that keeps it (commands 41 to 80 that have a check). -/
theorem test_wellFormed_refuses_1 : ∀ i ∈ ([
    .tbSwOffsetSubmit 4149 1, .tbSwOffsetSubmit 1 4294967296, .tbIncrCommit 4149 1, .tbIncrCommit 1 4294967296, .mgmtSpeedResolve 3,
    .calUserWrite 4149 1 1 1, .calUserWrite 1 17 1 1, .calUserWrite 1 1 4 1, .calUserWrite 1 1 1 4294967296, .triggerArm 4149 1, .triggerArm 1 16,
    .triggerDisarm 4149 1, .triggerDisarm 1 16, .triggerFire 16, .triggerLateFire 16, .trigOutPulseEnd 16, .tsInCapture 8 false 1 1,
    .tsInCapture 1 false 8 1, .tsInCapture 1 false 1 16, .ppsInEdge false 8 1, .ppsInEdge false 1 16, .tsHeadPop 4149 16, .tsHeadPop 1 15,
    .tsHeadPop 1 25, .enrolment 16, .start 4149, .stop 4149, .seqSummaryResend 281474976710656, .seqSummary [], .seqReply [], .clInsert 4149,
    .clDelete 4149, .clLookup 4149, .cb3Commit 4149 1, .cb3Commit 1 4294967296, .emGeomWrite 4149 1 false 1, .emGeomWrite 1 8 false 1,
    .emGeomWrite 1 1 false 4294967296, .awlValid 4149 1, .awlValid 1 4294967296, .swap 4149, .copy 4149, .ftInsert 4149, .ftDelete 4149,
    .ftLookup 4149, .readSlot 4149, .tableSeedWrite 4149 false 1, .tableSeedWrite 1 false 4294967296, .burnisherVisit true 2097152,
    .burnisherVisit false 16777216, .lpmWrite 4149 1, .lpmWrite 1 4294967296, .lpmFence 4149, .frameStart 16 1 1 1 1, .frameStart 1 8000 1 1 1,
    .frameStart 1 1 1 1 2, .gateCycleStart 16, .gateEntryEdge 16, .change 4149 1, .change 1 16, .gateListSwitch 16, .releaseGroupAligned 16] : List Instr), WellFormed.check i = false := by decide +kernel

theorem test_wellFormed_takes_1 : ∀ i ∈ ([
    .tbSwOffsetSubmit 1 1, .tbIncrCommit 1 1, .mgmtSpeedResolve 1, .calUserWrite 1 1 1 1, .triggerArm 1 1, .triggerDisarm 1 1, .triggerFire 1,
    .triggerLateFire 1, .trigOutPulseEnd 1, .tsInCapture 1 false 1 1, .ppsInEdge false 1 1, .tsHeadPop 1 16, .enrolment 1, .start 1, .stop 1,
    .seqSummaryResend 1, .seqSummary (List.replicate 18 0), .seqReply (List.replicate 16 0), .clInsert 1, .clDelete 1, .clLookup 1, .cb3Commit 1 1,
    .emGeomWrite 1 1 false 1, .awlValid 1 1, .swap 1, .copy 1, .ftInsert 1, .ftDelete 1, .ftLookup 1, .readSlot 1, .tableSeedWrite 1 false 1,
    .burnisherVisit false 1, .lpmWrite 1 1, .lpmFence 1, .frameStart 1 1 1 1 1, .gateCycleStart 1, .gateEntryEdge 1, .change 1 1, .gateListSwitch 1,
    .releaseGroupAligned 1] : List Instr), WellFormed.check i = true := by decide +kernel

/-- Each check of a command refuses the term that breaks it, and takes the one that keeps it (commands 81 to 120 that have a check). -/
theorem test_wellFormed_refuses_2 : ∀ i ∈ ([
    .launchDue 16 1 1 1 1 false, .launchDue 1 8000 1 1 1 false, .launchDue 1 1 1 1 2 false, .flr 4104, .vfEnableClear 8, .bmeClear 4104,
    .linkReset 2 1, .linkReset 1 3, .d3hotEntry 4104, .quiesce 4149 1, .quiesce 1 4104, .functionIdle 4104, .functionReturn 4104,
    .bar0Access 4149 1 1 false 1, .bar0Access 1 536870912 1 false 1, .bar0Access 1 1 4097 false 1, .bar0Access 1 1 1 false 18446744073709551616,
    .configRequest 4104 .read, .configRequest 1 (.vfEnable 0), .configRequest 1 (.vfEnable 513), .msixUnmask 4104 none,
    .msixUnmask 1 (some (2048, List.replicate 16 0)), .msixUnmask 1 (some (0, [])), .fnAllocWrite 4149 1 1 1, .fnAllocWrite 1 4104 1 1,
    .fnAllocWrite 1 1 6 1, .fnAllocWrite 1 1 1 4294967296, .ringDoorbell 4104 1 1, .ringDoorbell 1 1 4294967296, .inval 4149 1, .inval 1 65536,
    .descriptorFetch 3 1 1 false [], .descriptorFetch 1 1 131072 false [], .descriptorFetch 1 1 1 false (List.replicate 65 0),
    .descriptorFetch 0 65536 1 true [], .descriptorFetch 1 4194304 1 true [], .txJobStart 65536, .rxDeliver 65536, .drainDeliver (some 8),
    .waitStart 65536, .waitSatisfied 65536 false, .waitSatisfied 4194304 true, .waitTimeout 65536 false, .waitTimeout 4194304 true,
    .ringEnable 4149 1, .ringEnable 1 65536, .ringDisable 4149 1, .ringDisable 1 65536, .ringIdle 65536, .eqCiWrite 4149 1 1, .eqCiWrite 1 16384 1,
    .eqCiWrite 1 1 4294967296, .eqModTimer 16384, .eqEnable 4149 1, .eqEnable 1 16384, .eqDisable 4149 1, .eqDisable 1 16384,
    .iqDb 4149 false none 1, .iqDb 1 false none 4294967296, .iqDb 1 true (some 4294967296) 1, .sqWrite 4194304, .sqWriteImm 4194304, .sqRead 4194304,
    .sqSend 4194304, .sqFetchAdd 4194304, .sqCmpSwap 4194304, .sqWait 4194304, .iqEnable 4149 1, .iqEnable 1 4194304, .iqDisable 4149 1,
    .iqDisable 1 4194304, .forceErr 4149 1, .forceErr 1 4194304] : List Instr), WellFormed.check i = false := by decide +kernel

theorem test_wellFormed_takes_2 : ∀ i ∈ ([
    .launchDue 1 1 1 1 1 false, .flr 1, .vfEnableClear 1, .bmeClear 1, .linkReset 1 1, .d3hotEntry 1, .quiesce 1 1, .functionIdle 1,
    .functionReturn 1, .bar0Access 1 1 1 false 1, .configRequest 1 .read, .msixUnmask 1 none, .fnAllocWrite 1 1 1 1, .ringDoorbell 1 1 1, .inval 1 1,
    .descriptorFetch 1 1 1 false [], .txJobStart 1, .rxDeliver 1, .drainDeliver none, .waitStart 1, .waitSatisfied 1 false, .waitTimeout 1 false,
    .ringEnable 1 1, .ringDisable 1 1, .ringIdle 1, .eqCiWrite 1 1 1, .eqModTimer 1, .eqEnable 1 1, .eqDisable 1 1, .iqDb 1 false none 1, .sqWrite 1,
    .sqWriteImm 1, .sqRead 1, .sqSend 1, .sqFetchAdd 1, .sqCmpSwap 1, .sqWait 1, .iqEnable 1 1, .iqDisable 1 1, .forceErr 1 1] : List Instr), WellFormed.check i = true := by decide +kernel

/-- Each check of a command refuses the term that breaks it, and takes the one that keeps it (commands 121 to 160 that have a check). -/
theorem test_wellFormed_refuses_3 : ∀ i ∈ ([
    .pin 4149 1, .pin 1 4194304, .contextFetchDone 4194304, .iraRtoExpire 4194304 1, .iraRtoExpire 1 4294967296, .iraRnrDelay 4194304 1,
    .iraRnrDelay 1 4294967296, .iraNakDelay 4194304, .iraAckDelay 4194304, .iraCreditTimer 4194304, .pathDegradeEnd 4194304 1, .pathDegradeEnd 1 16,
    .register 4149 false, .register 4104 true, .deregister 4149 false, .deregister 4104 true, .query 4149 false, .query 4104 true,
    .nvmeSqDoorbell 1024 1 1, .nvmeSqDoorbell 1 65 1, .nvmeSqDoorbell 1 1 65536, .nvmeCqDoorbell 1024 1 1, .nvmeCqDoorbell 1 65 1,
    .nvmeCqDoorbell 1 1 65536, .createIoSq 1024, .createIoCq 1024, .deleteIoSq 1024, .deleteIoCq 1024, .getLogPage 1024, .identify 1024, .abort 1024,
    .setFeatures 1024, .getFeatures 1024, .asynchronousEventRequest 1024, .nvmeRead 1280, .nvmeWrite 1280, .flush 1280, .writeZeroes 1280,
    .datasetManagement 1280, .invalidCommandOpcode 1280, .controllerReset 1024, .shutdownNotification 1024 1, .shutdownNotification 1 0,
    .shutdownNotification 1 3, .destageRetry 256, .dsLinkDown 2 false [], .pfDone false 65536, .lossRecord 8, .chunkFlush 8, .captureSegmentDrain 8,
    .streamDisable 4149 1, .streamDisable 1 8, .bankSwap 4149, .bankClear 4149] : List Instr), WellFormed.check i = false := by decide +kernel

theorem test_wellFormed_takes_3 : ∀ i ∈ ([
    .pin 1 1, .contextFetchDone 1, .iraRtoExpire 1 1, .iraRnrDelay 1 1, .iraNakDelay 1, .iraAckDelay 1, .iraCreditTimer 1, .pathDegradeEnd 1 1,
    .register 1 false, .deregister 1 false, .query 1 false, .nvmeSqDoorbell 1 1 1, .nvmeCqDoorbell 1 1 1, .createIoSq 1, .createIoCq 1,
    .deleteIoSq 1, .deleteIoCq 1, .getLogPage 1, .identify 1, .abort 1, .setFeatures 1, .getFeatures 1, .asynchronousEventRequest 1, .nvmeRead 1,
    .nvmeWrite 1, .flush 1, .writeZeroes 1, .datasetManagement 1, .invalidCommandOpcode 1, .controllerReset 1, .shutdownNotification 1 1,
    .destageRetry 1, .dsLinkDown 1 false [], .pfDone false 1, .lossRecord 1, .chunkFlush 1, .captureSegmentDrain 1, .streamDisable 1 1, .bankSwap 1,
    .bankClear 1] : List Instr), WellFormed.check i = true := by decide +kernel

/-- Each check of a command refuses the term that breaks it, and takes the one that keeps it (commands 161 to 200 that have a check). -/
theorem test_wellFormed_refuses_4 : ∀ i ∈ ([
    .skQuery 4149, .flowClear 4294967296 1, .flowClear 1 4294967296, .fabricPortEnable 4149 1, .fabricPortEnable 1 8, .fabricTrainDone 8,
    .fabricLockLoss 8, .hello 8 (List.replicate 24 0) false, .hello 1 [] false, .helloPeriod 8, .helloTimeout 8,
    .fabricFrameReceive 8 (List.replicate 64 0), .fabricFrameReceive 1 [], .fabricFrameReceive 1 (List.replicate 965 0),
    .lsa 8 (List.replicate 28 0), .lsa 1 [], .lsa 1 (List.replicate 189 0), .addr 8 1 1, .addr 1 340282366920938463463374607431768211456 1,
    .addr 1 1 4095, .addr 1 1 0, .tc7Resend 8, .fabricAck 8 1, .fabricAck 1 65536, .rtEntryWrite 4149 1 1, .rtEntryWrite 1 4096 1,
    .rtEntryWrite 1 1 256, .syncPeriod [] 1 1, .syncPeriod (List.replicate 8 0) 1 2, .sync 8 (List.replicate 16 0) 1 1 1 1 1 1,
    .sync 1 [] 1 1 1 1 1 1, .sync 1 (List.replicate 16 0) 1 1 2 1 1 1, .sync 1 (List.replicate 16 0) 1 1 1 1 1 2,
    .delay 8 (List.replicate 16 0) 1 1 1, .delay 1 [] 1 1 1, .delay 1 (List.replicate 16 0) 1 1 2, .reply 8 (List.replicate 16 0), .reply 1 [],
    .transferAbandon 65536 1, .transferAbandon 1 256, .claim 4149 1, .claim 1 0, .claim 1 5, .release 4149 1, .release 1 0, .release 1 5,
    .fwImage 21 1 [] false, .fwImage 1 67108865 [] false, .fwImage 1 1 (List.replicate 1025 0) false, .mgmtFrameReceive [] 1 1 1,
    .mgmtFrameReceive (List.replicate 64 0) 1 1 2, .mgTxDb 4149 1, .mgTxDb 1 4294967296, .mgRxDb 4149 1, .mgRxDb 1 4294967296, .mgmtFrameSend 1 1 2,
    .mgCtrlEn 4149 false, .keyRevoke [], .svnCommit 256, .coldReset ⟨true, true, true, true, true, true, true, false, 8, []⟩, .done 4149,
    .recoveryBundleChecked [] false false false, .clRelease 4149 1, .clRelease 1 8, .svRelease 4149 1, .svRelease 1 12, .esClaim 4149 1,
    .esClaim 1 8, .esRelease 4149 1, .esRelease 1 8, .attest 8, .mregExtend 8, .random 8, .keyImport 8] : List Instr), WellFormed.check i = false := by decide +kernel

theorem test_wellFormed_takes_4 : ∀ i ∈ ([
    .skQuery 1, .flowClear 1 1, .fabricPortEnable 1 1, .fabricTrainDone 1, .fabricLockLoss 1, .hello 1 (List.replicate 24 0) false, .helloPeriod 1,
    .helloTimeout 1, .fabricFrameReceive 1 (List.replicate 64 0), .lsa 1 (List.replicate 28 0), .addr 1 1 1, .tc7Resend 1, .fabricAck 1 1,
    .rtEntryWrite 1 1 1, .syncPeriod (List.replicate 8 0) 1 1, .sync 1 (List.replicate 16 0) 1 1 1 1 1 1, .delay 1 (List.replicate 16 0) 1 1 1,
    .reply 1 (List.replicate 16 0), .transferAbandon 1 1, .claim 1 1, .release 1 1, .fwImage 1 1 [] false,
    .mgmtFrameReceive (List.replicate 64 0) 1 1 1, .mgTxDb 1 1, .mgRxDb 1 1, .mgmtFrameSend 1 1 1, .mgCtrlEn 1 false,
    .keyRevoke (List.replicate 172 0), .svnCommit 1, .coldReset ⟨true, true, true, true, true, true, true, false, 0, []⟩, .done 1,
    .recoveryBundleChecked (List.replicate 4096 0) false false false, .clRelease 1 1, .svRelease 1 1, .esClaim 1 1, .esRelease 1 1, .attest 1,
    .mregExtend 1, .random 1, .keyImport 1] : List Instr), WellFormed.check i = true := by decide +kernel

/-- Each check of a command refuses the term that breaks it, and takes the one that keeps it (commands 201 to 236 that have a check). -/
theorem test_wellFormed_refuses_5 : ∀ i ∈ ([
    .keyDestroy 8, .bulkKeygen 8, .bulk 8, .mkaIcv 8, .sakGenerate 8, .sakInstall 8, .saClear 8, .selfTest 8, .zeroise 8, .sealReseat 8 false,
    .jtagChallenge 8, .jtagUnlock 8, .rawEntropy 8, .selfTestDone (some 0), .selfTestDone (some 27), .enclError 15, .enclError 27, .enclError 33,
    .tamper 0, .tamper 32, .islandSleep 28 1 none, .islandSleep 1 18446744073709551616 none, .islandWake 28, .piOpp 4149 1 1, .piOpp 1 8 1,
    .piOpp 1 1 8, .oppTransitionDone 8, .thermalSample [], .errorReport 2048 2 1 1 1, .errorReport 1 2 18446744073709551616 1 1,
    .errorReport 1 2 1 65536 1, .errorReport 1 2 1 1 65536, .errorReport 1 1 1 1 1, .errorReport 1 7 1 1 1, .errorPendingLog 2048, .reloadDone 8,
    .huSwitch 4150, .huCommit 4150, .huRollback 4150, .resetNDeassert ⟨true, true, true, true, true, true, true, false, 0, []⟩ 4,
    .resetNDeassert ⟨true, true, true, true, true, true, true, false, 8, []⟩ 1, .railFault 11, .avsTimeout 8, .smbusReadByte 256,
    .pcieLinkUp 2 1 1 false, .pcieLinkUp 1 0 1 false, .pcieLinkUp 1 7 1 false, .pcieLinkUp 1 1 17 false, .dsLinkUp 2 1 1, .dsLinkUp 1 0 1,
    .dsLinkUp 1 6 1, .dsLinkUp 1 1 9, .controllerEnable 1024 1, .controllerEnable 1 4294967296, .controllerEnable 1 2, .tcpConnectionLoss 256] : List Instr), WellFormed.check i = false := by decide +kernel

theorem test_wellFormed_takes_5 : ∀ i ∈ ([
    .keyDestroy 1, .bulkKeygen 1, .bulk 1, .mkaIcv 1, .sakGenerate 1, .sakInstall 1, .saClear 1, .selfTest 1, .zeroise 1, .sealReseat 1 false,
    .jtagChallenge 1, .jtagUnlock 1, .rawEntropy 1, .selfTestDone none, .enclError 16, .tamper 1, .islandSleep 1 1 none, .islandWake 1, .piOpp 1 1 1,
    .oppTransitionDone 1, .thermalSample (List.replicate 24 0), .errorReport 1 2 1 1 1, .errorPendingLog 1, .reloadDone 1, .huSwitch 1, .huCommit 1,
    .huRollback 1, .resetNDeassert ⟨true, true, true, true, true, true, true, false, 0, []⟩ 1, .railFault 1, .avsTimeout 1, .smbusReadByte 1,
    .pcieLinkUp 1 1 1 false, .dsLinkUp 1 1 1, .controllerEnable 1 1, .tcpConnectionLoss 1, .hostReadCompletion 1 false []] : List Instr), WellFormed.check i = true := by decide +kernel


/-! ## Single steps and calculations; expected values from the spec's worked examples and tables -/

/-- The state after one step with a command in front. -/
def after (i : Instr) (s : State) : State :=
  match step { s with pending := [i] } with
  | .next t => t
  | _ => s

/-- ETICK_LO_READ (R29): after one event tick ETICK is 1. -/
theorem test_etick_counts : (after .eventTick State.reset).dev.tk.etick = 1 := by decide +kernel

/-- Table 1.7: the five events of tick 1,000 in the order they were taken; the log takes them as TT3, learn, ECC error, PF0, object. -/
theorem test_table_1_7 :
    (byRank (fun (e : Ev) => (e.cls, e.src)) [⟨8, 0x0302, 0⟩, ⟨7, 0x01C0, 0⟩, ⟨3, 0x0043, 0⟩, ⟨9, 0x02C0, 0⟩, ⟨10, 0x003F, 0⟩]).map (fun e => e.src) =
      [0x0043, 0x01C0, 0x0302, 0x02C0, 0x003F] := by decide +kernel

/-- The sources of Table 1.7: TT3 fires as source 0x0043 in class 3. -/
theorem test_trigger_source : srcNum 0x01 3 = 0x0043 ∧ srcNum (reqIsland 0) 0 = 0x02C0 := by decide +kernel

/-- The first frame of chapter 2's example (D_rx 61.25 ns, P 1,360 of 5,440, 106.25 Gb/s): 703,150.375 ns. -/
theorem test_rx_stamp_example :
    roundStamp (703250 * 65536 - (61 * 65536 + 16384)) (varDelayNum 5440 1360) (modeCoded 4) = 703150 * 65536 + 0x6000 := by decide +kernel

/-- Its second frame (P 5,000): 703,384.625 ns. -/
theorem test_rx_stamp_second :
    roundStamp (703450 * 65536 - (61 * 65536 + 16384)) (varDelayNum 5440 5000) (modeCoded 4) = 703384 * 65536 + 0xA000 := by decide +kernel

/-- Chapter 3's example: port 9, 25GbE without FEC, 8 coded bits after the SFD: 512,000,036.5625 ns. -/
theorem test_rx_stamp_25g :
    roundStamp (512000080 * 65536 + 0x2000 - 0x002B4000) (varDelayNum 66 58) (modeCoded 6) = 0x1E848024 * 65536 + 0x9000 := by decide +kernel

/-- The user values of the same example: U_rx 4.6875 ns and U_tx 3.25 ns. -/
theorem test_user_calibration :
    let d := (after (.calUserWrite 0 9 3 0xFFFFF000) (after (.calUserWrite 0 9 1 0x00018000) (after (.calUserWrite 0 9 0 0x00040000) State.reset))).dev
    d.userRx 9 = 0x0004B000 ∧ d.userTx 9 = 0x00034000 := by decide +kernel

/-- Table 4.1: in tick 1,250,000 the order is p 1, 2, 3; in the next p 3, 1, 2. -/
theorem test_table_4_1 :
    (tickOrder 1250000 4 [⟨{}, 2, 1250000, false⟩, ⟨{}, 1, 1250000, false⟩, ⟨{}, 3, 1250000, false⟩]).map (fun x => x.p) = [1, 2, 3] ∧
    (tickOrder 1250001 4 [⟨{}, 1, 1250001, false⟩, ⟨{}, 2, 1250001, false⟩, ⟨{}, 3, 1250001, false⟩]).map (fun x => x.p) = [3, 1, 2] := by
  decide +kernel

/-- The enrolment indices of SQ_ENROL 0x1224: ports 2, 5, 9 and 12 are 0 to 3 of 4. -/
theorem test_enrolment_index :
    let d := (dev (fun d => d.wr R.SQ_ENROL 0x1224)).dev
    [2, 5, 9, 12].map d.enrolIdx = [0, 1, 2, 3] ∧ d.enrolCount = 4 := by decide +kernel

/-- Chapter 7's cycle: on 25GbE a frame of 1,518 bytes occupies 492.80 ns, one of 9,216 bytes 2,955.52 ns. -/
theorem test_occupancy_25g :
    let d := (dev (fun d => (d.wr R.LG_MODE 6 0 1))).dev
    d.portMode 6 = 6 ∧ d.occupancy 6 1518 = 492800 ∧ d.occupancy 6 9216 = 2955520 := by decide +kernel

/-- Table 9.14, step 2: the doorbell 0x40 fills ring 12's 64 entries. -/
theorem test_doorbell_fills :
    (after (.ringDoorbell 0 0 0x40) (dev (fun d => ((d.wr R.FN_RING_COUNT 1 0).flag R.RG_CTRL_ENABLE 0)))).dev.rd R.RG_PI 0 = 0x40 := by
  decide +kernel

/-- Table 9.14, the doorbell 0x01 while CI is 0x40: 65 entries, error cause 1. -/
theorem test_doorbell_overruns :
    let d := (after (.ringDoorbell 0 0 0x01) (dev (fun d => (((d.wr R.FN_RING_COUNT 1 0).flag R.RG_CTRL_ENABLE 0).wr R.RG_PI 0x40 0).wr R.RG_CI 0x40 0))).dev
    d.rd R.RG_PI 0 = 0x40 ∧ d.on R.RG_STATUS_ERR 0 = true := by decide +kernel

/-- Chapter 13's exchange: theta is 3.5 ns and the delay 24.5 ns. -/
theorem test_fabric_exchange :
    fabTheta (1000000 * 65536) (1000028 * 65536 + 0x2000) (1000500 * 65536) (1000520 * 65536 + 0xE000) 0x4000 = 0x00038000 ∧
    fabDelay (1000000 * 65536) (1000028 * 65536 + 0x2000) (1000500 * 65536) (1000520 * 65536 + 0xE000) = 0x00188000 := by decide +kernel

/-- The check value of each CRC over the ASCII digits 1 to 9: IEEE 802.3, CRC-32C, CRC-16 with initial ones, CRC-8. -/
theorem test_crc_check_values :
    crc32 polyE 0xFFFFFFFF [0x31#8, 0x32#8, 0x33#8, 0x34#8, 0x35#8, 0x36#8, 0x37#8, 0x38#8, 0x39#8] = 0xCBF43926 ∧
    crc32 polyC 0xFFFFFFFF [0x31#8, 0x32#8, 0x33#8, 0x34#8, 0x35#8, 0x36#8, 0x37#8, 0x38#8, 0x39#8] = 0xE3069283 ∧
    crc16 [0x31#8, 0x32#8, 0x33#8, 0x34#8, 0x35#8, 0x36#8, 0x37#8, 0x38#8, 0x39#8] = 0x29B1 ∧
    [0x31, 0x32, 0x33, 0x34, 0x35, 0x36, 0x37, 0x38, 0x39].foldl crc8Byte 0 = 0xF4 := by decide +kernel

/-- SQ_GUARD (registers of chapter 4: 0 to 100,000, others ignored): 100,000 is taken, 100,001 is ignored. -/
theorem test_guard_range :
    (after (.registerWrite 4104 0x01200024 100000) State.reset).dev.rd R.SQ_GUARD = 100000 ∧
    (after (.registerWrite 4104 0x01200024 100001) State.reset).dev.rd R.SQ_GUARD = 200 := by decide +kernel

/-- PT_MTU (Table 2.7): on a formed port 9,216 is taken and 63 is ignored; on an unformed one nothing is (R43). -/
theorem test_mtu_range :
    let up := dev (fun d => (d.wr R.LG_MODE 6).wr R.PORT_FORMED 0xF)
    (after (.registerWrite 4104 0x02001008 9216) up).dev.rd R.PT_MTU = 9216 ∧
    (after (.registerWrite 4104 0x02001008 63) up).dev.rd R.PT_MTU = 0x5F2 ∧
    (after (.registerWrite 4104 0x02001008 9216) State.reset).dev.rd R.PT_MTU = 0x5F2 := by decide +kernel

/-- The example of R46: a link change of port 5 has source 0x00C1. -/
theorem test_port_source : (after (.linkFault 5 true true) (dev (fun d => d.wr R.PT_STATUS_LSTATE 4 5))).dev.tk.sampled.map (fun e => e.src) = [0x00C1] := by
  decide +kernel

/-- R426: at 107 degrees THROTTLE sets and HEAVY does not. -/
theorem test_throttle :
    let d := (after (.thermalSample (List.replicate 23 40 ++ [107])) State.reset).dev
    d.rd R.PW_STATUS_TEMP_MAX = 107 ∧ d.rd R.PW_STATUS_SENSOR = 23 ∧ d.on R.PW_STATUS_THROTTLE = true ∧ d.on R.PW_STATUS_HEAVY = false := by
  decide +kernel


/-! ## The hypotheses of the statements can be met -/

/-- The hypotheses of `EmptyQueueIdles` can be met, clause by clause. -/
theorem witness_EmptyQueueIdles : ∃ (s : State), (s.pending = []) :=
  ⟨State.reset, by decide +kernel⟩

/-- The hypotheses of `CommandsLeaveTheQueue` can be met, clause by clause. -/
theorem witness_CommandsLeaveTheQueue : ∃ (i : Instr) (s t : State), (exec i s = .next t) :=
  ⟨.rstcLock 0, State.reset, (State.reset.onDev (fun d => (d.flag R.RSTC_LOCK).sampleWrite 0 1)), rfl⟩

/-- The hypotheses of `OtherCommandsKeepHbm` can be met, clause by clause. -/
theorem witness_OtherCommandsKeepHbm : ∃ (i : Instr) (s t : State), (writesHbm i = false) ∧ (exec i s = .next t) :=
  ⟨.rstcLock 0, State.reset, (State.reset.onDev (fun d => (d.flag R.RSTC_LOCK).sampleWrite 0 1)), ⟨rfl, rfl⟩⟩

/-- The hypotheses of `HbmStaysCanonical` can be met, clause by clause. -/
theorem witness_HbmStaysCanonical : ∃ (s t : State), (s.Inv) ∧ (step s = .next t) :=
  ⟨State.reset, State.reset, ⟨rfl, rfl⟩⟩

/-- The hypotheses of `FusesOnlyBlow` can be met, clause by clause. -/
theorem witness_FusesOnlyBlow : ∃ (s t : State), (step s = .next t) :=
  ⟨State.reset, State.reset, rfl⟩

/-- The hypotheses of `LacingsDeliverOrCount` can be met, clause by clause. -/
theorem witness_LacingsDeliverOrCount :
    (∃ (src dst value : Nat) (s : State), (s.dev.inReset src = false) ∧ (s.dev.inReset dst = false) ∧ (s.dev.stopped dst = false) ∧ ((SMap.getD s.dev.vlac (lacingKey src dst) {}).held = [])) ∧
    (∃ (src dst value : Nat) (s : State), (s.dev.inReset src = false) ∧ (s.dev.inReset dst = false) ∧ (s.dev.stopped dst = true) ∧ ((SMap.getD s.dev.vlac (lacingKey src dst) {}).held.length < Config.lacingSlots (lacingKey src dst))) ∧
    (∃ (src dst value : Nat) (s : State), (s.dev.inReset src = true ∨ s.dev.inReset dst = true)) ∧
    (∃ (ch : Nat) (s : State), (s.dev.lacingDown ch = false) ∧ (s.dev.on R.LC_STATUS_PENDING ch = false)) ∧
    (∃ (ch : Nat) (s : State), (s.dev.lacingDown ch = false) ∧ (s.dev.on R.LC_STATUS_PENDING ch = true)) ∧
    (∃ (ch : Nat) (s : State), (s.dev.lacingDown ch = true)) :=
  ⟨⟨0x0B, 0x19, 7, State.reset, by decide +kernel⟩,
   ⟨0x0B, 0x19, 7, dev (fun d => d.wr R.PI_STATUS_STATE 1 0x19), ⟨by decide +kernel, by decide +kernel, by decide +kernel, Nat.succ_pos _⟩⟩,
   ⟨0x0B, 0x19, 7, dev (fun d => { d with rst := { d.rst with active := [2] } }), by decide +kernel⟩,
   ⟨3, State.reset, by decide +kernel⟩,
   ⟨3, dev (fun d => d.flag R.LC_STATUS_PENDING 3), by decide +kernel⟩,
   ⟨3, dev (fun d => { d with rst := { d.rst with active := [islandGroup (Config.lcSrc 3)] } }), by simp [dev, State.onDev, Dev.lacingDown, Dev.inReset]⟩⟩

/-- The hypotheses of `ResetRequestsMarkTheirGroups` can be met, clause by clause. -/
theorem witness_ResetRequestsMarkTheirGroups :
    (∃ (req g : Nat) (s : State), (2 ≤ g ∧ g < 8) ∧ (bit (s.dev.rd R.GRP_RESET_ALLOW) (g - 2) = true ∧ ¬(isFunc req = true ∧ g = 2)) ∧ (g ∉ s.dev.rst.active ∧ SMap.get? s.dev.rst.asked g = none)) ∧
    (∃ (req g : Nat) (s : State), (2 ≤ g ∧ g < 8) ∧ (bit (s.dev.rd R.GRP_RESET_ALLOW) (g - 2) = false ∨ (isFunc req = true ∧ g = 2))) :=
  ⟨⟨4104, 7, State.reset, by decide +kernel⟩,
   ⟨5, 2, State.reset, by decide +kernel⟩⟩

/-- The hypotheses of `GroupResetsBeginAndEnd` can be met, clause by clause. -/
theorem witness_GroupResetsBeginAndEnd :
    (∃ (g n : Nat) (s : State), (1 ≤ g ∧ g < 8) ∧ (SMap.get? s.dev.rst.asked g = some n) ∧ (n < s.dev.tk.etick)) ∧
    (∃ (g n : Nat) (s : State), (1 ≤ g ∧ g < 8) ∧ (SMap.get? s.dev.rst.asked g = some n) ∧ (s.dev.tk.etick ≤ n)) ∧
    (∃ (g : Nat) (s : State), (2 ≤ g ∧ g < 8) ∧ (g ∈ s.dev.rst.active) ∧ (s.dev.rst.tripHold = false ∧ s.dev.rst.resetNLow = false ∧ ¬(g = 2 ∧ s.dev.perstHeld = true))) ∧
    (∃ (g : Nat) (s : State), (2 ≤ g ∧ g < 8) ∧ (g ∈ s.dev.rst.active) ∧ (s.dev.rst.tripHold = false ∧ s.dev.rst.resetNLow = false ∧ ¬(g = 2 ∧ s.dev.perstHeld = true)) ∧ (s.dev.mram.obj = [] ∧ s.dev.mram.items = [])) ∧
    (∃ (g : Nat) (s : State), (2 ≤ g ∧ g < 8) ∧ (g ∈ s.dev.rst.reload)) :=
  ⟨⟨3, 0, dev (fun d => { d with tk := { d.tk with etick := 1 }, rst := { d.rst with asked := [(3, 0)] } }), by decide +kernel⟩,
   ⟨3, 0, dev (fun d => { d with rst := { d.rst with asked := [(3, 0)] } }), by decide +kernel⟩,
   ⟨5, dev (fun d => { d with rst := { d.rst with active := [5] } }), by decide +kernel⟩,
   ⟨5, dev (fun d => { d with rst := { d.rst with active := [5] } }), by decide +kernel⟩,
   ⟨5, dev (fun d => { d with rst := { d.rst with reload := [5] } }), by decide +kernel⟩⟩

/-- The hypotheses of `PerstResetsHost` can be met, clause by clause. -/
theorem witness_PerstResetsHost :
    (∃ (s : State), (s.dev.rst.resetNLow = false) ∧ (bit s.dev.pins.straps 0 = false) ∧ (2 ∉ s.dev.rst.active ∧ SMap.get? s.dev.rst.asked 2 = none)) ∧
    (∃ (s : State), (s.dev.rst.resetNLow = false) ∧ (bit s.dev.pins.straps 0 = false)) ∧
    (∃ (s : State), (s.dev.rst.resetNLow = false)) ∧
    (∃ (s : State), (s.dev.rst.resetNLow = false)) ∧
    (∃ (link : Nat) (s : State), (s.dev.rst.resetNLow = true)) ∧
    (∃ (link : Nat) (s : State), (s.dev.rst.resetNLow = true)) :=
  ⟨⟨State.reset, by decide +kernel⟩,
   ⟨State.reset, by decide +kernel⟩,
   ⟨State.reset, by decide +kernel⟩,
   ⟨State.reset, by decide +kernel⟩,
   ⟨0, dev (fun d => { d with rst := { d.rst with resetNLow := true } }), by decide +kernel⟩,
   ⟨1, dev (fun d => { d with rst := { d.rst with resetNLow := true } }), by decide +kernel⟩⟩

/-- The hypotheses of `ColdResetClearsAndBoots` can be met, clause by clause. -/
theorem witness_ColdResetClearsAndBoots :
    (∃ (env : BootEnv) (s : State), (s.dev.rst.resetNLow = false)) ∧
    (∃ (p : Bool) (s : State), (s.dev.rst.resetNLow = false)) ∧
    (∃ (p : Bool) (s : State), (s.dev.rst.resetNLow = true)) ∧
    (∃ (env : BootEnv) (perst : Nat) (s : State), (s.dev.rst.resetNLow = true)) ∧
    (∃ (env : BootEnv) (perst : Nat) (s : State), (s.dev.rst.resetNLow = false)) ∧
    (∃ (b : Bytes) (hbm mram programOk : Bool) (s : State), (s.dev.recovery = true ∧ s.dev.on R.RC_STATUS_BUSY = true)) :=
  ⟨⟨⟨true, true, true, true, true, true, true, false, 0, []⟩, State.reset, by decide +kernel⟩,
   ⟨true, State.reset, by decide +kernel⟩,
   ⟨true, dev (fun d => { d with rst := { d.rst with resetNLow := true } }), by decide +kernel⟩,
   ⟨⟨true, true, true, true, true, true, true, false, 0, []⟩, 3, dev (fun d => { d with rst := { d.rst with resetNLow := true } }), by decide +kernel⟩,
   ⟨⟨true, true, true, true, true, true, true, false, 0, []⟩, 0, State.reset, by decide +kernel⟩,
   ⟨[], true, true, true, dev (fun d => { d with boot := { d.boot with halted := true }, pins := { d.pins with bootErr := 0xC } }.flag R.RC_STATUS_BUSY), by decide +kernel⟩⟩

/-- The hypotheses of `HbmAccessesStayInTheirAreas` can be met, clause by clause. -/
theorem witness_HbmAccessesStayInTheirAreas :
    (∃ (island addr len : Nat) (data : Bytes) (ecc : Nat) (s : State), (s.dev.hbmAllowed island addr data.length true = true)) ∧
    (∃ (island addr len : Nat) (data : Bytes) (ecc : Nat) (s : State), (s.dev.hbmAllowed island addr data.length true = false)) ∧
    (∃ (island addr len : Nat) (data : Bytes) (ecc : Nat) (s : State), (s.dev.hbmAllowed island addr len false = true)) ∧
    (∃ (island addr len : Nat) (data : Bytes) (ecc : Nat) (s : State), (s.dev.hbmAllowed island addr len false = false)) ∧
    (∃ (addr : Nat) (s : State), (s.dev.rd R.HM_SCRUB ≠ 0)) :=
  ⟨⟨6, 0, 0, [1#8, 0#8], 0, State.reset, by decide +kernel⟩,
   ⟨6, 2 ^ 30, 0, [1#8], 0, State.reset, by decide +kernel⟩,
   ⟨0x17, 6 * 2 ^ 30, 32, [], 0, State.reset, by decide +kernel⟩,
   ⟨0x0B, 0, 8, [], 0, State.reset, by decide +kernel⟩,
   ⟨64, State.reset, by decide +kernel⟩⟩

/-- The hypotheses of `ErrorReportsAreLoggedOrHeld` can be met, clause by clause. -/
theorem witness_ErrorReportsAreLoggedOrHeld :
    (∃ (src cls loc code n : Nat) (s : State), (cls = 6 ∨ cls = 8) ∧ (src ≠ 6) ∧ (s.dev.rateOk (s.dev.errSource src) = true ∧ s.dev.fifoRoom = true ∧ (s.dev.errSource src).first = none)) ∧
    (∃ (src cls loc code n : Nat) (s : State), (cls = 6 ∨ cls = 8) ∧ (src ≠ 6) ∧ (s.dev.rateOk (s.dev.errSource src) = false ∧ (s.dev.errSource src).first = none)) ∧
    (∃ (src loc code n : Nat) (s : State), (s.dev.mram.down = false)) ∧
    (∃ (src : Nat) (p : Report) (s : State), (s.dev.rateOk (s.dev.errSource src) = true ∧ s.dev.fifoRoom = true) ∧ ((s.dev.errSource src).first = some p) ∧ (p.src = src ∧ p.cls ≠ 2)) :=
  ⟨⟨768, 6, 5, 0, 1, State.reset, by decide +kernel⟩,
   ⟨768, 8, 5, 0, 1, dev (fun d => { d with faults := { d.faults with sources := [(768, { lastTick := some 0 })] } }), by decide +kernel⟩,
   ⟨14, 5, 0, 1, State.reset, by decide +kernel⟩,
   ⟨768, ⟨0, 768, 8, 5, 0, 1⟩, dev (fun d => { d with faults := { d.faults with sources := [(768, { first := some ⟨0, 768, 8, 5, 0, 1⟩ })] } }), by decide +kernel⟩⟩

/-- The hypotheses of `RegisterWritesTakeEffect` can be met, clause by clause. -/
theorem witness_RegisterWritesTakeEffect :
    (∃ (req addr value : Nat) (f : Field) (i w : Nat) (g : Target) (s : State), (devSpace req = true ∧ s.dev.recoveryPath req = false ∧ s.dev.nvWindow req = false ∧ windowOff req addr = none) ∧ (s.dev.absentBlock (addr >>> 20) = false ∧ blockGroup addr ∉ s.dev.rst.active ∧ isChsel addr = false ∧ isChsel g.addr = false) ∧ (s.dev.target req addr = some g ∧ g.ro = false ∧ blockGroup g.addr ∉ s.dev.rst.active ∧ (g.addr >>> 20 = 0x0E1 → isHart req = true)) ∧ (g.fields = [(f, i, w)] ∧ plainField f = true) ∧ (s.dev.notHere req ⟨f, g.ch f, i, s.dev.merged req f (g.ch f) i w value⟩ = false) ∧ (lastRank s.dev.tk.wrote (f.key (g.ch f) i req) = none) ∧ (s.dev.regStop req [⟨f, g.ch f, i, s.dev.merged req f (g.ch f) i w value⟩] ⟨f, g.ch f, i, s.dev.merged req f (g.ch f) i w value⟩ = none)) ∧
    (∃ (req addr value : Nat) (f : Field) (i w : Nat) (g : Target) (s : State), (devSpace req = true ∧ s.dev.recoveryPath req = false ∧ s.dev.nvWindow req = false ∧ windowOff req addr = none) ∧ (s.dev.absentBlock (addr >>> 20) = false ∧ blockGroup addr ∉ s.dev.rst.active ∧ isChsel addr = false ∧ isChsel g.addr = false) ∧ (s.dev.target req addr = some g ∧ g.ro = false ∧ blockGroup g.addr ∉ s.dev.rst.active ∧ (g.addr >>> 20 = 0x0E1 → isHart req = true)) ∧ (g.fields = [(f, i, w)] ∧ plainField f = true) ∧ (s.dev.valueOk ⟨f, g.ch f, i, s.dev.merged req f (g.ch f) i w value⟩ = false)) ∧
    (∃ (req addr value : Nat) (s : State), (devSpace req = true ∧ s.dev.recoveryPath req = false ∧ s.dev.nvWindow req = false ∧ windowOff req addr = none) ∧ (s.dev.absentBlock (addr >>> 20) = false ∧ blockGroup addr ∉ s.dev.rst.active ∧ isChsel addr = true)) ∧
    (∃ (req addr value : Nat) (s : State), (s.dev.recoveryPath req = false ∧ s.dev.nvWindow req = false ∧ windowOff req addr = none) ∧ (s.dev.absentBlock (addr >>> 20) = true ∨ blockGroup addr ∈ s.dev.rst.active)) :=
  ⟨⟨4104, 0x0100004C, 77, R.TB_SLEW_MAX, 0, 0, ⟨0x0100004C, .global, 0, false⟩, State.reset, by decide +kernel⟩,
   ⟨4104, 0x0100004C, 0, R.TB_SLEW_MAX, 0, 0, ⟨0x0100004C, .global, 0, false⟩, State.reset, by decide +kernel⟩,
   ⟨4104, 0x02000000, 3, State.reset, by decide +kernel⟩,
   ⟨4104, 0x02000008, 3, dev (fun d => { d with rst := { d.rst with active := [3] } }), by decide +kernel⟩⟩

/-- The hypotheses of `RegisterReadsLatchAndClear` can be met, clause by clause. -/
theorem witness_RegisterReadsLatchAndClear :
    (∃ (req addr landed : Nat) (f : Field) (i : Nat) (g : Target) (s : State), (s.dev.recoveryPath req = false ∧ s.dev.nvWindow req = false ∧ windowOff req addr = none ∧ isChsel addr = false ∧ isChsel (addr - 4) = false) ∧ (s.dev.target req addr = some g ∧ s.dev.absentBlock (addr >>> 20) = false) ∧ (g.fields = [(f, i, 0)] ∧ f.ty = .rc ∧ f.lo = 0 ∧ f.width ≤ 32) ∧ (f ≠ R.TB_NOW0 ∧ f ≠ R.TS_HEAD0)) ∧
    (∃ (req addr : Nat) (f : Field) (i : Nat) (g : Target) (s : State), (s.dev.recoveryPath req = false ∧ s.dev.nvWindow req = false ∧ windowOff req addr = none ∧ isChsel addr = false ∧ isChsel (addr - 4) = false) ∧ (s.dev.target req addr = some g ∧ s.dev.absentBlock (addr >>> 20) = false) ∧ (g.fields = [(f, i, 0)] ∧ f.ty = .ro ∧ f.lo = 0 ∧ f.width = 64) ∧ (f ≠ R.ETICK_LO ∧ f ≠ R.LPM_DATA_LO ∧ f ≠ R.TB_NOW0 ∧ f ≠ R.TS_HEAD0)) ∧
    (∃ (req addr len value : Nat) (write : Bool) (s : State), (¬(len = 4 ∨ len = 8) ∨ addr % len ≠ 0)) ∧
    (∃ (req addr value : Nat) (s : State), (addr % 4 = 0) ∧ (value < 2 ^ 32)) ∧
    (∃ (req addr value : Nat) (s : State), (addr % 8 = 0)) ∧
    (∃ (req addr : Nat) (s : State), (addr % 4 = 0)) :=
  ⟨⟨4104, 0x01200048, 2, R.SQ_LATE, 0, ⟨0x01200048, .global, 0, false⟩, dev (fun d => d.wr R.SQ_LATE 9), by decide +kernel⟩,
   ⟨4104, 0x0A000110, R.HM_REFUSED, 0, ⟨0x0A000110, .global, 0, false⟩, dev (fun d => d.wr R.HM_REFUSED (2 ^ 33 + 5)), by decide +kernel⟩,
   ⟨3, 2, 4, 1, true, State.reset, by decide +kernel⟩,
   ⟨0, 0x44, 9, State.reset, by decide +kernel⟩,
   ⟨0, 0x48, 9, State.reset, by decide +kernel⟩,
   ⟨0, 0x44, State.reset, by decide +kernel⟩⟩

/-- The hypotheses of `LinkStatesRiseAndFall` can be met, clause by clause. -/
theorem witness_LinkStatesRiseAndFall :
    (∃ (req p : Nat) (s : State), (s.dev.formed p = true) ∧ (s.dev.on R.PT_CTRL_ENABLE p = false) ∧ (s.dev.rd R.PT_STATUS_LSTATE p = 0)) ∧
    (∃ (p eye : Nat) (s : State), (s.dev.rd R.PT_STATUS_LSTATE p = 1) ∧ (eye < 256)) ∧
    (∃ (p pre main post : Nat) (s : State), (s.dev.rd R.PT_STATUS_LSTATE p = 2) ∧ (pre < 64 ∧ main < 64 ∧ post < 64)) ∧
    (∃ (p pre main post : Nat) (s : State), (s.dev.rd R.PT_STATUS_LSTATE p ≠ 2)) ∧
    (∃ (p : Nat) (s : State), (s.dev.rd R.PT_STATUS_LSTATE p = 2)) ∧
    (∃ (p : Nat) (s : State), (s.dev.rd R.PT_STATUS_LSTATE p = 2)) ∧
    (∃ (p : Nat) (s : State), (s.dev.rd R.PT_STATUS_LSTATE p ≠ 2)) ∧
    (∃ (p : Nat) (s : State), (s.dev.rd R.PT_STATUS_LSTATE p = 3)) ∧
    (∃ (p : Nat) (s : State), (s.dev.rd R.PT_STATUS_LSTATE p = 5)) ∧
    (∃ (req p : Nat) (b : Bool) (s : State), (s.dev.formed p = true) ∧ (s.dev.on R.PT_CTRL_ENABLE p = true) ∧ (s.dev.rd R.PT_STATUS_LSTATE p ≠ 4)) ∧
    (∃ (req p : Nat) (b : Bool) (s : State), (s.dev.formed p = true) ∧ (s.dev.on R.PT_CTRL_ENABLE p = true) ∧ (s.dev.rd R.PT_STATUS_LSTATE p = 4)) ∧
    (∃ (p : Nat) (r b : Bool) (s : State), (s.dev.rd R.PT_STATUS_LSTATE p = 4)) ∧
    (∃ (p : Nat) (r b : Bool) (s : State), (s.dev.rd R.PT_STATUS_LSTATE p ≠ 4)) ∧
    (∃ (p : Nat) (h b : Bool) (s : State), (s.dev.rd R.PT_STATUS_LSTATE p = 4)) ∧
    (∃ (p : Nat) (h b : Bool) (s : State), (s.dev.rd R.PT_STATUS_LSTATE p = 5)) ∧
    (∃ (p lane : Nat) (g b : Bool) (s : State), (s.dev.rd R.PT_STATUS_LSTATE p = 4)) ∧
    (∃ (p lane : Nat) (g b : Bool) (s : State), (s.dev.rd R.PT_STATUS_LSTATE p = 2 ∨ s.dev.rd R.PT_STATUS_LSTATE p = 3 ∨ s.dev.rd R.PT_STATUS_LSTATE p = 5)) :=
  ⟨⟨4104, 2, dev (fun d => d.wr R.LG_MODE 5 0 0), by decide +kernel⟩,
   ⟨2, 40, dev (fun d => ((((d.wr R.LG_MODE 5 0 0).wr R.PT_CTRL_ENABLE 1 2).wr R.PT_STATUS_LSTATE 1 2))), by decide +kernel⟩,
   ⟨2, 1, 63, 2, dev (fun d => ((((d.wr R.LG_MODE 5 0 0).wr R.PT_CTRL_ENABLE 1 2).wr R.PT_STATUS_LSTATE 2 2))), by decide +kernel⟩,
   ⟨2, 1, 63, 2, dev (fun d => ((((d.wr R.LG_MODE 5 0 0).wr R.PT_CTRL_ENABLE 1 2).wr R.PT_STATUS_LSTATE 3 2))), by decide +kernel⟩,
   ⟨2, dev (fun d => ((((d.wr R.LG_MODE 5 0 0).wr R.PT_CTRL_ENABLE 1 2).wr R.PT_STATUS_LSTATE 2 2))), by decide +kernel⟩,
   ⟨2, dev (fun d => ((((d.wr R.LG_MODE 5 0 0).wr R.PT_CTRL_ENABLE 1 2).wr R.PT_STATUS_LSTATE 2 2))), by decide +kernel⟩,
   ⟨2, dev (fun d => ((((d.wr R.LG_MODE 5 0 0).wr R.PT_CTRL_ENABLE 1 2).wr R.PT_STATUS_LSTATE 4 2))), by decide +kernel⟩,
   ⟨2, dev (fun d => ((((d.wr R.LG_MODE 5 0 0).wr R.PT_CTRL_ENABLE 1 2).wr R.PT_STATUS_LSTATE 3 2))), by decide +kernel⟩,
   ⟨2, dev (fun d => ((((d.wr R.LG_MODE 5 0 0).wr R.PT_CTRL_ENABLE 1 2).wr R.PT_STATUS_LSTATE 5 2))), by decide +kernel⟩,
   ⟨4104, 2, true, dev (fun d => ((((d.wr R.LG_MODE 5 0 0).wr R.PT_CTRL_ENABLE 1 2).wr R.PT_STATUS_LSTATE 3 2))), by decide +kernel⟩,
   ⟨4104, 2, true, dev (fun d => ((((d.wr R.LG_MODE 5 0 0).wr R.PT_CTRL_ENABLE 1 2).wr R.PT_STATUS_LSTATE 4 2))), by decide +kernel⟩,
   ⟨2, true, false, dev (fun d => ((((d.wr R.LG_MODE 5 0 0).wr R.PT_CTRL_ENABLE 1 2).wr R.PT_STATUS_LSTATE 4 2))), by decide +kernel⟩,
   ⟨2, false, false, dev (fun d => ((((d.wr R.LG_MODE 5 0 0).wr R.PT_CTRL_ENABLE 1 2).wr R.PT_STATUS_LSTATE 3 2))), by decide +kernel⟩,
   ⟨2, true, false, dev (fun d => ((((d.wr R.LG_MODE 5 0 0).wr R.PT_CTRL_ENABLE 1 2).wr R.PT_STATUS_LSTATE 4 2))), by decide +kernel⟩,
   ⟨2, true, false, dev (fun d => ((((d.wr R.LG_MODE 5 0 0).wr R.PT_CTRL_ENABLE 1 2).wr R.PT_STATUS_LSTATE 5 2))), by decide +kernel⟩,
   ⟨2, 2, true, false, dev (fun d => ((((d.wr R.LG_MODE 5 0 0).wr R.PT_CTRL_ENABLE 1 2).wr R.PT_STATUS_LSTATE 4 2))), by decide +kernel⟩,
   ⟨2, 2, true, false, dev (fun d => ((((d.wr R.LG_MODE 5 0 0).wr R.PT_CTRL_ENABLE 1 2).wr R.PT_STATUS_LSTATE 2 2))), by decide +kernel⟩⟩

/-- The hypotheses of `LaneGroupModesAndSnapshots` can be met, clause by clause. -/
theorem witness_LaneGroupModesAndSnapshots :
    (∃ (req g mode : Nat) (s : State), (g < 4 ∧ mode < 8) ∧ (s.dev.modeFree g mode = true)) ∧
    (∃ (req g mode : Nat) (s : State), (g < 4) ∧ (8 ≤ mode ∨ s.dev.modeFree g mode = false)) :=
  ⟨⟨4104, 1, 1, State.reset, by decide +kernel⟩,
   ⟨4104, 3, 8, State.reset, by decide +kernel⟩⟩

/-- The hypotheses of `FlowControlPausesClasses` can be met, clause by clause. -/
theorem witness_FlowControlPausesClasses :
    (∃ (p classes : Nat) (q : List Nat) (s : State), (s.dev.rd R.PT_CTRL_FC p = 1)) ∧
    (∃ (p classes : Nat) (q : List Nat) (s : State), (s.dev.rd R.PT_CTRL_FC p = 2)) ∧
    (∃ (p classes : Nat) (pfc : Bool) (q : List Nat) (s : State), (s.dev.rd R.PT_CTRL_FC p = 0)) ∧
    (∃ (p c : Nat) (s : State), (c < 8)) ∧
    (∃ (p c occ : Nat) (s : State), (c < 8) ∧ (bit (s.dev.rd R.PT_PFC_PFC_TX_EN p) c = true) ∧ (s.dev.rd R.PT_PFC_THR_PFC_XOFF p ≤ occ) ∧ (bit (s.dev.rd R.PT_PFC_STATUS_TX_PAUSED p) c = false)) ∧
    (∃ (p c occ : Nat) (s : State), (c < 8) ∧ (bit (s.dev.rd R.PT_PFC_STATUS_TX_PAUSED p) c = true) ∧ (s.dev.rd R.PT_PFC_THR_PFC_XON p ≤ occ)) ∧
    (∃ (p c occ : Nat) (s : State), (c < 8) ∧ (bit (s.dev.rd R.PT_PFC_STATUS_TX_PAUSED p) c = true) ∧ (occ < s.dev.rd R.PT_PFC_THR_PFC_XON p)) :=
  ⟨⟨3, 0, [9], dev (fun d => d.wr R.PT_CTRL_FC 1 3), by decide +kernel⟩,
   ⟨3, 5, [9], dev (fun d => d.wr R.PT_CTRL_FC 2 3), by decide +kernel⟩,
   ⟨3, 5, true, [9], dev (fun d => d.wr R.PT_CTRL_FC 0 3), by decide +kernel⟩,
   ⟨3, 7, State.reset, by decide +kernel⟩,
   ⟨3, 7, 600000, dev (fun d => d.wr R.PT_PFC_PFC_TX_EN 255 3), by decide +kernel⟩,
   ⟨3, 7, 600000, dev (fun d => d.wr R.PT_PFC_STATUS_TX_PAUSED 255 3), by decide +kernel⟩,
   ⟨3, 7, 0, dev (fun d => (d.wr R.PT_PFC_STATUS_TX_PAUSED 255 3).wr R.PT_PFC_THR_PFC_XON 5 3), by decide +kernel⟩⟩

/-- The hypotheses of `EventTickAdvancesTime` can be met, clause by clause. -/
theorem witness_EventTickAdvancesTime : ∃ (d : Dev), (d.tb.jumps = []) ∧ (d.cal.due = []) :=
  ⟨({} : Dev), by decide +kernel⟩

/-- The hypotheses of `TimeCommandsActOnTheCounter` can be met, clause by clause. -/
theorem witness_TimeCommandsActOnTheCounter :
    (∃ (d e : Dev) (n off : Nat) (a : Bool), (e = d.boundaryAct ⟨9, n, .timeStep off a⟩) ∧ (d.seqRunning = true ∨ (a = true ∧ d.startCause = 0))) ∧
    (∃ (d e : Dev) (n off : Nat) (a : Bool), (e = d.boundaryAct ⟨9, n, .timeStep off a⟩) ∧ (d.seqRunning = false ∧ (a = true → d.startCause ≠ 0))) ∧
    (∃ (d e : Dev) (n sec sub : Nat) (a : Bool), (e = d.boundaryAct ⟨9, n, .timeSet sec sub a⟩) ∧ (d.seqRunning = false ∧ (a = true → d.startCause ≠ 0))) ∧
    (∃ (d e : Dev) (n off : Nat), (e = d.boundaryAct ⟨9, n, .slew off⟩)) ∧
    (∃ (d e : Dev) (n : Nat), (e = d.boundaryAct ⟨9, n, .holdover⟩) ∧ (d.on R.TB_CTRL_SERVO_EN = true) ∧ (d.rd R.TB_STATUS_STATE = 1 ∨ d.rd R.TB_STATUS_STATE = 2)) ∧
    (∃ (d e : Dev) (n : Nat), (e = d.boundaryAct ⟨9, n, .holdover⟩) ∧ (d.on R.TB_CTRL_SERVO_EN = false ∨ d.rd R.TB_STATUS_STATE = 0)) ∧
    (∃ (d e : Dev) (n : Nat), (e = d.boundaryAct ⟨9, n, .clearInteg⟩)) :=
  ⟨⟨(({} : Dev).wr R.SQ_STATUS_STATE 1), ((({} : Dev).wr R.SQ_STATUS_STATE 1).boundaryAct ⟨9, 0, .timeStep 65536 false⟩), 0, 65536, false, by decide +kernel⟩,
   ⟨(({} : Dev).flag R.TB_CTRL_SERVO_EN), ((({} : Dev).flag R.TB_CTRL_SERVO_EN).boundaryAct ⟨9, 0, .timeStep 65536 true⟩), 0, 65536, true, by decide +kernel⟩,
   ⟨({} : Dev), (({} : Dev).boundaryAct ⟨9, 0, .timeSet 3 77 false⟩), 0, 3, 77, false, by decide +kernel⟩,
   ⟨({} : Dev), (({} : Dev).boundaryAct ⟨9, 0, .slew 5⟩), 0, 5, by decide +kernel⟩,
   ⟨((({} : Dev).flag R.TB_CTRL_SERVO_EN).wr R.TB_STATUS_STATE 2), (((({} : Dev).flag R.TB_CTRL_SERVO_EN).wr R.TB_STATUS_STATE 2).boundaryAct ⟨9, 0, .holdover⟩), 0, by decide +kernel⟩,
   ⟨({} : Dev), (({} : Dev).boundaryAct ⟨9, 0, .holdover⟩), 0, by decide +kernel⟩,
   ⟨({} : Dev), (({} : Dev).boundaryAct ⟨9, 0, .clearInteg⟩), 0, by decide +kernel⟩⟩

/-- The hypotheses of `ServoFollowsItsSamples` can be met, clause by clause. -/
theorem witness_ServoFollowsItsSamples :
    (∃ (req v : Nat) (s : State), (bits v 2 1 ≠ 3 ∧ (bits v 2 1 = 2 → s.dev.unit 1 = true))) ∧
    (∃ (req v : Nat) (s : State), (bits v 2 1 = 3 ∨ (bits v 2 1 = 2 ∧ s.dev.unit 1 = false))) ∧
    (∃ (req v : Nat) (s : State), (s.dev.on R.TB_CTRL_SERVO_EN = true ∧ s.dev.rd R.TB_CTRL_SRC = 0 ∧ v >>> 16 % 2 ^ 16 = s.dev.rd R.TB_STATUS_STEP_GEN)) ∧
    (∃ (req v : Nat) (s : State), (s.dev.on R.TB_CTRL_SERVO_EN = false)) ∧
    (∃ (x : Sample) (xs : List Sample) (s : State), (s.dev.tb.samples = x :: xs) ∧ (s.dev.sampleBad x = true)) ∧
    (∃ (x : Sample) (xs : List Sample) (s : State), (s.dev.tb.samples = x :: xs) ∧ (s.dev.sampleBad x = false) ∧ (s.dev.rd R.TB_STEP_THRESH * 2 ^ 16 < x.theta.natAbs) ∧ (s.dev.stepRefused = false)) ∧
    (∃ (x : Sample) (xs : List Sample) (s : State), (s.dev.tb.samples = x :: xs) ∧ (s.dev.sampleBad x = false) ∧ (x.theta.natAbs ≤ s.dev.rd R.TB_STEP_THRESH * 2 ^ 16)) ∧
    (∃ (s : State), (s.dev.sourceLost = true ∧ s.dev.on R.TB_CTRL_SERVO_EN = true)) ∧
    (∃ (req v : Nat) (s : State), (s.dev.on R.TB_CTRL_SERVO_EN = false) ∧ (v < 2 ^ 32) ∧ (s.dev.incrInRange (v <<< 32 + (SMap.get? s.dev.tb.incrLo req).getD (s.dev.rd R.TB_INCR % 2 ^ 32)) = true)) ∧
    (∃ (req v : Nat) (s : State), (s.dev.on R.TB_CTRL_SERVO_EN = true)) ∧
    (∃ (req p w v : Nat) (s : State), (w < 4)) ∧
    (∃ (v : Nat) (s : State), (s.dev.cal.mgmtRate ≠ 9)) ∧
    (∃ (v : Nat) (s : State), (s.dev.cal.mgmtRate = 9)) :=
  ⟨⟨4104, 3, State.reset, by decide +kernel⟩,
   ⟨4104, 7, State.reset, by decide +kernel⟩,
   ⟨4104, 9, dev (fun d => d.flag R.TB_CTRL_SERVO_EN), by decide +kernel⟩,
   ⟨4104, 9, State.reset, by decide +kernel⟩,
   ⟨⟨0, 1, 5⟩, [], dev (fun d => { d with tb := { d.tb with samples := [⟨0, 1, 5⟩] } }), by decide +kernel⟩,
   ⟨⟨0, 0, 10 ^ 15⟩, [], dev (fun d => { (d.flag R.TB_CTRL_SERVO_EN) with tb := { d.tb with samples := [⟨0, 0, 10 ^ 15⟩] } }), by decide +kernel⟩,
   ⟨⟨0, 0, -7⟩, [], dev (fun d => { (d.flag R.TB_CTRL_SERVO_EN) with tb := { d.tb with samples := [⟨0, 0, -7⟩] } }), by decide +kernel⟩,
   ⟨dev (fun d => { ((d.flag R.TB_CTRL_SERVO_EN).wr R.TB_STATUS_STATE 2) with tk := { d.tk with etick := 10 ^ 12 } }), by decide +kernel⟩,
   ⟨4104, 1, State.reset, by decide +kernel⟩,
   ⟨4104, 1, dev (fun d => d.flag R.TB_CTRL_SERVO_EN), by decide +kernel⟩,
   ⟨4104, 2, 3, 77, State.reset, by decide +kernel⟩,
   ⟨2, dev (fun d => { d with cal := { d.cal with mgmtRate := 10 } }), by decide +kernel⟩,
   ⟨2, dev (fun d => { d with cal := { d.cal with mgmtRate := 9 } }), by decide +kernel⟩⟩

/-- The hypotheses of `TriggersArmAndFire` can be met, clause by clause. -/
theorem witness_TriggersArmAndFire :
    (∃ (req n : Nat) (s : State), (s.dev.on R.TT_STATUS_ARMED n = false) ∧ (s.dev.armRefused n = false) ∧ (s.dev.now ≤ s.dev.ttStart n)) ∧
    (∃ (req n : Nat) (s : State), (s.dev.on R.TT_STATUS_ARMED n = false) ∧ (s.dev.armRefused n = false) ∧ (s.dev.ttStart n < s.dev.now)) ∧
    (∃ (req n : Nat) (s : State), (s.dev.on R.TT_STATUS_ARMED n = false) ∧ (s.dev.armRefused n = true)) ∧
    (∃ (req n : Nat) (s : State), (s.dev.on R.TT_STATUS_ARMED n = true)) ∧
    (∃ (n w : Nat) (s : State), (s.dev.on R.TT_STATUS_ARMED n = true) ∧ ((s.dev.tt n).next = some w) ∧ (w < s.dev.nowEnd)) ∧
    (∃ (n k : Nat) (s : State), ((s.dev.tt n).late = some k) ∧ (k ≤ s.dev.tk.etick)) ∧
    (∃ (sec : Nat) (s : State), (sec = (((s.dev.now : Int) + signed 32 (s.dev.rd R.PPS_OUT_DELAY) * 2 ^ 16 + (secUnit : Int) - 1) / (secUnit : Int)).toNat) ∧ (s.dev.on R.PPS_CTRL_OUT_EN = true) ∧ (s.dev.trig.drove sec = false) ∧ (s.dev.ppsEdge sec < (s.dev.nowEnd : Int)) ∧ ((s.dev.now : Int) ≤ s.dev.ppsEdge sec)) ∧
    (∃ (s : State), (s.dev.pins.ppsOut = true) ∧ (s.dev.trig.ppsEnd < s.dev.cyc + 8)) :=
  ⟨⟨4104, 3, dev (fun d => (d.wr R.TT_TARGET 1 3).wr R.TT_WIDTH 8 3), by decide +kernel⟩,
   ⟨4104, 3, dev (fun d => { ((d.wr R.TT_TARGET 1 3).wr R.TT_WIDTH 8 3) with tb := { d.tb with t := 5 } }), by decide +kernel⟩,
   ⟨4104, 3, State.reset, by decide +kernel⟩,
   ⟨4104, 3, dev (fun d => { ((d.flag R.TT_STATUS_ARMED 3).wr R.TT_TARGET 1 3) with trig := { d.trig with trigs := [(3, { next := some 0 })] } }), by decide +kernel⟩,
   ⟨3, 0, dev (fun d => { ((d.flag R.TT_STATUS_ARMED 3).wr R.TT_TARGET 1 3) with trig := { d.trig with trigs := [(3, { next := some 0 })] } }), by decide +kernel⟩,
   ⟨3, 0, dev (fun d => { d with trig := { d.trig with trigs := [(3, { late := some 0 })] } }), by decide +kernel⟩,
   ⟨0, dev (fun d => d.flag R.PPS_CTRL_OUT_EN), by decide +kernel⟩,
   ⟨dev (fun d => { d with pins := { d.pins with ppsOut := true } }), by decide +kernel⟩⟩

/-- The hypotheses of `CapturesAreStoredAndPopped` can be met, clause by clause. -/
theorem witness_CapturesAreStoredAndPopped :
    (∃ (n k sub : Nat) (r : Bool) (s : State), (s.dev.edgeOn (16 + n) r = true) ∧ ((SMap.getD s.dev.trig.fifos (16 + n) []).length < 16)) ∧
    (∃ (n k sub : Nat) (r : Bool) (s : State), (s.dev.edgeOn (16 + n) r = true) ∧ (16 ≤ (SMap.getD s.dev.trig.fifos (16 + n) []).length)) ∧
    (∃ (n k sub : Nat) (r : Bool) (s : State), (s.dev.edgeOn (16 + n) r = false)) ∧
    (∃ (k sub : Nat) (r : Bool) (s : State), (s.dev.edgeOn 24 r = true) ∧ ((SMap.getD s.dev.trig.fifos 24 []).length < 16) ∧ (s.dev.rd R.TB_CTRL_SRC ≠ 1)) ∧
    (∃ (k sub : Nat) (r : Bool) (s : State), (s.dev.edgeOn 24 r = true) ∧ (s.dev.rd R.TB_CTRL_SRC = 1 ∧ s.dev.on R.TB_CTRL_SERVO_EN = true)) ∧
    (∃ (k sub : Nat) (r : Bool) (s : State), (s.dev.edgeOn 24 r = false)) ∧
    (∃ (req c : Nat) (h : Nat × Bool) (l : List (Nat × Bool)) (s : State), (SMap.getD s.dev.trig.fifos c [] = h :: l)) :=
  ⟨⟨2, 3, 4, true, dev (fun d => (d.flag R.TS_CTRL_EN 18).wr R.TS_CTRL_EDGE 1 18), by decide +kernel⟩,
   ⟨2, 3, 4, true, dev (fun d => { ((d.flag R.TS_CTRL_EN 18).wr R.TS_CTRL_EDGE 1 18) with trig := { d.trig with fifos := [(18, List.replicate 16 (0, true))] } }), by decide +kernel⟩,
   ⟨2, 3, 4, false, State.reset, by decide +kernel⟩,
   ⟨3, 4, true, dev (fun d => (d.flag R.TS_CTRL_EN 24).wr R.TS_CTRL_EDGE 1 24), by decide +kernel⟩,
   ⟨3, 4, true, dev (fun d => (((d.flag R.TS_CTRL_EN 24).wr R.TS_CTRL_EDGE 1 24).flag R.TB_CTRL_SERVO_EN).wr R.TB_CTRL_SRC 1), by decide +kernel⟩,
   ⟨3, 4, false, State.reset, by decide +kernel⟩,
   ⟨4104, 18, (5, true), [], dev (fun d => { d with trig := { d.trig with fifos := [(18, [(5, true)])] } }), by decide +kernel⟩⟩

/-- The hypotheses of `FramesAreReceived` can be met, clause by clause. -/
theorem witness_FramesAreReceived :
    (∃ (p : Nat) (raw : Bytes) (tDet e pos : Nat) (ov : Bool) (off tEmit te tv : Nat) (s : State), (s.dev.up p = true ∧ s.dev.inReset 6 = false ∧ s.dev.pwr.quiet = false) ∧ (s.dev.stopped (6 + s.dev.pipeOf p) = false ∧ s.dev.stopped 0x0A = false) ∧ (raw.length < 64)) ∧
    (∃ (p : Nat) (raw : Bytes) (tDet e pos : Nat) (ov : Bool) (off tEmit te tv : Nat) (s : State), (s.dev.up p = true ∧ s.dev.inReset 6 = false ∧ s.dev.pwr.quiet = false) ∧ (s.dev.stopped (6 + s.dev.pipeOf p) = false ∧ s.dev.stopped 0x0A = false) ∧ (64 ≤ raw.length ∧ raw.length ≤ s.dev.rd R.PT_MTU p) ∧ (fcsGood raw = true ∧ isMacControl (frameBody raw) = true)) ∧
    (∃ (p : Nat) (raw : Bytes) (tDet e pos : Nat) (ov : Bool) (off tEmit te tv : Nat) (s : State), (s.dev.up p = true ∧ s.dev.inReset 6 = false ∧ s.dev.pwr.quiet = false) ∧ (s.dev.stopped (6 + s.dev.pipeOf p) = false ∧ s.dev.stopped 0x0A = false) ∧ (64 ≤ raw.length ∧ raw.length ≤ s.dev.rd R.PT_MTU p) ∧ (fcsGood raw = true ∧ isMacControl (frameBody raw) = false) ∧ (s.dev.iraFrame p (frameBody raw) = true ∧ s.dev.iraSums (frameBody raw) = true)) ∧
    (∃ (p : Nat) (raw : Bytes) (tDet e pos : Nat) (ov : Bool) (off tEmit te tv : Nat) (s : State), (s.dev.up p = true ∧ s.dev.inReset 6 = false ∧ s.dev.pwr.quiet = false) ∧ (s.dev.stopped (6 + s.dev.pipeOf p) = false ∧ s.dev.stopped 0x0A = false) ∧ (64 ≤ raw.length ∧ raw.length ≤ s.dev.rd R.PT_MTU p) ∧ (fcsGood raw = true ∧ isMacControl (frameBody raw) = false) ∧ (s.dev.iraFrame p (frameBody raw) = false ∧ s.dev.on R.MS_CTRL_RX_EN p = false)) ∧
    (∃ (p : Nat) (raw : Bytes) (tDet e pos : Nat) (ov : Bool) (off tEmit te tv : Nat) (s : State), (s.dev.up p = true ∧ s.dev.inReset 6 = false ∧ s.dev.pwr.quiet = false) ∧ (s.dev.stopped (6 + s.dev.pipeOf p) = true ∧ ov = true)) ∧
    (∃ (p : Nat) (raw : Bytes) (tDet e pos : Nat) (ov : Bool) (off tEmit te tv : Nat) (s : State), (s.dev.up p = false)) :=
  ⟨⟨2, [1#8, 2#8, 3#8, 4#8, 5#8], 0, 0, 0, false, 0, 0, 0, 0, dev (fun d => (d.wr R.LG_MODE 5 0 0).wr R.PT_STATUS_LSTATE 4 2), by decide +kernel⟩,
   ⟨2, pauseFrame, 0, 0, 0, false, 0, 0, 0, 0, dev (fun d => (d.wr R.LG_MODE 5 0 0).wr R.PT_STATUS_LSTATE 4 2), by decide +kernel⟩,
   ⟨2, iraFrameBytes, 0, 0, 0, false, 0, 0, 0, 0, dev (fun d => ((((d.wr R.LG_MODE 5 0 0).wr R.PT_STATUS_LSTATE 4 2).wr R.IR_CTRL_EN 1).wr R.IR_PORT_EN 255)), by decide +kernel⟩,
   ⟨2, plainFrame, 0, 0, 0, false, 0, 0, 0, 0, dev (fun d => (d.wr R.LG_MODE 5 0 0).wr R.PT_STATUS_LSTATE 4 2), by decide +kernel⟩,
   ⟨2, [], 0, 0, 0, true, 0, 0, 0, 0, dev (fun d => ((d.wr R.LG_MODE 5 0 0).wr R.PT_STATUS_LSTATE 4 2).wr R.PI_STATUS_STATE 1 6), by decide +kernel⟩,
   ⟨2, [], 0, 0, 0, false, 0, 0, 0, 0, State.reset, by decide +kernel⟩⟩

/-- The hypotheses of `GateListsChangeAndCycle` can be met, clause by clause. -/
theorem witness_GateListsChangeAndCycle :
    (∃ (req p : Nat) (s : State), (s.dev.changeCause p = 0)) ∧
    (∃ (req p : Nat) (s : State), (s.dev.changeCause p ≠ 0)) ∧
    (∃ (p w : Nat) (s : State), ((s.dev.gate p).pend = some w) ∧ (s.dev.on R.GT_CTRL_MODE p = false) ∧ (w < s.dev.tickEndNs)) ∧
    (∃ (p : Nat) (s : State), ((s.dev.gate p).pend = none)) ∧
    (∃ (p n : Nat) (s : State), (s.dev.gateNext p = some n) ∧ (s.dev.on R.GT_CTRL_EN p = true) ∧ (n < s.dev.tickEndNs) ∧ ((s.dev.gate p).pend = none)) ∧
    (∃ (p st : Nat) (s : State), ((s.dev.gate p).start = some st) ∧ (s.dev.on R.GT_CTRL_EN p = true) ∧ ((s.dev.gate p).entry + 1 < (s.dev.gate p).active.entries.length ∧ (s.dev.gate p).active.entryEnd (s.dev.gate p).entry < (s.dev.gate p).active.cycle) ∧ (st + (s.dev.gate p).active.entryEnd (s.dev.gate p).entry < s.dev.tickEndNs ∧ (s.dev.gate p).hold = false)) ∧
    (∃ (p : Nat) (s : State), (s.dev.on R.RN_CTRL_RG_EN p = true ∧ s.dev.up p = true) ∧ (p < 16)) :=
  ⟨⟨4104, 3, dev (fun d => (d.wr R.GT_LEN 1 3).wr R.GT_CYCLE 1000 3), by decide +kernel⟩,
   ⟨4104, 3, dev (fun d => d.wr R.GT_CYCLE 5 3), by decide +kernel⟩,
   ⟨3, 0, dev (fun d => (d.flag R.GT_CTRL_EN 3).setGate 3 (fun g => { g with pend := some 0 })), by decide +kernel⟩,
   ⟨3, State.reset, by decide +kernel⟩,
   ⟨3, 0, dev (fun d => d.flag R.GT_CTRL_EN 3), by decide +kernel⟩,
   ⟨3, 0, dev (fun d => (d.flag R.GT_CTRL_EN 3).setGate 3 (fun g => { g with active := { entries := [(255, 1), (1, 100)], cycle := 200, base := 0 }, start := some 0 })), by decide +kernel⟩,
   ⟨2, dev (fun d => (d.wr R.PT_STATUS_LSTATE 4 2).flag R.RN_CTRL_RG_EN 2), by decide +kernel⟩⟩

/-- The hypotheses of `FramesStartOnFreeLines` can be met, clause by clause. -/
theorem witness_FramesStartOnFreeLines :
    (∃ (p off tEmit e v : Nat) (mv : Bool) (f : Frame) (s : State), (s.dev.launchHead p = some f) ∧ (s.dev.gridUp p (f.launch.getD 0) * 65536 < s.dev.nowAt 8 * 1000) ∧ (s.dev.lineFree p (s.dev.cyc * 1000 + off) = true ∧ s.dev.paused p f.tc = false) ∧ (mv = true ∨ s.dev.now * 1000 ≤ s.dev.gridUp p (f.launch.getD 0) * 65536) ∧ (s.dev.on R.MS_CTRL_TX_EN p = false)) ∧
    (∃ (p off tEmit e v : Nat) (f : Frame) (s : State), (s.dev.launchHead p = some f) ∧ (s.dev.gridUp p (f.launch.getD 0) * 65536 < s.dev.now * 1000) ∧ (s.dev.on R.RN_CTRL_RL_LATE_ACTION p = true)) ∧
    (∃ (p off tEmit e v : Nat) (mv : Bool) (f : Frame) (s : State), (s.dev.launchHead p = some f) ∧ (s.dev.nowAt 8 * 1000 ≤ s.dev.gridUp p (f.launch.getD 0) * 65536)) ∧
    (∃ (p off tEmit e v : Nat) (s : State), (s.dev.lineFree p (s.dev.cyc * 1000 + off) = false)) ∧
    (∃ (p off tEmit e v : Nat) (s : State), (s.dev.lineFree p (s.dev.cyc * 1000 + off) = true) ∧ (s.dev.launchHead p = none) ∧ (s.dev.on R.GT_CTRL_EN p = false)) :=
  ⟨⟨2, 0, 0, 0, 0, true, { id := 7, src := 16, bytes := [1#8], len := 64, colour := 0, stamp := 0, cap := none, launch := some 0 }, dev (fun d => { (d.wr R.LG_MODE 5 0 0).wr R.PT_STATUS_LSTATE 4 2 with rein := { d.rein with launch := [(2, [{ id := 7, src := 16, bytes := [1#8], len := 64, colour := 0, stamp := 0, cap := none, launch := some 0 }])] } }), by decide +kernel⟩,
   ⟨2, 0, 0, 0, 0, { id := 7, src := 16, bytes := [1#8], len := 64, colour := 0, stamp := 0, cap := none, launch := some 0 }, dev (fun d => { (((d.wr R.LG_MODE 5 0 0).wr R.PT_STATUS_LSTATE 4 2).flag R.RN_CTRL_RL_LATE_ACTION 2) with rein := { d.rein with launch := [(2, [{ id := 7, src := 16, bytes := [1#8], len := 64, colour := 0, stamp := 0, cap := none, launch := some 0 }])] }, tb := { d.tb with t := 5 } }), by decide +kernel⟩,
   ⟨2, 0, 0, 0, 0, true, { id := 7, src := 16, bytes := [1#8], len := 64, colour := 0, stamp := 0, cap := none, launch := some (10 ^ 12) }, dev (fun d => { d.wr R.LG_MODE 5 0 0 with rein := { d.rein with launch := [(2, [{ id := 7, src := 16, bytes := [1#8], len := 64, colour := 0, stamp := 0, cap := none, launch := some (10 ^ 12) }])] } }), by decide +kernel⟩,
   ⟨2, 0, 0, 0, 0, State.reset, by decide +kernel⟩,
   ⟨2, 0, 0, 0, 0, dev (fun d => (d.wr R.LG_MODE 5 0 0).wr R.PT_STATUS_LSTATE 4 2), by decide +kernel⟩⟩

/-- The hypotheses of `TablesAreUpdatedAndSearched` can be met, clause by clause. -/
theorem witness_TablesAreUpdatedAndSearched :
    (∃ (req k : Nat) (s : State), (s.dev.tab.macFifo = [] ∧ s.dev.ftMac req = true ∧ s.dev.ftRefused req = false) ∧ (s.dev.macFind (s.dev.ftMacKey req).1 (s.dev.ftMacKey req).2 = some k)) ∧
    (∃ (req k : Nat) (s : State), (s.dev.tab.macFifo = [] ∧ s.dev.ftMac req = true ∧ s.dev.ftRefused req = false) ∧ (s.dev.macFind (s.dev.ftMacKey req).1 (s.dev.ftMacKey req).2 = none) ∧ (freeWay s.dev.tab.mac (s.dev.macBuckets (s.dev.ftMacKey req).1 (s.dev.ftMacKey req).2).1 = some k)) ∧
    (∃ (req k : Nat) (s : State), (s.dev.tab.macFifo = [] ∧ s.dev.ftMac req = true ∧ s.dev.ftRefused req = false) ∧ (s.dev.macFind (s.dev.ftMacKey req).1 (s.dev.ftMacKey req).2 = some k)) ∧
    (∃ (req : Nat) (s : State), (s.dev.tab.macFifo = [] ∧ s.dev.ftMac req = true ∧ s.dev.ftRefused req = false) ∧ (s.dev.macFind (s.dev.ftMacKey req).1 (s.dev.ftMacKey req).2 = none)) ∧
    (∃ (req k : Nat) (m : MacEntry) (s : State), (s.dev.tab.macFifo = [] ∧ s.dev.ftMac req = true ∧ s.dev.ftRefused req = false) ∧ (s.dev.macFind (s.dev.ftMacKey req).1 (s.dev.ftMacKey req).2 = some k) ∧ (SMap.get? s.dev.tab.mac k = some m)) ∧
    (∃ (req : Nat) (m : FlowEntry) (s : State), (s.dev.tab.flowFifo = [] ∧ s.dev.ftMac req = false ∧ s.dev.on R.FT_STATUS_FT_READY = true) ∧ (SMap.get? s.dev.tab.flow (s.dev.rd R.FT_SLOT 0 0 req) = some m)) ∧
    (∃ (req : Nat) (s : State), (s.dev.tab.macFifo = [] ∧ s.dev.ftMac req = true ∧ s.dev.on R.FT_STATUS_MT_READY = false)) ∧
    (∃ (mac : Bool) (s : State), (3 ∉ s.dev.rst.active)) :=
  ⟨⟨4104, macSlot0, macState, by decide +kernel⟩,
   ⟨4104, macSlot0, macEmpty, by decide +kernel⟩,
   ⟨4104, macSlot0, macState, by decide +kernel⟩,
   ⟨4104, macEmpty, by decide +kernel⟩,
   ⟨4104, macSlot0, macEntry0, macState, by decide +kernel⟩,
   ⟨4104, { profile := 1, kl := 4, key := [], flags := 1, port := 2, queue := 0, cookie := 9 }, dev (fun d => { d.flag R.FT_STATUS_FT_READY with tab := { d.tab with flow := [(0, { profile := 1, kl := 4, key := [], flags := 1, port := 2, queue := 0, cookie := 9 })] } }), by decide +kernel⟩,
   ⟨4104, dev (fun d => d.wr R.FT_OPARG_TABLE 1 0 0 4104), by decide +kernel⟩,
   ⟨true, State.reset, by decide +kernel⟩⟩

/-- The hypotheses of `LearningAgeingAndPrefixes` can be met, clause by clause. -/
theorem witness_LearningAgeingAndPrefixes :
    (∃ (x : LearnReq (Nat × Nat)) (k : Nat) (m : MacEntry) (s : State), (learnFirst s.dev.tab.macFifo = some x) ∧ (x.tick < s.dev.tk.etick ∧ s.dev.on R.FT_STATUS_MT_READY = true) ∧ (s.dev.macFind x.key.1 x.key.2 = some k) ∧ (SMap.get? s.dev.tab.mac k = some m) ∧ (m.port = x.port)) ∧
    (∃ (x : LearnReq (Nat × Nat)) (s : State), (learnFirst s.dev.tab.macFifo = some x) ∧ (s.dev.tk.etick ≤ x.tick)) ∧
    (∃ (x : LearnReq (Nat × Nat × Bytes)) (k : Nat) (m : FlowEntry) (s : State), (learnFirst s.dev.tab.flowFifo = some x) ∧ (x.tick < s.dev.tk.etick ∧ s.dev.on R.FT_STATUS_FT_READY = true) ∧ (s.dev.flowFind x.key.1 x.key.2.1 x.key.2.2 = some k) ∧ (SMap.get? s.dev.tab.flow k = some m)) ∧
    (∃ (k : Nat) (m : MacEntry) (s : State), (s.dev.burnDue true k = true) ∧ (SMap.get? s.dev.tab.mac k = some m) ∧ (m.stat = false ∧ m.hit = true)) ∧
    (∃ (k : Nat) (m : MacEntry) (s : State), (s.dev.burnDue true k = true) ∧ (SMap.get? s.dev.tab.mac k = some m) ∧ (m.stat = false ∧ m.hit = false)) ∧
    (∃ (k : Nat) (m : FlowEntry) (s : State), (s.dev.burnDue false k = true) ∧ (SMap.get? s.dev.tab.flow k = some m) ∧ (bit m.flags fStatic = false ∧ bit m.flags fHit = false)) ∧
    (∃ (mac : Bool) (k : Nat) (s : State), (s.dev.burnDue mac k = false)) ∧
    (∃ (req hi ch idx : Nat) (s : State), (ch = s.dev.rd (chselField 0x03400000) 0 0 req ∧ ch < 9) ∧ (idx = s.dev.rd R.LPM_IDX ch 0 req ∧ idx < lpmPool ch) ∧ (ch ≠ 7)) ∧
    (∃ (req hi ch : Nat) (s : State), (ch = s.dev.rd (chselField 0x03400000) 0 0 req ∧ ch < 9) ∧ (lpmPool ch ≤ s.dev.rd R.LPM_IDX ch 0 req)) :=
  ⟨⟨⟨0, 0, 5, (0, 0)⟩, macSlot0, macEntry0, macLearn, by decide +kernel⟩,
   ⟨⟨0, 0, 5, (0, 0)⟩, dev (fun d => { d with tab := { d.tab with macFifo := [⟨0, 0, 5, (0, 0)⟩] } }), by decide +kernel⟩,
   ⟨⟨0, 0, 5, (1, 4, padTo 40 [])⟩, flowSlot0, { profile := 1, kl := 4, key := padTo 40 [], flags := 0, port := 2, queue := 0, cookie := 9 }, flowLearnState, by decide +kernel⟩,
   ⟨0, ⟨1, 1, 5, true, false, false, 0⟩, dev (fun d => { d with tab := { d.tab with mac := [(0, ⟨1, 1, 5, true, false, false, 0⟩)] } }), by decide +kernel⟩,
   ⟨0, ⟨1, 1, 5, false, false, false, 0⟩, dev (fun d => { d with tab := { d.tab with mac := [(0, ⟨1, 1, 5, false, false, false, 0⟩)] } }), by decide +kernel⟩,
   ⟨0, { profile := 1, kl := 4, key := [], flags := 0, port := 2, queue := 0, cookie := 9 }, dev (fun d => { d with tab := { d.tab with flow := [(0, { profile := 1, kl := 4, key := [], flags := 0, port := 2, queue := 0, cookie := 9 })] } }), by decide +kernel⟩,
   ⟨true, 5, State.reset, by decide +kernel⟩,
   ⟨4104, 7, 0, 0, State.reset, by decide +kernel⟩,
   ⟨4104, 7, 0, dev (fun d => d.wr R.LPM_IDX 2000000 0 0 4104), by decide +kernel⟩⟩

/-- The hypotheses of `RulesAreChangedInTheShadowBank` can be met, clause by clause. -/
theorem witness_RulesAreChangedInTheShadowBank :
    (∃ (req : Nat) (s : State), (s.dev.clRefused (s.dev.clTable req) (s.dev.clKl req) = true)) ∧
    (∃ (req : Nat) (s : State), (s.dev.clRefused (s.dev.clTable req) (s.dev.clKl req) = false) ∧ (s.dev.bankBusy = true)) ∧
    (∃ (req : Nat) (s : State), (s.dev.clRefused (s.dev.clTable req) (s.dev.clKl req) = true)) ∧
    (∃ (req : Nat) (s : State), (s.dev.clRefused (s.dev.clTable req) (s.dev.clKl req) = false) ∧ (s.dev.bankBusy = true)) ∧
    (∃ (req k : Nat) (s : State), (s.dev.clRefused (s.dev.clTable req) (s.dev.clKl req) = false) ∧ (s.dev.bankBusy = false) ∧ (s.dev.emFind s.dev.shadowBank (s.dev.clTable req) (s.dev.clProfile req) (s.dev.clKl req) (padTo (s.dev.emWidth s.dev.shadowBank (s.dev.clTable req)) (s.dev.clKey req)) = some k)) ∧
    (∃ (req k : Nat) (s : State), (s.dev.clRefused (s.dev.clTable req) (s.dev.clKl req) = false) ∧ (s.dev.bankBusy = false) ∧ (s.dev.emFind s.dev.shadowBank (s.dev.clTable req) (s.dev.clProfile req) (s.dev.clKl req) (padTo (s.dev.emWidth s.dev.shadowBank (s.dev.clTable req)) (s.dev.clKey req)) = none) ∧ (freeWay (s.dev.emRules s.dev.shadowBank (s.dev.clTable req)) (s.dev.emBuckets s.dev.shadowBank (s.dev.clTable req) (s.dev.clProfile req) (padTo (s.dev.emWidth s.dev.shadowBank (s.dev.clTable req)) (s.dev.clKey req))).1 = some k)) ∧
    (∃ (req k : Nat) (s : State), (s.dev.clRefused (s.dev.clTable req) (s.dev.clKl req) = false) ∧ (s.dev.bankBusy = false) ∧ (s.dev.emFind s.dev.shadowBank (s.dev.clTable req) (s.dev.clProfile req) (s.dev.clKl req) (s.dev.clKey req) = some k)) ∧
    (∃ (req : Nat) (s : State), (s.dev.clRefused (s.dev.clTable req) (s.dev.clKl req) = false) ∧ (s.dev.bankBusy = false) ∧ (s.dev.emFind s.dev.shadowBank (s.dev.clTable req) (s.dev.clProfile req) (s.dev.clKl req) (s.dev.clKey req) = none)) ∧
    (∃ (req k : Nat) (r : Rule) (s : State), (s.dev.clRefused (s.dev.clTable req) (s.dev.clKl req) = false) ∧ (s.dev.emFind s.dev.shadowBank (s.dev.clTable req) (s.dev.clProfile req) (s.dev.clKl req) (s.dev.clKey req) = some k) ∧ (SMap.get? (s.dev.emRules s.dev.shadowBank (s.dev.clTable req)) k = some r)) ∧
    (∃ (req : Nat) (s : State), (s.dev.clRefused (s.dev.clTable req) (s.dev.clKl req) = false) ∧ (s.dev.emFind s.dev.shadowBank (s.dev.clTable req) (s.dev.clProfile req) (s.dev.clKl req) (s.dev.clKey req) = none)) ∧
    (∃ (req v c : Nat) (s : State), (c = s.dev.rd (chselField 0x03200000) 0 0 req ∧ c < 256) ∧ (classBad ((s.dev.cbStaged c).getD 0 0) v = false)) ∧
    (∃ (req v c : Nat) (s : State), (c = s.dev.rd (chselField 0x03200000) 0 0 req ∧ c < 256) ∧ (classBad ((s.dev.cbStaged c).getD 0 0) v = true)) ∧
    (∃ (req n v : Nat) (s : State), (s.dev.bankBusy = false ∧ n < 8)) ∧
    (∃ (req n v : Nat) (s : State), (s.dev.bankBusy = false ∧ n < 8)) ∧
    (∃ (req n v : Nat) (sd : Bool) (s : State), (s.dev.bankBusy = true)) :=
  ⟨⟨4104, State.reset, by decide +kernel⟩,
   ⟨4104, (dev (fun d => (d.flag R.EM_GEOM_EN 1 0).wr R.CL_OPARG_KL 4 0 0 4104)).onDev (fun d => d.flag R.CL_BANK_SWAP_PENDING), by decide +kernel⟩,
   ⟨4104, State.reset, by decide +kernel⟩,
   ⟨4104, (dev (fun d => (d.flag R.EM_GEOM_EN 1 0).wr R.CL_OPARG_KL 4 0 0 4104)).onDev (fun d => d.flag R.CL_BANK_SWAP_PENDING), by decide +kernel⟩,
   ⟨4104, (4 * ((dev (fun d => (d.flag R.EM_GEOM_EN 1 0).wr R.CL_OPARG_KL 4 0 0 4104)).dev.emBuckets 1 0 0 []).1), (dev (fun d => (d.flag R.EM_GEOM_EN 1 0).wr R.CL_OPARG_KL 4 0 0 4104)).onDev (fun d => { d with cls := { d.cls with rules := [(8, [((4 * ((dev (fun d => (d.flag R.EM_GEOM_EN 1 0).wr R.CL_OPARG_KL 4 0 0 4104)).dev.emBuckets 1 0 0 []).1), { profile := 0, kl := 4, key := padTo 16 [], cls := 3, colour := 1, queue := 9 })])] } }), by decide +kernel⟩,
   ⟨4104, (4 * ((dev (fun d => (d.flag R.EM_GEOM_EN 1 0).wr R.CL_OPARG_KL 4 0 0 4104)).dev.emBuckets 1 0 0 []).1), dev (fun d => (d.flag R.EM_GEOM_EN 1 0).wr R.CL_OPARG_KL 4 0 0 4104), by decide +kernel⟩,
   ⟨4104, (4 * ((dev (fun d => (d.flag R.EM_GEOM_EN 1 0).wr R.CL_OPARG_KL 4 0 0 4104)).dev.emBuckets 1 0 0 []).1), (dev (fun d => (d.flag R.EM_GEOM_EN 1 0).wr R.CL_OPARG_KL 4 0 0 4104)).onDev (fun d => { d with cls := { d.cls with rules := [(8, [((4 * ((dev (fun d => (d.flag R.EM_GEOM_EN 1 0).wr R.CL_OPARG_KL 4 0 0 4104)).dev.emBuckets 1 0 0 []).1), { profile := 0, kl := 4, key := padTo 16 [], cls := 3, colour := 1, queue := 9 })])] } }), by decide +kernel⟩,
   ⟨4104, dev (fun d => (d.flag R.EM_GEOM_EN 1 0).wr R.CL_OPARG_KL 4 0 0 4104), by decide +kernel⟩,
   ⟨4104, (4 * ((dev (fun d => (d.flag R.EM_GEOM_EN 1 0).wr R.CL_OPARG_KL 4 0 0 4104)).dev.emBuckets 1 0 0 []).1), { profile := 0, kl := 4, key := padTo 16 [], cls := 3, colour := 1, queue := 9 }, (dev (fun d => (d.flag R.EM_GEOM_EN 1 0).wr R.CL_OPARG_KL 4 0 0 4104)).onDev (fun d => { d with cls := { d.cls with rules := [(8, [((4 * ((dev (fun d => (d.flag R.EM_GEOM_EN 1 0).wr R.CL_OPARG_KL 4 0 0 4104)).dev.emBuckets 1 0 0 []).1), { profile := 0, kl := 4, key := padTo 16 [], cls := 3, colour := 1, queue := 9 })])] } }), by decide +kernel⟩,
   ⟨4104, dev (fun d => (d.flag R.EM_GEOM_EN 1 0).wr R.CL_OPARG_KL 4 0 0 4104), by decide +kernel⟩,
   ⟨4104, 5, 0, dev (fun d => d.flag R.CB0_CAPTURE 0), by decide +kernel⟩,
   ⟨4104, 0, 0, dev (fun d => (d.flag R.CB0_SEQ 0).flag R.CB0_DROP 0), by decide +kernel⟩,
   ⟨4104, 0, 77, (dev (fun d => (d.flag R.EM_GEOM_EN 1 0).wr R.CL_OPARG_KL 4 0 0 4104)).onDev (fun d => { d with cls := { d.cls with rules := [(8, [((4 * ((dev (fun d => (d.flag R.EM_GEOM_EN 1 0).wr R.CL_OPARG_KL 4 0 0 4104)).dev.emBuckets 1 0 0 []).1), { profile := 0, kl := 4, key := padTo 16 [], cls := 3, colour := 1, queue := 9 })])] } }), by decide +kernel⟩,
   ⟨4104, 0, 77, (dev (fun d => (d.flag R.EM_GEOM_EN 1 0).wr R.CL_OPARG_KL 4 0 0 4104)).onDev (fun d => { d with cls := { d.cls with rules := [(8, [((4 * ((dev (fun d => (d.flag R.EM_GEOM_EN 1 0).wr R.CL_OPARG_KL 4 0 0 4104)).dev.emBuckets 1 0 0 []).1), { profile := 0, kl := 4, key := padTo 16 [], cls := 3, colour := 1, queue := 9 })])] } }), by decide +kernel⟩,
   ⟨4104, 0, 77, true, dev (fun d => d.flag R.CL_BANK_COPY_BUSY), by decide +kernel⟩⟩

/-- The hypotheses of `BanksAreSwappedCopiedAndCleared` can be met, clause by clause. -/
theorem witness_BanksAreSwappedCopiedAndCleared :
    (∃ (req v c : Nat) (s : State), (c = s.dev.rd (chselField 0x03100000) 0 0 req ∧ c < 16384) ∧ (s.dev.bankBusy = false ∧ v % 2 = 1) ∧ (s.dev.on R.AW_CTRL_VALID (awlChan s.dev.shadowBank c) = false) ∧ ((s.dev.awCtrl (awlChan s.dev.shadowBank c) v).awCause (awlChan s.dev.shadowBank c) = 0)) ∧
    (∃ (req v c : Nat) (s : State), (c = s.dev.rd (chselField 0x03100000) 0 0 req ∧ c < 16384) ∧ (s.dev.bankBusy = false ∧ v % 2 = 1) ∧ (s.dev.on R.AW_CTRL_VALID (awlChan s.dev.shadowBank c) = false) ∧ ((s.dev.awCtrl (awlChan s.dev.shadowBank c) v).awCause (awlChan s.dev.shadowBank c) ≠ 0)) ∧
    (∃ (req v c : Nat) (s : State), (c = s.dev.rd (chselField 0x03100000) 0 0 req ∧ c < 16384) ∧ (s.dev.bankBusy = false ∧ v % 2 = 0)) ∧
    (∃ (req : Nat) (s : State), (s.dev.swapCause = 0)) ∧
    (∃ (req : Nat) (s : State), (s.dev.swapCause ≠ 0)) ∧
    (∃ (s : State), (s.dev.on R.CL_BANK_OLD_BUSY = true)) ∧
    (∃ (req : Nat) (s : State), (s.dev.bankBusy = false)) ∧
    (∃ (req : Nat) (s : State), (s.dev.bankBusy = true)) ∧
    (∃ (s : State), (s.dev.on R.CL_BANK_COPY_BUSY = true) ∧ ((s.dev.regs.map (·.1)).Nodup)) ∧
    (∃ (req : Nat) (s : State), (s.dev.captBusy = false)) ∧
    (∃ (req : Nat) (s : State), (s.dev.captBusy = true)) ∧
    (∃ (req : Nat) (s : State), (s.dev.captBusy = false)) ∧
    (∃ (s : State), (s.dev.on R.CP_BANK_CLEAR_BUSY = true)) ∧
    (∃ (req : Nat) (k : Bytes) (s : State), (k = ((List.range 16).flatMap (fun i => leBytes 4 (s.dev.rd R.SK_QKEY 0 i req))).take (s.dev.rd R.SK_QARG_KL 0 0 req))) :=
  ⟨⟨4104, 33, 0, State.reset, by decide +kernel⟩,
   ⟨4104, 16769059, 0, State.reset, by decide +kernel⟩,
   ⟨4104, 32, 0, dev (fun d => d.flag R.AW_CTRL_VALID (awlChan 1 0)), by decide +kernel⟩,
   ⟨4104, State.reset, by decide +kernel⟩,
   ⟨4104, dev (fun d => d.flag R.CL_BANK_SWAP_PENDING), by decide +kernel⟩,
   ⟨dev (fun d => d.flag R.CL_BANK_OLD_BUSY), by decide +kernel⟩,
   ⟨4104, State.reset, by decide +kernel⟩,
   ⟨4104, dev (fun d => d.flag R.CL_BANK_OLD_BUSY), by decide +kernel⟩,
   ⟨dev (fun d => (d.flag R.CL_BANK_COPY_BUSY).wr R.PF_SEL2_ETYPE 5 3), by decide +kernel⟩,
   ⟨4104, State.reset, by decide +kernel⟩,
   ⟨4104, dev (fun d => d.flag R.CP_BANK_CLEAR_BUSY), by decide +kernel⟩,
   ⟨4104, State.reset, by decide +kernel⟩,
   ⟨dev (fun d => d.flag R.CP_BANK_CLEAR_BUSY), by decide +kernel⟩,
   ⟨4104, [], State.reset, by decide +kernel⟩⟩

/-- The hypotheses of `StreamsCloseAndStoreChunks` can be met, clause by clause. -/
theorem witness_StreamsCloseAndStoreChunks :
    (∃ (st : Nat) (l : LossRun) (s : State), ((s.dev.stream st).loss = some l) ∧ (64 ≤ s.dev.stageFree st) ∧ ((s.dev.stream st).chunk.bytes.length + (lossRecord l).length ≤ 131072)) ∧
    (∃ (st : Nat) (s : State), ((s.dev.stream st).loss = none ∨ s.dev.stageFree st < 64)) ∧
    (∃ (st : Nat) (s : State), ((s.dev.stream st).chunk.start + s.dev.rd R.CS_FLUSH st * 1000 < s.dev.cyc + 8) ∧ ((s.dev.stream st).chunk.records ≠ 0)) ∧
    (∃ (st : Nat) (s : State), (s.dev.cyc + 8 ≤ (s.dev.stream st).chunk.start + s.dev.rd R.CS_FLUSH st * 1000)) ∧
    (∃ (st : Nat) (rest : List Nat) (c : Chunk) (cs : List Chunk) (s : State), (s.dev.capt.order = st :: rest) ∧ ((s.dev.stream st).closed = c :: cs)) ∧
    (∃ (s : State), (s.dev.capt.order = [])) ∧
    (∃ (req st : Nat) (s : State), ((s.dev.stream st).chunk.records ≠ 0)) ∧
    (∃ (req st : Nat) (s : State), ((s.dev.stream st).chunk.records = 0 ∧ (s.dev.stream st).raw = 0)) :=
  ⟨⟨2, ⟨5, 6, 1⟩, dev (fun d => { d.wr R.CS_STAGE 1 2 with capt := { d.capt with streams := [(2, { loss := some ⟨5, 6, 1⟩ })] } }), by decide +kernel⟩,
   ⟨2, State.reset, by decide +kernel⟩,
   ⟨2, dev (fun d => { (d.wr R.CS_FLUSH 0 2) with capt := { d.capt with streams := [(2, { chunk := { bytes := [1#8, 2#8], records := 1 } })] } }), by decide +kernel⟩,
   ⟨2, dev (fun d => d.wr R.CS_FLUSH 5 2), by decide +kernel⟩,
   ⟨2, [], { bytes := [1#8, 2#8], records := 1 }, [], dev (fun d => { (d.wr R.CS_CTRL_COMPRESS 0 2) with capt := { d.capt with order := [2], streams := [(2, { closed := [{ bytes := [1#8, 2#8], records := 1 }] })] } }), by decide +kernel⟩,
   ⟨State.reset, by decide +kernel⟩,
   ⟨4104, 2, dev (fun d => { d.flag R.CS_CTRL_EN 2 with capt := { d.capt with streams := [(2, { chunk := { bytes := [1#8, 2#8], records := 1 } })] } }), by decide +kernel⟩,
   ⟨4104, 2, dev (fun d => d.flag R.CS_CTRL_EN 2), by decide +kernel⟩⟩

/-- The hypotheses of `FramesAreEnrolledAndTicksClose` can be met, clause by clause. -/
theorem witness_FramesAreEnrolledAndTicksClose :
    (∃ (p : Nat) (f : RxFrame) (s : State), (s.dev.seq.way.find? (fun f => f.src == p) = some f) ∧ (s.dev.seqHeld = false ∧ s.dev.enrols f = true) ∧ (s.dev.seq.next ≤ s.dev.tickOf f.stamp)) ∧
    (∃ (p : Nat) (f : RxFrame) (s : State), (s.dev.seq.way.find? (fun f => f.src == p) = some f) ∧ (s.dev.seqHeld = false ∧ s.dev.enrols f = true) ∧ (s.dev.tickOf f.stamp < s.dev.seq.next)) ∧
    (∃ (p : Nat) (f : RxFrame) (s : State), (s.dev.seq.way.find? (fun f => f.src == p) = some f) ∧ (s.dev.seqHeld = false ∧ s.dev.enrols f = false)) ∧
    (∃ (p : Nat) (s : State), (s.dev.seqHeld = true ∨ s.dev.seq.way.find? (fun f => f.src == p) = none)) ∧
    (∃ (s : State), (s.dev.rd R.SQ_STATUS_STATE = 1 ∧ s.dev.rd R.SQ_CTRL_CL_ROLE = 0 ∧ s.dev.rd R.SQ_GSN_NEXT < 2 ^ 64) ∧ (s.dev.tickReady = true ∧ s.dev.mustStall = false)) ∧
    (∃ (s : State), (s.dev.rd R.SQ_STATUS_STATE = 1) ∧ (s.dev.tickReady = true ∧ s.dev.mustStall = true)) ∧
    (∃ (s : State), (s.dev.tickReady = false)) ∧
    (∃ (n since : Nat) (l : List Nat) (s : State), (s.dev.seq.blocked = some (n, since, l)) ∧ (s.dev.rd R.SQ_STATUS_STATE = 1 ∨ s.dev.rd R.SQ_STATUS_STATE = 2) ∧ (n = s.dev.seq.next ∧ since + s.dev.rd R.SQ_STALL_LIMIT < s.dev.cyc + 8)) ∧
    (∃ (s : State), (s.dev.seq.blocked = none)) :=
  ⟨⟨2, { src := 2, bytes := [7#8] }, dev (fun d => { (d.wr R.SQ_ENROL 4).wr R.SQ_STATUS_STATE 1 with seq := { d.seq with way := [{ src := 2, bytes := [7#8] }] } }), by decide +kernel⟩,
   ⟨2, { src := 2, bytes := [7#8] }, dev (fun d => { (d.wr R.SQ_ENROL 4).wr R.SQ_STATUS_STATE 1 with seq := { d.seq with way := [{ src := 2, bytes := [7#8] }], next := 5 } }), by decide +kernel⟩,
   ⟨2, { src := 2, bytes := [7#8] }, dev (fun d => { d with seq := { d.seq with way := [{ src := 2, bytes := [7#8] }] } }), by decide +kernel⟩,
   ⟨2, State.reset, by decide +kernel⟩,
   ⟨dev (fun d => { { (((d.wr R.SQ_ENROL 4).wr R.SQ_STATUS_STATE 1).wr R.PT_STATUS_LSTATE 4 2).wr R.LG_MODE 5 0 0 with tb := { d.tb with t := 10 ^ 18 }, hbmc := { d.hbmc with journal := 1 } } with seq := { d.seq with ticks := [(0, [⟨{ src := 2, bytes := [7#8] }, 0, 0, false⟩])], wm := [(2, 10 ^ 12)] } }), by decide +kernel⟩,
   ⟨dev (fun d => { (((d.wr R.SQ_ENROL 4).wr R.SQ_STATUS_STATE 1).flag R.HD_STATUS_REBUILD) with tb := { d.tb with t := 10 ^ 18 } }), by decide +kernel⟩,
   ⟨State.reset, by decide +kernel⟩,
   ⟨0, 0, [2], dev (fun d => { ((d.wr R.SQ_ENROL 4).wr R.SQ_STATUS_STATE 1).wr R.SQ_STALL_LIMIT 1 with seq := { d.seq with blocked := some (0, 0, [2]) } }), by decide +kernel⟩,
   ⟨State.reset, by decide +kernel⟩⟩

/-- The hypotheses of `ClusterMembersAgreeWithTheirRoot` can be met, clause by clause. -/
theorem witness_ClusterMembersAgreeWithTheirRoot :
    (∃ (n : Nat) (b : Batch) (s : State), (SMap.get? s.dev.seq.batches n = some b) ∧ (b.last + 10000 < s.dev.cyc + 8)) ∧
    (∃ (n : Nat) (b : Batch) (s : State), (SMap.get? s.dev.seq.batches n = some b) ∧ (s.dev.cyc + 8 ≤ b.last + 10000)) ∧
    (∃ (n : Nat) (s : State), (SMap.get? s.dev.seq.batches n = none)) ∧
    (∃ (b : Bytes) (s : State), (s.dev.rd R.SQ_CTRL_CL_ROLE = 0)) ∧
    (∃ (b : Bytes) (s : State), (s.dev.rd R.SQ_CTRL_CL_ROLE = 2 ∧ s.dev.rd R.SQ_STATUS_STATE ≠ 0)) ∧
    (∃ (b : Bytes) (s : State), (s.dev.rd R.SQ_CTRL_CL_ROLE = 1 ∨ (s.dev.rd R.SQ_CTRL_CL_ROLE = 2 ∧ s.dev.rd R.SQ_STATUS_STATE = 0))) ∧
    (∃ (c : Nat) (s : State), (SMap.get? s.dev.seq.lastSum s.dev.seq.rootNext = some c) ∧ (s.dev.rd R.SQ_CTRL_CL_ROLE = 2 ∧ c + s.dev.rd R.SQ_CL_TIMEOUT < s.dev.cyc + 8)) ∧
    (∃ (s : State), (SMap.get? s.dev.seq.lastSum s.dev.seq.rootNext = none)) ∧
    (∃ (b : Bytes) (s : State), (s.dev.rd R.SQ_CTRL_CL_ROLE = 0)) ∧
    (∃ (b : Bytes) (s : State), (s.dev.rd R.SQ_CTRL_CL_ROLE ≠ 0) ∧ (SMap.get? s.dev.seq.batches (leNat (slice b 0 6)) = none)) ∧
    (∃ (b : Bytes) (x : Batch) (s : State), (s.dev.rd R.SQ_CTRL_CL_ROLE ≠ 0) ∧ (SMap.get? s.dev.seq.batches (leNat (slice b 0 6)) = some x) ∧ (s.dev.rd R.SQ_STATUS_STATE ≠ 2 ∧ s.dev.seq.stop = none)) ∧
    (∃ (n : Nat) (b : Batch) (s : State), (s.dev.rd R.SQ_STATUS_STATE = 1) ∧ ((n, b) ∈ s.dev.seq.batches) ∧ (b.first + 2 * s.dev.rd R.SQ_CL_TIMEOUT < s.dev.cyc + 8)) ∧
    (∃ (s : State), (s.dev.seq.batches = [])) :=
  ⟨⟨5, ⟨[], 0, 0⟩, dev (fun d => { { d with tk := { d.tk with etick := 20000 } } with seq := { d.seq with batches := [(5, ⟨[], 0, 0⟩)] } }), by decide +kernel⟩,
   ⟨5, ⟨[], 0, 0⟩, dev (fun d => { d with seq := { d.seq with batches := [(5, ⟨[], 0, 0⟩)] } }), by decide +kernel⟩,
   ⟨5, State.reset, by decide +kernel⟩,
   ⟨[], State.reset, by decide +kernel⟩,
   ⟨[], dev (fun d => (d.wr R.SQ_CTRL_CL_ROLE 2).wr R.SQ_STATUS_STATE 1), by decide +kernel⟩,
   ⟨[], dev (fun d => d.wr R.SQ_CTRL_CL_ROLE 1), by decide +kernel⟩,
   ⟨0, dev (fun d => { (d.wr R.SQ_CTRL_CL_ROLE 2).wr R.SQ_CL_TIMEOUT 1 with seq := { d.seq with lastSum := [(0, 0)], members := [(3, 1)] } }), by decide +kernel⟩,
   ⟨State.reset, by decide +kernel⟩,
   ⟨[], State.reset, by decide +kernel⟩,
   ⟨[], dev (fun d => d.wr R.SQ_CTRL_CL_ROLE 1), by decide +kernel⟩,
   ⟨[], ⟨[], 0, 0⟩, dev (fun d => { (d.wr R.SQ_CTRL_CL_ROLE 1).wr R.SQ_STATUS_STATE 4 with seq := { d.seq with batches := [(0, ⟨[], 0, 0⟩)] } }), by decide +kernel⟩,
   ⟨5, ⟨[], 0, 0⟩, dev (fun d => { (d.wr R.SQ_STATUS_STATE 1).wr R.SQ_CL_TIMEOUT 1 with seq := { d.seq with batches := [(5, ⟨[], 0, 0⟩)] } }), by decide +kernel⟩,
   ⟨State.reset, by decide +kernel⟩⟩

/-- The hypotheses of `RecordsAreSealedAndDrained` can be met, clause by clause. -/
theorem witness_RecordsAreSealedAndDrained :
    (∃ (r : Bytes) (rest : List Bytes) (s : State), (s.dev.seq.fifo = r :: rest) ∧ (s.dev.rd R.SQ_STATUS_STATE ≠ 2) ∧ (s.dev.inReset 0x16 = false ∧ s.dev.on R.HD_STATUS_REBUILD = false) ∧ (s.dev.hideFull = false ∧ s.dev.hide.gap = none) ∧ (recGap r = false ∧ s.dev.hide.recs.length < 1023)) ∧
    (∃ (r : Bytes) (rest : List Bytes) (s : State), (s.dev.seq.fifo = r :: rest) ∧ (s.dev.rd R.SQ_STATUS_STATE = 1) ∧ (s.dev.on R.SQ_CTRL_GAP_MODE = false) ∧ (s.dev.hideFull = true)) ∧
    (∃ (r : Bytes) (rest : List Bytes) (s : State), (s.dev.seq.fifo = r :: rest) ∧ (s.dev.rd R.SQ_STATUS_STATE ≠ 2) ∧ (s.dev.on R.SQ_CTRL_GAP_MODE = true) ∧ (s.dev.inReset 0x16 = false ∧ s.dev.on R.HD_STATUS_REBUILD = false) ∧ (s.dev.hideFull = true)) ∧
    (∃ (s : State), (s.dev.seq.fifo = []) ∧ (s.dev.rd R.SQ_STATUS_STATE ≠ 2)) ∧
    (∃ (s : State), (s.dev.rd R.SQ_STATUS_STATE = 1 ∨ s.dev.rd R.SQ_STATUS_STATE = 3) ∧ (s.dev.inReset 0x16 = false) ∧ (s.dev.hide.due < s.dev.cyc + 8) ∧ (s.dev.hide.recs ≠ [])) ∧
    (∃ (s : State), (s.dev.rd R.SQ_STATUS_STATE ≠ 2) ∧ (s.dev.rd R.SQ_STATUS_STATE = 0 ∨ s.dev.sealDue = false ∨ s.dev.inReset 0x16 = true)) ∧
    (∃ (b : Bytes) (rest : List Bytes) (s : State), (s.dev.hide.unsigned = b :: rest) ∧ (s.dev.enclUp = true ∧ s.dev.on R.EN_STATUS_SEAL_FAULT = false)) ∧
    (∃ (b : Bytes) (rest : List Bytes) (s : State), (s.dev.hide.unsigned = b :: rest) ∧ (s.dev.enclUp = true ∧ s.dev.on R.EN_STATUS_SEAL_FAULT = false)) ∧
    (∃ (rb : Bool) (s : State), (s.dev.hide.unsigned = [] ∨ s.dev.enclUp = false ∨ s.dev.on R.EN_STATUS_SEAL_FAULT = true)) ∧
    (∃ (s : State), (4 * 2 ^ 20 ≤ s.dev.ringFree ∧ s.dev.hide.unsigned.length ≤ 256) ∧ (s.dev.inReset 0x16 = false ∧ s.dev.on R.HD_STATUS_REBUILD = false) ∧ (s.dev.rd R.SQ_STATUS_STATE = 3 ∧ s.dev.seq.stop = none) ∧ (s.dev.hide.gap = none)) ∧
    (∃ (s : State), (s.dev.ringFree < 4 * 2 ^ 20)) ∧
    (∃ (s : State), (s.dev.inReset 0x16 = false) ∧ (s.dev.rd R.SQ_STATUS_STATE ≠ 2 ∧ s.dev.seq.stop = none ∧ s.dev.hide.gap = none)) ∧
    (∃ (s : State), (s.dev.inReset 0x16 = true)) ∧
    (∃ (g : HideSeg) (rest : List HideSeg) (s : State), (s.dev.hide.segs = g :: rest ∧ g.sent = true) ∧ (s.dev.rd R.SQ_STATUS_STATE ≠ 2 ∧ s.dev.seq.stop = none ∧ s.dev.hide.gap = none)) :=
  ⟨⟨(leBytes 8 5 ++ List.replicate 56 0#8), [], dev (fun d => { { d.wr R.SQ_STATUS_STATE 1 with hbmc := { d.hbmc with journal := 1 } } with seq := { d.seq with fifo := [(leBytes 8 5 ++ List.replicate 56 0#8)] } }), by decide +kernel⟩,
   ⟨(leBytes 8 5 ++ List.replicate 56 0#8), [], dev (fun d => { { d.wr R.SQ_STATUS_STATE 1 with hbmc := { d.hbmc with journal := 0 } } with seq := { d.seq with fifo := [(leBytes 8 5 ++ List.replicate 56 0#8)] } }), by decide +kernel⟩,
   ⟨(leBytes 8 5 ++ List.replicate 56 0#8), [], dev (fun d => { { (d.wr R.SQ_STATUS_STATE 1).flag R.SQ_CTRL_GAP_MODE with hbmc := { d.hbmc with journal := 0 } } with seq := { d.seq with fifo := [(leBytes 8 5 ++ List.replicate 56 0#8)] } }), by decide +kernel⟩,
   ⟨State.reset, by decide +kernel⟩,
   ⟨dev (fun d => { d.wr R.SQ_STATUS_STATE 1 with hide := { d.hide with recs := [(leBytes 8 5 ++ List.replicate 56 0#8)] } }), by decide +kernel⟩,
   ⟨State.reset, by decide +kernel⟩,
   ⟨[1#8], [], dev (fun d => { d.wr R.EN_STATUS_STATE 1 with hide := { d.hide with unsigned := [[1#8]] } }), by decide +kernel⟩,
   ⟨[1#8], [], dev (fun d => { d.wr R.EN_STATUS_STATE 1 with hide := { d.hide with unsigned := [[1#8]] } }), by decide +kernel⟩,
   ⟨true, State.reset, by decide +kernel⟩,
   ⟨dev (fun d => { d.wr R.SQ_STATUS_STATE 3 with hbmc := { d.hbmc with journal := 1 } }), by decide +kernel⟩,
   ⟨dev (fun d => { d with hbmc := { d.hbmc with journal := 0 } }), by decide +kernel⟩,
   ⟨dev (fun d => { d.flag R.HD_STATUS_REBUILD with hbmc := { d.hbmc with journal := 1 } }), by decide +kernel⟩,
   ⟨dev (fun d => { d with rst := { d.rst with active := [7] } }), by decide +kernel⟩,
   ⟨{ bytes := [], sent := true }, [], dev (fun d => { d with hide := { d.hide with segs := [{ bytes := [], sent := true }] } }), by decide +kernel⟩⟩

/-- The hypotheses of `FunctionsAreDisabledByTheirCauses` can be met, clause by clause. -/
theorem witness_FunctionsAreDisabledByTheirCauses :
    (∃ (fn : Nat) (s : State), (s.dev.fnPresent fn = true ∧ s.dev.on R.FN_STATUS_DISABLING fn = false)) ∧
    (∃ (fn : Nat) (s : State), (8 ≤ fn) ∧ (s.dev.fnPresent fn = true ∧ s.dev.on R.FN_STATUS_DISABLING fn = true)) ∧
    (∃ (fn : Nat) (s : State), (8 ≤ fn ∧ s.dev.fnPresent fn = false)) ∧
    (∃ (fn v : Nat) (s : State), (v ∈ s.dev.fnVfs fn) ∧ (s.dev.fnPresent v = true ∧ s.dev.on R.FN_STATUS_DISABLING v = false)) ∧
    (∃ (fn : Nat) (s : State), (s.dev.fnPresent fn = true ∧ s.dev.on R.FN_STATUS_DISABLING fn = false)) ∧
    (∃ (fn : Nat) (s : State), (s.dev.fnPresent fn = true ∧ s.dev.on R.FN_STATUS_DISABLING fn = false)) ∧
    (∃ (req fn : Nat) (s : State), (req = 0 ∨ isHart req = true) ∧ (s.dev.on R.FN_CTRL fn = false ∧ (s.dev.fnType fn = 2 → s.dev.unit 2 = true)) ∧ (s.dev.fnPresent fn = true ∧ s.dev.on R.FN_STATUS_DISABLING fn = false)) ∧
    (∃ (req fn : Nat) (s : State), (req ≠ 0 ∧ isHart req = false)) ∧
    (∃ (k : Nat) (s : State), (s.dev.hostReset = false ∧ k ≤ 1)) ∧
    (∃ (l k : Nat) (s : State), (s.dev.hostReset = true)) ∧
    (∃ (v w : Nat) (fl : Bool) (s : State), (s.dev.hostReset = false)) :=
  ⟨⟨1, dev (fun d => { d with host := { d.host with vfs := [0, 1, 0, 0, 0, 0, 0, 0], fns := [(1, { vfEn := 1 })] } }), by decide +kernel⟩,
   ⟨8, (dev (fun d => { d with host := { d.host with vfs := [0, 1, 0, 0, 0, 0, 0, 0], fns := [(1, { vfEn := 1 })] } })).onDev (fun d => d.flag R.FN_STATUS_DISABLING 8), by decide +kernel⟩,
   ⟨8, State.reset, by decide +kernel⟩,
   ⟨1, 8, dev (fun d => { d with host := { d.host with vfs := [0, 1, 0, 0, 0, 0, 0, 0], fns := [(1, { vfEn := 1 })] } }), by decide +kernel⟩,
   ⟨1, dev (fun d => d.flag R.FN_INFO_BME 1), by decide +kernel⟩,
   ⟨1, State.reset, by decide +kernel⟩,
   ⟨0, 1, State.reset, by decide +kernel⟩,
   ⟨3, 1, State.reset, by decide +kernel⟩,
   ⟨0, State.reset, by decide +kernel⟩,
   ⟨0, 0, dev (fun d => { d with rst := { d.rst with active := [2] } }), by decide +kernel⟩,
   ⟨3, 16, true, State.reset, by decide +kernel⟩⟩

/-- The hypotheses of `FunctionsReturnAndAnswer` can be met, clause by clause. -/
theorem witness_FunctionsReturnAndAnswer :
    (∃ (fn : Nat) (s : State), (s.dev.on R.FN_STATUS_DISABLING fn = true) ∧ (∀ r, r ∈ s.dev.host.reads → r.fn ≠ fn) ∧ ((s.dev.fn fn).step5 = 0 ∧ s.dev.linkPending (s.dev.fnLink fn) = [])) ∧
    (∃ (fn : Nat) (s : State), (s.dev.on R.FN_STATUS_DISABLING fn = true) ∧ (∀ r, r ∈ s.dev.host.reads → r.fn ≠ fn) ∧ ((s.dev.fn fn).step5 = 1 ∧ 8 ≤ fn)) ∧
    (∃ (fn : Nat) (r : HostRead) (s : State), (r ∈ s.dev.host.reads ∧ r.fn = fn)) ∧
    (∃ (fn : Nat) (s : State), (s.dev.hostReset = false ∧ s.dev.fnHeld fn = false)) ∧
    (∃ (fn : Nat) (s : State), (s.dev.fnHeld fn = true)) ∧
    (∃ (fn : Nat) (op : ConfigOp) (s : State), (s.dev.on R.BT_STATUS_DONE = false) ∧ (s.dev.rd R.BT_STATUS_BOOT_ERR = 0)) ∧
    (∃ (fn : Nat) (s : State), (s.dev.hostReset = false) ∧ (s.dev.on R.BT_STATUS_DONE = true ∧ s.dev.rst.booting = false) ∧ (s.dev.fnPresent fn = true)) ∧
    (∃ (fn : Nat) (s : State), (s.dev.hostReset = false) ∧ (s.dev.on R.BT_STATUS_DONE = true ∧ s.dev.rst.booting = false) ∧ (s.dev.fnPresent fn = true)) ∧
    (∃ (fn n : Nat) (s : State), (s.dev.hostReset = false) ∧ (s.dev.on R.BT_STATUS_DONE = true ∧ s.dev.rst.booting = false) ∧ (s.dev.fnPresent fn = true ∧ fn < 8 ∧ n ≤ s.dev.host.vfs.getD fn 0)) ∧
    (∃ (fn : Nat) (s : State), (s.dev.inService fn = true ∧ s.dev.hostReset = false ∧ s.dev.on R.FN_INFO_MSIX_EN fn = true)) ∧
    (∃ (fn v : Nat) (b : Bytes) (s : State), (s.dev.inService fn = true ∧ v < s.dev.msixSize fn) ∧ ((s.dev.fn fn).pba = [])) ∧
    (∃ (req fn i v : Nat) (s : State), (devSpace req = true ∧ fn < s.dev.fnNum ∧ (s.dev.fnType fn = 2 → s.dev.unit 2 = true) ∧ i < 6) ∧ (s.dev.allocCause fn ((s.dev.fnAlloc fn).set i (v % 2 ^ (allocFields.getD i R.FN_RING_BASE).width)) = 0)) ∧
    (∃ (req fn i v : Nat) (s : State), (devSpace req = true ∧ fn < s.dev.fnNum ∧ (s.dev.fnType fn = 2 → s.dev.unit 2 = true) ∧ i < 6) ∧ (s.dev.allocCause fn ((s.dev.fnAlloc fn).set i (v % 2 ^ (allocFields.getD i R.FN_RING_BASE).width)) ≠ 0)) ∧
    (∃ (id : Nat) (r : HostRead) (s : State), (s.dev.host.reads.find? (fun x => x.id == id) = some r) ∧ (s.dev.inService r.fn = false ∧ (s.dev.fn r.fn).since + 625000 ≤ s.dev.tk.etick)) ∧
    (∃ (id l : Nat) (ok : Bool) (b : Bytes) (s : State), (SMap.get? s.dev.host.retired id = some l)) ∧
    (∃ (id : Nat) (ok : Bool) (b : Bytes) (r : HostRead) (s : State), (SMap.get? s.dev.host.retired id = none) ∧ (s.dev.host.reads.find? (fun x => x.id == id) = some r) ∧ (s.dev.inService r.fn = false)) ∧
    (∃ (id : Nat) (ok : Bool) (b : Bytes) (r : HostRead) (s : State), (SMap.get? s.dev.host.retired id = none) ∧ (s.dev.host.reads.find? (fun x => x.id == id) = some r) ∧ (s.dev.inService r.fn = true)) :=
  ⟨⟨1, dev (fun d => d.flag R.FN_STATUS_DISABLING 1), by decide +kernel⟩,
   ⟨8, dev (fun d => { d.flag R.FN_STATUS_DISABLING 8 with host := { d.host with fns := [(8, { step5 := 1 })] } }), by decide +kernel⟩,
   ⟨1, { id := 5, fn := 1, what := .tx 0 0 0, addr := 0, len := 64, tick := 0 }, dev (fun d => { d with host := { d.host with reads := [{ id := 5, fn := 1, what := .tx 0 0 0, addr := 0, len := 64, tick := 0 }] } }), by decide +kernel⟩,
   ⟨1, dev (fun d => (d.flag R.FN_INFO_BME 1).flag R.PC_LINK_UP), by decide +kernel⟩,
   ⟨1, State.reset, by decide +kernel⟩,
   ⟨1, .d0, State.reset, by decide +kernel⟩,
   ⟨1, dev (fun d => d.flag R.BT_STATUS_DONE), by decide +kernel⟩,
   ⟨1, dev (fun d => d.flag R.BT_STATUS_DONE), by decide +kernel⟩,
   ⟨1, 1, (dev (fun d => { d with host := { d.host with vfs := [0, 1, 0, 0, 0, 0, 0, 0], fns := [(1, { vfEn := 1 })] } })).onDev (fun d => d.flag R.BT_STATUS_DONE), by decide +kernel⟩,
   ⟨1, (dev (fun d => d.flag R.FN_INFO_MSIX_EN 1)).onDev (fun d => d.setFn 1 (fun f => { f with mask := true, pba := [0, 1], table := [(0, [5#8])] })), by decide +kernel⟩,
   ⟨1, 3, [], State.reset, by decide +kernel⟩,
   ⟨0, 1, 1, 64, State.reset, by decide +kernel⟩,
   ⟨0, 1, 1, 65537, State.reset, by decide +kernel⟩,
   ⟨5, { id := 5, fn := 1, what := .tx 0 0 0, addr := 0, len := 64, tick := 0 }, dev (fun d => { d with tk := { d.tk with etick := 625000 }, fnOut := [1], host := { d.host with reads := [{ id := 5, fn := 1, what := .tx 0 0 0, addr := 0, len := 64, tick := 0 }] } }), by decide +kernel⟩,
   ⟨5, 0, true, [], dev (fun d => { d with host := { d.host with retired := [(5, 0)] } }), by decide +kernel⟩,
   ⟨5, true, [], { id := 5, fn := 1, what := .tx 0 0 0, addr := 0, len := 64, tick := 0 }, dev (fun d => { d with fnOut := [1], host := { d.host with reads := [{ id := 5, fn := 1, what := .tx 0 0 0, addr := 0, len := 64, tick := 0 }] } }), by decide +kernel⟩,
   ⟨5, true, [], { id := 5, fn := 1, what := .tx 0 0 0, addr := 0, len := 64, tick := 0 }, dev (fun d => { d with host := { d.host with reads := [{ id := 5, fn := 1, what := .tx 0 0 0, addr := 0, len := 64, tick := 0 }] } }), by decide +kernel⟩⟩

/-- The hypotheses of `RingsTakeDoorbellsAndDeliver` can be met, clause by clause. -/
theorem witness_RingsTakeDoorbellsAndDeliver :
    (∃ (fn loc v : Nat) (s : State), (s.dev.inService fn = true) ∧ (s.dev.rd R.FN_RING_COUNT fn ≤ loc ∨ s.dev.on R.RG_CTRL_ENABLE (s.dev.rd R.FN_RING_BASE fn + loc) = false)) ∧
    (∃ (req r : Nat) (s : State), (s.dev.ringReach req r = true) ∧ (s.dev.on R.RG_CFG_PFMODE r = true)) ∧
    (∃ (req r : Nat) (s : State), (s.dev.ringReach req r = true) ∧ (s.dev.on R.RG_CTRL_ENABLE r = false ∧ s.dev.ringCause r = 0)) ∧
    (∃ (req r : Nat) (s : State), (s.dev.ringReach req r = true) ∧ (s.dev.on R.RG_CTRL_ENABLE r = false ∧ s.dev.ringCause r ≠ 0)) ∧
    (∃ (r : Nat) (b : Bytes) (s : State), (s.dev.txReady r = true) ∧ (txWork (s.dev.ringKept r) = .job [b]) ∧ (le16 b 8 ≠ 0)) ∧
    (∃ (r k : Nat) (s : State), (s.dev.txReady r = true) ∧ (txWork (s.dev.ringKept r) = .bad k) ∧ (s.dev.on R.RG_STATUS_ERR r = false)) ∧
    (∃ (r : Nat) (x : TxDone) (xs : List TxDone) (j : Job) (s : State), (s.dev.rein.done = x :: xs) ∧ (s.dev.jobRing x.job = some r ∧ (s.dev.ring r).jobs = [j] ∧ j.id = x.job) ∧ (j.cap = none)) ∧
    (∃ (s : State), (s.dev.rein.done = [])) ∧
    (∃ (r c : Nat) (b : Bytes) (w : WaitState) (s : State), (s.dev.txReady r = true) ∧ (txWork (s.dev.ringKept r) = .wait b) ∧ (w = { qp := bit (le32 b 0) 31, target := le32 b 0 % 2 ^ 23, thresh := le32 b 4, timeout := le32 b 8, start := s.dev.cyc }) ∧ (s.dev.waitCount ((s.dev.ringOwner r).getD 0) w = some c ∧ waitMet c w.thresh = false)) ∧
    (∃ (r : Nat) (b : Bytes) (w : WaitState) (s : State), (s.dev.txReady r = true ∧ s.dev.on R.RG_STATUS_ERR r = false) ∧ (txWork (s.dev.ringKept r) = .wait b) ∧ (w = { qp := bit (le32 b 0) 31, target := le32 b 0 % 2 ^ 23, thresh := le32 b 4, timeout := le32 b 8, start := s.dev.cyc }) ∧ (s.dev.waitCount ((s.dev.ringOwner r).getD 0) w = none)) ∧
    (∃ (r fn : Nat) (x : RxItem) (xs : List RxItem) (b : Bytes) (s : State), (SMap.getD s.dev.host.rx r [] = x :: xs ∧ x.bytes ≠ []) ∧ (s.dev.ringOwner r = some fn ∧ s.dev.inService fn = true ∧ s.dev.on R.RG_CTRL_ENABLE r = true ∧ s.dev.hostReset = false) ∧ (takeBufs x.bytes.length (bufJobs 1 (s.dev.ringKept r) 0 []).1 = some [[(b, x.bytes.length)]]) ∧ (descNotify b = false ∧ s.dev.on R.RG_CFG_NOTIFY_ALL r = false)) ∧
    (∃ (r fn : Nat) (x : RxItem) (xs : List RxItem) (s : State), (SMap.getD s.dev.host.rx r [] = x :: xs) ∧ (s.dev.ringOwner r = some fn ∧ s.dev.inService fn = true ∧ s.dev.on R.RG_CTRL_ENABLE r = true) ∧ (s.dev.ringUsable r = 0 ∧ x.bytes ≠ [])) ∧
    (∃ (r : Nat) (x : RxItem) (xs : List RxItem) (s : State), (SMap.getD s.dev.host.rx r [] = x :: xs) ∧ (s.dev.on R.RG_CTRL_ENABLE r = false)) ∧
    (∃ (n : Nat) (b : Bytes) (e : Dev) (s : State), (s.dev.rd R.CS_CTRL_DEST n = 1) ∧ ((s.dev.stream n).segs[(s.dev.stream n).sent]? = some b) ∧ (s.dev.drainTo (s.dev.rd R.CS_TARGET n) 1 b = some e ∧ e.host.segs ≠ s.dev.host.segs)) ∧
    (∃ (s : State), (s.dev.rd R.HD_DRAIN ≠ 1)) ∧
    (∃ (req r : Nat) (s : State), (s.dev.ringReach req r = true) ∧ (s.dev.on R.RG_CTRL_ENABLE r = true ∧ s.dev.rd R.RG_CFG_TYPE r ≠ 0 ∧ s.dev.ringKept r = [])) ∧
    (∃ (req r : Nat) (s : State), (s.dev.ringReach req r = true) ∧ (s.dev.on R.RG_CTRL_ENABLE r = true ∧ s.dev.rd R.RG_CFG_TYPE r = 0)) ∧
    (∃ (r : Nat) (s : State), (s.dev.ringDone r = true)) ∧
    (∃ (r : Nat) (s : State), (s.dev.ringDone r = false)) :=
  ⟨⟨1, 0, 300, State.reset, by decide +kernel⟩,
   ⟨0, 3, dev (fun d => d.flag R.RG_CFG_PFMODE 3), by decide +kernel⟩,
   ⟨0, 3, (ringState 0 []).onDev (fun d => (d.wr R.RG_CTRL_ENABLE 0 3).flag R.RG_STATUS_IDLE 3), by decide +kernel⟩,
   ⟨0, 3, State.reset, by decide +kernel⟩,
   ⟨3, (leBytes 8 0 ++ leBytes 4 64 ++ List.replicate 48 0#8 ++ [1#8, 3#8, 0#8, 0#8]), ringState 0 (leBytes 8 0 ++ leBytes 4 64 ++ List.replicate 48 0#8 ++ [1#8, 3#8, 0#8, 0#8]), by decide +kernel⟩,
   ⟨3, 0, ringState 0 (leBytes 8 0 ++ leBytes 4 64 ++ List.replicate 48 0#8 ++ [2#8, 3#8, 0#8, 0#8]), by decide +kernel⟩,
   ⟨3, ⟨4, 0, 0, 0⟩, [], { id := 4, first := 0, descs := [[]] }, (ringState 0 []).onDev (fun d => { (d.setRing 3 (fun x => { x with jobs := [{ id := 4, first := 0, descs := [[]] }] })) with rein := { d.rein with done := [⟨4, 0, 0, 0⟩] } }), by decide +kernel⟩,
   ⟨State.reset, by decide +kernel⟩,
   ⟨3, 0, (leBytes 4 0 ++ leBytes 4 1 ++ List.replicate 52 0#8 ++ [3#8, 3#8]), ⟨false, 0, 1, 0, 0⟩, ringState 0 (leBytes 4 0 ++ leBytes 4 1 ++ List.replicate 52 0#8 ++ [3#8, 3#8]), by decide +kernel⟩,
   ⟨3, (leBytes 4 9 ++ leBytes 4 1 ++ List.replicate 52 0#8 ++ [3#8, 3#8]), ⟨false, 9, 1, 0, 0⟩, ringState 0 (leBytes 4 9 ++ leBytes 4 1 ++ List.replicate 52 0#8 ++ [3#8, 3#8]), by decide +kernel⟩,
   ⟨3, 1, { bytes := [7#8], len := 64 }, [], (leBytes 8 0 ++ leBytes 4 64 ++ List.replicate 48 0#8 ++ [2#8, 3#8, 0#8, 0#8]), (ringState 1 (leBytes 8 0 ++ leBytes 4 64 ++ List.replicate 48 0#8 ++ [2#8, 3#8, 0#8, 0#8])).onDev (fun d => d.rxQueue 3 { bytes := [7#8], len := 64 }), by decide +kernel⟩,
   ⟨3, 1, { bytes := [7#8], len := 64 }, [], (ringState 1 []).onDev (fun d => d.rxQueue 3 { bytes := [7#8], len := 64 }), by decide +kernel⟩,
   ⟨3, { bytes := [7#8], len := 64 }, [], dev (fun d => d.rxQueue 3 { bytes := [7#8], len := 64 }), by decide +kernel⟩,
   ⟨2, [7#8], ((drainState.dev.drainTo 3 1 [7#8]).getD drainState.dev), drainState, by decide +kernel⟩,
   ⟨State.reset, by decide +kernel⟩,
   ⟨0, 3, ringState 1 [], by decide +kernel⟩,
   ⟨0, 3, ringState 0 [], by decide +kernel⟩,
   ⟨3, State.reset, by decide +kernel⟩,
   ⟨3, ringState 0 [], by decide +kernel⟩⟩

/-- The hypotheses of `AnIndexWriteIsAcceptedOrRefused` can be met, clause by clause. -/
theorem witness_AnIndexWriteIsAcceptedOrRefused :
    (∃ (req q v : Nat) (s : State), (s.dev.eqReach req q = true) ∧ (v % 2 ^ 17 < lapMod (s.dev.eqN q)) ∧ (lapSub (s.dev.eqN q) (s.dev.rd R.EQ_PI q) (v % 2 ^ 17) ≤ lapSub (s.dev.eqN q) (s.dev.rd R.EQ_PI q) (s.dev.rd R.EQ_CI q))) ∧
    (∃ (req q v : Nat) (s : State), (s.dev.eqReach req q = true) ∧ (lapMod (s.dev.eqN q) ≤ v % 2 ^ 17 ∨ lapSub (s.dev.eqN q) (s.dev.rd R.EQ_PI q) (s.dev.rd R.EQ_CI q) < lapSub (s.dev.eqN q) (s.dev.rd R.EQ_PI q) (v % 2 ^ 17))) :=
  ⟨⟨0, 5, 1, dev (fun d => d.wr R.EQ_PI 2 5), by decide +kernel⟩,
   ⟨0, 5, 3, dev (fun d => d.wr R.EQ_PI 2 5), by decide +kernel⟩⟩

/-- The hypotheses of `EventQueuesRunAndCatchUp` can be met, clause by clause. -/
theorem witness_EventQueuesRunAndCatchUp :
    (∃ (req q : Nat) (s : State), (s.dev.eqReach req q = true) ∧ (s.dev.on R.EQ_CTRL_ENABLE q = false ∧ s.dev.eqCause q = 0)) ∧
    (∃ (req q : Nat) (s : State), (s.dev.eqReach req q = true) ∧ (s.dev.on R.EQ_CTRL_ENABLE q = false ∧ s.dev.eqCause q ≠ 0)) ∧
    (∃ (req q : Nat) (s : State), (s.dev.eqReach req q = true)) ∧
    (∃ (req q c : Nat) (s : State), (s.dev.eqReach req q = true ∧ s.dev.hostReset = false ∧ s.dev.on R.EQ_CTRL_ENABLE q = true ∧ s.dev.on R.EQ_CTRL_INT_EN q = false) ∧ (c < lapMod (s.dev.eqN q) ∧ c < 2 ^ 17 ∧ lapSub (s.dev.eqN q) (s.dev.rd R.EQ_PI q) c ≤ lapSub (s.dev.eqN q) (s.dev.rd R.EQ_PI q) (s.dev.rd R.EQ_CI q)) ∧ (lapSub (s.dev.eqN q) (s.dev.rd R.EQ_PI q) c ≠ 2 ^ s.dev.eqN q) ∧ (s.dev.on R.EQ_STATUS_OVF_PENDING q = true ∧ s.dev.eqWaiters q = []) ∧ ((s.dev.eqOwner q).getD 0 ∉ s.dev.fnOut)) ∧
    (∃ (q : Nat) (x : EqTimer) (s : State), (SMap.get? s.dev.host.timers q = some x) ∧ (x.due < 8 * s.dev.tk.etick + 8 ∧ x.wrote = false)) ∧
    (∃ (q : Nat) (x : EqTimer) (s : State), (SMap.get? s.dev.host.timers q = some x) ∧ (x.due < 8 * s.dev.tk.etick + 8 ∧ x.wrote = true)) ∧
    (∃ (q : Nat) (s : State), (SMap.get? s.dev.host.timers q = none)) :=
  ⟨⟨0, 5, dev (fun d => (d.wr R.FN_EQ_BASE 5 1).wr R.FN_EQ_COUNT 1 1), by decide +kernel⟩,
   ⟨0, 5, State.reset, by decide +kernel⟩,
   ⟨0, 5, dev (fun d => d.flag R.EQ_CTRL_ENABLE 5), by decide +kernel⟩,
   ⟨0, 5, 1, dev (fun d => (((d.flag R.EQ_CTRL_ENABLE 5).wr R.EQ_PI 64 5).flag R.EQ_STATUS_OVF_PENDING 5).wr R.EQ_OVF 9 5), by decide +kernel⟩,
   ⟨5, ⟨0, false⟩, dev (fun d => { d with host := { d.host with timers := [(5, ⟨0, false⟩)] } }), by decide +kernel⟩,
   ⟨5, ⟨0, true⟩, dev (fun d => { d with host := { d.host with timers := [(5, ⟨0, true⟩)] } }), by decide +kernel⟩,
   ⟨5, State.reset, by decide +kernel⟩⟩

/-- The hypotheses of `DoorbellsMoveTheProducerIndex` can be met, clause by clause. -/
theorem witness_DoorbellsMoveTheProducerIndex :
    (∃ (fn loc v r : Nat) (s : State), (s.dev.inService fn = true ∧ loc < s.dev.rd R.FN_RING_COUNT fn) ∧ (r = s.dev.rd R.FN_RING_BASE fn + loc) ∧ (s.dev.on R.RG_CTRL_ENABLE r = true) ∧ (s.dev.on R.RG_STATUS_ERR r = true ∨ v % 2 ^ 17 = s.dev.rd R.RG_PI r)) ∧
    (∃ (fn loc v r : Nat) (s : State), (s.dev.inService fn = true ∧ loc < s.dev.rd R.FN_RING_COUNT fn) ∧ (r = s.dev.rd R.FN_RING_BASE fn + loc) ∧ (s.dev.on R.RG_CTRL_ENABLE r = true) ∧ (s.dev.on R.RG_STATUS_ERR r = false) ∧ (v % 2 ^ 17 < lapMod (s.dev.ringN r) ∧ lapSub (s.dev.ringN r) (v % 2 ^ 17) (s.dev.rd R.RG_PI r) ≤ 2 ^ s.dev.ringN r - lapSub (s.dev.ringN r) (s.dev.rd R.RG_PI r) (s.dev.rd R.RG_CI r))) ∧
    (∃ (fn loc v r : Nat) (s : State), (s.dev.inService fn = true ∧ loc < s.dev.rd R.FN_RING_COUNT fn) ∧ (r = s.dev.rd R.FN_RING_BASE fn + loc) ∧ (s.dev.on R.RG_CTRL_ENABLE r = true) ∧ (s.dev.on R.RG_STATUS_ERR r = false ∧ v % 2 ^ 17 ≠ s.dev.rd R.RG_PI r) ∧ (lapMod (s.dev.ringN r) ≤ v % 2 ^ 17 ∨ 2 ^ s.dev.ringN r - lapSub (s.dev.ringN r) (s.dev.rd R.RG_PI r) (s.dev.rd R.RG_CI r) < lapSub (s.dev.ringN r) (v % 2 ^ 17) (s.dev.rd R.RG_PI r))) :=
  ⟨⟨1, 0, 0, 3, ringState 0 [], by decide +kernel⟩,
   ⟨1, 0, 9, 3, ringState 0 [], by decide +kernel⟩,
   ⟨1, 0, 300, 3, ringState 0 [], by decide +kernel⟩⟩

/-- The hypotheses of `RegionsAndQueuePairsAreSetUp` can be met, clause by clause. -/
theorem witness_RegionsAndQueuePairsAreSetUp :
    (∃ (req k : Nat) (v : Bool) (s : State), (s.dev.mrReach req v = true) ∧ (0 < s.dev.rd R.MR_LEN 0 0 req ∧ s.dev.rd R.MR_LEN 0 0 req ≤ 2 ^ 40 ∧ s.dev.rd R.MR_ADDR 0 0 req + s.dev.rd R.MR_LEN 0 0 req ≤ 2 ^ 64) ∧ ((s.dev.ira.mr.filter (fun e => e.2.fn == s.dev.mrFn req v)).length < s.dev.mrQuota (s.dev.mrFn req v)) ∧ (k < 262144 ∧ SMap.has s.dev.ira.mr k = false)) ∧
    (∃ (req : Nat) (v : Bool) (s : State), (s.dev.mrReach req v = true) ∧ (s.dev.rd R.MR_LEN 0 0 req = 0)) ∧
    (∃ (req : Nat) (v : Bool) (m : MemRegion) (s : State), (s.dev.mrReach req v = true) ∧ (s.dev.mrMine req v = some m)) ∧
    (∃ (req : Nat) (v : Bool) (s : State), (s.dev.mrReach req v = true) ∧ (s.dev.mrMine req v = none)) ∧
    (∃ (req : Nat) (v : Bool) (m : MemRegion) (s : State), (s.dev.mrReach req v = true) ∧ (s.dev.mrMine req v = some m)) ∧
    (∃ (req q fn : Nat) (s : State), (s.dev.qpReach req q = true) ∧ (s.dev.qpOwner q = some fn ∧ s.dev.qpState q = 0) ∧ (s.dev.qpCause q fn = 0)) ∧
    (∃ (req q fn : Nat) (s : State), (s.dev.qpReach req q = true) ∧ (s.dev.qpOwner q = some fn ∧ s.dev.qpState q = 0) ∧ (s.dev.qpCause q fn ≠ 0)) ∧
    (∃ (req q : Nat) (s : State), (s.dev.qpReach req q = true) ∧ (s.dev.qpState q ≠ 0) ∧ ((s.dev.qp q).jobs = [] ∧ s.dev.wqPosted wqSq q = 0 ∧ s.dev.wqPosted wqRq q = 0)) ∧
    (∃ (req q : Nat) (s : State), (s.dev.qpReach req q = true) ∧ (s.dev.qpReady q = true)) ∧
    (∃ (req q : Nat) (s : State), (s.dev.qpReach req q = true) ∧ (s.dev.on R.IQ_CTRL_PIN q = false ∧ (s.dev.regs.chans R.IQ_CTRL_PIN).length < 8192)) ∧
    (∃ (req q : Nat) (s : State), (s.dev.qpReach req q = true) ∧ (s.dev.on R.IQ_CTRL_PIN q = true)) ∧
    (∃ (req hi q : Nat) (rq : Bool) (s : State), (s.dev.iraOn = true ∧ devSpace req = true) ∧ (q = s.dev.rd R.IQ_DB_LO_QP 0 0 req ∧ rq = s.dev.on R.IQ_DB_LO_QUEUE 0 0 req) ∧ (s.dev.qpReady q = true) ∧ (hi % 2 ^ 17 < lapMod (s.dev.wqN (wqOf rq) q) ∧ lapSub (s.dev.wqN (wqOf rq) q) (hi % 2 ^ 17) (s.dev.rd (wqOf rq).pi q) ≤ 2 ^ s.dev.wqN (wqOf rq) q - lapSub (s.dev.wqN (wqOf rq) q) (s.dev.rd (wqOf rq).pi q) (s.dev.rd (wqOf rq).ci q))) ∧
    (∃ (req hi q : Nat) (s : State), (s.dev.iraOn = true ∧ devSpace req = true) ∧ (q = s.dev.rd R.IQ_DB_LO_QP 0 0 req) ∧ (s.dev.qpState q = 0)) ∧
    (∃ (q i : Nat) (b : Bytes) (x : QpState) (s : State), (s.dev.iraOn = true ∧ s.dev.wqMayFetch false q i = true ∧ s.dev.qpReady q = true) ∧ (s.dev.qp q = x ∧ x.held = [] ∧ x.jobs = [] ∧ x.ctl = [] ∧ x.again = [] ∧ x.ready = [])) ∧
    (∃ (r i fn : Nat) (b : Bytes) (s : State), (s.dev.ringOwner r = some fn ∧ s.dev.inService fn = true ∧ s.dev.mayFetch r i = true ∧ s.dev.on R.RG_CTRL_ENABLE r = true)) ∧
    (∃ (q : Nat) (x : QpState) (s : State), (s.dev.ira.fetching.contains q = true ∧ s.dev.ira.fetchWait = []) ∧ (s.dev.ira.cached.length < 65536 ∧ (∀ y, y ∈ s.dev.ira.cmb → y.1 ≠ q)) ∧ (s.dev.qp q = x ∧ x.held = [] ∧ x.jobs = [] ∧ x.ctl = [] ∧ x.again = [] ∧ x.ready = [])) ∧
    (∃ (q : Nat) (s : State), (s.dev.ira.fetching.contains q = false)) ∧
    (∃ (q p c : Nat) (s : State), (SMap.get? (s.dev.qp q).degraded p = some c ∧ c < s.dev.cyc + 8) ∧ (p < 16)) ∧
    (∃ (r c : Nat) (j : Job) (w : WaitState) (s : State), ((s.dev.ring r).jobs = [j] ∧ j.wait = some w ∧ j.status = none) ∧ (s.dev.waitCount ((s.dev.ringOwner r).getD 0) w = some c ∧ waitMet c w.thresh = true)) ∧
    (∃ (q c : Nat) (j : IraJob) (w : WaitState) (s : State), ((s.dev.qp q).jobs = [j] ∧ j.wait = some w ∧ j.status = none) ∧ (s.dev.sqWaitCount q w j.inbound = some c ∧ waitMet c w.thresh = true)) ∧
    (∃ (r : Nat) (j : Job) (w : WaitState) (s : State), ((s.dev.ring r).jobs = [j] ∧ j.wait = some w ∧ j.status = none) ∧ (w.timeout ≠ 0 ∧ w.start + w.timeout * 1000 < s.dev.cyc + 8)) ∧
    (∃ (r : Nat) (sq : Bool) (s : State), (s.dev.waiting? r = none ∧ s.dev.sqWaiting r = none)) :=
  ⟨⟨0, 0, false, dev (fun d => d.wr R.MR_LEN 64 0 0 0), by decide +kernel⟩,
   ⟨0, false, State.reset, by decide +kernel⟩,
   ⟨0, false, ⟨1, 0, 15, 0, 64, 0⟩, qpUp false 0, by decide +kernel⟩,
   ⟨0, false, State.reset, by decide +kernel⟩,
   ⟨0, false, ⟨1, 0, 15, 0, 64, 0⟩, qpUp false 0, by decide +kernel⟩,
   ⟨0, 5, 1, (qpUp false 0).onDev (fun d => (((((d.wr R.IQ_STATUS_STATE 0 5).wr R.IQ_CTRL_ENABLE 0 5).wr R.IQ_CFG_MTU 0 5).wr R.SQ_CFG_LOG2_SIZE 6 5).wr R.RQ_CFG_LOG2_SIZE 6 5)), by decide +kernel⟩,
   ⟨0, 5, 1, (qpUp false 0).onDev (fun d => ((d.wr R.IQ_STATUS_STATE 0 5).wr R.IQ_CTRL_ENABLE 0 5).wr R.IQ_CFG_TRANSPORT 3 5), by decide +kernel⟩,
   ⟨0, 5, qpUp false 0, by decide +kernel⟩,
   ⟨0, 5, qpUp false 0, by decide +kernel⟩,
   ⟨0, 5, qpUp false 0, by decide +kernel⟩,
   ⟨0, 5, (qpUp false 0).onDev (fun d => d.flag R.IQ_CTRL_PIN 5), by decide +kernel⟩,
   ⟨0, 3, 5, false, (qpUp false 0).onDev (fun d => d.wr R.IQ_DB_LO_QP 5 0 0 0), by decide +kernel⟩,
   ⟨0, 3, 0, State.reset, by decide +kernel⟩,
   ⟨5, 0, [], {}, (qpUp false 0).onDev (fun d => d.wr R.SQ_PI 1 5), by decide +kernel⟩,
   ⟨3, 0, 1, [], (ringState 0 []).onDev (fun d => d.wr R.RG_PI 1 3), by decide +kernel⟩,
   ⟨5, {}, (qpUp false 0).onDev (fun d => { d with ira := { d.ira with cached := [], fetching := [5] } }), by decide +kernel⟩,
   ⟨5, State.reset, by decide +kernel⟩,
   ⟨5, 2, 0, (qpUp false 0).onDev (fun d => d.setQp 5 (fun x => { x with degraded := [(2, 0)] })), by decide +kernel⟩,
   ⟨3, 0, { id := 0, first := 0, descs := [[]], wait := some ⟨false, 0, 0, 0, 0⟩ }, ⟨false, 0, 0, 0, 0⟩, (ringState 0 []).onDev (fun d => d.setRing 3 (fun x => { x with jobs := [{ id := 0, first := 0, descs := [[]], wait := some ⟨false, 0, 0, 0, 0⟩ }] })), by decide +kernel⟩,
   ⟨5, 0, { idx := 0, desc := [], wait := some ⟨true, 0, 0, 0, 0⟩ }, ⟨true, 0, 0, 0, 0⟩, (qpUp false 0).onDev (fun d => d.setQp 5 (fun x => { x with jobs := [{ idx := 0, desc := [], wait := some ⟨true, 0, 0, 0, 0⟩ }] })), by decide +kernel⟩,
   ⟨3, { id := 0, first := 0, descs := [[]], wait := some ⟨false, 0, 0, 1, 0⟩ }, ⟨false, 0, 0, 1, 0⟩, (ringState 0 []).onDev (fun d => { d.setRing 3 (fun x => { x with jobs := [{ id := 0, first := 0, descs := [[]], wait := some ⟨false, 0, 0, 1, 0⟩ }] }) with tk := { d.tk with etick := 1000 } }), by decide +kernel⟩,
   ⟨3, true, State.reset, by decide +kernel⟩⟩

/-- The hypotheses of `SendQueueJobsAndTimersRun` can be met, clause by clause. -/
theorem witness_SendQueueJobsAndTimersRun :
    (∃ (q : Nat) (b : Bytes) (s : State), (s.dev.sqHead q = some b ∧ sqBad (s.dev.qpRoce q) b = false) ∧ (descOp b = 16 ∧ s.dev.sqLimits q 16 = true ∧ sqLen b ≠ 0)) ∧
    (∃ (q : Nat) (b : Bytes) (s : State), (s.dev.sqHead q = some b ∧ sqBad (s.dev.qpRoce q) b = false) ∧ (descOp b = 17 ∧ s.dev.sqLimits q 17 = true ∧ sqLen b ≠ 0)) ∧
    (∃ (q : Nat) (b : Bytes) (s : State), (s.dev.sqHead q = some b ∧ sqBad (s.dev.qpRoce q) b = false) ∧ (descOp b = 19 ∧ s.dev.sqLimits q 19 = true ∧ sqLen b ≠ 0)) ∧
    (∃ (q : Nat) (b : Bytes) (s : State), (s.dev.sqHead q = some b ∧ sqBad (s.dev.qpRoce q) b = false) ∧ (descOp b = 18 ∧ s.dev.sqLimits q 18 = true) ∧ (s.dev.mrAllows q (sqLkey b) mrLocalWrite (sqLaddr b) (sqLen b) = true) ∧ ((s.dev.qp q).jobs = [])) ∧
    (∃ (q : Nat) (b : Bytes) (s : State), (s.dev.sqHead q = some b ∧ sqBad (s.dev.qpRoce q) b = false) ∧ (descOp b = 20 ∧ s.dev.sqLimits q 20 = true) ∧ (s.dev.mrAllows q (sqLkey b) mrLocalWrite (sqLaddr b) (sqLen b) = true) ∧ ((s.dev.qp q).jobs = [])) ∧
    (∃ (q : Nat) (b : Bytes) (s : State), (s.dev.sqHead q = some b ∧ sqBad (s.dev.qpRoce q) b = false) ∧ (descOp b = 21 ∧ s.dev.sqLimits q 21 = true) ∧ (s.dev.mrAllows q (sqLkey b) mrLocalWrite (sqLaddr b) (sqLen b) = true) ∧ ((s.dev.qp q).jobs = [])) ∧
    (∃ (q : Nat) (b : Bytes) (s : State), (s.dev.sqHead q = some b ∧ sqBad (s.dev.qpRoce q) b = false) ∧ (descOp b = 0x12 ∧ s.dev.sqLimits q 0x12 = true) ∧ (s.dev.mrAllows q (sqLkey b) mrLocalWrite (sqLaddr b) (sqLen b) = false)) ∧
    (∃ (q c : Nat) (b : Bytes) (w : WaitState) (s : State), (s.dev.sqHead q = some b ∧ sqBad (s.dev.qpRoce q) b = false) ∧ (descOp b = 3 ∧ w = { qp := bit (le32 b 0) 31, target := le32 b 0 % 2 ^ 23, thresh := le32 b 4, timeout := le32 b 8, start := s.dev.cyc }) ∧ (s.dev.sqWaitCount q w (bit (le32 b 0) 30) = some c ∧ waitMet c w.thresh = false)) ∧
    (∃ (q p : Nat) (x : IraTx) (s : State), (s.dev.qpReady q = true ∧ s.dev.ctxIn q = true) ∧ ((s.dev.qp q).unacked.find? (fun y => y.pkt.psn == p) = some x) ∧ (x.due = none ∧ p ∉ (s.dev.qp q).again ∧ x.at' + x.rto < s.dev.cyc + 8) ∧ (s.dev.rd R.IQ_TIMERS_RETRY q ≤ x.tries)) ∧
    (∃ (q p : Nat) (x : IraTx) (s : State), (s.dev.qpReady q = true ∧ s.dev.ctxIn q = true) ∧ ((s.dev.qp q).unacked.find? (fun y => y.pkt.psn == p) = some x) ∧ (x.due = none ∧ p ∉ (s.dev.qp q).again ∧ x.at' + x.rto < s.dev.cyc + 8) ∧ (x.tries < s.dev.rd R.IQ_TIMERS_RETRY q ∧ s.dev.qpRoce q = false)) ∧
    (∃ (q p c : Nat) (x : IraTx) (s : State), (s.dev.qpReady q = true ∧ s.dev.ctxIn q = true) ∧ ((s.dev.qp q).unacked.find? (fun y => y.pkt.psn == p) = some x) ∧ (x.due = some c ∧ c < s.dev.cyc + 8 ∧ s.dev.qpRoce q = false)) ∧
    (∃ (q p : Nat) (s : State), (s.dev.qpReady q = false)) ∧
    (∃ (q g c : Nat) (s : State), (s.dev.qpReady q = true ∧ s.dev.ctxIn q = true ∧ s.dev.qpRoce q = false) ∧ ((s.dev.qp q).gaps.find? (fun g => decide (g.2 + s.dev.rd R.IR_NAK_DELAY < s.dev.cyc + 8)) = some (g, c))) ∧
    (∃ (q c : Nat) (s : State), (s.dev.qpReady q = true ∧ s.dev.ctxIn q = true) ∧ ((s.dev.qp q).ackFrom = some c ∧ c + s.dev.rd R.IR_ACK_DELAY * 10 < s.dev.cyc + 8)) ∧
    (∃ (q c : Nat) (s : State), (s.dev.qpReady q = true ∧ s.dev.ctxIn q = true) ∧ ((s.dev.qp q).creditFrom = some c ∧ c + 1000 < s.dev.cyc + 8) ∧ ((s.dev.qp q).ctl = [] ∧ (s.dev.qp q).again = [] ∧ (s.dev.qp q).ready = []) ∧ (s.dev.iraRoom q (s.dev.qpDest q) 0 32 = true)) ∧
    (∃ (q : Nat) (s : State), (s.dev.qpReady q = false)) :=
  ⟨⟨5, qpDesc 16, qpUp true 16, by decide +kernel⟩,
   ⟨5, qpDesc 17, qpUp true 17, by decide +kernel⟩,
   ⟨5, qpDesc 19, qpUp true 19, by decide +kernel⟩,
   ⟨5, qpDesc 18, qpUp true 18, by decide +kernel⟩,
   ⟨5, qpDesc 20, qpUp true 20, by decide +kernel⟩,
   ⟨5, qpDesc 21, qpUp true 21, by decide +kernel⟩,
   ⟨5, qpDesc 0x12, (qpUp true 0x12).onDev (fun d => { d with ira := { d.ira with mr := [] } }), by decide +kernel⟩,
   ⟨5, 0, (leBytes 4 0 ++ leBytes 4 1 ++ List.replicate 52 0#8 ++ [3#8, 3#8]), ⟨false, 0, 1, 0, 0⟩, (qpUp true 3).onDev (fun d => (d.setQp 5 (fun x => { x with sqKept := [(0, (leBytes 4 0 ++ leBytes 4 1 ++ List.replicate 52 0#8 ++ [3#8, 3#8]))] })).wr R.FN_RING_COUNT 1 1), by decide +kernel⟩,
   ⟨5, 7, { pkt := { op := 1, psn := 7 } }, (qpUp false 0).onDev (fun d => (d.wr R.IQ_TIMERS_RETRY 0 5).setQp 5 (fun x => { x with unacked := [{ pkt := { op := 1, psn := 7 } }] })), by decide +kernel⟩,
   ⟨5, 7, { pkt := { op := 1, psn := 7 } }, (qpUp false 0).onDev (fun d => (d.wr R.IQ_TIMERS_RETRY 3 5).setQp 5 (fun x => { x with unacked := [{ pkt := { op := 1, psn := 7 } }] })), by decide +kernel⟩,
   ⟨5, 7, 0, { pkt := { op := 1, psn := 7 }, due := some 0 }, (qpUp false 0).onDev (fun d => d.setQp 5 (fun x => { x with unacked := [{ pkt := { op := 1, psn := 7 }, due := some 0 }] })), by decide +kernel⟩,
   ⟨5, 7, State.reset, by decide +kernel⟩,
   ⟨5, 9, 0, (qpUp false 0).onDev (fun d => ({ d with tk := { d.tk with etick := 10 ^ 6 } }).setQp 5 (fun x => { x with gaps := [(9, 0)] })), by decide +kernel⟩,
   ⟨5, 0, (qpUp false 0).onDev (fun d => ({ d with tk := { d.tk with etick := 10 ^ 6 } }).setQp 5 (fun x => { x with ackFrom := some 0 })), by decide +kernel⟩,
   ⟨5, 0, (qpUp false 0).onDev (fun d => (({ d with tk := { d.tk with etick := 10 ^ 6 } }).setQp 5 (fun x => { x with creditFrom := some 0 }))), by decide +kernel⟩,
   ⟨5, State.reset, by decide +kernel⟩⟩

/-- The hypotheses of `PacketsActOnTheirQueuePair` can be met, clause by clause. -/
theorem witness_PacketsActOnTheirQueuePair :
    (∃ (x : IraIn) (xs : List IraIn) (r : IraSrc) (q : Nat) (p : IraPkt) (e : Dev) (s : State), (s.dev.iraOn = true ∧ s.dev.ira.inbox = x :: xs ∧ r = s.dev.iraParse x ∧ q = r.dqp) ∧ (r.row = 1 ∧ r.roce = false ∧ r.good = true ∧ iraWell r.pay = some p ∧ 32 ≤ r.pay.length) ∧ (s.dev.qpReady q = true ∧ s.dev.ctxIn q = true ∧ (∀ y, y ∈ s.dev.ira.cmb → y.1 ≠ q) ∧ s.dev.iraSourceOk q r = true) ∧ (e = ((({ s.dev with ira := { s.dev.ira with inbox := xs } }).ctxTouch q).count R.IQ_RX_PKTS 1 q).iraGrantIn q p.grant)) ∧
    (∃ (x : IraIn) (xs : List IraIn) (r : IraSrc) (q : Nat) (p : IraPkt) (e : Dev) (s : State), (s.dev.iraOn = true ∧ s.dev.ira.inbox = x :: xs ∧ r = s.dev.iraParse x ∧ q = r.dqp) ∧ (r.row = 2 ∧ r.roce = false ∧ r.good = true ∧ iraWell r.pay = some p ∧ 32 ≤ r.pay.length) ∧ (s.dev.qpReady q = true ∧ s.dev.ctxIn q = true ∧ (∀ y, y ∈ s.dev.ira.cmb → y.1 ≠ q) ∧ s.dev.iraSourceOk q r = true) ∧ (e = ((({ s.dev with ira := { s.dev.ira with inbox := xs } }).ctxTouch q).count R.IQ_RX_PKTS 1 q).iraGrantIn q p.grant)) ∧
    (∃ (x : IraIn) (xs : List IraIn) (r : IraSrc) (q : Nat) (p : IraPkt) (e : Dev) (s : State), (s.dev.iraOn = true ∧ s.dev.ira.inbox = x :: xs ∧ r = s.dev.iraParse x ∧ q = r.dqp) ∧ (r.row = 3 ∧ r.roce = false ∧ r.good = true ∧ iraWell r.pay = some p ∧ 32 ≤ r.pay.length) ∧ (s.dev.qpReady q = true ∧ s.dev.ctxIn q = true ∧ (∀ y, y ∈ s.dev.ira.cmb → y.1 ≠ q) ∧ s.dev.iraSourceOk q r = true) ∧ (e = ((({ s.dev with ira := { s.dev.ira with inbox := xs } }).ctxTouch q).count R.IQ_RX_PKTS 1 q).iraGrantIn q p.grant)) ∧
    (∃ (x : IraIn) (xs : List IraIn) (r : IraSrc) (q : Nat) (p : IraPkt) (e : Dev) (s : State), (s.dev.iraOn = true ∧ s.dev.ira.inbox = x :: xs ∧ r = s.dev.iraParse x ∧ q = r.dqp) ∧ (r.row = 4 ∧ r.roce = false ∧ r.good = true ∧ iraWell r.pay = some p ∧ 32 ≤ r.pay.length) ∧ (s.dev.qpReady q = true ∧ s.dev.ctxIn q = true ∧ (∀ y, y ∈ s.dev.ira.cmb → y.1 ≠ q) ∧ s.dev.iraSourceOk q r = true) ∧ (e = ((({ s.dev with ira := { s.dev.ira with inbox := xs } }).ctxTouch q).count R.IQ_RX_PKTS 1 q).iraGrantIn q p.grant)) ∧
    (∃ (x : IraIn) (xs : List IraIn) (r : IraSrc) (q : Nat) (p : IraPkt) (e : Dev) (s : State), (s.dev.iraOn = true ∧ s.dev.ira.inbox = x :: xs ∧ r = s.dev.iraParse x ∧ q = r.dqp) ∧ (r.row = 5 ∧ r.roce = false ∧ r.good = true ∧ iraWell r.pay = some p ∧ 32 ≤ r.pay.length) ∧ (s.dev.qpReady q = true ∧ s.dev.ctxIn q = true ∧ (∀ y, y ∈ s.dev.ira.cmb → y.1 ≠ q) ∧ s.dev.iraSourceOk q r = true) ∧ (e = ((({ s.dev with ira := { s.dev.ira with inbox := xs } }).ctxTouch q).count R.IQ_RX_PKTS 1 q).iraGrantIn q p.grant)) ∧
    (∃ (x : IraIn) (xs : List IraIn) (r : IraSrc) (q : Nat) (p : IraPkt) (e : Dev) (s : State), (s.dev.iraOn = true ∧ s.dev.ira.inbox = x :: xs ∧ r = s.dev.iraParse x ∧ q = r.dqp) ∧ (r.row = 6 ∧ r.roce = false ∧ r.good = true ∧ iraWell r.pay = some p ∧ 32 ≤ r.pay.length) ∧ (s.dev.qpReady q = true ∧ s.dev.ctxIn q = true ∧ (∀ y, y ∈ s.dev.ira.cmb → y.1 ≠ q) ∧ s.dev.iraSourceOk q r = true) ∧ (e = ((({ s.dev with ira := { s.dev.ira with inbox := xs } }).ctxTouch q).count R.IQ_RX_PKTS 1 q).iraGrantIn q p.grant)) ∧
    (∃ (x : IraIn) (xs : List IraIn) (r : IraSrc) (q : Nat) (p : IraPkt) (e : Dev) (s : State), (s.dev.iraOn = true ∧ s.dev.ira.inbox = x :: xs ∧ r = s.dev.iraParse x ∧ q = r.dqp) ∧ (r.row = 7 ∧ r.roce = false ∧ r.good = true ∧ iraWell r.pay = some p ∧ 32 ≤ r.pay.length) ∧ (s.dev.qpReady q = true ∧ s.dev.ctxIn q = true ∧ (∀ y, y ∈ s.dev.ira.cmb → y.1 ≠ q) ∧ s.dev.iraSourceOk q r = true) ∧ (e = ((({ s.dev with ira := { s.dev.ira with inbox := xs } }).ctxTouch q).count R.IQ_RX_PKTS 1 q).iraGrantIn q p.grant)) ∧
    (∃ (x : IraIn) (xs : List IraIn) (r : IraSrc) (q : Nat) (p : IraPkt) (e : Dev) (s : State), (s.dev.iraOn = true ∧ s.dev.ira.inbox = x :: xs ∧ r = s.dev.iraParse x ∧ q = r.dqp) ∧ (r.row = 8 ∧ r.roce = false ∧ r.good = true ∧ iraWell r.pay = some p ∧ 32 ≤ r.pay.length) ∧ (s.dev.qpReady q = true ∧ s.dev.ctxIn q = true ∧ (∀ y, y ∈ s.dev.ira.cmb → y.1 ≠ q) ∧ s.dev.iraSourceOk q r = true) ∧ (e = ((({ s.dev with ira := { s.dev.ira with inbox := xs } }).ctxTouch q).count R.IQ_RX_PKTS 1 q).iraGrantIn q p.grant)) ∧
    (∃ (x : IraIn) (xs : List IraIn) (r : IraSrc) (q : Nat) (p : IraPkt) (e : Dev) (s : State), (s.dev.iraOn = true ∧ s.dev.ira.inbox = x :: xs ∧ r = s.dev.iraParse x ∧ q = r.dqp) ∧ (r.row = 16 ∧ r.roce = false ∧ r.good = true ∧ iraWell r.pay = some p ∧ 32 ≤ r.pay.length) ∧ (s.dev.qpReady q = true ∧ s.dev.ctxIn q = true ∧ (∀ y, y ∈ s.dev.ira.cmb → y.1 ≠ q) ∧ s.dev.iraSourceOk q r = true) ∧ (e = ((({ s.dev with ira := { s.dev.ira with inbox := xs } }).ctxTouch q).count R.IQ_RX_PKTS 1 q).iraGrantIn q p.grant)) ∧
    (∃ (x : IraIn) (xs : List IraIn) (r : IraSrc) (q : Nat) (p : IraPkt) (e : Dev) (s : State), (s.dev.iraOn = true ∧ s.dev.ira.inbox = x :: xs ∧ r = s.dev.iraParse x ∧ q = r.dqp) ∧ (r.row = 17 ∧ r.roce = false ∧ r.good = true ∧ iraWell r.pay = some p ∧ 32 ≤ r.pay.length) ∧ (s.dev.qpReady q = true ∧ s.dev.ctxIn q = true ∧ (∀ y, y ∈ s.dev.ira.cmb → y.1 ≠ q) ∧ s.dev.iraSourceOk q r = true) ∧ (e = ((({ s.dev with ira := { s.dev.ira with inbox := xs } }).ctxTouch q).count R.IQ_RX_PKTS 1 q).iraGrantIn q p.grant)) ∧
    (∃ (x : IraIn) (xs : List IraIn) (r : IraSrc) (q : Nat) (p : IraPkt) (e : Dev) (s : State), (s.dev.iraOn = true ∧ s.dev.ira.inbox = x :: xs ∧ r = s.dev.iraParse x ∧ q = r.dqp) ∧ (r.row = 18 ∧ r.roce = false ∧ r.good = true ∧ iraWell r.pay = some p ∧ 32 ≤ r.pay.length) ∧ (s.dev.qpReady q = true ∧ s.dev.ctxIn q = true ∧ (∀ y, y ∈ s.dev.ira.cmb → y.1 ≠ q) ∧ s.dev.iraSourceOk q r = true) ∧ (e = ((({ s.dev with ira := { s.dev.ira with inbox := xs } }).ctxTouch q).count R.IQ_RX_PKTS 1 q).iraGrantIn q p.grant)) ∧
    (∃ (x : IraIn) (xs : List IraIn) (r : IraSrc) (q : Nat) (p : IraPkt) (s : State), (s.dev.iraOn = true ∧ s.dev.ira.inbox = x :: xs ∧ r = s.dev.iraParse x ∧ q = r.dqp) ∧ (r.row = 1 ∧ r.roce = false ∧ r.good = true ∧ iraWell r.pay = some p ∧ 32 ≤ r.pay.length) ∧ (s.dev.qpReady q = true ∧ s.dev.ctxIn q = true ∧ (∀ y, y ∈ s.dev.ira.cmb → y.1 ≠ q) ∧ s.dev.iraSourceOk q r = true) ∧ ((s.dev.qp q).held = [] ∧ (s.dev.qp q).jobs = [] ∧ (s.dev.qp q).ctl = [] ∧ (s.dev.qp q).again = [] ∧ (s.dev.qp q).ready = [] ∧ (s.dev.qp q).got = [] ∧ (s.dev.qp q).gaps = [] ∧ (s.dev.qp q).msgs = [] ∧ (s.dev.qp q).exec = none ∧ (s.dev.qp q).acks = 0) ∧ (p.psn = s.dev.rd R.IQ_RX_A q ∧ p.psn < 2 ^ 32 ∧ p.msn = (s.dev.qp q).expMsn ∧ p.off = 0 ∧ p.mlen = p.data.length ∧ p.data ≠ [] ∧ p.flags = 0) ∧ (s.dev.mrAllows q p.key mrRemoteWrite p.va p.data.length = true ∧ s.dev.ira.locks = []) ∧ (serialGe (s.dev.rd R.IQ_GRANT_RX q) ((s.dev.qp q).units + creditCost p.data.length) = true ∧ 1 < s.dev.rd R.IR_ACK_EVERY) ∧ (s.dev.hostReset = false ∧ s.dev.qpFn q ∉ s.dev.fnOut)) ∧
    (∃ (x : IraIn) (xs : List IraIn) (r : IraSrc) (q : Nat) (p : IraPkt) (s : State), (s.dev.iraOn = true ∧ s.dev.ira.inbox = x :: xs ∧ r = s.dev.iraParse x ∧ q = r.dqp) ∧ (r.row = 18 ∧ r.roce = false ∧ r.good = true ∧ iraWell r.pay = some p ∧ 32 ≤ r.pay.length) ∧ (s.dev.qpReady q = true ∧ s.dev.ctxIn q = true ∧ (∀ y, y ∈ s.dev.ira.cmb → y.1 ≠ q) ∧ s.dev.iraSourceOk q r = true) ∧ ((s.dev.qp q).held = [] ∧ (s.dev.qp q).jobs = [] ∧ (s.dev.qp q).ctl = [] ∧ (s.dev.qp q).again = [] ∧ (s.dev.qp q).ready = []) ∧ (serialGe p.grant (s.dev.rd R.IQ_GRANT_TX q) = true)) ∧
    (∃ (x : IraIn) (xs : List IraIn) (s : State), (s.dev.iraOn = true ∧ s.dev.ira.inbox = x :: xs) ∧ ((s.dev.iraParse x).row ≠ 0 ∧ (s.dev.iraParse x).row ≠ 4)) ∧
    (∃ (s : State), (s.dev.iraOn = false)) :=
  ⟨⟨(iraIn 1 (List.replicate 16 0#8) []), [], ((qpUp false 0).dev.iraParse (iraIn 1 (List.replicate 16 0#8) [])), 5, (iraDecode (iraIn 1 (List.replicate 16 0#8) []).bytes 16), (((((qpUp false 0).dev.ctxTouch 5).count R.IQ_RX_PKTS 1 5).iraGrantIn 5 0)), iraWaits 1 (List.replicate 16 0#8) [], by decide +kernel⟩,
   ⟨(iraIn 2 (List.replicate 16 0#8) []), [], ((qpUp false 0).dev.iraParse (iraIn 2 (List.replicate 16 0#8) [])), 5, (iraDecode (iraIn 2 (List.replicate 16 0#8) []).bytes 16), (((((qpUp false 0).dev.ctxTouch 5).count R.IQ_RX_PKTS 1 5).iraGrantIn 5 0)), iraWaits 2 (List.replicate 16 0#8) [], by decide +kernel⟩,
   ⟨(iraIn 3 (List.replicate 8 0#8) []), [], ((qpUp false 0).dev.iraParse (iraIn 3 (List.replicate 8 0#8) [])), 5, (iraDecode (iraIn 3 (List.replicate 8 0#8) []).bytes 8), (((((qpUp false 0).dev.ctxTouch 5).count R.IQ_RX_PKTS 1 5).iraGrantIn 5 0)), iraWaits 3 (List.replicate 8 0#8) [], by decide +kernel⟩,
   ⟨(iraIn 4 (List.replicate 16 0#8) []), [], ((qpUp false 0).dev.iraParse (iraIn 4 (List.replicate 16 0#8) [])), 5, (iraDecode (iraIn 4 (List.replicate 16 0#8) []).bytes 16), (((((qpUp false 0).dev.ctxTouch 5).count R.IQ_RX_PKTS 1 5).iraGrantIn 5 0)), iraWaits 4 (List.replicate 16 0#8) [], by decide +kernel⟩,
   ⟨(iraIn 5 (List.replicate 0 0#8) []), [], ((qpUp false 0).dev.iraParse (iraIn 5 (List.replicate 0 0#8) [])), 5, (iraDecode (iraIn 5 (List.replicate 0 0#8) []).bytes 0), (((((qpUp false 0).dev.ctxTouch 5).count R.IQ_RX_PKTS 1 5).iraGrantIn 5 0)), iraWaits 5 (List.replicate 0 0#8) [], by decide +kernel⟩,
   ⟨(iraIn 6 (List.replicate 32 0#8) []), [], ((qpUp false 0).dev.iraParse (iraIn 6 (List.replicate 32 0#8) [])), 5, (iraDecode (iraIn 6 (List.replicate 32 0#8) []).bytes 32), (((((qpUp false 0).dev.ctxTouch 5).count R.IQ_RX_PKTS 1 5).iraGrantIn 5 0)), iraWaits 6 (List.replicate 32 0#8) [], by decide +kernel⟩,
   ⟨(iraIn 7 (List.replicate 32 0#8) []), [], ((qpUp false 0).dev.iraParse (iraIn 7 (List.replicate 32 0#8) [])), 5, (iraDecode (iraIn 7 (List.replicate 32 0#8) []).bytes 32), (((((qpUp false 0).dev.ctxTouch 5).count R.IQ_RX_PKTS 1 5).iraGrantIn 5 0)), iraWaits 7 (List.replicate 32 0#8) [], by decide +kernel⟩,
   ⟨(iraIn 8 (List.replicate 8 0#8) []), [], ((qpUp false 0).dev.iraParse (iraIn 8 (List.replicate 8 0#8) [])), 5, (iraDecode (iraIn 8 (List.replicate 8 0#8) []).bytes 8), (((((qpUp false 0).dev.ctxTouch 5).count R.IQ_RX_PKTS 1 5).iraGrantIn 5 0)), iraWaits 8 (List.replicate 8 0#8) [], by decide +kernel⟩,
   ⟨(iraIn 16 (List.replicate 8 0#8) []), [], ((qpUp false 0).dev.iraParse (iraIn 16 (List.replicate 8 0#8) [])), 5, (iraDecode (iraIn 16 (List.replicate 8 0#8) []).bytes 8), (((((qpUp false 0).dev.ctxTouch 5).count R.IQ_RX_PKTS 1 5).iraGrantIn 5 0)), iraWaits 16 (List.replicate 8 0#8) [], by decide +kernel⟩,
   ⟨(iraIn 17 (List.replicate 12 0#8) []), [], ((qpUp false 0).dev.iraParse (iraIn 17 (List.replicate 12 0#8) [])), 5, (iraDecode (iraIn 17 (List.replicate 12 0#8) []).bytes 12), (((((qpUp false 0).dev.ctxTouch 5).count R.IQ_RX_PKTS 1 5).iraGrantIn 5 0)), iraWaits 17 (List.replicate 12 0#8) [], by decide +kernel⟩,
   ⟨(iraIn 18 (List.replicate 0 0#8) []), [], ((qpUp false 0).dev.iraParse (iraIn 18 (List.replicate 0 0#8) [])), 5, (iraDecode (iraIn 18 (List.replicate 0 0#8) []).bytes 0), (((((qpUp false 0).dev.ctxTouch 5).count R.IQ_RX_PKTS 1 5).iraGrantIn 5 0)), iraWaits 18 (List.replicate 0 0#8) [], by decide +kernel⟩,
   ⟨(iraIn 1 (List.replicate 16 0#8) [7#8]), [], ((qpUp false 0).dev.iraParse (iraIn 1 (List.replicate 16 0#8) [7#8])), 5, (iraDecode (iraIn 1 (List.replicate 16 0#8) [7#8]).bytes 16), (iraWaits 1 (List.replicate 16 0#8) [7#8]).onDev (fun d => d.wr R.IQ_GRANT_RX 64 5), by decide +kernel⟩,
   ⟨(iraIn 0x12 [] []), [], ((qpUp false 0).dev.iraParse (iraIn 0x12 [] [])), 5, (iraDecode (iraIn 0x12 [] []).bytes 0), iraWaits 0x12 [] [], by decide +kernel⟩,
   ⟨(iraIn 0x12 [] []), [], iraWaits 0x12 [] [], by decide +kernel⟩,
   ⟨dev (fun d => { d with rst := { d.rst with active := [6] } }), by decide +kernel⟩⟩

/-- The hypotheses of `ControllersAreEnabledResetAndRung` can be met, clause by clause. -/
theorem witness_ControllersAreEnabledResetAndRung :
    (∃ (c q tail : Nat) (k : NvSq) (s : State), (s.dev.nvLive c = true ∧ SMap.get? (s.dev.nv c).sqs q = some k) ∧ (tail < k.size)) ∧
    (∃ (c q tail : Nat) (k : NvSq) (s : State), (s.dev.nvLive c = true ∧ (s.dev.nv c).sqs = [(q, k)]) ∧ (tail < k.size ∧ k.head ≠ tail) ∧ ((s.dev.nv c).reading = false ∧ (s.dev.nv c).shn = 0)) ∧
    (∃ (c q tail : Nat) (s : State), (s.dev.nvLive c = true ∧ SMap.get? (s.dev.nv c).sqs q = none) ∧ (s.dev.on R.NC_INFO_RDY c = true ∧ (s.dev.nv c).events = [] ∧ (s.dev.nv c).aers = [])) ∧
    (∃ (c q head : Nat) (k : NvCq) (s : State), (s.dev.nvLive c = true ∧ SMap.get? (s.dev.nv c).cqs q = some k) ∧ (head < k.size ∧ k.wait = [])) ∧
    (∃ (c q head : Nat) (k : NvCq) (b : Bytes) (s : State), (s.dev.nvLive c = true ∧ SMap.get? (s.dev.nv c).cqs q = some k) ∧ (head < k.size ∧ k.wait = [b] ∧ (k.tail + 1) % k.size ≠ head ∧ k.ien = false)) ∧
    (∃ (c : Nat) (s : State), (s.dev.storOn = true ∧ s.dev.on R.NC_INFO_EN c = true ∧ s.dev.inService (s.dev.nvFn c) = true)) ∧
    (∃ (c : Nat) (s : State), (s.dev.on R.NC_INFO_EN c = false)) ∧
    (∃ (c cc : Nat) (s : State), (s.dev.storOn = true ∧ c < s.dev.nvCount ∧ s.dev.inService (s.dev.nvFn c) = true) ∧ (s.dev.on R.NC_INFO_EN c = false ∧ s.dev.nvme.pfDone = false ∧ s.dev.on R.NV_STATUS_PF_ACTIVE = false)) ∧
    (∃ (c st dw : Nat) (m : NvCmd) (q : NvSq) (k : NvCq) (d : Dev), (c < 1024 ∧ SMap.get? (d.nv c).sqs m.sq = some q ∧ SMap.get? (d.nv c).cqs q.cq = some k) ∧ (k.room = true ∧ k.wait = [] ∧ k.ien = false)) ∧
    (∃ (c st dw : Nat) (m : NvCmd) (q : NvSq) (k : NvCq) (d : Dev), (c < 1024 ∧ SMap.get? (d.nv c).sqs m.sq = some q ∧ SMap.get? (d.nv c).cqs q.cq = some k) ∧ (k.room = false)) :=
  ⟨⟨0, 1, 2, { base := 12288, size := 4, cq := 1, head := 1, tail := 1 }, nvUp [], by decide +kernel⟩,
   ⟨0, 0, 2, { base := 8192, size := 4, cq := 0 }, (nvUp []).onDev (fun d => d.setNvc 0 (fun x => { x with sqs := [(0, { base := 8192, size := 4, cq := 0 })] })), by decide +kernel⟩,
   ⟨0, 9, 0, nvUp [], by decide +kernel⟩,
   ⟨0, 1, 2, { base := 20480, size := 4, vector := 1, ien := false }, nvUp [], by decide +kernel⟩,
   ⟨0, 1, 0, { base := 20480, size := 4, vector := 1, ien := false, head := 1, wait := [[]] }, [], (nvUp []).onDev (fun d => d.setNvc 0 (fun x => { x with cqs := [(1, { base := 20480, size := 4, vector := 1, ien := false, head := 1, wait := [[]] })] })), by decide +kernel⟩,
   ⟨0, nvUp [nvCmd 2 false 0 0], by decide +kernel⟩,
   ⟨0, State.reset, by decide +kernel⟩,
   ⟨0, 1, State.reset, by decide +kernel⟩,
   ⟨0, 0, 0, (nvCmd 2 false 0 0), { base := 12288, size := 4, cq := 1, head := 1, tail := 1 }, { base := 20480, size := 4, vector := 1, ien := false }, (nvUp [nvCmd 2 false 0 0]).dev, by decide +kernel⟩,
   ⟨0, 0, 0, (nvCmd 2 true 0 0), { base := 8192, size := 4, cq := 0, head := 1, tail := 1 }, { base := 16384, size := 1, vector := 0, ien := true }, (nvUp [nvCmd 2 true 0 0]).dev.setNvc 0 (fun x => { x with cqs := [(0, { base := 16384, size := 1, vector := 0, ien := true })] }), by decide +kernel⟩⟩

/-- The hypotheses of `AdminCommandsActAndComplete` can be met, clause by clause. -/
theorem witness_AdminCommandsActAndComplete :
    (∃ (c q n k : Nat) (m : NvCmd) (s : State), (s.dev.nvTakes c true 1 m = true) ∧ (cdw m 10 = q + 2 ^ 16 * (n - 1) ∧ 0 < q ∧ q ≤ 64 ∧ SMap.has (s.dev.nv c).sqs q = false ∧ 2 ≤ n) ∧ (cdw m 11 / 2 ^ 16 = k ∧ 0 < k ∧ SMap.has (s.dev.nv c).cqs k = true ∧ bit (cdw m 11) 0 = true ∧ le64 m.sqe 24 % (s.dev.nv c).page = 0)) ∧
    (∃ (c : Nat) (m : NvCmd) (s : State), (s.dev.nvTakes c true 1 m = true) ∧ (cdw m 11 / 2 ^ 16 = 0 ∨ SMap.has (s.dev.nv c).cqs (cdw m 11 / 2 ^ 16) = false)) ∧
    (∃ (c q n v : Nat) (m : NvCmd) (s : State), (s.dev.nvTakes c true 5 m = true) ∧ (cdw m 10 = q + 2 ^ 16 * (n - 1) ∧ 0 < q ∧ q ≤ 64 ∧ SMap.has (s.dev.nv c).cqs q = false ∧ 2 ≤ n) ∧ (cdw m 11 / 2 ^ 16 = v ∧ (bit (cdw m 11) 1 = true → v < s.dev.msixSize (s.dev.nvFn c)) ∧ bit (cdw m 11) 0 = true ∧ le64 m.sqe 24 % (s.dev.nv c).page = 0)) ∧
    (∃ (c q : Nat) (m : NvCmd) (s : State), (s.dev.nvTakes c true 0 m = true) ∧ (cdw m 10 % 2 ^ 16 = q ∧ 0 < q ∧ SMap.has (s.dev.nv c).sqs q = true ∧ (s.dev.nv c).cmds.filter (fun x => x.sq == q) = [])) ∧
    (∃ (c q : Nat) (m : NvCmd) (s : State), (s.dev.nvTakes c true 4 m = true) ∧ (cdw m 10 % 2 ^ 16 = q ∧ 0 < q ∧ SMap.has (s.dev.nv c).cqs q = true ∧ (s.dev.nv c).sqs.any (fun x => x.2.cq == q) = false)) ∧
    (∃ (c : Nat) (m : NvCmd) (s : State), (s.dev.nvTakes c true 4 m = true) ∧ (cdw m 10 % 2 ^ 16 ≠ 0 ∧ SMap.has (s.dev.nv c).cqs (cdw m 10 % 2 ^ 16) = true ∧ (s.dev.nv c).sqs.any (fun x => x.2.cq == cdw m 10 % 2 ^ 16) = true)) ∧
    (∃ (c : Nat) (m : NvCmd) (e : Dev) (s : State), (s.dev.nvTakes c true 2 m = true ∧ c < 1024) ∧ (logStop m = 0 ∧ logLen m ≤ (s.dev.nv c).page - le64 m.sqe 24 % (s.dev.nv c).page) ∧ (e = s.dev.setCmd c m.id (fun x => { x with segs := [(le64 m.sqe 24, logLen m)], phase := 1 }))) ∧
    (∃ (c : Nat) (m : NvCmd) (s : State), (s.dev.nvTakes c true 2 m = true) ∧ (cdw m 10 % 256 ∉ [1, 2, 3, 5])) ∧
    (∃ (c : Nat) (m : NvCmd) (e : Dev) (s : State), (s.dev.nvTakes c true 6 m = true ∧ c < 1024) ∧ ((s.dev.identify c m).1 = 0 ∧ le64 m.sqe 24 % (s.dev.nv c).page = 0) ∧ (e = s.dev.setCmd c m.id (fun x => { x with segs := [(le64 m.sqe 24, 4096)], phase := 1 }))) ∧
    (∃ (c : Nat) (m : NvCmd) (s : State), (s.dev.nvLive c = true ∧ s.dev.nvFirst c true (· == 6) = some m) ∧ (byteAt m.sqe 1 ≠ 0 ∧ (byteAt m.sqe 1 % 4 ≠ 0 ∨ byteAt m.sqe 1 / 64 ≠ 0))) ∧
    (∃ (c : Nat) (m x : NvCmd) (s : State), (s.dev.nvTakes c true 8 m = true) ∧ (((s.dev.nv c).cmds.filter (fun x => nvAdmin x && cmdOp x == 8))[4]? = none) ∧ ((s.dev.nv c).cmds.find? (fun x => x.id != m.id && x.sq == cdw m 10 % 2 ^ 16 && x.cid == cdw m 10 / 2 ^ 16 && abortable x) = some x)) ∧
    (∃ (c : Nat) (m : NvCmd) (s : State), (s.dev.nvTakes c true 8 m = true) ∧ (((s.dev.nv c).cmds.filter (fun x => nvAdmin x && cmdOp x == 8))[4]? = none) ∧ ((s.dev.nv c).cmds.find? (fun x => x.id != m.id && x.sq == cdw m 10 % 2 ^ 16 && x.cid == cdw m 10 / 2 ^ 16 && abortable x) = none)) ∧
    (∃ (c fid : Nat) (m : NvCmd) (s : State), (s.dev.nvTakes c true 9 m = true) ∧ (cdw m 10 = fid ∧ fid ∈ [1, 4, 6, 8, 0x0A, 0x0B])) ∧
    (∃ (c : Nat) (m : NvCmd) (s : State), (s.dev.nvTakes c true 9 m = true) ∧ (cdw m 10 = 2 ∧ cdw m 11 % 32 ≤ 3)) ∧
    (∃ (c : Nat) (m : NvCmd) (s : State), (s.dev.nvTakes c true 9 m = true) ∧ (cdw m 10 % 256 ∉ [1, 2, 4, 6, 7, 8, 9, 0x0A, 0x0B])) ∧
    (∃ (c fid : Nat) (m : NvCmd) (s : State), (s.dev.nvTakes c true 0x0A m = true) ∧ (cdw m 10 = fid ∧ fid ∈ [1, 2, 4, 6, 7, 8, 0x0A, 0x0B])) ∧
    (∃ (c : Nat) (m : NvCmd) (s : State), (s.dev.nvTakes c true 0x0C m = true) ∧ ((s.dev.nv c).aers = [] ∧ (s.dev.nv c).events = [])) ∧
    (∃ (c : Nat) (m : NvCmd) (s : State), (s.dev.nvLive c = true ∧ s.dev.nvFirst c true (fun o => !([0, 1, 2, 4, 5, 6, 8, 9, 0x0A, 0x0C].contains o)) = some m) ∧ (byteAt m.sqe 1 = 0)) ∧
    (∃ (c : Nat) (m : NvCmd) (s : State), (s.dev.nvLive c = true ∧ s.dev.nvFirst c true (fun o => !([0, 1, 2, 4, 5, 6, 8, 9, 0x0A, 0x0C].contains o)) = none ∧ s.dev.nvHeld c m = false) ∧ (s.dev.nvFirst c false (fun o => !([0, 1, 2, 8, 9].contains o)) = some m ∧ byteAt m.sqe 1 = 0)) ∧
    (∃ (c : Nat) (s : State), (s.dev.nvLive c = false)) :=
  ⟨⟨0, 2, 8, 1, (nvCmd 1 true 458754 65537), nvUp [nvCmd 1 true 458754 65537], by decide +kernel⟩,
   ⟨0, (nvCmd 1 true 2 0), nvUp [nvCmd 1 true 2 0], by decide +kernel⟩,
   ⟨0, 2, 8, 0, (nvCmd 5 true 458754 1), nvUp [nvCmd 5 true 458754 1], by decide +kernel⟩,
   ⟨0, 1, (nvCmd 0 true 1 0), nvUp [nvCmd 0 true 1 0], by decide +kernel⟩,
   ⟨0, 1, (nvCmd 4 true 1 0), (nvUp [nvCmd 4 true 1 0]).onDev (fun d => d.setNvc 0 (fun x => { x with sqs := SMap.del x.sqs 1 })), by decide +kernel⟩,
   ⟨0, (nvCmd 4 true 1 0), nvUp [nvCmd 4 true 1 0], by decide +kernel⟩,
   ⟨0, (nvCmd 2 true 5 0), ((nvUp [nvCmd 2 true 5 0]).dev.setCmd 0 0 (fun x => { x with segs := [(4096, 4)], phase := 1 })), nvUp [nvCmd 2 true 5 0], by decide +kernel⟩,
   ⟨0, (nvCmd 2 true 4 0), nvUp [nvCmd 2 true 4 0], by decide +kernel⟩,
   ⟨0, (nvCmd 6 true 2 0), ((nvUp [nvCmd 6 true 2 0]).dev.setCmd 0 0 (fun x => { x with segs := [(4096, 4096)], phase := 1 })), nvUp [nvCmd 6 true 2 0], by decide +kernel⟩,
   ⟨0, { id := 0, sq := 0, cid := 7, sqe := [6#8, 64#8], mark := 0 }, nvUp [{ id := 0, sq := 0, cid := 7, sqe := [6#8, 64#8], mark := 0 }], by decide +kernel⟩,
   ⟨0, (nvCmd 8 true 458753 0), { nvCmd 2 false 0 0 with id := 1 }, nvUp [nvCmd 8 true 458753 0, { nvCmd 2 false 0 0 with id := 1 }], by decide +kernel⟩,
   ⟨0, (nvCmd 8 true 1 0), nvUp [nvCmd 8 true 1 0], by decide +kernel⟩,
   ⟨0, 6, (nvCmd 9 true 6 1), nvUp [nvCmd 9 true 6 1], by decide +kernel⟩,
   ⟨0, (nvCmd 9 true 2 3), nvUp [nvCmd 9 true 2 3], by decide +kernel⟩,
   ⟨0, (nvCmd 9 true 3 3), nvUp [nvCmd 9 true 3 3], by decide +kernel⟩,
   ⟨0, 6, (nvCmd 10 true 6 0), nvUp [nvCmd 10 true 6 0], by decide +kernel⟩,
   ⟨0, (nvCmd 12 true 0 0), nvUp [nvCmd 12 true 0 0], by decide +kernel⟩,
   ⟨0, (nvCmd 128 true 0 0), nvUp [nvCmd 128 true 0 0], by decide +kernel⟩,
   ⟨0, (nvCmd 5 false 0 0), nvUp [nvCmd 5 false 0 0], by decide +kernel⟩,
   ⟨0, State.reset, by decide +kernel⟩⟩

/-- The hypotheses of `NvmCommandsAndPowerFail` can be met, clause by clause. -/
theorem witness_NvmCommandsAndPowerFail :
    (∃ (c : Nat) (m : NvCmd) (b k : Bytes) (s : State), (s.dev.nvTakes c false 2 m = true ∧ c < 1024) ∧ (s.dev.nvStop c m = 0 ∧ cmdNlb m = 1) ∧ (s.dev.nsEntry (cmdNs m) = some b ∧ s.dev.blockNow (cmdNs m) (cmdLba m) = none) ∧ (k = s.dev.extEntry (nsBase b + cmdLba m / extBlocks b) ∧ extValid k = true ∧ s.dev.nvme.failed.contains (extBackend k) = false ∧ byteAt (s.dev.backendBytes (extBackend k)) 0 = 1) ∧ (0 < extBlocks b ∧ 0 < nsLba b ∧ byteAt m.sqe 1 / 64 = 0 ∧ nsLba b ≤ (s.dev.nv c).page - le64 m.sqe 24 % (s.dev.nv c).page)) ∧
    (∃ (c : Nat) (m : NvCmd) (s : State), (s.dev.nvTakes c false 2 m = true) ∧ (s.dev.nvStop c m ≠ 0)) ∧
    (∃ (c : Nat) (m : NvCmd) (a n : Nat) (s : State), (s.dev.nvTakes c false 1 m = true ∧ c < 1024) ∧ (s.dev.nvStop c m = 0 ∧ s.dev.nvRoom c m = true ∧ s.dev.nvBehind m = false) ∧ (nvPtr (s.dev.nv c).page m.sqe (s.dev.cmdBytes c m) = .ok [(a, n)])) ∧
    (∃ (c : Nat) (m : NvCmd) (s : State), (s.dev.nvTakes c false 1 m = true) ∧ (s.dev.nvStop c m = 0 ∧ s.dev.nvRoom c m = false)) ∧
    (∃ (c : Nat) (m : NvCmd) (s : State), (s.dev.nvTakes c false 1 m = true) ∧ (s.dev.nvStop c m ≠ 0)) ∧
    (∃ (c : Nat) (m : NvCmd) (b : Bytes) (s : State), (s.dev.nvTakes c false 8 m = true) ∧ (s.dev.nvStop c m = 0 ∧ s.dev.nvRoom c m = true ∧ s.dev.nvBehind m = false) ∧ (s.dev.nsEntry (s.dev.cmdNsid c m) = some b ∧ s.dev.nvShared b m = none ∧ s.dev.nvFua c m = false)) ∧
    (∃ (c : Nat) (m : NvCmd) (s : State), (s.dev.nvTakes c false 0 m = true ∧ c < 1024) ∧ (s.dev.nsStop c (cmdNs m) = 0 ∧ SMap.getD (s.dev.nv c).feats 6 1 % 2 = 0)) ∧
    (∃ (c : Nat) (k : NvCtrl) (m : NvCmd) (s : State), (s.dev.nvTakes c false 0 m = true ∧ c < 1024) ∧ (s.dev.nsStop c (cmdNs m) = 0 ∧ SMap.getD (s.dev.nv c).feats 6 1 % 2 = 1 ∧ s.dev.nvme.dirty = []) ∧ (s.dev.nvme.ctrls = [(c, k)] ∧ k.cmds = [m])) ∧
    (∃ (c : Nat) (k : NvCtrl) (m : NvCmd) (s : State), (s.dev.nvTakes c false 0 m = true ∧ c < 1024) ∧ (s.dev.nsStop c (cmdNs m) = 0 ∧ SMap.getD (s.dev.nv c).feats 6 1 % 2 = 1 ∧ s.dev.nvme.failed = []) ∧ (s.dev.nvme.ctrls = [(c, k)] ∧ k.cmds = [m] ∧ s.dev.mediaLeft c m ≠ [])) ∧
    (∃ (c : Nat) (m : NvCmd) (s : State), (s.dev.nvTakes c false 9 m = true)) ∧
    (∃ (c shn : Nat) (s : State), (s.dev.storOn = true ∧ s.dev.on R.NC_INFO_EN c = true ∧ s.dev.inService (s.dev.nvFn c) = true) ∧ (s.dev.rd R.NC_INFO_SHST c = 0 ∧ (shn = 1 ∨ shn = 2))) ∧
    (∃ (s : State), (s.dev.storOn = true)) ∧
    (∃ (s : State), (s.dev.unit 2 = true ∧ s.dev.on R.NV_STATUS_PF_ACTIVE = false ∧ s.dev.nvme.pfDone = false ∧ 5 ∉ s.dev.rst.active)) ∧
    (∃ (v : Bool) (ms : Nat) (s : State), (s.dev.on R.NV_STATUS_PF_ACTIVE = true) ∧ (s.dev.nvme.dirty = [])) ∧
    (∃ (v : Bool) (ms : Nat) (s : State), (s.dev.on R.NV_STATUS_PF_ACTIVE = true) ∧ (s.dev.nvme.dirty ≠ [] ∧ (∀ x, x ∈ s.dev.nvme.dirty → s.dev.onDrive x = true))) ∧
    (∃ (l : List NvExtent) (s : State), (s.dev.storOn = true ∧ s.dev.on R.NV_STATUS_VAULT_RESTORE = true) ∧ (s.dev.mram.vault = some (true, l))) :=
  ⟨⟨0, (nvCmd 2 false 0 0), nvNs, nvExt, nvUp [nvCmd 2 false 0 0], by decide +kernel⟩,
   ⟨0, (nvCmd 2 false 4096 0), nvUp [nvCmd 2 false 4096 0], by decide +kernel⟩,
   ⟨0, (nvCmd 1 false 0 0), 4096, 512, nvUp [nvCmd 1 false 0 0], by decide +kernel⟩,
   ⟨0, (nvCmd 1 false 0 0), (nvUp [nvCmd 1 false 0 0]).onDev (fun d => d.wr R.NV_DIRTY_MAX 0), by decide +kernel⟩,
   ⟨0, (nvCmd 1 false 4096 0), nvUp [nvCmd 1 false 4096 0], by decide +kernel⟩,
   ⟨0, (nvCmd 8 false 0 0), nvNs, nvUp [nvCmd 8 false 0 0], by decide +kernel⟩,
   ⟨0, (nvCmd 0 false 0 0), (nvUp [nvCmd 0 false 0 0]).onDev (fun d => d.setNvc 0 (fun x => { x with feats := [(6, 0)] })), by decide +kernel⟩,
   ⟨0, (nvUp [nvCmd 0 false 0 0]).dev.nv 0, (nvCmd 0 false 0 0), nvUp [nvCmd 0 false 0 0], by decide +kernel⟩,
   ⟨0, (nvUp [nvCmd 0 false 0 0]).dev.nv 0, (nvCmd 0 false 0 0), (nvUp [nvCmd 0 false 0 0]).onDev (fun d => { d with nvme := { d.nvme with dirty := [({ ns := 1, ext := 0, blocks := [(0, { data := [1#8], ver := 0, since := 0, ctrls := [(0, 0)] })] } : NvExtent)] } }), by decide +kernel⟩,
   ⟨0, (nvCmd 9 false 0 0), nvUp [nvCmd 9 false 0 0], by decide +kernel⟩,
   ⟨0, 1, nvUp [], by decide +kernel⟩,
   ⟨State.reset, by decide +kernel⟩,
   ⟨nvUp [nvCmd 2 false 0 0], by decide +kernel⟩,
   ⟨true, 120, dev (fun d => d.flag R.NV_STATUS_PF_ACTIVE), by decide +kernel⟩,
   ⟨false, 200, ((nvUp []).onDev (fun d => { d with nvme := { d.nvme with dirty := [({ ns := 1, ext := 0, blocks := [(0, ({ data := [1#8, 2#8], ver := 1, since := 1, ctrls := [(0, 1)] } : NvBlock))] } : NvExtent)], accepted := 1 } })).onDev (fun d => d.flag R.NV_STATUS_PF_ACTIVE), by decide +kernel⟩,
   ⟨[({ ns := 1, ext := 0, blocks := [(0, ({ data := [1#8, 2#8], ver := 1, since := 1, ctrls := [(0, 1)] } : NvBlock))] } : NvExtent)], (nvUp []).onDev (fun d => { d.flag R.NV_STATUS_VAULT_RESTORE with mram := { d.mram with vault := some (true, [({ ns := 1, ext := 0, blocks := [(0, ({ data := [1#8, 2#8], ver := 1, since := 1, ctrls := [(0, 1)] } : NvBlock))] } : NvExtent)]) } }), by decide +kernel⟩⟩

/-- The hypotheses of `DirtyDataReachesItsBackends` can be met, clause by clause. -/
theorem witness_DirtyDataReachesItsBackends :
    (∃ (x : NvExtent) (b k : Bytes) (s : State), (s.dev.nvme.dirty = [x] ∧ s.dev.nsEntry x.ns = some b ∧ s.dev.mayDestage x.ns = true ∧ s.dev.destaging x = false ∧ s.dev.on R.NV_STATUS_PF_ACTIVE = false) ∧ (k = s.dev.extEntry (nsBase b + x.ext) ∧ extValid k = true ∧ s.dev.backendOk (extBackend k) = true ∧ byteAt (s.dev.backendBytes (extBackend k)) 0 ≠ 3)) ∧
    (∃ (s : State), (s.dev.nvme.dirty = [])) ∧
    (∃ (id : Nat) (x : Bytes) (r : NvReq) (s : State), (s.dev.storOn = true ∧ s.dev.nvme.reqs.find? (fun r => r.id == id && r.kind != 2) = some r ∧ r.kind = 1) ∧ (s.dev.nvme.dirty = [{ ns := r.ns, ext := r.ext, blocks := [] }] ∨ s.dev.nvme.dirty = []) ∧ (s.dev.nvme.ctrls = [])) ∧
    (∃ (id l v : Nat) (x : Bytes) (k : NvBlock) (r : NvReq) (s : State), (s.dev.storOn = true ∧ s.dev.nvme.reqs.find? (fun r => r.id == id && r.kind != 2) = some r ∧ r.kind = 1) ∧ (s.dev.nvme.dirty = [{ ns := r.ns, ext := r.ext, blocks := [(l, k)] }] ∧ r.vers = [(l, v)])) ∧
    (∃ (id n : Nat) (x : Bytes) (r : NvReq) (s : State), (s.dev.storOn = true ∧ s.dev.nvme.reqs.find? (fun r => r.id == id && r.kind != 2) = some r ∧ r.kind = 1) ∧ (SMap.getD s.dev.nvme.tries r.backend 0 = n ∧ n < 15)) ∧
    (∃ (id : Nat) (x : Bytes) (m : NvCmd) (r : NvReq) (s : State), (s.dev.storOn = true ∧ s.dev.nvme.reqs.find? (fun r => r.id == id && r.kind != 2) = some r ∧ r.kind = 0) ∧ ((s.dev.setNv (fun s => { s with reqs := s.reqs.filter (fun y => y.id != r.id) })).cmdOf r.ctrl r.cmd = some m)) ∧
    (∃ (id : Nat) (ok : Bool) (x : Bytes) (s : State), (s.dev.nvme.reqs.find? (fun r => r.id == id && r.kind != 2) = none)) ∧
    (∃ (b c : Nat) (x : NvExtent) (s : State), (s.dev.storOn = true ∧ SMap.get? s.dev.nvme.retry b = some c ∧ c < s.dev.cyc + 8) ∧ (s.dev.nvme.dirty = [x] ∧ s.dev.backendOf x.ns x.ext = b ∧ s.dev.nvme.reqs = [] ∧ s.dev.mayDestage x.ns = true ∧ b < 256 ∧ s.dev.backendOk b = true)) ∧
    (∃ (b : Nat) (s : State), (SMap.get? s.dev.nvme.retry b = none)) ∧
    (∃ (link : Nat) (cfs : Bool) (l : List Nat) (b : Nat) (x : Bytes) (s : State), (s.dev.storOn = true ∧ s.dev.mram.backends = [(b, x)] ∧ byteAt x 0 = 1 ∧ le32 x 12 = link ∧ bit (byteAt x 1) 0 = true ∧ b ∉ s.dev.nvme.failed) ∧ (cfs = true → b ∈ l)) ∧
    (∃ (link : Nat) (l : List Nat) (s : State), (s.dev.storOn = true ∧ s.dev.mram.backends = [])) ∧
    (∃ (link speed width : Nat) (s : State), (s.dev.storOn = true ∧ (link = 1 → s.dev.on R.DS_MODE = true))) ∧
    (∃ (b : Nat) (s : State), (s.dev.storOn = true ∧ byteAt (s.dev.backendBytes b) 0 = 2 ∧ bit (byteAt (s.dev.backendBytes b) 1) 0 = true)) ∧
    (∃ (s : State), (s.dev.nvme.reqs.any (fun r => r.kind == 3) = false)) ∧
    (∃ (n : Nat) (g : Bytes) (gs : List Bytes) (s : State), (s.dev.rd R.CS_CTRL_DEST n = 1 ∧ (s.dev.stream n).segs = g :: gs ∧ (s.dev.stream n).sent ≠ 0)) ∧
    (∃ (r : NvReq) (s : State), (s.dev.nvme.reqs = [r] ∧ r.kind = 2 ∧ s.dev.nvme.ctrls = [])) ∧
    (∃ (s : State), (s.dev.nvme.reqs = [])) :=
  ⟨⟨({ ns := 1, ext := 0, blocks := [(0, ({ data := [1#8, 2#8], ver := 1, since := 1, ctrls := [(0, 1)] } : NvBlock))] } : NvExtent), nvNs, nvExt, (nvUp []).onDev (fun d => { d with nvme := { d.nvme with dirty := [({ ns := 1, ext := 0, blocks := [(0, ({ data := [1#8, 2#8], ver := 1, since := 1, ctrls := [(0, 1)] } : NvBlock))] } : NvExtent)], accepted := 1 } }), by decide +kernel⟩,
   ⟨State.reset, by decide +kernel⟩,
   ⟨4, [], ({ id := 4, backend := 0, kind := 1, ns := 1, ext := 0, first := 0, count := 2, vers := [(0, 1)], data := [1#8, 2#8] } : NvReq), dev (fun d => { d with nvme := { d.nvme with reqs := [({ id := 4, backend := 0, kind := 1, ns := 1, ext := 0, first := 0, count := 2, vers := [(0, 1)], data := [1#8, 2#8] } : NvReq)] } }), by decide +kernel⟩,
   ⟨4, 0, 1, [], ({ data := [1#8, 2#8], ver := 1, since := 1, ctrls := [(0, 1)] } : NvBlock), ({ id := 4, backend := 0, kind := 1, ns := 1, ext := 0, first := 0, count := 2, vers := [(0, 1)], data := [1#8, 2#8] } : NvReq), (nvUp []).onDev (fun d => { d with nvme := { d.nvme with dirty := [({ ns := 1, ext := 0, blocks := [(0, ({ data := [1#8, 2#8], ver := 1, since := 1, ctrls := [(0, 1)] } : NvBlock))] } : NvExtent)], accepted := 1, reqs := [({ id := 4, backend := 0, kind := 1, ns := 1, ext := 0, first := 0, count := 2, vers := [(0, 1)], data := [1#8, 2#8] } : NvReq)] } }), by decide +kernel⟩,
   ⟨4, 0, [], ({ id := 4, backend := 0, kind := 1, ns := 1, ext := 0, first := 0, count := 2, vers := [(0, 1)], data := [1#8, 2#8] } : NvReq), (nvUp []).onDev (fun d => { d with nvme := { d.nvme with dirty := [({ ns := 1, ext := 0, blocks := [(0, ({ data := [1#8, 2#8], ver := 1, since := 1, ctrls := [(0, 1)] } : NvBlock))] } : NvExtent)], accepted := 1, reqs := [({ id := 4, backend := 0, kind := 1, ns := 1, ext := 0, first := 0, count := 2, vers := [(0, 1)], data := [1#8, 2#8] } : NvReq)] } }), by decide +kernel⟩,
   ⟨4, [], { nvCmd 2 false 0 0 with phase := 3, need := [0] }, ({ id := 4, backend := 0, kind := 0, ns := 1, ext := 0, first := 0, count := 512, ctrl := 0, cmd := 0 } : NvReq), (nvUp [{ nvCmd 2 false 0 0 with phase := 3, need := [0] }]).onDev (fun d => { d with nvme := { d.nvme with reqs := [({ id := 4, backend := 0, kind := 0, ns := 1, ext := 0, first := 0, count := 512, ctrl := 0, cmd := 0 } : NvReq)] } }), by decide +kernel⟩,
   ⟨3, true, [], State.reset, by decide +kernel⟩,
   ⟨0, 0, ({ ns := 1, ext := 0, blocks := [(0, ({ data := [1#8, 2#8], ver := 1, since := 1, ctrls := [(0, 1)] } : NvBlock))] } : NvExtent), ((nvUp []).onDev (fun d => { d with nvme := { d.nvme with dirty := [({ ns := 1, ext := 0, blocks := [(0, ({ data := [1#8, 2#8], ver := 1, since := 1, ctrls := [(0, 1)] } : NvBlock))] } : NvExtent)], accepted := 1 } })).onDev (fun d => { d with nvme := { d.nvme with retry := [(0, 0)] } }), by decide +kernel⟩,
   ⟨3, State.reset, by decide +kernel⟩,
   ⟨0, true, [0], 0, nvDrive, nvUp [], by decide +kernel⟩,
   ⟨0, [], State.reset, by decide +kernel⟩,
   ⟨0, 5, 8, State.reset, by decide +kernel⟩,
   ⟨0, dev (fun d => { d with mram := { d.mram with backends := [(0, [2#8, 1#8])] } }), by decide +kernel⟩,
   ⟨State.reset, by decide +kernel⟩,
   ⟨2, [7#8], [], dev (fun d => (d.wr R.CS_CTRL_DEST 1 2).setStream 2 (fun x => { x with segs := [[7#8]], sent := 1 })), by decide +kernel⟩,
   ⟨{ id := 4, backend := 0, kind := 2, ns := 1, ext := 0, first := 0, count := 0 }, (nvUp []).onDev (fun d => { d with nvme := { d.nvme with ctrls := [], reqs := [{ id := 4, backend := 0, kind := 2, ns := 1, ext := 0, first := 0, count := 0 }] } }), by decide +kernel⟩,
   ⟨State.reset, by decide +kernel⟩⟩

/-- The hypotheses of `FabricLinksAndFrames` can be met, clause by clause. -/
theorem witness_FabricLinksAndFrames :
    (∃ (req p : Nat) (s : State), (s.dev.fabOn = true ∧ s.dev.on R.FB_CTRL_EN = true ∧ s.dev.fabState p = 0)) ∧
    (∃ (req p : Nat) (s : State), (s.dev.fabOn = true ∧ s.dev.on R.FB_CTRL_EN = false ∧ s.dev.fabState p = 0)) ∧
    (∃ (p : Nat) (s : State), (s.dev.fabOn = true ∧ s.dev.fabState p = 1)) ∧
    (∃ (p : Nat) (s : State), (s.dev.fabOn = true ∧ s.dev.fabState p ≠ 1)) ∧
    (∃ (p : Nat) (s : State), (s.dev.fabOn = true ∧ s.dev.fabState p = 2)) ∧
    (∃ (p : Nat) (s : State), (s.dev.fabOn = true ∧ s.dev.fabUp p = true ∧ p < 8)) ∧
    (∃ (p : Nat) (b : Bytes) (s : State), (s.dev.fabOn = true ∧ s.dev.fabState p = 2 ∧ byteAt b 0 = 1 ∧ p < 8)) ∧
    (∃ (p : Nat) (b : Bytes) (s : State), (s.dev.fabOn = true ∧ s.dev.fabState p = 2 ∧ byteAt b 0 = 1)) ∧
    (∃ (p : Nat) (s : State), (s.dev.fabOn = true ∧ s.dev.helloing p = true)) ∧
    (∃ (p : Nat) (s : State), (s.dev.fabOn = true ∧ s.dev.fabUp p = true ∧ p < 8 ∧ (s.dev.fabPort p).hello + 30000 < s.dev.cyc + 8)) ∧
    (∃ (p : Nat) (s : State), (s.dev.cyc + 8 ≤ (s.dev.fabPort p).hello + 30000)) ∧
    (∃ (p : Nat) (raw : Bytes) (s : State), (s.dev.fabOn = true ∧ s.dev.helloing p = true ∧ s.dev.stopped 0x1A = false) ∧ (fabHdrBad raw = true)) ∧
    (∃ (p : Nat) (raw : Bytes) (s : State), (s.dev.fabOn = true ∧ s.dev.fabUp p = true ∧ s.dev.stopped 0x1A = false) ∧ (fabHdrBad raw = false ∧ fabFcsGood raw = true ∧ fabType raw = 3 ∧ fabTc raw ≠ 7) ∧ (fabDst raw = s.dev.fabAddr ∧ fabDst raw ≠ 0 ∧ fabDst raw ≠ 0xFFF)) ∧
    (∃ (p q : Nat) (raw : Bytes) (s : State), (s.dev.fabOn = true ∧ s.dev.fabUp p = true ∧ s.dev.stopped 0x1A = false) ∧ (fabHdrBad raw = false ∧ fabFcsGood raw = true ∧ fabType raw = 3 ∧ fabTc raw ≠ 7) ∧ (fabDst raw ≠ s.dev.fabAddr ∧ fabDst raw ≠ 0xFFF ∧ fabHops raw < 16 ∧ s.dev.fabPick (fabSrc raw) (fabDst raw) (fabEntropy raw) = some q) ∧ (s.dev.fabRoom q (fabTc raw) (raw.length - 4) = true)) ∧
    (∃ (p : Nat) (raw : Bytes) (s : State), (s.dev.fabOn = true ∧ s.dev.fabUp p = true ∧ s.dev.stopped 0x1A = false) ∧ (fabHdrBad raw = false ∧ fabType raw = 3 ∧ fabTc raw ≠ 7) ∧ (fabDst raw ≠ s.dev.fabAddr ∧ fabDst raw ≠ 0xFFF ∧ fabHops raw = 16)) ∧
    (∃ (p n : Nat) (s : State), (s.dev.fabOn = true ∧ s.dev.fabUp p = true)) ∧
    (∃ (p : Nat) (h : FabHeld) (s : State), (s.dev.fabOn = true ∧ s.dev.fabUp p = true ∧ (s.dev.fabPort p).held = [h] ∧ h.sent + 2000 < s.dev.cyc + 8)) ∧
    (∃ (p : Nat) (s : State), (s.dev.fabUp p = false)) :=
  ⟨⟨0, 1, (fabSt 0), by decide +kernel⟩,
   ⟨0, 1, State.reset, by decide +kernel⟩,
   ⟨1, (fabSt 1), by decide +kernel⟩,
   ⟨1, (fabSt 2), by decide +kernel⟩,
   ⟨1, (fabSt 2), by decide +kernel⟩,
   ⟨1, (fabSt 4), by decide +kernel⟩,
   ⟨1, [1#8, 3#8, 7#8, 7#8], (fabSt 2), by decide +kernel⟩,
   ⟨1, [1#8, 3#8], (fabSt 2), by decide +kernel⟩,
   ⟨1, (fabSt 4), by decide +kernel⟩,
   ⟨1, (fabSt 4).onDev (fun d => { d with tk := { d.tk with etick := 10000 } }), by decide +kernel⟩,
   ⟨1, (fabSt 4), by decide +kernel⟩,
   ⟨1, [], (fabSt 4), by decide +kernel⟩,
   ⟨1, fabIn 3 9, (fabSt 4), by decide +kernel⟩,
   ⟨1, 1, fabIn 3 7, (fabSt 4).onDev (fun d => d.wr R.RT_ENTRY_MASK 2 7), by decide +kernel⟩,
   ⟨1, fabSeal 0 true (fabFrame 3 0 7 5 16 0 [7#8]), (fabSt 4), by decide +kernel⟩,
   ⟨1, 3, (fabSt 4), by decide +kernel⟩,
   ⟨1, ⟨3, [], 0⟩, (fabSt 4).onDev (fun d => { d.setFabPort 1 (fun x => { x with held := [⟨3, [], 0⟩] }) with tk := { d.tk with etick := 1000 } }), by decide +kernel⟩,
   ⟨1, (fabSt 2), by decide +kernel⟩⟩

/-- The hypotheses of `FabricDatabaseRoutesAndTime` can be met, clause by clause. -/
theorem witness_FabricDatabaseRoutesAndTime :
    (∃ (p : Nat) (b : Bytes) (s : State), (s.dev.fabOn = true ∧ s.dev.fabUp p = true) ∧ (s.dev.lsaOf (lsaUid b) = none)) ∧
    (∃ (p : Nat) (b : Bytes) (l : FabLsa) (s : State), (s.dev.fabOn = true ∧ s.dev.fabUp p = true) ∧ (s.dev.lsaOf (lsaUid b) = some l ∧ serialNewer (lsaSeq b) l.seq = true)) ∧
    (∃ (p : Nat) (b : Bytes) (l : FabLsa) (s : State), (s.dev.fabOn = true ∧ s.dev.fabUp p = true) ∧ (s.dev.lsaOf (lsaUid b) = some l ∧ l.seq = lsaSeq b)) ∧
    (∃ (n : Nat) (s : State), (s.dev.fabOn = true ∧ s.dev.on R.FB_CTRL_EN = true) ∧ (n = ((match s.dev.lsaOf ownUid with | some l => l.seq | none => s.dev.fab.ownSeq) + 1) % 2 ^ 32)) ∧
    (∃ (p u a : Nat) (s : State), (s.dev.fabOn = true ∧ s.dev.fabUp p = true ∧ (u, a) ∉ s.dev.fab.given)) ∧
    (∃ (p u a : Nat) (s : State), ((u, a) ∈ s.dev.fab.given)) ∧
    (∃ (s : State), (s.dev.fabOn = true ∧ s.dev.on R.FB_CTRL_EN = true ∧ s.dev.on R.FB_CTRL_ROUTE_SW = false)) ∧
    (∃ (s : State), (s.dev.fabOn = true ∧ s.dev.on R.FB_CTRL_EN = true ∧ s.dev.on R.FB_CTRL_ROUTE_SW = true)) ∧
    (∃ (req a mask : Nat) (s : State), (s.dev.fabOn = true ∧ s.dev.on R.FB_CTRL_ROUTE_SW = true ∧ s.dev.tk.wrote = [])) ∧
    (∃ (req a mask : Nat) (s : State), (s.dev.fabOn = true ∧ s.dev.on R.FB_CTRL_ROUTE_SW = false)) ∧
    (∃ (es : List Nat) (te tv : Nat) (s : State), (s.dev.fabOn = true)) ∧
    (∃ (p td e po tm te tv : Nat) (b : Bytes) (s : State), (s.dev.fabOn = true ∧ s.dev.fabUp p = true ∧ s.dev.on R.FB_TIME_PARENT_V = true ∧ s.dev.rd R.FB_TIME_PARENT = p)) ∧
    (∃ (p td e po tm te tv : Nat) (b : Bytes) (s : State), (s.dev.on R.FB_TIME_PARENT_V = false ∨ s.dev.rd R.FB_TIME_PARENT ≠ p)) ∧
    (∃ (p td e po : Nat) (b : Bytes) (s : State), (s.dev.fabOn = true ∧ s.dev.fabUp p = true)) ∧
    (∃ (p : Nat) (b : Bytes) (x : FabExch) (s : State), (s.dev.fabOn = true ∧ s.dev.fabUp p = true ∧ s.dev.fab.exch = some x ∧ byteAt b 1 = x.num ∧ x.port = p) ∧ (s.dev.rd R.TB_CTRL_SRC ≠ 2)) ∧
    (∃ (p : Nat) (b : Bytes) (x : FabExch) (s : State), (s.dev.fabOn = true ∧ s.dev.fabUp p = true ∧ s.dev.fab.exch = some x ∧ byteAt b 1 = x.num ∧ x.port = p) ∧ (s.dev.rd R.TB_CTRL_SRC = 2 ∧ le16 b 2 ≠ x.gen)) ∧
    (∃ (p : Nat) (b : Bytes) (s : State), (s.dev.fab.exch = none)) :=
  ⟨⟨1, lsa1, (fabSt 4), by decide +kernel⟩,
   ⟨1, lsa1, ⟨5, [], 2, 0⟩, (fabSt 4).onDev (fun d => d.setFab (fun x => { x with lsdb := [⟨5, [], 2, 0⟩] })), by decide +kernel⟩,
   ⟨1, lsa1, ⟨5, [], 3, 0⟩, (fabSt 4).onDev (fun d => d.setFab (fun x => { x with lsdb := [⟨5, [], 3, 0⟩] })), by decide +kernel⟩,
   ⟨1, (fabSt 4), by decide +kernel⟩,
   ⟨1, 5, 3, (fabSt 4), by decide +kernel⟩,
   ⟨1, 5, 3, (fabSt 4).onDev (fun d => d.setFab (fun x => { x with given := [(5, 3)] })), by decide +kernel⟩,
   ⟨(fabSt 4), by decide +kernel⟩,
   ⟨(fabSt 4).onDev (fun d => d.flag R.FB_CTRL_ROUTE_SW), by decide +kernel⟩,
   ⟨0, 7, 2, (fabSt 4).onDev (fun d => d.flag R.FB_CTRL_ROUTE_SW), by decide +kernel⟩,
   ⟨0, 7, 2, (fabSt 4), by decide +kernel⟩,
   ⟨[0, 0], 0, 0, (fabSt 4), by decide +kernel⟩,
   ⟨1, 0, 0, 0, 0, 0, 0, [2#8, 3#8], (fabSt 4).onDev (fun d => (d.flag R.FB_TIME_PARENT_V).wr R.FB_TIME_PARENT 1), by decide +kernel⟩,
   ⟨1, 0, 0, 0, 0, 0, 0, [2#8, 3#8], (fabSt 4), by decide +kernel⟩,
   ⟨1, 0, 0, 0, [3#8, 3#8], (fabSt 4), by decide +kernel⟩,
   ⟨1, [4#8, 3#8], ({ num := 3, gen := 0, own := 0, t1 := 0, t2 := 65536, t3 := 131072, port := 1 } : FabExch), (fabSt 4).onDev (fun d => (d.setFab (fun y => { y with exch := some ({ num := 3, gen := 0, own := 0, t1 := 0, t2 := 65536, t3 := 131072, port := 1 } : FabExch) }))), by decide +kernel⟩,
   ⟨1, [4#8, 3#8, 1#8, 0#8], ({ num := 3, gen := 0, own := 0, t1 := 0, t2 := 65536, t3 := 131072, port := 1 } : FabExch), (fabSt 4).onDev (fun d => (d.setFab (fun y => { y with exch := some ({ num := 3, gen := 0, own := 0, t1 := 0, t2 := 65536, t3 := 131072, port := 1 } : FabExch) })).wr R.TB_CTRL_SRC 2), by decide +kernel⟩,
   ⟨1, [4#8, 3#8], (fabSt 4), by decide +kernel⟩⟩

/-- The hypotheses of `BootEndsRecoversAndReleases` can be met, clause by clause. -/
theorem witness_BootEndsRecoversAndReleases :
    (∃ (v : Nat) (s : State), (64 < v ∨ v < s.fuse.svn)) ∧
    (∃ (v : Nat) (s : State), (v = s.fuse.svn ∧ v ≤ 64)) ∧
    (∃ (v : Nat) (s : State), (s.fuse.svn < v ∧ v ≤ 64)) ∧
    (∃ (req : Nat) (s : State), (isHart req = true ∧ reqIsland req = 0x0D ∧ s.dev.on R.CLU_STATUS_RELEASED 0 = true ∧ s.dev.on R.BT_STATUS_DONE = false)) ∧
    (∃ (req : Nat) (s : State), (isHart req = false ∨ s.dev.on R.BT_STATUS_DONE = true)) ∧
    (∃ (n : Nat) (s : State), (s.dev.boot.since = some n ∧ n + 125000000 ≤ s.dev.tk.etick ∧ s.dev.on R.BT_STATUS_SKIPPED = false)) ∧
    (∃ (n : Nat) (s : State), (s.dev.boot.since = some n ∧ n + 125000000 ≤ s.dev.tk.etick ∧ s.dev.on R.BT_STATUS_SKIPPED = true)) ∧
    (∃ (s : State), (s.dev.boot.since = none)) ∧
    (∃ (b : Bool) (s : State), (s.dev.recovery = true ∧ s.dev.on R.RC_STATUS_BUSY = false ∧ s.dev.on R.FN_INFO_BME 0 = true) ∧ (s.dev.rd R.RC_ADDR % 4096 = 0 ∧ 4096 ≤ s.dev.rd R.RC_LEN ∧ s.dev.rd R.RC_LEN ≤ 64 * 2 ^ 20)) ∧
    (∃ (b : Bool) (s : State), (s.dev.recovery = true) ∧ (s.dev.on R.RC_STATUS_BUSY = true ∨ s.dev.on R.FN_INFO_BME 0 = false ∨ s.dev.rd R.RC_ADDR % 4096 ≠ 0 ∨ s.dev.rd R.RC_LEN < 4096 ∨ 64 * 2 ^ 20 < s.dev.rd R.RC_LEN)) ∧
    (∃ (b : Bool) (s : State), (s.dev.recovery = false)) ∧
    (∃ (req c : Nat) (s : State), (mayRelease req = true ∧ s.dev.clPresent c = true ∧ c ≠ 0)) ∧
    (∃ (req c : Nat) (s : State), (mayRelease req = false)) ∧
    (∃ (req c : Nat) (s : State), (mayRelease req = true ∧ s.dev.svPresent c = true)) ∧
    (∃ (req c : Nat) (s : State), (mayRelease req = false)) :=
  ⟨⟨65, State.reset, by decide +kernel⟩,
   ⟨0, State.reset, by decide +kernel⟩,
   ⟨3, State.reset, by decide +kernel⟩,
   ⟨4104, dev (fun d => d.flag R.CLU_STATUS_RELEASED 0), by decide +kernel⟩,
   ⟨0, State.reset, by decide +kernel⟩,
   ⟨0, dev (fun d => { d with tk := { d.tk with etick := 125000000 }, boot := { d.boot with since := some 0 } }), by decide +kernel⟩,
   ⟨0, dev (fun d => { d.flag R.BT_STATUS_SKIPPED with tk := { d.tk with etick := 125000000 }, boot := { d.boot with since := some 0 } }), by decide +kernel⟩,
   ⟨dev (fun d => { d with boot := { d.boot with since := none } }), by decide +kernel⟩,
   ⟨true, dev (fun d => { ((d.flag R.FN_INFO_BME 0).wr R.RC_LEN 4096).wr R.RC_ADDR 8192 with boot := { d.boot with halted := true }, pins := { d.pins with bootErr := 0xC } }), by decide +kernel⟩,
   ⟨true, dev (fun d => { d with boot := { d.boot with halted := true }, pins := { d.pins with bootErr := 0xC } }), by decide +kernel⟩,
   ⟨true, State.reset, by decide +kernel⟩,
   ⟨0, 1, State.reset, by decide +kernel⟩,
   ⟨7, 1, State.reset, by decide +kernel⟩,
   ⟨0, 1, State.reset, by decide +kernel⟩,
   ⟨7, 1, State.reset, by decide +kernel⟩⟩

/-- The hypotheses of `FirmwareIsWrittenAndSwitched` can be met, clause by clause. -/
theorem witness_FirmwareIsWrittenAndSwitched :
    (∃ (i j : Nat) (x : ObjXfer) (s : State), (s.dev.xfer i j = some x ∧ x.tick + 125000000 ≤ s.dev.tk.etick)) ∧
    (∃ (i j : Nat) (x : ObjXfer) (s : State), (s.dev.xfer i j = some x ∧ s.dev.tk.etick < x.tick + 125000000)) ∧
    (∃ (who off : Nat) (b : Bytes) (last : Bool) (s : State), (s.dev.obj.erasing = true)) ∧
    (∃ (who : Nat) (b : Bytes) (last : Bool) (s : State), (s.dev.obj.erasing = false ∧ s.dev.xfer 0x7F00 1 = none) ∧ (s.dev.rd R.HU_STATE = 1 ∨ s.dev.rd R.HU_STATE = 2)) ∧
    (∃ (who : Nat) (b : Bytes) (s : State), (s.dev.obj.erasing = false ∧ s.dev.xfer 0x7F00 1 = none ∧ b.length ≤ 64 * 2 ^ 20) ∧ (s.dev.rd R.HU_STATE ≠ 1 ∧ s.dev.rd R.HU_STATE ≠ 2)) ∧
    (∃ (who off : Nat) (b : Bytes) (x : ObjXfer) (s : State), (s.dev.xfer 0x7F00 1 = some x ∧ x.who = who ∧ x.idx = 0x7F00 ∧ x.sub = 1 ∧ x.next = off ∧ off ≠ 0 ∧ s.dev.obj.erasing = false) ∧ (x.part.length + b.length ≤ 64 * 2 ^ 20)) ∧
    (∃ (who off : Nat) (b : Bytes) (x : ObjXfer) (s : State), (s.dev.xfer 0x7F00 1 = some x ∧ x.who = who ∧ x.idx = 0x7F00 ∧ x.sub = 1 ∧ x.next = off ∧ off ≠ 0 ∧ s.dev.obj.erasing = false) ∧ (x.part.length + b.length ≤ 64 * 2 ^ 20)) ∧
    (∃ (s : State), (s.dev.obj.erasing = true)) ∧
    (∃ (s : State), (s.dev.obj.erasing = true)) ∧
    (∃ (s : State), (s.dev.obj.erasing = true)) ∧
    (∃ (s : State), (s.dev.obj.erasing = false)) ∧
    (∃ (s : State), (s.dev.obj.erasing = false ∧ s.dev.rd R.BT_STATUS_SLOT = 0 ∧ s.dev.boot.header ≠ [])) ∧
    (∃ (s : State), (s.dev.obj.erasing = false ∧ (s.dev.rd R.BT_STATUS_SLOT ≠ 0 ∨ s.dev.boot.header = []))) ∧
    (∃ (s : State), (s.dev.obj.erasing = false ∧ s.dev.obj.fwStage ≠ 3)) ∧
    (∃ (c : Bool × State) (h : Bytes) (s : State), (s.dev.obj.erasing = false ∧ s.dev.obj.fwStage = 3 ∧ h = slice s.dev.flash.a 0 4096 ∧ s.dev.hitlessBad h = false) ∧ (c = State.copyAll s.dev.flash.a h (bundleComps h).tail (s.onDev (fun d => d.measureHead h)))) ∧
    (∃ (req : Nat) (s : State), (s.dev.rd R.HU_STATE = 1 ∧ req ≠ 4149 ∧ 4 ∉ s.dev.rst.active)) ∧
    (∃ (req : Nat) (s : State), (s.dev.rd R.HU_STATE = 2 ∧ req ≠ 4149)) ∧
    (∃ (req : Nat) (s : State), (s.dev.rd R.HU_STATE = 2 ∧ req ≠ 4149 ∧ 4 ∉ s.dev.rst.active)) ∧
    (∃ (n : Nat) (s : State), (s.dev.rd R.HU_STATE = 2 ∧ s.dev.hu.since = some n ∧ n + 125000000 ≤ s.dev.tk.etick ∧ 4 ∉ s.dev.rst.active)) ∧
    (∃ (s : State), (s.dev.hu.since = none)) ∧
    (∃ (s : State), (s.dev.rd R.HU_STATE ≠ 1)) ∧
    (∃ (s : State), (s.dev.rd R.HU_STATE ≠ 2)) ∧
    (∃ (s : State), (s.dev.rd R.HU_STATE ≠ 2)) :=
  ⟨⟨0x7F00, 1, ({ who := 0, idx := 0x7F00, sub := 1, next := 2, part := [1#8, 2#8], tick := 0 } : ObjXfer), dev (fun d => { d with tk := { d.tk with etick := 125000000 }, obj := { d.obj with xfers := [({ who := 0, idx := 0x7F00, sub := 1, next := 2, part := [1#8, 2#8], tick := 0 } : ObjXfer)] } }), by decide +kernel⟩,
   ⟨0x7F00, 1, ({ who := 0, idx := 0x7F00, sub := 1, next := 2, part := [1#8, 2#8], tick := 0 } : ObjXfer), dev (fun d => { d with tk := { d.tk with etick := 0 }, obj := { d.obj with xfers := [({ who := 0, idx := 0x7F00, sub := 1, next := 2, part := [1#8, 2#8], tick := 0 } : ObjXfer)] } }), by decide +kernel⟩,
   ⟨0, 0, [], true, dev (fun d => { d with obj := { d.obj with erasing := true } }), by decide +kernel⟩,
   ⟨0, [], true, dev (fun d => d.wr R.HU_STATE 1), by decide +kernel⟩,
   ⟨0, [], State.reset, by decide +kernel⟩,
   ⟨0, 2, [3#8], ({ who := 0, idx := 0x7F00, sub := 1, next := 2, part := [1#8, 2#8], tick := 0 } : ObjXfer), dev (fun d => { d with tk := { d.tk with etick := 0 }, obj := { d.obj with xfers := [({ who := 0, idx := 0x7F00, sub := 1, next := 2, part := [1#8, 2#8], tick := 0 } : ObjXfer)] } }), by decide +kernel⟩,
   ⟨0, 2, [3#8], ({ who := 0, idx := 0x7F00, sub := 1, next := 2, part := [1#8, 2#8], tick := 0 } : ObjXfer), dev (fun d => { d with tk := { d.tk with etick := 0 }, obj := { d.obj with xfers := [({ who := 0, idx := 0x7F00, sub := 1, next := 2, part := [1#8, 2#8], tick := 0 } : ObjXfer)] } }), by decide +kernel⟩,
   ⟨dev (fun d => { d with obj := { d.obj with erasing := true } }), by decide +kernel⟩,
   ⟨dev (fun d => { d with obj := { d.obj with erasing := true } }), by decide +kernel⟩,
   ⟨dev (fun d => { d with obj := { d.obj with erasing := true } }), by decide +kernel⟩,
   ⟨State.reset, by decide +kernel⟩,
   ⟨dev (fun d => (d.wr R.BT_STATUS_SLOT 0).setBoot (fun x => { x with header := [1#8] })), by decide +kernel⟩,
   ⟨State.reset, by decide +kernel⟩,
   ⟨State.reset, by decide +kernel⟩,
   ⟨State.copyAll verifiedSt.dev.flash.a verifiedHeader (bundleComps verifiedHeader).tail (verifiedSt.onDev (fun d => d.measureHead verifiedHeader)), verifiedHeader, verifiedSt, ⟨⟨rfl, rfl, rfl, by decide +kernel⟩, rfl⟩⟩,
   ⟨4104, dev (fun d => d.wr R.HU_STATE 1), by decide +kernel⟩,
   ⟨4104, dev (fun d => d.wr R.HU_STATE 2), by decide +kernel⟩,
   ⟨4104, dev (fun d => d.wr R.HU_STATE 2), by decide +kernel⟩,
   ⟨0, dev (fun d => { (d.wr R.HU_STATE 2) with tk := { d.tk with etick := 125000000 }, hu := { d.hu with since := some 0 } }), by decide +kernel⟩,
   ⟨State.reset, by decide +kernel⟩,
   ⟨State.reset, by decide +kernel⟩,
   ⟨State.reset, by decide +kernel⟩,
   ⟨State.reset, by decide +kernel⟩⟩

/-- The hypotheses of `EnclaveServicesActAndAnswer` can be met, clause by clause. -/
theorem witness_EnclaveServicesActAndAnswer :
    (∃ (k : Nat) (x : SvcReq × State) (s : State), (s.admits k 1 = some x) ∧ (x.1.data.length = 34)) ∧
    (∃ (k : Nat) (x : SvcReq × State) (s : State), (s.admits k 1 = some x) ∧ (x.1.data.length ≠ 34)) ∧
    (∃ (k : Nat) (x : SvcReq × State) (s : State), (s.admits k 2 = some x) ∧ (x.1.data.length = 71 ∧ 6 ≤ byteAt x.1.data 0 ∧ byteAt x.1.data 0 ≤ 15)) ∧
    (∃ (k : Nat) (x : SvcReq × State) (s : State), (s.admits k 3 = some x) ∧ (x.1.data.length = 2 ∧ 1 ≤ le16 x.1.data 0 ∧ le16 x.1.data 0 ≤ 1024)) ∧
    (∃ (k : Nat) (x : SvcReq × State) (s : State), (s.admits k 3 = some x) ∧ (x.1.data.length = 2 ∧ (le16 x.1.data 0 = 0 ∨ 1024 < le16 x.1.data 0))) ∧
    (∃ (k : Nat) (x : SvcReq × State) (s : State), (s.admits k 0x00F2 = some x) ∧ (x.1.data.length = 2 ∧ 1 ≤ le16 x.1.data 0 ∧ le16 x.1.data 0 ≤ 1024)) ∧
    (∃ (k : Nat) (x : SvcReq × State) (s : State), (s.admits k 0x0010 = some x) ∧ (x.1.data.length = 1624 + le16 x.1.data 4 ∧ packageOk x.1.data = true ∧ x.2.dev.keyInUse (le16 x.1.data 0) (le16 x.1.data 2) = false)) ∧
    (∃ (k : Nat) (x : SvcReq × State) (s : State), (s.admits k 0x0011 = some x) ∧ (x.1.data.length = 4 ∧ le16 x.1.data 2 < keyCount (le16 x.1.data 0) ∧ x.2.dev.keyInUse (le16 x.1.data 0) (le16 x.1.data 2) = false)) ∧
    (∃ (k : Nat) (x : SvcReq × State) (s : State), (s.admits k 0x0011 = some x) ∧ (x.1.data.length = 4 ∧ le16 x.1.data 2 < keyCount (le16 x.1.data 0) ∧ x.2.dev.keyInUse (le16 x.1.data 0) (le16 x.1.data 2) = true)) ∧
    (∃ (k : Nat) (x : SvcReq × State) (s : State), (s.admits k 0x0012 = some x) ∧ (x.1.data.length = 2 ∧ le16 x.1.data 0 < 256)) ∧
    (∃ (key : Bytes) (k : Nat) (x : SvcReq × State) (s : State), (s.admits k 0x0013 = some x ∧ x.1.data.length = 49 ∧ le16 x.1.data 3 = 0) ∧ (byteAt x.1.data 0 = 2 ∧ le16 x.1.data 1 < 256 ∧ SMap.get? x.2.dev.encl.bulk (le16 x.1.data 1) = some key ∧ 0 < le32 x.1.data 21 ∧ le32 x.1.data 21 ≤ 2 ^ 24 ∧ le32 x.1.data 45 = 0) ∧ (x.2.dev.inArea7 (le64 x.1.data 5) (le32 x.1.data 21 + 16) = true ∧ x.2.dev.inArea7 (le64 x.1.data 13) (le32 x.1.data 21) = true) ∧ (x.2.dev.hbmAllowed 0x16 (le64 x.1.data 13) (le32 x.1.data 21) true = true)) ∧
    (∃ (k : Nat) (x : SvcReq × State) (s : State), (s.admits k 0x0013 = some x) ∧ (x.1.data.length = 49 ∧ (byteAt x.1.data 0 = 0 ∨ 5 < byteAt x.1.data 0))) ∧
    (∃ (k : Nat) (x : SvcReq × State) (s : State), (s.admits k 0x0020 = some x) ∧ (x.1.data.length = 3 + le16 x.1.data 1 ∧ byteAt x.1.data 0 < 64 ∧ (x.2.dev.keyRec 2 (byteAt x.1.data 0)).isSome = true)) ∧
    (∃ (k : Nat) (x : SvcReq × State) (s : State), (s.admits k 0x0020 = some x) ∧ (x.1.data.length = 3 + le16 x.1.data 1 ∧ byteAt x.1.data 0 < 64 ∧ x.2.dev.keyRec 2 (byteAt x.1.data 0) = none)) ∧
    (∃ (k : Nat) (x : SvcReq × State) (s : State), (s.admits k 0x0021 = some x) ∧ (x.1.data.length = 8 ∧ byteAt x.1.data 0 < 64 ∧ (x.2.dev.keyRec 2 (byteAt x.1.data 0)).isSome = true ∧ x.2.dev.saStop (byteAt x.1.data 1) (byteAt x.1.data 2) (byteAt x.1.data 3) = 0)) ∧
    (∃ (k : Nat) (x : SvcReq × State) (s : State), (s.admits k 0x0022 = some x) ∧ (x.1.data.length = 44 ∧ byteAt x.1.data 0 < 64 ∧ x.2.dev.saStop (byteAt x.1.data 1) (byteAt x.1.data 2) (byteAt x.1.data 3) = 0 ∧ (x.2.dev.keyRec 2 (byteAt x.1.data 0)).isSome = true)) ∧
    (∃ (k : Nat) (x : SvcReq × State) (s : State), (s.admits k 0x0023 = some x) ∧ (x.1.data.length = 3 ∧ x.2.dev.saStop (byteAt x.1.data 0) (byteAt x.1.data 1) (byteAt x.1.data 2) = 0)) ∧
    (∃ (k : Nat) (x : SvcReq × State) (s : State), (s.admits k 0x0030 = some x) ∧ (x.1.data = [])) ∧
    (∃ (k : Nat) (x : SvcReq × State) (s : State), (s.admits k 0x0031 = some x) ∧ (x.1.data = [])) ∧
    (∃ (rb : Bool) (k : Nat) (x : SvcReq × State) (s : State), (s.admits k 0x0032 = some x) ∧ (x.1.data.length = 306 ∧ s.dev.on R.EN_STATUS_SEAL_FAULT = true)) ∧
    (∃ (k : Nat) (x : SvcReq × State) (s : State), (s.admits k 0x00F0 = some x) ∧ (x.1.data = [])) ∧
    (∃ (s : State), (s.dev.liveChallenge = none)) ∧
    (∃ (s : State), (s.dev.liveChallenge.isSome = true)) ∧
    (∃ (c : Bytes) (k : Nat) (x : SvcReq × State) (s : State), (s.admits k 0x00F1 = some x) ∧ (x.1.data.length = 173 ∧ byteAt x.1.data 0 ≤ 3 ∧ 0 < byteAt x.1.data 58 ∧ byteAt x.1.data 58 < 8 ∧ x.2.dev.liveChallenge = some c)) ∧
    (∃ (k : Nat) (s : State), (s.dev.inReset 0x1B = false ∧ s.dev.rd R.EN_STATUS_STATE = 0 ∧ s.dev.boot.halted = false ∧ s.dev.encl.testSlot = some k)) ∧
    (∃ (code : Nat) (s : State), (s.dev.inReset 0x1B = false ∧ s.dev.rd R.EN_STATUS_STATE = 0 ∧ s.dev.boot.halted = false)) ∧
    (∃ (code : Nat) (s : State), (s.dev.inReset 0x1B = false ∧ s.dev.rd R.EN_STATUS_STATE = 1)) ∧
    (∃ (s : State), (s.dev.rd R.EN_STATUS_STATE = 2 ∧ s.dev.encl.errAt + 1250000 ≤ s.dev.tk.etick) ∧ ((s.dev.encl.errs.filter (fun n => decide (s.dev.encl.errAt < n + 75000000000))).length < 3 ∧ 1 ∉ s.dev.rst.active)) ∧
    (∃ (s : State), (s.dev.rd R.EN_STATUS_STATE = 2 ∧ s.dev.encl.errAt + 1250000 ≤ s.dev.tk.etick) ∧ (3 ≤ (s.dev.encl.errs.filter (fun n => decide (s.dev.encl.errAt < n + 75000000000))).length)) ∧
    (∃ (req k : Nat) (s : State), (mayServe req = true ∧ s.dev.inReset 0x1B = false ∧ s.dev.on R.ES_STATUS_CLAIMED k = false)) ∧
    (∃ (req k : Nat) (s : State), (s.dev.on R.ES_STATUS_CLAIMED k = true ∨ mayServe req = false)) ∧
    (∃ (req k : Nat) (s : State), (s.dev.ownsSlot req k = true ∧ s.dev.inReset 0x1B = false)) ∧
    (∃ (req k : Nat) (s : State), (s.dev.ownsSlot req k = false)) :=
  ⟨⟨2, esReq (esUp 1 34 [] (fun d => d)) 1, esUp 1 34 [] (fun d => d), by decide +kernel⟩,
   ⟨2, esReq (esUp 1 33 [] (fun d => d)) 1, esUp 1 33 [] (fun d => d), by decide +kernel⟩,
   ⟨2, esReq (esUp 2 71 [6] (fun d => d)) 2, esUp 2 71 [6] (fun d => d), by decide +kernel⟩,
   ⟨2, esReq (esUp 3 2 [4] (fun d => d)) 3, esUp 3 2 [4] (fun d => d), by decide +kernel⟩,
   ⟨2, esReq (esUp 3 2 [0] (fun d => d)) 3, esUp 3 2 [0] (fun d => d), by decide +kernel⟩,
   ⟨2, esReq (esUp 0xF2 2 [4] (fun d => d)) 0x00F2, esUp 0xF2 2 [4] (fun d => d), by decide +kernel⟩,
   ⟨2, esReq (esUp 0x10 1656 [4, 32] (fun d => d)) 0x0010, esUp 0x10 1656 [4, 32] (fun d => d), by decide +kernel⟩,
   ⟨2, esReq (esUp 0x11 4 [4] (fun d => d)) 0x0011, esUp 0x11 4 [4] (fun d => d), by decide +kernel⟩,
   ⟨2, esReq (esUp 0x11 4 [3 + 65536] (fun d => { d with mram := { d.mram with namespaces := [(1, [5#8, 9#8, 1#8, 0#8])], attach := [(1, 1)] } })) 0x0011, esUp 0x11 4 [3 + 65536] (fun d => { d with mram := { d.mram with namespaces := [(1, [5#8, 9#8, 1#8, 0#8])], attach := [(1, 1)] } }), by decide +kernel⟩,
   ⟨2, esReq (esUp 0x12 2 [4] (fun d => d)) 0x0012, esUp 0x12 2 [4] (fun d => d), by decide +kernel⟩,
   ⟨[7#8], 2, esReq bulkSt 0x13, bulkSt, by decide +kernel⟩,
   ⟨2, esReq (esUp 0x13 49 [6] (fun d => d)) 0x0013, esUp 0x13 49 [6] (fun d => d), by decide +kernel⟩,
   ⟨2, esReq (esUp 0x20 3 [0] (fun d => d.setRec 2 0 (List.replicate 32 7#8 ++ [1#8] ++ List.replicate 32 0#8))) 0x0020, esUp 0x20 3 [0] (fun d => d.setRec 2 0 (List.replicate 32 7#8 ++ [1#8] ++ List.replicate 32 0#8)), by decide +kernel⟩,
   ⟨2, esReq (esUp 0x20 3 [0] (fun d => d)) 0x0020, esUp 0x20 3 [0] (fun d => d), by decide +kernel⟩,
   ⟨2, esReq (esUp 0x21 8 [0] (fun d => { (d.wr R.LG_MODE 5 0 0).setRec 2 0 (List.replicate 32 7#8 ++ [1#8] ++ List.replicate 32 0#8) with sc := [(0, leBytes 8 0 ++ [1#8])] })) 0x0021, esUp 0x21 8 [0] (fun d => { (d.wr R.LG_MODE 5 0 0).setRec 2 0 (List.replicate 32 7#8 ++ [1#8] ++ List.replicate 32 0#8) with sc := [(0, leBytes 8 0 ++ [1#8])] }), by decide +kernel⟩,
   ⟨2, esReq (esUp 0x22 44 [0] (fun d => { (d.wr R.LG_MODE 5 0 0).setRec 2 0 (List.replicate 32 7#8 ++ [1#8] ++ List.replicate 32 0#8) with sc := [(0, leBytes 8 0 ++ [1#8])] })) 0x0022, esUp 0x22 44 [0] (fun d => { (d.wr R.LG_MODE 5 0 0).setRec 2 0 (List.replicate 32 7#8 ++ [1#8] ++ List.replicate 32 0#8) with sc := [(0, leBytes 8 0 ++ [1#8])] }), by decide +kernel⟩,
   ⟨2, esReq (esUp 0x23 3 [0] (fun d => { (d.wr R.LG_MODE 5 0 0).setRec 2 0 (List.replicate 32 7#8 ++ [1#8] ++ List.replicate 32 0#8) with sc := [(0, leBytes 8 0 ++ [1#8])] })) 0x0023, esUp 0x23 3 [0] (fun d => { (d.wr R.LG_MODE 5 0 0).setRec 2 0 (List.replicate 32 7#8 ++ [1#8] ++ List.replicate 32 0#8) with sc := [(0, leBytes 8 0 ++ [1#8])] }), by decide +kernel⟩,
   ⟨2, esReq (esUp 0x30 0 [] (fun d => d)) 0x0030, esUp 0x30 0 [] (fun d => d), by decide +kernel⟩,
   ⟨2, esReq (esUp 0x31 0 [] (fun d => d.setRec 2 0 (List.replicate 32 7#8 ++ [1#8] ++ List.replicate 32 0#8))) 0x0031, esUp 0x31 0 [] (fun d => d.setRec 2 0 (List.replicate 32 7#8 ++ [1#8] ++ List.replicate 32 0#8)), by decide +kernel⟩,
   ⟨true, 2, esReq sealSt 0x32, sealSt, by decide +kernel⟩,
   ⟨2, esReq (esUp 0xF0 0 [] (fun d => d)) 0x00F0, esUp 0xF0 0 [] (fun d => d), by decide +kernel⟩,
   ⟨State.reset, by decide +kernel⟩,
   ⟨dev (fun d => d.setEncl (fun x => { x with challenge := some ([], 0) })), by decide +kernel⟩,
   ⟨[], 2, esReq jtagSt 0xF1, jtagSt, by decide +kernel⟩,
   ⟨2, dev (fun d => (d.wr R.EN_STATUS_STATE 0).setEncl (fun x => { x with testSlot := some 2 })), by decide +kernel⟩,
   ⟨0x10, dev (fun d => d.wr R.EN_STATUS_STATE 0), by decide +kernel⟩,
   ⟨0x20, dev (fun d => d.wr R.EN_STATUS_STATE 1), by decide +kernel⟩,
   ⟨dev (fun d => { (d.wr R.EN_STATUS_STATE 2) with tk := { d.tk with etick := 1250000 } }), by decide +kernel⟩,
   ⟨dev (fun d => { (d.wr R.EN_STATUS_STATE 2).setEncl (fun x => { x with errs := [0, 1, 2] }) with tk := { d.tk with etick := 1250000 } }), by decide +kernel⟩,
   ⟨4104, 2, State.reset, by decide +kernel⟩,
   ⟨3, 2, State.reset, by decide +kernel⟩,
   ⟨4104, 2, dev (fun d => (d.flag R.ES_STATUS_CLAIMED 2).wr R.ES_STATUS_OWNER 4104 2), by decide +kernel⟩,
   ⟨4104, 2, State.reset, by decide +kernel⟩⟩

/-- The hypotheses of `ObjectsAreServedAndMgmtFramesMove` can be met, clause by clause. -/
theorem witness_ObjectsAreServedAndMgmtFramesMove :
    (∃ (m : Nat) (q : ObjReq) (qs : List ObjReq) (r : ObjRow) (e s : State), (s.dev.obj.wait = none ∧ s.dev.obj.queue = q :: qs ∧ q.path = .mailbox m ∧ sopOp q.bytes = 1) ∧ (e = s.onDev (fun d => d.setObj (fun o => { o with queue := qs }))) ∧ (e.dev.objFind (le16 q.bytes 22) (byteAt q.bytes 21) = .row r ∧ r.closed (e.dev.objNat (if m = 0 then 0x1105 else 0x1106) 0 2) false = false ∧ r.ty.mismatch 1 (sopDataLen q.bytes) 1024 = false ∧ e.dev.objBusy r.grp = false)) ∧
    (∃ (m : Nat) (q : ObjReq) (qs : List ObjReq) (r : ObjRow) (e s : State), (s.dev.obj.wait = none ∧ s.dev.obj.queue = q :: qs ∧ q.path = .mailbox m ∧ sopOp q.bytes = 1) ∧ (e = s.onDev (fun d => d.setObj (fun o => { o with queue := qs }))) ∧ (e.dev.objFind (le16 q.bytes 22) (byteAt q.bytes 21) = .row r ∧ r.closed (e.dev.objNat (if m = 0 then 0x1105 else 0x1106) 0 2) false = true)) ∧
    (∃ (m n : Nat) (q : ObjReq) (qs : List ObjReq) (e s : State), (s.dev.obj.wait = none ∧ s.dev.obj.queue = q :: qs ∧ q.path = .mailbox m ∧ sopOp q.bytes = 1) ∧ (e = s.onDev (fun d => d.setObj (fun o => { o with queue := qs }))) ∧ (e.dev.objFind (le16 q.bytes 22) (byteAt q.bytes 21) = .none n)) ∧
    (∃ (m : Nat) (q : ObjReq) (qs : List ObjReq) (r : ObjRow) (o : ObjOut) (e s : State), (s.dev.obj.wait = none ∧ s.dev.obj.queue = q :: qs ∧ q.path = .mailbox m ∧ sopOp q.bytes = 2) ∧ (e = s.onDev (fun d => d.setObj (fun o => { o with queue := qs }))) ∧ (e.dev.objFind (le16 q.bytes 22) (byteAt q.bytes 21) = .row r ∧ r.closed (e.dev.objNat (if m = 0 then 0x1105 else 0x1106) 0 2) true = false ∧ r.ty.mismatch 2 (sopDataLen q.bytes) 1024 = false ∧ e.dev.objBusy r.grp = false ∧ r.acc ≠ .const ∧ r.acc ≠ .ro) ∧ (o = e.objWrite r (le16 q.bytes 22) (byteAt q.bytes 21) (slice q.bytes 32 (sopDataLen q.bytes)) ∧ o.wait = none)) ∧
    (∃ (m : Nat) (q : ObjReq) (qs : List ObjReq) (r : ObjRow) (e s : State), (s.dev.obj.wait = none ∧ s.dev.obj.queue = q :: qs ∧ q.path = .mailbox m ∧ sopOp q.bytes = 2) ∧ (e = s.onDev (fun d => d.setObj (fun o => { o with queue := qs }))) ∧ (e.dev.objFind (le16 q.bytes 22) (byteAt q.bytes 21) = .row r ∧ r.closed (e.dev.objNat (if m = 0 then 0x1105 else 0x1106) 0 2) true = false ∧ (r.acc = .const ∨ r.acc = .ro))) ∧
    (∃ (m : Nat) (q : ObjReq) (qs : List ObjReq) (r : ObjRow) (e s : State), (s.dev.obj.wait = none ∧ s.dev.obj.queue = q :: qs ∧ q.path = .mailbox m ∧ sopOp q.bytes = 3) ∧ (e = s.onDev (fun d => d.setObj (fun o => { o with queue := qs }))) ∧ (e.dev.objFind (le16 q.bytes 22) (byteAt q.bytes 21) = .row r ∧ r.closed (e.dev.objNat (if m = 0 then 0x1105 else 0x1106) 0 2) false = false ∧ r.ty.mismatch 3 (sopDataLen q.bytes) 1024 = false ∧ e.dev.objBusy r.grp = false)) ∧
    (∃ (m : Nat) (q : ObjReq) (qs : List ObjReq) (r : ObjRow) (o : ObjOut) (e s : State), (s.dev.obj.wait = none ∧ s.dev.obj.queue = q :: qs ∧ q.path = .mailbox m ∧ sopOp q.bytes = 4) ∧ (e = s.onDev (fun d => d.setObj (fun o => { o with queue := qs }))) ∧ (e.dev.objFind (le16 q.bytes 22) (byteAt q.bytes 21) = .row r ∧ r.closed (e.dev.objNat (if m = 0 then 0x1105 else 0x1106) 0 2) true = false ∧ r.ty.mismatch 4 (sopDataLen q.bytes) 1024 = false ∧ e.dev.objBusy r.grp = false ∧ r.acc ≠ .const ∧ r.acc ≠ .ro) ∧ (o = e.segWrite (16 + m) r (le16 q.bytes 22) (byteAt q.bytes 21) (le32 q.bytes 24) (slice q.bytes 32 (sopDataLen q.bytes)) (bit (byteAt q.bytes 3) 1) ∧ o.wait = none)) ∧
    (∃ (q : ObjReq) (qs : List ObjReq) (s : State), (s.dev.obj.wait = none ∧ s.dev.obj.queue = q :: qs ∧ sopOp q.bytes = 1 ∧ q.path.sop = true) ∧ (s.dev.encl.inhibit = true)) ∧
    (∃ (q : ObjReq) (qs : List ObjReq) (s : State), (s.dev.obj.queue = q :: qs ∧ (sopOp q.bytes ≠ 1 ∨ s.dev.obj.wait.isSome = true))) ∧
    (∃ (q : ObjReq) (qs : List ObjReq) (s : State), (s.dev.obj.queue = q :: qs ∧ (sopOp q.bytes ≠ 2 ∨ s.dev.obj.wait.isSome = true))) ∧
    (∃ (q : ObjReq) (qs : List ObjReq) (s : State), (s.dev.obj.queue = q :: qs ∧ (sopOp q.bytes ≠ 3 ∨ s.dev.obj.wait.isSome = true))) ∧
    (∃ (q : ObjReq) (qs : List ObjReq) (s : State), (s.dev.obj.queue = q :: qs ∧ (sopOp q.bytes ≠ 4 ∨ s.dev.obj.wait.isSome = true))) ∧
    (∃ (x : FabObj) (l : List FabObj) (s : State), (firstObj 6 s.dev.fab.objIn = some (x, l)) ∧ (s.dev.objNat 0x1107 0 1 ≠ 0 ∧ s.dev.fabAddr ≠ 0 ∧ sopBad x.bytes = false ∧ x.bytes.length = sopLen x.bytes + 32 ∧ x.bcast = false ∧ s.dev.obj.queue.length < 64)) ∧
    (∃ (x : FabObj) (l : List FabObj) (s : State), (firstObj 6 s.dev.fab.objIn = some (x, l)) ∧ (s.dev.objNat 0x1107 0 1 = 0 ∨ s.dev.fabAddr = 0)) ∧
    (∃ (x : FabObj) (l : List FabObj) (p : ObjProxy) (m : Nat) (s : State), (firstObj 7 s.dev.fab.objIn = some (x, l)) ∧ (s.dev.obj.proxies = [p] ∧ p.answeredBy x = true ∧ p.path = .mailbox m)) ∧
    (∃ (x : FabObj) (l : List FabObj) (s : State), (firstObj 7 s.dev.fab.objIn = some (x, l)) ∧ (s.dev.obj.proxies = [])) ∧
    (∃ (p : ObjProxy) (l : List ObjProxy) (m : Nat) (s : State), (s.dev.obj.proxies = p :: l ∧ p.path = .mailbox m ∧ p.got = false ∧ p.tick + 2500000 ≤ s.dev.tk.etick)) ∧
    (∃ (p : ObjProxy) (l : List ObjProxy) (s : State), (s.dev.obj.proxies = p :: l ∧ s.dev.tk.etick < p.tick + 2500000)) ∧
    (∃ (req m : Nat) (s : State), (isHart req = true ∧ s.dev.on R.MB_STATUS_CLAIMED m = false)) ∧
    (∃ (req m : Nat) (s : State), (isHart req = false ∨ s.dev.on R.MB_STATUS_CLAIMED m = true)) ∧
    (∃ (req m : Nat) (s : State), (m ≠ 0 ∧ s.dev.ownsMailbox req m = true)) ∧
    (∃ (req m : Nat) (s : State), (s.dev.ownsMailbox req m = false)) ∧
    (∃ (raw : Bytes) (td e po : Nat) (s : State), (fcsGood raw = false)) ∧
    (∃ (raw : Bytes) (td e po : Nat) (s : State), (fcsGood raw = true ∧ s.dev.boot.halted = false ∧ s.dev.on R.MG_CTRL_PROMISC = true ∧ s.dev.on R.MG_CTRL_EN = true ∧ s.dev.mgKind (frameBody raw) = .other) ∧ (s.dev.obj.mg.errRx = true ∨ s.mgPosted true = [])) ∧
    (∃ (raw a : Bytes) (td e po : Nat) (s : State), (fcsGood raw = true ∧ s.dev.boot.halted = false ∧ s.dev.on R.MG_CTRL_PROMISC = true ∧ s.dev.on R.MG_CTRL_EN = true ∧ s.dev.mgKind (frameBody raw) = .other) ∧ (s.dev.obj.mg.errRx = false ∧ s.mgPosted true = [a] ∧ s.dev.inArea7 (le64 a 0) (le32 a 8) = true ∧ bufOk 1 a = true ∧ descFirst a = true ∧ descLast a = true ∧ (frameBody raw).length ≤ le32 a 8)) ∧
    (∃ (raw : Bytes) (td e po : Nat) (s : State), (fcsGood raw = true ∧ s.dev.boot.halted = false ∧ s.dev.on R.MG_CTRL_EN = false ∧ byteAt (frameBody raw) 0 % 2 = 1 ∧ s.dev.mgKind (frameBody raw) = .other)) ∧
    (∃ (req v : Nat) (s : State), (isHart req = false)) ∧
    (∃ (req v : Nat) (s : State), (isHart req = true ∧ s.dev.mgRuns false = true ∧ v < lapMod (s.dev.mgN false) ∧ v < 2 ^ 13) ∧ (v ≠ s.dev.rd R.MG_TX_IDX_PI ∧ lapSub (s.dev.mgN false) v (s.dev.rd R.MG_TX_IDX_PI) ≤ 2 ^ s.dev.mgN false - lapSub (s.dev.mgN false) (s.dev.rd R.MG_TX_IDX_PI) (s.dev.rd R.MG_TX_IDX_CI))) ∧
    (∃ (req v : Nat) (s : State), (isHart req = true ∧ s.dev.mgRuns false = true ∧ lapMod (s.dev.mgN false) ≤ v ∧ v < 2 ^ 13 ∧ v ≠ s.dev.rd R.MG_TX_IDX_PI ∧ s.dev.on R.MG_STATUS_ERR = false)) ∧
    (∃ (req v : Nat) (s : State), (isHart req = true ∧ s.dev.mgRuns true = true ∧ v < lapMod (s.dev.mgN true) ∧ v < 2 ^ 13) ∧ (v ≠ s.dev.rd R.MG_RX_IDX_PI ∧ lapSub (s.dev.mgN true) v (s.dev.rd R.MG_RX_IDX_PI) ≤ 2 ^ s.dev.mgN true - lapSub (s.dev.mgN true) (s.dev.rd R.MG_RX_IDX_PI) (s.dev.rd R.MG_RX_IDX_CI))) ∧
    (∃ (req v : Nat) (s : State), (isHart req = false)) ∧
    (∃ (te e po : Nat) (f : MgFrame) (l : List MgFrame) (s : State), (s.dev.obj.mg.ready = f :: l ∧ f.job = [] ∧ f.oneStep = 0)) ∧
    (∃ (te e po : Nat) (f : MgFrame) (l : List MgFrame) (s : State), (s.dev.obj.mg.ready = f :: l ∧ f.job ≠ [] ∧ f.oneStep = 0)) ∧
    (∃ (te e po : Nat) (s : State), (s.dev.obj.mg.ready = [])) ∧
    (∃ (req : Nat) (s : State), (isHart req = true ∧ s.dev.on R.MG_CTRL_EN = false ∧ s.dev.mgBad false = false ∧ s.dev.mgBad true = false)) ∧
    (∃ (req : Nat) (s : State), (isHart req = true ∧ s.dev.on R.MG_CTRL_EN = false ∧ (s.dev.mgBad false = true ∨ s.dev.mgBad true = true))) ∧
    (∃ (req : Nat) (s : State), (isHart req = true ∧ s.dev.on R.MG_CTRL_EN = true ∧ s.mgPosted true = [])) :=
  ⟨⟨0, objReq 1 1 0x5006 0 [], [], (match State.reset.dev.objFind 0x5006 1 with | .row r => r | _ => o1 0 0 .bool .ro), (objUp 1 1 0x5006 0 []).onDev (fun d => d.setObj (fun o => { o with queue := [] })), objUp 1 1 0x5006 0 [], by decide +kernel⟩,
   ⟨0, objReq 1 1 0x7F00 0 [], [], (match State.reset.dev.objFind 0x7F00 1 with | .row r => r | _ => o1 0 0 .bool .ro), (objUp 1 1 0x7F00 0 []).onDev (fun d => d.setObj (fun o => { o with queue := [] })), objUp 1 1 0x7F00 0 [], by decide +kernel⟩,
   ⟨0, 0x0101, objReq 1 1 0x0FFF 0 [], [], (objUp 1 1 0x0FFF 0 []).onDev (fun d => d.setObj (fun o => { o with queue := [] })), objUp 1 1 0x0FFF 0 [], by decide +kernel⟩,
   ⟨0, objReq 2 1 0x5006 0 [1#8, 0#8, 0#8, 0#8], [], (match State.reset.dev.objFind 0x5006 1 with | .row r => r | _ => o1 0 0 .bool .ro), ((objUp 2 1 0x5006 0 [1#8, 0#8, 0#8, 0#8]).onDev (fun d => d.setObj (fun o => { o with queue := [] }))).objWrite (match State.reset.dev.objFind 0x5006 1 with | .row r => r | _ => o1 0 0 .bool .ro) 0x5006 1 [1#8, 0#8, 0#8, 0#8], (objUp 2 1 0x5006 0 [1#8, 0#8, 0#8, 0#8]).onDev (fun d => d.setObj (fun o => { o with queue := [] })), objUp 2 1 0x5006 0 [1#8, 0#8, 0#8, 0#8], ⟨by decide +kernel, by decide +kernel, by decide +kernel, by rfl, by rfl⟩⟩,
   ⟨0, objReq 2 0 0x5007 0 [], [], (match State.reset.dev.objFind 0x5007 0 with | .row r => r | _ => o1 0 0 .bool .ro), (objUp 2 0 0x5007 0 []).onDev (fun d => d.setObj (fun o => { o with queue := [] })), objUp 2 0 0x5007 0 [], by decide +kernel⟩,
   ⟨0, objReq 3 0 0x5008 0 [], [], (match State.reset.dev.objFind 0x5008 0 with | .row r => r | _ => o1 0 0 .bool .ro), (objUp 3 0 0x5008 0 []).onDev (fun d => d.setObj (fun o => { o with queue := [] })), objUp 3 0 0x5008 0 [], by decide +kernel⟩,
   ⟨0, objReq 4 0 0x5008 0 [], [], (match State.reset.dev.objFind 0x5008 0 with | .row r => r | _ => o1 0 0 .bool .ro), ((objUp 4 0 0x5008 0 []).onDev (fun d => d.setObj (fun o => { o with queue := [] }))).segWrite 16 (match State.reset.dev.objFind 0x5008 0 with | .row r => r | _ => o1 0 0 .bool .ro) 0x5008 0 0 [] false, (objUp 4 0 0x5008 0 []).onDev (fun d => d.setObj (fun o => { o with queue := [] })), objUp 4 0 0x5008 0 [], ⟨by decide +kernel, by decide +kernel, by decide +kernel, by rfl, by rfl⟩⟩,
   ⟨⟨.fabric 5 false, objMsg 1 1 0x5006 0 []⟩, [], (dev (fun d => { d.setEncl (fun x => { x with inhibit := true }) with obj := { d.obj with queue := [⟨.fabric 5 false, objMsg 1 1 0x5006 0 []⟩] } })), by decide +kernel⟩,
   ⟨objReq 2 1 0x5006 0 [], [], objUp 2 1 0x5006 0 [], by decide +kernel⟩,
   ⟨objReq 1 1 0x5006 0 [], [], objUp 1 1 0x5006 0 [], by decide +kernel⟩,
   ⟨objReq 1 1 0x5006 0 [], [], objUp 1 1 0x5006 0 [], by decide +kernel⟩,
   ⟨objReq 1 1 0x5006 0 [], [], objUp 1 1 0x5006 0 [], by decide +kernel⟩,
   ⟨(⟨6, 5, objMsg 1 1 0x5006 0 [] ++ List.replicate 32 0#8, false⟩ : FabObj), [], dev (fun d => { (d.wr R.FB_ADDR_ADDR 9) with fab := { d.fab with objIn := [(⟨6, 5, objMsg 1 1 0x5006 0 [] ++ List.replicate 32 0#8, false⟩ : FabObj)] } }), by decide +kernel⟩,
   ⟨(⟨6, 5, objMsg 1 1 0x5006 0 [] ++ List.replicate 32 0#8, false⟩ : FabObj), [], dev (fun d => { d with fab := { d.fab with objIn := [(⟨6, 5, objMsg 1 1 0x5006 0 [] ++ List.replicate 32 0#8, false⟩ : FabObj)] } }), by decide +kernel⟩,
   ⟨⟨7, 5, objMsg 1 1 0x5006 0 [], false⟩, [], ({ path := .mailbox 0, dst := 5, head := objMsg 1 1 0x5006 0 [], tick := 0 } : ObjProxy), 0, dev (fun d => { d with fab := { d.fab with objIn := [⟨7, 5, objMsg 1 1 0x5006 0 [], false⟩] }, obj := { d.obj with proxies := [({ path := .mailbox 0, dst := 5, head := objMsg 1 1 0x5006 0 [], tick := 0 } : ObjProxy)] } }), by decide +kernel⟩,
   ⟨⟨7, 5, [], false⟩, [], dev (fun d => { d with fab := { d.fab with objIn := [⟨7, 5, [], false⟩] } }), by decide +kernel⟩,
   ⟨({ path := .mailbox 0, dst := 5, head := objMsg 1 1 0x5006 0 [], tick := 0 } : ObjProxy), [], 0, dev (fun d => { d with tk := { d.tk with etick := 2500000 }, obj := { d.obj with proxies := [({ path := .mailbox 0, dst := 5, head := objMsg 1 1 0x5006 0 [], tick := 0 } : ObjProxy)] } }), by decide +kernel⟩,
   ⟨({ path := .mailbox 0, dst := 5, head := objMsg 1 1 0x5006 0 [], tick := 0 } : ObjProxy), [], dev (fun d => { d with obj := { d.obj with proxies := [({ path := .mailbox 0, dst := 5, head := objMsg 1 1 0x5006 0 [], tick := 0 } : ObjProxy)] } }), by decide +kernel⟩,
   ⟨4105, 2, State.reset, by decide +kernel⟩,
   ⟨0, 2, State.reset, by decide +kernel⟩,
   ⟨4105, 2, dev (fun d => (d.flag R.MB_STATUS_CLAIMED 2).wr R.MB_STATUS_OWNER 1 2), by decide +kernel⟩,
   ⟨4105, 2, State.reset, by decide +kernel⟩,
   ⟨[1#8], 0, 0, 0, State.reset, by decide +kernel⟩,
   ⟨plainFrame, 0, 0, 0, mgUp, by decide +kernel⟩,
   ⟨plainFrame, mgBuf, 0, 0, 0, mgRxSt, by decide +kernel⟩,
   ⟨framed [1#8], 0, 0, 0, State.reset, by decide +kernel⟩,
   ⟨0, 1, mgUp, by decide +kernel⟩,
   ⟨4104, 1, mgUp, by decide +kernel⟩,
   ⟨4104, 200, mgUp, by decide +kernel⟩,
   ⟨4104, 1, mgUp, by decide +kernel⟩,
   ⟨0, 1, mgUp, by decide +kernel⟩,
   ⟨0, 0, 0, { bytes := [1#8] }, [], dev (fun d => d.setMg (fun m => { m with ready := [{ bytes := [1#8] }] })), by decide +kernel⟩,
   ⟨0, 0, 0, { bytes := [1#8], job := [[]] }, [], dev (fun d => d.setMg (fun m => { m with ready := [{ bytes := [1#8], job := [[]] }] })), by decide +kernel⟩,
   ⟨0, 0, 0, State.reset, by decide +kernel⟩,
   ⟨4104, mgUp.onDev (fun d => ((d.wr R.MG_CTRL_EN 0).flag R.MG_STATUS_TX_IDLE).flag R.MG_STATUS_RX_IDLE), by decide +kernel⟩,
   ⟨4104, dev (fun d => d.wr R.MG_TX_CFG 5), by decide +kernel⟩,
   ⟨4104, mgUp, by decide +kernel⟩⟩

/-- The hypotheses of `IslandsSleepAndLimitsHold` can be met, clause by clause. -/
theorem witness_IslandsSleepAndLimitsHold :
    (∃ (c ne : Nat) (nt : Option Nat) (s : State), (s.dev.stopped c = false ∧ s.dev.lacingBusy c = false ∧ s.dev.inReset c = false ∧ s.dev.islandPresent c = true)) ∧
    (∃ (c : Nat) (s : State), (s.dev.stopped c = false ∧ s.dev.lacingBusy c = false ∧ s.dev.inReset c = false ∧ s.dev.islandPresent c = true ∧ s.dev.rd R.PI_CAP c = 4 ∧ s.dev.ceiling c = 4 ∧ s.dev.rd R.PI_NE_SW c = 2 ^ 64 - 1 ∧ s.dev.on R.PW_QUIET_CTRL_ARM = false)) ∧
    (∃ (c ne : Nat) (nt : Option Nat) (s : State), (s.dev.stopped c = true ∨ s.dev.lacingBusy c = true)) ∧
    (∃ (c : Nat) (s : State), (s.dev.stopped c = true)) ∧
    (∃ (c : Nat) (s : State), (s.dev.stopped c = false)) ∧
    (∃ (req c opp : Nat) (s : State), (c < 8 ∧ opp < 8 ∧ s.dev.rd R.PI_OPP_CUR (0x0D + c) < min opp s.dev.oppLimit)) ∧
    (∃ (req c opp : Nat) (s : State), (c < 8 ∧ opp < 8 ∧ min opp s.dev.oppLimit ≤ s.dev.rd R.PI_OPP_CUR (0x0D + c))) ∧
    (∃ (c n : Nat) (s : State), (SMap.get? s.dev.pwr.opp c = some n ∧ c ∉ s.dev.pwr.rising ∧ s.dev.stopped (0x0D + c) = false ∧ n < 8 ∧ s.dev.oppLimit < 8)) ∧
    (∃ (c : Nat) (s : State), (SMap.get? s.dev.pwr.opp c = none ∨ c ∈ s.dev.pwr.rising)) ∧
    (∃ (c : Nat) (s : State), (c ∈ s.dev.pwr.rising)) ∧
    (∃ (c : Nat) (s : State), (c ∉ s.dev.pwr.rising)) ∧
    (∃ (ts : List Int) (s : State), ((hottest ts).1 < 115)) ∧
    (∃ (ts : List Int) (s : State), (105 ≤ (hottest ts).1 ∧ (hottest ts).1 < 115 ∧ 9 ≤ s.dev.pwr.hot)) ∧
    (∃ (ts : List Int) (s : State), (115 ≤ (hottest ts).1 ∧ s.dev.pins.thermTrip = false)) ∧
    (∃ (s : State), (s.dev.on R.PW_QUIET_CTRL_ARM = true ∧ timeOf96 (s.dev.rd R.PW_QUIET_START) ≤ s.dev.nowAt 8 ∧ s.dev.now < timeOf96 (s.dev.rd R.PW_QUIET_END))) ∧
    (∃ (s : State), (s.dev.on R.PW_QUIET_CTRL_ARM = false)) ∧
    (∃ (s : State), (s.dev.on R.PW_QUIET_CTRL_ARM = true ∧ timeOf96 (s.dev.rd R.PW_QUIET_END) ≤ s.dev.nowAt 8)) ∧
    (∃ (s : State), (s.dev.on R.PW_QUIET_CTRL_ARM = false)) ∧
    (∃ (n : Nat) (s : State), (s.dev.rst.resetNLow = false ∧ n ≠ 10)) ∧
    (∃ (s : State), (s.dev.rst.resetNLow = false)) ∧
    (∃ (n : Nat) (s : State), (s.dev.rst.resetNLow = true)) ∧
    (∃ (b : Bool) (s : State), (s.dev.tb.pllSrc = 1)) ∧
    (∃ (b : Bool) (s : State), (s.dev.tb.pllSrc ≠ 1)) ∧
    (∃ (n c : Nat) (s : State), (s.dev.smbusByte c = some n)) ∧
    (∃ (c : Nat) (s : State), (3 ≤ c)) :=
  ⟨⟨0x0D, 2 ^ 64 - 1, none, State.reset, by decide +kernel⟩,
   ⟨0x0D, dev (fun d => (d.wr R.PI_CAP 4 0x0D).wr R.PI_NE_SW (2 ^ 64 - 1) 0x0D), by decide +kernel⟩,
   ⟨0x0D, 7, none, dev (fun d => d.wr R.PI_STATUS_STATE 3 0x0D), by decide +kernel⟩,
   ⟨0x0D, dev (fun d => d.wr R.PI_STATUS_STATE 3 0x0D), by decide +kernel⟩,
   ⟨0x0D, State.reset, by decide +kernel⟩,
   ⟨4104, 2, 5, dev (fun d => d.wr R.PI_OPP_CUR 1 0x0F), by decide +kernel⟩,
   ⟨4104, 2, 0, State.reset, by decide +kernel⟩,
   ⟨2, 5, dev (fun d => { d with pwr := { d.pwr with opp := [(2, 5)] } }), by decide +kernel⟩,
   ⟨2, State.reset, by decide +kernel⟩,
   ⟨2, dev (fun d => { d with pwr := { d.pwr with rising := [2] } }), by decide +kernel⟩,
   ⟨2, State.reset, by decide +kernel⟩,
   ⟨[40, 107, 50], State.reset, by decide +kernel⟩,
   ⟨[107], dev (fun d => { d with pwr := { d.pwr with hot := 9 } }), by decide +kernel⟩,
   ⟨[116], State.reset, by decide +kernel⟩,
   ⟨dev (fun d => (d.flag R.PW_QUIET_CTRL_ARM).wr R.PW_QUIET_END (2 ^ 95)), by decide +kernel⟩,
   ⟨State.reset, by decide +kernel⟩,
   ⟨dev (fun d => (d.flag R.PW_QUIET_CTRL_ARM).wr R.PI_STATUS_STATE 3 0x0A), by decide +kernel⟩,
   ⟨State.reset, by decide +kernel⟩,
   ⟨3, State.reset, by decide +kernel⟩,
   ⟨State.reset, by decide +kernel⟩,
   ⟨3, dev (fun d => { d with rst := { d.rst with resetNLow := true } }), by decide +kernel⟩,
   ⟨true, dev (fun d => d.setTb (fun b => { b with pllSrc := 1 })), by decide +kernel⟩,
   ⟨true, State.reset, by decide +kernel⟩,
   ⟨0, 0, State.reset, by decide +kernel⟩,
   ⟨3, State.reset, by decide +kernel⟩⟩


end Sys2Proof.Tests
end

