-- ==== Sys2Proof/Proofs/RegisterReset.lean ====
section
/-!
PROOFS. What the register fields read after reset (R8).
-/
namespace Sys2Proof.Machine

/-- The register file lists no key after reset, so every read falls back on the Reset column (R8). -/
theorem State.reset_rd (f : Field) (c i r : Nat) : State.reset.dev.rd f c i r = f.reset := rfl

/-- Settles O9: every field reads its Reset column, and for the six named fields that column is the stated number. -/
theorem resetRegisterValues : Obligations.ResetRegisterValues :=
  ⟨State.reset_rd, fun c =>
    ⟨State.reset_rd R.TB_INCR 0 0 0, State.reset_rd R.PT_MTU c 0 0, State.reset_rd R.SQ_GUARD 0 0 0,
     State.reset_rd R.GRP_RESET_ALLOW 0 0 0, State.reset_rd R.FL_AUTO 0 0 0, State.reset_rd R.PI_OPP_OPP c 0 0⟩⟩

end Sys2Proof.Machine
end

