-- ==== Sys2Proof/Proofs/RegisterWrite.lean ====
section
/-!
PROOFS. A register write whose value its field's range ignores is not silent in every state: while the sequencer is not STOPPED, a write to a
register that START latched sets SQ_STATUS.WR_IGNORED whatever its value (R106).
-/
namespace Sys2Proof.Machine

/-- REGISTER_WRITE answers the state after the word is written. -/
theorem exec_registerWrite (req addr value : Nat) (s : State) :
    exec (.registerWrite req addr value) s = .next (s.writeWord req addr value) := rfl

/-- The block after reset with its sequencer RUNNING (Table 4.2). -/
def State.resetSeqRunning : State := State.reset.onDev (fun d => d.wr R.SQ_STATUS_STATE 1)

/-- While the sequencer runs, hart 0's write of 200,000 to SQ_GUARD, whose range ends at 100,000, sets WR_IGNORED (R106). -/
theorem guardWrite_sets_wrIgnored :
    RegFile.get? (State.resetSeqRunning.writeWord 4104 0x01200024 200000).dev.regs (R.SQ_STATUS_WR_IGNORED.key 0 0 0) = some 1 := by
  decide +kernel

/-- Refutes O18: by its second clause a write out of the field's range changes no register, but SQ_GUARD written with 200,000 while the sequencer
runs sets SQ_STATUS.WR_IGNORED, which read 0 before. -/
theorem not_registerWritesTakeEffect : ¬ Obligations.RegisterWritesTakeEffect := by
  intro ⟨_, outOfRange_keeps, _, _⟩
  obtain ⟨t, ht, _, hregs⟩ := outOfRange_keeps 4104 0x01200024 200000 R.SQ_GUARD 0 0 ⟨0x01200024, .global, 0, false⟩ State.resetSeqRunning
    (by decide +kernel) (by decide +kernel) (by decide +kernel) (by decide +kernel) (by decide +kernel)
  rw [exec_registerWrite] at ht
  injection ht with ht
  have hkept := hregs (R.SQ_STATUS_WR_IGNORED.key 0 0 0) List.not_mem_nil
  rw [← ht, guardWrite_sets_wrIgnored] at hkept
  have hbefore : RegFile.get? State.resetSeqRunning.dev.regs (R.SQ_STATUS_WR_IGNORED.key 0 0 0) = none := rfl
  exact Option.some_ne_none 1 (hkept.trans hbefore)

end Sys2Proof.Machine
end

