-- ==== Sys2Proof/Proofs/RegisterFrames.lean ====
section
/-!
PROOFS. Reasoning with frames of the register file: what a list of written keys leaves, and how a chain of writes builds such a frame.
-/
namespace Sys2Proof.Machine

/-- Keys at different addresses are different. -/
theorem Key.ne_of_addr_ne {j k : Key} (h : j.addr ≠ k.addr) : j ≠ k := fun e => h (congrArg Key.addr e)

/-- A field reads alike in two devices whose register files agree on its key. -/
theorem Dev.rd_congr {d e : Dev} (f : Field) (c i r : Nat) (h : RegFile.get? e.regs (f.key c i r) = RegFile.get? d.regs (f.key c i r)) :
    e.rd f c i r = d.rd f c i r := by
  simp only [Dev.rd, RegFile.rd, h]

/-- So does a flag. -/
theorem Dev.on_congr {d e : Dev} (f : Field) (c i r : Nat) (h : RegFile.get? e.regs (f.key c i r) = RegFile.get? d.regs (f.key c i r)) :
    e.on f c i r = d.on f c i r := by
  simp only [Dev.on, Dev.rd_congr f c i r h]

/-- A saturating counter counts up to the largest number of its width. -/
theorem Dev.rd_countSat (d : Dev) (f : Field) (n c i : Nat) :
    (d.countSat f n c i).rd f c i = min (d.rd f c i + n) (2 ^ f.width - 1) := by
  have hpos : 0 < 2 ^ f.width := Nat.two_pow_pos _
  rw [Dev.countSat, Dev.rd_wr, satAdd, Nat.mod_eq_of_lt (by omega)]

/-- A one-bit field written with a Boolean reads as that Boolean. -/
theorem Dev.on_wr_b2n (d : Dev) (f : Field) (b : Bool) (c i r : Nat) (h : 0 < f.width) : (d.wr f (b2n b) c i r).on f c i r = b := by
  have hw : 1 < 2 ^ f.width := Nat.one_lt_two_pow (by omega)
  cases b <;> simp [Dev.on, Dev.rd_wr, b2n, Nat.mod_eq_of_lt hw]

section
variable {d e : Dev} {l : List Key}

theorem RegsBut.refl (d : Dev) (l : List Key) : RegsBut d d l := fun _ _ => rfl

/-- A write to a listed key keeps the frame. -/
theorem RegsBut.wr (h : RegsBut d e l) {f : Field} {c i r : Nat} (hf : f.key c i r ∈ l) (v : Nat) : RegsBut d (e.wr f v c i r) l :=
  fun k hk => (Dev.get?_wr_ne e f v c i r k (fun hkf => hk (hkf ▸ hf))).trans (h k hk)

theorem RegsBut.flag (h : RegsBut d e l) {f : Field} {c i r : Nat} (hf : f.key c i r ∈ l) : RegsBut d (e.flag f c i r) l := h.wr hf 1

theorem RegsBut.countSat (h : RegsBut d e l) {f : Field} {c i : Nat} (hf : f.key c i 0 ∈ l) (n : Nat) :
    RegsBut d (e.countSat f n c i) l := h.wr hf _

theorem RegsBut.setSeq (h : RegsBut d e l) (f : Stitch → Stitch) : RegsBut d (e.setSeq f) l := h

theorem RegsBut.setHide (h : RegsBut d e l) (f : Hide → Hide) : RegsBut d (e.setHide f) l := h

/-- A field outside the list keeps its value. -/
theorem RegsBut.rd (h : RegsBut d e l) {f : Field} {c i r : Nat} (hf : f.key c i r ∉ l) : e.rd f c i r = d.rd f c i r :=
  Dev.rd_congr f c i r (h _ hf)

/-- A flag outside the list keeps its value. -/
theorem RegsBut.on (h : RegsBut d e l) {f : Field} {c i r : Nat} (hf : f.key c i r ∉ l) : e.on f c i r = d.on f c i r :=
  Dev.on_congr f c i r (h _ hf)

/-- A longer list keeps the frame. -/
theorem RegsBut.mono (h : RegsBut d e l) {l' : List Key} (hl : l ⊆ l') : RegsBut d e l' := fun k hk => h k (fun hkl => hk (hl hkl))

end

end Sys2Proof.Machine
end

