-- ==== Sys2Proof/Proofs/StitchFrames.lean ====
section
/-!
PROOFS. What capture and delivery leave of Stitch: a frame that reaches its capture point and its ring changes nothing by which ticks close.
-/
namespace Sys2Proof.Machine

/-- From one device to another Stitch's lowest open tick and its ticks stay, events of the present tick are only added, and of the registers
below Stitch's source windows (Table 4.7) only those of a list may differ. -/
structure KeepsStitch (l : List Key) (d e : Dev) : Prop where
  regs : ∀ k : Key, k.addr < 0x01201000 → k ∉ l → RegFile.get? e.regs k = RegFile.get? d.regs k
  next : e.seq.next = d.seq.next
  ticks : e.seq.ticks = d.seq.ticks
  sampled : d.tk.sampled ⊆ e.tk.sampled

namespace KeepsStitch

section
variable {l : List Key} {d e : Dev}

theorem refl (l : List Key) (d : Dev) : KeepsStitch l d d := ⟨fun _ _ _ => rfl, rfl, rfl, List.Subset.refl _⟩

theorem trans {e' : Dev} (h : KeepsStitch l d e) (h' : KeepsStitch l e e') : KeepsStitch l d e' where
  regs k hk hl := (h'.regs k hk hl).trans (h.regs k hk hl)
  next := h'.next.trans h.next
  ticks := h'.ticks.trans h.ticks
  sampled := List.Subset.trans h.sampled h'.sampled

/-- A field of Stitch outside the list reads as before. -/
theorem rd (h : KeepsStitch l d e) (f : Field) {c i r : Nat} (ha : (f.key c i r).addr < 0x01201000) (hl : f.key c i r ∉ l) :
    e.rd f c i r = d.rd f c i r := Dev.rd_congr f c i r (h.regs _ ha hl)

theorem mono (h : KeepsStitch [] d e) : KeepsStitch l d e := { h with regs := fun k hk _ => h.regs k hk List.not_mem_nil }

/-- A write to a listed key. -/
theorem wr_mem (h : KeepsStitch l d e) {f : Field} {c i r : Nat} (hf : f.key c i r ∈ l) (v : Nat) : KeepsStitch l d (e.wr f v c i r) :=
  { h with regs := fun k hk hl => (Dev.get?_wr_ne e f v c i r k (fun hkf => hl (hkf ▸ hf))).trans (h.regs k hk hl) }

/-- A write to a register above those of Stitch. -/
theorem wr (h : KeepsStitch l d e) (f : Field) (hf : 0x01201000 ≤ f.addr) (v c i r : Nat) : KeepsStitch l d (e.wr f v c i r) :=
  { h with regs := fun k hk hl =>
      have hne : k.addr ≠ (f.key c i r).addr := by simp only [Field.key]; omega
      (Dev.get?_wr_ne e f v c i r k (Key.ne_of_addr_ne hne)).trans (h.regs k hk hl) }

theorem count (h : KeepsStitch l d e) (f : Field) (hf : 0x01201000 ≤ f.addr) (n c i : Nat) : KeepsStitch l d (e.count f n c i) :=
  h.wr f hf _ c i 0

theorem countSat (h : KeepsStitch l d e) (f : Field) (hf : 0x01201000 ≤ f.addr) (n c i : Nat) : KeepsStitch l d (e.countSat f n c i) :=
  h.wr f hf _ c i 0

theorem raise (h : KeepsStitch l d e) (cls src info : Nat) : KeepsStitch l d (e.raise cls src info) :=
  { h with sampled := List.Subset.trans h.sampled (List.subset_append_left _ _) }

theorem setCapt (h : KeepsStitch l d e) (f : Capture → Capture) : KeepsStitch l d (e.setCapt f) := { h with }

theorem setHost (h : KeepsStitch l d e) (f : HostState → HostState) : KeepsStitch l d (e.setHost f) := { h with }

/-- A change of Stitch beside its ticks. -/
theorem setSeq (h : KeepsStitch l d e) (f : Stitch → Stitch) (hn : (f e.seq).next = e.seq.next) (ht : (f e.seq).ticks = e.seq.ticks) :
    KeepsStitch l d (e.setSeq f) :=
  { h with next := hn.trans h.next, ticks := ht.trans h.ticks }

/-- A step taken under a condition. -/
theorem ite (h : KeepsStitch l d e) {p : Prop} [Decidable p] {e' : Dev} (h' : KeepsStitch l e e') : KeepsStitch l d (if p then e' else e) := by
  split
  · exact h.trans h'
  · exact h

/-- Steps that each keep Stitch, one for each element of a list. -/
theorem foldl {α : Type} (f : Dev → α → Dev) (hf : ∀ e x, KeepsStitch l e (f e x)) (xs : List α) (d : Dev) :
    KeepsStitch l d (xs.foldl f d) := by
  induction xs generalizing d with
  | nil => exact refl l d
  | cons x xs ih => exact (hf d x).trans (ih (f d x))

end

section
variable (d : Dev)

/-! ## Capture streams (R305, R309, R311) -/

theorem lossBit (s : Nat) (b : Bool) : KeepsStitch [] d (d.lossBit s b) :=
  ((refl [] d).wr R.CS_STATUS_LOSS_PENDING (by decide) _ _ _ _).wr R.CP_STATUS_LOSS_PENDING (by decide) _ _ _ _

theorem chunkClose (s : Nat) : KeepsStitch [] d (d.chunkClose s) := by
  unfold Dev.chunkClose
  split
  · exact refl [] d
  · exact ((refl [] d).setCapt _).setCapt _

theorem chunkPut (s : Nat) (r : Bytes) (loss : Bool) : KeepsStitch [] d (d.chunkPut s r loss) := by
  have hclose : KeepsStitch [] d (if 131072 < (d.stream s).chunk.bytes.length + r.length then d.chunkClose s else d) := by
    split
    · exact chunkClose d s
    · exact refl [] d
  exact ((hclose.setCapt _).wr R.CS_STATUS_IDLE (by decide) _ _ _ _).wr R.CS_STAGE_USED (by decide) _ _ _ _

theorem lossWrite (s : Nat) : KeepsStitch [] d (d.lossWrite s) := by
  unfold Dev.lossWrite
  split
  · exact refl [] d
  · split
    · exact refl [] d
    · exact ((((refl [] d).setCapt _).trans (chunkPut _ _ _ _)).count R.CS_LOSS_RECS (by decide) _ _ _).trans (lossBit _ _ _)

theorem recordDrop (s len stamp : Nat) : KeepsStitch [] d (d.recordDrop s len stamp) := by
  have hcounts : KeepsStitch [] d ((d.count R.CS_DROP_REC 1 s).count R.CS_DROP_OCT len s) :=
    ((refl [] d).count R.CS_DROP_REC (by decide) _ _ _).count R.CS_DROP_OCT (by decide) _ _ _
  unfold Dev.recordDrop
  split
  · exact hcounts.setCapt _
  · exact ((hcounts.setCapt _).trans (lossBit _ _ _)).raise _ _ _

theorem recordPut (s : Nat) (r : Bytes) (stamp : Nat) : KeepsStitch [] d (d.recordPut s r stamp) := by
  unfold Dev.recordPut
  split
  · exact refl [] d
  · dsimp only
    split
    · exact (lossWrite d s).trans (recordDrop _ _ _ _)
    · exact ((((lossWrite d s).setCapt _).trans (chunkPut _ _ _ _)).count R.CS_RECORDS (by decide) _ _ _).count R.CS_REC_OCTETS
        (by decide) _ _ _

/-! ## Telemetry (R315, R317, R319) -/

theorem sketchAdd (c : Cand) : KeepsStitch [] d (d.sketchAdd c) := foldl _ (fun e _ => (refl [] e).setCapt _) _ d

theorem histValue (p src : Nat) (u : Int) : KeepsStitch [] d (d.histValue p src u) := by
  unfold Dev.histValue
  split
  · unfold Dev.histAdd
    exact (refl [] d).setCapt _
  · exact refl [] d

theorem flowCount (p : Nat) (c : Cand) : KeepsStitch [] d (d.flowCount p c) := by
  unfold Dev.flowCount
  dsimp only
  split
  · exact refl [] d
  · split
    · split
      · exact (refl [] d).setCapt _
      · exact (refl [] d).count R.CP_FC_MISS (by decide) _ _ _
    · exact (refl [] d).count R.CP_FC_MISS (by decide) _ _ _

theorem telemetry (p : Nat) (c : Cand) : KeepsStitch [] d (d.telemetry p c) := by
  have hcounts : KeepsStitch [] d
      (if c.malf.isSome then d else (d.when (d.on R.CF_CTRL_SK_EN p) (fun e => e.sketchAdd c)).flowCount p c) := by
    split
    · exact refl [] d
    · refine trans ?_ (flowCount _ _ _)
      unfold Dev.when
      split
      · exact sketchAdd d c
      · exact refl [] d
  unfold Dev.telemetry
  dsimp only
  split
  · exact hcounts
  · refine ite (setCapt ?_ _) (histValue _ _ _ _)
    split
    · exact hcounts.trans (histValue _ _ _ _)
    · exact hcounts

/-- A candidate at its capture point. -/
theorem candidate (p : Nat) (c : Cand) : KeepsStitch [] d (d.candidate p c) := by
  unfold Dev.candidate
  split
  · exact refl [] d
  · refine trans ?_ (telemetry _ _ _)
    have hcount := (refl [] d).count R.CP_CANDIDATES (by decide) 1 0 0
    split
    · exact hcount
    · split
      · exact hcount.trans (recordPut _ _ _ _)
      · exact hcount.count R.CP_UNARMED (by decide) _ _ _

/-! ## Delivery (R140, R304) -/

theorem captureRx (f : RxFrame) (seq late : Bool) (gsn : Nat) : KeepsStitch [] d (d.captureRx f seq late gsn) := by
  unfold Dev.captureRx
  split
  · exact candidate d _ _
  · exact refl [] d

theorem deliver (f : RxFrame) (x : RxItem) : KeepsStitch [] d (d.deliver f x) := by
  unfold Dev.deliver
  split
  · exact (refl [] d).setHost _
  · exact ((refl [] d).countSat R.CL_RING_MISS (by decide) _ _ _).count R.PR_DROP_OTHER (by decide) _ _ _

theorem fifoPut (r : Bytes) : KeepsStitch [] d (d.fifoPut r) := by
  unfold Dev.fifoPut
  split
  · split
    · split
      · exact (refl [] d).setSeq _ rfl rfl
      · exact (refl [] d).setSeq _ rfl rfl
    · exact (refl [] d).setSeq _ rfl rfl
  · exact (refl [] d).setSeq _ rfl rfl

/-- A frame receives its GSN: its record, its capture and its delivery leave the ticks (R108). -/
theorem sequence (x : SeqFrame) (gsn : Nat) : KeepsStitch [] d (d.sequence x gsn) :=
  (((((refl [] d).setSeq _ rfl rfl).count R.SRC_EVENTS (by decide) _ _ _).trans (fifoPut _ _)).trans (captureRx _ _ _ _ _)).trans
    (deliver _ _ _)

end

end KeepsStitch

end Sys2Proof.Machine
end

