-- ==== Sys2Proof/Proofs/SequencerTicks.lean ====
section
/-!
PROOFS. Enrolment (R97, R98, R102), START and STOP (R105), the closing of ticks (R101, R103, R108) and their stall (R116, R119).
-/
namespace Sys2Proof.Machine

/-! ## What the commands are -/

theorem exec_enrolment (p : Nat) (s : State) : exec (.enrolment p) s = execEnrolment p s := rfl

theorem exec_start (req : Nat) (s : State) : exec (.start req) s = execStart req s := rfl

theorem exec_stop (req : Nat) (s : State) : exec (.stop req) s = execStop req s := rfl

theorem exec_seqTickClose (s : State) : exec .seqTickClose s = .next (s.onDev Dev.tickClose) := rfl

theorem exec_seqSourceStall (s : State) : exec .seqSourceStall s = execSeqSourceStall s := rfl

/-! ## Enrolment -/

/-- A frame of a tick that is still open joins it, behind the frames there (R98, R99). -/
theorem Dev.place_open (d : Dev) (f : RxFrame) (h : d.seq.next ≤ d.tickOf f.stamp) :
    d.place f = d.setSeq (fun q =>
      { q with ticks := SMap.upd q.ticks (d.tickOf f.stamp) [] (· ++ [⟨f, d.enrolIdx f.src, d.tickOf f.stamp, false⟩]) }) := by
  simp [Dev.place, Dev.when, Nat.not_lt.mpr h]

/-- A frame of a closed tick joins the lowest open one as late, counted in SQ_LATE (R102). -/
theorem Dev.place_late (d : Dev) (f : RxFrame) (h : d.tickOf f.stamp < d.seq.next) :
    d.place f = ((d.setSeq (fun q =>
      { q with ticks := SMap.upd q.ticks d.seq.next [] (· ++ [⟨f, d.enrolIdx f.src, d.seq.next, true⟩]) })).countSat R.SQ_LATE).flag
        R.SQ_STATUS_LATE_SEEN := by
  simp [Dev.place, Dev.when, h]

/-- The device once frame `f` has left the way to Stitch. -/
def Dev.offWay (d : Dev) (f : RxFrame) : Dev := d.setSeq (fun q => { q with way := q.way.erase f })

/-- The command with a frame on its way and enrolment not held: the frame leaves the way and is placed, or passes unsequenced (R97). -/
theorem exec_enrolment_some (p : Nat) (f : RxFrame) (s : State) (hf : s.dev.seq.way.find? (fun f => f.src == p) = some f)
    (hh : s.dev.seqHeld = false) :
    exec (.enrolment p) s = .next (s.onDev (fun d =>
      if d.enrols f then (d.offWay f).place f
      else ((d.offWay f).setSeq (fun q => { q with hold := q.hold - f.len })).unsequenced f)) := by
  simp only [exec_enrolment, execEnrolment, State.onDev, hf, hh, Bool.false_eq_true, if_false]
  rfl

/-- The command while enrolment is held, or with no frame on its way. -/
theorem exec_enrolment_idle (p : Nat) (s : State)
    (h : s.dev.seqHeld = true ∨ s.dev.seq.way.find? (fun f => f.src == p) = none) : exec (.enrolment p) s = .next s := by
  simp only [exec_enrolment, execEnrolment, State.onDev]
  split
  · rfl
  · next f hf =>
    have hheld : s.dev.seqHeld = true := h.resolve_right (by simp [hf])
    simp only [hheld, if_true]

/-- A frame outside the sequence that is no capture candidate is counted in SQ_UNSEQ alone of Stitch's registers (R97). -/
theorem Dev.unsequenced_counts (d : Dev) (f : RxFrame) (hf : f.cap = none) :
    (d.unsequenced f).rd R.SQ_UNSEQ = min (d.rd R.SQ_UNSEQ + 1) (2 ^ R.SQ_UNSEQ.width - 1) := by
  have hcap : ∀ e : Dev, e.captureRx f false false 0 = e := fun e => by simp only [Dev.captureRx, hf]
  have hdel := KeepsStitch.deliver (d.countSat R.SQ_UNSEQ) f (rxItemOf f false false 0 0)
  rw [Dev.unsequenced, hcap, hdel.rd R.SQ_UNSEQ (by decide) List.not_mem_nil, Dev.rd_countSat]

/-! ## GSNs -/

/-- The frames of a tick take consecutive GSNs: SQ_GSN_NEXT is the one register below the source windows that may change (R108). -/
theorem Dev.assign_keeps (l : List SeqFrame) (d : Dev) : KeepsStitch [R.SQ_GSN_NEXT.key 0 0 0] d (d.assign l) :=
  KeepsStitch.foldl _ (fun e x => (KeepsStitch.sequence e x _).mono.wr_mem List.mem_cons_self _) l d

/-- SQ_GSN_NEXT advances by the number of frames, modulo 2^64 (R108). -/
theorem Dev.assign_gsnNext (l : List SeqFrame) (d : Dev) (h : d.rd R.SQ_GSN_NEXT < 2 ^ 64) :
    (d.assign l).rd R.SQ_GSN_NEXT = (d.rd R.SQ_GSN_NEXT + l.length) % 2 ^ 64 := by
  induction l generalizing d with
  | nil => exact (Nat.mod_eq_of_lt h).symm
  | cons x l ih =>
    have hstep : ((d.sequence x (d.rd R.SQ_GSN_NEXT)).wr R.SQ_GSN_NEXT (d.rd R.SQ_GSN_NEXT + 1)).rd R.SQ_GSN_NEXT =
        (d.rd R.SQ_GSN_NEXT + 1) % 2 ^ 64 := Dev.rd_wr _ _ _ _ _ _
    have hrest := ih ((d.sequence x (d.rd R.SQ_GSN_NEXT)).wr R.SQ_GSN_NEXT (d.rd R.SQ_GSN_NEXT + 1))
      (by rw [hstep]; exact Nat.mod_lt _ (by decide))
    have hcons : d.assign (x :: l) =
        ((d.sequence x (d.rd R.SQ_GSN_NEXT)).wr R.SQ_GSN_NEXT (d.rd R.SQ_GSN_NEXT + 1)).assign l := rfl
    rw [hcons, hrest, hstep, List.length_cons, Nat.mod_add_mod]
    congr 1
    omega

/-! ## Closing -/

/-- Outside STOPPING there is nothing to finish (R107). -/
theorem Dev.seqFinish_of_state_ne (d : Dev) (h : d.rd R.SQ_STATUS_STATE ≠ 2) : d.seqFinish = d := by
  simp [Dev.seqFinish, h]

/-- The lowest open tick is taken off: SQ_TICK_CLOSED names it and TIME local 32 raises its class 5 event (R101). -/
def Dev.tickTaken (d : Dev) : Dev :=
  ((d.setSeq (fun q => { q with next := d.seq.next + 1, ticks := SMap.del q.ticks d.seq.next, blocked := none })).wr R.SQ_TICK_CLOSED
    d.seq.next).raise 5 (srcNum 1 32) d.seq.next

/-- The frames of the lowest open tick in the order of R99. -/
def Dev.lowestOrder (d : Dev) : List SeqFrame :=
  tickOrder d.seq.next (max 1 d.enrolCount) (SMap.getD d.seq.ticks d.seq.next [])

/-- A running sequencer alone closes its lowest open tick by giving its frames their GSNs. -/
theorem Dev.closeTick_alone (d : Dev) (hrun : d.rd R.SQ_STATUS_STATE = 1) (hrole : d.rd R.SQ_CTRL_CL_ROLE = 0) :
    d.closeTick = d.tickTaken.assign d.lowestOrder := by
  have hstate : (d.tickTaken.assign d.lowestOrder).rd R.SQ_STATUS_STATE = 1 := by
    rw [(Dev.assign_keeps _ _).rd R.SQ_STATUS_STATE (by decide) (by decide), ← hrun]
    exact Dev.rd_wr_ne _ _ _ _ _ _ _ _ _ _ (by decide)
  have hclose : d.closeTick = (d.tickTaken.assign d.lowestOrder).seqFinish := by
    simp only [Dev.closeTick, hrole, if_true]
    rfl
  rw [hclose, Dev.seqFinish_of_state_ne _ (by omega)]

/-- A tick that is ready and need not stall closes (R101). -/
theorem Dev.tickClose_ready (d : Dev) (hready : d.tickReady = true) (hstall : d.mustStall = false) : d.tickClose = d.closeTick := by
  simp [Dev.tickClose, hready, hstall]

/-- A tick that must stall stalls the running sequencer (R116, R119). -/
theorem Dev.tickClose_stalls (d : Dev) (hready : d.tickReady = true) (hstall : d.mustStall = true) (hrun : d.rd R.SQ_STATUS_STATE = 1) :
    d.tickClose = d.wr R.SQ_STATUS_STATE 3 := by
  simp [Dev.tickClose, hready, hstall, hrun]

/-- A tick that is not ready stays open. -/
theorem Dev.tickClose_notReady (d : Dev) (h : d.tickReady = false) : d.tickClose = d := by
  simp [Dev.tickClose, h]

/-! ## Stalled sources (R103) -/

/-- Each source of a list is stalled and raises TIME local 33. -/
def Dev.stallSources (d : Dev) (l : List Nat) : Dev :=
  l.foldl (fun e p => (e.flag R.SRC_STATUS_STALLED p).raise 11 (srcNum 1 33) p) d

theorem Dev.stallSources_cons (d : Dev) (p : Nat) (l : List Nat) :
    d.stallSources (p :: l) = ((d.flag R.SRC_STATUS_STALLED p).raise 11 (srcNum 1 33) p).stallSources l := rfl

/-- Stalling sources changes registers and adds one event for each. -/
theorem Dev.stallSources_eq (l : List Nat) (d : Dev) :
    d.stallSources l = { d with regs := (d.stallSources l).regs, tk :=
      { d.tk with sampled := d.tk.sampled ++ l.map (fun p => ⟨11, srcNum 1 33, p⟩) } } := by
  induction l generalizing d with
  | nil => simp [Dev.stallSources]
  | cons p l ih =>
    rw [Dev.stallSources_cons, ih]
    simp [Dev.raise, Dev.flag, Dev.wr]

/-- Of the registers only STALLED of the listed sources may change. -/
theorem Dev.stallSources_regs (l : List Nat) (d : Dev) :
    RegsBut d (d.stallSources l) (l.map (fun p => R.SRC_STATUS_STALLED.key p 0 0)) := by
  induction l generalizing d with
  | nil => exact RegsBut.refl d _
  | cons p l ih =>
    intro k hk
    rw [List.map_cons, List.mem_cons, not_or] at hk
    rw [Dev.stallSources_cons, ih _ k hk.2]
    exact Dev.get?_wr_ne d R.SRC_STATUS_STALLED 1 p 0 0 k hk.1

/-- STALLED reads 1 for every listed source. -/
theorem Dev.stallSources_stalled (l : List Nat) (d : Dev) (p : Nat) (hp : p ∈ l) : (d.stallSources l).on R.SRC_STATUS_STALLED p = true := by
  induction l generalizing d with
  | nil => exact absurd hp List.not_mem_nil
  | cons q l ih =>
    rw [Dev.stallSources_cons]
    by_cases hl : p ∈ l
    · exact ih _ hl
    · obtain rfl : p = q := (List.mem_cons.mp hp).resolve_right hl
      have hkey : R.SRC_STATUS_STALLED.key p 0 0 ∉ l.map (fun p => R.SRC_STATUS_STALLED.key p 0 0) := by
        simpa [Field.key] using hl
      rw [(Dev.stallSources_regs l _).on hkey]
      exact Dev.on_flag d R.SRC_STATUS_STALLED p 0 0 (by decide)

/-- No source's STALLED lies at a key of SQ_STATUS. -/
theorem srcStall_not_mem_stalled (l : List Nat) :
    R.SQ_STATUS_SRC_STALL.key 0 0 0 ∉ l.map (fun p => R.SRC_STATUS_STALLED.key p 0 0) := by
  simp [Field.key, R.SQ_STATUS_SRC_STALL, R.SRC_STATUS_STALLED]

/-- The command when SQ_STALL_LIMIT has passed: the sources that block are stalled and the tick is tried again. -/
theorem exec_seqSourceStall_due (n since : Nat) (l : List Nat) (s : State) (hb : s.dev.seq.blocked = some (n, since, l))
    (hrun : s.dev.rd R.SQ_STATUS_STATE = 1 ∨ s.dev.rd R.SQ_STATUS_STATE = 2)
    (hdue : n = s.dev.seq.next ∧ since + s.dev.rd R.SQ_STALL_LIMIT < s.dev.cyc + 8) :
    exec .seqSourceStall s =
      .next { s with dev := ((s.dev.flag R.SQ_STATUS_SRC_STALL).stallSources s.dev.blockers).tickClose } := by
  simp only [exec_seqSourceStall, execSeqSourceStall, State.onDev, hb, if_pos (And.intro hrun hdue)]
  rfl

/-! ## The statement, clause by clause -/

/-- A frame of an open tick. -/
theorem enrolment_joins_open_tick (p : Nat) (f : RxFrame) (s : State) (hf : s.dev.seq.way.find? (fun f => f.src == p) = some f)
    (he : s.dev.seqHeld = false ∧ s.dev.enrols f = true) (ho : s.dev.seq.next ≤ s.dev.tickOf f.stamp) :
    ∃ t, exec (.enrolment p) s = .next t ∧ t.dev.seq.way = s.dev.seq.way.erase f ∧
      SMap.getD t.dev.seq.ticks (s.dev.tickOf f.stamp) [] =
        SMap.getD s.dev.seq.ticks (s.dev.tickOf f.stamp) [] ++ [⟨f, s.dev.enrolIdx f.src, s.dev.tickOf f.stamp, false⟩] ∧
      (∀ n, n ≠ s.dev.tickOf f.stamp → SMap.getD t.dev.seq.ticks n [] = SMap.getD s.dev.seq.ticks n []) ∧
      t = { s with dev := { s.dev with seq := { s.dev.seq with way := t.dev.seq.way, ticks := t.dev.seq.ticks } } } := by
  obtain ⟨hheld, hen⟩ := he
  refine ⟨_, exec_enrolment_some p f s hf hheld, ?_⟩
  rw [State.onDev, hen, if_pos rfl, Dev.place_open (s.dev.offWay f) f ho]
  exact ⟨rfl, SMap.getD_put_self _ _ _ _, fun n hn => SMap.getD_put_ne _ _ _ _ _ hn, rfl⟩

/-- A frame of a closed tick. -/
theorem enrolment_joins_late (p : Nat) (f : RxFrame) (s : State) (hf : s.dev.seq.way.find? (fun f => f.src == p) = some f)
    (he : s.dev.seqHeld = false ∧ s.dev.enrols f = true) (hl : s.dev.tickOf f.stamp < s.dev.seq.next) :
    ∃ t, exec (.enrolment p) s = .next t ∧
      SMap.getD t.dev.seq.ticks s.dev.seq.next [] =
        SMap.getD s.dev.seq.ticks s.dev.seq.next [] ++ [⟨f, s.dev.enrolIdx f.src, s.dev.seq.next, true⟩] ∧
      t.dev.rd R.SQ_LATE = min (s.dev.rd R.SQ_LATE + 1) (2 ^ R.SQ_LATE.width - 1) ∧ t.dev.on R.SQ_STATUS_LATE_SEEN = true ∧
      RegsBut s.dev t.dev [R.SQ_LATE.key 0 0 0, R.SQ_STATUS_LATE_SEEN.key 0 0 0] := by
  obtain ⟨hheld, hen⟩ := he
  refine ⟨_, exec_enrolment_some p f s hf hheld, ?_⟩
  rw [State.onDev, hen, if_pos rfl, Dev.place_late (s.dev.offWay f) f hl]
  refine ⟨SMap.getD_put_self _ _ _ _, ?_, Dev.on_flag _ _ _ _ _ (by decide), ?_⟩
  · exact (Dev.rd_wr_ne _ _ _ _ _ _ _ _ _ _ (by decide)).trans (Dev.rd_countSat _ _ _ _ _)
  · exact ((((RegsBut.refl s.dev _).setSeq _).setSeq _).countSat (by simp) 1).flag (by simp)

/-- A tick of a running sequencer alone that closes. -/
theorem tickClose_alone (s : State)
    (h : s.dev.rd R.SQ_STATUS_STATE = 1 ∧ s.dev.rd R.SQ_CTRL_CL_ROLE = 0 ∧ s.dev.rd R.SQ_GSN_NEXT < 2 ^ 64)
    (hc : s.dev.tickReady = true ∧ s.dev.mustStall = false) :
    ∃ t, exec (.seqTickClose) s = .next t ∧ t.dev.rd R.SQ_TICK_CLOSED = s.dev.seq.next % 2 ^ 48 ∧ t.dev.seq.next = s.dev.seq.next + 1 ∧
      SMap.get? t.dev.seq.ticks s.dev.seq.next = none ∧ ⟨5, srcNum 1 32, s.dev.seq.next⟩ ∈ t.dev.tk.sampled ∧
      t.dev.rd R.SQ_GSN_NEXT = (s.dev.rd R.SQ_GSN_NEXT +
        (tickOrder s.dev.seq.next (max 1 s.dev.enrolCount) (SMap.getD s.dev.seq.ticks s.dev.seq.next [])).length) % 2 ^ 64 ∧
      t.hbm = s.hbm ∧ t.fuse = s.fuse := by
  obtain ⟨hrun, hrole, hgsn⟩ := h
  obtain ⟨hready, hstall⟩ := hc
  have htaken : s.dev.tickTaken.rd R.SQ_GSN_NEXT = s.dev.rd R.SQ_GSN_NEXT := Dev.rd_wr_ne _ _ _ _ _ _ _ _ _ _ (by decide)
  have hkeeps := Dev.assign_keeps s.dev.lowestOrder s.dev.tickTaken
  refine ⟨_, exec_seqTickClose s, ?_⟩
  rw [State.onDev_dev, Dev.tickClose_ready _ hready hstall, Dev.closeTick_alone _ hrun hrole]
  refine ⟨?_, hkeeps.next, ?_, hkeeps.sampled (by simp [Dev.tickTaken]), ?_, rfl, rfl⟩
  · rw [hkeeps.rd R.SQ_TICK_CLOSED (by decide) (by decide)]
    exact Dev.rd_wr _ _ _ _ _ _
  · rw [hkeeps.ticks]
    exact SMap.get?_del_self _ _
  · rw [Dev.assign_gsnNext _ _ (htaken ▸ hgsn), htaken]
    rfl

/-- A source that blocks for SQ_STALL_LIMIT. -/
theorem sourceStall_due (n since : Nat) (l : List Nat) (s : State) (hb : s.dev.seq.blocked = some (n, since, l))
    (hrun : s.dev.rd R.SQ_STATUS_STATE = 1 ∨ s.dev.rd R.SQ_STATUS_STATE = 2)
    (hdue : n = s.dev.seq.next ∧ since + s.dev.rd R.SQ_STALL_LIMIT < s.dev.cyc + 8) :
    ∃ t, exec (.seqSourceStall) s = .next t ∧ ∃ e : Dev, t = { s with dev := e.tickClose } ∧ e.on R.SQ_STATUS_SRC_STALL = true ∧
      (∀ p, p ∈ s.dev.blockers → e.on R.SRC_STATUS_STALLED p = true) ∧
      e = { s.dev with regs := e.regs, tk :=
        { s.dev.tk with sampled := s.dev.tk.sampled ++ s.dev.blockers.map (fun p => ⟨11, srcNum 1 33, p⟩) } } ∧
      RegsBut s.dev e (R.SQ_STATUS_SRC_STALL.key 0 0 0 :: s.dev.blockers.map (fun p => R.SRC_STATUS_STALLED.key p 0 0)) := by
  have hregs := Dev.stallSources_regs s.dev.blockers (s.dev.flag R.SQ_STATUS_SRC_STALL)
  refine ⟨_, exec_seqSourceStall_due n since l s hb hrun hdue, _, rfl, ?_, Dev.stallSources_stalled _ _, Dev.stallSources_eq _ _, ?_⟩
  · rw [hregs.on (srcStall_not_mem_stalled _)]
    exact Dev.on_flag _ _ _ _ _ (by decide)
  · intro k hk
    rw [List.mem_cons, not_or] at hk
    exact (hregs k hk.2).trans (Dev.get?_wr_ne _ _ _ _ _ _ k hk.1)

/-- Settles O37: enrolment by the place of the frame's tick, closing by the frame lemma of delivery and by induction on the order of the tick,
the stall of sources by induction on those that block. -/
theorem framesAreEnrolledAndTicksClose : Obligations.FramesAreEnrolledAndTicksClose := by
  unfold Obligations.FramesAreEnrolledAndTicksClose
  refine ⟨enrolment_joins_open_tick, enrolment_joins_late, ?unsequenced, ?idle, ?start, ?stop, tickClose_alone, ?stalls, ?notReady,
    sourceStall_due, ?notBlocked⟩
  case unsequenced =>
    intro p f s hf ⟨hheld, hen⟩
    refine ⟨_, exec_enrolment_some p f s hf hheld, ?_⟩
    rw [State.onDev, hen, if_neg Bool.false_ne_true]
    exact ⟨rfl, Dev.unsequenced_counts _ f⟩
  case idle => exact fun p s h => ⟨s, exec_enrolment_idle p s h, rfl⟩
  case start => exact fun req s => ⟨_, exec_start req s, rfl, rfl, RegsBut.refl s.dev _⟩
  case stop => exact fun req s => ⟨_, exec_stop req s, rfl, rfl, RegsBut.refl s.dev _⟩
  case stalls =>
    intro s hrun ⟨hready, hstall⟩
    refine ⟨_, exec_seqTickClose s, ?_⟩
    rw [State.onDev, Dev.tickClose_stalls _ hready hstall hrun]
    exact ⟨Dev.rd_wr _ _ _ _ _ _, rfl, (RegsBut.refl s.dev _).wr List.mem_cons_self _⟩
  case notReady =>
    intro s h
    exact ⟨_, exec_seqTickClose s, by rw [State.onDev, Dev.tickClose_notReady _ h]⟩
  case notBlocked =>
    intro s h
    exact ⟨s, by simp only [exec_seqSourceStall, execSeqSourceStall, State.onDev, h], rfl⟩

end Sys2Proof.Machine
end

