-- ==== Sys2Proof/Proofs/JournalRules.lean ====
section
/-!
PROOFS. Hide, a rule for each operation: its status registers, records taken, missed or held (R116, R119), blocks, seals and their signatures
(R116-R118), fatal reports as Hide makes them, and the ring's space (R119, R120).
-/
namespace Sys2Proof.Machine

/-! ## What the commands are -/

theorem exec_journalRecord (s : State) : exec .journalRecord s = .next (s.onDev (fun d => d.journalTake.seqFinish)) := rfl

theorem exec_sealPeriod (s : State) : exec .sealPeriod s = .next (s.onDev (fun d => d.sealPeriod.seqFinish)) := rfl

theorem exec_sealSigned (rb : Bool) (s : State) : exec (.sealSigned rb) s = .next (s.onDev (fun d => d.sealSigned rb)) := rfl

theorem exec_journalSpaceReturn (s : State) : exec .journalSpaceReturn s = .next (s.onDev Dev.spaceReturn) := rfl

theorem exec_hideRebuild (s : State) : exec .hideRebuild s =
    .next (s.onDev (fun d => if d.inReset 0x16 then d else (d.wr R.HD_STATUS_REBUILD 0).spaceReturn)) := rfl

theorem exec_drainSegmentAck (s : State) : exec .drainSegmentAck s =
    .next (s.onDev (fun d => (d.setHide (fun h => { h with segs := segAck h.segs })).spaceReturn)) := rfl

/-! ## The status of HIDE -/

/-- The status registers of HIDE that follow its state (Table 4.12). -/
def hideStatusKeys : List Key :=
  [R.HD_STATUS_FULL.key 0 0 0, R.HD_RING_FREE.key 0 0 0, R.HD_UNSIGNED.key 0 0 0, R.HD_STATUS_SIGN_WAIT.key 0 0 0]

/-- Register writes after one another change registers alone. -/
theorem Dev.wr_of_regs {d e : Dev} (h : ∃ m, e = { d with regs := m }) (f : Field) (v c i r : Nat) :
    ∃ m, e.wr f v c i r = { d with regs := m } := by
  obtain ⟨m, rfl⟩ := h
  exact ⟨m.wr f v c i r, rfl⟩

/-- HIDE's status changes registers alone. -/
theorem Dev.hideStatus_eq (d : Dev) : ∃ m, d.hideStatus = { d with regs := m } :=
  Dev.wr_of_regs (Dev.wr_of_regs (Dev.wr_of_regs (Dev.wr_of_regs ⟨d.regs, rfl⟩ _ _ _ _ _) _ _ _ _ _) _ _ _ _ _) _ _ _ _ _

@[simp] theorem Dev.hideStatus_hide (d : Dev) : d.hideStatus.hide = d.hide := by
  obtain ⟨m, hm⟩ := d.hideStatus_eq
  rw [hm]

@[simp] theorem Dev.hideStatus_seq (d : Dev) : d.hideStatus.seq = d.seq := by
  obtain ⟨m, hm⟩ := d.hideStatus_eq
  rw [hm]

@[simp] theorem Dev.hideStatus_mram (d : Dev) : d.hideStatus.mram = d.mram := by
  obtain ⟨m, hm⟩ := d.hideStatus_eq
  rw [hm]

@[simp] theorem Dev.hideStatus_tk (d : Dev) : d.hideStatus.tk = d.tk := by
  obtain ⟨m, hm⟩ := d.hideStatus_eq
  rw [hm]

theorem RegsBut.hideStatus {d e : Dev} {l : List Key} (h : RegsBut d e l) (hl : hideStatusKeys ⊆ l) : RegsBut d e.hideStatus l :=
  (((h.wr (hl (by simp [hideStatusKeys])) _).wr (hl (by simp [hideStatusKeys])) _).wr (hl (by simp [hideStatusKeys])) _).wr
    (hl (by simp [hideStatusKeys])) _

/-- A field that is none of HIDE's status keeps its value. -/
theorem Dev.hideStatus_rd (d : Dev) (f : Field) (c i r : Nat) (hf : f.key c i r ∉ hideStatusKeys) : d.hideStatus.rd f c i r = d.rd f c i r :=
  ((RegsBut.refl d _).hideStatus (List.Subset.refl _)).rd hf

/-- FULL shows whether the ring is full or counts as full. -/
theorem Dev.hideStatus_full (d : Dev) : d.hideStatus.on R.HD_STATUS_FULL = d.hideFull := by
  have hrest : RegsBut (d.wr R.HD_STATUS_FULL (b2n d.hideFull)) d.hideStatus
      [R.HD_RING_FREE.key 0 0 0, R.HD_UNSIGNED.key 0 0 0, R.HD_STATUS_SIGN_WAIT.key 0 0 0] :=
    (((RegsBut.refl _ _).wr (by simp) _).wr (by simp) _).wr (by simp) _
  rw [hrest.on (by decide)]
  exact Dev.on_wr_b2n d _ _ _ _ _ (by decide)

@[simp] theorem Dev.wr_ringFree (d : Dev) (f : Field) (v c i r : Nat) : (d.wr f v c i r).ringFree = d.ringFree := rfl

/-- With a MiB free, at most 256 seals unsigned and CRYPT running the ring is not full (R119, R120). -/
theorem Dev.hideFull_of_room (d : Dev) (hbytes : 2 ^ 20 ≤ d.ringFree) (hseals : d.hide.unsigned.length ≤ 256) (hrst : d.inReset 0x16 = false)
    (hrebuild : d.on R.HD_STATUS_REBUILD = false) : d.hideFull = false := by
  simpa [Dev.hideFull, hrst, hrebuild, Nat.not_lt.mpr hseals] using hbytes

/-! ## Records -/

/-- Hide's state with a record added to the open block as a leaf (R115, R116). -/
def Hide.addLeaf (h : Hide) (r : Bytes) : Hide :=
  { h with recs := h.recs ++ [r], coded := h.coded ++ codeRecord (h.recs == []) (h.recs.getLast?.getD []) r
           first := some (h.first.getD (recGsn r)), last := recLast r, gapSeen := h.gapSeen || recGap r
           count := h.count + 1, period := h.period + 1 }

/-- A record that fits the open block becomes its next leaf. -/
theorem Dev.hideTake_open (d : Dev) (r : Bytes) (h : d.hide.recs.length < 1023) :
    d.hideTake r = (d.setHide (fun h => h.addLeaf r)).hideStatus := by
  simp only [Dev.hideTake]
  exact if_neg (by simp; omega)

/-- Hide with CRYPT running, room and no gap open takes the first record of the FIFO (R116). -/
theorem Dev.journalTake_takes (d : Dev) (r : Bytes) (rest : List Bytes) (hf : d.seq.fifo = r :: rest)
    (hrun : d.inReset 0x16 = false ∧ d.on R.HD_STATUS_REBUILD = false) (hroom : d.hideFull = false ∧ d.hide.gap = none)
    (hr : recGap r = false ∧ d.hide.recs.length < 1023) :
    d.journalTake = ((d.setSeq (fun q => { q with fifo := rest })).setHide (fun h => h.addLeaf r)).hideStatus := by
  obtain ⟨hgap, hlen⟩ := hr
  rw [← Dev.hideTake_open (d.setSeq (fun q => { q with fifo := rest })) r hlen]
  simp [Dev.journalTake, hf, hrun, hroom, hgap]

/-- Without gap mode a full ring stalls the running sequencer, and the record stays (R119). -/
theorem Dev.journalTake_stalls (d : Dev) (r : Bytes) (rest : List Bytes) (hf : d.seq.fifo = r :: rest) (hrun : d.rd R.SQ_STATUS_STATE = 1)
    (hgap : d.on R.SQ_CTRL_GAP_MODE = false) (hfull : d.hideFull = true) : d.journalTake = d.wr R.SQ_STATUS_STATE 3 := by
  cases hrb : d.inReset 0x16 || d.on R.HD_STATUS_REBUILD <;> simp [Dev.journalTake, Dev.when, hf, hrun, hgap, hfull, hrb]

/-- In gap mode a record that finds the ring full widens the gap (R119). -/
theorem Dev.journalTake_misses (d : Dev) (r : Bytes) (rest : List Bytes) (hf : d.seq.fifo = r :: rest)
    (hrun : d.inReset 0x16 = false ∧ d.on R.HD_STATUS_REBUILD = false) (hgap : d.on R.SQ_CTRL_GAP_MODE = true)
    (hfull : d.hideFull = true) : d.journalTake = (d.setSeq (fun q => { q with fifo := rest })).gapAdd r := by
  simp [Dev.journalTake, hf, hrun, hgap, hfull]

/-- With an empty FIFO there is nothing to take. -/
theorem Dev.journalTake_empty (d : Dev) (hf : d.seq.fifo = []) : d.journalTake = d := by
  simp only [Dev.journalTake, hf]

/-! ## Blocks and seals -/

/-- An open block with records closes: chain, segment and block number (R116). -/
theorem Dev.closeBlock_cons (d : Dev) (bySeal : Bool) (r : Bytes) (l : List Bytes) (h : d.hide.recs = r :: l) :
    d.closeBlock bySeal = ((d.setHide (fun h =>
      { h with chain := chainStep h.chain (blockRoot h.recs) (recGsn r) d.hide.recs.length, recs := [], coded := []
               segs := h.segs ++ [{ bytes := blockSegment bySeal d.hide.recs.length (d.rd R.HD_BLOCK + 1) (recGsn r) d.hide.coded }]
               blocks := h.blocks + 1 })).wr R.HD_BLOCK (d.rd R.HD_BLOCK + 1)).hideStatus := by
  unfold Dev.closeBlock
  split
  · next hnil => exact absurd (hnil.symm.trans h) (by simp)
  · next r' l' hcons =>
    obtain ⟨rfl, rfl⟩ : r' = r ∧ l' = l := List.cons.inj (hcons.symm.trans h)
    rfl

section
variable (d : Dev) (bySeal final : Bool) (h : d.hide.recs ≠ [])
include h

/-- HD_BLOCK counts the block. -/
theorem Dev.closeBlock_rd_block : (d.closeBlock bySeal).rd R.HD_BLOCK = (d.rd R.HD_BLOCK + 1) % 2 ^ R.HD_BLOCK.width := by
  obtain ⟨r, l, hrl⟩ := List.exists_cons_of_ne_nil h
  rw [Dev.closeBlock_cons d bySeal r l hrl, Dev.hideStatus_rd _ _ _ _ _ (by decide), Dev.rd_wr]

/-- Of the registers HD_BLOCK counts and HIDE's status follows. -/
theorem Dev.closeBlock_regs : RegsBut d (d.closeBlock bySeal) (R.HD_BLOCK.key 0 0 0 :: hideStatusKeys) := by
  obtain ⟨r, l, hrl⟩ := List.exists_cons_of_ne_nil h
  rw [Dev.closeBlock_cons d bySeal r l hrl]
  exact (((RegsBut.refl d _).setHide _).wr List.mem_cons_self _).hideStatus (List.subset_cons_self _ _)

/-- The block's segment joins the ring; the seals that wait stay, and so does what MRAM holds. -/
theorem Dev.closeBlock_hide : (d.closeBlock bySeal).hide.unsigned = d.hide.unsigned ∧ (d.closeBlock bySeal).hide.recs = [] ∧
    (d.closeBlock bySeal).hide.segs.length = d.hide.segs.length + 1 ∧ (d.closeBlock bySeal).mram = d.mram := by
  obtain ⟨r, l, hrl⟩ := List.exists_cons_of_ne_nil h
  simp [Dev.closeBlock_cons d bySeal r l hrl]

theorem Dev.writeSeal_rd_block : (d.writeSeal final).rd R.HD_BLOCK = (d.rd R.HD_BLOCK + 1) % 2 ^ R.HD_BLOCK.width := by
  rw [← Dev.closeBlock_rd_block d true h]
  exact Dev.hideStatus_rd _ _ _ _ _ (by decide)

theorem Dev.writeSeal_regs : RegsBut d (d.writeSeal final) (R.HD_BLOCK.key 0 0 0 :: hideStatusKeys) :=
  ((Dev.closeBlock_regs d true h).setHide _).hideStatus (List.subset_cons_self _ _)

/-- The body of the seal waits for its signature, the seal's place in the ring follows the block's, and the counts begin anew (R117). -/
theorem Dev.writeSeal_hide : (d.writeSeal final).hide.unsigned = d.hide.unsigned ++ [(d.closeBlock true).sealBody final] ∧
    (d.writeSeal final).hide.recs = [] ∧ (d.writeSeal final).hide.count = 0 ∧
    (d.writeSeal final).hide.segs.length = d.hide.segs.length + 2 ∧ (d.writeSeal final).mram = d.mram := by
  obtain ⟨hunsigned, hrecs, hsegs, hmram⟩ := Dev.closeBlock_hide d true h
  simp [Dev.writeSeal, hunsigned, hrecs, hsegs, hmram]

end

/-- A due period with records writes its seal and begins the next period (R117). -/
theorem Dev.sealPeriod_due (d : Dev) (hstate : d.rd R.SQ_STATUS_STATE ≠ 0) (hrst : d.inReset 0x16 = false) (hdue : d.hide.due < d.cyc + 8)
    (hrecs : d.hide.recs ≠ []) :
    d.sealPeriod = (d.writeSeal false).setHide (fun h => { h with due := d.nextPeriod, period := 0 }) := by
  simp [Dev.sealPeriod, Dev.sealDue, hstate, hrst, hdue, hrecs]

/-- A period that is not due, a stopped sequencer and CRYPT in reset write no seal. -/
theorem Dev.sealPeriod_notDue (d : Dev) (h : d.rd R.SQ_STATUS_STATE = 0 ∨ d.sealDue = false ∨ d.inReset 0x16 = true) : d.sealPeriod = d := by
  refine if_pos (h.imp_right (Or.imp_left fun hdue => ?_))
  simp [hdue]

/-! ## Signatures (R118) -/

/-- The signature of a seal's body by the journal key (R117). -/
def sealSignature (b : Bytes) : Bytes := Config.ed448Sign Config.jk ("IH-HIDE-SEAL-1".toList.map (fun c => BitVec.ofNat 8 c.toNat)) b

/-- The seal with body `b`, signed. -/
def signedSeal (b : Bytes) : Bytes := b ++ sealSignature b

/-- A signature whose counter reads back: counter and seal are stored, the seal leaves the queue, CRYPT local 0 raises its event. -/
theorem Dev.sealSigned_readsBack (d : Dev) (b : Bytes) (rest : List Bytes) (hu : d.hide.unsigned = b :: rest)
    (hup : d.enclUp = true ∧ d.on R.EN_STATUS_SEAL_FAULT = false) :
    d.sealSigned true =
      (((({ d with mram := { d.mram with sealWords := SMap.put d.mram.sealWords (le64 b 48 % 65536) (le64 b 48)
                                         sealStore := SMap.put d.mram.sealStore (le64 b 48 % 131072) (signedSeal b) } } : Dev).setHide
        (fun h => { h with unsigned := rest, segs := signSeg (signedSeal b) h.segs })).wr R.HD_SEAL_CTR (le64 b 48)).raise 11
          (srcNum 0x16 0) (le64 b 48)).hideStatus := by
  simp only [Dev.sealSigned, hu, hup, Bool.not_true, Bool.or_self, Bool.false_eq_true, if_false]
  rfl

/-- A counter that does not read back is a fatal report of CRYPT local 2. -/
theorem Dev.sealSigned_fault (d : Dev) (b : Bytes) (rest : List Bytes) (hu : d.hide.unsigned = b :: rest)
    (hup : d.enclUp = true ∧ d.on R.EN_STATUS_SEAL_FAULT = false) :
    d.sealSigned false = (d.flag R.EN_STATUS_SEAL_FAULT).err (srcNum 0x16 2) 2 (le64 b 48) := by
  simp [Dev.sealSigned, hu, hup]

/-- With no seal waiting, the enclave down or the fault set, nothing is signed. -/
theorem Dev.sealSigned_idle (d : Dev) (rb : Bool)
    (h : d.hide.unsigned = [] ∨ d.enclUp = false ∨ d.on R.EN_STATUS_SEAL_FAULT = true) : d.sealSigned rb = d := by
  unfold Dev.sealSigned
  split
  · rfl
  · next hu =>
    refine if_pos ?_
    rcases h with h | h | h
    · exact absurd (hu.symm.trans h) (by simp)
    · simp [h]
    · simp [h]

/-! ## Fatal reports (R430, R433) -/

/-- A device keeps Hide's state and the seals of another, and every register below FAULT. -/
structure KeepsSeals (d e : Dev) : Prop where
  regs : ∀ k : Key, k.addr < 0x0F000000 → RegFile.get? e.regs k = RegFile.get? d.regs k
  hide : e.hide = d.hide
  sealWords : e.mram.sealWords = d.mram.sealWords
  sealStore : e.mram.sealStore = d.mram.sealStore

namespace KeepsSeals

theorem refl (d : Dev) : KeepsSeals d d := ⟨fun _ _ => rfl, rfl, rfl, rfl⟩

theorem trans {d e e' : Dev} (h : KeepsSeals d e) (h' : KeepsSeals e e') : KeepsSeals d e' where
  regs k hk := (h'.regs k hk).trans (h.regs k hk)
  hide := h'.hide.trans h.hide
  sealWords := h'.sealWords.trans h.sealWords
  sealStore := h'.sealStore.trans h.sealStore

/-- A write to a register of FAULT. -/
theorem wr (d : Dev) (f : Field) (hf : 0x0F000000 ≤ f.addr) (v c i r : Nat) : KeepsSeals d (d.wr f v c i r) where
  regs k hk :=
    have hne : k.addr ≠ (f.key c i r).addr := by simp only [Field.key]; omega
    Dev.get?_wr_ne d f v c i r k (Key.ne_of_addr_ne hne)
  hide := rfl
  sealWords := rfl
  sealStore := rfl

theorem setSource (d : Dev) (src : Nat) (x : ErrSource) : KeepsSeals d (d.setSource src x) :=
  have hfaults : KeepsSeals d { d with faults := { d.faults with sources := SMap.put d.faults.sources src x } } :=
    ⟨fun _ _ => rfl, rfl, rfl, rfl⟩
  (hfaults.trans (wr _ R.FS_PENDING_FIRST (by decide) _ _ _ _)).trans (wr _ R.FS_PENDING_LATEST (by decide) _ _ _ _)

/-- The MRAM ring of records stands apart from the seals. -/
theorem mramLog (d : Dev) (r : LogRec) : KeepsSeals d (d.mramLog r) := by
  unfold Dev.mramLog
  split
  · exact refl d
  · exact ⟨fun _ _ => rfl, rfl, rfl, rfl⟩

theorem askReset (d : Dev) (g : Nat) : KeepsSeals d (d.askReset g) := by
  unfold Dev.askReset
  split
  · exact refl d
  · exact ⟨fun _ _ => rfl, rfl, rfl, rfl⟩

/-- What follows a fatal report asks for resets alone. -/
theorem fatalRecovery (d : Dev) (src : Nat) : KeepsSeals d (d.fatalRecovery src 2) := by
  simp only [Dev.fatalRecovery, ne_eq, not_true_eq_false, if_false]
  split
  · exact ⟨fun _ _ => rfl, rfl, rfl, rfl⟩
  · split
    · exact refl d
    · split
      · exact askReset d _
      · exact refl d

/-- A fatal report is logged at once, in MRAM (R430, R431). -/
theorem logReport (d : Dev) (p : Report) (held : Bool) (hp : p.cls = 2) : KeepsSeals d (d.logReport p held) := by
  simp only [Dev.logReport, hp, if_true]
  exact (setSource _ _ _).trans (mramLog _ _)

end KeepsSeals

/-- A unit's fatal report is logged and answered by its recovery, and raises its class 2 event (R430, R433). -/
theorem Dev.err_fatal (d : Dev) (src loc : Nat) : ∃ e, KeepsSeals d e ∧ d.err src 2 loc = e.raise 2 src loc :=
  ⟨(d.logReport { tick := d.tk.etick, src := src, cls := 2, loc := loc, code := Config.errCode src, nbits := 0 } false).fatalRecovery src 2,
    (KeepsSeals.logReport d _ false rfl).trans (KeepsSeals.fatalRecovery _ _), by simp [Dev.err, Dev.errorReport, Dev.mramCount]⟩

/-! ## Space in the ring (R119, R120) -/

/-- With less than 4 MiB free only the status follows. -/
theorem Dev.spaceReturn_short (d : Dev) (h : d.ringFree < 4 * 2 ^ 20) : d.spaceReturn = d.hideStatus := if_pos (.inl h)

/-- With room and CRYPT running, no gap and no stop asked for, a stalled sequencer runs and the status follows. -/
theorem Dev.spaceReturn_resumes (d : Dev) (hfree : 4 * 2 ^ 20 ≤ d.ringFree ∧ d.hide.unsigned.length ≤ 256)
    (hrun : d.inReset 0x16 = false ∧ d.on R.HD_STATUS_REBUILD = false) (hstall : d.rd R.SQ_STATUS_STATE = 3 ∧ d.seq.stop = none)
    (hgap : d.hide.gap = none) : d.spaceReturn = (d.wr R.SQ_STATUS_STATE 1).hideStatus := by
  have hstate : (d.wr R.SQ_STATUS_STATE 1).hideStatus.rd R.SQ_STATUS_STATE ≠ 2 := by
    rw [Dev.hideStatus_rd _ _ _ _ _ (by decide), Dev.rd_wr]
    decide
  have hshort : ¬ (d.ringFree < 4 * 2 ^ 20 ∨ 256 < d.hide.unsigned.length ∨ d.inReset 0x16 ∨ d.on R.HD_STATUS_REBUILD) := by
    obtain ⟨hbytes, hseals⟩ := hfree
    simp only [hrun, Bool.false_eq_true, or_false, not_or]
    omega
  simp only [Dev.spaceReturn, if_neg hshort, Dev.gapWrite, hgap, hstall, if_true, Option.isSome_none, Bool.false_eq_true, if_false]
  exact Dev.seqFinish_of_state_ne _ hstate

/-- With no gap, no stop and outside STOPPING, returning space lets the status follow, and at most sets the sequencer running. -/
theorem Dev.spaceReturn_cases (d : Dev) (h : d.rd R.SQ_STATUS_STATE ≠ 2 ∧ d.seq.stop = none ∧ d.hide.gap = none) :
    d.spaceReturn = d.hideStatus ∨ d.spaceReturn = (d.wr R.SQ_STATUS_STATE 1).hideStatus := by
  obtain ⟨hstate, hstop, hgap⟩ := h
  by_cases hshort : d.ringFree < 4 * 2 ^ 20 ∨ 256 < d.hide.unsigned.length ∨ d.inReset 0x16 ∨ d.on R.HD_STATUS_REBUILD
  · exact .inl (if_pos hshort)
  · by_cases hstall : d.rd R.SQ_STATUS_STATE = 3
    · simp only [not_or, Nat.not_lt, Bool.not_eq_true] at hshort
      obtain ⟨hbytes, hseals, hrst, hrebuild⟩ := hshort
      exact .inr (Dev.spaceReturn_resumes d ⟨hbytes, hseals⟩ ⟨hrst, hrebuild⟩ ⟨hstall, hstop⟩ hgap)
    · have hkept : d.hideStatus.rd R.SQ_STATUS_STATE ≠ 2 := by
        rwa [Dev.hideStatus_rd _ _ _ _ _ (by decide)]
      simp only [Dev.spaceReturn, if_neg hshort, Dev.gapWrite, hgap, if_neg hstall]
      exact .inl (Dev.seqFinish_of_state_ne _ hkept)

/-- Then it changes registers alone: the state of the sequencer and HIDE's status. -/
theorem Dev.spaceReturn_eq (d : Dev) (h : d.rd R.SQ_STATUS_STATE ≠ 2 ∧ d.seq.stop = none ∧ d.hide.gap = none) :
    (∃ m, d.spaceReturn = { d with regs := m }) ∧ RegsBut d d.spaceReturn (R.SQ_STATUS_STATE.key 0 0 0 :: hideStatusKeys) := by
  rcases Dev.spaceReturn_cases d h with heq | heq <;> rw [heq]
  · exact ⟨d.hideStatus_eq, (RegsBut.refl d _).hideStatus (List.subset_cons_self _ _)⟩
  · exact ⟨(d.wr R.SQ_STATUS_STATE 1).hideStatus_eq, ((RegsBut.refl d _).wr List.mem_cons_self _).hideStatus (List.subset_cons_self _ _)⟩

/-- A device that differs in registers alone makes a step that changed nothing else. -/
theorem onlyRegs_of_dev {s : State} {d : Dev} {l : List Key} (h : ∃ m, d = { s.dev with regs := m }) (hl : RegsBut s.dev d l) :
    OnlyRegs s { s with dev := d } l := by
  obtain ⟨m, rfl⟩ := h
  exact ⟨rfl, hl⟩

end Sys2Proof.Machine
end

