-- ==== Sys2Proof/Proofs/JournalSeals.lean ====
section
/-!
PROOFS. The commands of Hide, clause by clause of RecordsAreSealedAndDrained (R116-R120).
-/
namespace Sys2Proof.Machine

/-- Hide takes a record as a leaf. -/
theorem journalRecord_takes (r : Bytes) (rest : List Bytes) (s : State) (hf : s.dev.seq.fifo = r :: rest)
    (hstate : s.dev.rd R.SQ_STATUS_STATE ≠ 2) (hrun : s.dev.inReset 0x16 = false ∧ s.dev.on R.HD_STATUS_REBUILD = false)
    (hroom : s.dev.hideFull = false ∧ s.dev.hide.gap = none) (hr : recGap r = false ∧ s.dev.hide.recs.length < 1023) :
    ∃ t, exec (.journalRecord) s = .next t ∧ t.dev.seq = { s.dev.seq with fifo := rest } ∧ t.dev.hide.recs = s.dev.hide.recs ++ [r] ∧
      t.dev.hide.coded = s.dev.hide.coded ++ codeRecord (s.dev.hide.recs == []) (s.dev.hide.recs.getLast?.getD []) r ∧
      t.dev.hide.last = recGsn r ∧ t.dev.hide.count = s.dev.hide.count + 1 ∧ t.dev.hide.chain = s.dev.hide.chain ∧
      RegsBut s.dev t.dev [R.SQ_STATUS_STATE.key 0 0 0, R.HD_STATUS_FULL.key 0 0 0, R.HD_RING_FREE.key 0 0 0, R.HD_UNSIGNED.key 0 0 0,
        R.HD_STATUS_SIGN_WAIT.key 0 0 0] := by
  have hlast : recLast r = recGsn r := by simp [recLast, hr]
  refine ⟨_, exec_journalRecord s, ?_⟩
  rw [State.onDev_dev, Dev.journalTake_takes _ r rest hf hrun hroom hr, Dev.seqFinish_of_state_ne]
  · refine ⟨by simp, by simp [Hide.addLeaf], by simp [Hide.addLeaf], by simp [Hide.addLeaf, hlast], by simp [Hide.addLeaf],
      by simp [Hide.addLeaf], ?_⟩
    exact (((RegsBut.refl s.dev _).setSeq _).setHide _).hideStatus (List.subset_cons_self _ _)
  · rwa [Dev.hideStatus_rd _ _ _ _ _ (by decide)]

/-- A full ring without gap mode. -/
theorem journalRecord_stalls (r : Bytes) (rest : List Bytes) (s : State) (hf : s.dev.seq.fifo = r :: rest)
    (hrun : s.dev.rd R.SQ_STATUS_STATE = 1) (hgap : s.dev.on R.SQ_CTRL_GAP_MODE = false) (hfull : s.dev.hideFull = true) :
    ∃ t, exec (.journalRecord) s = .next t ∧ t.dev.rd R.SQ_STATUS_STATE = 3 ∧ OnlyRegs s t [R.SQ_STATUS_STATE.key 0 0 0] := by
  have hthree : (s.dev.wr R.SQ_STATUS_STATE 3).rd R.SQ_STATUS_STATE = 3 := Dev.rd_wr _ _ _ _ _ _
  refine ⟨_, exec_journalRecord s, ?_⟩
  rw [State.onDev, Dev.journalTake_stalls _ r rest hf hrun hgap hfull, Dev.seqFinish_of_state_ne _ (by omega)]
  exact ⟨hthree, rfl, (RegsBut.refl s.dev _).wr List.mem_cons_self _⟩

/-- A full ring in gap mode. -/
theorem journalRecord_misses (r : Bytes) (rest : List Bytes) (s : State) (hf : s.dev.seq.fifo = r :: rest)
    (hstate : s.dev.rd R.SQ_STATUS_STATE ≠ 2) (hgap : s.dev.on R.SQ_CTRL_GAP_MODE = true)
    (hrun : s.dev.inReset 0x16 = false ∧ s.dev.on R.HD_STATUS_REBUILD = false) (hfull : s.dev.hideFull = true) :
    ∃ t, exec (.journalRecord) s = .next t ∧ t = { s with dev := { s.dev with seq := { s.dev.seq with fifo := rest }, hide :=
      { s.dev.hide with gap := some ((s.dev.hide.gap.map (·.1)).getD r, recLast r) } } } := by
  refine ⟨_, exec_journalRecord s, ?_⟩
  rw [State.onDev, Dev.journalTake_misses _ r rest hf hrun hgap hfull, Dev.seqFinish_of_state_ne]
  · rfl
  · exact hstate

/-- A due period with records. -/
theorem sealPeriod_seals (s : State) (hstate : s.dev.rd R.SQ_STATUS_STATE = 1 ∨ s.dev.rd R.SQ_STATUS_STATE = 3)
    (hrst : s.dev.inReset 0x16 = false) (hdue : s.dev.hide.due < s.dev.cyc + 8) (hrecs : s.dev.hide.recs ≠ []) :
    ∃ t, exec (.sealPeriod) s = .next t ∧ t.dev.hide.unsigned = s.dev.hide.unsigned ++ [(s.dev.closeBlock true).sealBody false] ∧
      t.dev.hide.recs = [] ∧ t.dev.hide.due = s.dev.nextPeriod ∧ t.dev.hide.period = 0 ∧ t.dev.hide.count = 0 ∧
      t.dev.rd R.HD_BLOCK = (s.dev.rd R.HD_BLOCK + 1) % 2 ^ R.HD_BLOCK.width ∧
      t.dev.hide.segs.length = s.dev.hide.segs.length + 2 ∧ t.dev.mram = s.dev.mram := by
  obtain ⟨hunsigned, hnone, hcount, hsegs, hmram⟩ := Dev.writeSeal_hide s.dev false hrecs
  have hkept : (s.dev.writeSeal false).rd R.SQ_STATUS_STATE ≠ 2 := by
    rw [(Dev.writeSeal_regs s.dev false hrecs).rd (by decide)]
    omega
  refine ⟨_, exec_sealPeriod s, ?_⟩
  rw [State.onDev_dev, Dev.sealPeriod_due _ (by omega) hrst hdue hrecs, Dev.seqFinish_of_state_ne]
  · rw [Dev.setHide_hide, Dev.setHide_rd, Dev.setHide_mram]
    exact ⟨hunsigned, hnone, rfl, rfl, hcount, Dev.writeSeal_rd_block s.dev false hrecs, hsegs, hmram⟩
  · rwa [Dev.setHide_rd]

/-- A signature whose counter reads back. -/
theorem sealSigned_counts (b : Bytes) (rest : List Bytes) (s : State) (hu : s.dev.hide.unsigned = b :: rest)
    (hup : s.dev.enclUp = true ∧ s.dev.on R.EN_STATUS_SEAL_FAULT = false) :
    ∃ t, exec (.sealSigned true) s = .next t ∧ t.dev.hide.unsigned = rest ∧
      t.dev.rd R.HD_SEAL_CTR = le64 b 48 % 2 ^ R.HD_SEAL_CTR.width ∧ ⟨11, srcNum 0x16 0, le64 b 48⟩ ∈ t.dev.tk.sampled ∧
      SMap.get? t.dev.mram.sealWords (le64 b 48 % 65536) = some (le64 b 48) ∧
      ∃ sig, SMap.get? t.dev.mram.sealStore (le64 b 48 % 131072) = some (b ++ sig) ∧
        RegsBut s.dev t.dev [R.HD_SEAL_CTR.key 0 0 0, R.HD_STATUS_FULL.key 0 0 0, R.HD_RING_FREE.key 0 0 0, R.HD_UNSIGNED.key 0 0 0,
          R.HD_STATUS_SIGN_WAIT.key 0 0 0] := by
  refine ⟨_, exec_sealSigned true s, ?_⟩
  rw [State.onDev_dev, Dev.sealSigned_readsBack _ b rest hu hup]
  refine ⟨by simp, ?_, by simp, by simp, sealSignature b, ?_, ?_⟩
  · rw [Dev.hideStatus_rd _ _ _ _ _ (by decide)]
    exact Dev.rd_wr _ _ _ _ _ _
  · rw [Dev.hideStatus_mram]
    exact SMap.get?_put_self _ _ (signedSeal b)
  · exact RegsBut.hideStatus (RegsBut.wr (RegsBut.refl s.dev _) List.mem_cons_self (le64 b 48)) (List.subset_cons_self _ _)

/-- A counter that does not read back. -/
theorem sealSigned_faults (b : Bytes) (rest : List Bytes) (s : State) (hu : s.dev.hide.unsigned = b :: rest)
    (hup : s.dev.enclUp = true ∧ s.dev.on R.EN_STATUS_SEAL_FAULT = false) :
    ∃ t, exec (.sealSigned false) s = .next t ∧ t.dev.on R.EN_STATUS_SEAL_FAULT = true ∧ t.dev.hide = s.dev.hide ∧
      t.dev.mram.sealWords = s.dev.mram.sealWords ∧ t.dev.mram.sealStore = s.dev.mram.sealStore ∧
      ⟨2, srcNum 0x16 2, le64 b 48⟩ ∈ t.dev.tk.sampled := by
  obtain ⟨e, hkeeps, herr⟩ := Dev.err_fatal (s.dev.flag R.EN_STATUS_SEAL_FAULT) (srcNum 0x16 2) (le64 b 48)
  have hfault : e.on R.EN_STATUS_SEAL_FAULT = true := by
    rw [Dev.on, Dev.rd_congr _ _ _ _ (hkeeps.regs _ (by decide))]
    exact Dev.on_flag _ _ _ _ _ (by decide)
  refine ⟨_, exec_sealSigned false s, ?_⟩
  rw [State.onDev_dev, Dev.sealSigned_fault _ b rest hu hup, herr]
  exact ⟨hfault, hkeeps.hide, hkeeps.sealWords, hkeeps.sealStore, by simp⟩

/-- Space of 4 MiB for a stalled sequencer. -/
theorem journalSpaceReturn_resumes (s : State) (hfree : 4 * 2 ^ 20 ≤ s.dev.ringFree ∧ s.dev.hide.unsigned.length ≤ 256)
    (hrun : s.dev.inReset 0x16 = false ∧ s.dev.on R.HD_STATUS_REBUILD = false)
    (hstall : s.dev.rd R.SQ_STATUS_STATE = 3 ∧ s.dev.seq.stop = none) (hgap : s.dev.hide.gap = none) :
    ∃ t, exec (.journalSpaceReturn) s = .next t ∧ t.dev.rd R.SQ_STATUS_STATE = 1 ∧ t.dev.on R.HD_STATUS_FULL = false ∧
      OnlyRegs s t [R.SQ_STATUS_STATE.key 0 0 0, R.HD_STATUS_FULL.key 0 0 0, R.HD_RING_FREE.key 0 0 0, R.HD_UNSIGNED.key 0 0 0,
        R.HD_STATUS_SIGN_WAIT.key 0 0 0] := by
  obtain ⟨hbytes, hseals⟩ := hfree
  obtain ⟨hrst, hrebuild⟩ := hrun
  obtain ⟨hthree, hstop⟩ := hstall
  obtain ⟨honly, hregs⟩ := Dev.spaceReturn_eq s.dev ⟨by omega, hstop, hgap⟩
  have heq := Dev.spaceReturn_resumes s.dev ⟨hbytes, hseals⟩ ⟨hrst, hrebuild⟩ ⟨hthree, hstop⟩ hgap
  have hkept : (s.dev.wr R.SQ_STATUS_STATE 1).on R.HD_STATUS_REBUILD = s.dev.on R.HD_STATUS_REBUILD :=
    Dev.on_congr _ _ _ _ (Dev.get?_wr_ne _ _ _ _ _ _ _ (by decide))
  refine ⟨_, exec_journalSpaceReturn s, ?_, ?_, onlyRegs_of_dev honly hregs⟩
  · rw [State.onDev_dev, heq, Dev.hideStatus_rd _ _ _ _ _ (by decide)]
    exact Dev.rd_wr _ _ _ _ _ _
  · rw [State.onDev_dev, heq, Dev.hideStatus_full]
    exact Dev.hideFull_of_room _ (by rw [Dev.wr_ringFree]; omega) hseals hrst (hkept.trans hrebuild)

/-- Too little space. -/
theorem journalSpaceReturn_waits (s : State) (h : s.dev.ringFree < 4 * 2 ^ 20) :
    ∃ t, exec (.journalSpaceReturn) s = .next t ∧ t.dev.rd R.SQ_STATUS_STATE = s.dev.rd R.SQ_STATUS_STATE ∧
      t.dev.on R.HD_STATUS_FULL = s.dev.hideFull ∧
      OnlyRegs s t [R.SQ_STATUS_STATE.key 0 0 0, R.HD_STATUS_FULL.key 0 0 0, R.HD_RING_FREE.key 0 0 0, R.HD_UNSIGNED.key 0 0 0,
        R.HD_STATUS_SIGN_WAIT.key 0 0 0] := by
  refine ⟨_, exec_journalSpaceReturn s, ?_⟩
  rw [State.onDev, Dev.spaceReturn_short _ h]
  exact ⟨Dev.hideStatus_rd _ _ _ _ _ (by decide), Dev.hideStatus_full _,
    onlyRegs_of_dev s.dev.hideStatus_eq ((RegsBut.refl s.dev _).hideStatus (List.subset_cons_self _ _))⟩

/-- A rebuild ends. -/
theorem hideRebuild_ends (s : State) (hrst : s.dev.inReset 0x16 = false)
    (h : s.dev.rd R.SQ_STATUS_STATE ≠ 2 ∧ s.dev.seq.stop = none ∧ s.dev.hide.gap = none) :
    ∃ t, exec (.hideRebuild) s = .next t ∧ t.dev.on R.HD_STATUS_REBUILD = false ∧
      OnlyRegs s t [R.SQ_STATUS_STATE.key 0 0 0, R.HD_STATUS_FULL.key 0 0 0, R.HD_RING_FREE.key 0 0 0, R.HD_UNSIGNED.key 0 0 0,
        R.HD_STATUS_SIGN_WAIT.key 0 0 0, R.HD_STATUS_REBUILD.key 0 0 0] := by
  obtain ⟨hstate, hstop, hgap⟩ := h
  have hkept : (s.dev.wr R.HD_STATUS_REBUILD 0).rd R.SQ_STATUS_STATE ≠ 2 := by
    rwa [Dev.rd_wr_ne _ _ _ _ _ _ _ _ _ _ (by decide)]
  obtain ⟨⟨m, hm⟩, hregs⟩ := Dev.spaceReturn_eq (s.dev.wr R.HD_STATUS_REBUILD 0) ⟨hkept, hstop, hgap⟩
  refine ⟨_, exec_hideRebuild s, ?_⟩
  simp only [State.onDev, hrst, Bool.false_eq_true, if_false]
  refine ⟨?_, onlyRegs_of_dev ⟨m, hm⟩ fun k hk => ?_⟩
  · rw [hregs.on (by decide)]
    exact Dev.on_wr_b2n s.dev R.HD_STATUS_REBUILD false 0 0 0 (by decide)
  · simp only [List.mem_cons, List.not_mem_nil, or_false, not_or] at hk
    obtain ⟨hstatus, hfull, hfree, hunsigned, hwait, hrebuild⟩ := hk
    exact (hregs k (by simp [hideStatusKeys, hstatus, hfull, hfree, hunsigned, hwait])).trans (Dev.get?_wr_ne _ _ _ _ _ _ k hrebuild)

/-- An acknowledged segment at the head of the ring leaves it. -/
theorem drainSegmentAck_frees (g : HideSeg) (rest : List HideSeg) (s : State) (hg : s.dev.hide.segs = g :: rest ∧ g.sent = true)
    (h : s.dev.rd R.SQ_STATUS_STATE ≠ 2 ∧ s.dev.seq.stop = none ∧ s.dev.hide.gap = none) :
    ∃ t, exec (.drainSegmentAck) s = .next t ∧ t.dev.hide = { s.dev.hide with segs := rest } ∧
      OnlyRegs s { t with dev := { t.dev with hide := s.dev.hide } } [R.SQ_STATUS_STATE.key 0 0 0, R.HD_STATUS_FULL.key 0 0 0,
        R.HD_RING_FREE.key 0 0 0, R.HD_UNSIGNED.key 0 0 0, R.HD_STATUS_SIGN_WAIT.key 0 0 0] := by
  obtain ⟨hsegs, hsent⟩ := hg
  obtain ⟨⟨m, hm⟩, hregs⟩ := Dev.spaceReturn_eq (s.dev.setHide (fun h => { h with segs := segAck h.segs })) h
  rw [hm] at hregs
  have hexec := exec_drainSegmentAck s
  rw [State.onDev, hm] at hexec
  refine ⟨_, hexec, ?_, rfl, hregs⟩
  simp [Dev.setHide, hsegs, segAck, hsent]

/-- Settles O39: each command acts by one rule of the journal in the state that its clause gives; what it leaves follows from the frames of HIDE's
status, of a seal and of a fatal report. -/
theorem recordsAreSealedAndDrained : Obligations.RecordsAreSealedAndDrained := by
  unfold Obligations.RecordsAreSealedAndDrained
  refine ⟨journalRecord_takes, journalRecord_stalls, journalRecord_misses, ?empty, sealPeriod_seals, ?notDue, sealSigned_counts,
    sealSigned_faults, ?notSigned, journalSpaceReturn_resumes, journalSpaceReturn_waits, hideRebuild_ends, ?inReset, drainSegmentAck_frees⟩
  case empty =>
    intro s hf hstate
    exact ⟨_, exec_journalRecord s, by rw [State.onDev, Dev.journalTake_empty _ hf, Dev.seqFinish_of_state_ne _ hstate]⟩
  case notDue =>
    intro s hstate h
    exact ⟨_, exec_sealPeriod s, by rw [State.onDev, Dev.sealPeriod_notDue _ h, Dev.seqFinish_of_state_ne _ hstate]⟩
  case notSigned =>
    intro rb s h
    exact ⟨_, exec_sealSigned rb s, by rw [State.onDev, Dev.sealSigned_idle _ rb h]⟩
  case inReset =>
    intro s h
    exact ⟨_, exec_hideRebuild s, by rw [State.onDev, if_pos h]⟩

end Sys2Proof.Machine
end

