-- ==== Sys2Proof/Proofs/TableRules.lean ====
section
/-!
PROOFS. Chapter 6, a rule for each operation: fields that lie apart, the searches and inserts of the MAC table (R154, R155), the update engine
with no learn waiting (R155, R156), seeds (R159) and the words of the trie (R173).
-/
namespace Sys2Proof.Machine

/-! ## Fields that lie apart -/

/-- Two fields lie at different addresses or at different bits of one word. -/
def Field.apart (f g : Field) : Bool := f.addr != g.addr || f.lo != g.lo

theorem Field.key_ne {f g : Field} (h : f.apart g = true) (c r c' r' : Nat) : f.key c 0 r ≠ g.key c' 0 r' := by
  intro hk
  have haddr : f.addr = g.addr := by simpa [Field.key] using congrArg Key.addr hk
  have hlo : f.lo = g.lo := congrArg Key.lo hk
  simp [Field.apart, haddr, hlo] at h

theorem Dev.rd_wr_apart (d : Dev) {f g : Field} (h : f.apart g = true) (v c r c' r' : Nat) :
    (d.wr g v c' 0 r').rd f c 0 r = d.rd f c 0 r :=
  Dev.rd_wr_ne _ _ _ _ _ _ _ _ _ _ (Field.key_ne h c r c' r')

theorem Dev.on_wr_apart (d : Dev) {f g : Field} (h : f.apart g = true) (v c r c' r' : Nat) :
    (d.wr g v c' 0 r').on f c 0 r = d.on f c 0 r := by
  rw [Dev.on, Dev.rd_wr_apart d h, Dev.on]

/-! ## The MAC table (R154) -/

/-- The slot that a search of the MAC table finds holds an entry. -/
theorem Dev.macFind_some (d : Dev) {a fid k : Nat} (h : d.macFind a fid = some k) : ∃ m, SMap.get? d.tab.mac k = some m := by
  unfold Dev.macFind at h
  split at h
  · exact absurd h.symm (Option.some_ne_none k)
  · have hkey := List.find?_some h
    cases hm : SMap.get? d.tab.mac k with
    | none => simp [hm] at hkey
    | some m => exact ⟨m, rfl⟩

theorem Dev.macUpd_of_get? (d : Dev) (f : MacEntry → MacEntry) {k : Nat} {m : MacEntry} (h : SMap.get? d.tab.mac k = some m) :
    d.macUpd k f = d.setTab (fun t => { t with mac := SMap.put t.mac k (f m) }) := by
  simp only [Dev.macUpd, h]

/-- Put a MAC entry into a slot; its bucket's version rises (R157). -/
def Dev.macPut (d : Dev) (k : Nat) (e : MacEntry) : Dev :=
  d.setTab (fun t => { t with mac := SMap.put t.mac k e, macVer := bumpVer t.macVer [k] })

/-- With a free way in its first bucket a new key takes it, and no entry moves (R155). -/
theorem Dev.macInsert_of_freeWay (d : Dev) (e : MacEntry) {k : Nat} (h : freeWay d.tab.mac (d.macBuckets e.addr e.fid).1 = some k) :
    d.macInsert e = some (0, (d.macPut k e).macCounts) := by
  simp only [Dev.macInsert, findSlot, h]
  rfl

/-! ## Results of the update engine -/

@[simp] theorem Dev.ftResult_tab (d : Dev) (req result moves : Nat) : (d.ftResult req result moves).tab = d.tab := rfl

@[simp] theorem Dev.ftResult_rd_result (d : Dev) (req result moves : Nat) :
    (d.ftResult req result moves).rd R.FT_OP_STATUS_RESULT 0 0 req = result % 2 ^ R.FT_OP_STATUS_RESULT.width := by
  rw [Dev.ftResult, Dev.rd_wr_apart _ (by decide), Dev.rd_wr]

@[simp] theorem Dev.ftResult_rd_moves (d : Dev) (req result moves : Nat) :
    (d.ftResult req result moves).rd R.FT_OP_STATUS_MOVES 0 0 req = moves % 2 ^ R.FT_OP_STATUS_MOVES.width :=
  Dev.rd_wr _ _ _ _ _ _

/-- A field outside the status word keeps its value. -/
theorem Dev.ftResult_rd (d : Dev) (req result moves : Nat) {f : Field} (h : (f.addr != R.FT_OP_STATUS_RESULT.addr) = true) (c r : Nat) :
    (d.ftResult req result moves).rd f c 0 r = d.rd f c 0 r := by
  have hresult : f.apart R.FT_OP_STATUS_RESULT = true := by simp [Field.apart, h]
  have hmoves : f.apart R.FT_OP_STATUS_MOVES = true := by
    have haddr : (f.addr != R.FT_OP_STATUS_MOVES.addr) = true := h
    simp [Field.apart, haddr]
  rw [Dev.ftResult, Dev.rd_wr_apart _ hmoves, Dev.rd_wr_apart _ hresult]

theorem Dev.ftResult_regs (d : Dev) (req result moves : Nat) :
    RegsBut d (d.ftResult req result moves) [R.FT_OP_STATUS_RESULT.key 0 0 req, R.FT_OP_STATUS_MOVES.key 0 0 req] :=
  ((RegsBut.refl d _).wr (by simp) _).wr (by simp) _

/-! ## Operations with no learn waiting (R155, R156) -/

/-- With no learn waiting an operation on the MAC table begins at once. -/
theorem Dev.ftBegin_mac (d : Dev) {req : Nat} (hmac : d.ftMac req = true) (hfifo : d.tab.macFifo = []) : d.ftBegin req = d := by
  simp only [Dev.ftBegin, hmac, hfifo]
  rfl

/-- So does one on the flow table. -/
theorem Dev.ftBegin_flow (d : Dev) {req : Nat} (hmac : d.ftMac req = false) (hfifo : d.tab.flowFifo = []) : d.ftBegin req = d := by
  simp only [Dev.ftBegin, hmac, hfifo]
  rfl

/-- An operation on a MAC table that is not ready is refused (R156). -/
theorem Dev.ftRefused_notReady (d : Dev) {req : Nat} (hmac : d.ftMac req = true) (h : d.on R.FT_STATUS_MT_READY = false) :
    d.ftRefused req = true := by
  simp only [Dev.ftRefused, hmac, h]
  rfl

/-- The MAC entry that an INSERT puts: the staged key and action, hit, with the tick of application (R154, R168). -/
def Dev.ftMacEntry (d : Dev) (req : Nat) : MacEntry :=
  { addr := (d.ftMacKey req).1, fid := (d.ftMacKey req).2, port := d.rd R.FT_ACTION0_PORT 0 0 req, hit := true
    stat := bit (d.rd R.FT_ACTION0_FLAGS 0 0 req) fStatic, drop := bit (d.rd R.FT_ACTION0_FLAGS 0 0 req) fDrop
    move := d.tk.etick % 2 ^ 56 }

section
variable (d : Dev) {req k : Nat}

theorem Dev.ftInsert_refused (hbegin : d.ftBegin req = d) (h : d.ftRefused req = true) : d.ftInsert req = d.ftResult req 6 0 := by
  simp only [Dev.ftInsert, hbegin, h, if_true]

theorem Dev.ftFind_mac (hmac : d.ftMac req = true) : d.ftFind req = d.macFind (d.ftMacKey req).1 (d.ftMacKey req).2 := if_pos hmac

section
variable (hmac : d.ftMac req = true) (hfifo : d.tab.macFifo = []) (hok : d.ftRefused req = false)
include hmac hfifo hok

theorem Dev.ftInsert_mac : d.ftInsert req = d.ftInsertMac req := by
  simp [Dev.ftInsert, d.ftBegin_mac hmac hfifo, hmac, hok]

/-- An INSERT of a key that the MAC table holds replaces its entry. -/
theorem Dev.ftInsert_mac_replaces (h : d.macFind (d.ftMacKey req).1 (d.ftMacKey req).2 = some k) :
    d.ftInsert req = (d.macPut k (d.ftMacEntry req)).ftResult req 1 0 := by
  obtain ⟨m, hm⟩ := d.macFind_some h
  simp only [d.ftInsert_mac hmac hfifo hok, Dev.ftInsertMac, h, Dev.macUpd_of_get? d _ hm]
  rfl

/-- An INSERT of a new key with a free way in its first bucket puts it there. -/
theorem Dev.ftInsert_mac_adds (h : d.macFind (d.ftMacKey req).1 (d.ftMacKey req).2 = none)
    (hfree : freeWay d.tab.mac (d.macBuckets (d.ftMacKey req).1 (d.ftMacKey req).2).1 = some k) :
    d.ftInsert req = ((d.macPut k (d.ftMacEntry req)).macCounts).ftResult req 0 0 := by
  have hput := d.macInsert_of_freeWay (d.ftMacEntry req) hfree
  simp only [Dev.ftMacEntry] at hput
  simp only [d.ftInsert_mac hmac hfifo hok, Dev.ftInsertMac, h, hput]
  rfl

/-- A DELETE removes the entry of a key that the MAC table holds. -/
theorem Dev.ftDelete_mac_removes (h : d.macFind (d.ftMacKey req).1 (d.ftMacKey req).2 = some k) :
    d.ftDelete req = (d.macRemove k).ftResult req 2 0 := by
  simp [Dev.ftDelete, d.ftBegin_mac hmac hfifo, d.ftFind_mac hmac, hmac, hok, h]

/-- A DELETE of another key answers that there is none. -/
theorem Dev.ftDelete_mac_misses (h : d.macFind (d.ftMacKey req).1 (d.ftMacKey req).2 = none) :
    d.ftDelete req = d.ftResult req 4 0 := by
  simp [Dev.ftDelete, d.ftBegin_mac hmac hfifo, d.ftFind_mac hmac, hok, h]

/-- A LOOKUP stages the action and the slot of the key's entry. -/
theorem Dev.ftLookup_mac_hits (h : d.macFind (d.ftMacKey req).1 (d.ftMacKey req).2 = some k) :
    d.ftLookup req = ((d.ftAction req k).wr R.FT_SLOT k 0 0 req).ftResult req 3 0 := by
  simp [Dev.ftLookup, d.ftBegin_mac hmac hfifo, d.ftFind_mac hmac, hok, h]

end

/-- The action of a MAC entry as it is staged. -/
theorem Dev.ftAction_mac (hmac : d.ftMac req = true) {m : MacEntry} (h : SMap.get? d.tab.mac k = some m) :
    d.ftAction req k = ((d.wr R.FT_ACTION0_FLAGS (b2n m.hit + 2 * b2n m.stat + 4 * b2n m.drop) 0 0 req).wr R.FT_ACTION0_PORT m.port 0 0 req).wr
      R.FT_ACTION1 m.move 0 0 req := by
  simp only [Dev.ftAction, hmac, h, if_true]

/-- The action of a flow entry as it is staged. -/
theorem Dev.ftAction_flow (hmac : d.ftMac req = false) {m : FlowEntry} (h : SMap.get? d.tab.flow k = some m) :
    d.ftAction req k = (((d.wr R.FT_ACTION0_FLAGS m.flags 0 0 req).wr R.FT_ACTION0_PORT m.port 0 0 req).wr
      R.FT_ACTION0_QUEUE m.queue 0 0 req).wr R.FT_ACTION1 m.cookie 0 0 req := by
  simp [Dev.ftAction, hmac, h]

/-- READ_SLOT of a flow entry stages its action, key, profile and key length. -/
theorem Dev.ftReadSlot_flow (hmac : d.ftMac req = false) (hfifo : d.tab.flowFifo = []) (hready : d.on R.FT_STATUS_FT_READY = true)
    {m : FlowEntry} (h : SMap.get? d.tab.flow (d.rd R.FT_SLOT 0 0 req) = some m) :
    d.ftReadSlot req = ((((d.ftAction req (d.rd R.FT_SLOT 0 0 req)).ftPutKey req m.key).wr R.FT_OPARG_PROFILE m.profile 0 0 req).wr
      R.FT_OPARG_KL m.kl 0 0 req).ftResult req 3 0 := by
  simp [Dev.ftReadSlot, d.ftBegin_flow hmac hfifo, hmac, hready, h]

end

/-! ## The staged key -/

/-- Writes to elements of one field change registers alone. -/
theorem Dev.foldl_wr_eq (g : Field) (v : Nat → Nat) (r : Nat) (l : List Nat) (d : Dev) :
    ∃ m, l.foldl (fun e i => e.wr g (v i) 0 i r) d = { d with regs := m } := by
  induction l generalizing d with
  | nil => exact ⟨d.regs, rfl⟩
  | cons i l ih => exact ih (d.wr g (v i) 0 i r)

/-- And no field at an address of its own. -/
theorem Dev.foldl_wr_rd (g : Field) (v : Nat → Nat) (r : Nat) (l : List Nat) (d : Dev) {f : Field} {c r' : Nat}
    (h : ∀ i ∈ l, f.addr ≠ g.addr + g.stride * i) :
    (l.foldl (fun e i => e.wr g (v i) 0 i r) d).rd f c 0 r' = d.rd f c 0 r' := by
  induction l generalizing d with
  | nil => rfl
  | cons i l ih =>
    have hne : f.key c 0 r' ≠ g.key 0 i r := Key.ne_of_addr_ne (by simpa [Field.key] using h i (by simp))
    rw [List.foldl_cons, ih _ (fun j hj => h j (by simp [hj])), Dev.rd_wr_ne _ _ _ _ _ _ _ _ _ _ hne]

/-- Staging a key changes registers alone. -/
theorem Dev.ftPutKey_eq (d : Dev) (req : Nat) (k : Bytes) : ∃ m, d.ftPutKey req k = { d with regs := m } :=
  Dev.foldl_wr_eq R.FT_KEY _ req _ d

/-- A field behind the key words keeps its value. -/
theorem Dev.ftPutKey_rd (d : Dev) (req : Nat) (k : Bytes) {f : Field} (h : 0x03300128 ≤ f.addr) (c r : Nat) :
    (d.ftPutKey req k).rd f c 0 r = d.rd f c 0 r := by
  refine Dev.foldl_wr_rd R.FT_KEY _ req _ d fun i hi => ?_
  have hi' : i < 10 := List.mem_range.mp hi
  simp only [R.FT_KEY]
  omega

/-! ## The trie (R173) -/

/-- A word reads as it was put; a zero word, which is not listed, too. -/
theorem lpmPut_get_self (m : SMap Nat) (ch idx w : Nat) : SMap.getD (lpmPut m ch idx w) (ch * 2 ^ 28 + idx) 0 = w := by
  unfold lpmPut
  split
  · next hw => rw [SMap.getD, SMap.get?_del_self, hw]; rfl
  · exact SMap.getD_put_self _ _ _ _

/-- A word of another place stays. -/
theorem lpmPut_get_ne (m : SMap Nat) (ch idx w : Nat) {k : Nat} (h : k ≠ ch * 2 ^ 28 + idx) :
    SMap.getD (lpmPut m ch idx w) k 0 = SMap.getD m k 0 := by
  unfold lpmPut
  split
  · rw [SMap.getD, SMap.get?_del_ne _ _ _ h, SMap.getD]
  · exact SMap.getD_put_ne _ _ _ _ _ h

/-- A write inside a pool replaces the word, but for channel 7, whose live slots keep theirs. -/
theorem Dev.lpmWrite_inside (d : Dev) (w : Nat) {ch idx : Nat} (hidx : idx < lpmPool ch) (hch : ch ≠ 7) :
    (d.lpmWrite ch idx w).2 = d.setTab (fun t => { t with lpm := lpmPut t.lpm ch idx w }) := by
  simp [Dev.lpmWrite, Nat.not_le.mpr hidx, hch]

/-- A write beyond the pool is refused with cause 1. -/
theorem Dev.lpmWrite_beyond (d : Dev) (w : Nat) {ch idx : Nat} (h : lpmPool ch ≤ idx) :
    (d.lpmWrite ch idx w).2 = (d.flag R.LPM_STATUS_WR_REFUSED).wr R.LPM_STATUS_CAUSE 1 := by
  simp only [Dev.lpmWrite, h, if_true]

end Sys2Proof.Machine
end

