-- ==== Sys2Proof/Proofs/TableUpdates.lean ====
section
/-!
PROOFS. The update engine's commands, seeds and readiness, clause by clause of TablesAreUpdatedAndSearched (R154-R156, R159).
-/
namespace Sys2Proof.Machine

/-! ## What the commands are -/

theorem exec_ftInsert (req : Nat) (s : State) :
    exec (.ftInsert req) s = .next (s.onDev (fun d => (d.sampleWrite req 1).ftInsert req)) := rfl

theorem exec_ftDelete (req : Nat) (s : State) :
    exec (.ftDelete req) s = .next (s.onDev (fun d => (d.sampleWrite req 2).ftDelete req)) := rfl

theorem exec_ftLookup (req : Nat) (s : State) :
    exec (.ftLookup req) s = .next (s.onDev (fun d => (d.sampleWrite req 3).ftLookup req)) := rfl

theorem exec_readSlot (req : Nat) (s : State) :
    exec (.readSlot req) s = .next (s.onDev (fun d => (d.sampleWrite req 4).ftReadSlot req)) := rfl

theorem exec_tableSeedWrite (req : Nat) (mac : Bool) (v : Nat) (s : State) : exec (.tableSeedWrite req mac v) s =
    .next (s.onDev (fun d => ((d.sampleWrite req v).wr (if mac then R.MT_SEED else R.FT_SEED) v).tableEmpty mac)) := rfl

theorem exec_tableReady (mac : Bool) (s : State) : exec (.tableReady mac) s = .next (s.onDev (fun d =>
    if d.rst.active.contains 3 then d else d.flag (if mac then R.FT_STATUS_MT_READY else R.FT_STATUS_FT_READY))) := rfl

/-! ## Operations on the MAC table -/

section
variable (req k : Nat) (s : State) (hready : s.dev.tab.macFifo = [] ∧ s.dev.ftMac req = true ∧ s.dev.ftRefused req = false)
include hready

/-- INSERT replaces the entry of a key that the table holds. -/
theorem ftInsert_replaces (h : s.dev.macFind (s.dev.ftMacKey req).1 (s.dev.ftMacKey req).2 = some k) :
    ∃ t, exec (.ftInsert req) s = .next t ∧ t.dev.rd R.FT_OP_STATUS_RESULT 0 0 req = 1 ∧
      ∃ m, SMap.get? t.dev.tab.mac k = some m ∧ m.addr = (s.dev.ftMacKey req).1 ∧ m.fid = (s.dev.ftMacKey req).2 ∧
        m.port = s.dev.rd R.FT_ACTION0_PORT 0 0 req ∧ m.move = s.dev.tk.etick % 2 ^ 56 ∧
        (∀ j, j ≠ k → SMap.get? t.dev.tab.mac j = SMap.get? s.dev.tab.mac j) ∧ t.dev.tab.flow = s.dev.tab.flow := by
  obtain ⟨hfifo, hmac, hok⟩ := hready
  refine ⟨_, exec_ftInsert req s, ?_⟩
  rw [State.onDev_dev, (s.dev.sampleWrite req 1).ftInsert_mac_replaces hmac hfifo hok h]
  exact ⟨Dev.ftResult_rd_result _ _ _ _, _, SMap.get?_put_self _ _ _, rfl, rfl, rfl, rfl, fun j hj => SMap.get?_put_ne _ _ _ _ hj, rfl⟩

/-- INSERT puts a new key into the first free way of its first bucket (R155). -/
theorem ftInsert_adds (h : s.dev.macFind (s.dev.ftMacKey req).1 (s.dev.ftMacKey req).2 = none)
    (hfree : freeWay s.dev.tab.mac (s.dev.macBuckets (s.dev.ftMacKey req).1 (s.dev.ftMacKey req).2).1 = some k) :
    ∃ t, exec (.ftInsert req) s = .next t ∧ t.dev.rd R.FT_OP_STATUS_RESULT 0 0 req = 0 ∧ t.dev.rd R.FT_OP_STATUS_MOVES 0 0 req = 0 ∧
      ∃ m, SMap.get? t.dev.tab.mac k = some m ∧ m.addr = (s.dev.ftMacKey req).1 ∧ m.fid = (s.dev.ftMacKey req).2 ∧
        m.port = s.dev.rd R.FT_ACTION0_PORT 0 0 req ∧ (∀ j, j ≠ k → SMap.get? t.dev.tab.mac j = SMap.get? s.dev.tab.mac j) := by
  obtain ⟨hfifo, hmac, hok⟩ := hready
  refine ⟨_, exec_ftInsert req s, ?_⟩
  rw [State.onDev_dev, (s.dev.sampleWrite req 1).ftInsert_mac_adds hmac hfifo hok h hfree]
  exact ⟨Dev.ftResult_rd_result _ _ _ _, Dev.ftResult_rd_moves _ _ _ _, _, SMap.get?_put_self _ _ _, rfl, rfl, rfl,
    fun j hj => SMap.get?_put_ne _ _ _ _ hj⟩

/-- DELETE empties the slot of a key that the table holds. -/
theorem ftDelete_removes (h : s.dev.macFind (s.dev.ftMacKey req).1 (s.dev.ftMacKey req).2 = some k) :
    ∃ t, exec (.ftDelete req) s = .next t ∧ t.dev.rd R.FT_OP_STATUS_RESULT 0 0 req = 2 ∧ SMap.get? t.dev.tab.mac k = none ∧
      (∀ j, j ≠ k → SMap.get? t.dev.tab.mac j = SMap.get? s.dev.tab.mac j) ∧ t.dev.tab.flow = s.dev.tab.flow := by
  obtain ⟨hfifo, hmac, hok⟩ := hready
  refine ⟨_, exec_ftDelete req s, ?_⟩
  rw [State.onDev_dev, (s.dev.sampleWrite req 2).ftDelete_mac_removes hmac hfifo hok h]
  exact ⟨Dev.ftResult_rd_result _ _ _ _, SMap.get?_del_self _ _, fun j hj => SMap.get?_del_ne _ _ _ hj, rfl⟩

/-- DELETE of a key that the table does not hold finds none. -/
theorem ftDelete_misses (h : s.dev.macFind (s.dev.ftMacKey req).1 (s.dev.ftMacKey req).2 = none) :
    ∃ t, exec (.ftDelete req) s = .next t ∧ t.dev.rd R.FT_OP_STATUS_RESULT 0 0 req = 4 ∧ t.dev.tab = s.dev.tab ∧
      OnlyRegsTick s t [R.FT_OP_STATUS_RESULT.key 0 0 req, R.FT_OP_STATUS_MOVES.key 0 0 req] := by
  obtain ⟨hfifo, hmac, hok⟩ := hready
  refine ⟨_, exec_ftDelete req s, ?_⟩
  rw [State.onDev, (s.dev.sampleWrite req 2).ftDelete_mac_misses hmac hfifo hok h]
  exact ⟨Dev.ftResult_rd_result _ _ _ _, rfl, rfl, Dev.ftResult_regs _ _ _ _⟩

/-- LOOKUP stages the slot and the port of the key's entry. -/
theorem ftLookup_stages (m : MacEntry) (h : s.dev.macFind (s.dev.ftMacKey req).1 (s.dev.ftMacKey req).2 = some k)
    (hm : SMap.get? s.dev.tab.mac k = some m) :
    ∃ t, exec (.ftLookup req) s = .next t ∧ t.dev.rd R.FT_OP_STATUS_RESULT 0 0 req = 3 ∧
      t.dev.rd R.FT_SLOT 0 0 req = k % 2 ^ R.FT_SLOT.width ∧
      t.dev.rd R.FT_ACTION0_PORT 0 0 req = m.port % 2 ^ R.FT_ACTION0_PORT.width ∧
      t = { s with dev := { s.dev with regs := t.dev.regs, tk := t.dev.tk } } := by
  obtain ⟨hfifo, hmac, hok⟩ := hready
  refine ⟨_, exec_ftLookup req s, ?_⟩
  rw [State.onDev, (s.dev.sampleWrite req 3).ftLookup_mac_hits hmac hfifo hok h, (s.dev.sampleWrite req 3).ftAction_mac hmac hm]
  refine ⟨Dev.ftResult_rd_result _ _ _ _, ?_, ?_, rfl⟩
  · rw [Dev.ftResult_rd _ _ _ _ (by decide), Dev.rd_wr]
  · rw [Dev.ftResult_rd _ _ _ _ (by decide), Dev.rd_wr_apart _ (by decide), Dev.rd_wr_apart _ (by decide), Dev.rd_wr]

end

/-- Until the table is ready an INSERT has result 6. -/
theorem ftInsert_notReady (req : Nat) (s : State)
    (h : s.dev.tab.macFifo = [] ∧ s.dev.ftMac req = true ∧ s.dev.on R.FT_STATUS_MT_READY = false) :
    ∃ t, exec (.ftInsert req) s = .next t ∧ t.dev.rd R.FT_OP_STATUS_RESULT 0 0 req = 6 ∧ t.dev.tab = s.dev.tab ∧
      OnlyRegsTick s t [R.FT_OP_STATUS_RESULT.key 0 0 req, R.FT_OP_STATUS_MOVES.key 0 0 req] := by
  obtain ⟨hfifo, hmac, hready⟩ := h
  have hbegin := (s.dev.sampleWrite req 1).ftBegin_mac hmac hfifo
  have hrefused := (s.dev.sampleWrite req 1).ftRefused_notReady hmac hready
  refine ⟨_, exec_ftInsert req s, ?_⟩
  rw [State.onDev, (s.dev.sampleWrite req 1).ftInsert_refused hbegin hrefused]
  exact ⟨Dev.ftResult_rd_result _ _ _ _, rfl, rfl, Dev.ftResult_regs _ _ _ _⟩

/-! ## READ_SLOT of the flow table -/

/-- READ_SLOT stages the flow entry at FT_SLOT. -/
theorem readSlot_stages (req : Nat) (m : FlowEntry) (s : State)
    (hready : s.dev.tab.flowFifo = [] ∧ s.dev.ftMac req = false ∧ s.dev.on R.FT_STATUS_FT_READY = true)
    (h : SMap.get? s.dev.tab.flow (s.dev.rd R.FT_SLOT 0 0 req) = some m) :
    ∃ t, exec (.readSlot req) s = .next t ∧ t.dev.rd R.FT_OP_STATUS_RESULT 0 0 req = 3 ∧
      t.dev.rd R.FT_ACTION0_PORT 0 0 req = m.port % 2 ^ R.FT_ACTION0_PORT.width ∧
      t.dev.rd R.FT_ACTION1 0 0 req = m.cookie % 2 ^ R.FT_ACTION1.width ∧
      t.dev.rd R.FT_OPARG_PROFILE 0 0 req = m.profile % 2 ^ R.FT_OPARG_PROFILE.width ∧
      t = { s with dev := { s.dev with regs := t.dev.regs, tk := t.dev.tk } } := by
  obtain ⟨hfifo, hmac, hft⟩ := hready
  have haction := (s.dev.sampleWrite req 4).ftAction_flow hmac h
  have hread := (s.dev.sampleWrite req 4).ftReadSlot_flow hmac hfifo hft h
  rw [Dev.sampleWrite_rd, haction] at hread
  refine ⟨_, exec_readSlot req s, ?_⟩
  rw [State.onDev, hread]
  refine ⟨Dev.ftResult_rd_result _ _ _ _, ?port, ?cookie, ?profile, ?frame⟩
  case port =>
    rw [Dev.ftResult_rd _ _ _ _ (by decide), Dev.rd_wr_apart _ (by decide), Dev.rd_wr_apart _ (by decide),
      Dev.ftPutKey_rd _ _ _ (by decide), Dev.rd_wr_apart _ (by decide), Dev.rd_wr_apart _ (by decide), Dev.rd_wr]
  case cookie =>
    rw [Dev.ftResult_rd _ _ _ _ (by decide), Dev.rd_wr_apart _ (by decide), Dev.rd_wr_apart _ (by decide),
      Dev.ftPutKey_rd _ _ _ (by decide), Dev.rd_wr]
  case profile =>
    rw [Dev.ftResult_rd _ _ _ _ (by decide), Dev.rd_wr_apart _ (by decide), Dev.rd_wr]
  case frame =>
    obtain ⟨r, hr⟩ := Dev.ftPutKey_eq (((((s.dev.sampleWrite req 4).wr R.FT_ACTION0_FLAGS m.flags 0 0 req).wr R.FT_ACTION0_PORT m.port 0 0 req).wr
      R.FT_ACTION0_QUEUE m.queue 0 0 req).wr R.FT_ACTION1 m.cookie 0 0 req) req m.key
    rw [hr]
    rfl

/-! ## Seeds and readiness (R159) -/

/-- A write of MT_SEED stores it, empties the MAC table and clears its READY. -/
theorem tableSeedWrite_mac (req v : Nat) (s : State) :
    ∃ t, exec (.tableSeedWrite req true v) s = .next t ∧ t.dev.tab = { s.dev.tab with mac := [], macVer := [], macFifo := [] } ∧
      t.dev.rd R.MT_SEED = v % 2 ^ R.MT_SEED.width ∧ t.dev.on R.FT_STATUS_MT_READY = false ∧ t.dev.rd R.MT_USED = 0 ∧
      OnlyRegsTick s { t with dev := { t.dev with tab := s.dev.tab } }
        [R.MT_SEED.key 0 0 0, R.FT_STATUS_MT_READY.key 0 0 0, R.MT_USED.key 0 0 0] := by
  refine ⟨_, exec_tableSeedWrite req true v s, rfl, ?seed, ?ready, ?used, rfl, ?regs⟩ <;>
    simp only [State.onDev_dev, Dev.tableEmpty, Dev.macCounts, if_true]
  case seed => rw [Dev.rd_wr_apart _ (by decide), Dev.rd_wr_apart _ (by decide), Dev.setTab_rd, Dev.rd_wr]
  case ready => exact Dev.on_wr_b2n _ R.FT_STATUS_MT_READY false 0 0 0 (by decide)
  case used =>
    rw [Dev.rd_wr_apart _ (by decide), Dev.rd_wr]
    rfl
  case regs =>
    have hwrites : RegsBut s.dev ((((s.dev.sampleWrite req v).wr R.MT_SEED v).wr R.MT_USED 0).wr R.FT_STATUS_MT_READY 0)
        [R.MT_SEED.key 0 0 0, R.FT_STATUS_MT_READY.key 0 0 0, R.MT_USED.key 0 0 0] :=
      (((RegsBut.refl s.dev _).wr (by simp) _).wr (by simp) _).wr (by simp) _
    exact hwrites

/-- A write of FT_SEED stores it, empties the flow table and clears its READY. -/
theorem tableSeedWrite_flow (req v : Nat) (s : State) :
    ∃ t, exec (.tableSeedWrite req false v) s = .next t ∧
      t.dev.tab = { s.dev.tab with flow := [], flowVer := [], cache := [], flowFifo := [] } ∧
      t.dev.rd R.FT_SEED = v % 2 ^ R.FT_SEED.width ∧ t.dev.on R.FT_STATUS_FT_READY = false ∧ t.dev.rd R.FT_USED = 0 := by
  refine ⟨_, exec_tableSeedWrite req false v s, rfl, ?seed, ?ready, ?used⟩ <;>
    simp only [State.onDev_dev, Dev.tableEmpty, Dev.flowCounts, Bool.false_eq_true, if_false]
  case seed =>
    rw [Dev.rd_wr_apart _ (by decide), Dev.rd_wr_apart _ (by decide), Dev.rd_wr_apart _ (by decide), Dev.setTab_rd, Dev.rd_wr]
  case ready => exact Dev.on_wr_b2n _ R.FT_STATUS_FT_READY false 0 0 0 (by decide)
  case used =>
    rw [Dev.rd_wr_apart _ (by decide), Dev.rd_wr_apart _ (by decide), Dev.rd_wr]
    rfl

/-- TABLE_READY sets the READY of its table out of reset. -/
theorem tableReady_sets (mac : Bool) (s : State) (h : 3 ∉ s.dev.rst.active) :
    ∃ t, exec (.tableReady mac) s = .next t ∧
      (t.dev.on (if mac then R.FT_STATUS_MT_READY else R.FT_STATUS_FT_READY) = true) ∧
      (OnlyRegs s t [(if mac then R.FT_STATUS_MT_READY else R.FT_STATUS_FT_READY).key 0 0 0]) := by
  refine ⟨_, exec_tableReady mac s, ?_⟩
  rw [State.onDev, if_neg (by simpa using h)]
  refine ⟨Dev.on_flag _ _ _ _ _ ?_, rfl, (RegsBut.refl _ _).flag (by simp)⟩
  cases mac <;> decide

/-- Settles O32: each command acts by one rule of the update engine, in the state that its clause gives. -/
theorem tablesAreUpdatedAndSearched : Obligations.TablesAreUpdatedAndSearched := by
  unfold Obligations.TablesAreUpdatedAndSearched
  exact ⟨ftInsert_replaces, ftInsert_adds, ftDelete_removes, ftDelete_misses, fun req k m s hready => ftLookup_stages req k s hready m,
    readSlot_stages, ftInsert_notReady, tableSeedWrite_mac, tableSeedWrite_flow, tableReady_sets⟩

end Sys2Proof.Machine
end

