-- ==== Sys2Proof/Proofs/HostNotices.lean ====
section
/-!
PROOFS. What a notification of a learning or ageing outcome leaves (R165): it reaches the event queues and HOST's own state alone.
-/
namespace Sys2Proof.Machine

/-- From one device to another only HOST's own state and registers of the event queues and behind them (Table 9.12) may differ. -/
structure OnlyHost (d e : Dev) : Prop where
  eq : e = { d with regs := e.regs, host := e.host }
  regs : ∀ k : Key, k.addr < 0x05301000 → RegFile.get? e.regs k = RegFile.get? d.regs k

namespace OnlyHost

section
variable {d e : Dev}

theorem refl (d : Dev) : OnlyHost d d := ⟨rfl, fun _ _ => rfl⟩

theorem trans {e' : Dev} (h : OnlyHost d e) (h' : OnlyHost e e') : OnlyHost d e' where
  eq := by rw [h'.eq, h.eq]
  regs k hk := (h'.regs k hk).trans (h.regs k hk)

/-- A write to a register of the event queues. -/
theorem wr (h : OnlyHost d e) (f : Field) (hf : 0x05301000 ≤ f.addr) (v c i r : Nat) : OnlyHost d (e.wr f v c i r) :=
  h.trans ⟨rfl, fun k hk =>
    have hne : k.addr ≠ (f.key c i r).addr := by simp only [Field.key]; omega
    Dev.get?_wr_ne e f v c i r k (Key.ne_of_addr_ne hne)⟩

theorem setHost (h : OnlyHost d e) (f : HostState → HostState) : OnlyHost d (e.setHost f) := h.trans ⟨rfl, fun _ _ => rfl⟩

theorem tab (h : OnlyHost d e) : e.tab = d.tab := by rw [h.eq]

/-- A field before the event queues reads as before. -/
theorem rd (h : OnlyHost d e) {f : Field} (hf : f.addr < 0x05301000) (c r : Nat) : e.rd f c 0 r = d.rd f c 0 r :=
  Dev.rd_congr f c 0 r (h.regs _ (by simpa [Field.key] using hf))

end

section
variable (d : Dev)

theorem hostWrite (n addr : Nat) (b : Bytes) : OnlyHost d (d.hostWrite n addr b) := by
  unfold Dev.hostWrite
  split
  · exact refl d
  · exact (refl d).setHost _

/-- A signalled vector is sent, pends or is lost (R207). -/
theorem msix (n v : Nat) : OnlyHost d (d.msix n v) := by
  unfold Dev.msix
  split
  · exact refl d
  · split
    · exact (refl d).setHost _
    · exact hostWrite d _ _ _

theorem eqSignal (q owner : Nat) : OnlyHost d (d.eqSignal q owner) := by
  unfold Dev.eqSignal
  split
  · exact refl d
  · dsimp only
    split
    · exact (refl d).setHost _
    · split
      · exact msix d _ _
      · exact (msix d _ _).setHost _

/-- A notification never reaches HOST, is discarded, finds the queue full, or is written as two posted writes (R236, R238, R242). -/
theorem eqPost (q kind : Nat) (b : Bytes) : OnlyHost d (d.eqPost q kind b).2 := by
  unfold Dev.eqPost
  split
  · exact refl d
  · split
    · exact (refl d).wr R.EQ_DISCARD (by decide) _ _ _ _
    · split
      · exact ((refl d).wr R.EQ_OVF (by decide) _ _ _ _).wr R.EQ_STATUS_OVF_PENDING (by decide) _ _ _ _
      · exact ((((hostWrite d _ _ _).trans (hostWrite _ _ _ _)).wr R.EQ_PI (by decide) _ _ _ _).wr R.EQ_STATUS_FULL
          (by decide) _ _ _ _).trans (eqSignal _ _ _)

end

end OnlyHost

/-- A notified outcome leaves the tables. -/
theorem Dev.learnExport_tab (d : Dev) (on : Bool) (b : Bytes) : (d.learnExport on b).tab = d.tab := by
  unfold Dev.learnExport
  split
  · rfl
  · dsimp only
    split
    · exact (OnlyHost.eqPost _ _ _ _).tab
    · exact (OnlyHost.eqPost _ _ _ _).tab

/-- And every field before the event queues but the count of lost notifications. -/
theorem Dev.learnExport_rd (d : Dev) (on : Bool) (b : Bytes) {f : Field} (hf : f.addr < 0x05301000)
    (hlost : f.apart R.LN_EXPORT_LOST = true) (c r : Nat) : (d.learnExport on b).rd f c 0 r = d.rd f c 0 r := by
  unfold Dev.learnExport
  split
  · rfl
  · dsimp only
    split
    · rw [Dev.count, Dev.rd_wr_apart _ hlost, (OnlyHost.eqPost _ _ _ _).rd hf, Dev.raise_rd]
    · rw [(OnlyHost.eqPost _ _ _ _).rd hf, Dev.raise_rd]

end Sys2Proof.Machine
end

