-- ==== Sys2Proof/Proofs/LearningAndAgeing.lean ====
section
/-!
PROOFS. Learns, visits of the burnisher and writes of the trie, clause by clause of LearningAgeingAndPrefixes (R156, R161-R164, R167, R168,
R173, R174).
-/
namespace Sys2Proof.Machine

/-! ## What the commands are -/

theorem exec_burnisherVisit (mac : Bool) (k : Nat) (s : State) : exec (.burnisherVisit mac k) s =
    .next (s.onDev (fun d => if !d.burnDue mac k then d else if mac then d.burnMac k else d.burnFlow k)) := rfl

theorem exec_lpmFence (req : Nat) (s : State) :
    exec (.lpmFence req) s = .next (s.onDev (fun d => (d.sampleWrite req 1).wr R.LPM_STATUS_FENCE_DONE 1 0 0 req)) := rfl

section
variable (s : State)

/-- The first MAC learn of a tick that has ended leaves the FIFO and is applied (R156). -/
theorem exec_macLearnApply_due {x : LearnReq (Nat × Nat)} (hx : learnFirst s.dev.tab.macFifo = some x) (htick : x.tick < s.dev.tk.etick)
    (hready : s.dev.on R.FT_STATUS_MT_READY = true) :
    exec .macLearnApply s = .next (s.onDev (fun d => (d.macPop x).macApply x)) := by
  simp only [exec, execMacLearnApply, State.onDev, hx, htick, hready, and_self, if_true]

/-- One of the present tick waits. -/
theorem exec_macLearnApply_waits {x : LearnReq (Nat × Nat)} (hx : learnFirst s.dev.tab.macFifo = some x) (htick : s.dev.tk.etick ≤ x.tick) :
    exec .macLearnApply s = .next s := by
  simp only [exec, execMacLearnApply, State.onDev, hx, Nat.not_lt.mpr htick, false_and, if_false]

/-- The first flow learn of a tick that has ended leaves the FIFO and is applied (R164). -/
theorem exec_flowLearnApply_due {x : LearnReq (Nat × Nat × Bytes)} (hx : learnFirst s.dev.tab.flowFifo = some x)
    (htick : x.tick < s.dev.tk.etick) (hready : s.dev.on R.FT_STATUS_FT_READY = true) :
    exec .flowLearnApply s = .next (s.onDev (fun d => (d.flowPop x).flowApply x)) := by
  simp only [exec, execFlowLearnApply, State.onDev, hx, htick, hready, and_self, if_true]

/-- A due visit of the burnisher. -/
theorem exec_burnisherVisit_due {mac : Bool} {k : Nat} (h : s.dev.burnDue mac k = true) :
    exec (.burnisherVisit mac k) s = .next (s.onDev (fun d => if mac then d.burnMac k else d.burnFlow k)) := by
  rw [exec_burnisherVisit, State.onDev, h]
  rfl

/-- A write of LPM_DATA_HI to a channel of the trie is one write of the staged word (R173). -/
theorem exec_lpmWrite {req hi ch : Nat} (hch : ch = s.dev.rd (chselField 0x03400000) 0 0 req ∧ ch < 9) :
    exec (.lpmWrite req hi) s = .next (s.onDev (fun d => ((d.sampleWrite req hi).lpmWrite ch (d.rd R.LPM_IDX ch 0 req)
      ((hi % 2 ^ 32) <<< 32 + d.rd R.LPM_DATA_LO ch 0 req)).2)) := by
  obtain ⟨rfl, hlt⟩ := hch
  simp only [exec, execLpmWrite, State.onDev, hlt, if_true]

end

/-! ## Learning (R161, R162, R164) -/

/-- Counting a learn changes no search of the MAC table. -/
theorem Dev.count_applied_macFind (d : Dev) (a fid : Nat) : (d.count R.LN_APPLIED).macFind a fid = d.macFind a fid := by
  have hready : (d.count R.LN_APPLIED).on R.FT_STATUS_MT_READY = d.on R.FT_STATUS_MT_READY := Dev.on_wr_apart _ (by decide) _ _ _ _ _
  have hseed : (d.count R.LN_APPLIED).rd R.MT_SEED = d.rd R.MT_SEED := Dev.rd_wr_apart _ (by decide) _ _ _ _ _
  simp only [Dev.macFind, Dev.macBuckets, hready, hseed, Dev.count_tab]

/-- Nor of the flow table. -/
theorem Dev.count_applied_flowFind (d : Dev) (p kl : Nat) (key : Bytes) : (d.count R.LN_APPLIED).flowFind p kl key = d.flowFind p kl key := by
  have hseed : (d.count R.LN_APPLIED).rd R.FT_SEED = d.rd R.FT_SEED := Dev.rd_wr_apart _ (by decide) _ _ _ _ _
  simp only [Dev.flowFind, Dev.flowBuckets, hseed, Dev.count_tab]

theorem Dev.count_applied_regs (d : Dev) : RegsBut d (d.count R.LN_APPLIED) [R.LN_APPLIED.key 0 0 0] := (RegsBut.refl d _).wr (by simp) _

/-- A learn of an address that is known on the same port marks its entry hit (Table 6.4). -/
theorem Dev.macApply_samePort (d : Dev) (x : LearnReq (Nat × Nat)) {k : Nat} {m : MacEntry} (hk : d.macFind x.key.1 x.key.2 = some k)
    (hm : SMap.get? d.tab.mac k = some m) (hport : m.port = x.port) :
    d.macApply x = (d.count R.LN_APPLIED).setTab (fun t => { t with mac := SMap.put t.mac k { m with hit := true } }) := by
  simp only [Dev.macApply, Dev.count_applied_macFind, hk, Dev.count_tab, hm, if_pos hport]
  exact Dev.macUpd_of_get? (d.count R.LN_APPLIED) _ hm

/-- A learn of a flow that is known marks its entry hit (R164). -/
theorem Dev.flowApply_known (d : Dev) (x : LearnReq (Nat × Nat × Bytes)) {k : Nat} {m : FlowEntry}
    (hk : d.flowFind x.key.1 x.key.2.1 x.key.2.2 = some k) (hm : SMap.get? d.tab.flow k = some m) :
    d.flowApply x = (d.count R.LN_APPLIED).setTab (fun t => { t with flow := SMap.put t.flow k m.touch }) := by
  simp only [Dev.flowApply, Dev.count_applied_flowFind, hk, Dev.count_tab, hm]

/-- A due MAC learn on the same port marks its entry hit, leaves the FIFO and counts. -/
theorem macLearnApply_hits (x : LearnReq (Nat × Nat)) (k : Nat) (m : MacEntry) (s : State) (hx : learnFirst s.dev.tab.macFifo = some x)
    (hdue : x.tick < s.dev.tk.etick ∧ s.dev.on R.FT_STATUS_MT_READY = true) (hk : s.dev.macFind x.key.1 x.key.2 = some k)
    (hm : SMap.get? s.dev.tab.mac k = some m) (hport : m.port = x.port) :
    ∃ t, exec (.macLearnApply) s = .next t ∧ SMap.get? t.dev.tab.mac k = some { m with hit := true } ∧
      t.dev.tab.macFifo = s.dev.tab.macFifo.erase x ∧
      t.dev.rd R.LN_APPLIED = (s.dev.rd R.LN_APPLIED + 1) % 2 ^ R.LN_APPLIED.width ∧ RegsBut s.dev t.dev [R.LN_APPLIED.key 0 0 0] ∧
      (∀ j, j ≠ k → SMap.get? t.dev.tab.mac j = SMap.get? s.dev.tab.mac j) := by
  obtain ⟨htick, hready⟩ := hdue
  refine ⟨_, exec_macLearnApply_due s hx htick hready, ?_⟩
  rw [State.onDev_dev, (s.dev.macPop x).macApply_samePort x hk hm hport]
  exact ⟨SMap.get?_put_self _ _ _, rfl, Dev.rd_count _ _ _ _ _, (s.dev.macPop x).count_applied_regs, fun j hj => SMap.get?_put_ne _ _ _ _ hj⟩

/-- A due learn of a known flow marks its entry hit, leaves the FIFO and counts. -/
theorem flowLearnApply_hits (x : LearnReq (Nat × Nat × Bytes)) (k : Nat) (m : FlowEntry) (s : State)
    (hx : learnFirst s.dev.tab.flowFifo = some x) (hdue : x.tick < s.dev.tk.etick ∧ s.dev.on R.FT_STATUS_FT_READY = true)
    (hk : s.dev.flowFind x.key.1 x.key.2.1 x.key.2.2 = some k) (hm : SMap.get? s.dev.tab.flow k = some m) :
    ∃ t, exec (.flowLearnApply) s = .next t ∧ SMap.get? t.dev.tab.flow k = some m.touch ∧
      t.dev.tab.flowFifo = s.dev.tab.flowFifo.erase x ∧
      t.dev.rd R.LN_APPLIED = (s.dev.rd R.LN_APPLIED + 1) % 2 ^ R.LN_APPLIED.width ∧ RegsBut s.dev t.dev [R.LN_APPLIED.key 0 0 0] := by
  obtain ⟨htick, hready⟩ := hdue
  refine ⟨_, exec_flowLearnApply_due s hx htick hready, ?_⟩
  rw [State.onDev_dev, (s.dev.flowPop x).flowApply_known x hk hm]
  exact ⟨SMap.get?_put_self _ _ _, rfl, Dev.rd_count _ _ _ _ _, (s.dev.flowPop x).count_applied_regs⟩

/-! ## Ageing (R167, R168) -/

/-- A visit takes the hit mark of a MAC entry that is not static. -/
theorem Dev.burnMac_unmarks (d : Dev) {k : Nat} {m : MacEntry} (hm : SMap.get? d.tab.mac k = some m) (h : m.stat = false ∧ m.hit = true) :
    d.burnMac k = d.setTab (fun t => { t with mac := SMap.put t.mac k { m with hit := false } }) := by
  obtain ⟨hstat, hhit⟩ := h
  simp [Dev.burnMac, hm, hstat, hhit, Dev.macUpd_of_get? d _ hm]

/-- One without the mark leaves the table, is counted aged and notified. -/
theorem Dev.burnMac_ages (d : Dev) {k : Nat} {m : MacEntry} (hm : SMap.get? d.tab.mac k = some m) (h : m.stat = false ∧ m.hit = false) :
    d.burnMac k = ((d.macRemove k).count R.AGED_MT).macExport 4 m.port 0 m.addr m.fid := by
  obtain ⟨hstat, hhit⟩ := h
  simp [Dev.burnMac, hm, hstat, hhit]

/-- So does a flow entry that is neither static nor hit. -/
theorem Dev.burnFlow_ages (d : Dev) {k : Nat} {m : FlowEntry} (hm : SMap.get? d.tab.flow k = some m)
    (h : bit m.flags fStatic = false ∧ bit m.flags fHit = false) :
    d.burnFlow k = ((d.flowRemove k).count R.AGED_FT).flowExport 6 k m.profile m.kl := by
  obtain ⟨hstat, hhit⟩ := h
  simp [Dev.burnFlow, hm, hstat, hhit]

section
variable (k : Nat)

/-- A due visit of a hit MAC entry that is not static takes its mark and nothing else. -/
theorem burnisherVisit_unmarks (m : MacEntry) (s : State) (hdue : s.dev.burnDue true k = true) (hm : SMap.get? s.dev.tab.mac k = some m)
    (h : m.stat = false ∧ m.hit = true) :
    ∃ t, exec (.burnisherVisit true k) s = .next t ∧ SMap.get? t.dev.tab.mac k = some { m with hit := false } ∧
      t = { s with dev := { s.dev with tab := { s.dev.tab with mac := t.dev.tab.mac } } } := by
  refine ⟨_, exec_burnisherVisit_due s hdue, ?_⟩
  rw [State.onDev, if_pos rfl, s.dev.burnMac_unmarks hm h]
  exact ⟨SMap.get?_put_self _ _ _, rfl⟩

/-- A due visit removes a MAC entry that is neither static nor hit and counts it. -/
theorem burnisherVisit_ages_mac (m : MacEntry) (s : State) (hdue : s.dev.burnDue true k = true) (hm : SMap.get? s.dev.tab.mac k = some m)
    (h : m.stat = false ∧ m.hit = false) :
    ∃ t, exec (.burnisherVisit true k) s = .next t ∧ SMap.get? t.dev.tab.mac k = none ∧
      t.dev.rd R.AGED_MT = (s.dev.rd R.AGED_MT + 1) % 2 ^ R.AGED_MT.width := by
  refine ⟨_, exec_burnisherVisit_due s hdue, ?_⟩
  rw [State.onDev_dev, if_pos rfl, s.dev.burnMac_ages hm h, Dev.macExport, Dev.learnExport_tab, Dev.learnExport_rd _ _ _ (by decide) (by decide),
    Dev.rd_count, Dev.macRemove, Dev.macCounts, Dev.rd_wr_apart _ (by decide), Dev.setTab_rd]
  exact ⟨SMap.get?_del_self _ _, rfl⟩

/-- A due visit removes a flow entry that is neither static nor hit and counts it. -/
theorem burnisherVisit_ages_flow (m : FlowEntry) (s : State) (hdue : s.dev.burnDue false k = true)
    (hm : SMap.get? s.dev.tab.flow k = some m) (h : bit m.flags fStatic = false ∧ bit m.flags fHit = false) :
    ∃ t, exec (.burnisherVisit false k) s = .next t ∧ SMap.get? t.dev.tab.flow k = none ∧
      t.dev.rd R.AGED_FT = (s.dev.rd R.AGED_FT + 1) % 2 ^ R.AGED_FT.width := by
  refine ⟨_, exec_burnisherVisit_due s hdue, ?_⟩
  rw [State.onDev_dev, if_neg Bool.false_ne_true, s.dev.burnFlow_ages hm h, Dev.flowExport, Dev.learnExport_tab,
    Dev.learnExport_rd _ _ _ (by decide) (by decide), Dev.rd_count, Dev.flowRemove, Dev.flowCounts, Dev.rd_wr_apart _ (by decide),
    Dev.rd_wr_apart _ (by decide), Dev.setTab_rd]
  exact ⟨SMap.get?_del_self _ _, rfl⟩

/-- A visit before its time changes nothing. -/
theorem burnisherVisit_notDue (mac : Bool) (s : State) (h : s.dev.burnDue mac k = false) :
    ∃ t, exec (.burnisherVisit mac k) s = .next t ∧ t = s := by
  refine ⟨_, exec_burnisherVisit mac k s, ?_⟩
  rw [State.onDev, h]
  rfl

end

/-! ## The trie (R173, R174) -/

/-- A write through LPM_DATA_HI replaces the word at the requester's index of its channel and no other. -/
theorem lpmWrite_replaces (req hi ch idx : Nat) (s : State) (hch : ch = s.dev.rd (chselField 0x03400000) 0 0 req ∧ ch < 9)
    (hidx : idx = s.dev.rd R.LPM_IDX ch 0 req ∧ idx < lpmPool ch) (hset : ch ≠ 7) :
    ∃ t, exec (.lpmWrite req hi) s = .next t ∧
      t.dev.lpmWord ch idx = (hi % 2 ^ 32) <<< 32 + s.dev.rd R.LPM_DATA_LO ch 0 req ∧
      (∀ c j, c < 16 → j < 2 ^ 28 → ¬ (c = ch ∧ j = idx) → idx < 2 ^ 28 → t.dev.lpmWord c j = s.dev.lpmWord c j) ∧
      OnlyRegsTick s { t with dev := { t.dev with tab := s.dev.tab } } [] := by
  obtain ⟨hidx, hpool⟩ := hidx
  refine ⟨_, exec_lpmWrite s hch, ?_⟩
  rw [State.onDev, ← hidx, (s.dev.sampleWrite req hi).lpmWrite_inside _ hpool hset]
  refine ⟨lpmPut_get_self _ _ _ _, fun c j _ hj hne hlt => lpmPut_get_ne _ _ _ _ fun hplace => hne ?_, rfl, fun _ _ => rfl⟩
  constructor <;> omega

/-- A write beyond the channel's pool is refused with cause 1. -/
theorem lpmWrite_refused (req hi ch : Nat) (s : State) (hch : ch = s.dev.rd (chselField 0x03400000) 0 0 req ∧ ch < 9)
    (h : lpmPool ch ≤ s.dev.rd R.LPM_IDX ch 0 req) :
    ∃ t, exec (.lpmWrite req hi) s = .next t ∧ t.dev.on R.LPM_STATUS_WR_REFUSED = true ∧ t.dev.rd R.LPM_STATUS_CAUSE = 1 ∧
      OnlyRegsTick s t [R.LPM_STATUS_WR_REFUSED.key 0 0 0, R.LPM_STATUS_CAUSE.key 0 0 0] := by
  refine ⟨_, exec_lpmWrite s hch, ?_⟩
  rw [State.onDev, (s.dev.sampleWrite req hi).lpmWrite_beyond _ h]
  refine ⟨?refused, Dev.rd_wr _ _ _ _ _ _, rfl, ((RegsBut.refl s.dev _).flag (by simp)).wr (by simp) _⟩
  rw [Dev.on_wr_apart _ (by decide)]
  exact Dev.on_flag _ _ _ _ _ (by decide)

/-- A fence is done at once, for no lookup is under way between commands (log entry 6). -/
theorem lpmFence_done (req : Nat) (s : State) :
    ∃ t, exec (.lpmFence req) s = .next t ∧ t.dev.on R.LPM_STATUS_FENCE_DONE 0 0 req = true ∧
      OnlyRegsTick s t [R.LPM_STATUS_FENCE_DONE.key 0 0 req] :=
  ⟨_, exec_lpmFence req s, Dev.on_flag _ _ _ _ _ (by decide), rfl, (RegsBut.refl s.dev _).flag (by simp)⟩

/-- Settles O33: learns are applied by Table 6.4 or R164, visits by the rule of the entry they find, and what an aged entry's notification leaves
follows from the frame of a posted notification; the trie changes at one place. -/
theorem learningAgeingAndPrefixes : Obligations.LearningAgeingAndPrefixes := by
  unfold Obligations.LearningAgeingAndPrefixes
  exact ⟨macLearnApply_hits, fun x s hx htick => ⟨s, exec_macLearnApply_waits s hx htick, rfl⟩, flowLearnApply_hits, burnisherVisit_unmarks,
    burnisherVisit_ages_mac, burnisherVisit_ages_flow, fun mac k s h => burnisherVisit_notDue k mac s h, lpmWrite_replaces, lpmWrite_refused,
    lpmFence_done⟩

end Sys2Proof.Machine
end

