-- ==== Sys2Proof/Proofs/LaunchFrames.lean ====
section
/-!
PROOFS. Launch frames at the wrap of the time base (R67, R192). In the tick in which the counter wraps, an instant soon after the wrap is a smaller
number than the counter at the tick's start and may be a larger one than at its end: a launch frame for it is past its point and not yet due.
-/
namespace Sys2Proof.Machine

/-- A launch frame whose grid point the tick's end does not pass waits (R192). -/
theorem exec_launchDue_notDue {p : Nat} {f : Frame} (s : State) (hf : s.dev.launchHead p = some f)
    (hdue : s.dev.nowAt 8 * 1000 ≤ s.dev.gridUp p (f.launch.getD 0) * 65536) (off tEmit e v : Nat) (moved : Bool) :
    exec (.launchDue p off tEmit e v moved) s = .next s := by
  simp only [exec, execLaunchDue, State.onDev, hf, hdue, if_true]

/-- A launch frame for about 15 ns after the counter's zero. -/
def wrapFrame : Frame := { id := 7, src := 16, bytes := [1#8], launch := some (10 ^ 6) }

/-- Port 2 is UP and discards late launch frames; the last SET that acted has put the counter to its last nanosecond, and the launch frame has arrived. -/
def State.resetAtWrap : State := State.reset.onDev (fun d =>
  ((((d.wr R.LG_MODE 5).wr R.PT_STATUS_LSTATE 4 2).flag R.RN_CTRL_RL_LATE_ACTION 2).boundaryAct
    ⟨9, 0, .timeSet (2 ^ 48 - 1) ((10 ^ 9 - 1) * nsUnit) false⟩).launchArrive 2 wrapFrame)

/-- The arrived frame heads its port's launch list (R191). -/
theorem resetAtWrap_launchHead : State.resetAtWrap.dev.launchHead 2 = some wrapFrame := by decide +kernel

/-- The frame's grid point is a smaller number than the counter. -/
theorem resetAtWrap_pastGrid :
    State.resetAtWrap.dev.gridUp 2 (wrapFrame.launch.getD 0) * 65536 < State.resetAtWrap.dev.now * 1000 := by decide +kernel

/-- At the tick's end it has wrapped (R67) and has not reached the grid point. -/
theorem resetAtWrap_notDue :
    State.resetAtWrap.dev.nowAt 8 * 1000 ≤ State.resetAtWrap.dev.gridUp 2 (wrapFrame.launch.getD 0) * 65536 := by decide +kernel

/-- Refutes O31: its second clause says that a launch frame whose grid point the counter has passed is discarded and counted. In a tick that
begins 1 ns before the counter wraps, the frame for 15 ns after the wrap meets that clause's hypotheses, and yet it is not due: LAUNCH_DUE leaves the
state, as the third clause says, and RL_DISCARD stays 0. -/
theorem not_framesStartOnFreeLines : ¬ Obligations.FramesStartOnFreeLines := by
  intro ⟨_, late_discarded, _⟩
  obtain ⟨t, ht, _, _, hcount, _⟩ := late_discarded 2 0 0 0 0 wrapFrame State.resetAtWrap resetAtWrap_launchHead resetAtWrap_pastGrid
    (by decide +kernel)
  rw [exec_launchDue_notDue State.resetAtWrap resetAtWrap_launchHead resetAtWrap_notDue] at ht
  injection ht with ht
  rw [← ht] at hcount
  have hbefore : State.resetAtWrap.dev.rd R.RL_DISCARD 2 = 0 := by decide +kernel
  rw [hbefore] at hcount
  exact absurd hcount (by decide)

end Sys2Proof.Machine
end

