-- ==== Sys2Proof/Proofs/FunctionWork.lean ====
section
/-!
PROOFS. What the end of a function's work leaves (R213, R214): rings, event queues, queue pairs and NVMe commands stop without a trace in the
registers that say what the functions and the links are, and no ring is enabled by it.
-/
namespace Sys2Proof.Machine

/-! ## Steps for the elements of a list -/

/-- A property that each element's step keeps holds at the end. -/
theorem Dev.each_keeps {α : Type} {Q : Dev → Prop} {f : Dev → α → Dev} {l : List α} {d : Dev} (hQ : ∀ e, ∀ y ∈ l, Q e → Q (f e y))
    (hd : Q d) : Q (d.each l f) := by
  induction l generalizing d with
  | nil => exact hd
  | cons y l ih =>
    exact ih (fun e z hz => hQ e z (List.mem_cons_of_mem y hz)) (hQ d y List.mem_cons_self hd)

/-- What the step of one element brings about, given a property that the steps of the others keep, holds at the end when every step keeps it. -/
theorem Dev.each_reaches {α : Type} [DecidableEq α] {P Q : Dev → Prop} {f : Dev → α → Dev} {l : List α} {x : α} {d : Dev} (hx : x ∈ l)
    (hP : ∀ e y, y ≠ x → P e → P (f e y)) (hPQ : ∀ e, P e → Q (f e x)) (hQ : ∀ e y, Q e → Q (f e y)) (hd : P d) :
    Q (d.each l f) := by
  induction l generalizing d with
  | nil => exact absurd hx List.not_mem_nil
  | cons y l ih =>
    by_cases hy : y = x
    · subst hy
      exact Dev.each_keeps (d := f d y) (fun e z _ => hQ e z) (hPQ d hd)
    · exact ih ((List.mem_cons.mp hx).resolve_left (Ne.symm hy)) (hP d y hy hd)

/-! ## The frame of stopped work -/

/-- A device address outside the registers that follow the work of functions: Rein's, the discard counts of Table 8.9 (R217), and those of
rings, event queues, queue pairs and controllers. -/
def outsideWork (a : Nat) : Bool :=
  decide (a < 0x04000000) || decide (0x05000000 ≤ a) && decide (a < 0x05101028) || decide (0x05101040 ≤ a) && decide (a < 0x05200000)

/-- A field that the end of work may write with any value. -/
def workField (f : Field) : Bool := !outsideWork f.addr && f.addr != R.RG_CTRL_ENABLE.addr

/-- From one device to another the registers outside the work of functions, HOST's own record of the functions and the list of those out of
service stay, and a ring that is not enabled stays so. -/
structure StopLeaves (d e : Dev) : Prop where
  regs : ∀ k : Key, outsideWork k.addr = true → RegFile.get? e.regs k = RegFile.get? d.regs k
  off : ∀ r, d.on R.RG_CTRL_ENABLE r = false → e.on R.RG_CTRL_ENABLE r = false
  fns : e.host.fns = d.host.fns
  vfs : e.host.vfs = d.host.vfs
  out : e.fnOut = d.fnOut

namespace StopLeaves

section
variable {d e : Dev}

theorem refl (d : Dev) : StopLeaves d d := ⟨fun _ _ => rfl, fun _ h => h, rfl, rfl, rfl⟩

theorem trans {e' : Dev} (h : StopLeaves d e) (h' : StopLeaves e e') : StopLeaves d e' where
  regs k hk := (h'.regs k hk).trans (h.regs k hk)
  off r hr := h'.off r (h.off r hr)
  fns := h'.fns.trans h.fns
  vfs := h'.vfs.trans h.vfs
  out := h'.out.trans h.out

/-- A field outside the work reads as before. -/
theorem rd (h : StopLeaves d e) {f : Field} (hf : outsideWork f.addr = true) (c r : Nat) : e.rd f c 0 r = d.rd f c 0 r :=
  Dev.rd_congr f c 0 r (h.regs _ (by simpa [Field.key] using hf))

theorem wr (h : StopLeaves d e) (f : Field) (hf : workField f = true) (v c r : Nat) : StopLeaves d (e.wr f v c 0 r) := by
  obtain ⟨hwork, henable⟩ : outsideWork f.addr = false ∧ f.addr ≠ R.RG_CTRL_ENABLE.addr := by simpa [workField] using hf
  have hkey : (f.key c 0 r).addr = f.addr := by simp [Field.key]
  refine h.trans ⟨fun k hk => Dev.get?_wr_ne e f v c 0 r k ?_, fun n hn => ?_, rfl, rfl, rfl⟩
  · rintro rfl
    rw [hkey, hwork] at hk
    exact Bool.false_ne_true hk
  · rw [Dev.on_wr_apart _ (by simpa [Field.apart] using Or.inl (Ne.symm henable)), hn]

theorem count (h : StopLeaves d e) (f : Field) (hf : workField f = true) (n c : Nat) : StopLeaves d (e.count f n c) := h.wr f hf _ c 0

/-- A ring is taken off. -/
theorem ringOff (h : StopLeaves d e) (r : Nat) : StopLeaves d (e.wr R.RG_CTRL_ENABLE 0 r) := by
  refine h.trans ⟨fun k hk => Dev.get?_wr_ne e _ _ _ _ _ k ?_, fun n hn => ?_, rfl, rfl, rfl⟩
  · rintro rfl
    exact Bool.false_ne_true hk
  · by_cases hnr : n = r
    · rw [hnr, Dev.on, Dev.rd_wr]
      rfl
    · have hkey : R.RG_CTRL_ENABLE.key n 0 0 ≠ R.RG_CTRL_ENABLE.key r 0 0 := fun hk => hnr (congrArg Key.chan hk)
      rw [Dev.on, Dev.rd_wr_ne _ _ _ _ _ _ _ _ _ _ hkey]
      exact hn

theorem raise (h : StopLeaves d e) (cls src info : Nat) : StopLeaves d (e.raise cls src info) := { h with }

theorem setRein (h : StopLeaves d e) (f : ReinState → ReinState) : StopLeaves d (e.setRein f) := { h with }

theorem setIra (h : StopLeaves d e) (f : IraState → IraState) : StopLeaves d (e.setIra f) := { h with }

theorem setNv (h : StopLeaves d e) (f : NvState → NvState) : StopLeaves d (e.setNv f) := { h with }

/-- A change of HOST beside its record of the functions. -/
theorem setHost (h : StopLeaves d e) (f : HostState → HostState) (hfns : (f e.host).fns = e.host.fns) (hvfs : (f e.host).vfs = e.host.vfs) :
    StopLeaves d (e.setHost f) :=
  { h with fns := hfns.trans h.fns, vfs := hvfs.trans h.vfs }

/-- Steps that each stop work, one for each element of a list. -/
theorem each {α : Type} (h : StopLeaves d e) {f : Dev → α → Dev} (hf : ∀ e x, StopLeaves e (f e x)) (l : List α) :
    StopLeaves d (e.each l f) :=
  Dev.each_keeps (fun e x _ he => he.trans (hf e x)) h

end

section
variable (d : Dev)

/-! ## Frames of discarded jobs, and the counts of R217 -/

theorem bufUse (used : Nat) : StopLeaves d (d.bufUse used) := ((refl d).setRein _).wr R.RN_BUF_USED (by decide) _ _ _

theorem tcEmpty (p tc : Nat) : StopLeaves d (d.tcEmpty p tc) := by
  unfold Dev.tcEmpty Dev.when
  split
  · exact (refl d).setRein _
  · exact refl d

theorem dropFrames (ids : List Nat) : StopLeaves d (d.dropFrames ids) := by
  unfold Dev.dropFrames
  refine StopLeaves.each (StopLeaves.each (StopLeaves.each (refl d) (fun e q => ?_) _) (fun e p => ?_) _) (fun e q => ?_) _
  · exact (((refl e).setRein _).wr R.QS_DEPTH (by decide) _ _ _).trans (bufUse _ _)
  · exact (refl e).each (fun x tc => tcEmpty x p tc) _
  · exact ((refl e).setRein _).trans (bufUse _ _)

theorem disc (f : Field) (hf : workField f = true) (n fn : Nat) : StopLeaves d (d.disc f n fn) := by
  unfold Dev.disc
  split
  · exact refl d
  · exact ((refl d).count f hf _ _).count R.FN_DISC_TOTAL (by decide) _ _

/-! ## Rings and event queues -/

theorem ringKill (fn r : Nat) : StopLeaves d (Dev.ringKill fn d r) := by
  have hdisc := ((dropFrames d ((d.ring r).jobs.map (·.id))).trans (disc _ R.FN_DISC_SUBMIT (by decide) (d.ring r).jobs.length fn)).trans
    (disc _ R.FN_DISC_RX (by decide) (SMap.getD d.host.rx r []).length fn)
  exact (((((hdisc.trans (disc _ R.FN_DISC_NOTIFY (by decide) _ fn)).setHost _ rfl rfl).ringOff r).wr R.RG_STATUS_NOTIFY_PENDING
    (by decide) _ _ _).wr R.RG_STATUS_WAITING (by decide) _ _ _).wr R.RG_STATUS_IDLE (by decide) _ _ _

theorem eqDisable (q : Nat) : StopLeaves d (d.eqDisable q) :=
  ((((refl d).wr R.EQ_CTRL_ENABLE (by decide) _ _ _).wr R.EQ_STATUS_OVF_PENDING (by decide) _ _ _).setHost _ rfl rfl).each
    (fun e r => (refl e).wr R.RG_STATUS_NOTIFY_PENDING (by decide) _ _ _) _

theorem eqKill (fn q : Nat) : StopLeaves d (Dev.eqKill fn d q) := (disc d R.FN_DISC_NOTIFY (by decide) _ _).trans (eqDisable _ _)

/-! ## Queue pairs -/

theorem hostWrite (n addr : Nat) (b : Bytes) : StopLeaves d (d.hostWrite n addr b) := by
  unfold Dev.hostWrite
  split
  · exact refl d
  · exact (refl d).setHost _ rfl rfl

theorem wqCpl (rq : Bool) (q i status : Nat) (desc body : Bytes) : StopLeaves d (d.wqCpl rq q i status desc body) :=
  (hostWrite d _ _ _).trans (hostWrite _ _ _ _)

theorem cmbStatus : StopLeaves d d.cmbStatus := by
  have hused := (refl d).wr R.IR_STATUS_CMB_USED (by decide) ((d.ira.cmb.map (fun e => e.2.bytes.length)).sum / 1024) 0 0
  unfold Dev.cmbStatus
  dsimp only
  split
  · exact hused
  · exact (hused.wr R.IR_STATUS_XOFF (by decide) _ _ _).raise _ _ _

theorem qpKill (q : Nat) : StopLeaves d (d.qpKill q) :=
  ((((((refl d).setIra _).wr R.IQ_CTRL_ENABLE (by decide) _ _ _).wr R.IQ_STATUS_STATE (by decide) _ _ _).wr R.IQ_STATUS_IDLE (by decide)
    _ _ _).wr R.IQ_STATUS_CACHED (by decide) _ _ _).wr R.IR_CTX_CACHED (by decide) _ _ _ |>.trans (cmbStatus _)

theorem qpStop (fn q : Nat) : StopLeaves d (Dev.qpStop fn d q) := by
  have hcpl := (refl d).each (fun e (j : IraJob) => wqCpl e false q j.idx 0 j.desc (j.body 0 0))
    ((d.qp q).jobs.filter (fun j => j.begun && j.status == some 0))
  exact ((((hcpl.trans (disc _ R.FN_DISC_SUBMIT (by decide) _ fn)).trans (disc _ R.FN_DISC_PARTIAL (by decide) _ fn)).trans
    (disc _ R.FN_DISC_RX (by decide) _ fn)).count R.IQ_ERR_DROP (by decide) _ _).trans (qpKill _ _)

/-! ## NVMe commands -/

theorem setNvc (c : Nat) (f : NvCtrl → NvCtrl) : StopLeaves d (d.setNvc c f) := by
  unfold Dev.setNvc
  dsimp only
  split
  · exact (refl d).setNv _
  · exact ((((refl d).setNv _).wr R.NC_OUTSTANDING (by decide) _ _ _).wr R.NC_QUEUES_SQS (by decide) _ _ _).wr R.NC_QUEUES_CQS
      (by decide) _ _ _

theorem nvStopFn (fn : Nat) : StopLeaves d (d.nvStopFn fn) := by
  unfold Dev.nvStopFn
  split
  · exact refl d
  · exact ((setNvc d _ _).setNv _).trans (disc _ R.FN_DISC_SUBMIT (by decide) _ _)

end

end StopLeaves

/-! ## A ring that has stopped -/

theorem Dev.ringKill_off (d : Dev) (fn r : Nat) : (Dev.ringKill fn d r).on R.RG_CTRL_ENABLE r = false := by
  unfold Dev.ringKill
  dsimp only
  rw [Dev.flag, Dev.on_wr_apart _ (by decide), Dev.on_wr_apart _ (by decide), Dev.on_wr_apart _ (by decide), Dev.on, Dev.rd_wr]
  rfl

end Sys2Proof.Machine
end

