-- ==== Sys2Proof/Proofs/FunctionDisable.lean ====
section
/-!
PROOFS. What a cause of R212 does to the function that it reaches, and what it leaves of the others (R213, R216).
-/
namespace Sys2Proof.Machine

/-! ## Fields of functions -/

theorem Dev.on_wr_zero (d : Dev) (f : Field) (c i r : Nat) : (d.wr f 0 c i r).on f c i r = false := by
  rw [Dev.on, Dev.rd_wr, Nat.zero_mod]
  rfl

/-- The channel of a listed entry is among those of its field. -/
theorem RegFile.mem_chans_of_get? {m : RegFile} {f : Field} {c r v : Nat} (h : RegFile.get? m (f.key c 0 r) = some v) : c ∈ m.chans f := by
  induction m with
  | nil => exact absurd h.symm (Option.some_ne_none v)
  | cons x m ih =>
    obtain ⟨j, a⟩ := x
    by_cases hj : j = f.key c 0 r
    · subst hj
      simp [RegFile.chans, Field.key]
    · have hm : c ∈ RegFile.chans m f := ih (by simpa only [RegFile.get?, if_neg hj] using h)
      rw [RegFile.chans, List.mem_filterMap] at hm ⊢
      obtain ⟨e, he, hc⟩ := hm
      exact ⟨e, List.mem_cons_of_mem _ he, hc⟩

/-- A flag that is set differs from its reset value. -/
theorem Dev.mem_chans_of_on {d : Dev} {f : Field} (hreset : f.reset = 0) {c : Nat} (h : d.on f c = true) : c ∈ d.regs.chans f := by
  cases hget : RegFile.get? d.regs (f.key c 0 0) with
  | none => simp [Dev.on, Dev.rd, RegFile.rd, hget, hreset] at h
  | some v => exact RegFile.mem_chans_of_get? hget

section
variable {f g : Field} (h : f.apart g = true)
include h

/-- An entry of a field that lies apart is none of the field's channels. -/
theorem Field.apart_entry (c r : Nat) :
    ¬ ((g.key c 0 r).addr = f.addr ∧ (g.key c 0 r).lo = f.lo ∧ (g.key c 0 r).space = f.chan.space) := by
  rintro ⟨haddr, hlo, _⟩
  have haddr : g.addr = f.addr := by simpa [Field.key] using haddr
  have hlo : g.lo = f.lo := hlo
  simp [Field.apart, haddr, hlo] at h

theorem RegFile.chans_erase_apart (m : RegFile) (c r : Nat) : (RegFile.erase m (g.key c 0 r)).chans f = m.chans f := by
  induction m with
  | nil => rfl
  | cons x m ih =>
    obtain ⟨j, a⟩ := x
    simp only [RegFile.chans] at ih ⊢
    by_cases hj : j = g.key c 0 r
    · subst hj
      simp only [RegFile.erase, if_true, ih, List.filterMap_cons, if_neg (Field.apart_entry h c r)]
    · simp only [RegFile.erase, if_neg hj, List.filterMap_cons, ih]

theorem RegFile.chans_put_apart (m : RegFile) (c r v : Nat) : (RegFile.put m (g.key c 0 r) v).chans f = m.chans f := by
  induction m with
  | nil => simp only [RegFile.put, RegFile.chans, List.filterMap_cons, if_neg (Field.apart_entry h c r)]
  | cons x m ih =>
    obtain ⟨j, a⟩ := x
    simp only [RegFile.chans] at ih ⊢
    rw [RegFile.put]
    split
    · simp only [List.filterMap_cons, if_neg (Field.apart_entry h c r)]
    · split
      · next hj =>
        subst hj
        simp only [List.filterMap_cons, if_neg (Field.apart_entry h c r)]
      · simp only [List.filterMap_cons, ih]

/-- A write to a field that lies apart leaves which channels differ from reset. -/
theorem Dev.chans_wr_apart (d : Dev) (v c r : Nat) : (d.wr g v c 0 r).regs.chans f = d.regs.chans f := by
  simp only [Dev.wr, RegFile.wr]
  split
  · exact RegFile.chans_erase_apart h _ _ _
  · exact RegFile.chans_put_apart h _ _ _ _

end

/-- A write beside FN_RING_BASE and FN_RING_COUNT leaves who owns a ring (R218). -/
theorem Dev.ringOwner_wr (d : Dev) {g : Field} (hbase : R.FN_RING_BASE.apart g = true) (hcount : R.FN_RING_COUNT.apart g = true)
    (v c n r : Nat) : (d.wr g v c 0 n).ringOwner r = d.ringOwner r := by
  simp only [Dev.ringOwner, Dev.ownerOf, Dev.chans_wr_apart hcount, Dev.rd_wr_apart d hbase, Dev.rd_wr_apart d hcount]

/-- Which functions are present rests on TotalVFs, VF Enable and UNIT_PRESENT (Table 8.9). -/
theorem Dev.fnPresent_congr {d e : Dev} (hvfs : e.host.vfs = d.host.vfs) (hvfEn : ∀ n, (e.fn n).vfEn = (d.fn n).vfEn)
    (hunit : e.rd R.UNIT_PRESENT = d.rd R.UNIT_PRESENT) (n : Nat) : e.fnPresent n = d.fnPresent n := by
  have hnum : e.fnNum = d.fnNum := by rw [Dev.fnNum, hvfs, Dev.fnNum]
  have hpf : e.fnPf n = d.fnPf n := by rw [Dev.fnPf, hvfs, Dev.fnPf]
  have hvf : e.fnVf n = d.fnVf n := by rw [Dev.fnVf, hvfs, Dev.fnVf]
  have htype : e.fnType n = d.fnType n := by simp only [Dev.fnType, hpf]
  have hstor : e.unit 2 = d.unit 2 := by rw [Dev.unit, hunit, Dev.unit]
  rw [Dev.fnPresent, Dev.fnPresent, hnum, htype, hstor, hvf, hpf, hvfEn]

theorem Dev.fn_setFn_self (d : Dev) (n : Nat) (f : FnState → FnState) : (d.setFn n f).fn n = f (d.fn n) := by
  simp only [Dev.fn, Dev.setFn, Dev.setHost_host, SMap.upd, SMap.getD_put_self]

theorem Dev.fn_setFn_ne (d : Dev) {n m : Nat} (h : m ≠ n) (f : FnState → FnState) : (d.setFn n f).fn m = d.fn m := by
  simp only [Dev.fn, Dev.setFn, Dev.setHost_host, SMap.upd, SMap.getD_put_ne _ _ _ _ _ h]

/-- What a change of one function's record leaves of the record, every function's record keeps. -/
theorem Dev.setFn_keeps {α : Type} (d : Dev) (n : Nat) {f : FnState → FnState} {g : FnState → α} (hf : ∀ x, g (f x) = g x) (m : Nat) :
    g ((d.setFn n f).fn m) = g (d.fn m) := by
  by_cases h : m = n
  · rw [h, Dev.fn_setFn_self, hf]
  · rw [Dev.fn_setFn_ne d h]

/-- A change of a function's record that leaves VF Enable leaves which functions are present. -/
theorem Dev.fnPresent_setFn (d : Dev) (n : Nat) {f : FnState → FnState} (hf : ∀ x, (f x).vfEn = x.vfEn) (m : Nat) :
    (d.setFn n f).fnPresent m = d.fnPresent m :=
  Dev.fnPresent_congr (d := d) (e := d.setFn n f) rfl (Dev.setFn_keeps d n hf) rfl m

/-- So does a register write beside UNIT_PRESENT. -/
theorem Dev.fnPresent_wr (d : Dev) {g : Field} (h : R.UNIT_PRESENT.apart g = true) (v c r m : Nat) :
    (d.wr g v c 0 r).fnPresent m = d.fnPresent m :=
  Dev.fnPresent_congr (d := d) (e := d.wr g v c 0 r) rfl (fun _ => rfl) (Dev.rd_wr_apart d h v 0 0 c r) m

/-! ## The parts of a disable (R213) -/

/-- Step 1 shown: DISABLING, IDLE and CAUSE, and FN_DISABLES counts. -/
def Dev.fnMark (d : Dev) (fn code : Nat) : Dev :=
  (((d.flag R.FN_STATUS_DISABLING fn).wr R.FN_STATUS_IDLE 0 fn).wr R.FN_STATUS_CAUSE code fn).count R.FN_DISABLES 1 fn

/-- The counts of the last disable are zeroed. -/
def Dev.fnDiscZero (d : Dev) (fn : Nat) : Dev :=
  [R.FN_DISC_SUBMIT, R.FN_DISC_RX, R.FN_DISC_NOTIFY, R.FN_DISC_PARTIAL].foldl (fun e f => e.wr f 0 fn) d

/-- Step 1 for the function itself, with the tick from which the times of R213 count. -/
def Dev.fnBegin (d : Dev) (fn code step5 : Nat) : Dev :=
  ((d.fnMark fn code).fnDiscZero fn).setFn fn (fun f => { f with step5 := step5, since := d.tk.etick })

/-- Everything that the function runs stops. -/
def Dev.fnHalt (d : Dev) (fn : Nat) : Dev :=
  let e := d.each (d.fnRings fn) (Dev.ringKill fn)
  let e := e.each (e.fnEqs fn) (Dev.eqKill fn)
  (e.each (e.fnQps fn) (Dev.qpStop fn)).nvStopFn fn

/-- The function leaves service (R215). -/
def Dev.fnLeave (d : Dev) (fn : Nat) : Dev := { d with fnOut := d.fnOut.filter (· != fn) ++ [fn] }

@[simp] theorem Dev.fnLeave_host (d : Dev) (fn : Nat) : (d.fnLeave fn).host = d.host := rfl
@[simp] theorem Dev.fnLeave_rd (d : Dev) (fn : Nat) (g : Field) (k j w : Nat) : (d.fnLeave fn).rd g k j w = d.rd g k j w := rfl

section
variable (d : Dev) (fn code step5 : Nat)

theorem Dev.fnDisable_absent (h : d.fnPresent fn = false) : d.fnDisable fn code step5 = d := by
  simp [Dev.fnDisable, h]

/-- A cause that arrives during a disable joins it (R216). -/
theorem Dev.fnDisable_joins (hp : d.fnPresent fn = true) (hd : d.on R.FN_STATUS_DISABLING fn = true) :
    d.fnDisable fn code step5 =
      d.setFn fn (fun f => { f with step5 := if f.step5 = 0 then step5 else if step5 = 0 then f.step5 else min f.step5 step5 }) := by
  simp [Dev.fnDisable, hp, hd]

theorem Dev.fnDisable_starts (hp : d.fnPresent fn = true) (hd : d.on R.FN_STATUS_DISABLING fn = false) :
    d.fnDisable fn code step5 = ((d.fnBegin fn code step5).fnHalt fn).fnLeave fn := by
  simp only [Dev.fnDisable, hp, hd, Bool.not_true, Bool.false_eq_true, if_false]
  rfl

end

/-! ## What the parts leave -/

theorem StopLeaves.fnDiscZero (d : Dev) (fn : Nat) : StopLeaves d (d.fnDiscZero fn) :=
  ((((StopLeaves.refl d).wr R.FN_DISC_SUBMIT (by decide) _ _ _).wr R.FN_DISC_RX (by decide) _ _ _).wr R.FN_DISC_NOTIFY (by decide)
    _ _ _).wr R.FN_DISC_PARTIAL (by decide) _ _ _

theorem StopLeaves.fnHalt (d : Dev) (fn : Nat) : StopLeaves d (d.fnHalt fn) :=
  (((((refl d).each (fun e r => ringKill e fn r) _).each (fun e q => eqKill e fn q) _).each (fun e q => qpStop e fn q) _).trans
    (nvStopFn _ fn))

/-- Every ring of the function has stopped. -/
theorem Dev.fnHalt_off (d : Dev) {fn r : Nat} (hr : d.ringOwner r = some fn) : (d.fnHalt fn).on R.RG_CTRL_ENABLE r = false := by
  have hrings : (d.each (d.fnRings fn) (Dev.ringKill fn)).on R.RG_CTRL_ENABLE r = false := by
    by_cases hon : d.on R.RG_CTRL_ENABLE r = true
    · have hmem : r ∈ d.fnRings fn := by
        simp [Dev.fnRings, Dev.mem_chans_of_on rfl hon, hr]
      exact Dev.each_reaches (P := fun _ => True) (Q := fun e => e.on R.RG_CTRL_ENABLE r = false) hmem (fun _ _ _ _ => trivial)
        (fun e _ => Dev.ringKill_off e fn r) (fun e n he => (StopLeaves.ringKill e fn n).off r he) trivial
    · exact ((StopLeaves.refl d).each (fun e n => StopLeaves.ringKill e fn n) _).off r (Bool.eq_false_iff.mpr hon)
  exact ((((StopLeaves.refl _).each (fun e q => StopLeaves.eqKill e fn q) _).each (fun e q => StopLeaves.qpStop e fn q) _).trans
    (StopLeaves.nvStopFn _ fn)).off r hrings

section
variable (d : Dev) (fn code : Nat)

theorem Dev.fnMark_disabling : (d.fnMark fn code).on R.FN_STATUS_DISABLING fn = true := by
  rw [Dev.fnMark, Dev.count, Dev.on_wr_apart _ (by decide), Dev.on_wr_apart _ (by decide), Dev.on_wr_apart _ (by decide),
    Dev.on_flag _ _ _ _ _ (by decide)]

theorem Dev.fnMark_idle : (d.fnMark fn code).on R.FN_STATUS_IDLE fn = false := by
  rw [Dev.fnMark, Dev.count, Dev.on_wr_apart _ (by decide), Dev.on_wr_apart _ (by decide), Dev.on_wr_zero]

theorem Dev.fnMark_cause : (d.fnMark fn code).rd R.FN_STATUS_CAUSE fn = code % 2 ^ R.FN_STATUS_CAUSE.width := by
  rw [Dev.fnMark, Dev.count, Dev.rd_wr_apart _ (by decide), Dev.rd_wr]

theorem Dev.fnMark_disables : (d.fnMark fn code).rd R.FN_DISABLES fn = (d.rd R.FN_DISABLES fn + 1) % 2 ^ R.FN_DISABLES.width := by
  rw [Dev.fnMark, Dev.rd_count, Dev.rd_wr_apart _ (by decide), Dev.rd_wr_apart _ (by decide), Dev.flag, Dev.rd_wr_apart _ (by decide)]

/-- The four registers of the mark, all of the function's own channel. -/
theorem Dev.fnMark_regs : RegsBut d (d.fnMark fn code) [R.FN_STATUS_DISABLING.key fn 0 0, R.FN_STATUS_IDLE.key fn 0 0,
    R.FN_STATUS_CAUSE.key fn 0 0, R.FN_DISABLES.key fn 0 0] :=
  ((((RegsBut.refl d _).flag (by simp)).wr (by simp) _).wr (by simp) _).wr (by simp) _

theorem Dev.fnMark_ringOwner (r : Nat) : (d.fnMark fn code).ringOwner r = d.ringOwner r := by
  rw [Dev.fnMark, Dev.count, Dev.ringOwner_wr _ (by decide) (by decide), Dev.ringOwner_wr _ (by decide) (by decide),
    Dev.ringOwner_wr _ (by decide) (by decide), Dev.flag, Dev.ringOwner_wr _ (by decide) (by decide)]

theorem Dev.fnDiscZero_ringOwner (r : Nat) : (d.fnDiscZero fn).ringOwner r = d.ringOwner r := by
  simp only [Dev.fnDiscZero, List.foldl]
  rw [Dev.ringOwner_wr _ (by decide) (by decide), Dev.ringOwner_wr _ (by decide) (by decide),
    Dev.ringOwner_wr _ (by decide) (by decide), Dev.ringOwner_wr _ (by decide) (by decide)]

theorem Dev.setFn_ringOwner (f : FnState → FnState) (r : Nat) : (d.setFn fn f).ringOwner r = d.ringOwner r := rfl

theorem Dev.fnBegin_ringOwner (step5 r : Nat) : (d.fnBegin fn code step5).ringOwner r = d.ringOwner r := by
  rw [Dev.fnBegin, Dev.setFn_ringOwner, Dev.fnDiscZero_ringOwner, Dev.fnMark_ringOwner]

end

/-! ## What a disable leaves of the other functions -/

/-- An address of the registers of one function that its own disable writes (Table 8.9). -/
def ownDisable (a : Nat) : Bool := a == R.FN_STATUS_DISABLING.addr || a == R.FN_DISABLES.addr

/-- A function's record without what its disable notes: whether step 5 follows, and the tick of step 1. -/
def FnState.lasting (f : FnState) : FnState := { f with step5 := 0, since := 0 }

/-- What a disable of one function leaves: registers outside the work, but those of its own status; the rings that are not enabled;
TotalVFs; the functions' records, but what the disable notes in its own; and who is out of service. -/
structure DisableLeaves (fn : Nat) (d e : Dev) : Prop where
  regs : ∀ k : Key, outsideWork k.addr = true → (ownDisable k.addr = true → k.chan ≠ fn) → RegFile.get? e.regs k = RegFile.get? d.regs k
  off : ∀ r, d.on R.RG_CTRL_ENABLE r = false → e.on R.RG_CTRL_ENABLE r = false
  vfs : e.host.vfs = d.host.vfs
  lasting : ∀ n, (e.fn n).lasting = (d.fn n).lasting
  fn : ∀ n, n ≠ fn → e.fn n = d.fn n
  out : ∀ n, n ∈ d.fnOut → n ∈ e.fnOut

namespace DisableLeaves

section
variable {fn : Nat} {d e : Dev}

theorem refl (fn : Nat) (d : Dev) : DisableLeaves fn d d := ⟨fun _ _ _ => rfl, fun _ h => h, rfl, fun _ => rfl, fun _ _ => rfl, fun _ h => h⟩

theorem trans {e' : Dev} (h : DisableLeaves fn d e) (h' : DisableLeaves fn e e') : DisableLeaves fn d e' where
  regs k hk hown := (h'.regs k hk hown).trans (h.regs k hk hown)
  off r hr := h'.off r (h.off r hr)
  vfs := h'.vfs.trans h.vfs
  lasting n := (h'.lasting n).trans (h.lasting n)
  fn n hn := (h'.fn n hn).trans (h.fn n hn)
  out n hn := h'.out n (h.out n hn)

theorem of_stopLeaves (h : StopLeaves d e) : DisableLeaves fn d e where
  regs k hk _ := h.regs k hk
  off := h.off
  vfs := h.vfs
  lasting n := by rw [Dev.fn, h.fns, Dev.fn]
  fn n _ := by rw [Dev.fn, h.fns, Dev.fn]
  out n hn := by rwa [h.out]

theorem setFn (d : Dev) (fn : Nat) {f : FnState → FnState} (hf : ∀ x, (f x).lasting = x.lasting) : DisableLeaves fn d (d.setFn fn f) :=
  { refl fn d with
    lasting := Dev.setFn_keeps d fn hf
    fn := fun _ hn => Dev.fn_setFn_ne d hn f }

theorem fnMark (d : Dev) (fn code : Nat) : DisableLeaves fn d (d.fnMark fn code) :=
  { refl fn d with
    regs := fun k _ hown => Dev.fnMark_regs d fn code k (by
      intro hk
      simp only [List.mem_cons, List.not_mem_nil, or_false] at hk
      rcases hk with rfl | rfl | rfl | rfl <;> exact hown rfl rfl)
    off := fun r hr => by
      rwa [(Dev.fnMark_regs d fn code).on (by simp [Field.key, R.RG_CTRL_ENABLE, R.FN_STATUS_DISABLING, R.FN_STATUS_IDLE,
        R.FN_STATUS_CAUSE, R.FN_DISABLES])] }

theorem fnBegin (d : Dev) (fn code step5 : Nat) : DisableLeaves fn d (d.fnBegin fn code step5) :=
  ((fnMark d fn code).trans (of_stopLeaves (StopLeaves.fnDiscZero (d.fnMark fn code) fn))).trans
    (setFn ((d.fnMark fn code).fnDiscZero fn) fn fun _ => rfl)

theorem fnLeave (d : Dev) (fn : Nat) : DisableLeaves fn d (d.fnLeave fn) :=
  { refl fn d with
    out := fun n hn => by
      by_cases h : n = fn
      · simp [Dev.fnLeave, h]
      · simp [Dev.fnLeave, h, hn] }

/-- A field outside the work, of another function or beside the status, reads as before. -/
theorem rd (h : DisableLeaves fn d e) {f : Field} (hf : outsideWork f.addr = true) {c : Nat} (hown : ownDisable f.addr = true → c ≠ fn) :
    e.rd f c = d.rd f c :=
  Dev.rd_congr f c 0 0 (h.regs _ (by simpa [Field.key] using hf) (by simpa [Field.key] using hown))

theorem on (h : DisableLeaves fn d e) {f : Field} (hf : outsideWork f.addr = true) {c : Nat} (hown : ownDisable f.addr = true → c ≠ fn) :
    e.on f c = d.on f c := by
  rw [Dev.on, h.rd hf hown, Dev.on]

theorem vfEn (h : DisableLeaves fn d e) (n : Nat) : (e.fn n).vfEn = (d.fn n).vfEn := by
  simpa only [FnState.lasting] using congrArg FnState.vfEn (h.lasting n)

theorem d3 (h : DisableLeaves fn d e) (n : Nat) : (e.fn n).d3 = (d.fn n).d3 := by
  simpa only [FnState.lasting] using congrArg FnState.d3 (h.lasting n)

theorem fnPresent (h : DisableLeaves fn d e) (n : Nat) : e.fnPresent n = d.fnPresent n :=
  Dev.fnPresent_congr h.vfs h.vfEn (h.rd (by decide) (fun hown => absurd hown (by decide))) n

end

end DisableLeaves

/-- A cause that reaches a function, whatever its state. -/
theorem Dev.fnDisable_leaves (d : Dev) (fn code step5 : Nat) : DisableLeaves fn d (d.fnDisable fn code step5) := by
  by_cases hp : d.fnPresent fn = true
  · by_cases hd : d.on R.FN_STATUS_DISABLING fn = true
    · rw [Dev.fnDisable_joins d fn code step5 hp hd]
      exact DisableLeaves.setFn d fn fun _ => rfl
    · rw [Dev.fnDisable_starts d fn code step5 hp (Bool.eq_false_iff.mpr hd)]
      exact ((DisableLeaves.fnBegin d fn code step5).trans (.of_stopLeaves (StopLeaves.fnHalt (d.fnBegin fn code step5) fn))).trans
        (DisableLeaves.fnLeave ((d.fnBegin fn code step5).fnHalt fn) fn)
  · rw [Dev.fnDisable_absent d fn code step5 (Bool.eq_false_iff.mpr hp)]
    exact .refl fn d

/-- A cause that reaches a function during its disable leaves the registers (R216). -/
theorem Dev.fnDisable_during_rd (d : Dev) {fn : Nat} (code step5 : Nat) (hd : d.on R.FN_STATUS_DISABLING fn = true) (f : Field) (c : Nat) :
    (d.fnDisable fn code step5).rd f c = d.rd f c := by
  by_cases hp : d.fnPresent fn = true
  · rw [Dev.fnDisable_joins d fn code step5 hp hd]
    rfl
  · rw [Dev.fnDisable_absent d fn code step5 (Bool.eq_false_iff.mpr hp)]

/-! ## What a disable does -/

/-- A disable of a function has begun between two devices: step 1 of R213, with the cause's code, and whether step 5 follows. -/
structure Disabled (d e : Dev) (fn code step5 : Nat) : Prop where
  disabling : e.on R.FN_STATUS_DISABLING fn = true
  idle : e.on R.FN_STATUS_IDLE fn = false
  cause : e.rd R.FN_STATUS_CAUSE fn = code
  out : fn ∈ e.fnOut
  disables : e.rd R.FN_DISABLES fn = (d.rd R.FN_DISABLES fn + 1) % 2 ^ R.FN_DISABLES.width
  after : (e.fn fn).step5 = step5
  rings : ∀ r, d.ringOwner r = some fn → e.on R.RG_CTRL_ENABLE r = false

/-- After the start of a disable a field outside the work reads as the mark of step 1 left it. -/
theorem Dev.fnBegin_fnHalt_fnLeave_rd (d : Dev) (fn code step5 : Nat) {f : Field} (hf : outsideWork f.addr = true) :
    (((d.fnBegin fn code step5).fnHalt fn).fnLeave fn).rd f fn = (d.fnMark fn code).rd f fn := by
  rw [Dev.fnLeave_rd, (StopLeaves.fnHalt (d.fnBegin fn code step5) fn).rd hf, Dev.fnBegin, Dev.setFn, Dev.setHost_rd,
    (StopLeaves.fnDiscZero (d.fnMark fn code) fn).rd hf]

/-- A cause reaches a function that is present and not being disabled. -/
theorem Dev.fnDisable_disabled (d : Dev) {fn code : Nat} (step5 : Nat) (hcode : code < 8) (hp : d.fnPresent fn = true)
    (hd : d.on R.FN_STATUS_DISABLING fn = false) : Disabled d (d.fnDisable fn code step5) fn code step5 := by
  have hrd {f : Field} (hf : outsideWork f.addr = true) := Dev.fnBegin_fnHalt_fnLeave_rd d fn code step5 hf
  have hfns := (StopLeaves.fnHalt (d.fnBegin fn code step5) fn).fns
  rw [Dev.fnDisable_starts d fn code step5 hp hd]
  exact {
    disabling := by rw [Dev.on, hrd (by decide)]; exact Dev.fnMark_disabling d fn code
    idle := by rw [Dev.on, hrd (by decide)]; exact Dev.fnMark_idle d fn code
    cause := by rw [hrd (by decide), Dev.fnMark_cause]; exact Nat.mod_eq_of_lt hcode
    out := List.mem_append_right _ (List.mem_singleton_self fn)
    disables := by rw [hrd (by decide), Dev.fnMark_disables]
    after := by
      rw [Dev.fn, Dev.fnLeave_host, hfns, ← Dev.fn, Dev.fnBegin, Dev.fn_setFn_self]
    rings := fun r hr => by
      have howner : (d.fnBegin fn code step5).ringOwner r = some fn := by
        rw [Dev.fnBegin_ringOwner, hr]
      exact Dev.fnHalt_off (d.fnBegin fn code step5) howner }

/-- What came before the cause may have changed anything but FN_DISABLES and who owns the rings. -/
theorem Disabled.prepared {d d' e : Dev} {fn code step5 : Nat} (h : Disabled d' e fn code step5)
    (hcount : d'.rd R.FN_DISABLES fn = d.rd R.FN_DISABLES fn) (howner : ∀ r, d'.ringOwner r = d.ringOwner r) : Disabled d e fn code step5 :=
  { h with
    disables := by rw [h.disables, hcount]
    rings := fun r hr => h.rings r ((howner r).trans hr) }

/-- The disable of another function leaves it so. -/
theorem Disabled.leaves {d e e' : Dev} {fn code step5 n : Nat} (h : Disabled d e fn code step5) (hn : fn ≠ n) (hl : DisableLeaves n e e') :
    Disabled d e' fn code step5 where
  disabling := (hl.on (by decide) fun _ => hn).trans h.disabling
  idle := (hl.on (by decide) fun _ => hn).trans h.idle
  cause := (hl.rd (by decide) fun _ => hn).trans h.cause
  out := hl.out fn h.out
  disables := (hl.rd (by decide) fun _ => hn).trans h.disables
  after := by rw [hl.fn fn hn, h.after]
  rings r hr := hl.off r (h.rings r hr)

/-! ## Causes that reach several functions -/

/-- A function that is present is being disabled after a cause, whether that disable began now or before. -/
theorem Dev.fnDisable_disabling (d : Dev) {fn code : Nat} (step5 : Nat) (hcode : code < 8) (hp : d.fnPresent fn = true) :
    (d.fnDisable fn code step5).on R.FN_STATUS_DISABLING fn = true := by
  by_cases hd : d.on R.FN_STATUS_DISABLING fn = true
  · rw [Dev.on, Dev.fnDisable_during_rd d code step5 hd]
    exact hd
  · exact (Dev.fnDisable_disabled d step5 hcode hp (Bool.eq_false_iff.mpr hd)).disabling

/-- A disable in progress stands whatever cause comes to whichever function. -/
theorem Dev.fnDisable_stands (d : Dev) {n : Nat} (fn code step5 : Nat) (h : d.on R.FN_STATUS_DISABLING n = true) :
    (d.fnDisable fn code step5).on R.FN_STATUS_DISABLING n = true := by
  by_cases hn : n = fn
  · subst hn
    rw [Dev.on, Dev.fnDisable_during_rd d code step5 h]
    exact h
  · rw [(Dev.fnDisable_leaves d fn code step5).on (by decide) fun _ => hn, h]

/-- A cause that reaches each function of a list disables every one of them that is present. -/
theorem Dev.each_fnDisable_disabling (d : Dev) {l : List Nat} {n code : Nat} (step5 : Nat) (hcode : code < 8) (hn : n ∈ l)
    (hp : d.fnPresent n = true) : (d.each l (fun e fn => e.fnDisable fn code step5)).on R.FN_STATUS_DISABLING n = true :=
  Dev.each_reaches (P := fun e => e.fnPresent n = true) (Q := fun e => e.on R.FN_STATUS_DISABLING n = true) hn
    (fun e fn _ he => ((Dev.fnDisable_leaves e fn code step5).fnPresent n).trans he)
    (fun e he => Dev.fnDisable_disabling e step5 hcode he) (fun e fn he => Dev.fnDisable_stands e fn code step5 he) hp

/-- A function has left service for the cause of a code. -/
structure OutFor (n code : Nat) (e : Dev) : Prop where
  disabling : e.on R.FN_STATUS_DISABLING n = true
  cause : e.rd R.FN_STATUS_CAUSE n = code
  out : n ∈ e.fnOut

/-- Its first cause stands (R212, R216). -/
theorem OutFor.fnDisable {n c : Nat} {e : Dev} (h : OutFor n c e) (fn code step5 : Nat) : OutFor n c (e.fnDisable fn code step5) := by
  refine ⟨Dev.fnDisable_stands e fn code step5 h.disabling, ?_, (Dev.fnDisable_leaves e fn code step5).out n h.out⟩
  by_cases hn : n = fn
  · subst hn
    rw [Dev.fnDisable_during_rd e code step5 h.disabling, h.cause]
  · rw [(Dev.fnDisable_leaves e fn code step5).rd (by decide) fun _ => hn, h.cause]

/-- One of them that was not being disabled has the cause's code. -/
theorem Dev.each_fnDisable_outFor (d : Dev) {l : List Nat} {n code : Nat} (step5 : Nat) (hcode : code < 8) (hn : n ∈ l)
    (hp : d.fnPresent n = true) (hd : d.on R.FN_STATUS_DISABLING n = false) :
    OutFor n code (d.each l (fun e fn => e.fnDisable fn code step5)) := by
  refine Dev.each_reaches (P := fun e => e.fnPresent n = true ∧ e.on R.FN_STATUS_DISABLING n = false) hn (fun e fn hfn ⟨hp, hd⟩ => ?_)
    (fun e ⟨hp, hd⟩ => ?_) (fun e fn he => he.fnDisable fn code step5) ⟨hp, hd⟩
  · have hleaves := Dev.fnDisable_leaves e fn code step5
    exact ⟨(hleaves.fnPresent n).trans hp, (hleaves.on (by decide) fun _ => Ne.symm hfn).trans hd⟩
  · have hnow := Dev.fnDisable_disabled e step5 hcode hp hd
    exact ⟨hnow.disabling, hnow.cause, hnow.out⟩

/-- Fields beside the work and the status of functions read as before. -/
theorem Dev.each_fnDisable_rd (d : Dev) (l : List Nat) (code step5 : Nat) {f : Field}
    (hf : (outsideWork f.addr && !ownDisable f.addr) = true) (c : Nat) :
    (d.each l (fun e fn => e.fnDisable fn code step5)).rd f c = d.rd f c := by
  obtain ⟨hwork, hown⟩ : outsideWork f.addr = true ∧ ownDisable f.addr = false := by simpa using hf
  exact Dev.each_keeps (Q := fun e => e.rd f c = d.rd f c)
    (fun e fn _ he => ((Dev.fnDisable_leaves e fn code step5).rd hwork fun h => absurd h (by simp [hown])).trans he) rfl

end Sys2Proof.Machine
end

