-- ==== Sys2Proof/Proofs/FunctionCauses.lean ====
section
/-!
PROOFS. The causes of R212 and the links of R198, clause by clause of FunctionsAreDisabledByTheirCauses.
-/
namespace Sys2Proof.Machine

/-! ## What the commands are -/

theorem exec_flr (fn : Nat) (s : State) : exec (.flr fn) s = .next (s.onDev (fun d =>
    (d.fnDisable fn 1 1).each (if fn < 8 then d.fnVfs fn else []) (fun e v => e.fnDisable v 2 0))) := rfl

theorem exec_vfEnableClear (pf : Nat) (s : State) : exec (.vfEnableClear pf) s = .next (s.onDev (fun d =>
    (d.each (d.fnVfs pf) (fun e v => e.fnDisable v 2 0)).setFn pf (fun f => { f with vfOff := true }))) := rfl

theorem exec_bmeClear (fn : Nat) (s : State) :
    exec (.bmeClear fn) s = .next (s.onDev (fun d => (d.wr R.FN_INFO_BME 0 fn).fnDisable fn 3 0)) := rfl

theorem exec_d3hotEntry (fn : Nat) (s : State) : exec (.d3hotEntry fn) s =
    .next (s.onDev (fun d => (d.setFn fn (fun f => { f with d3 := true })).fnDisable fn 5 0)) := rfl

theorem exec_quiesce (req fn : Nat) (s : State) : exec (.quiesce req fn) s =
    .next (s.onDev (fun d => if req = 0 ∨ isHart req then (d.sampleWrite req fn).quiesce fn else d)) := rfl

/-! ## FLR (R212, R216) -/

/-- A VF has a number behind the PFs'. -/
theorem Dev.le_of_mem_fnVfs {d : Dev} {pf v : Nat} (h : v ∈ d.fnVfs pf) : 8 ≤ v := by
  obtain ⟨k, _, rfl⟩ := List.mem_map.mp h
  omega

/-- No function is a VF of its own. -/
theorem Dev.ne_of_mem_flrVfs {d : Dev} {fn v : Nat} (h : v ∈ if fn < 8 then d.fnVfs fn else []) : fn ≠ v := by
  split at h
  · next hfn =>
    have hv := Dev.le_of_mem_fnVfs h
    omega
  · exact absurd h List.not_mem_nil

theorem flr_disables (fn : Nat) (s : State) (h : s.dev.fnPresent fn = true ∧ s.dev.on R.FN_STATUS_DISABLING fn = false) :
    ∃ t, exec (.flr fn) s = .next t ∧ t.dev.on R.FN_STATUS_DISABLING fn = true ∧ t.dev.on R.FN_STATUS_IDLE fn = false ∧
      t.dev.rd R.FN_STATUS_CAUSE fn = 1 ∧ fn ∈ t.dev.fnOut ∧
      t.dev.rd R.FN_DISABLES fn = (s.dev.rd R.FN_DISABLES fn + 1) % 2 ^ R.FN_DISABLES.width ∧ (t.dev.fn fn).step5 = 1 ∧
      (∀ r, s.dev.ringOwner r = some fn → t.dev.on R.RG_CTRL_ENABLE r = false) ∧
      (∀ v, fn < 8 → v ∈ s.dev.fnVfs fn → s.dev.fnPresent v = true → t.dev.on R.FN_STATUS_DISABLING v = true) ∧
      t.hbm = s.hbm ∧ t.fuse = s.fuse := by
  obtain ⟨hp, hd⟩ := h
  have hown := Dev.fnDisable_disabled s.dev 1 (by decide : 1 < 8) hp hd
  have hall : Disabled s.dev ((s.dev.fnDisable fn 1 1).each (if fn < 8 then s.dev.fnVfs fn else []) (fun e v => e.fnDisable v 2 0)) fn 1 1 :=
    Dev.each_keeps (Q := fun e => Disabled s.dev e fn 1 1) (fun e v hv he => he.leaves (Dev.ne_of_mem_flrVfs hv) (Dev.fnDisable_leaves e v 2 0)) hown
  refine ⟨_, exec_flr fn s, hall.disabling, hall.idle, hall.cause, hall.out, hall.disables, hall.after, hall.rings,
    fun v hfn hv hpv => ?_, rfl, rfl⟩
  exact Dev.each_fnDisable_disabling _ 0 (by decide) (by rwa [if_pos hfn])
    (((Dev.fnDisable_leaves s.dev fn 1 1).fnPresent v).trans hpv)

/-- The FLR of a function that has no VFs is its disable alone. -/
theorem exec_flr_of_le {fn : Nat} (hfn : 8 ≤ fn) (s : State) : exec (.flr fn) s = .next (s.onDev (fun d => d.fnDisable fn 1 1)) := by
  simp only [exec_flr, if_neg (Nat.not_lt.mpr hfn), Dev.each, List.foldl]

theorem flr_joins (fn : Nat) (s : State) (hfn : 8 ≤ fn) (h : s.dev.fnPresent fn = true ∧ s.dev.on R.FN_STATUS_DISABLING fn = true) :
    ∃ t, exec (.flr fn) s = .next t ∧ (t.dev.fn fn).step5 = 1 ∧ (t.dev.fn fn).since = (s.dev.fn fn).since ∧
      t = { s with dev := { s.dev with host := { s.dev.host with fns := t.dev.host.fns } } } := by
  refine ⟨_, exec_flr_of_le hfn s, ?_⟩
  rw [State.onDev, Dev.fnDisable_joins s.dev fn 1 1 h.1 h.2]
  refine ⟨?_, by rw [Dev.fn_setFn_self], rfl⟩
  rw [Dev.fn_setFn_self]
  dsimp only
  split
  · rfl
  · rw [if_neg Nat.one_ne_zero]
    omega

theorem flr_absent (fn : Nat) (s : State) (h : 8 ≤ fn ∧ s.dev.fnPresent fn = false) : ∃ t, exec (.flr fn) s = .next t ∧ t = s :=
  ⟨_, exec_flr_of_le h.1 s, by rw [State.onDev, Dev.fnDisable_absent s.dev fn 1 1 h.2]⟩

/-! ## VF Enable, Bus Master Enable, D3hot (R212) -/

theorem vfEnableClear_disables (fn v : Nat) (s : State) (hv : v ∈ s.dev.fnVfs fn)
    (h : s.dev.fnPresent v = true ∧ s.dev.on R.FN_STATUS_DISABLING v = false) :
    ∃ t, exec (.vfEnableClear fn) s = .next t ∧ t.dev.on R.FN_STATUS_DISABLING v = true ∧ t.dev.rd R.FN_STATUS_CAUSE v = 2 ∧
      v ∈ t.dev.fnOut ∧ (t.dev.fn fn).vfOff = true := by
  have hout := Dev.each_fnDisable_outFor s.dev 0 (by decide : 2 < 8) hv h.1 h.2
  exact ⟨_, exec_vfEnableClear fn s, hout.disabling, hout.cause, hout.out, congrArg FnState.vfOff (Dev.fn_setFn_self _ fn _)⟩

theorem bmeClear_disables (fn : Nat) (s : State) (h : s.dev.fnPresent fn = true ∧ s.dev.on R.FN_STATUS_DISABLING fn = false) :
    ∃ t, exec (.bmeClear fn) s = .next t ∧ t.dev.on R.FN_STATUS_DISABLING fn = true ∧ t.dev.on R.FN_STATUS_IDLE fn = false ∧
      t.dev.rd R.FN_STATUS_CAUSE fn = 3 ∧ fn ∈ t.dev.fnOut ∧
      t.dev.rd R.FN_DISABLES fn = (s.dev.rd R.FN_DISABLES fn + 1) % 2 ^ R.FN_DISABLES.width ∧ t.dev.on R.FN_INFO_BME fn = false ∧
      (∀ r, s.dev.ringOwner r = some fn → t.dev.on R.RG_CTRL_ENABLE r = false) := by
  have hp : (s.dev.wr R.FN_INFO_BME 0 fn).fnPresent fn = true := (Dev.fnPresent_wr s.dev (by decide) 0 fn 0 fn).trans h.1
  have hd : (s.dev.wr R.FN_INFO_BME 0 fn).on R.FN_STATUS_DISABLING fn = false := (Dev.on_wr_apart s.dev (by decide) 0 fn 0 fn 0).trans h.2
  have hnow : Disabled s.dev _ fn 3 0 := (Dev.fnDisable_disabled _ 0 (by decide : 3 < 8) hp hd).prepared
    (Dev.rd_wr_apart s.dev (by decide) 0 fn 0 fn 0) (Dev.ringOwner_wr s.dev (by decide) (by decide) 0 fn 0)
  have hbme := (Dev.fnDisable_leaves (s.dev.wr R.FN_INFO_BME 0 fn) fn 3 0).on (f := R.FN_INFO_BME) (c := fn) (by decide)
    (fun hown => absurd hown (by decide))
  exact ⟨_, exec_bmeClear fn s, hnow.disabling, hnow.idle, hnow.cause, hnow.out, hnow.disables, hbme.trans (Dev.on_wr_zero s.dev _ fn 0 0),
    hnow.rings⟩

theorem d3hotEntry_disables (fn : Nat) (s : State) (h : s.dev.fnPresent fn = true ∧ s.dev.on R.FN_STATUS_DISABLING fn = false) :
    ∃ t, exec (.d3hotEntry fn) s = .next t ∧ t.dev.on R.FN_STATUS_DISABLING fn = true ∧ t.dev.on R.FN_STATUS_IDLE fn = false ∧
      t.dev.rd R.FN_STATUS_CAUSE fn = 5 ∧ fn ∈ t.dev.fnOut ∧
      t.dev.rd R.FN_DISABLES fn = (s.dev.rd R.FN_DISABLES fn + 1) % 2 ^ R.FN_DISABLES.width ∧ (t.dev.fn fn).d3 = true ∧
      (∀ r, s.dev.ringOwner r = some fn → t.dev.on R.RG_CTRL_ENABLE r = false) := by
  have hp : (s.dev.setFn fn (fun f => { f with d3 := true })).fnPresent fn = true :=
    (Dev.fnPresent_setFn s.dev fn (f := fun f => { f with d3 := true }) (fun _ => rfl) fn).trans h.1
  have hnow : Disabled s.dev _ fn 5 0 := (Dev.fnDisable_disabled _ 0 (by decide : 5 < 8) hp h.2).prepared rfl
    (Dev.setFn_ringOwner s.dev fn _)
  have hd3 := (Dev.fnDisable_leaves (s.dev.setFn fn (fun f => { f with d3 := true })) fn 5 0).d3 fn
  exact ⟨_, exec_d3hotEntry fn s, hnow.disabling, hnow.idle, hnow.cause, hnow.out, hnow.disables,
    hd3.trans (congrArg FnState.d3 (Dev.fn_setFn_self s.dev fn _)), hnow.rings⟩

/-! ## QUIESCE (R212, Table 8.9) -/

/-- PF0 or a core sets FN_CTRL.QUIESCE, which read 0, of a function whose unit is present. -/
theorem exec_quiesce_sets {req fn : Nat} (s : State) (hreq : req = 0 ∨ isHart req = true)
    (h : s.dev.on R.FN_CTRL fn = false ∧ (s.dev.fnType fn = 2 → s.dev.unit 2 = true)) :
    exec (.quiesce req fn) s = .next (s.onDev (fun d => ((d.sampleWrite req fn).flag R.FN_CTRL fn).fnDisable fn 6 0)) := by
  obtain ⟨hctrl, hstor⟩ := h
  have hact : ¬ ((s.dev.sampleWrite req fn).on R.FN_CTRL fn = true ∨
      ((s.dev.sampleWrite req fn).fnType fn = 2 ∧ ¬ (s.dev.sampleWrite req fn).unit 2 = true)) := by
    rintro (hon | ⟨htype, hunit⟩)
    · exact Bool.false_ne_true (hctrl.symm.trans hon)
    · exact hunit (hstor htype)
  rw [exec_quiesce, State.onDev, if_pos hreq, Dev.quiesce, if_neg hact, State.onDev]

theorem quiesce_disables (req fn : Nat) (s : State) (hreq : req = 0 ∨ isHart req = true)
    (hctrl : s.dev.on R.FN_CTRL fn = false ∧ (s.dev.fnType fn = 2 → s.dev.unit 2 = true))
    (h : s.dev.fnPresent fn = true ∧ s.dev.on R.FN_STATUS_DISABLING fn = false) :
    ∃ t, exec (.quiesce req fn) s = .next t ∧ t.dev.on R.FN_STATUS_DISABLING fn = true ∧ t.dev.on R.FN_STATUS_IDLE fn = false ∧
      t.dev.rd R.FN_STATUS_CAUSE fn = 6 ∧ fn ∈ t.dev.fnOut ∧
      t.dev.rd R.FN_DISABLES fn = (s.dev.rd R.FN_DISABLES fn + 1) % 2 ^ R.FN_DISABLES.width ∧ t.dev.on R.FN_CTRL fn = true ∧
      (∀ r, s.dev.ringOwner r = some fn → t.dev.on R.RG_CTRL_ENABLE r = false) := by
  have hp : ((s.dev.sampleWrite req fn).flag R.FN_CTRL fn).fnPresent fn = true :=
    (Dev.fnPresent_wr (s.dev.sampleWrite req fn) (by decide) 1 fn 0 fn).trans h.1
  have hd : ((s.dev.sampleWrite req fn).flag R.FN_CTRL fn).on R.FN_STATUS_DISABLING fn = false :=
    (Dev.on_wr_apart (s.dev.sampleWrite req fn) (by decide) 1 fn 0 fn 0).trans h.2
  have hnow : Disabled s.dev _ fn 6 0 := (Dev.fnDisable_disabled _ 0 (by decide : 6 < 8) hp hd).prepared
    (Dev.rd_wr_apart (s.dev.sampleWrite req fn) (by decide) 1 fn 0 fn 0)
    (Dev.ringOwner_wr (s.dev.sampleWrite req fn) (by decide) (by decide) 1 fn 0)
  have hset := (Dev.fnDisable_leaves ((s.dev.sampleWrite req fn).flag R.FN_CTRL fn) fn 6 0).on (f := R.FN_CTRL) (c := fn) (by decide)
    (fun hown => absurd hown (by decide))
  exact ⟨_, exec_quiesce_sets s hreq hctrl, hnow.disabling, hnow.idle, hnow.cause, hnow.out, hnow.disables,
    hset.trans (Dev.on_flag _ _ fn 0 0 (by decide)), hnow.rings⟩

theorem quiesce_foreign (req fn : Nat) (s : State) (h : req ≠ 0 ∧ isHart req = false) :
    ∃ t, exec (.quiesce req fn) s = .next t ∧ t = s := by
  refine ⟨_, exec_quiesce req fn s, ?_⟩
  rw [State.onDev, if_neg]
  simp [h.1, h.2]

/-! ## Links (R198) -/

/-- A write beside UNIT_PRESENT and PC_MODE leaves which functions a link carries. -/
theorem Dev.linkFns_wr (d : Dev) {g : Field} (hunit : R.UNIT_PRESENT.apart g = true) (hmode : R.PC_MODE.apart g = true) (v c r link : Nat) :
    (d.wr g v c 0 r).linkFns link = d.linkFns link := by
  have hlink (n : Nat) : (d.wr g v c 0 r).fnLink n = d.fnLink n := by
    rw [Dev.fnLink, Dev.on_wr_apart d hmode]
    rfl
  simp only [Dev.linkFns, Dev.fnPresent_wr d hunit, hlink]
  rfl

/-- The registers of a link that goes down: PC_LINK.UP clears, with LINK_CHG where it was set, and PC_RETRAIN counts. -/
def Dev.linkLost (d : Dev) (link : Nat) : Dev :=
  ((d.when (d.on R.PC_LINK_UP link) (fun e => e.flag R.PC_EVENTS_LINK_CHG link)).wr R.PC_LINK_UP 0 link).count R.PC_RETRAIN 1 link

section
variable (d : Dev) (link : Nat)

theorem Dev.linkLost_rd {f : Field} (hchg : f.apart R.PC_EVENTS_LINK_CHG = true) (hup : f.apart R.PC_LINK_UP = true)
    (hretrain : f.apart R.PC_RETRAIN = true) (c : Nat) : (d.linkLost link).rd f c = d.rd f c := by
  rw [Dev.linkLost, Dev.count, Dev.rd_wr_apart _ hretrain, Dev.rd_wr_apart _ hup, Dev.when]
  split
  · rw [Dev.flag, Dev.rd_wr_apart _ hchg]
  · rfl

theorem Dev.linkLost_retrain : (d.linkLost link).rd R.PC_RETRAIN link = (d.rd R.PC_RETRAIN link + 1) % 2 ^ R.PC_RETRAIN.width := by
  rw [Dev.linkLost, Dev.rd_count, Dev.rd_wr_apart _ (by decide), Dev.when]
  split
  · rw [Dev.flag, Dev.rd_wr_apart _ (by decide)]
  · rfl

theorem Dev.linkLost_up : (d.linkLost link).on R.PC_LINK_UP link = false := by
  rw [Dev.linkLost, Dev.count, Dev.on_wr_apart _ (by decide), Dev.on_wr_zero]

theorem Dev.linkLost_host : (d.linkLost link).host = d.host := by
  rw [Dev.linkLost, Dev.count_host, Dev.wr_host, Dev.when]
  split
  · rfl
  · rfl

theorem Dev.linkLost_fnPresent (n : Nat) : (d.linkLost link).fnPresent n = d.fnPresent n :=
  Dev.fnPresent_congr (by rw [Dev.linkLost_host]) (fun n => by rw [Dev.fn, Dev.linkLost_host, Dev.fn])
    (Dev.linkLost_rd d link (by decide) (by decide) (by decide) 0) n

/-- A link that drops has its registers changed, and then each of its functions disabled with code 4. -/
theorem Dev.linkDrop_eq : d.linkDrop link = (d.linkLost link).each (d.linkFns link) (fun e fn => e.fnDisable fn 4 2) := by
  have hfns : ((d.when (d.on R.PC_LINK_UP link) (fun e => e.flag R.PC_EVENTS_LINK_CHG link)).wr R.PC_LINK_UP 0 link).linkFns link =
      d.linkFns link := by
    rw [Dev.linkFns_wr _ (by decide) (by decide), Dev.when]
    split
    · rw [Dev.flag, Dev.linkFns_wr _ (by decide) (by decide)]
    · rfl
  rw [Dev.linkDrop, hfns, Dev.linkLost]

/-- A register of the links reads, after the drop, as the loss left it. -/
theorem Dev.linkDrop_rd {f : Field} (hf : (outsideWork f.addr && !ownDisable f.addr) = true) :
    (d.linkDrop link).rd f link = (d.linkLost link).rd f link := by
  rw [Dev.linkDrop_eq, Dev.each_fnDisable_rd _ _ _ _ hf]

theorem Dev.linkDrop_disabling {n : Nat} (hn : n ∈ d.linkFns link) : (d.linkDrop link).on R.FN_STATUS_DISABLING n = true := by
  have hp : d.fnPresent n = true := by
    have hmem := (List.mem_filter.mp hn).2
    exact (Bool.and_eq_true_iff.mp hmem).1
  rw [Dev.linkDrop_eq]
  exact Dev.each_fnDisable_disabling _ 2 (by decide) hn ((Dev.linkLost_fnPresent d link n).trans hp)

end

section
variable (s : State) (hout : s.dev.hostReset = false)
include hout

theorem exec_linkReset_hot : exec (.linkReset 0 0) s = .next (s.onDev (fun d => (d.flag R.PC_EVENTS_HOT_RESET).linkDrop 0)) := by
  simp [exec, execLinkReset, State.onDev, hout, Dev.when]

theorem exec_linkReset_dlDown : exec (.linkReset 0 1) s = .next (s.onDev (fun d => (d.flag R.PC_EVENTS_DL_DOWN).linkDrop 0)) := by
  simp [exec, execLinkReset, State.onDev, hout, Dev.when]

end

/-- A link reset leaves its event, the count, the link down and every function of the link being disabled. -/
theorem Dev.flag_linkDrop (d : Dev) {f : Field} (hf : f = R.PC_EVENTS_HOT_RESET ∨ f = R.PC_EVENTS_DL_DOWN) :
    ((d.flag f).linkDrop 0).rd R.PC_RETRAIN = (d.rd R.PC_RETRAIN + 1) % 2 ^ R.PC_RETRAIN.width ∧
      ((d.flag f).linkDrop 0).on R.PC_LINK_UP = false ∧ ((d.flag f).linkDrop 0).on f = true ∧
      ∀ n, n ∈ d.linkFns 0 → ((d.flag f).linkDrop 0).on R.FN_STATUS_DISABLING n = true := by
  refine ⟨?_, ?_, ?_, fun n hn => Dev.linkDrop_disabling _ 0 ?_⟩
  · rw [Dev.linkDrop_rd _ 0 (by decide), Dev.linkLost_retrain, Dev.flag, Dev.rd_wr_apart]
    rcases hf with rfl | rfl <;> decide
  · rw [Dev.on, Dev.linkDrop_rd _ 0 (by decide)]
    exact Dev.linkLost_up _ 0
  · have hset : (d.flag f).on f = true := Dev.on_flag d f 0 0 0 (by rcases hf with rfl | rfl <;> decide)
    rw [Dev.on, Dev.linkDrop_rd, Dev.linkLost_rd]
    · exact hset
    all_goals rcases hf with rfl | rfl <;> decide
  · rw [Dev.flag, Dev.linkFns_wr]
    · exact hn
    all_goals rcases hf with rfl | rfl <;> decide

theorem linkReset_drops (k : Nat) (s : State) (h : s.dev.hostReset = false ∧ k ≤ 1) :
    ∃ t, exec (.linkReset 0 k) s = .next t ∧ t.dev.rd R.PC_RETRAIN = (s.dev.rd R.PC_RETRAIN + 1) % 2 ^ R.PC_RETRAIN.width ∧
      t.dev.on R.PC_LINK_UP = false ∧ (k = 0 → t.dev.on R.PC_EVENTS_HOT_RESET = true) ∧ (k = 1 → t.dev.on R.PC_EVENTS_DL_DOWN = true) ∧
      (∀ fn, fn ∈ s.dev.linkFns 0 → t.dev.on R.FN_STATUS_DISABLING fn = true) := by
  obtain ⟨hout, hk⟩ := h
  rcases Nat.le_one_iff_eq_zero_or_eq_one.mp hk with rfl | rfl
  · obtain ⟨hretrain, hup, hevent, hfns⟩ := Dev.flag_linkDrop s.dev (.inl rfl)
    exact ⟨_, exec_linkReset_hot s hout, hretrain, hup, fun _ => hevent, fun h => absurd h Nat.zero_ne_one, hfns⟩
  · obtain ⟨hretrain, hup, hevent, hfns⟩ := Dev.flag_linkDrop s.dev (.inr rfl)
    exact ⟨_, exec_linkReset_dlDown s hout, hretrain, hup, fun h => absurd h Nat.one_ne_zero, fun _ => hevent, hfns⟩

theorem linkReset_inReset (l k : Nat) (s : State) (h : s.dev.hostReset = true) : ∃ t, exec (.linkReset l k) s = .next t ∧ t = s :=
  ⟨_, rfl, by simp [State.onDev, h]⟩

/-- PC_LINK and PC_EVENTS of a link that comes up; `full` is its width when nothing has degraded it (Table 8.12). -/
def Dev.linkShow (d : Dev) (speed width full : Nat) (flit : Bool) : Dev :=
  (((((d.when (!d.on R.PC_LINK_UP) (fun e => e.flag R.PC_EVENTS_LINK_CHG)).wr R.PC_LINK_SPEED speed).wr R.PC_LINK_WIDTH width).flag
    R.PC_LINK_UP).wr R.PC_LINK_FLIT (b2n flit)).wr R.PC_LINK_DEGRADED (b2n (decide (speed < 3 ∨ width < full)))

theorem exec_pcieLinkUp (v w : Nat) (fl : Bool) (s : State) (h : s.dev.hostReset = false) : exec (.pcieLinkUp 0 v w fl) s =
    .next (s.onDev (fun d => d.linkShow v w (if d.on R.PC_MODE then 8 else 16) fl)) := by
  simp [exec, execPcieLinkUp, State.onDev, h, Dev.linkShow]

section
variable (d : Dev) (v w full : Nat) (fl : Bool)

theorem Dev.linkShow_up : (d.linkShow v w full fl).on R.PC_LINK_UP = true := by
  rw [Dev.linkShow, Dev.on_wr_apart _ (by decide), Dev.on_wr_apart _ (by decide), Dev.on_flag _ _ _ _ _ (by decide)]

theorem Dev.linkShow_speed : (d.linkShow v w full fl).rd R.PC_LINK_SPEED = v % 2 ^ R.PC_LINK_SPEED.width := by
  rw [Dev.linkShow, Dev.rd_wr_apart _ (by decide), Dev.rd_wr_apart _ (by decide), Dev.flag, Dev.rd_wr_apart _ (by decide),
    Dev.rd_wr_apart _ (by decide), Dev.rd_wr]

theorem Dev.linkShow_width : (d.linkShow v w full fl).rd R.PC_LINK_WIDTH = w % 2 ^ R.PC_LINK_WIDTH.width := by
  rw [Dev.linkShow, Dev.rd_wr_apart _ (by decide), Dev.rd_wr_apart _ (by decide), Dev.flag, Dev.rd_wr_apart _ (by decide), Dev.rd_wr]

theorem Dev.linkShow_flit : (d.linkShow v w full fl).on R.PC_LINK_FLIT = fl := by
  rw [Dev.linkShow, Dev.on_wr_apart _ (by decide), Dev.on_wr_b2n _ _ _ _ _ _ (by decide)]

theorem Dev.linkShow_change (h : d.on R.PC_LINK_UP = false) : (d.linkShow v w full fl).on R.PC_EVENTS_LINK_CHG = true := by
  rw [Dev.linkShow, Dev.on_wr_apart _ (by decide), Dev.on_wr_apart _ (by decide), Dev.flag, Dev.on_wr_apart _ (by decide),
    Dev.on_wr_apart _ (by decide), Dev.on_wr_apart _ (by decide), h]
  exact Dev.on_flag _ _ _ _ _ (by decide)

theorem Dev.linkShow_regs : RegsBut d (d.linkShow v w full fl) [R.PC_LINK_UP.key 0 0 0, R.PC_LINK_SPEED.key 0 0 0,
    R.PC_LINK_WIDTH.key 0 0 0, R.PC_LINK_FLIT.key 0 0 0, R.PC_LINK_DEGRADED.key 0 0 0, R.PC_EVENTS_LINK_CHG.key 0 0 0] := by
  refine RegsBut.wr (RegsBut.wr (RegsBut.flag (RegsBut.wr (RegsBut.wr ?_ (by simp) _) (by simp) _) (by simp)) (by simp) _) (by simp) _
  unfold Dev.when
  split
  · exact (RegsBut.refl d _).flag (by simp)
  · exact RegsBut.refl d _

theorem Dev.linkShow_eq : d.linkShow v w full fl = { d with regs := (d.linkShow v w full fl).regs } := by
  rw [Dev.linkShow, Dev.when]
  split
  · rfl
  · rfl

end

theorem pcieLinkUp_shows (v w : Nat) (fl : Bool) (s : State) (h : s.dev.hostReset = false) :
    ∃ t, exec (.pcieLinkUp 0 v w fl) s = .next t ∧ t.dev.on R.PC_LINK_UP = true ∧
      t.dev.rd R.PC_LINK_SPEED = v % 2 ^ R.PC_LINK_SPEED.width ∧ t.dev.rd R.PC_LINK_WIDTH = w % 2 ^ R.PC_LINK_WIDTH.width ∧
      t.dev.on R.PC_LINK_FLIT = fl ∧ (s.dev.on R.PC_LINK_UP = false → t.dev.on R.PC_EVENTS_LINK_CHG = true) ∧
      OnlyRegs s t [R.PC_LINK_UP.key 0 0 0, R.PC_LINK_SPEED.key 0 0 0, R.PC_LINK_WIDTH.key 0 0 0, R.PC_LINK_FLIT.key 0 0 0,
        R.PC_LINK_DEGRADED.key 0 0 0, R.PC_EVENTS_LINK_CHG.key 0 0 0] := by
  refine ⟨_, exec_pcieLinkUp v w fl s h, Dev.linkShow_up _ _ _ _ _, Dev.linkShow_speed _ _ _ _ _, Dev.linkShow_width _ _ _ _ _,
    Dev.linkShow_flit _ _ _ _ _, fun hup => Dev.linkShow_change _ _ _ _ _ hup, ?_, Dev.linkShow_regs _ _ _ _ _⟩
  exact congrArg (fun d => { s with dev := d }) (Dev.linkShow_eq s.dev v w _ fl)

/-! ## The statement -/

/-- Settles O40: each command is one disable, or one for each of the functions that it reaches, after the change that is its own; a disable's
effect (`Dev.fnDisable_disabled`) stands under the disables of other functions (`Dev.fnDisable_leaves`). -/
theorem functionsAreDisabledByTheirCauses : Obligations.FunctionsAreDisabledByTheirCauses := by
  unfold Obligations.FunctionsAreDisabledByTheirCauses
  exact ⟨flr_disables, flr_joins, flr_absent, vfEnableClear_disables, bmeClear_disables, d3hotEntry_disables, quiesce_disables,
    quiesce_foreign, linkReset_drops, linkReset_inReset, pcieLinkUp_shows⟩

end Sys2Proof.Machine
end

