-- ==== Sys2Proof/Proofs/RingDelivery.lean ====
section
/-!
PROOFS. A frame for a ring that is out of use, as its report names its ingress port (R140, R228). PR_DROP_OTHER is an array of one counter for each
source, and nothing holds the index within its 17 elements.
-/
namespace Sys2Proof.Machine

/-- RX_DELIVER answers the state after the first waiting frame's turn. -/
theorem exec_rxDeliver (r : Nat) (s : State) : exec (.rxDeliver r) s = .next (s.onDev (fun d => d.rxDeliver r)) := rfl

/-- An ingress port so high that its element of PR_DROP_OTHER would lie at the address of CL_RING_MISS. -/
def strayPort : Nat := (R.CL_RING_MISS.addr - R.PR_DROP_OTHER.addr) / R.PR_DROP_OTHER.stride

/-- The drops of that port are the count of frames without a ring. -/
theorem Dev.rd_dropOther_strayPort (d : Dev) : d.rd R.PR_DROP_OTHER 0 strayPort = d.rd R.CL_RING_MISS := rfl

/-- So a frame from it without a ring counts there twice. -/
theorem Dev.ringMiss_strayPort (d : Dev) :
    (d.ringMiss strayPort).rd R.CL_RING_MISS = (min (d.rd R.CL_RING_MISS + 1) (2 ^ R.CL_RING_MISS.width - 1) + 1) % 2 ^ 64 := by
  rw [← Dev.rd_dropOther_strayPort, Dev.ringMiss, Dev.rd_count, Dev.rd_dropOther_strayPort, Dev.rd_countSat]
  rfl

/-- A frame of one byte that names the port. -/
def strayItem : RxItem := { bytes := [7#8], len := 64, port := strayPort }

/-- The block after reset, where no ring is enabled, with the frame waiting for ring 3. -/
def State.resetWithStray : State := State.reset.onDev (fun d => d.rxQueue 3 strayItem)

/-- Its delivery finds no ring. -/
theorem resetWithStray_rxDeliver : State.resetWithStray.dev.rxDeliver 3 = (State.resetWithStray.dev.rxPop 3).ringMiss strayPort := rfl

/-- Refutes O42: its thirteenth clause says that a frame for a ring that is not enabled raises CL_RING_MISS by one, whatever port the frame names.
For a frame of port 262,008, whose element of PR_DROP_OTHER has the key of CL_RING_MISS, RX_DELIVER raises it from 0 to 2. -/
theorem not_ringsTakeDoorbellsAndDeliver : ¬ Obligations.RingsTakeDoorbellsAndDeliver := by
  unfold Obligations.RingsTakeDoorbellsAndDeliver
  intro ⟨_, _, _, _, _, _, _, _, _, _, _, _, outOfUse_missed, _⟩
  obtain ⟨t, ht, hmiss, _⟩ := outOfUse_missed 3 strayItem [] State.resetWithStray (by decide +kernel) (by decide +kernel)
  rw [exec_rxDeliver] at ht
  injection ht with ht
  have hbefore : State.resetWithStray.dev.rd R.CL_RING_MISS = 0 := rfl
  have hpopped : (State.resetWithStray.dev.rxPop 3).rd R.CL_RING_MISS = 0 := rfl
  rw [← ht, State.onDev_dev, resetWithStray_rxDeliver, Dev.ringMiss_strayPort, hpopped, hbefore] at hmiss
  exact absurd hmiss (by decide)

end Sys2Proof.Machine
end

