-- ==== Sys2Proof/Proofs/RingDoorbells.lean ====
section
/-!
PROOFS. What a doorbell does to an enabled ring (R221), and what an error of a ring leaves (R235).
-/
namespace Sys2Proof.Machine

/-! ## An error of a ring (R235) -/

/-- The ring's status with the first cause and its index, and the event of class 11. -/
def Dev.ringMark (d : Dev) (r cause idx : Nat) : Dev :=
  (((d.flag R.RG_STATUS_ERR r).wr R.RG_STATUS_ERR_CAUSE cause r).wr R.RG_ERR_IDX idx r).raise 11 (srcNum 0x0B 2) r

/-- The first error of a ring marks it, and then only notifies. -/
theorem Dev.ringError_marks (d : Dev) {r : Nat} (herr : d.on R.RG_STATUS_ERR r = false) (cause idx : Nat) :
    OnlyHost (d.ringMark r cause idx) (d.ringError r cause idx) := by
  simp only [Dev.ringError, herr, Bool.false_eq_true, if_false]
  split
  · exact .refl _
  · exact .eqPost _ _ _ _

section
variable (d : Dev) (r cause idx : Nat)

theorem Dev.ringMark_err : (d.ringMark r cause idx).on R.RG_STATUS_ERR r = true := by
  rw [Dev.ringMark, Dev.raise_on, Dev.on_wr_apart _ (by decide), Dev.on_wr_apart _ (by decide), Dev.on_flag _ _ _ _ _ (by decide)]

theorem Dev.ringMark_cause : (d.ringMark r cause idx).rd R.RG_STATUS_ERR_CAUSE r = cause % 8 := by
  rw [Dev.ringMark, Dev.raise_rd, Dev.rd_wr_apart _ (by decide), Dev.rd_wr]
  rfl

theorem Dev.ringMark_pi : (d.ringMark r cause idx).rd R.RG_PI r = d.rd R.RG_PI r := by
  rw [Dev.ringMark, Dev.raise_rd, Dev.rd_wr_apart _ (by decide), Dev.rd_wr_apart _ (by decide), Dev.flag, Dev.rd_wr_apart _ (by decide)]

end

/-! ## Doorbells (R221) -/

section
variable (d : Dev) (r x : Nat)

theorem Dev.ringBell_ignores (h : d.on R.RG_STATUS_ERR r = true ∨ x = d.rd R.RG_PI r) : d.ringBell r x = d :=
  if_pos (by simpa using h)

section
variable (herr : d.on R.RG_STATUS_ERR r = false) (hne : x ≠ d.rd R.RG_PI r)
include herr hne

theorem Dev.ringBell_moves (h : x < lapMod (d.ringN r) ∧
    lapSub (d.ringN r) x (d.rd R.RG_PI r) ≤ 2 ^ d.ringN r - lapSub (d.ringN r) (d.rd R.RG_PI r) (d.rd R.RG_CI r)) :
    d.ringBell r x = d.wr R.RG_PI x r :=
  (if_neg (by simp [herr, hne])).trans (if_pos h)

theorem Dev.ringBell_overruns (h : lapMod (d.ringN r) ≤ x ∨
    2 ^ d.ringN r - lapSub (d.ringN r) (d.rd R.RG_PI r) (d.rd R.RG_CI r) < lapSub (d.ringN r) x (d.rd R.RG_PI r)) :
    d.ringBell r x = d.ringError r 1 (d.rd R.RG_PI r) :=
  (if_neg (by simp [herr, hne])).trans (if_neg (by omega))

end

end

section
variable (fn loc v r : Nat) (s : State) (hfn : s.dev.inService fn = true ∧ loc < s.dev.rd R.FN_RING_COUNT fn)
  (hr : r = s.dev.rd R.FN_RING_BASE fn + loc) (hon : s.dev.on R.RG_CTRL_ENABLE r = true)
include hfn hr hon

theorem exec_ringDoorbell_enabled : exec (.ringDoorbell fn loc v) s = .next { s with dev := s.dev.ringBell r (v % 2 ^ 17) } := by
  subst hr
  simp [exec, execRingDoorbell, State.onDev, hfn.1, Nat.not_le.mpr hfn.2, hon]

theorem ringDoorbell_ignored (h : s.dev.on R.RG_STATUS_ERR r = true ∨ v % 2 ^ 17 = s.dev.rd R.RG_PI r) :
    ∃ t, exec (.ringDoorbell fn loc v) s = .next t ∧ t = s := by
  rw [exec_ringDoorbell_enabled fn loc v r s hfn hr hon, Dev.ringBell_ignores _ _ _ h]
  exact ⟨_, rfl, rfl⟩

theorem ringDoorbell_moves (herr : s.dev.on R.RG_STATUS_ERR r = false)
    (h : v % 2 ^ 17 < lapMod (s.dev.ringN r) ∧ lapSub (s.dev.ringN r) (v % 2 ^ 17) (s.dev.rd R.RG_PI r) ≤
      2 ^ s.dev.ringN r - lapSub (s.dev.ringN r) (s.dev.rd R.RG_PI r) (s.dev.rd R.RG_CI r)) :
    ∃ t, exec (.ringDoorbell fn loc v) s = .next t ∧ t.dev.rd R.RG_PI r = v % 2 ^ 17 ∧ OnlyRegs s t [R.RG_PI.key r 0 0] := by
  rw [exec_ringDoorbell_enabled fn loc v r s hfn hr hon]
  refine ⟨_, rfl, ?_⟩
  by_cases hpi : v % 2 ^ 17 = s.dev.rd R.RG_PI r
  · rw [Dev.ringBell_ignores _ _ _ (.inr hpi)]
    exact ⟨hpi.symm, rfl, .refl _ _⟩
  · rw [Dev.ringBell_moves _ _ _ herr hpi h]
    exact ⟨(Dev.rd_wr _ _ _ _ _ _).trans (Nat.mod_mod _ _), rfl, (RegsBut.refl s.dev _).wr (by simp) _⟩

theorem ringDoorbell_overruns (h : s.dev.on R.RG_STATUS_ERR r = false ∧ v % 2 ^ 17 ≠ s.dev.rd R.RG_PI r)
    (hover : lapMod (s.dev.ringN r) ≤ v % 2 ^ 17 ∨ 2 ^ s.dev.ringN r - lapSub (s.dev.ringN r) (s.dev.rd R.RG_PI r) (s.dev.rd R.RG_CI r) <
      lapSub (s.dev.ringN r) (v % 2 ^ 17) (s.dev.rd R.RG_PI r)) :
    ∃ t, exec (.ringDoorbell fn loc v) s = .next t ∧ t.dev.on R.RG_STATUS_ERR r = true ∧ t.dev.rd R.RG_STATUS_ERR_CAUSE r = 1 ∧
      t.dev.rd R.RG_PI r = s.dev.rd R.RG_PI r := by
  have hmark := Dev.ringError_marks s.dev h.1 1 (s.dev.rd R.RG_PI r)
  rw [exec_ringDoorbell_enabled fn loc v r s hfn hr hon, Dev.ringBell_overruns _ _ _ h.1 h.2 hover]
  refine ⟨_, rfl, ?_, ?_, ?_⟩
  · rw [Dev.on, hmark.rd (by decide)]
    exact Dev.ringMark_err _ _ _ _
  · rw [hmark.rd (by decide), Dev.ringMark_cause]
  · rw [hmark.rd (by decide), Dev.ringMark_pi]

end

/-- Settles O45: a doorbell that is taken writes PI alone; one that overruns the ring marks its error, and the notification of the error reaches
the event queues only (`Dev.ringError_marks`). -/
theorem doorbellsMoveTheProducerIndex : Obligations.DoorbellsMoveTheProducerIndex := by
  unfold Obligations.DoorbellsMoveTheProducerIndex
  exact ⟨ringDoorbell_ignored, ringDoorbell_moves, ringDoorbell_overruns⟩

end Sys2Proof.Machine
end

