-- ==== Sys2Proof/Proofs/EventQueueRules.lean ====
section
/-!
PROOFS. What a notification does to its event queue and what it leaves (R236-R239, R241): a rule for each operation of an event queue.
-/
namespace Sys2Proof.Machine

/-! ## Reads that a change leaves -/

/-- Every field that lies apart from the listed ones reads alike in two devices. -/
def ReadsBut (l : List Field) (d e : Dev) : Prop := ∀ (f : Field) (c r : Nat), l.all f.apart = true → e.rd f c 0 r = d.rd f c 0 r

namespace ReadsBut

section
variable {l : List Field} {d e : Dev}

theorem refl (l : List Field) (d : Dev) : ReadsBut l d d := fun _ _ _ _ => rfl

theorem of_regs (h : e.regs = d.regs) : ReadsBut l d e := fun f c r _ => by rw [Dev.rd, h, Dev.rd]

theorem trans {e' : Dev} (h : ReadsBut l d e) (h' : ReadsBut l e e') : ReadsBut l d e' := fun f c r hf => (h' f c r hf).trans (h f c r hf)

theorem mono (h : ReadsBut l d e) {l' : List Field} (hl : l ⊆ l') : ReadsBut l' d e := fun f c r hf =>
  h f c r (List.all_eq_true.mpr fun g hg => List.all_eq_true.mp hf g (hl hg))

/-- A write to a listed field. -/
theorem wr (h : ReadsBut l d e) {g : Field} (hg : g ∈ l) (v c r : Nat) : ReadsBut l d (e.wr g v c 0 r) := fun f c' r' hf =>
  (Dev.rd_wr_apart e (List.all_eq_true.mp hf g hg) v c' r' c r).trans (h f c' r' hf)

/-- Steps that each leave them, one for each element of a list. -/
theorem each {α : Type} {f : Dev → α → Dev} (hf : ∀ e x, ReadsBut l e (f e x)) (xs : List α) (d : Dev) : ReadsBut l d (d.each xs f) :=
  Dev.each_keeps (fun e x _ he => he.trans (hf e x)) (refl l d)

theorem on (h : ReadsBut l d e) {f : Field} (hf : l.all f.apart = true) (c r : Nat) : e.on f c 0 r = d.on f c 0 r := by
  rw [Dev.on, h f c r hf, Dev.on]

end

end ReadsBut

/-! ## Posted writes and messages -/

theorem Dev.hostWrite_eq (d : Dev) {n : Nat} (hhost : d.hostReset = false) (hn : n ∉ d.fnOut) (addr : Nat) (b : Bytes) :
    d.hostWrite n addr b = d.setHost (fun h => { h with out := h.out ++ [⟨n, addr % 2 ^ 64, b⟩] }) := by
  simp [Dev.hostWrite, hhost, hn]

theorem Dev.hostWrite_regs (d : Dev) (n addr : Nat) (b : Bytes) : (d.hostWrite n addr b).regs = d.regs := by
  unfold Dev.hostWrite
  split
  · rfl
  · rfl

theorem Dev.msix_regs (d : Dev) (n v : Nat) : (d.msix n v).regs = d.regs := by
  unfold Dev.msix
  split
  · rfl
  · split
    · rfl
    · exact Dev.hostWrite_regs _ _ _ _

theorem Dev.eqSignal_regs (d : Dev) (q owner : Nat) : (d.eqSignal q owner).regs = d.regs := by
  unfold Dev.eqSignal
  split
  · rfl
  · dsimp only
    split
    · rfl
    · split
      · exact Dev.msix_regs _ _ _
      · exact Dev.msix_regs _ _ _

theorem RegsBut.setHost {d e : Dev} {l : List Key} (h : RegsBut d e l) (f : HostState → HostState) : RegsBut d (e.setHost f) l := h

/-- With INT_EN = 0 a notification signals nothing (R241). -/
theorem Dev.eqSignal_quiet (d : Dev) {q : Nat} (h : d.on R.EQ_CTRL_INT_EN q = false) (owner : Nat) : d.eqSignal q owner = d := by
  simp [Dev.eqSignal, h]

/-! ## Notifications -/

/-- The fields that a notification may change: those of its queue beside its settings (R236, R238, R242). -/
def noticeFields : List Field := [R.EQ_DISCARD, R.EQ_OVF, R.EQ_STATUS_OVF_PENDING, R.EQ_PI, R.EQ_STATUS_FULL]

/-- The address of the entry at EQ_PI (R236). -/
def Dev.eqAddr (d : Dev) (q : Nat) : Nat := d.rd R.EQ_BASE_HI q <<< 32 + d.rd R.EQ_BASE_LO q <<< 12 + 16 * (d.rd R.EQ_PI q % 2 ^ d.eqN q)

/-- The 16 bytes of a notification there, its kind and phase in the last (R236). -/
def Dev.eqEntry (d : Dev) (q kind : Nat) (b : Bytes) : Bytes :=
  slice b 0 15 ++ [BitVec.ofNat 8 (kind + 128 * (1 - lapBit (d.eqN q) (d.rd R.EQ_PI q)))]

/-- The two posted writes of a notification: bytes 0 to 11, then 12 to 15. -/
def Dev.eqWrite (d : Dev) (q kind : Nat) (b : Bytes) : Dev :=
  (d.hostWrite ((d.eqOwner q).getD 0) (d.eqAddr q) ((d.eqEntry q kind b).take 12)).hostWrite ((d.eqOwner q).getD 0) (d.eqAddr q + 12)
    ((d.eqEntry q kind b).drop 12)

theorem Dev.eqWrite_regs (d : Dev) (q kind : Nat) (b : Bytes) : (d.eqWrite q kind b).regs = d.regs := by
  rw [Dev.eqWrite, Dev.hostWrite_regs, Dev.hostWrite_regs]

/-- An enabled queue with space takes the notification (R236). -/
theorem Dev.eqPost_written (d : Dev) {q : Nat} (hhost : d.hostReset = false) (hon : d.on R.EQ_CTRL_ENABLE q = true)
    (hfull : d.eqFull q = false) (kind : Nat) (b : Bytes) :
    d.eqPost q kind b = (.written,
      (((d.eqWrite q kind b).wr R.EQ_PI ((d.rd R.EQ_PI q + 1) % lapMod (d.eqN q)) q).eqFullBit q).eqSignal q ((d.eqOwner q).getD 0)) := by
  simp only [Dev.eqPost, hhost, hon, hfull, Bool.not_true, Bool.false_eq_true, if_false]
  rfl

theorem Dev.eqPost_reads (d : Dev) (q kind : Nat) (b : Bytes) : ReadsBut noticeFields d (d.eqPost q kind b).2 := by
  unfold Dev.eqPost
  split
  · exact .refl _ d
  · split
    · exact (ReadsBut.refl _ d).wr (g := R.EQ_DISCARD) (by simp [noticeFields]) _ _ _
    · split
      · exact ((ReadsBut.refl _ d).wr (g := R.EQ_OVF) (by simp [noticeFields]) _ _ _).wr (g := R.EQ_STATUS_OVF_PENDING)
          (by simp [noticeFields]) _ _ _
      · exact (((ReadsBut.of_regs (d.eqWrite_regs q kind b)).wr (g := R.EQ_PI) (by simp [noticeFields]) _ _ _).wr
          (g := R.EQ_STATUS_FULL) (by simp [noticeFields]) _ _ _).trans (.of_regs (Dev.eqSignal_regs _ _ _))

theorem Dev.ringNotify_reads (d : Dev) (r : Nat) : ReadsBut (R.RG_STATUS_NOTIFY_PENDING :: noticeFields) d (d.ringNotify r) := by
  unfold Dev.ringNotify
  split
  · exact .refl _ d
  · split
    · exact .refl _ d
    · have hpost {q : Nat} {b : Bytes} : ReadsBut (R.RG_STATUS_NOTIFY_PENDING :: noticeFields) d (d.eqPost q 1 b).2 :=
        (d.eqPost_reads q 1 b).mono (List.subset_cons_self _ _)
      dsimp only
      split
      · exact hpost.wr (g := R.RG_STATUS_NOTIFY_PENDING) List.mem_cons_self _ _ _
      · exact hpost

/-! ## Catching up (R239) -/

theorem Dev.eqCatchUp_reads (d : Dev) (q : Nat) : ReadsBut (R.RG_STATUS_NOTIFY_PENDING :: noticeFields) d (d.eqCatchUp q) := by
  have hwaiters (e : Dev) (l : List Nat) : ReadsBut (R.RG_STATUS_NOTIFY_PENDING :: noticeFields) e
      (e.each l (fun e r => if e.eqFull q then e else (e.wr R.RG_STATUS_NOTIFY_PENDING 0 r).ringNotify r)) := by
    refine .each (fun x r => ?_) l e
    split
    · exact .refl _ x
    · exact ((ReadsBut.refl _ x).wr (g := R.RG_STATUS_NOTIFY_PENDING) List.mem_cons_self _ _ _).trans (Dev.ringNotify_reads _ r)
  unfold Dev.eqCatchUp
  split
  · exact .refl _ d
  · dsimp only
    split
    · exact (((d.eqPost_reads q 2 _).mono (List.subset_cons_self _ _)).wr (g := R.EQ_STATUS_OVF_PENDING) (by simp [noticeFields]) _ _ _).trans
        (hwaiters _ _)
    · exact hwaiters _ _

/-- A write beside the fields from which the waiting rings of a queue follow leaves them (R237). -/
theorem Dev.eqWaiters_wr (d : Dev) {g : Field} (hg : [R.RG_STATUS_NOTIFY_PENDING, R.RG_CFG_EQ_EN, R.RG_CFG_EQ, R.FN_EQ_BASE, R.FN_RING_BASE,
    R.FN_RING_COUNT].all (Field.apart · g) = true) (v c n q : Nat) : (d.wr g v c 0 n).eqWaiters q = d.eqWaiters q := by
  simp only [List.all_cons, List.all_nil, Bool.and_true, Bool.and_eq_true] at hg
  obtain ⟨hpending, hen, heq, heqBase, hbase, hcount⟩ := hg
  have hringEq (r : Nat) : (d.wr g v c 0 n).ringEq r = d.ringEq r := by
    simp only [Dev.ringEq, Dev.on_wr_apart d hen, Dev.ringOwner_wr d hbase hcount, Dev.rd_wr_apart d heqBase, Dev.rd_wr_apart d heq]
  simp only [Dev.eqWaiters, Dev.chans_wr_apart hpending, hringEq]

/-- A write beside FN_EQ_BASE and FN_EQ_COUNT leaves who owns a queue (R218). -/
theorem Dev.eqOwner_wr (d : Dev) {g : Field} (hbase : R.FN_EQ_BASE.apart g = true) (hcount : R.FN_EQ_COUNT.apart g = true) (v c n q : Nat) :
    (d.wr g v c 0 n).eqOwner q = d.eqOwner q := by
  simp only [Dev.eqOwner, Dev.ownerOf, Dev.chans_wr_apart hcount, Dev.rd_wr_apart d hbase, Dev.rd_wr_apart d hcount]

theorem Dev.eqWaiters_congr {d e : Dev} (h : e.regs = d.regs) (q : Nat) : e.eqWaiters q = d.eqWaiters q := by
  have he : e = { e with regs := d.regs } := by rw [← h]
  rw [he]
  rfl

/-- With space, the overflow pending, no ring waiting and no interrupt, the queue takes one OVERFLOW notification (R239). -/
theorem Dev.eqCatchUp_overflow (d : Dev) {q : Nat} (hhost : d.hostReset = false) (hon : d.on R.EQ_CTRL_ENABLE q = true)
    (hint : d.on R.EQ_CTRL_INT_EN q = false) (hfull : d.eqFull q = false) (hpending : d.on R.EQ_STATUS_OVF_PENDING q = true)
    (hwait : d.eqWaiters q = []) :
    d.eqCatchUp q = (((d.eqWrite q 2 (leBytes 4 (d.rd R.EQ_OVF q))).wr R.EQ_PI ((d.rd R.EQ_PI q + 1) % lapMod (d.eqN q)) q).eqFullBit q).wr
      R.EQ_STATUS_OVF_PENDING 0 q := by
  have hregs := d.eqWrite_regs q 2 (leBytes 4 (d.rd R.EQ_OVF q))
  have hquiet (v : Nat) : (((d.eqWrite q 2 (leBytes 4 (d.rd R.EQ_OVF q))).wr R.EQ_PI v q).eqFullBit q).on R.EQ_CTRL_INT_EN q = false := by
    rw [Dev.eqFullBit, Dev.on_wr_apart _ (by decide), Dev.on_wr_apart _ (by decide), Dev.on, Dev.rd, hregs]
    exact hint
  have hnone (v : Nat) : ((((d.eqWrite q 2 (leBytes 4 (d.rd R.EQ_OVF q))).wr R.EQ_PI v q).eqFullBit q).wr
      R.EQ_STATUS_OVF_PENDING 0 q).eqWaiters q = [] := by
    rw [Dev.eqWaiters_wr _ (by decide), Dev.eqFullBit, Dev.eqWaiters_wr _ (by decide), Dev.eqWaiters_wr _ (by decide),
      Dev.eqWaiters_congr hregs, hwait]
  simp only [Dev.eqCatchUp, hfull, hpending, Bool.false_eq_true, if_false, if_true, Dev.eqPost_written d hhost hon hfull,
    Dev.eqSignal_quiet _ (hquiet _), hnone]
  rfl

/-- Its two posted writes enter the outbound queue. -/
theorem Dev.eqWrite_out (d : Dev) {q : Nat} (hhost : d.hostReset = false) (hown : (d.eqOwner q).getD 0 ∉ d.fnOut) (kind : Nat) (b : Bytes) :
    (d.eqWrite q kind b).host.out = d.host.out ++
      [⟨(d.eqOwner q).getD 0, d.eqAddr q % 2 ^ 64, (d.eqEntry q kind b).take 12⟩,
       ⟨(d.eqOwner q).getD 0, (d.eqAddr q + 12) % 2 ^ 64, (d.eqEntry q kind b).drop 12⟩] := by
  rw [Dev.eqWrite, Dev.hostWrite_eq d hhost hown, Dev.hostWrite_eq (d.setHost _) hhost hown]
  simp

theorem leBytes_length (n v : Nat) : (leBytes n v).length = n := by
  induction n generalizing v with
  | zero => rfl
  | succ n ih => simp [leBytes, ih]

/-- A notification of four bytes carries them first. -/
theorem Dev.eqEntry_take (d : Dev) (q kind v : Nat) : ((d.eqEntry q kind (leBytes 4 v)).take 12).take 4 = leBytes 4 v := by
  have hlen := leBytes_length 4 v
  simp [Dev.eqEntry, slice, hlen, List.take_append, List.take_of_length_le]

end Sys2Proof.Machine
end

