-- ==== Sys2Proof/Proofs/EventQueues.lean ====
section
/-!
PROOFS. Event queues as software commands them: enable and disable (R242), the consumer index (R239, R240), the moderation timer (R241).
-/
namespace Sys2Proof.Machine

/-! ## Commands -/

section
variable {req q : Nat} (s : State) (h : s.dev.eqReach req q = true)
include h

theorem exec_eqCiWrite (v : Nat) : exec (.eqCiWrite req q v) s =
    .next { s with dev := (s.dev.sampleWrite req v).eqCi q (v % 2 ^ 17) } := by
  simp [exec, execEqCiWrite, State.onDev, h]

theorem exec_eqEnable : exec (.eqEnable req q) s = .next { s with dev := (s.dev.sampleWrite req q).eqEnable q } := by
  simp [exec, execEqEnable, State.onDev, h]

theorem exec_eqDisable : exec (.eqDisable req q) s = .next { s with dev := (s.dev.sampleWrite req q).eqDisable q } := by
  simp [exec, execEqDisable, State.onDev, h]

end

/-! ## The consumer index (R239, R240) -/

/-- EQ_CI moves, and FULL follows. -/
def Dev.eqMoved (d : Dev) (q c : Nat) : Dev := (d.wr R.EQ_CI c q).eqFullBit q

section
variable (d : Dev) (q c : Nat)

theorem Dev.eqMoved_reads : ReadsBut [R.EQ_CI, R.EQ_STATUS_FULL] d (d.eqMoved q c) :=
  ((ReadsBut.refl _ d).wr (g := R.EQ_CI) (by simp) _ _ _).wr (g := R.EQ_STATUS_FULL) (by simp) _ _ _

theorem Dev.eqMoved_ci : (d.eqMoved q c).rd R.EQ_CI q = c % 2 ^ 17 := by
  rw [Dev.eqMoved, Dev.eqFullBit, Dev.rd_wr_apart _ (by decide), Dev.rd_wr]
  rfl

theorem Dev.eqMoved_eqN : (d.eqMoved q c).eqN q = d.eqN q := d.eqMoved_reads q c R.EQ_CFG_LOG2_SIZE q 0 (by decide)

theorem Dev.eqMoved_eqWaiters (p : Nat) : (d.eqMoved q c).eqWaiters p = d.eqWaiters p := by
  rw [Dev.eqMoved, Dev.eqFullBit, Dev.eqWaiters_wr _ (by decide), Dev.eqWaiters_wr _ (by decide)]

theorem Dev.eqMoved_eqOwner (p : Nat) : (d.eqMoved q c).eqOwner p = d.eqOwner p := by
  rw [Dev.eqMoved, Dev.eqFullBit, Dev.eqOwner_wr _ (by decide) (by decide), Dev.eqOwner_wr _ (by decide) (by decide)]

/-- The queue has space after the move where its new distance is not its size (R236). -/
theorem Dev.eqMoved_eqFull (hc : c < 2 ^ 17) (hspace : lapSub (d.eqN q) (d.rd R.EQ_PI q) c ≠ 2 ^ d.eqN q) :
    (d.eqMoved q c).eqFull q = false := by
  rw [Dev.eqFull, Dev.eqMoved_eqN, Dev.eqMoved_ci, Nat.mod_eq_of_lt hc, d.eqMoved_reads q c R.EQ_PI q 0 (by decide)]
  exact beq_false_of_ne hspace

theorem Dev.eqCi_accepts (hidx : c < lapMod (d.eqN q))
    (hle : lapSub (d.eqN q) (d.rd R.EQ_PI q) c ≤ lapSub (d.eqN q) (d.rd R.EQ_PI q) (d.rd R.EQ_CI q)) :
    d.eqCi q c = (d.eqMoved q c).eqCatchUp q := if_neg (by omega)

theorem Dev.eqCi_refuses (h : lapMod (d.eqN q) ≤ c ∨
    lapSub (d.eqN q) (d.rd R.EQ_PI q) (d.rd R.EQ_CI q) < lapSub (d.eqN q) (d.rd R.EQ_PI q) c) : d.eqCi q c = d.flag R.EQ_STATUS_CI_REFUSED q :=
  if_pos h

end

/-- What the queue catches up with leaves the index that software wrote. -/
theorem Dev.eqCatchUp_ci (d : Dev) (q c : Nat) : ((d.eqMoved q c).eqCatchUp q).rd R.EQ_CI q = c % 2 ^ 17 := by
  rw [Dev.eqCatchUp_reads _ q R.EQ_CI q 0 (by decide), Dev.eqMoved_ci]

theorem eqCiWrite_accepted (req q v : Nat) (s : State) (hreach : s.dev.eqReach req q = true) (hidx : v % 2 ^ 17 < lapMod (s.dev.eqN q))
    (hle : lapSub (s.dev.eqN q) (s.dev.rd R.EQ_PI q) (v % 2 ^ 17) ≤ lapSub (s.dev.eqN q) (s.dev.rd R.EQ_PI q) (s.dev.rd R.EQ_CI q)) :
    ∃ t, exec (.eqCiWrite req q v) s = .next t ∧ t.dev.rd R.EQ_CI q = v % 2 ^ 17 := by
  refine ⟨_, exec_eqCiWrite s hreach v, ?_⟩
  rw [Dev.eqCi_accepts (s.dev.sampleWrite req v) q _ hidx hle, Dev.eqCatchUp_ci, Nat.mod_mod]

theorem eqCiWrite_refused (req q v : Nat) (s : State) (hreach : s.dev.eqReach req q = true)
    (h : lapMod (s.dev.eqN q) ≤ v % 2 ^ 17 ∨ lapSub (s.dev.eqN q) (s.dev.rd R.EQ_PI q) (s.dev.rd R.EQ_CI q) <
      lapSub (s.dev.eqN q) (s.dev.rd R.EQ_PI q) (v % 2 ^ 17)) :
    ∃ t, exec (.eqCiWrite req q v) s = .next t ∧ t.dev.on R.EQ_STATUS_CI_REFUSED q = true ∧ t.dev.rd R.EQ_CI q = s.dev.rd R.EQ_CI q ∧
      OnlyRegsTick s t [R.EQ_STATUS_CI_REFUSED.key q 0 0] := by
  rw [exec_eqCiWrite s hreach, Dev.eqCi_refuses (s.dev.sampleWrite req v) q _ h]
  exact ⟨_, rfl, Dev.on_flag _ _ _ _ _ (by decide), Dev.rd_wr_apart _ (by decide) _ _ _ _ _, rfl, (RegsBut.refl s.dev _).flag (by simp)⟩

/-- Settles O43: an accepted index stands through what the queue then catches up with (`Dev.eqCatchUp_ci`); a refused one is one flag. -/
theorem anIndexWriteIsAcceptedOrRefused : Obligations.AnIndexWriteIsAcceptedOrRefused := by
  unfold Obligations.AnIndexWriteIsAcceptedOrRefused
  exact ⟨eqCiWrite_accepted, eqCiWrite_refused⟩

/-! ## Catching up (R239) -/

theorem eqCiWrite_catchesUp (req q c : Nat) (s : State)
    (h : s.dev.eqReach req q = true ∧ s.dev.hostReset = false ∧ s.dev.on R.EQ_CTRL_ENABLE q = true ∧ s.dev.on R.EQ_CTRL_INT_EN q = false)
    (hc : c < lapMod (s.dev.eqN q) ∧ c < 2 ^ 17 ∧
      lapSub (s.dev.eqN q) (s.dev.rd R.EQ_PI q) c ≤ lapSub (s.dev.eqN q) (s.dev.rd R.EQ_PI q) (s.dev.rd R.EQ_CI q))
    (hspace : lapSub (s.dev.eqN q) (s.dev.rd R.EQ_PI q) c ≠ 2 ^ s.dev.eqN q)
    (hpending : s.dev.on R.EQ_STATUS_OVF_PENDING q = true ∧ s.dev.eqWaiters q = []) (hown : (s.dev.eqOwner q).getD 0 ∉ s.dev.fnOut) :
    ∃ t, exec (.eqCiWrite req q c) s = .next t ∧ t.dev.rd R.EQ_CI q = c ∧ t.dev.on R.EQ_STATUS_OVF_PENDING q = false ∧
      t.dev.rd R.EQ_PI q = (s.dev.rd R.EQ_PI q + 1) % lapMod (s.dev.eqN q) % 2 ^ R.EQ_PI.width ∧
      ∃ u v, t.dev.host.out = s.dev.host.out ++ [u, v] ∧ u.bytes.take 4 = leBytes 4 (s.dev.rd R.EQ_OVF q) := by
  obtain ⟨hreach, hhost, hon, hint⟩ := h
  obtain ⟨hidx, hwidth, hle⟩ := hc
  obtain ⟨hpend, hwait⟩ := hpending
  let d := (s.dev.sampleWrite req c).eqMoved q c
  have hreads : ReadsBut _ s.dev d := Dev.eqMoved_reads (s.dev.sampleWrite req c) q c
  have hpi : d.rd R.EQ_PI q = s.dev.rd R.EQ_PI q := hreads _ _ _ (by decide)
  have hovf : d.rd R.EQ_OVF q = s.dev.rd R.EQ_OVF q := hreads _ _ _ (by decide)
  have heqN : d.eqN q = s.dev.eqN q := Dev.eqMoved_eqN (s.dev.sampleWrite req c) q c
  have hci : (d.eqCatchUp q).rd R.EQ_CI q = c := by rw [Dev.eqCatchUp_ci, Nat.mod_eq_of_lt hwidth]
  have howner : (d.eqOwner q).getD 0 ∉ d.fnOut := by
    rw [Dev.eqMoved_eqOwner (s.dev.sampleWrite req c) q c]
    exact hown
  have hcatch := Dev.eqCatchUp_overflow d hhost ((hreads.on (by decide) _ _).trans hon) ((hreads.on (by decide) _ _).trans hint)
    (Dev.eqMoved_eqFull (s.dev.sampleWrite req c) q c hwidth hspace) ((hreads.on (by decide) _ _).trans hpend)
    ((Dev.eqMoved_eqWaiters (s.dev.sampleWrite req c) q c q).trans hwait)
  rw [exec_eqCiWrite s hreach, Nat.mod_eq_of_lt hwidth, Dev.eqCi_accepts (s.dev.sampleWrite req c) q c hidx hle]
  refine ⟨_, rfl, hci, ?_, ?_, ?_⟩
  · rw [hcatch, Dev.on_wr_zero]
  · rw [hcatch, Dev.rd_wr_apart _ (by decide), Dev.eqFullBit, Dev.rd_wr_apart _ (by decide), Dev.rd_wr, hpi, heqN]
  · rw [hcatch, Dev.wr_host, Dev.eqFullBit, Dev.wr_host, Dev.wr_host, Dev.eqWrite_out d hhost howner, hovf]
    exact ⟨_, _, rfl, Dev.eqEntry_take d q 2 _⟩

/-! ## Enable and disable (R242) -/

/-- The registers of a queue that starts. -/
def Dev.eqStart (d : Dev) (q : Nat) : Dev :=
  ((((d.wr R.EQ_PI 0 q).wr R.EQ_CI 0 q).wr R.EQ_OVF 0 q).wr R.EQ_STATUS_FULL 0 q).flag R.EQ_CTRL_ENABLE q

section
variable (d : Dev) {q : Nat} (hoff : d.on R.EQ_CTRL_ENABLE q = false)
include hoff

theorem Dev.eqEnable_starts (h : d.eqCause q = 0) : d.eqEnable q = d.eqStart q := by
  simp only [Dev.eqEnable, hoff, h, Bool.false_eq_true, ne_eq, not_true_eq_false, if_false]
  rfl

theorem Dev.eqEnable_refuses (h : d.eqCause q ≠ 0) : d.eqEnable q = d.eqRefused q (d.eqCause q) := by
  simp only [Dev.eqEnable, hoff, Bool.false_eq_true, if_false, if_pos h]

end

/-- The causes of R242 fit EQ_STATUS.CAUSE. -/
theorem Dev.eqCause_lt (d : Dev) (q : Nat) : d.eqCause q < 8 := by
  unfold Dev.eqCause
  split
  · decide
  · split
    · decide
    · split
      · decide
      · decide

section
variable (d : Dev) (q : Nat)

theorem Dev.eqStart_pi : (d.eqStart q).rd R.EQ_PI q = 0 := by
  rw [Dev.eqStart, Dev.flag, Dev.rd_wr_apart _ (by decide), Dev.rd_wr_apart _ (by decide), Dev.rd_wr_apart _ (by decide),
    Dev.rd_wr_apart _ (by decide), Dev.rd_wr, Nat.zero_mod]

theorem Dev.eqStart_ci : (d.eqStart q).rd R.EQ_CI q = 0 := by
  rw [Dev.eqStart, Dev.flag, Dev.rd_wr_apart _ (by decide), Dev.rd_wr_apart _ (by decide), Dev.rd_wr_apart _ (by decide), Dev.rd_wr,
    Nat.zero_mod]

theorem Dev.eqStart_ovf : (d.eqStart q).rd R.EQ_OVF q = 0 := by
  rw [Dev.eqStart, Dev.flag, Dev.rd_wr_apart _ (by decide), Dev.rd_wr_apart _ (by decide), Dev.rd_wr, Nat.zero_mod]

theorem Dev.eqStart_regs : RegsBut d (d.eqStart q) [R.EQ_CTRL_ENABLE.key q 0 0, R.EQ_PI.key q 0 0, R.EQ_CI.key q 0 0, R.EQ_OVF.key q 0 0,
    R.EQ_STATUS_FULL.key q 0 0] :=
  (((((RegsBut.refl d _).wr (by simp) _).wr (by simp) _).wr (by simp) _).wr (by simp) _).flag (by simp)

end

theorem eqEnable_accepted (req q : Nat) (s : State) (hreach : s.dev.eqReach req q = true)
    (h : s.dev.on R.EQ_CTRL_ENABLE q = false ∧ s.dev.eqCause q = 0) :
    ∃ t, exec (.eqEnable req q) s = .next t ∧ t.dev.on R.EQ_CTRL_ENABLE q = true ∧ t.dev.rd R.EQ_PI q = 0 ∧ t.dev.rd R.EQ_CI q = 0 ∧
      t.dev.rd R.EQ_OVF q = 0 ∧ OnlyRegsTick s t [R.EQ_CTRL_ENABLE.key q 0 0, R.EQ_PI.key q 0 0, R.EQ_CI.key q 0 0, R.EQ_OVF.key q 0 0,
        R.EQ_STATUS_FULL.key q 0 0] := by
  rw [exec_eqEnable s hreach, Dev.eqEnable_starts (s.dev.sampleWrite req q) h.1 h.2]
  exact ⟨_, rfl, Dev.on_flag _ _ _ _ _ (by decide), Dev.eqStart_pi _ q, Dev.eqStart_ci _ q, Dev.eqStart_ovf _ q, rfl,
    Dev.eqStart_regs (s.dev.sampleWrite req q) q⟩

theorem eqEnable_refused (req q : Nat) (s : State) (hreach : s.dev.eqReach req q = true)
    (h : s.dev.on R.EQ_CTRL_ENABLE q = false ∧ s.dev.eqCause q ≠ 0) :
    ∃ t, exec (.eqEnable req q) s = .next t ∧ t.dev.on R.EQ_STATUS_WR_REFUSED q = true ∧ t.dev.rd R.EQ_STATUS_CAUSE q = s.dev.eqCause q ∧
      OnlyRegsTick s t [R.EQ_STATUS_WR_REFUSED.key q 0 0, R.EQ_STATUS_CAUSE.key q 0 0] := by
  rw [exec_eqEnable s hreach, Dev.eqEnable_refuses (s.dev.sampleWrite req q) h.1 h.2]
  refine ⟨_, rfl, ?_, ?_, rfl, ((RegsBut.refl s.dev _).flag (by simp)).wr (by simp) _⟩
  · exact (Dev.on_wr_apart _ (by decide) _ _ _ _ _).trans (Dev.on_flag _ _ _ _ _ (by decide))
  · exact (Dev.rd_wr _ _ _ _ _ _).trans (Nat.mod_eq_of_lt (s.dev.eqCause_lt q))

/-- Enabling and the pending overflow off, the timer gone. -/
def Dev.eqOff (d : Dev) (q : Nat) : Dev :=
  ((d.wr R.EQ_CTRL_ENABLE 0 q).wr R.EQ_STATUS_OVF_PENDING 0 q).setHost (fun h => { h with timers := SMap.del h.timers q })

section
variable (d : Dev) (q : Nat)

theorem Dev.eqDisable_eq : d.eqDisable q = (d.eqOff q).each (d.eqWaiters q) (fun x r => x.wr R.RG_STATUS_NOTIFY_PENDING 0 r) := rfl

/-- Clearing the waiting rings' bits leaves every other field. -/
theorem Dev.eqDisable_reads : ReadsBut [R.RG_STATUS_NOTIFY_PENDING] (d.eqOff q) (d.eqDisable q) :=
  .each (fun x r => (ReadsBut.refl _ x).wr (g := R.RG_STATUS_NOTIFY_PENDING) (by simp) _ _ _) _ _

theorem Dev.eqDisable_host : (d.eqDisable q).host = (d.eqOff q).host :=
  Dev.each_keeps (Q := fun x => x.host = (d.eqOff q).host) (fun _ _ _ hx => hx) rfl

theorem Dev.eqDisable_off : (d.eqDisable q).on R.EQ_CTRL_ENABLE q = false := by
  rw [(d.eqDisable_reads q).on (by decide), Dev.eqOff, Dev.setHost_on, Dev.on_wr_apart _ (by decide), Dev.on_wr_zero]

theorem Dev.eqDisable_overflow : (d.eqDisable q).on R.EQ_STATUS_OVF_PENDING q = false := by
  rw [(d.eqDisable_reads q).on (by decide), Dev.eqOff, Dev.setHost_on, Dev.on_wr_zero]

theorem Dev.eqDisable_timer : SMap.get? (d.eqDisable q).host.timers q = none := by
  rw [Dev.eqDisable_host]
  exact SMap.get?_del_self _ _

/-- A ring's bit that is clear stays so when another's is cleared. -/
theorem Dev.on_pending_clear {e : Dev} {r : Nat} (h : e.on R.RG_STATUS_NOTIFY_PENDING r = false) (n : Nat) :
    (e.wr R.RG_STATUS_NOTIFY_PENDING 0 n).on R.RG_STATUS_NOTIFY_PENDING r = false := by
  by_cases hn : n = r
  · rw [hn, Dev.on_wr_zero]
  · have hkey : R.RG_STATUS_NOTIFY_PENDING.key r 0 0 ≠ R.RG_STATUS_NOTIFY_PENDING.key n 0 0 := fun hk => hn (congrArg Key.chan hk).symm
    rw [Dev.on, Dev.rd_wr_ne _ _ _ _ _ _ _ _ _ _ hkey]
    exact h

/-- A ring that names the queue waits no longer, whether it did or not. -/
theorem Dev.eqDisable_pending {r : Nat} (h : d.ringEq r = some q) : (d.eqDisable q).on R.RG_STATUS_NOTIFY_PENDING r = false := by
  by_cases hon : d.on R.RG_STATUS_NOTIFY_PENDING r = true
  · have hmem : r ∈ d.eqWaiters q := by simp [Dev.eqWaiters, Dev.mem_chans_of_on rfl hon, h]
    exact Dev.each_reaches (P := fun _ => True) (Q := fun e => e.on R.RG_STATUS_NOTIFY_PENDING r = false) hmem (fun _ _ _ _ => trivial)
      (fun e _ => Dev.on_wr_zero e _ _ _ _) (fun e n he => Dev.on_pending_clear he n) trivial
  · have hoff : (d.eqOff q).on R.RG_STATUS_NOTIFY_PENDING r = false := by
      rw [Dev.eqOff, Dev.setHost_on, Dev.on_wr_apart _ (by decide), Dev.on_wr_apart _ (by decide)]
      exact Bool.eq_false_iff.mpr hon
    exact Dev.each_keeps (Q := fun e => e.on R.RG_STATUS_NOTIFY_PENDING r = false) (fun e n _ he => Dev.on_pending_clear he n) hoff

theorem Dev.eqDisable_regs : RegsBut d (d.eqDisable q) (R.EQ_CTRL_ENABLE.key q 0 0 :: R.EQ_STATUS_OVF_PENDING.key q 0 0 ::
    (d.eqWaiters q).map (fun r => R.RG_STATUS_NOTIFY_PENDING.key r 0 0)) :=
  Dev.each_keeps (Q := fun e => RegsBut d e _)
    (fun _ r hr he => he.wr (f := R.RG_STATUS_NOTIFY_PENDING) (by simpa using .inr (.inr ⟨r, hr, rfl⟩)) _)
    ((((RegsBut.refl d _).wr (f := R.EQ_CTRL_ENABLE) (by simp) _).wr (f := R.EQ_STATUS_OVF_PENDING) (by simp) _).setHost _)

end

theorem eqDisable_clears (req q : Nat) (s : State) (hreach : s.dev.eqReach req q = true) :
    ∃ t, exec (.eqDisable req q) s = .next t ∧ t.dev.on R.EQ_CTRL_ENABLE q = false ∧ t.dev.on R.EQ_STATUS_OVF_PENDING q = false ∧
      SMap.get? t.dev.host.timers q = none ∧ (∀ r, s.dev.ringEq r = some q → t.dev.on R.RG_STATUS_NOTIFY_PENDING r = false) ∧
      RegsBut s.dev t.dev (R.EQ_CTRL_ENABLE.key q 0 0 :: R.EQ_STATUS_OVF_PENDING.key q 0 0 ::
        (s.dev.eqWaiters q).map (fun r => R.RG_STATUS_NOTIFY_PENDING.key r 0 0)) :=
  ⟨_, exec_eqDisable s hreach, Dev.eqDisable_off _ q, Dev.eqDisable_overflow _ q, Dev.eqDisable_timer _ q,
    fun _ hr => Dev.eqDisable_pending (s.dev.sampleWrite req q) q hr, Dev.eqDisable_regs (s.dev.sampleWrite req q) q⟩

/-! ## The moderation timer (R241) -/

theorem eqModTimer_ends (q : Nat) (x : EqTimer) (s : State) (hx : SMap.get? s.dev.host.timers q = some x)
    (h : x.due < 8 * s.dev.tk.etick + 8 ∧ x.wrote = false) :
    ∃ t, exec (.eqModTimer q) s = .next t ∧
      t = { s with dev := { s.dev with host := { s.dev.host with timers := SMap.del s.dev.host.timers q } } } := by
  have hdue : ¬ 8 * s.dev.tk.etick + 8 ≤ x.due := Nat.not_le.mpr h.1
  refine ⟨_, ?_, rfl⟩
  simp [exec, execEqModTimer, State.onDev, hx, hdue, h.2, Dev.setHost]

theorem eqModTimer_signals (q : Nat) (x : EqTimer) (s : State) (hx : SMap.get? s.dev.host.timers q = some x)
    (h : x.due < 8 * s.dev.tk.etick + 8 ∧ x.wrote = true) :
    ∃ t, exec (.eqModTimer q) s = .next t ∧ SMap.get? t.dev.host.timers q = some ⟨x.due + s.dev.rd R.EQ_CFG_MOD q * 100, false⟩ ∧
      t.dev.host.out = (s.dev.msix ((s.dev.eqOwner q).getD 0) (s.dev.rd R.EQ_CFG_VECTOR q)).host.out ∧ t.dev.regs = s.dev.regs := by
  have hdue : ¬ 8 * s.dev.tk.etick + 8 ≤ x.due := Nat.not_le.mpr h.1
  have hrun : exec (.eqModTimer q) s = .next { s with
      dev := (s.dev.msix ((s.dev.eqOwner q).getD 0) (s.dev.rd R.EQ_CFG_VECTOR q)).setHost (fun h =>
        { h with timers := SMap.put h.timers q ⟨x.due + s.dev.rd R.EQ_CFG_MOD q * 100, false⟩ }) } := by
    simp [exec, execEqModTimer, State.onDev, hx, hdue, h.2]
  exact ⟨_, hrun, SMap.get?_put_self _ _ _, rfl, Dev.msix_regs _ _ _⟩

theorem eqModTimer_idle (q : Nat) (s : State) (h : SMap.get? s.dev.host.timers q = none) : ∃ t, exec (.eqModTimer q) s = .next t ∧ t = s := by
  refine ⟨_, ?_, rfl⟩
  simp [exec, execEqModTimer, State.onDev, h]

/-- Settles O44: the catch-up writes the one notification that `Dev.eqCatchUp_overflow` gives; a disable reaches every ring of its queue that waits. -/
theorem eventQueuesRunAndCatchUp : Obligations.EventQueuesRunAndCatchUp := by
  unfold Obligations.EventQueuesRunAndCatchUp
  exact ⟨eqEnable_accepted, eqEnable_refused, eqDisable_clears, eqCiWrite_catchesUp, eqModTimer_ends, eqModTimer_signals, eqModTimer_idle⟩

end Sys2Proof.Machine
end

