-- ==== Sys2Proof/Proofs/QueuePairRules.lean ====
section
/-!
PROOFS. Queue pairs: their records, their contexts (R250, R251), what an entry to ERROR leaves and shows (R249).
-/
namespace Sys2Proof.Machine

/-! ## The record of a queue pair -/

section
variable (d : Dev) (q : Nat) (f : QpState → QpState)

@[simp] theorem Dev.setQp_regs : (d.setQp q f).regs = d.regs := rfl
@[simp] theorem Dev.setQp_host : (d.setQp q f).host = d.host := rfl
@[simp] theorem Dev.setQp_tk : (d.setQp q f).tk = d.tk := rfl
@[simp] theorem Dev.setQp_cyc : (d.setQp q f).cyc = d.cyc := rfl
@[simp] theorem Dev.setQp_cached : (d.setQp q f).ira.cached = d.ira.cached := rfl
@[simp] theorem Dev.setQp_rd (g : Field) (c i r : Nat) : (d.setQp q f).rd g c i r = d.rd g c i r := rfl
@[simp] theorem Dev.setQp_on (g : Field) (c i r : Nat) : (d.setQp q f).on g c i r = d.on g c i r := rfl
@[simp] theorem Dev.setQp_qpReady (p : Nat) : (d.setQp q f).qpReady p = d.qpReady p := rfl
@[simp] theorem Dev.setQp_ctxIn (p : Nat) : (d.setQp q f).ctxIn p = d.ctxIn p := rfl
@[simp] theorem Dev.setQp_qpRoce (p : Nat) : (d.setQp q f).qpRoce p = d.qpRoce p := rfl

@[simp] theorem Dev.qp_setQp : (d.setQp q f).qp q = f (d.qp q) := SMap.getD_put_self _ _ _ _

end

section
variable (d : Dev) (q : Nat)

@[simp] theorem Dev.wr_qp (f : Field) (v c i r : Nat) : (d.wr f v c i r).qp q = d.qp q := rfl
@[simp] theorem Dev.flag_qp (f : Field) (c i r : Nat) : (d.flag f c i r).qp q = d.qp q := rfl
@[simp] theorem Dev.count_qp (f : Field) (n c i : Nat) : (d.count f n c i).qp q = d.qp q := rfl
@[simp] theorem Dev.setHost_qp (f : HostState → HostState) : (d.setHost f).qp q = d.qp q := rfl

theorem Dev.hostWrite_ira (n addr : Nat) (b : Bytes) : (d.hostWrite n addr b).ira = d.ira := by
  rw [(OnlyHost.hostWrite d n addr b).eq]

/-! ## Contexts (R250, R251) -/

/-- The context becomes the latest used of those on die. -/
def Dev.ctxLatest : Dev := d.setIra (fun x => { x with cached := x.cached.filter (· != q) ++ [q] })

@[simp] theorem Dev.ctxLatest_regs : (d.ctxLatest q).regs = d.regs := rfl
@[simp] theorem Dev.ctxLatest_host : (d.ctxLatest q).host = d.host := rfl
@[simp] theorem Dev.ctxLatest_cyc : (d.ctxLatest q).cyc = d.cyc := rfl
@[simp] theorem Dev.ctxLatest_rd (g : Field) (c i r : Nat) : (d.ctxLatest q).rd g c i r = d.rd g c i r := rfl
@[simp] theorem Dev.ctxLatest_qp (p : Nat) : (d.ctxLatest q).qp p = d.qp p := rfl
@[simp] theorem Dev.ctxLatest_qpReady (p : Nat) : (d.ctxLatest q).qpReady p = d.qpReady p := rfl

/-- A context on die needs no fetch. -/
theorem Dev.ctxTouch_in (h : d.ctxIn q = true) : d.ctxTouch q = d.ctxLatest q := if_pos h

/-! ## READY -/

theorem Dev.qpReady_iff : d.qpReady q = true ↔ d.rd R.IQ_STATUS_STATE q = 1 ∧ d.on R.IQ_CTRL_ENABLE q = true := by
  simp [Dev.qpReady, Dev.qpState]

end

/-- What leaves the state and the enable of queue pairs leaves which are READY. -/
theorem ReadsBut.qpReady {l : List Field} {d e : Dev} (h : ReadsBut l d e) (hstate : l.all R.IQ_STATUS_STATE.apart = true)
    (hen : l.all R.IQ_CTRL_ENABLE.apart = true) (q : Nat) : e.qpReady q = d.qpReady q := by
  rw [Dev.qpReady, Dev.qpState, h _ _ _ hstate, h.on hen, Dev.qpReady, Dev.qpState]

theorem ReadsBut.setQp {l : List Field} {d e : Dev} (h : ReadsBut l d e) (q : Nat) (f : QpState → QpState) : ReadsBut l d (e.setQp q f) := h

/-- A step taken under a condition. -/
theorem ReadsBut.ite {l : List Field} {d e e' : Dev} (h : ReadsBut l d e) {p : Prop} [Decidable p] (h' : ReadsBut l e e') :
    ReadsBut l d (if p then e' else e) := by
  split
  · exact h.trans h'
  · exact h

/-! ## What the end of a queue pair's work leaves (R249, R270) -/

/-- The fields that completions and their notifications may change. -/
def completionFields : List Field := R.SQ_CI :: R.SQ_FETCH :: R.RQ_CI :: R.RQ_FETCH :: R.IQ_CPL_COUNT :: R.IQ_ERR_DROP :: R.IQ_IMM_LOST ::
  R.IQ_STATUS_IMM_LOST :: noticeFields

section
variable (d : Dev) (q : Nat)

theorem Dev.qpNotify_reads (sub a b : Nat) : ReadsBut completionFields d (d.qpNotify q sub a b) := by
  unfold Dev.qpNotify
  split
  · exact .refl _ d
  · split
    · exact .refl _ d
    · next fn _ =>
      have hpost {p : Nat} {m : Bytes} : ReadsBut completionFields d (d.eqPost p 4 m).2 :=
        (d.eqPost_reads p 4 m).mono (fun _ hf => by simp [completionFields, hf])
      dsimp only
      split
      · exact (hpost.wr (g := R.IQ_IMM_LOST) (by simp [completionFields]) _ _ _).wr (g := R.IQ_STATUS_IMM_LOST) (by simp [completionFields]) _ _ _
      · exact hpost

theorem Dev.wqForget_regs (rq : Bool) (i : Nat) : (d.wqForget rq q i).regs = d.regs := rfl

theorem Dev.wqCpl_regs (rq : Bool) (i status : Nat) (desc body : Bytes) : (d.wqCpl rq q i status desc body).regs = d.regs := by
  rw [Dev.wqCpl, Dev.hostWrite_regs, Dev.hostWrite_regs]

theorem Dev.sqAdvance_reads (desc : Bytes) : ReadsBut completionFields d (d.sqAdvance q desc) :=
  (((ReadsBut.refl _ d).wr (g := R.SQ_CI) (by simp [completionFields]) _ _ _).wr (g := R.IQ_CPL_COUNT) (by simp [completionFields]) _ _ _).ite
    (Dev.qpNotify_reads _ _ _ _ _)

theorem Dev.rqAdvance_reads (msn : Nat) : ReadsBut completionFields d (d.rqAdvance q msn) :=
  ((((ReadsBut.refl _ d).wr (g := R.RQ_FETCH) (by simp [completionFields]) _ _ _).wr (g := R.RQ_CI) (by simp [completionFields]) _ _ _).trans
    (.of_regs (Dev.wqForget_regs _ _ _ _))).ite (Dev.qpNotify_reads _ _ _ _ _)

end

theorem Dev.sqComplete_reads (q n : Nat) (d : Dev) : ReadsBut completionFields d (Dev.sqComplete q n d) := by
  induction n generalizing d with
  | zero => exact .refl _ d
  | succ n ih =>
    unfold Dev.sqComplete
    split
    · exact .refl _ d
    · split
      · exact .refl _ d
      · dsimp only
        refine .trans (.trans (.of_regs ?_) (Dev.sqAdvance_reads _ q _)) (ih _)
        rw [Dev.wqCpl_regs, Dev.setQp_regs]
        split <;> rfl

theorem Dev.sqDue_reads (d : Dev) (q : Nat) : ReadsBut completionFields d (d.sqDue q) := Dev.sqComplete_reads q _ d

theorem Dev.sqFlush_reads (q n : Nat) (d : Dev) : ReadsBut completionFields d (Dev.sqFlush q n d) := by
  induction n generalizing d with
  | zero => exact .refl _ d
  | succ n ih =>
    unfold Dev.sqFlush
    dsimp only
    split
    · exact .refl _ d
    · split
      · exact .refl _ d
      · have hpass : ReadsBut completionFields d (d.fresh.2.wr R.SQ_FETCH (d.wqStep wqSq q (d.rd R.SQ_FETCH q) 1) q) :=
          (ReadsBut.of_regs rfl).wr (by simp [completionFields]) _ _ _
        exact (((hpass.trans (.of_regs (Dev.wqForget_regs _ _ _ _))).trans (.of_regs (Dev.wqCpl_regs _ _ _ _ _ _ _))).trans
          (Dev.sqAdvance_reads _ q _)).trans (ih _)

theorem Dev.rqFlush_reads (q n : Nat) (d : Dev) : ReadsBut completionFields d (Dev.rqFlush q n d) := by
  induction n generalizing d with
  | zero => exact .refl _ d
  | succ n ih =>
    unfold Dev.rqFlush
    dsimp only
    split
    · exact .refl _ d
    · split
      · exact .refl _ d
      · exact ((ReadsBut.of_regs (Dev.wqCpl_regs d.fresh.2 q _ _ _ _ _)).trans (Dev.rqAdvance_reads _ q _)).trans (ih _)

/-- A queue pair that is enabled does not come to rest. -/
theorem Dev.qpIdle_enabled (d : Dev) (q : Nat) (h : d.on R.IQ_CTRL_ENABLE q = true) : d.qpIdle q = d := by
  simp [Dev.qpIdle, h]

/-- While the queue pair is enabled, the end of its work is completions alone (R249). -/
theorem Dev.qpFlush_reads (d : Dev) (q : Nat) (h : d.on R.IQ_CTRL_ENABLE q = true) : ReadsBut completionFields d (d.qpFlush q) := by
  have hidle {e : Dev} (he : ReadsBut completionFields d e) : ReadsBut completionFields d (e.qpIdle q) := by
    rw [Dev.qpIdle_enabled e q ((he.on (by decide) q 0).trans h)]
    exact he
  have hdrop : ReadsBut completionFields d (d.count R.IQ_ERR_DROP (d.qp q).unplaced q) :=
    (ReadsBut.refl _ d).wr (by simp [completionFields]) _ _ _
  exact hidle (((((hdrop.setQp q _).trans (.of_regs (Dev.setIra_regs _ _))).trans (Dev.sqDue_reads _ q)).trans (Dev.sqFlush_reads q _ _)).trans
    (Dev.rqFlush_reads q _ _))

/-! ## Entry to ERROR (R249) -/

/-- The registers of a READY queue pair that enters ERROR show it: its cause, and state 2, which what follows leaves. -/
theorem Dev.qpError_shows (d : Dev) {q : Nat} (h : d.qpReady q = true) (cause : Nat) (bad : Option (Nat × Nat)) :
    (d.qpError q cause bad).qpState q = 2 ∧ (d.qpError q cause bad).rd R.IQ_STATUS_ERR_CAUSE q = cause % 8 := by
  obtain ⟨_, hen⟩ := (d.qpReady_iff q).mp h
  have hshow (e : Dev) (he : e.regs = d.regs) :
      let m := ((((e.wr R.IQ_STATUS_STATE 2 q).wr R.IQ_STATUS_ERR_CAUSE cause q).raise 11 (srcNum 0x19 1) q).qpNotify q 4 cause 0).qpFlush q
      m.qpState q = 2 ∧ m.rd R.IQ_STATUS_ERR_CAUSE q = cause % 8 := by
    have hnote := Dev.qpNotify_reads (((e.wr R.IQ_STATUS_STATE 2 q).wr R.IQ_STATUS_ERR_CAUSE cause q).raise 11 (srcNum 0x19 1) q) q 4 cause 0
    have henable : e.on R.IQ_CTRL_ENABLE q = true := by rw [Dev.on, Dev.rd, he]; exact hen
    have hleft := hnote.trans (Dev.qpFlush_reads _ q (by
      rw [hnote.on (by decide), Dev.raise_on, Dev.on_wr_apart _ (by decide), Dev.on_wr_apart _ (by decide), henable]))
    refine ⟨?_, ?_⟩
    · rw [Dev.qpState, hleft _ _ _ (by decide), Dev.raise_rd, Dev.rd_wr_apart _ (by decide), Dev.rd_wr]
      rfl
    · rw [hleft _ _ _ (by decide), Dev.raise_rd, Dev.rd_wr]
      rfl
  unfold Dev.qpError
  simp only [h, Bool.not_true, Bool.false_eq_true, if_false]
  cases bad with
  | none => exact hshow d rfl
  | some b => exact hshow _ rfl

end Sys2Proof.Machine
end

