-- ==== Sys2Proof/Proofs/PacketSending.lean ====
section
/-!
PROOFS. What sending leaves: a packet on its way through Rein or the fabric (R247, R343), and a queue pair that sends all it may (R256, R257, R260).
-/
namespace Sys2Proof.Machine

/-! ## A packet on its way -/

/-- The counts and depths of Rein and the fabric that a packet on its way may change. -/
def egressFields : List Field := [R.RQ_MISS, R.DOWN_FLUSHED, R.BUF_FULL_DROP, R.QS_DROP_G, R.QS_DROP_Y, R.QS_DROP_R, R.QS_DEPTH, R.RN_BUF_USED,
  R.FB_LOCAL_TX, R.FB_LOCAL_RX, R.FB_NO_ROUTE, R.FP_TC_DROP]

/-- From one device to another the event ticks, the queue pairs and the contexts on die stay, and every field that lies apart from the listed ones. -/
structure EgressLeaves (l : List Field) (d e : Dev) : Prop where
  reads : ReadsBut l d e
  tk : e.tk = d.tk
  qps : e.ira.qps = d.ira.qps
  cached : e.ira.cached = d.ira.cached

namespace EgressLeaves

section
variable {l : List Field} {d e : Dev}

theorem refl (l : List Field) (d : Dev) : EgressLeaves l d d := ⟨.refl l d, rfl, rfl, rfl⟩

theorem trans {e' : Dev} (h : EgressLeaves l d e) (h' : EgressLeaves l e e') : EgressLeaves l d e' :=
  ⟨h.reads.trans h'.reads, h'.tk.trans h.tk, h'.qps.trans h.qps, h'.cached.trans h.cached⟩

theorem count (h : EgressLeaves l d e) {f : Field} (hf : f ∈ l) (n c : Nat) : EgressLeaves l d (e.count f n c) :=
  { h with reads := h.reads.wr hf _ _ _ }

theorem setRein (h : EgressLeaves l d e) (f : ReinState → ReinState) : EgressLeaves l d (e.setRein f) := { h with }

theorem setFab (h : EgressLeaves l d e) (f : FabState → FabState) : EgressLeaves l d (e.setFab f) := { h with }

/-- The queue pairs stay, one by one. -/
theorem qp (h : EgressLeaves l d e) (q : Nat) : e.qp q = d.qp q := by rw [Dev.qp, h.qps, Dev.qp]

end

section
variable (d : Dev)

theorem reinDone (f : Frame) (status stamp launch : Nat) : EgressLeaves egressFields d (d.reinDone f status stamp launch) := by
  unfold Dev.reinDone
  split
  · exact (refl _ d).setRein _
  · exact refl _ d

theorem enqueue (q : Nat) (f : Frame) : EgressLeaves egressFields d (d.enqueue q f) :=
  let h := (((refl egressFields d).setRein _).count (f := R.QS_DEPTH) (by simp [egressFields]) f.len q).setRein (fun r => { r with used := d.rein.used + f.len })
  { h with reads := h.reads.wr (g := R.RN_BUF_USED) (by simp [egressFields]) _ _ _ }

/-- A frame offered to a queue is missed, flushed, dropped or taken (R176-R178). -/
theorem enqueueFrame (p qn : Nat) (f : Frame) : EgressLeaves egressFields d (d.enqueueFrame p qn f) := by
  unfold Dev.enqueueFrame
  split
  · exact ((refl _ d).count (by simp [egressFields]) 1 p).trans (reinDone _ _ _ _ _)
  · split
    · exact ((refl _ d).count (by simp [egressFields]) 1 p).trans (reinDone _ _ _ _ _)
    · split
      · exact enqueue d _ f
      · split
        · exact (refl _ d).count (by simp [egressFields]) 1 p
        · split
          · refine (refl _ d).count ?_ 1 _
            split
            · simp [egressFields]
            · split <;> simp [egressFields]
          · exact enqueue d _ f

/-- A frame enters a port's queue, or is dropped (R327). -/
theorem fabQueuePut (p : Nat) (b : Bytes) : EgressLeaves egressFields d (d.fabQueuePut p b) := by
  unfold Dev.fabQueuePut
  split
  · exact (refl _ d).setFab _
  · exact (refl _ d).count (by simp [egressFields]) 1 p

theorem fabRoute (b : Bytes) : EgressLeaves egressFields d (d.fabRoute b) := by
  unfold Dev.fabRoute
  split
  · exact (refl _ d).count (by simp [egressFields]) 1 0
  · exact fabQueuePut d _ b

/-- A packet of the fabric is not sent, or returns to RDMA's own input, or goes to ports (R326, R333). -/
theorem fabSend (tc dst entropy : Nat) (pay : Bytes) : EgressLeaves egressFields d (d.fabSend 3 tc dst entropy pay) := by
  have hsent : EgressLeaves egressFields d (d.count R.FB_LOCAL_TX) := (refl _ d).count (by simp [egressFields]) 1 0
  unfold Dev.fabSend
  split
  · exact refl _ d
  · dsimp only
    split
    · exact { hsent.count (f := R.FB_LOCAL_RX) (by simp [egressFields]) 1 0 with }
    · split
      · exact Dev.each_keeps (fun e p _ he => he.trans (fabQueuePut e p _)) hsent
      · exact hsent.trans (fabRoute _ _)

end

end EgressLeaves

/-- A packet is counted, and carries the grant that waited for a packet (R257). -/
def Dev.sendCounted (d : Dev) (q : Nat) : Dev := (d.count R.IQ_TX_PKTS 1 q).setQp q (fun x => { x with creditFrom := none })

theorem Dev.iraEmit_leaves (d : Dev) (q : Nat) (t : IraDest) (p : IraPkt) : EgressLeaves egressFields (d.sendCounted q) (d.iraEmit q t p) := by
  unfold Dev.iraEmit
  dsimp only
  split
  · exact EgressLeaves.fabSend _ _ _ _ _
  · exact (EgressLeaves.enqueueFrame _ _ _ _).setRein _

/-! ## A queue pair that sends -/

/-- The fields that sending may change. -/
def sendFields : List Field := R.IQ_TX_PKTS :: R.IQ_RETX :: R.IQ_TX_PSN :: egressFields

/-- A queue pair's record without what sending changes: what is to be sent, the PSNs in flight, the rotation of paths, the credit used and
whether a grant waits. -/
def QpState.unsent (x : QpState) : QpState :=
  { x with ready := [], unacked := [], again := [], ctl := [], nextPath := 0, sent := 0, creditFrom := none }

/-- What sending on a queue pair leaves: the fields beside its own, the event ticks, the contexts on die, the queue pair's record beside its
sending side, and every PSN in flight but the instant of its last transmission. -/
structure SendLeaves (q : Nat) (d e : Dev) : Prop where
  reads : ReadsBut sendFields d e
  tk : e.tk = d.tk
  cached : e.ira.cached = d.ira.cached
  unsent : (e.qp q).unsent = (d.qp q).unsent
  unacked : ∀ y ∈ (d.qp q).unacked, ∃ c, { y with at' := c } ∈ (e.qp q).unacked

namespace SendLeaves

section
variable {q : Nat} {d e : Dev}

theorem refl (q : Nat) (d : Dev) : SendLeaves q d d := ⟨.refl _ d, rfl, rfl, rfl, fun y hy => ⟨y.at', hy⟩⟩

theorem trans {e' : Dev} (h : SendLeaves q d e) (h' : SendLeaves q e e') : SendLeaves q d e' where
  reads := h.reads.trans h'.reads
  tk := h'.tk.trans h.tk
  cached := h'.cached.trans h.cached
  unsent := h'.unsent.trans h.unsent
  unacked y hy := by
    obtain ⟨c, hc⟩ := h.unacked y hy
    obtain ⟨c', hc'⟩ := h'.unacked _ hc
    exact ⟨c', hc'⟩

theorem wr (h : SendLeaves q d e) {f : Field} (hf : f ∈ sendFields) (v c : Nat) : SendLeaves q d (e.wr f v c) :=
  { h with reads := h.reads.wr hf v c 0 }

/-- A change of the sending side that leaves the PSNs in flight. -/
theorem setQp (h : SendLeaves q d e) {f : QpState → QpState} (hf : ∀ x, (f x).unsent = x.unsent)
    (hflight : ∀ x, ∀ y ∈ x.unacked, ∃ c, { y with at' := c } ∈ (f x).unacked) : SendLeaves q d (e.setQp q f) := by
  refine h.trans ⟨.refl _ e, rfl, rfl, ?_, fun y hy => ?_⟩
  · rw [Dev.qp_setQp, hf]
  · rw [Dev.qp_setQp]
    exact hflight _ y hy

theorem iraEmit (h : SendLeaves q d e) (t : IraDest) (p : IraPkt) : SendLeaves q d (e.iraEmit q t p) := by
  have hcounted : SendLeaves q d (e.sendCounted q) :=
    (h.wr (f := R.IQ_TX_PKTS) (by simp [sendFields]) _ q).setQp (fun _ => rfl) (fun _ y hy => ⟨y.at', hy⟩)
  have hgone := Dev.iraEmit_leaves e q t p
  refine hcounted.trans ⟨hgone.reads.mono (fun _ hf => by simp [sendFields, hf]), hgone.tk, hgone.cached, ?_, fun y hy => ?_⟩
  · rw [hgone.qp]
  · rw [hgone.qp]
    exact ⟨y.at', hy⟩

end

/-- A PSN sent again is in flight from a new instant. -/
theorem IraTx.mem_restamped {l : List IraTx} {y : IraTx} (hy : y ∈ l) (psn now : Nat) :
    ∃ c, { y with at' := c } ∈ l.map (fun z => if z.pkt.psn = psn then { z with at' := now } else z) := by
  by_cases h : y.pkt.psn = psn
  · exact ⟨now, List.mem_map.mpr ⟨y, hy, if_pos h⟩⟩
  · exact ⟨y.at', List.mem_map.mpr ⟨y, hy, if_neg h⟩⟩

/-- Each packet that leaves, with its PSN or without, anew or again. -/
theorem iraSend (q n : Nat) (d : Dev) : SendLeaves q d (Dev.iraSend q n d) := by
  induction n generalizing d with
  | zero => exact refl q d
  | succ n ih =>
    unfold Dev.iraSend
    split
    · exact refl q d
    · dsimp only
      split
      · split
        · refine ((setQp (refl q d) ?_ ?_).iraEmit _ _).trans (ih _)
          · exact fun _ => rfl
          · exact fun _ y hy => ⟨y.at', hy⟩
        · exact refl q d
      · split
        · split
          · refine (setQp (refl q d) ?_ ?_).trans (ih _)
            · exact fun _ => rfl
            · exact fun _ y hy => ⟨y.at', hy⟩
          · split
            · refine (((setQp (refl q d) ?_ ?_).wr (f := R.IQ_RETX) (by simp [sendFields]) _ q).iraEmit _ _).trans (ih _)
              · exact fun _ => rfl
              · exact fun _ _ hy => IraTx.mem_restamped hy _ _
            · exact refl q d
        · split
          · exact refl q d
          · split
            · refine ((setQp ((refl q d).wr (f := R.IQ_TX_PSN) (by simp [sendFields]) _ q) ?_ ?_).iraEmit _ _).trans (ih _)
              · exact fun _ => rfl
              · exact fun _ y hy => ⟨y.at', List.mem_append_left _ hy⟩
            · exact refl q d

theorem iraGo (q : Nat) (d : Dev) : SendLeaves q d (d.iraGo q) := iraSend q _ d

section
variable {q : Nat} {d e : Dev} (h : SendLeaves q d e)
include h

theorem qpReady : e.qpReady q = d.qpReady q := h.reads.qpReady (by decide) (by decide) q

theorem jobs : (e.qp q).jobs = (d.qp q).jobs := by simpa only [QpState.unsent] using congrArg QpState.jobs h.unsent

theorem nextMsn : (e.qp q).nextMsn = (d.qp q).nextMsn := by simpa only [QpState.unsent] using congrArg QpState.nextMsn h.unsent

theorem gaps : (e.qp q).gaps = (d.qp q).gaps := by simpa only [QpState.unsent] using congrArg QpState.gaps h.unsent

theorem acks : (e.qp q).acks = (d.qp q).acks := by simpa only [QpState.unsent] using congrArg QpState.acks h.unsent

theorem ackFrom : (e.qp q).ackFrom = (d.qp q).ackFrom := by simpa only [QpState.unsent] using congrArg QpState.ackFrom h.unsent

end

end SendLeaves

end Sys2Proof.Machine
end

