-- ==== Sys2Proof/Proofs/SendQueueJobs.lean ====
section
/-!
PROOFS. The send queue and its timers, clause by clause of SendQueueJobsAndTimersRun: jobs at FETCH (R254-R256), WAIT (R232), retransmission
(R260, R266, R267), acknowledgement (R265) and credit (R257).
-/
namespace Sys2Proof.Machine

/-! ## Commands -/

section
variable (q : Nat) (s : State)

theorem exec_sqWrite : exec (.sqWrite q) s = .next (s.onDev (fun d => d.sqStart q 16)) := rfl
theorem exec_sqWriteImm : exec (.sqWriteImm q) s = .next (s.onDev (fun d => d.sqStart q 17)) := rfl
theorem exec_sqRead : exec (.sqRead q) s = .next (s.onDev (fun d => d.sqStart q 18)) := rfl
theorem exec_sqSend : exec (.sqSend q) s = .next (s.onDev (fun d => d.sqStart q 19)) := rfl
theorem exec_sqFetchAdd : exec (.sqFetchAdd q) s = .next (s.onDev (fun d => d.sqStart q 20)) := rfl
theorem exec_sqCmpSwap : exec (.sqCmpSwap q) s = .next (s.onDev (fun d => d.sqStart q 21)) := rfl

end

/-! ## The entry at FETCH becomes a job (R254) -/

/-- A queue pair may start the entry at FETCH only while it is READY with its context on die and no WAIT in progress. -/
theorem Dev.sqHead_some {d : Dev} {q : Nat} {b : Bytes} (h : d.sqHead q = some b) :
    d.qpReady q = true ∧ d.ctxIn q = true ∧ ∀ j ∈ (d.qp q).jobs, (j.wait.isNone || j.status.isSome) = true := by
  unfold Dev.sqHead at h
  split at h
  · next hstart =>
    simp only [Bool.and_eq_true, List.all_eq_true] at hstart
    obtain ⟨⟨⟨hready, hin⟩, hjobs⟩, _⟩ := hstart
    exact ⟨hready, hin, hjobs⟩
  · exact absurd h.symm (Option.some_ne_none b)

/-- FETCH has passed the entry, which is the job `j`. -/
def Dev.sqTaken (d : Dev) (q : Nat) (j : IraJob) : Dev := (d.ctxLatest q).sqTake q j

section
variable (d : Dev) (q : Nat) (j : IraJob)

theorem Dev.sqTaken_regs : RegsBut d (d.sqTaken q j) [R.SQ_FETCH.key q 0 0] := (RegsBut.refl d _).wr (f := R.SQ_FETCH) (by simp) _

theorem Dev.sqTaken_reads : ReadsBut [R.SQ_FETCH] d (d.sqTaken q j) := (ReadsBut.refl _ d).wr (g := R.SQ_FETCH) (by simp) _ _ _

theorem Dev.sqTaken_fetch : (d.sqTaken q j).rd R.SQ_FETCH q = d.wqStep wqSq q (d.rd R.SQ_FETCH q) 1 % 2 ^ 17 := Dev.rd_wr _ _ _ _ _ _

@[simp] theorem Dev.sqTaken_qp : (d.sqTaken q j).qp q =
    { d.qp q with sqKept := SMap.del (d.qp q).sqKept (d.rd R.SQ_FETCH q), jobs := (d.qp q).jobs ++ [j] } := by
  simp [Dev.sqTaken, Dev.sqTake, Dev.wqForget]

theorem Dev.sqTaken_host : (d.sqTaken q j).host = d.host := rfl

theorem Dev.sqTaken_qpReady : (d.sqTaken q j).qpReady q = d.qpReady q := (d.sqTaken_reads q j).qpReady (by decide) (by decide) q

end

section
variable {d : Dev} {q op : Nat} {b : Bytes} (hhead : d.sqHead q = some b ∧ sqBad (d.qpRoce q) b = false)
include hhead

section
variable (hop : descOp b = op ∧ d.sqLimits q op = true)
include hop

/-- A job of data reads its payload (R255). -/
theorem Dev.sqStart_carries (hdata : sqCarries op = true ∧ sqReads op = false ∧ sqLen b ≠ 0) :
    d.sqStart q op = (d.sqTaken q { idx := d.rd R.SQ_FETCH q, desc := b }).hostRead (d.qpFn q) (.iraJob q (d.rd R.SQ_FETCH q)) (sqLaddr b) (sqLen b) := by
  obtain ⟨_, hin, _⟩ := Dev.sqHead_some hhead.1
  simp [Dev.sqStart, hhead.1, hhead.2, hop.1, hop.2, hdata.1, hdata.2.1, hdata.2.2, Dev.ctxTouch_in d q hin, Dev.sqTaken]

/-- A READ or an atomic whose local range its key allows is cut and sent (R255). -/
theorem Dev.sqStart_reads (hreads : sqCarries op = false)
    (hkey : d.mrAllows q (sqLkey b) mrLocalWrite (sqLaddr b) (sqLen b) = true) :
    d.sqStart q op = (d.sqTaken q { idx := d.rd R.SQ_FETCH q, desc := b, data := some [] }).iraWork q := by
  obtain ⟨_, hin, _⟩ := Dev.sqHead_some hhead.1
  simp [Dev.sqStart, hhead.1, hhead.2, hop.1, hop.2, hreads, hkey, Dev.ctxTouch_in d q hin, Dev.sqTaken]

/-- One whose range it does not allow is an error of the queue pair (R253, R249). -/
theorem Dev.sqStart_denied (hreads : sqCarries op = false ∧ sqReads op = true)
    (hkey : d.mrAllows q (sqLkey b) mrLocalWrite (sqLaddr b) (sqLen b) = false) :
    d.sqStart q op =
      (d.sqTaken q { idx := d.rd R.SQ_FETCH q, desc := b, data := some [] }).qpError q 4 (some (d.rd R.SQ_FETCH q, 0x25)) := by
  obtain ⟨_, hin, _⟩ := Dev.sqHead_some hhead.1
  simp [Dev.sqStart, hhead.1, hhead.2, hop.1, hop.2, hreads, hkey, Dev.ctxTouch_in d q hin, Dev.sqTaken]

end
end

/-! ## Jobs of data (R255) -/

/-- WRITE, WRITE_IMM and SEND of data: the read of the payload is issued, and FETCH passes the entry. -/
theorem sqCommand_readsPayload {i : Nat → Instr} {op : Nat} (hexec : ∀ q s, exec (i q) s = .next (s.onDev (fun d => d.sqStart q op)))
    (hop : sqCarries op = true ∧ sqReads op = false) (q : Nat) (b : Bytes) (s : State)
    (hhead : s.dev.sqHead q = some b ∧ sqBad (s.dev.qpRoce q) b = false) (hjob : descOp b = op ∧ s.dev.sqLimits q op = true ∧ sqLen b ≠ 0) :
    ∃ t, exec (i q) s = .next t ∧
      t.dev.host = { s.dev.host with
        reads := s.dev.host.reads ++ [⟨s.dev.host.nextRead, s.dev.qpFn q, .iraJob q (s.dev.rd R.SQ_FETCH q), sqLaddr b, sqLen b, s.dev.tk.etick⟩]
        nextRead := s.dev.host.nextRead + 1 } ∧
      ∃ j, (t.dev.qp q).jobs = (s.dev.qp q).jobs ++ [j] ∧ j.idx = s.dev.rd R.SQ_FETCH q ∧ j.desc = b ∧ j.data = none ∧ j.status = none ∧
        t.dev.rd R.SQ_FETCH q = s.dev.wqStep wqSq q (s.dev.rd R.SQ_FETCH q) 1 % 2 ^ 17 ∧ RegsBut s.dev t.dev [R.SQ_FETCH.key q 0 0] := by
  obtain ⟨hdesc, hlim, hlen⟩ := hjob
  have hstart := Dev.sqStart_carries hhead ⟨hdesc, hlim⟩ ⟨hop.1, hop.2, hlen⟩
  let j : IraJob := { idx := s.dev.rd R.SQ_FETCH q, desc := b }
  refine ⟨_, hexec q s, ?_⟩
  simp only [State.onDev_dev, hstart]
  exact ⟨rfl, j, by simp [Dev.hostRead, j], rfl, rfl, rfl, rfl, Dev.sqTaken_fetch s.dev q j, Dev.sqTaken_regs s.dev q j⟩

/-! ## READs and atomics (R255) -/

/-- The one job of a queue pair, a request without data of its own, takes the next MSN. -/
theorem Dev.iraCut_request (d : Dev) {q : Nat} {j : IraJob} (hjobs : (d.qp q).jobs = [j])
    (hnew : j.msn = none ∧ j.wait = none ∧ j.status = none) (hop : sqCarries (descOp j.desc) = false) :
    ∃ f, Dev.iraCut q 1 d = d.setQp q f ∧ (f (d.qp q)).jobs = [{ j with msn := some (d.qp q).nextMsn, data := none }] ∧
      (f (d.qp q)).nextMsn = ((d.qp q).nextMsn + 1) % 2 ^ 32 := by
  obtain ⟨hmsn, hwait, hstatus⟩ := hnew
  have hfind : (d.qp q).jobs.find? (fun j => j.msn.isNone && j.wait.isNone && j.status.isNone) = some j := by
    simp [hjobs, hmsn, hwait, hstatus]
  unfold Dev.iraCut
  rw [hfind]
  simp only [hop, Bool.false_eq_true, false_and, if_false]
  exact ⟨_, rfl, by simp [hjobs], rfl⟩

/-- A READ or an atomic within its local range becomes the queue pair's one job, with the next MSN. -/
theorem sqCommand_requests {i : Nat → Instr} {op : Nat} (hexec : ∀ q s, exec (i q) s = .next (s.onDev (fun d => d.sqStart q op)))
    (hop : sqCarries op = false) (q : Nat) (b : Bytes) (s : State)
    (hhead : s.dev.sqHead q = some b ∧ sqBad (s.dev.qpRoce q) b = false) (hjob : descOp b = op ∧ s.dev.sqLimits q op = true)
    (hkey : s.dev.mrAllows q (sqLkey b) mrLocalWrite (sqLaddr b) (sqLen b) = true) (hjobs : (s.dev.qp q).jobs = []) :
    ∃ t, exec (i q) s = .next t ∧ ∃ j, (t.dev.qp q).jobs = [j] ∧ j.idx = s.dev.rd R.SQ_FETCH q ∧ j.desc = b ∧
      j.msn = some (s.dev.qp q).nextMsn ∧ j.status = none ∧ (t.dev.qp q).nextMsn = ((s.dev.qp q).nextMsn + 1) % 2 ^ 32 ∧
      t.dev.rd R.SQ_FETCH q = s.dev.wqStep wqSq q (s.dev.rd R.SQ_FETCH q) 1 % 2 ^ 17 := by
  let j : IraJob := { idx := s.dev.rd R.SQ_FETCH q, desc := b, data := some [] }
  have htaken : ((s.dev.sqTaken q j).qp q).jobs = [j] := by simp [hjobs]
  obtain ⟨f, hcut, hone, hnext⟩ := Dev.iraCut_request (s.dev.sqTaken q j) htaken ⟨rfl, rfl, rfl⟩ (by rw [hjob.1, hop])
  have hwork : (s.dev.sqTaken q j).iraWork q = ((s.dev.sqTaken q j).setQp q f).iraGo q := by
    rw [Dev.iraWork, htaken, List.length_singleton, hcut]
  have hsent := SendLeaves.iraGo q ((s.dev.sqTaken q j).setQp q f)
  rw [hexec, State.onDev, Dev.sqStart_reads hhead hjob hop hkey, hwork]
  refine ⟨_, rfl, { j with msn := some (s.dev.qp q).nextMsn, data := none }, ?_, rfl, rfl, rfl, rfl, ?_, ?_⟩
  · rw [hsent.jobs, Dev.qp_setQp, hone, Dev.sqTaken_qp]
  · rw [hsent.nextMsn, Dev.qp_setQp, hnext, Dev.sqTaken_qp]
  · rw [hsent.reads _ _ _ (by decide), Dev.setQp_rd, Dev.sqTaken_fetch]

/-- A READ outside its local range is an error with cause 4. -/
theorem sqRead_denied (q : Nat) (b : Bytes) (s : State) (hhead : s.dev.sqHead q = some b ∧ sqBad (s.dev.qpRoce q) b = false)
    (hjob : descOp b = 0x12 ∧ s.dev.sqLimits q 0x12 = true)
    (hkey : s.dev.mrAllows q (sqLkey b) mrLocalWrite (sqLaddr b) (sqLen b) = false) :
    ∃ t, exec (.sqRead q) s = .next t ∧ t.dev.qpState q = 2 ∧ t.dev.rd R.IQ_STATUS_ERR_CAUSE q = 4 := by
  obtain ⟨hready, _, _⟩ := Dev.sqHead_some hhead.1
  have hstart := Dev.sqStart_denied hhead hjob (by decide) hkey
  refine ⟨_, exec_sqRead q s, ?_⟩
  simp only [State.onDev_dev, hstart]
  exact Dev.qpError_shows _ ((Dev.sqTaken_qpReady _ _ _).trans hready) 4 _

/-! ## WAIT (R232) -/

/-- A write beside FN_QP_BASE and FN_QP_COUNT leaves who owns a queue pair (R218). -/
theorem Dev.qpOwner_wr (d : Dev) {g : Field} (hbase : R.FN_QP_BASE.apart g = true) (hcount : R.FN_QP_COUNT.apart g = true) (v c n q : Nat) :
    (d.wr g v c 0 n).qpOwner q = d.qpOwner q := by
  simp only [Dev.qpOwner, Dev.ownerOf, Dev.chans_wr_apart hcount, Dev.rd_wr_apart d hbase, Dev.rd_wr_apart d hcount]

/-- FETCH has no part in the count of a WAIT's target. -/
theorem Dev.sqTaken_waitCount (d : Dev) (q : Nat) (j : IraJob) (w : WaitState) (inb : Bool) :
    (d.sqTaken q j).sqWaitCount q w inb = d.sqWaitCount q w inb := by
  have hfetch (e : Dev) (v : Nat) : (e.wr R.SQ_FETCH v q).sqWaitCount q w inb = e.sqWaitCount q w inb := by
    have hfn : (e.wr R.SQ_FETCH v q).qpFn q = e.qpFn q := by rw [Dev.qpFn, Dev.qpOwner_wr _ (by decide) (by decide), Dev.qpFn]
    have hread {f : Field} (hf : f.apart R.SQ_FETCH = true) (c : Nat) : (e.wr R.SQ_FETCH v q).rd f c = e.rd f c := Dev.rd_wr_apart e hf _ _ _ _ _
    simp only [Dev.sqWaitCount, Dev.waitCount, hfn, hread (f := R.FN_QP_COUNT) (by decide), hread (f := R.FN_QP_BASE) (by decide),
      hread (f := R.IQ_RX_COUNT) (by decide), hread (f := R.IQ_CPL_COUNT) (by decide), hread (f := R.FN_RING_COUNT) (by decide),
      hread (f := R.FN_RING_BASE) (by decide), hread (f := R.RG_CPL_COUNT) (by decide)]
  exact hfetch (d.ctxLatest q) _

/-- With no other WAIT in progress, one whose target is not met waits. -/
theorem Dev.sqWaitTest_waits (d : Dev) (q c : Nat) {j : IraJob} {w : WaitState} (hwait : d.sqWaiting q = some j) (hw : j.wait = some w)
    (hcount : d.sqWaitCount q w j.inbound = some c) (hmet : waitMet c w.thresh = false) : d.sqWaitTest q = d := by
  simp [Dev.sqWaitTest, hwait, hw, hcount, hmet]

/-- A WAIT whose target is not met holds the queue. -/
theorem sqWait_holds (q c : Nat) (b : Bytes) (w : WaitState) (s : State) (hhead : s.dev.sqHead q = some b ∧ sqBad (s.dev.qpRoce q) b = false)
    (hjob : descOp b = 3 ∧ w = { qp := bit (le32 b 0) 31, target := le32 b 0 % 2 ^ 23, thresh := le32 b 4, timeout := le32 b 8, start := s.dev.cyc })
    (hwait : s.dev.sqWaitCount q w (bit (le32 b 0) 30) = some c ∧ waitMet c w.thresh = false) :
    ∃ t, exec (.sqWait q) s = .next t ∧ ∃ j, (t.dev.qp q).jobs = (s.dev.qp q).jobs ++ [j] ∧ j.wait = some w ∧ j.status = none ∧
      t.dev.rd R.SQ_FETCH q = s.dev.wqStep wqSq q (s.dev.rd R.SQ_FETCH q) 1 % 2 ^ 17 ∧ RegsBut s.dev t.dev [R.SQ_FETCH.key q 0 0] := by
  obtain ⟨_, hin, hjobs⟩ := Dev.sqHead_some hhead.1
  obtain ⟨hop, hw⟩ := hjob
  obtain ⟨hcount, hmet⟩ := hwait
  let j : IraJob := { idx := s.dev.rd R.SQ_FETCH q, desc := b, wait := some w, inbound := bit (le32 b 0) 30 }
  have hwaiting : (s.dev.sqTaken q j).sqWaiting q = some j := by
    have hnone : (s.dev.qp q).jobs.find? (fun j => j.wait.isSome && j.status.isNone) = none := by
      refine List.find?_eq_none.mpr fun k hk => ?_
      have := hjobs k hk
      cases hwk : k.wait <;> cases hsk : k.status <;> simp_all
    rw [Dev.sqWaiting, Dev.sqTaken_qp, List.find?_append, hnone]
    rfl
  have htest : (s.dev.sqTaken q j).sqWaitTest q = s.dev.sqTaken q j :=
    Dev.sqWaitTest_waits _ q c hwaiting rfl ((Dev.sqTaken_waitCount _ _ _ _ _).trans hcount) hmet
  have hrun : exec (.sqWait q) s = .next (s.onDev (fun d => d.sqTaken q j)) := by
    have hstart : exec (.sqWait q) s = .next (s.onDev (fun d => (d.sqTaken q j).sqWaitTest q)) := by
      simp only [exec, execSqWait, State.onDev, hhead.1, hhead.2, hop, ← hw, hcount, Dev.ctxTouch_in _ q hin, Bool.false_eq_true, if_false,
        ne_eq, not_true_eq_false, Option.isNone_some]
      rfl
    rw [hstart, State.onDev, htest, State.onDev]
  exact ⟨_, hrun, j, by simp, rfl, rfl, Dev.sqTaken_fetch s.dev q j, Dev.sqTaken_regs s.dev q j⟩

/-! ## Retransmission (R260, R266, R267) -/

/-- A PSN as it is sent again: on the path after its last, with RETX, its timer doubled. -/
def IraTx.resent (y : IraTx) (paths : Nat) : IraTx :=
  { y with
    pkt := { y.pkt with path := (y.pkt.path + 1) % paths, flags := y.pkt.flags % 2 + 2 + (y.pkt.flags / 4) * 4 }
    tries := y.tries + 1, rto := 2 * y.rto, due := none }

theorem IraTx.resent_retx (y : IraTx) (paths : Nat) : bit (y.resent paths).pkt.flags 1 = true := by
  have hflags : (y.pkt.flags % 2 + 2 + (y.pkt.flags / 4) * 4) / 2 % 2 = 1 := by omega
  simp [bit, IraTx.resent, Nat.testBit_eq_decide_div_mod_eq, hflags]

/-- A PSN in flight that is to be sent again stays in flight, resent, through what the queue pair then sends. -/
theorem Dev.iraAgain_resends (d : Dev) (q : Nat) {y : IraTx} (hy : y ∈ (d.qp q).unacked) :
    ∃ c, { y.resent (d.qpPaths q) with at' := c } ∈ (((d.iraAgain q y.pkt.psn).iraGo q).qp q).unacked := by
  refine (SendLeaves.iraGo q _).unacked _ ?_
  rw [Dev.iraAgain, Dev.qp_setQp]
  exact List.mem_map.mpr ⟨y, hy, if_pos rfl⟩

theorem Dev.iraAgain_qpReady (d : Dev) (q psn : Nat) : ((d.iraAgain q psn).iraGo q).qpReady q = d.qpReady q := (SendLeaves.iraGo q _).qpReady

/-- The path's record of timed retransmissions leaves the PSNs in flight (R260). -/
theorem Dev.pathTimed_unacked (d : Dev) (q path : Nat) : ((d.pathTimed q path).qp q).unacked = (d.qp q).unacked := by
  unfold Dev.pathTimed
  dsimp only
  split
  · split <;> simp
  · simp

theorem Dev.pathTimed_reads (d : Dev) (q path : Nat) : ReadsBut [R.IQ_DEGRADED] d (d.pathTimed q path) := by
  unfold Dev.pathTimed
  dsimp only
  split
  · split
    · exact ((((ReadsBut.refl _ d).setQp q _).wr (g := R.IQ_DEGRADED) (by simp) _ _ _)).setQp q _
    · exact (ReadsBut.refl _ d).setQp q _
  · exact (ReadsBut.refl _ d).setQp q _

section
variable {q p : Nat} {x : IraTx} {s : State} (hqp : s.dev.qpReady q = true ∧ s.dev.ctxIn q = true)
  (hx : (s.dev.qp q).unacked.find? (fun y => y.pkt.psn == p) = some x)
include hqp hx

section
variable (hdue : x.due = none ∧ p ∉ (s.dev.qp q).again ∧ x.at' + x.rto < s.dev.cyc + 8)
include hdue

theorem exec_iraRtoExpire_lastTry (htries : s.dev.rd R.IQ_TIMERS_RETRY q ≤ x.tries) :
    exec (.iraRtoExpire q p) s = .next (s.onDev (fun d => d.qpError q 2 (x.job.map (fun j => (j, 0x22))))) := by
  simp [exec, execIraRtoExpire, State.onDev, hqp.1, hqp.2, hx, hdue.1, hdue.2.1, Nat.not_le.mpr hdue.2.2, htries]

theorem exec_iraRtoExpire_again (htries : x.tries < s.dev.rd R.IQ_TIMERS_RETRY q ∧ s.dev.qpRoce q = false) :
    exec (.iraRtoExpire q p) s = .next (s.onDev (fun d => (((d.ctxLatest q).pathTimed q x.pkt.path).iraAgain q p).iraGo q)) := by
  simp [exec, execIraRtoExpire, State.onDev, hqp.1, hqp.2, hx, hdue.1, hdue.2.1, Nat.not_le.mpr hdue.2.2, Nat.not_le.mpr htries.1, htries.2,
    Dev.ctxTouch_in _ q hqp.2, Dev.each]

end

theorem exec_iraRnrDelay_again {c : Nat} (hdue : x.due = some c ∧ c < s.dev.cyc + 8 ∧ s.dev.qpRoce q = false) :
    exec (.iraRnrDelay q p) s = .next (s.onDev (fun d => ((d.ctxLatest q).iraAgain q p).iraGo q)) := by
  simp [exec, execIraRnrDelay, State.onDev, hqp.1, hqp.2, hx, hdue.1, Nat.not_le.mpr hdue.2.1, hdue.2.2, Dev.ctxTouch_in _ q hqp.2, Dev.each]

end

/-- A timer that expires once more than the tries allow is an error with cause 2 (R267). -/
theorem iraRtoExpire_lastTry (q p : Nat) (x : IraTx) (s : State) (hqp : s.dev.qpReady q = true ∧ s.dev.ctxIn q = true)
    (hx : (s.dev.qp q).unacked.find? (fun y => y.pkt.psn == p) = some x)
    (hdue : x.due = none ∧ p ∉ (s.dev.qp q).again ∧ x.at' + x.rto < s.dev.cyc + 8) (htries : s.dev.rd R.IQ_TIMERS_RETRY q ≤ x.tries) :
    ∃ t, exec (.iraRtoExpire q p) s = .next t ∧ t.dev.qpState q = 2 ∧ t.dev.rd R.IQ_STATUS_ERR_CAUSE q = 2 :=
  ⟨_, exec_iraRtoExpire_lastTry hqp hx hdue htries, Dev.qpError_shows s.dev hqp.1 2 _⟩

/-- Before that the PSN is sent again. -/
theorem iraRtoExpire_resends (q p : Nat) (x : IraTx) (s : State) (hqp : s.dev.qpReady q = true ∧ s.dev.ctxIn q = true)
    (hx : (s.dev.qp q).unacked.find? (fun y => y.pkt.psn == p) = some x)
    (hdue : x.due = none ∧ p ∉ (s.dev.qp q).again ∧ x.at' + x.rto < s.dev.cyc + 8)
    (htries : x.tries < s.dev.rd R.IQ_TIMERS_RETRY q ∧ s.dev.qpRoce q = false) :
    ∃ t, exec (.iraRtoExpire q p) s = .next t ∧ ∃ y, y ∈ (t.dev.qp q).unacked ∧ y.pkt.psn = p ∧ y.tries = x.tries + 1 ∧ y.rto = 2 * x.rto ∧
      bit y.pkt.flags 1 = true ∧ t.dev.qpReady q = true := by
  obtain rfl : x.pkt.psn = p := by simpa using List.find?_some hx
  let d := (s.dev.ctxLatest q).pathTimed q x.pkt.path
  have hflight : x ∈ (d.qp q).unacked := by
    rw [Dev.pathTimed_unacked]
    exact List.mem_of_find?_eq_some hx
  have hready : d.qpReady q = true := ((Dev.pathTimed_reads _ _ _).qpReady (by decide) (by decide) q).trans hqp.1
  obtain ⟨c, hc⟩ := Dev.iraAgain_resends d q hflight
  exact ⟨_, exec_iraRtoExpire_again hqp hx hdue htries, _, hc, rfl, rfl, rfl, x.resent_retx _, (Dev.iraAgain_qpReady d q _).trans hready⟩

/-- So is one whose delay after a RETRY_LATER has ended (R267). -/
theorem iraRnrDelay_resends (q p c : Nat) (x : IraTx) (s : State) (hqp : s.dev.qpReady q = true ∧ s.dev.ctxIn q = true)
    (hx : (s.dev.qp q).unacked.find? (fun y => y.pkt.psn == p) = some x)
    (hdue : x.due = some c ∧ c < s.dev.cyc + 8 ∧ s.dev.qpRoce q = false) :
    ∃ t, exec (.iraRnrDelay q p) s = .next t ∧ ∃ y, y ∈ (t.dev.qp q).unacked ∧ y.pkt.psn = p ∧ y.tries = x.tries + 1 ∧ y.due = none ∧
      t.dev.qpReady q = true := by
  obtain rfl : x.pkt.psn = p := by simpa using List.find?_some hx
  obtain ⟨c, hc⟩ := Dev.iraAgain_resends (s.dev.ctxLatest q) q (List.mem_of_find?_eq_some hx)
  exact ⟨_, exec_iraRnrDelay_again hqp hx hdue, _, hc, rfl, rfl, rfl, (Dev.iraAgain_qpReady (s.dev.ctxLatest q) q _).trans hqp.1⟩

theorem iraRtoExpire_notReady (q p : Nat) (s : State) (h : s.dev.qpReady q = false) : ∃ t, exec (.iraRtoExpire q p) s = .next t ∧ t = s :=
  ⟨s, by simp [exec, execIraRtoExpire, State.onDev, h], rfl⟩

/-! ## What the receiver reports (R257, R265, R266) -/

/-- The PSNs that a NAK for a missing one reports with it: those of the 64 behind it that are missing too. -/
def Dev.missingAfter (d : Dev) (q g : Nat) : List Nat := (List.range 64).filter (fun i => SMap.has (d.qp q).gaps ((g + 1 + i) % 2 ^ 32))

/-- A NAK reports a missing PSN with those behind it, and their delays start anew. -/
def Dev.gapsReported (d : Dev) (q g : Nat) : Dev :=
  ((d.count R.IQ_NAK_TX 1 q).iraCtl q
    { op := 0x11, psn := g, ext := [1#8, 0#8, 0#8, 0#8] ++ beBytes 8 ((d.missingAfter q g).foldl (fun m i => m + 2 ^ i) 0) }).setQp q (fun x =>
      { x with gaps := x.gaps.map (fun y =>
          if (g :: (d.missingAfter q g).map (fun i => (g + 1 + i) % 2 ^ 32)).contains y.1 then (y.1, d.cyc) else y) })

theorem Dev.gapsReported_nakTx (d : Dev) (q g : Nat) : (d.gapsReported q g).rd R.IQ_NAK_TX q = (d.rd R.IQ_NAK_TX q + 1) % 2 ^ R.IQ_NAK_TX.width :=
  Dev.rd_count d R.IQ_NAK_TX 1 q 0

/-- The delay of the PSN that was due starts now. -/
theorem Dev.gapsReported_gaps (d : Dev) (q g : Nat) {y : Nat × Nat} (hy : y ∈ ((d.gapsReported q g).qp q).gaps) (hg : y.1 = g) : y.2 = d.cyc := by
  simp only [Dev.gapsReported, Dev.iraCtl, Dev.qp_setQp, List.mem_map] at hy
  obtain ⟨z, _, rfl⟩ := hy
  split at hg
  · next h => rw [if_pos h]
  · next h => exact absurd (by simp [hg]) h

theorem exec_iraNakDelay_due {q g c : Nat} {s : State} (hqp : s.dev.qpReady q = true ∧ s.dev.ctxIn q = true ∧ s.dev.qpRoce q = false)
    (hg : (s.dev.qp q).gaps.find? (fun g => decide (g.2 + s.dev.rd R.IR_NAK_DELAY < s.dev.cyc + 8)) = some (g, c)) :
    exec (.iraNakDelay q) s = .next (s.onDev (fun d => (d.gapsReported q g).iraGo q)) := by
  simp only [exec, execIraNakDelay, State.onDev, hqp.1, hqp.2.1, hqp.2.2, hg, Bool.not_true, Bool.or_false, Bool.false_eq_true, if_false]
  rfl

/-- A gap old enough is reported by a NAK. -/
theorem iraNakDelay_reports (q g c : Nat) (s : State) (hqp : s.dev.qpReady q = true ∧ s.dev.ctxIn q = true ∧ s.dev.qpRoce q = false)
    (hg : (s.dev.qp q).gaps.find? (fun g => decide (g.2 + s.dev.rd R.IR_NAK_DELAY < s.dev.cyc + 8)) = some (g, c)) :
    ∃ t, exec (.iraNakDelay q) s = .next t ∧ t.dev.rd R.IQ_NAK_TX q = (s.dev.rd R.IQ_NAK_TX q + 1) % 2 ^ R.IQ_NAK_TX.width ∧
      (∀ y, y ∈ (t.dev.qp q).gaps → y.1 = g → y.2 = s.dev.cyc) := by
  have hsent := SendLeaves.iraGo q (s.dev.gapsReported q g)
  refine ⟨_, exec_iraNakDelay_due hqp hg, (hsent.reads _ _ _ (by decide)).trans (Dev.gapsReported_nakTx _ _ _), fun y hy => ?_⟩
  exact Dev.gapsReported_gaps s.dev q g (hsent.gaps ▸ hy)

/-- An acknowledgement whose delay has ended is made, and none is owed (R265). -/
theorem iraAckDelay_acknowledges (q c : Nat) (s : State) (hqp : s.dev.qpReady q = true ∧ s.dev.ctxIn q = true)
    (hdue : (s.dev.qp q).ackFrom = some c ∧ c + s.dev.rd R.IR_ACK_DELAY * 10 < s.dev.cyc + 8) :
    ∃ t, exec (.iraAckDelay q) s = .next t ∧ (t.dev.qp q).ackFrom = none ∧ (t.dev.qp q).acks = 0 := by
  have hrun : exec (.iraAckDelay q) s = .next (s.onDev (fun d => (d.iraAck q).iraGo q)) := by
    simp [exec, execIraAckDelay, State.onDev, hqp.1, hqp.2, hdue.1, Nat.not_le.mpr hdue.2]
  have hsent := SendLeaves.iraGo q (s.dev.iraAck q)
  exact ⟨_, hrun, hsent.ackFrom.trans (by simp [Dev.iraAck, Dev.iraCtl]), hsent.acks.trans (by simp [Dev.iraAck, Dev.iraCtl])⟩

/-- With one packet without PSN to send, and room for it, that packet leaves. -/
theorem Dev.iraGo_ctl (d : Dev) {q : Nat} {p : IraPkt} (hqp : d.qpReady q = true ∧ d.ctxIn q = true)
    (hone : (d.qp q).ctl = [p] ∧ (d.qp q).again = [] ∧ (d.qp q).ready = [])
    (hroom : d.iraRoom q (d.qpDest q) p.path (32 + p.ext.length) = true) :
    d.iraGo q = (d.setQp q (fun x => { x with ctl := [] })).iraEmit q (d.qpDest q) p := by
  simp [Dev.iraGo, Dev.iraSend, hone.1, hone.2.1, hone.2.2, hqp.1, hqp.2, hroom]

/-- A grant that has waited 1 µs for a packet leaves in a CREDIT packet (R257). -/
theorem iraCreditTimer_sends (q c : Nat) (s : State) (hqp : s.dev.qpReady q = true ∧ s.dev.ctxIn q = true)
    (hdue : (s.dev.qp q).creditFrom = some c ∧ c + 1000 < s.dev.cyc + 8)
    (hidle : (s.dev.qp q).ctl = [] ∧ (s.dev.qp q).again = [] ∧ (s.dev.qp q).ready = [])
    (hroom : s.dev.iraRoom q (s.dev.qpDest q) 0 32 = true) :
    ∃ t, exec (.iraCreditTimer q) s = .next t ∧ t.dev.rd R.IQ_TX_PKTS q = (s.dev.rd R.IQ_TX_PKTS q + 1) % 2 ^ R.IQ_TX_PKTS.width ∧
      (t.dev.qp q).creditFrom = none ∧ (t.dev.qp q).ctl = [] := by
  let d := s.dev.iraCtl q { op := 0x12 }
  have hrun : exec (.iraCreditTimer q) s = .next (s.onDev (fun _ => d.iraGo q)) := by
    simp [exec, execIraCreditTimer, State.onDev, hqp.1, hqp.2, hdue.1, Nat.not_le.mpr hdue.2, d]
  have hgo := Dev.iraGo_ctl d (p := { op := 0x12 }) hqp (by simp [d, Dev.iraCtl, hidle]) hroom
  have hgone := Dev.iraEmit_leaves (d.setQp q (fun x => { x with ctl := [] })) q (d.qpDest q) { op := 0x12 }
  rw [hgo] at hrun
  refine ⟨_, hrun, (hgone.reads _ _ _ (by decide)).trans (Dev.rd_count _ _ _ _ _), ?_, ?_⟩
  · exact (congrArg QpState.creditFrom (hgone.qp q)).trans (by simp [Dev.sendCounted])
  · exact (congrArg QpState.ctl (hgone.qp q)).trans (by simp [Dev.sendCounted])

theorem iraCreditTimer_notReady (q : Nat) (s : State) (h : s.dev.qpReady q = false) : ∃ t, exec (.iraCreditTimer q) s = .next t ∧ t = s :=
  ⟨s, by simp [exec, execIraCreditTimer, State.onDev, h], rfl⟩

/-- Settles O47: an entry at FETCH becomes a job by one rule for each way of starting it, an error shows by `Dev.qpError_shows`, and what a queue
pair sends leaves the rest by `SendLeaves`. -/
theorem sendQueueJobsAndTimersRun : Obligations.SendQueueJobsAndTimersRun := by
  unfold Obligations.SendQueueJobsAndTimersRun
  exact ⟨sqCommand_readsPayload exec_sqWrite (by decide), sqCommand_readsPayload exec_sqWriteImm (by decide),
    sqCommand_readsPayload exec_sqSend (by decide), sqCommand_requests exec_sqRead (by decide), sqCommand_requests exec_sqFetchAdd (by decide),
    sqCommand_requests exec_sqCmpSwap (by decide), sqRead_denied, sqWait_holds, iraRtoExpire_lastTry, iraRtoExpire_resends, iraRnrDelay_resends,
    iraRtoExpire_notReady, iraNakDelay_reports, iraAckDelay_acknowledges, iraCreditTimer_sends, iraCreditTimer_notReady⟩

end Sys2Proof.Machine
end

