-- ==== Sys2Proof/Proofs/PacketReception.lean ====
section
/-!
PROOFS. Packets that reach RDMA: the packet at the head of the input and its queue pair (R246, R251), what it does by its opcode (R255), and what
its count and its grant leave (R257).
-/
namespace Sys2Proof.Machine

/-! ## The head of the input -/

/-- Without its first packets, the input of RDMA. -/
def Dev.iraInbox (d : Dev) (xs : List IraIn) : Dev := { d with ira := { d.ira with inbox := xs } }

section
variable (d : Dev)

@[simp] theorem Dev.iraInbox_iraParse (xs : List IraIn) (x : IraIn) : (d.iraInbox xs).iraParse x = d.iraParse x := rfl
@[simp] theorem Dev.iraInbox_qpReady (xs : List IraIn) (q : Nat) : (d.iraInbox xs).qpReady q = d.qpReady q := rfl
@[simp] theorem Dev.iraInbox_ctxIn (xs : List IraIn) (q : Nat) : (d.iraInbox xs).ctxIn q = d.ctxIn q := rfl
@[simp] theorem Dev.iraInbox_cmb (xs : List IraIn) : (d.iraInbox xs).ira.cmb = d.ira.cmb := rfl

/-- A packet that belongs to a row is not taken ahead of its turn. -/
theorem Dev.iraSweep_row {x : IraIn} {xs : List IraIn} (hbox : d.ira.inbox = x :: xs) (hrow : (d.iraParse x).row ≠ 0) (n : Nat) :
    Dev.iraSweep n d = d := by
  cases n with
  | zero => rfl
  | succ n => simp only [Dev.iraSweep, hbox, hrow, if_false]

/-- The packet at the head is taken by its own row. -/
theorem Dev.iraRow_arrives {x : IraIn} {xs : List IraIn} {op : Nat} (hon : d.iraOn = true) (hbox : d.ira.inbox = x :: xs)
    (hrow : (d.iraParse x).row = op) (hop : op ≠ 0) : d.iraRow op = (d.iraInbox xs).iraArrive x := by
  rw [Dev.iraRow, d.iraSweep_row hbox (hrow ▸ hop)]
  simp only [hon, Bool.not_true, Bool.false_eq_true, if_false, hbox, hrow, if_true]
  rfl

/-- It stays for another row. -/
theorem Dev.iraRow_leaves {x : IraIn} {xs : List IraIn} {op : Nat} (hon : d.iraOn = true) (hbox : d.ira.inbox = x :: xs)
    (hrow : (d.iraParse x).row ≠ 0 ∧ (d.iraParse x).row ≠ op) : d.iraRow op = d := by
  rw [Dev.iraRow, d.iraSweep_row hbox hrow.1]
  simp only [hon, Bool.not_true, Bool.false_eq_true, if_false, hbox, hrow.2]

/-- While RDMA is in reset none is taken (R273). -/
theorem Dev.iraRow_off (op : Nat) (hoff : d.iraOn = false) : d.iraRow op = d := by
  simp only [Dev.iraRow, hoff, Bool.not_false, if_true]

end

/-! ## A packet and its queue pair (R246) -/

/-- A well-formed packet has the opcode of its row. -/
theorem IraSrc.op_of_row {r : IraSrc} {op : Nat} {p : IraPkt}
    (hform : r.row = op ∧ r.roce = false ∧ r.good = true ∧ iraWell r.pay = some p ∧ 32 ≤ r.pay.length) : p.op = op := by
  obtain ⟨hrow, hroce, _, hwell, _⟩ := hform
  unfold iraWell at hwell
  split at hwell
  · exact absurd hwell.symm (Option.some_ne_none p)
  · next n hext =>
    simp only [Option.ite_none_right_eq_some, Option.some.injEq] at hwell
    obtain ⟨_, rfl⟩ := hwell
    simpa [IraSrc.row, hroce, hext, iraDecode] using hrow

/-- The queue pair that takes a packet: the packet is counted on it, and its context is the latest used. -/
def Dev.iraTaken (d : Dev) (q : Nat) (xs : List IraIn) : Dev := ((d.iraInbox xs).ctxTouch q).count R.IQ_RX_PKTS 1 q

section
variable {d : Dev} {x : IraIn} {xs : List IraIn} {r : IraSrc} {q op : Nat} {p : IraPkt}
  (hhead : d.iraOn = true ∧ d.ira.inbox = x :: xs ∧ r = d.iraParse x ∧ q = r.dqp)
  (hform : r.row = op ∧ r.roce = false ∧ r.good = true ∧ iraWell r.pay = some p ∧ 32 ≤ r.pay.length)
  (hqp : d.qpReady q = true ∧ d.ctxIn q = true ∧ (∀ y, y ∈ d.ira.cmb → y.1 ≠ q) ∧ d.iraSourceOk q r = true)
include hhead hform hqp

/-- A well-formed packet at the head, for a READY queue pair with its context on die and the right source, acts on it; then the queue pair places
and sends what it may. -/
theorem Dev.iraRow_acts (hop : op ≠ 0) : d.iraRow op = ((d.iraTaken q xs).iraAct q p).iraSettle q := by
  obtain ⟨hon, hbox, rfl, rfl⟩ := hhead
  obtain ⟨hrow, hroce, hgood, hwell, hlen⟩ := hform
  obtain ⟨hready, hin, hcmb, hsrc⟩ := hqp
  have hnone : d.ira.cmb.any (fun e => e.1 == (d.iraParse x).dqp) = false := by simpa using hcmb
  have harrives : (d.iraInbox xs).iraArrive x = (d.iraInbox xs).iraTake (d.iraParse x).dqp (d.iraParse x) := by
    simp [Dev.iraArrive, hgood, hroce, hready, hin, hnone, Nat.not_lt.mpr hlen]
  have hsource : ((d.iraInbox xs).ctxTouch (d.iraParse x).dqp).iraSourceOk (d.iraParse x).dqp (d.iraParse x) = true := by
    rw [Dev.ctxTouch_in (d.iraInbox xs) _ hin]
    exact hsrc
  rw [Dev.iraRow_arrives d hon hbox hrow hop, harrives, Dev.iraTake]
  simp only [hsource, hroce, hwell, Bool.not_true, Bool.false_eq_true, if_false]
  rfl

/-- The queue pair after the packet is counted and its grant heard. -/
def Dev.iraHeard (d : Dev) (q : Nat) (xs : List IraIn) (p : IraPkt) : Dev := (d.iraTaken q xs).iraGrantIn q p.grant

/-- A packet that carries or asks for data is judged as one with a PSN. -/
theorem Dev.iraRow_data (hdata : op ∈ [1, 2, 3, 4, 5, 6, 7, 8]) :
    d.iraRow op = ((d.iraHeard q xs p).iraDataIn q p).iraSettle q := by
  have hop := IraSrc.op_of_row hform
  have hrest : op ≠ 0 ∧ op ≠ 0x10 ∧ op ≠ 0x11 ∧ op ≠ 0x12 := by
    simp only [List.mem_cons, List.not_mem_nil, or_false] at hdata
    omega
  obtain ⟨hzero, hack, hnak, hcredit⟩ := hrest
  rw [Dev.iraRow_acts hhead hform hqp hzero, Dev.iraAct]
  simp only [hop, hack, hnak, hcredit, if_false]
  rfl

/-- An ACK retires the PSNs that it covers (R265). -/
theorem Dev.iraRow_ack (hack : op = 0x10) :
    d.iraRow op = ((d.iraHeard q xs p).iraRetire q (ackCovers p.psn (beNat (slice p.ext 0 8)))).iraSettle q := by
  have hop := (IraSrc.op_of_row hform).trans hack
  rw [Dev.iraRow_acts hhead hform hqp (by omega), Dev.iraAct, if_pos hop]
  rfl

/-- A NAK is judged by its code (Table 10.5). -/
theorem Dev.iraRow_nak (hnak : op = 0x11) : d.iraRow op = ((d.iraHeard q xs p).iraNakIn q p).iraSettle q := by
  have hop := (IraSrc.op_of_row hform).trans hnak
  rw [Dev.iraRow_acts hhead hform hqp (by omega), Dev.iraAct, if_neg (by omega), if_pos hop]
  rfl

/-- A CREDIT has its grant alone (R257). -/
theorem Dev.iraRow_credit (hcredit : op = 0x12) : d.iraRow op = (d.iraHeard q xs p).iraSettle q := by
  have hop := (IraSrc.op_of_row hform).trans hcredit
  rw [Dev.iraRow_acts hhead hform hqp (by omega), Dev.iraAct, if_neg (by omega), if_neg (by omega), if_pos hop]
  rfl

end

/-! ## What the count and the grant of a packet leave -/

/-- What a packet's arrival leaves before it acts: all but the count of packets, the credit, the input and the order of the contexts. -/
structure HeardLeaves (d : Dev) (q : Nat) (xs : List IraIn) (e : Dev) : Prop where
  regs : RegsBut d e [R.IQ_GRANT_TX.key q 0 0, R.IQ_RX_PKTS.key q 0 0]
  reads : ReadsBut [R.IQ_GRANT_TX, R.IQ_RX_PKTS] d e
  owner : e.qpOwner q = d.qpOwner q
  qp : e.qp q = d.qp q
  inbox : e.ira.inbox = xs
  locks : e.ira.locks = d.ira.locks
  mr : e.ira.mr = d.ira.mr
  host : e.host = d.host
  fnOut : e.fnOut = d.fnOut
  rst : e.rst = d.rst

theorem Dev.iraHeard_leaves {d : Dev} {q : Nat} (hin : d.ctxIn q = true) (xs : List IraIn) (p : IraPkt) :
    HeardLeaves d q xs (d.iraHeard q xs p) := by
  have hcounted : HeardLeaves d q xs (d.iraTaken q xs) := by
    rw [Dev.iraTaken, Dev.ctxTouch_in (d.iraInbox xs) q hin]
    exact ⟨(RegsBut.refl d _).wr (by simp) _, (ReadsBut.refl _ d).wr (by simp) _ _ _, Dev.qpOwner_wr _ (by decide) (by decide) _ _ _ _,
      rfl, rfl, rfl, rfl, rfl, rfl, rfl⟩
  unfold Dev.iraHeard Dev.iraGrantIn
  split
  · exact { hcounted with
      regs := hcounted.regs.wr (by simp) _
      reads := hcounted.reads.wr (by simp) _ _ _
      owner := (Dev.qpOwner_wr _ (by decide) (by decide) _ _ _ _).trans hcounted.owner }
  · exact hcounted

/-- A grant not below the credit becomes the credit (R257). -/
theorem Dev.iraHeard_grant {d : Dev} {q : Nat} (hin : d.ctxIn q = true) (xs : List IraIn) {p : IraPkt}
    (hraise : serialGe p.grant (d.rd R.IQ_GRANT_TX q) = true) : (d.iraHeard q xs p).rd R.IQ_GRANT_TX q = p.grant % 2 ^ 32 := by
  have hcredit : (d.iraTaken q xs).rd R.IQ_GRANT_TX q = d.rd R.IQ_GRANT_TX q := by
    rw [Dev.iraTaken, Dev.ctxTouch_in (d.iraInbox xs) q hin, Dev.count, Dev.rd_wr_apart _ (by decide)]
    rfl
  rw [Dev.iraHeard, Dev.iraGrantIn, hcredit, if_pos hraise, Dev.rd_wr]
  rfl

end Sys2Proof.Machine
end

