-- ==== Sys2Proof/Proofs/PacketPlacement.lean ====
section
/-!
PROOFS. A queue pair that settles, and a whole WRITE in PSN order from its acceptance to its release (R253, R257, R261, R265, R269); with them,
clause by clause, PacketsActOnTheirQueuePair.
-/
namespace Sys2Proof.Machine

/-! ## A queue pair's record, changed twice -/

theorem SMap.put_put {α : Type} (m : SMap α) (k : Nat) (a b : α) : SMap.put (SMap.put m k a) k b = SMap.put m k b := by
  induction m with
  | nil => simp [SMap.put]
  | cons e m ih =>
    obtain ⟨j, c⟩ := e
    by_cases hlt : k < j
    · simp [SMap.put, hlt]
    · by_cases heq : k = j
      · simp [SMap.put, heq]
      · simp [SMap.put, hlt, heq, ih]

theorem Dev.setQp_setQp (d : Dev) (q : Nat) (f g : QpState → QpState) : (d.setQp q f).setQp q g = d.setQp q (fun x => g (f x)) := by
  simp only [Dev.setQp, Dev.setIra, SMap.upd, SMap.getD_put_self, SMap.put_put]

/-! ## A queue pair at rest -/

/-- Nothing waits on a queue pair to be placed, cut or sent. -/
def QpState.AtRest (x : QpState) : Prop := x.held = [] ∧ x.jobs = [] ∧ x.ctl = [] ∧ x.again = [] ∧ x.ready = []

section
variable {d : Dev} {q : Nat}

theorem Dev.iraPump_none (hheld : (d.qp q).held = []) (n : Nat) : Dev.iraPump q n d = d := by
  cases n with
  | zero => rfl
  | succ n => rw [Dev.iraPump, hheld, List.find?_nil]

theorem Dev.iraWork_atRest (hrest : (d.qp q).AtRest) : d.iraWork q = d := by
  obtain ⟨_, hjobs, hctl, hagain, hready⟩ := hrest
  have hcut : Dev.iraCut q (d.qp q).jobs.length d = d := by rw [hjobs]; rfl
  rw [Dev.iraWork, hcut, Dev.iraGo, hctl, hagain, hready]
  rfl

theorem Dev.iraSettle_atRest (hrest : (d.qp q).AtRest) : d.iraSettle q = d := by
  rw [Dev.iraSettle, Dev.iraPump_none hrest.1, Dev.iraWork_atRest hrest]

/-- A held packet whose placement begins is held no longer. -/
def QpState.placing (x : QpState) (p : IraPkt) : QpState := { x with held := x.held.filter (fun y => y.psn != p.psn) }

/-- A queue pair that holds one packet alone, which may go, is at rest once its placement leaves it so. -/
theorem Dev.iraSettle_one {p : IraPkt} (hheld : (d.qp q).held = [p]) (hready : d.qpReady q = true) (hmay : d.iraMay q p = true) {e : Dev}
    (hplace : (d.setQp q (fun x => x.placing p)).iraPlace q p = e) (hrest : (e.qp q).AtRest) :
    d.iraSettle q = e := by
  have hpump : Dev.iraPump q ((d.qp q).held.length + 1) d = e := by
    rw [Dev.iraPump, hheld]
    simp only [List.find?_cons, hmay, hready, Bool.not_true, Bool.false_eq_true, if_false]
    refine (congrArg (Dev.iraPump q 1) hplace).trans ?_
    exact Dev.iraPump_none hrest.1 _
  rw [Dev.iraSettle, hpump, Dev.iraWork_atRest hrest]

end

/-! ## A whole WRITE in PSN order (R253, R257, R261, R265, R269) -/

section
variable (d : Dev) (q : Nat)

/-- A raise of the grant shows in the grant, and the queue pair may wait to tell it (R257). -/
theorem Dev.grantRaise_leaves : (d.grantRaise q).host = d.host ∧ ReadsBut [R.IQ_GRANT_RX] d (d.grantRaise q) ∧
    ∃ c, (d.grantRaise q).qp q = { d.qp q with creditFrom := c } := by
  unfold Dev.grantRaise
  dsimp only
  split
  · exact ⟨rfl, .refl _ d, _, rfl⟩
  · exact ⟨rfl, (ReadsBut.refl _ d).wr (by simp) _ _ _, _, Dev.qp_setQp _ _ _⟩

end

section
variable {d : Dev} {q : Nat} {p : IraPkt}

/-- A queue pair's record with one more packet held, which ends its PSN's gap and uses its credit. -/
def QpState.taking (x : QpState) (now : Nat) (p : IraPkt) : QpState :=
  { x with gaps := SMap.del x.gaps p.psn, lastRx := some now, units := (x.units + creditCost p.data.length) % 2 ^ 32, held := x.held ++ [p] }

/-- Nothing has been received on a queue pair beyond what it acknowledged. -/
def QpState.CaughtUp (x : QpState) : Prop := x.got = [] ∧ x.msgs = [] ∧ x.exec = none ∧ x.acks = 0

theorem QpState.CaughtUp.placing_taking {x : QpState} (h : x.CaughtUp) (now : Nat) (p : IraPkt) : ((x.taking now p).placing p).CaughtUp := h

/-- The one packet taken is placed, and none is held. -/
theorem QpState.AtRest.placing_taking {x : QpState} (h : x.AtRest) (now : Nat) (p : IraPkt) : ((x.taking now p).placing p).AtRest := by
  obtain ⟨hheld, hsending⟩ := h
  exact ⟨by simp [QpState.placing, QpState.taking, hheld], hsending⟩

theorem QpState.expMsn_placing_taking (x : QpState) (now : Nat) (p : IraPkt) : ((x.taking now p).placing p).expMsn = x.expMsn := rfl

theorem QpState.AtRest.held_taking {x : QpState} (h : x.AtRest) (now : Nat) (p : IraPkt) : (x.taking now p).held = [p] := by
  rw [QpState.taking, h.1, List.nil_append]

theorem QpState.AtRest.not_here {x : QpState} (h : x.AtRest) (hup : x.CaughtUp) (psn : Nat) : x.have' psn = false := by
  obtain ⟨hgot, _, hexec, _⟩ := hup
  simp [QpState.have', hgot, h.1, hexec]

/-- The PSN at A, if not here yet and with credit, joins those held. -/
theorem Dev.iraDataIn_next (hpsn : p.psn = d.rd R.IQ_RX_A q) (hnew : (d.qp q).have' p.psn = false)
    (hcredit : serialGe (d.rd R.IQ_GRANT_RX q) ((d.qp q).units + creditCost p.data.length) = true) :
    d.iraDataIn q p = d.setQp q (fun x => x.taking d.cyc p) := by
  have hrel : (p.psn + 2 ^ 32 - d.rd R.IQ_RX_A q) % 2 ^ 32 = 0 := by omega
  have hgaps : d.iraGaps q 0 p.psn = d.setQp q (fun x => { x with gaps := SMap.del x.gaps p.psn }) := rfl
  simp only [Dev.iraDataIn, hrel, hgaps, QpState.taking]
  simp [hnew, hcredit, Dev.when, Dev.setQp_setQp]

/-- A WRITE whose turn it is may go, with no atomic in progress. -/
theorem Dev.iraMay_write (hop : p.op = 1) (hturn : p.msn = (d.qp q).expMsn) (hlocks : d.ira.locks = []) : d.iraMay q p = true := by
  simp [Dev.iraMay, hop, hturn, Dev.iraLocked, hlocks]

/-- A passes its PSN, with none placed above it, and a PSN more waits for an acknowledgement (R265). -/
def Dev.iraPassed (d : Dev) (q : Nat) : Dev :=
  (d.wr R.IQ_RX_A ((d.rd R.IQ_RX_A q + 1) % 2 ^ 32) q).setQp q
    (fun x => { x with got := [], acks := x.acks + 1, ackFrom := some (x.ackFrom.getD d.cyc) })

/-- The PSN at A, placed alone, makes A pass it and raises the grant; no acknowledgement is due for it yet (R265). -/
theorem Dev.iraPsnDone_alone (hroce : d.qpRoce q = false) (hpsn : p.psn = d.rd R.IQ_RX_A q) (hgot : (d.qp q).got = [])
    (hacks : (d.qp q).acks = 0) (hflags : p.flags = 0) (hevery : 1 < d.rd R.IR_ACK_EVERY) :
    d.iraPsnDone q p = (d.iraPassed q).grantRaise q := by
  have hadvance : psnAdvance (2 ^ 32) ((d.qp q).got.length + 1) (d.rd R.IQ_RX_A q) ((d.qp q).got ++ [p.psn]) =
      ((d.rd R.IQ_RX_A q + 1) % 2 ^ 32, []) := by
    simp [hgot, hpsn, psnAdvance]
  obtain ⟨_, hreads, c, hqp⟩ := Dev.grantRaise_leaves (d.iraPassed q) q
  have hnotDue : ¬ (((d.iraPassed q).grantRaise q).rd R.IR_ACK_EVERY ≤ (((d.iraPassed q).grantRaise q).qp q).acks ∨ bit p.flags 2 = true ∨
      (p.fence = true ∧ p.off + p.data.length = p.mlen)) := by
    have hkept : ((d.iraPassed q).grantRaise q).rd R.IR_ACK_EVERY = d.rd R.IR_ACK_EVERY :=
      (hreads _ _ _ (by decide)).trans (Dev.rd_wr_apart d (by decide) _ _ _ _ _)
    have hone : (((d.iraPassed q).grantRaise q).qp q).acks = 1 := by rw [hqp, Dev.iraPassed, Dev.qp_setQp, Dev.wr_qp, hacks]
    simp [hkept, hone, hflags, bit, IraPkt.fence, hevery]
  simp only [Dev.iraPsnDone, hroce, Bool.false_eq_true, if_false, hadvance]
  exact if_neg hnotDue

/-- A message whose turn it is and whose bytes are all there is released at once (R269). -/
theorem Dev.iraMsgPut_turn {m : IraMsg} (hmsgs : (d.qp q).msgs = []) (hop : m.op = 1) (hstatus : m.status = 0) (hfull : m.full = true) :
    d.iraMsgPut q (d.qp q).expMsn m = ((d.setQp q (fun x => { x with msgs := SMap.put x.msgs (d.qp q).expMsn m })).setQp q
      (fun x => { x with msgs := SMap.del x.msgs x.expMsn, expMsn := (x.expMsn + 1) % 2 ^ 32 })).count R.IQ_RX_COUNT 1 q := by
  simp [Dev.iraMsgPut, hmsgs, SMap.put, Dev.iraRelease, SMap.get?, hfull, hop, hstatus]

/-- What the placement of a message's only packet leaves: nothing to do on a queue pair that had nothing else, host memory as it was, A, the
expected MSN and the count of messages each advanced by one. -/
structure MessageDone (q : Nat) (d e : Dev) : Prop where
  host : e.host = d.host
  rest : (d.qp q).AtRest → (e.qp q).AtRest
  rxA : e.rd R.IQ_RX_A q = (d.rd R.IQ_RX_A q + 1) % 2 ^ 32
  rxCount : e.rd R.IQ_RX_COUNT q = (d.rd R.IQ_RX_COUNT q + 1) % 2 ^ R.IQ_RX_COUNT.width
  expMsn : (e.qp q).expMsn = ((d.qp q).expMsn + 1) % 2 ^ 32

/-- The only packet of a WRITE whose turn it is has been written: its message is complete, released and counted (R261, R269). -/
theorem Dev.iraPlaced_whole (hroce : d.qpRoce q = false) (hpsn : p.psn = d.rd R.IQ_RX_A q) (hgot : (d.qp q).got = [])
    (hacks : (d.qp q).acks = 0) (hflags : p.flags = 0) (hevery : 1 < d.rd R.IR_ACK_EVERY) (hmsgs : (d.qp q).msgs = []) (hop : p.op = 1)
    (hmsn : p.msn = (d.qp q).expMsn) (hoff : p.off = 0) (hlen : p.mlen = p.data.length) : MessageDone q d (d.iraPlaced q p) := by
  obtain ⟨hhost, hreads, c, hqp⟩ := Dev.grantRaise_leaves (d.iraPassed q) q
  have hmsgs' : (((d.iraPassed q).grantRaise q).qp q).msgs = [] := by
    rw [hqp, Dev.iraPassed, Dev.qp_setQp, Dev.wr_qp]; exact hmsgs
  have hmsn' : p.msn = (((d.iraPassed q).grantRaise q).qp q).expMsn := by
    rw [hqp, Dev.iraPassed, Dev.qp_setQp, Dev.wr_qp]; exact hmsn
  have hplaced : d.iraPlaced q p = ((d.iraPassed q).grantRaise q).iraMsgPut q p.msn
      { op := 1, len := p.mlen, got := [(0, p.data.length)], full := true } := by
    rw [Dev.iraPlaced, Dev.iraPsnDone_alone hroce hpsn hgot hacks hflags hevery]
    simp [hroce, hmsgs', hop, hoff, hlen, Dev.when, SMap.getD, SMap.get?]
  rw [hplaced, hmsn', Dev.iraMsgPut_turn hmsgs' rfl rfl rfl]
  refine ⟨?_, fun hrest => ?_, ?_, ?_, ?_⟩
  · rw [Dev.count_host, Dev.setQp_host, Dev.setQp_host, hhost]
    rfl
  · rw [Dev.count_qp, Dev.qp_setQp, Dev.qp_setQp, hqp, Dev.iraPassed, Dev.qp_setQp, Dev.wr_qp]
    exact hrest
  · rw [Dev.count, Dev.rd_wr_apart _ (by decide), Dev.setQp_rd, Dev.setQp_rd, hreads _ _ _ (by decide), Dev.iraPassed, Dev.setQp_rd, Dev.rd_wr]
    exact Nat.mod_mod _ _
  · rw [Dev.rd_count, Dev.setQp_rd, Dev.setQp_rd, hreads _ _ _ (by decide), Dev.iraPassed, Dev.setQp_rd, Dev.rd_wr_apart _ (by decide)]
  · rw [Dev.count_qp, Dev.qp_setQp, Dev.qp_setQp, hqp, Dev.iraPassed, Dev.qp_setQp, Dev.wr_qp]

end

/-- A whole WRITE in PSN order and in turn, into a range that its key allows, for a queue pair at rest with nothing received beyond
what it acknowledged. -/
structure WholeWrite (d : Dev) (q : Nat) (p : IraPkt) : Prop where
  ready : d.qpReady q = true
  roce : d.qpRoce q = false
  rest : (d.qp q).AtRest
  received : (d.qp q).CaughtUp
  psn : p.psn = d.rd R.IQ_RX_A q
  turn : p.msn = (d.qp q).expMsn
  whole : p.op = 1 ∧ p.off = 0 ∧ p.mlen = p.data.length ∧ p.data ≠ [] ∧ p.flags = 0
  key : d.mrAllows q p.key mrRemoteWrite p.va p.data.length = true
  unlocked : d.ira.locks = []
  ackEvery : 1 < d.rd R.IR_ACK_EVERY
  host : d.hostReset = false ∧ d.qpFn q ∉ d.fnOut

/-- What it does: its bytes are written to host memory at its address, A and the expected MSN advance by one, and the messages are counted. -/
structure WriteDone (d : Dev) (q : Nat) (p : IraPkt) (e : Dev) : Prop where
  out : e.host.out = d.host.out ++ [⟨d.qpFn q, p.va % 2 ^ 64, p.data⟩]
  rxA : e.rd R.IQ_RX_A q = (d.rd R.IQ_RX_A q + 1) % 2 ^ 32
  rxCount : e.rd R.IQ_RX_COUNT q = (d.rd R.IQ_RX_COUNT q + 1) % 2 ^ R.IQ_RX_COUNT.width
  expMsn : (e.qp q).expMsn = ((d.qp q).expMsn + 1) % 2 ^ 32

namespace WholeWrite

section
variable {d : Dev} {q : Nat} {p : IraPkt} (h : WholeWrite d q p)
include h

/-- Its bytes go to host memory, then its message is complete. -/
theorem place : WriteDone d q p (d.iraPlace q p) ∧ ((d.iraPlace q p).qp q).AtRest := by
  obtain ⟨hop, hoff, hlen, hdata, hflags⟩ := h.whole
  obtain ⟨hgot, hmsgs, _, hacks⟩ := h.received
  have hplace : d.iraPlace q p = (d.setHost (fun y => { y with out := y.out ++ [⟨d.qpFn q, p.va % 2 ^ 64, p.data⟩] })).iraPlaced q p := by
    rw [← Dev.hostWrite_eq d h.host.1 h.host.2]
    simp [Dev.iraPlace, hop, hoff, h.key, hdata]
  have hdone := Dev.iraPlaced_whole (d := d.setHost (fun y => { y with out := y.out ++ [⟨d.qpFn q, p.va % 2 ^ 64, p.data⟩] }))
    h.roce h.psn hgot hacks hflags h.ackEvery hmsgs hop h.turn hoff hlen
  rw [hplace]
  exact ⟨⟨congrArg HostState.out hdone.host, hdone.rxA, hdone.rxCount, hdone.expMsn⟩, hdone.rest h.rest⟩

/-- It stays one after a change of the queue pair's record that leaves what it rests on. -/
theorem setQp {f : QpState → QpState} (hrest : (f (d.qp q)).AtRest) (hreceived : (f (d.qp q)).CaughtUp)
    (hturn : (f (d.qp q)).expMsn = (d.qp q).expMsn) : WholeWrite (d.setQp q f) q p :=
  { h with
    rest := by rw [Dev.qp_setQp]; exact hrest
    received := by rw [Dev.qp_setQp]; exact hreceived
    turn := by rw [Dev.qp_setQp, hturn]; exact h.turn }

/-- With credit it is taken, placed at once, and leaves the queue pair at rest. -/
theorem arrives (hcredit : serialGe (d.rd R.IQ_GRANT_RX q) ((d.qp q).units + creditCost p.data.length) = true) :
    WriteDone d q p ((d.iraDataIn q p).iraSettle q) := by
  have hplaced : WholeWrite (d.setQp q (fun x => (x.taking d.cyc p).placing p)) q p :=
    h.setQp (h.rest.placing_taking _ _) (h.received.placing_taking _ _) (QpState.expMsn_placing_taking _ _ _)
  obtain ⟨hdone, hrest⟩ := hplaced.place
  have hmay : (d.setQp q (fun x => x.taking d.cyc p)).iraMay q p = true :=
    Dev.iraMay_write h.whole.1 (by rw [Dev.qp_setQp]; exact h.turn) h.unlocked
  have hsettle := Dev.iraSettle_one (d := d.setQp q (fun x => x.taking d.cyc p)) (by rw [Dev.qp_setQp, h.rest.held_taking]) h.ready hmay
    (congrArg (Dev.iraPlace · q p) (Dev.setQp_setQp d q _ _)) hrest
  rw [Dev.iraDataIn_next h.psn (h.rest.not_here h.received _) hcredit, hsettle]
  exact ⟨hdone.out, hdone.rxA, hdone.rxCount, hdone.expMsn.trans (by rw [Dev.qp_setQp, QpState.expMsn_placing_taking])⟩

end

end WholeWrite

/-- It is one all the same once the packet is counted and its grant heard. -/
theorem WholeWrite.heard {d e : Dev} {q : Nat} {p : IraPkt} {xs : List IraIn} (h : WholeWrite d q p) (hheard : HeardLeaves d q xs e) :
    WholeWrite e q p where
  ready := (hheard.reads.qpReady (by decide) (by decide) q).trans h.ready
  roce := (hheard.reads.on (by decide) q 0).trans h.roce
  rest := by rw [hheard.qp]; exact h.rest
  received := by rw [hheard.qp]; exact h.received
  psn := by rw [hheard.reads _ _ _ (by decide)]; exact h.psn
  turn := by rw [hheard.qp]; exact h.turn
  whole := h.whole
  key := by
    rw [Dev.mrAllows, Dev.mrOf, hheard.mr, hheard.owner, hheard.reads _ _ _ (by decide)]
    exact h.key
  unlocked := hheard.locks.trans h.unlocked
  ackEvery := by rw [hheard.reads _ _ _ (by decide)]; exact h.ackEvery
  host := by
    rw [Dev.hostReset, hheard.rst, Dev.qpFn, hheard.owner, hheard.fnOut]
    exact h.host

/-- What a WRITE did to a queue pair that had heard the packet, it did to it as it was. -/
theorem WriteDone.of_heard {d e e' : Dev} {q : Nat} {p : IraPkt} {xs : List IraIn} (h : WriteDone e q p e') (hheard : HeardLeaves d q xs e) :
    WriteDone d q p e' where
  out := by rw [h.out, hheard.host, Dev.qpFn, hheard.owner, Dev.qpFn]
  rxA := by rw [h.rxA, hheard.reads _ _ _ (by decide)]
  rxCount := by rw [h.rxCount, hheard.reads _ _ _ (by decide)]
  expMsn := by rw [h.expMsn, hheard.qp]

/-! ## The packets' rows -/

/-- A row's instruction lets a well-formed packet of its opcode, at the head of the input, act on its queue pair as `act` says; then the queue pair
places and sends what it may. -/
def RowActs (i : Instr) (op : Nat) (act : Dev → Nat → IraPkt → Dev) : Prop :=
  ∀ (x : IraIn) (xs : List IraIn) (r : IraSrc) (q : Nat) (p : IraPkt) (e : Dev) (s : State),
    s.dev.iraOn = true ∧ s.dev.ira.inbox = x :: xs ∧ r = s.dev.iraParse x ∧ q = r.dqp →
    r.row = op ∧ r.roce = false ∧ r.good = true ∧ iraWell r.pay = some p ∧ 32 ≤ r.pay.length →
    s.dev.qpReady q = true ∧ s.dev.ctxIn q = true ∧ (∀ y, y ∈ s.dev.ira.cmb → y.1 ≠ q) ∧ s.dev.iraSourceOk q r = true →
    e = s.dev.iraHeard q xs p → ∃ t, exec i s = .next t ∧ t = { s with dev := (act e q p).iraSettle q }

/-- The rows of data. -/
theorem RowActs.data {i : Instr} {op : Nat} (hexec : ∀ s, exec i s = .next (s.onDev (fun d => d.iraRow op)))
    (hdata : op ∈ [1, 2, 3, 4, 5, 6, 7, 8]) : RowActs i op Dev.iraDataIn := by
  rintro x xs r q p _ s hhead hform hqp rfl
  exact ⟨_, hexec s, congrArg (fun d => { s with dev := d }) (Dev.iraRow_data hhead hform hqp hdata)⟩

theorem RowActs.ack : RowActs .ack 0x10 (fun e q p => e.iraRetire q (ackCovers p.psn (beNat (slice p.ext 0 8)))) := by
  rintro x xs r q p _ s hhead hform hqp rfl
  exact ⟨_, rfl, congrArg (fun d => { s with dev := d }) (Dev.iraRow_ack hhead hform hqp rfl)⟩

theorem RowActs.nak : RowActs .nak 0x11 Dev.iraNakIn := by
  rintro x xs r q p _ s hhead hform hqp rfl
  exact ⟨_, rfl, congrArg (fun d => { s with dev := d }) (Dev.iraRow_nak hhead hform hqp rfl)⟩

theorem RowActs.credit : RowActs .credit 0x12 (fun e _ _ => e) := by
  rintro x xs r q p _ s hhead hform hqp rfl
  exact ⟨_, rfl, congrArg (fun d => { s with dev := d }) (Dev.iraRow_credit hhead hform hqp rfl)⟩

/-- The source of an IRA packet is right for an IRA queue pair alone. -/
theorem Dev.qpRoce_of_source {d : Dev} {q : Nat} {r : IraSrc} (hroce : r.roce = false) (hsrc : d.iraSourceOk q r = true) : d.qpRoce q = false := by
  rw [Dev.iraSourceOk, Bool.and_eq_true, Bool.and_eq_true, hroce] at hsrc
  obtain ⟨⟨hsame, _⟩, _⟩ := hsrc
  exact (beq_iff_eq.mp hsame).symm

/-- Settles O48: the packet at the head is counted and heard on its queue pair and acts by its opcode; a whole WRITE is followed through its
acceptance, placement and release. -/
theorem packetsActOnTheirQueuePair : Obligations.PacketsActOnTheirQueuePair := by
  refine ⟨RowActs.data (fun _ => rfl) (by decide), RowActs.data (fun _ => rfl) (by decide), RowActs.data (fun _ => rfl) (by decide),
    RowActs.data (fun _ => rfl) (by decide), RowActs.data (fun _ => rfl) (by decide), RowActs.data (fun _ => rfl) (by decide),
    RowActs.data (fun _ => rfl) (by decide), RowActs.data (fun _ => rfl) (by decide), RowActs.ack, RowActs.nak, RowActs.credit,
    ?wholeWrite, ?grant, ?anotherRow, ?inReset⟩
  case wholeWrite =>
    intro x xs r q p s hhead hform hqp hqueue hpkt hkey hcredit hhost
    obtain ⟨hheld, hjobs, hctl, hagain, hready, hgot, _, hmsgs, hexec, hacks⟩ := hqueue
    obtain ⟨hpsn, _, hmsn, hoff, hlen, hdata, hflags⟩ := hpkt
    have hop := IraSrc.op_of_row hform
    obtain ⟨hallows, hlocks⟩ := hkey
    obtain ⟨hcredit, hevery⟩ := hcredit
    have ⟨_, hroce, _⟩ := hform
    have ⟨hup, hin, _, hsrc⟩ := hqp
    have hwrite : WholeWrite s.dev q p :=
      { ready := hup, roce := Dev.qpRoce_of_source hroce hsrc, rest := ⟨hheld, hjobs, hctl, hagain, hready⟩
        received := ⟨hgot, hmsgs, hexec, hacks⟩, psn := hpsn, turn := hmsn, whole := ⟨hop, hoff, hlen, hdata, hflags⟩
        key := hallows, unlocked := hlocks, ackEvery := hevery, host := hhost }
    have hleaves := Dev.iraHeard_leaves hin xs p
    have hdone := (hwrite.heard hleaves).arrives (by rw [hleaves.qp, hleaves.reads _ _ _ (by decide)]; exact hcredit)
    rw [← Dev.iraRow_data hhead hform hqp (by decide)] at hdone
    have hdone := hdone.of_heard hleaves
    exact ⟨_, rfl, hdone.out, hdone.rxA, hdone.rxCount, hdone.expMsn⟩
  case grant =>
    intro x xs r q p s hhead hform hqp hrest hraise
    have ⟨_, hin, _, _⟩ := hqp
    have hleaves := Dev.iraHeard_leaves hin xs p
    refine ⟨_, rfl, ?_⟩
    have hdev : (s.onDev (fun d => d.iraRow 0x12)).dev = s.dev.iraHeard q xs p :=
      (Dev.iraRow_credit hhead hform hqp rfl).trans (Dev.iraSettle_atRest (hleaves.qp ▸ hrest))
    rw [hdev]
    exact ⟨Dev.iraHeard_grant hin xs hraise, hleaves.inbox, hleaves.regs⟩
  case anotherRow =>
    intro x xs s ⟨hon, hbox⟩ hrow
    exact ⟨_, rfl, congrArg (fun d => { s with dev := d }) (Dev.iraRow_leaves s.dev hon hbox hrow)⟩
  case inReset =>
    intro s hoff
    exact ⟨_, rfl, congrArg (fun d => { s with dev := d }) (Dev.iraRow_off s.dev 0x10 hoff)⟩

end Sys2Proof.Machine
end

