-- ==== Sys2Proof/Proofs/QueuePairEnable.lean ====
section
/-!
PROOFS. What an accepted enable leaves of a queue pair's record (R248, R260), against clause 6 of RegionsAndQueuePairsAreSetUp.
-/
namespace Sys2Proof.Machine

/-- An accepted enable begins a new record but for the degraded paths, which stay so for their 1 ms (R260, and the assumption log on R249 and R260). -/
theorem Dev.iqEnable_keeps_degraded {req q fn : Nat} {s t : State} (hreach : s.dev.qpReach req q = true) (howner : s.dev.qpOwner q = some fn)
    (hreset : s.dev.qpState q = 0) (hcause : s.dev.qpCause q fn = 0) (hnext : exec (.iqEnable req q) s = .next t) :
    t.dev.qp q = { degraded := (s.dev.qp q).degraded } := by
  have howner' : (s.dev.sampleWrite req q).qpOwner q = some fn := howner
  have hreset' : (s.dev.sampleWrite req q).qpState q = 0 := hreset
  have hcause' : (s.dev.sampleWrite req q).qpCause q fn = 0 := hcause
  obtain rfl := Host.Outcome.next.inj hnext
  simp only [State.onDev, hreach, howner', hreset', hcause', Bool.not_true, Bool.false_eq_true, if_false, ne_eq, not_true_eq_false, List.foldl_cons,
    List.foldl_nil, Dev.wr_qp, Dev.flag_qp, Dev.qp_setQp]
  rfl

/-- Queue pair 5 of PF 1 in RESET, fit to be enabled on the fabric, one of whose paths, 2, was degraded shortly before. -/
def resetWithDegradedPath : State := State.reset.onDev (fun d =>
  (((((((d.wr R.FN_QP_BASE 5 1).wr R.FN_QP_COUNT 1 1).wr R.IQ_CFG_TRANSPORT 2 5).wr R.IQ_CFG_MTU 0 5).wr R.SQ_CFG_LOG2_SIZE 6 5).wr
    R.RQ_CFG_LOG2_SIZE 6 5).wr R.IQ_DEGRADED 4 5).setQp 5 (fun x => { x with degraded := [(2, 1000000)] }))

/-- Refutes O46: clause 6 has the whole record of a queue pair begin anew at an accepted enable, but a path that was degraded before stays so. -/
theorem not_regionsAndQueuePairsAreSetUp : ¬ Obligations.RegionsAndQueuePairsAreSetUp := by
  rintro ⟨_, _, _, _, _, enable_starts, _⟩
  have hreach : resetWithDegradedPath.dev.qpReach 0 5 = true := by decide +kernel
  have howner : resetWithDegradedPath.dev.qpOwner 5 = some 1 := by decide +kernel
  have hreset : resetWithDegradedPath.dev.qpState 5 = 0 := by decide +kernel
  have hcause : resetWithDegradedPath.dev.qpCause 5 1 = 0 := by decide +kernel
  have hdegraded : (resetWithDegradedPath.dev.qp 5).degraded = [(2, 1000000)] := by decide +kernel
  obtain ⟨t, hnext, _, hanew, _⟩ := enable_starts 0 5 1 resetWithDegradedPath hreach ⟨howner, hreset⟩ hcause
  have hkept := Dev.iqEnable_keeps_degraded hreach howner hreset hcause hnext
  rw [hanew, hdegraded] at hkept
  exact absurd (congrArg QpState.degraded hkept) (by decide)

end Sys2Proof.Machine
end
